-- ==== Sys2Proof/Word.lean ====
section
/-!
DEFINITION. The word types of the KN-40 and the small closed types that instruction words and events name:
strands (02_tile.md Table 2-1) and PCIe functions (12_queue.md R282).
-/
namespace Sys2Proof

/-- A byte of memory. -/
abbrev Byte := BitVec 8

/-- A 32-bit instruction or extension word (04_lines.md R72). -/
abbrev W32 := BitVec 32

/-- A 64-bit register value. -/
abbrev W64 := BitVec 64

/-- A 512-byte vector, one row of register space (02_tile.md R28): byte `i` is bits `[8i+7:8i]`. -/
abbrev Vec := BitVec 4096

/-- The number of tiles of the package (01_device.md R12, R14): die `d`, row `y`, column `x` is
`d * 160 + y * 16 + x` (00_scope.md). -/
abbrev nTiles : Nat := 640

/-- A physical tile number. -/
abbrev TileNo := Fin 640

/-- The eight strands of a tile, in the positions of 02_tile.md Table 2-1. -/
inductive Strand where
  | control | vector | load | store | matrix | transform | send | receive
  deriving DecidableEq, Repr, Inhabited

/-- The position of a strand in Table 2-1 (tag minus one). -/
def Strand.pos : Strand → Nat
  | .control => 0 | .vector => 1 | .load => 2 | .store => 3
  | .matrix => 4 | .transform => 5 | .send => 6 | .receive => 7

/-- The strand at a position of Table 2-1. -/
def Strand.ofPos : Nat → Option Strand
  | 0 => some .control | 1 => some .vector | 2 => some .load | 3 => some .store
  | 4 => some .matrix | 5 => some .transform | 6 => some .send | 7 => some .receive
  | _ => none

/-- All strands in Table 2-1 order. -/
def Strand.all : List Strand :=
  [.control, .vector, .load, .store, .matrix, .transform, .send, .receive]

/-- The PCIe function an access of the host is made through: the physical function, or virtual function `n`,
which serves context `n` (11_context.md R255). -/
inductive HostFn where
  | physical
  | virtual (ctx : BitVec 6)
  deriving DecidableEq, Repr, Inhabited

end Sys2Proof
end

