-- ==== Sys2Proof/Syntax.lean ====
section
/-!
DEFINITION. The abstract syntax: ONE inductive, one constructor per row of spec/opcode_table.json.
The first 216 rows are instruction words; their fields keep the letters of the table, and `x` holds the extension words that
the form takes (04_lines.md R77).  The other 135 rows are the steps of the agents beside the strands (fetch, engines, Hearth,
fabric, host): their arguments name the object the step acts on and what the surroundings supply (95_what_each_step_holds.md).
-/
namespace Sys2Proof

/-- One instruction word or one step of an agent. -/
inductive Instr where
  /-- R110: s[d] := s[a] + s[b], modulo 2^64, latency 1. -/
  | add (d : BitVec 5) (a : BitVec 5) (b : BitVec 5) (p : BitVec 3) (n : BitVec 1)
  /-- R110: s[d] := s[a] − s[b], modulo 2^64. -/
  | sub (d : BitVec 5) (a : BitVec 5) (b : BitVec 5) (p : BitVec 3) (n : BitVec 1)
  /-- R110: Bitwise AND of s[a] and s[b] into s[d]. -/
  | and (d : BitVec 5) (a : BitVec 5) (b : BitVec 5) (p : BitVec 3) (n : BitVec 1)
  /-- R110: Bitwise OR of s[a] and s[b] into s[d]. -/
  | or (d : BitVec 5) (a : BitVec 5) (b : BitVec 5) (p : BitVec 3) (n : BitVec 1)
  /-- R110: Bitwise XOR of s[a] and s[b] into s[d]. -/
  | xor (d : BitVec 5) (a : BitVec 5) (b : BitVec 5) (p : BitVec 3) (n : BitVec 1)
  /-- R110: s[d] := s[a] AND NOT s[b]. -/
  | andn (d : BitVec 5) (a : BitVec 5) (b : BitVec 5) (p : BitVec 3) (n : BitVec 1)
  /-- R110: s[a] shifted left by s[b][5:0], zeros in. -/
  | shl (d : BitVec 5) (a : BitVec 5) (b : BitVec 5) (p : BitVec 3) (n : BitVec 1)
  /-- R110: s[a] shifted right logically by s[b][5:0]. -/
  | shr (d : BitVec 5) (a : BitVec 5) (b : BitVec 5) (p : BitVec 3) (n : BitVec 1)
  /-- R110: s[a] shifted right arithmetically by s[b][5:0]. -/
  | sra (d : BitVec 5) (a : BitVec 5) (b : BitVec 5) (p : BitVec 3) (n : BitVec 1)
  /-- R110: Signed minimum of s[a] and s[b]. -/
  | min (d : BitVec 5) (a : BitVec 5) (b : BitVec 5) (p : BitVec 3) (n : BitVec 1)
  /-- R110: Signed maximum of s[a] and s[b]. -/
  | max (d : BitVec 5) (a : BitVec 5) (b : BitVec 5) (p : BitVec 3) (n : BitVec 1)
  /-- R110: Unsigned minimum of s[a] and s[b]. -/
  | minu (d : BitVec 5) (a : BitVec 5) (b : BitVec 5) (p : BitVec 3) (n : BitVec 1)
  /-- R110: Unsigned maximum of s[a] and s[b]. -/
  | maxu (d : BitVec 5) (a : BitVec 5) (b : BitVec 5) (p : BitVec 3) (n : BitVec 1)
  /-- R110: Count of leading zeros of s[a], 0–64. -/
  | clz (d : BitVec 5) (a : BitVec 5) (p : BitVec 3) (n : BitVec 1)
  /-- R110: Count of trailing zeros of s[a], 0–64. -/
  | ctz (d : BitVec 5) (a : BitVec 5) (p : BitVec 3) (n : BitVec 1)
  /-- R110: Number of 1 bits of s[a]. -/
  | popc (d : BitVec 5) (a : BitVec 5) (p : BitVec 3) (n : BitVec 1)
  /-- R110: s[d] := s[a] if p[p] XOR pn, otherwise s[b]; unguarded. -/
  | sel (d : BitVec 5) (a : BitVec 5) (b : BitVec 5) (p : BitVec 3) (n : BitVec 1)
  /-- R110: Word add on bits [31:0], result sign-extended. -/
  | addW (d : BitVec 5) (a : BitVec 5) (b : BitVec 5) (p : BitVec 3) (n : BitVec 1)
  /-- R110: Word subtract on bits [31:0], result sign-extended. -/
  | subW (d : BitVec 5) (a : BitVec 5) (b : BitVec 5) (p : BitVec 3) (n : BitVec 1)
  /-- R110: Word shift left by s[b][4:0]. -/
  | shlW (d : BitVec 5) (a : BitVec 5) (b : BitVec 5) (p : BitVec 3) (n : BitVec 1)
  /-- R110: Word logical shift right by s[b][4:0]. -/
  | shrW (d : BitVec 5) (a : BitVec 5) (b : BitVec 5) (p : BitVec 3) (n : BitVec 1)
  /-- R110: Word arithmetic shift right filling with x[31]. -/
  | sraW (d : BitVec 5) (a : BitVec 5) (b : BitVec 5) (p : BitVec 3) (n : BitVec 1)
  /-- R110: Leading zeros of s[a][31:0], 0–32. -/
  | clzW (d : BitVec 5) (a : BitVec 5) (p : BitVec 3) (n : BitVec 1)
  /-- R110: Trailing zeros of s[a][31:0], 0–32. -/
  | ctzW (d : BitVec 5) (a : BitVec 5) (p : BitVec 3) (n : BitVec 1)
  /-- R110: Number of 1 bits of s[a][31:0]. -/
  | popcW (d : BitVec 5) (a : BitVec 5) (p : BitVec 3) (n : BitVec 1)
  /-- R111: s[d] := s[a] + immediate assembled under R77. -/
  | addi (d : BitVec 5) (a : BitVec 5) (p : BitVec 3) (i : BitVec 13) (x : List W32)
  /-- R111: s[d] := s[a] AND immediate. -/
  | andi (d : BitVec 5) (a : BitVec 5) (p : BitVec 3) (i : BitVec 13) (x : List W32)
  /-- R111: s[d] := s[a] OR immediate. -/
  | ori (d : BitVec 5) (a : BitVec 5) (p : BitVec 3) (i : BitVec 13) (x : List W32)
  /-- R111: s[d] := s[a] XOR immediate. -/
  | xori (d : BitVec 5) (a : BitVec 5) (p : BitVec 3) (i : BitVec 13) (x : List W32)
  /-- R111: s[a] shifted left by n held in imm13[5:0]. -/
  | shli (d : BitVec 5) (a : BitVec 5) (p : BitVec 3) (n : BitVec 6)
  /-- R111: s[a] shifted right logically by n. -/
  | shri (d : BitVec 5) (a : BitVec 5) (p : BitVec 3) (n : BitVec 6)
  /-- R111: s[a] shifted right arithmetically by n. -/
  | srai (d : BitVec 5) (a : BitVec 5) (p : BitVec 3) (n : BitVec 6)
  /-- R111: s[d] := immediate. -/
  | li (d : BitVec 5) (p : BitVec 3) (i : BitVec 13) (x : List W32)
  /-- R111: s[d] := line address + sext(imm13) × 32. -/
  | lea (d : BitVec 5) (p : BitVec 3) (i : BitVec 13)
  /-- R112: Compares s[a] with s[b] under cond and combines the outcome into p[pd]. -/
  | cmp (d : BitVec 3) (c : BitVec 2) (a : BitVec 5) (b : BitVec 5) (p : BitVec 3) (n : BitVec 1) (k : BitVec 7)
  /-- R113: Compares s[a] with sext(imm13) and combines into p[pd]. -/
  | cmpi (d : BitVec 3) (c : BitVec 2) (a : BitVec 5) (k : BitVec 3) (i : BitVec 13)
  /-- R114: p[pd] := p[pa] AND p[pb]. -/
  | pand (d : BitVec 3) (a : BitVec 3) (b : BitVec 3)
  /-- R114: p[pd] := p[pa] OR p[pb]. -/
  | por (d : BitVec 3) (a : BitVec 3) (b : BitVec 3)
  /-- R114: p[pd] := p[pa] XOR p[pb]. -/
  | pxor (d : BitVec 3) (a : BitVec 3) (b : BitVec 3)
  /-- R114: p[pd] := p[pa] AND NOT p[pb]. -/
  | pandn (d : BitVec 3) (a : BitVec 3) (b : BitVec 3)
  /-- R114: p[pd] := NOT p[pa]. -/
  | pnot (d : BitVec 3) (a : BitVec 3)
  /-- R116: Low 64 bits of s[a] × s[b] into $m[lat], latency 4. -/
  | mul (a : BitVec 5) (b : BitVec 5) (p : BitVec 3) (n : BitVec 1) (l : BitVec 2)
  /-- R116: High 64 bits of the signed 128-bit product. -/
  | mulh (a : BitVec 5) (b : BitVec 5) (p : BitVec 3) (n : BitVec 1) (l : BitVec 2)
  /-- R116: High 64 bits of the unsigned 128-bit product. -/
  | mulhu (a : BitVec 5) (b : BitVec 5) (p : BitVec 3) (n : BitVec 1) (l : BitVec 2)
  /-- R116: Sign-extended low 32 bits of the word product. -/
  | mulW (a : BitVec 5) (b : BitVec 5) (p : BitVec 3) (n : BitVec 1) (l : BitVec 2)
  /-- R116: FP32 add rounded by RM into $m[lat]. -/
  | faddS (a : BitVec 5) (b : BitVec 5) (p : BitVec 3) (n : BitVec 1) (l : BitVec 2)
  /-- R116: FP32 subtract. -/
  | fsubS (a : BitVec 5) (b : BitVec 5) (p : BitVec 3) (n : BitVec 1) (l : BitVec 2)
  /-- R116: FP32 multiply. -/
  | fmulS (a : BitVec 5) (b : BitVec 5) (p : BitVec 3) (n : BitVec 1) (l : BitVec 2)
  /-- R116: FP32 fused multiply-add with addend s[c] in field d. -/
  | fmaS (c : BitVec 5) (a : BitVec 5) (b : BitVec 5) (p : BitVec 3) (n : BitVec 1) (l : BitVec 2)
  /-- R116: FP32 minimumNumber. -/
  | fminS (a : BitVec 5) (b : BitVec 5) (p : BitVec 3) (n : BitVec 1) (l : BitVec 2)
  /-- R116: FP32 maximumNumber. -/
  | fmaxS (a : BitVec 5) (b : BitVec 5) (p : BitVec 3) (n : BitVec 1) (l : BitVec 2)
  /-- R116: FP64 add. -/
  | faddD (a : BitVec 5) (b : BitVec 5) (p : BitVec 3) (n : BitVec 1) (l : BitVec 2)
  /-- R116: FP64 subtract. -/
  | fsubD (a : BitVec 5) (b : BitVec 5) (p : BitVec 3) (n : BitVec 1) (l : BitVec 2)
  /-- R116: FP64 multiply. -/
  | fmulD (a : BitVec 5) (b : BitVec 5) (p : BitVec 3) (n : BitVec 1) (l : BitVec 2)
  /-- R116: FP64 fused multiply-add with addend s[c]. -/
  | fmaD (c : BitVec 5) (a : BitVec 5) (b : BitVec 5) (p : BitVec 3) (n : BitVec 1) (l : BitVec 2)
  /-- R116: FP64 minimumNumber. -/
  | fminD (a : BitVec 5) (b : BitVec 5) (p : BitVec 3) (n : BitVec 1) (l : BitVec 2)
  /-- R116: FP64 maximumNumber. -/
  | fmaxD (a : BitVec 5) (b : BitVec 5) (p : BitVec 3) (n : BitVec 1) (l : BitVec 2)
  /-- R116: FP64 to FP32 conversion rounded by RM. -/
  | cvtSD (a : BitVec 5) (p : BitVec 3) (n : BitVec 1) (l : BitVec 2)
  /-- R116: FP32 widened exactly to FP64. -/
  | cvtDS (a : BitVec 5) (p : BitVec 3) (n : BitVec 1) (l : BitVec 2)
  /-- R116: INT32 to FP32 rounded by RM. -/
  | cvtSI (a : BitVec 5) (p : BitVec 3) (n : BitVec 1) (l : BitVec 2)
  /-- R116: FP32 to INT32 by RTZ, sign-extended. -/
  | cvtIS (a : BitVec 5) (p : BitVec 3) (n : BitVec 1) (l : BitVec 2)
  /-- R116: INT64 to FP64 rounded by RM. -/
  | cvtDI (a : BitVec 5) (p : BitVec 3) (n : BitVec 1) (l : BitVec 2)
  /-- R116: FP64 to INT64 by RTZ. -/
  | cvtID (a : BitVec 5) (p : BitVec 3) (n : BitVec 1) (l : BitVec 2)
  /-- R116: Signed integer divide into $d[lat], latency 22. -/
  | div (a : BitVec 5) (b : BitVec 5) (p : BitVec 3) (n : BitVec 1) (l : BitVec 2)
  /-- R116: Unsigned integer divide. -/
  | divu (a : BitVec 5) (b : BitVec 5) (p : BitVec 3) (n : BitVec 1) (l : BitVec 2)
  /-- R116: Signed remainder. -/
  | rem (a : BitVec 5) (b : BitVec 5) (p : BitVec 3) (n : BitVec 1) (l : BitVec 2)
  /-- R116: Unsigned remainder. -/
  | remu (a : BitVec 5) (b : BitVec 5) (p : BitVec 3) (n : BitVec 1) (l : BitVec 2)
  /-- R116: FP32 divide, latency 14. -/
  | fdivS (a : BitVec 5) (b : BitVec 5) (p : BitVec 3) (n : BitVec 1) (l : BitVec 2)
  /-- R116: FP32 square root, latency 14. -/
  | fsqrtS (a : BitVec 5) (p : BitVec 3) (n : BitVec 1) (l : BitVec 2)
  /-- R116: FP64 divide, latency 22. -/
  | fdivD (a : BitVec 5) (b : BitVec 5) (p : BitVec 3) (n : BitVec 1) (l : BitVec 2)
  /-- R116: FP64 square root, latency 22. -/
  | fsqrtD (a : BitVec 5) (p : BitVec 3) (n : BitVec 1) (l : BitVec 2)
  /-- R117: s[d] := $m latch, latency 1. -/
  | movM (d : BitVec 5) (l : BitVec 2) (p : BitVec 3) (n : BitVec 1)
  /-- R117: s[d] := $d latch. -/
  | movD (d : BitVec 5) (l : BitVec 2) (p : BitVec 3) (n : BitVec 1)
  /-- R117: s[d] := $l latch. -/
  | movL (d : BitVec 5) (l : BitVec 2) (p : BitVec 3) (n : BitVec 1)
  /-- R118: Reads a spill slot into s[d]. -/
  | spl (d : BitVec 5) (p : BitVec 3) (s : BitVec 9)
  /-- R118: Writes s[a] into a spill slot. -/
  | sps (a : BitVec 5) (p : BitVec 3) (s : BitVec 9)
  /-- R119: Scratchpad scalar load into $l, delivered at count n + 4. -/
  | lsp (k : BitVec 3) (l : BitVec 2) (a : BitVec 5) (p : BitVec 3) (i : BitVec 13) (x : List W32)
  /-- R120: Stores the low bytes of s[b] to scratchpad in the TC of issue. -/
  | ssp (b : BitVec 5) (a : BitVec 5) (p : BitVec 3) (z : BitVec 2) (i : BitVec 11)
  /-- R122: Pops 64 bits of stream q0–q7 into s[d], holding while empty. -/
  | popStream (d : BitVec 5) (b : BitVec 5) (p : BitVec 3) (n : BitVec 1)
  /-- R122: Pops channel e0 or e1 into s[d]. -/
  | popChannel (d : BitVec 5) (b : BitVec 5) (p : BitVec 3) (n : BitVec 1)
  /-- R123: Pushes s[a] to channel k0–k4, holding while full. -/
  | pushK (a : BitVec 5) (b : BitVec 5) (p : BitVec 3) (n : BitVec 1)
  /-- R123: Pushes s[a] to output queue o4 or o5. -/
  | pushO (a : BitVec 5) (b : BitVec 5) (p : BitVec 3) (n : BitVec 1)
  /-- R123: Pushes s[a] to channel j0 or j1. -/
  | pushJ (a : BitVec 5) (b : BitVec 5) (p : BitVec 3) (n : BitVec 1)
  /-- R124: Branch to the line address + sext(disp22) × 32. -/
  | br (p : BitVec 3) (n : BitVec 1) (d : BitVec 22)
  /-- R124: Branch and write the return line address to s31. -/
  | call (p : BitVec 3) (n : BitVec 1) (d : BitVec 22)
  /-- R124: Branch to s[a]. -/
  | jr (a : BitVec 5) (p : BitVec 3) (n : BitVec 1)
  /-- R124: Branch to s[a] and write the return line address to s[d]. -/
  | jrl (d : BitVec 5) (a : BitVec 5) (p : BitVec 3) (n : BitVec 1)
  /-- R381: Opens a snapshot level at each named range and holds until performed. -/
  | snap (d : BitVec 5) (a : BitVec 5) (p : BitVec 3) (n : BitVec 1)
  /-- R382: Closes the innermost level at each named range, keeping new contents. -/
  | accept (d : BitVec 5) (a : BitVec 5) (p : BitVec 3) (n : BitVec 1)
  /-- R383: Closes the innermost level, restoring old contents, and holds until completion. -/
  | reject (d : BitVec 5) (a : BitVec 5) (p : BitVec 3) (n : BitVec 1)
  /-- R385: Returns the state word of one range. -/
  | snapq (d : BitVec 5) (a : BitVec 5) (p : BitVec 3) (n : BitVec 1)
  /-- R126: Sends a set of event ev to the Hearth without holding. -/
  | evset (e : BitVec 8)
  /-- R126: Sends a clear of event ev to the Hearth. -/
  | evclr (e : BitVec 8)
  /-- R126: Holds until the Hearth returns event ev into s[d]. -/
  | evtst (d : BitVec 5) (e : BitVec 8)
  /-- R128: Posts a 64-byte scratchpad packet into a user-mode queue and returns the claimed index. -/
  | qpost (d : BitVec 5) (a : BitVec 5) (b : BitVec 5) (p : BitVec 3) (n : BitVec 1)
  /-- R130: Reads a system register into s[d]. -/
  | mfs (d : BitVec 5) (s : BitVec 12)
  /-- R130: Writes s[a] to a system register. -/
  | mts (a : BitVec 5) (s : BitVec 12)
  /-- R131: Raises SOFTWARE-TRAP with code imm13. -/
  | trap (p : BitVec 3) (i : BitVec 13)
  /-- R263: Swaps latch banks back and resumes user control at EPC and fetch at FETCHPC. -/
  | eret
  /-- R264: Stops the strands named in s[a][7:0] at their next boundaries. -/
  | tstop (a : BitVec 5)
  /-- R264: Resumes stopped strands named in s[a] at their PC registers. -/
  | tgo (a : BitVec 5)
  /-- R346: Holds the strand until the slot ring has at least c filled slots. -/
  | rawait (i : BitVec 6) (c : BitVec 16)
  /-- R346: Releases c slots of a slot ring, advancing RP. -/
  | rrel (i : BitVec 6) (c : BitVec 16)
  /-- R355: Ends the issuing strand for the rest of the launch. -/
  | halt
  /-- R342: Holds until Sem[n] ≥ c, then subtracts c; an acquire. -/
  | wait (i : BitVec 6) (c : BitVec 16)
  /-- R342: Adds c to Sem[n], saturating; a release of the strand's writes. -/
  | sig (i : BitVec 6) (c : BitVec 16)
  /-- R330: Holds the strand until sync flag f[n] ≥ c. -/
  | fwait (i : BitVec 6) (c : BitVec 16)
  /-- R140: Elementwise add under mask. -/
  | vadd (d : BitVec 6) (a : BitVec 6) (b : BitVec 6) (m : BitVec 3) (t : BitVec 2)
  /-- R140: Elementwise subtract. -/
  | vsub (d : BitVec 6) (a : BitVec 6) (b : BitVec 6) (m : BitVec 3) (t : BitVec 2)
  /-- R140: Elementwise multiply. -/
  | vmul (d : BitVec 6) (a : BitVec 6) (b : BitVec 6) (m : BitVec 3) (t : BitVec 2)
  /-- R140: Elementwise minimum. -/
  | vmin (d : BitVec 6) (a : BitVec 6) (b : BitVec 6) (m : BitVec 3) (t : BitVec 2)
  /-- R140: Elementwise maximum. -/
  | vmax (d : BitVec 6) (a : BitVec 6) (b : BitVec 6) (m : BitVec 3) (t : BitVec 2)
  /-- R140: Elementwise absolute value. -/
  | vabs (d : BitVec 6) (a : BitVec 6) (m : BitVec 3) (t : BitVec 2)
  /-- R140: Elementwise negation. -/
  | vneg (d : BitVec 6) (a : BitVec 6) (m : BitVec 3) (t : BitVec 2)
  /-- R140: Bit copy of a vector. -/
  | vmov (d : BitVec 6) (a : BitVec 6) (m : BitVec 3) (t : BitVec 2)
  /-- R141: d := a × b + d with one rounding. -/
  | vfma (d : BitVec 6) (a : BitVec 6) (b : BitVec 6) (m : BitVec 3) (t : BitVec 2)
  /-- R141: d := a × b − d. -/
  | vfms (d : BitVec 6) (a : BitVec 6) (b : BitVec 6) (m : BitVec 3) (t : BitVec 2)
  /-- R141: d := d − a × b. -/
  | vfnma (d : BitVec 6) (a : BitVec 6) (b : BitVec 6) (m : BitVec 3) (t : BitVec 2)
  /-- R141: BF16 pair dot product accumulated into FP32. -/
  | vdot2 (d : BitVec 6) (a : BitVec 6) (b : BitVec 6) (m : BitVec 3)
  /-- R142: Bitwise AND of vectors. -/
  | vand (d : BitVec 6) (a : BitVec 6) (b : BitVec 6) (m : BitVec 3) (t : BitVec 2)
  /-- R142: Bitwise OR of vectors. -/
  | vor (d : BitVec 6) (a : BitVec 6) (b : BitVec 6) (m : BitVec 3) (t : BitVec 2)
  /-- R142: Bitwise XOR of vectors. -/
  | vxor (d : BitVec 6) (a : BitVec 6) (b : BitVec 6) (m : BitVec 3) (t : BitVec 2)
  /-- R142: a AND NOT b. -/
  | vandn (d : BitVec 6) (a : BitVec 6) (b : BitVec 6) (m : BitVec 3) (t : BitVec 2)
  /-- R142: Elementwise shift left by b. -/
  | vshl (d : BitVec 6) (a : BitVec 6) (b : BitVec 6) (m : BitVec 3) (t : BitVec 2)
  /-- R142: Elementwise logical shift right. -/
  | vshr (d : BitVec 6) (a : BitVec 6) (b : BitVec 6) (m : BitVec 3) (t : BitVec 2)
  /-- R142: Elementwise arithmetic shift right. -/
  | vsra (d : BitVec 6) (a : BitVec 6) (b : BitVec 6) (m : BitVec 3) (t : BitVec 2)
  /-- R142: Bitwise NOT of a vector. -/
  | vnot (d : BitVec 6) (a : BitVec 6) (m : BitVec 3) (t : BitVec 2)
  /-- R143: Elementwise compare combined into a mask register. -/
  | vcmp (d : BitVec 3) (c : BitVec 2) (a : BitVec 6) (b : BitVec 6) (m : BitVec 3) (t : BitVec 2) (k : BitVec 3)
  /-- R144: Selects a or b per element by mask. -/
  | vsel (d : BitVec 6) (a : BitVec 6) (b : BitVec 6) (m : BitVec 3) (t : BitVec 2)
  /-- R145: Converts elements between types, with optional scaling and saturation. -/
  | vcvt (d : BitVec 6) (a : BitVec 6) (f : BitVec 5) (t : BitVec 5) (r : BitVec 2) (s : BitVec 1) (c : BitVec 1)
  /-- R149: Correctly rounded reciprocal. -/
  | vrcp (d : BitVec 6) (a : BitVec 6) (m : BitVec 3) (t : BitVec 2)
  /-- R149: Correctly rounded reciprocal square root. -/
  | vrsq (d : BitVec 6) (a : BitVec 6) (m : BitVec 3) (t : BitVec 2)
  /-- R149: 2^x. -/
  | vexp2 (d : BitVec 6) (a : BitVec 6) (m : BitVec 3) (t : BitVec 2)
  /-- R149: log2 x. -/
  | vlog2 (d : BitVec 6) (a : BitVec 6) (m : BitVec 3) (t : BitVec 2)
  /-- R149: sin(πx). -/
  | vsinp (d : BitVec 6) (a : BitVec 6) (m : BitVec 3) (t : BitVec 2)
  /-- R149: cos(πx). -/
  | vcosp (d : BitVec 6) (a : BitVec 6) (m : BitVec 3) (t : BitVec 2)
  /-- R149: tanh x. -/
  | vtanh (d : BitVec 6) (a : BitVec 6) (m : BitVec 3) (t : BitVec 2)
  /-- R149: Square root rounded by RM. -/
  | vsqrt (d : BitVec 6) (a : BitVec 6) (m : BitVec 3) (t : BitVec 2)
  /-- R150: Tree sum of included elements written to every element. -/
  | vsum (d : BitVec 6) (a : BitVec 6) (m : BitVec 3) (t : BitVec 2)
  /-- R150: Tree maximum. -/
  | vrmax (d : BitVec 6) (a : BitVec 6) (m : BitVec 3) (t : BitVec 2)
  /-- R150: Tree minimum. -/
  | vrmin (d : BitVec 6) (a : BitVec 6) (m : BitVec 3) (t : BitVec 2)
  /-- R150: Tree maximum of magnitudes. -/
  | vramax (d : BitVec 6) (a : BitVec 6) (m : BitVec 3) (t : BitVec 2)
  /-- R153: Rotates each slice's 32 bytes k slices round the ring. -/
  | vrot (d : BitVec 6) (a : BitVec 6) (m : BitVec 3) (r : BitVec 1) (k : BitVec 4)
  /-- R154: Permutes lanes within each slice by the extension pattern. -/
  | vshuf (d : BitVec 6) (a : BitVec 6) (m : BitVec 3) (x : List W32)
  /-- R151: Writes each slice's 32 bytes onto a ring lane. -/
  | vtapw (v : BitVec 6) (l : BitVec 4)
  /-- R151: Reads the datum standing on a ring lane at each slice. -/
  | vtapr (v : BitVec 6) (l : BitVec 4)
  /-- R155: Pops j[ch] into one lane or every lane of v. -/
  | vins (v : BitVec 6) (c : BitVec 1) (e : BitVec 7) (a : BitVec 1)
  /-- R155: Pops j[ch] whole into broadcast register b[bsel]. -/
  | vinsB (c : BitVec 1) (b : BitVec 2)
  /-- R156: Pushes two lanes of v to e[ch]. -/
  | vext (v : BitVec 6) (c : BitVec 1) (e : BitVec 7)
  /-- R157: Copies an accumulator row into a vector register. -/
  | vacr (v : BitVec 6) (c : BitVec 1) (r : BitVec 7)
  /-- R157: Writes a vector register into an accumulator row. -/
  | vacw (v : BitVec 6) (c : BitVec 1) (r : BitVec 7)
  /-- R164: Loads the back plane of a codebook bank. -/
  | cbld (d : BitVec 6) (a : BitVec 6) (k : BitVec 2) (n : BitVec 8)
  /-- R165: Exchanges a bank's front and back planes. -/
  | cbswap (k : BitVec 2)
  /-- R166: Expands indices through the bank's front plane. -/
  | vcbx (d : BitVec 6) (a : BitVec 6) (k : BitVec 2) (w : BitVec 2) (g : BitVec 8)
  /-- R160: Sets rounding, flush-to-zero and codebook expansion mode. -/
  | vmode (w : BitVec 2) (b : BitVec 2) (c : BitVec 1) (f : BitVec 1) (r : BitVec 2)
  /-- R159: Replaces one view register with ext1. -/
  | vview (d : BitVec 6) (x : List W32)
  /-- R148: Block absolute maximum into every element of each block. -/
  | vbamax (d : BitVec 6) (a : BitVec 6) (m : BitVec 3)
  /-- R148: Computes E8M0 block scales into b0–b3. -/
  | vbscMx (a : BitVec 6)
  /-- R148: Computes S20 SB8 block scales into b0–b3. -/
  | vbscSb8 (a : BitVec 6)
  /-- R148: Computes S20 SB4 block scales into b0–b3. -/
  | vbscSb4 (a : BitVec 6)
  /-- R161: mk[d] := mk[a] AND mk[b]. -/
  | mand (d : BitVec 3) (a : BitVec 3) (b : BitVec 3)
  /-- R161: mk[d] := mk[a] OR mk[b]. -/
  | mor (d : BitVec 3) (a : BitVec 3) (b : BitVec 3)
  /-- R161: mk[d] := mk[a] XOR mk[b]. -/
  | mxor (d : BitVec 3) (a : BitVec 3) (b : BitVec 3)
  /-- R161: mk[d] := NOT mk[a]. -/
  | mnot (d : BitVec 3) (a : BitVec 3)
  /-- R161: Pushes the popcount of mk[a] to e0. -/
  | mpopc (a : BitVec 3)
  /-- R175: Loads 512 bytes into a vector stream entry. -/
  | ld (q : BitVec 2) (a : BitVec 4) (s : BitVec 1) (c : BitVec 1) (i : BitVec 13) (x : List W32)
  /-- R175: Loads 1–8 bytes, extended, into a scalar stream. -/
  | ldw (q : BitVec 2) (a : BitVec 4) (k : BitVec 4) (s : BitVec 1) (c : BitVec 1) (i : BitVec 13) (x : List W32)
  /-- R176: Gathers one vector through an index vector from x[j]. -/
  | ldg (q : BitVec 2) (a : BitVec 4) (k : BitVec 4) (s : BitVec 1) (c : BitVec 1) (j : BitVec 1) (x : List W32)
  /-- R193: Validates and applies a stream descriptor to a stream. -/
  | sset (q : BitVec 3) (a : BitVec 4) (d : BitVec 10)
  /-- R192: Returns a stream to EXPLICIT and empties its FIFO. -/
  | sclr (q : BitVec 3)
  /-- R188: Holds the load strand until its paired mark.s is met and earlier stores are performed. -/
  | markL (i : BitVec 8)
  /-- R182: Returning atomic read-modify-write with operands from k0. -/
  | atr (q : BitVec 2) (a : BitVec 4) (k : BitVec 4) (s : BitVec 1) (w : BitVec 1) (i : BitVec 13)
  /-- R187: Orders later loads after earlier ones; invalidates CACHED copies at package scope or wider. -/
  | fenceL (s : BitVec 3)
  /-- R186: Reads a flag atomically and, at package scope or wider, invalidates lines hitting SIG. -/
  | acq (q : BitVec 2) (a : BitVec 4) (k : BitVec 4) (i : BitVec 13)
  /-- R178: Prefetches four lines into the serving L2. -/
  | pref (a : BitVec 4) (i : BitVec 13)
  /-- R172: a[d] := a[a] + a[imm13[3:0]]. -/
  | laAdd (d : BitVec 4) (a : BitVec 4) (b : BitVec 4)
  /-- R172: a[d] := a[a] + immediate. -/
  | laAddi (d : BitVec 4) (a : BitVec 4) (i : BitVec 13) (x : List W32)
  /-- R172: a[d] := a[a] shifted left by n. -/
  | laShli (d : BitVec 4) (a : BitVec 4) (n : BitVec 6)
  /-- R172: a[d] := immediate. -/
  | laLi (d : BitVec 4) (i : BitVec 13) (x : List W32)
  /-- R172: a[d] := popped head of k[ch]. -/
  | laTake (d : BitVec 4) (c : BitVec 2)
  /-- R172: a[d] := ix[n] as at the fetch of the line. -/
  | laIx (d : BitVec 4) (n : BitVec 3)
  /-- R351: Holds the load strand until the barrier word is not ARMED; an acquire. -/
  | barw (a : BitVec 4) (s : BitVec 1) (i : BitVec 13)
  /-- R179: Pops one vector and stores its 512 bytes. -/
  | st (o : BitVec 3) (w : BitVec 4) (s : BitVec 1) (i : BitVec 13)
  /-- R179: Pops 64 bits and stores the low 1–8 bytes. -/
  | stw (o : BitVec 3) (w : BitVec 4) (k : BitVec 4) (s : BitVec 1) (i : BitVec 13)
  /-- R180: Scatters one vector through an index vector. -/
  | stx (o : BitVec 3) (w : BitVec 4) (k : BitVec 4) (s : BitVec 1) (j : BitVec 1)
  /-- R182: Non-returning atomic with operand from o4 or o5. -/
  | atn (o : BitVec 3) (w : BitVec 4) (k : BitVec 4) (s : BitVec 1) (w_part2 : BitVec 1) (i : BitVec 13)
  /-- R188: Holds the store strand until its pair is met and earlier loads are performed. -/
  | markS (i : BitVec 8)
  /-- R187: Holds until earlier stores and atomics are performed at the scope, flushing Bellows at die scope or wider. -/
  | fenceS (s : BitVec 3)
  /-- R185: Release: flushes buffers, performs earlier stores, ORs the signature into SIG and writes FLAG. -/
  | rel (o : BitVec 3) (w : BitVec 4) (k : BitVec 4) (i : BitVec 13)
  /-- R191: Makes the strand's aggregation buffers leave and waits for acceptance. -/
  | aflush
  /-- R172: w[d] := w[a] + w[imm13[3:0]]. -/
  | saAdd (d : BitVec 4) (a : BitVec 4) (b : BitVec 4)
  /-- R172: w[d] := w[a] + immediate. -/
  | saAddi (d : BitVec 4) (a : BitVec 4) (i : BitVec 13) (x : List W32)
  /-- R172: w[d] := w[a] shifted left by n. -/
  | saShli (d : BitVec 4) (a : BitVec 4) (n : BitVec 6)
  /-- R172: w[d] := immediate. -/
  | saLi (d : BitVec 4) (i : BitVec 13) (x : List W32)
  /-- R172: w[d] := popped head of k[2 + ch]. -/
  | saTake (d : BitVec 4) (c : BitVec 2)
  /-- R172: w[d] := ix[n] as at the fetch of the line. -/
  | saIx (d : BitVec 4) (n : BitVec 3)
  /-- R351: Pops v and performs arm(v) on a barrier word. -/
  | barm (f : BitVec 3) (w : BitVec 4) (s : BitVec 1) (i : BitVec 9)
  /-- R351: Pops v and posts arrivals and bytes to a barrier word after earlier stores; a release. -/
  | barr (f : BitVec 3) (w : BitVec 4) (s : BitVec 1) (i : BitVec 9)
  /-- R202: Writes a matrix parameter register from the immediate. -/
  | mpar (r : BitVec 4) (i : BitVec 22) (x : List W32)
  /-- R202: Pops k4 into a matrix parameter register. -/
  | mparq (r : BitVec 4)
  /-- R208: Starts an Anvil C += A × B command after its await and start checks. -/
  | mma (w : BitVec 6) (r : BitVec 6) (c : BitVec 1) (l : BitVec 1) (a : BitVec 1) (b : BitVec 1) (f : BitVec 4) (g : BitVec 4)
  /-- R212: Starts an Anvil command with 2:4-sparse segmented B. -/
  | mmas (w : BitVec 6) (r : BitVec 6) (c : BitVec 1) (l : BitVec 1) (a : BitVec 1) (f : BitVec 4) (g : BitVec 4)
  /-- R214: Clears all 128 rows of an accumulator in 8 steps. -/
  | mzero (w : BitVec 6) (r : BitVec 6) (c : BitVec 1)
  /-- R215: Converts and stores accumulator rows to scratchpad or a view. -/
  | mout (w : BitVec 6) (r : BitVec 6) (c : BitVec 1) (f : BitVec 4)
  /-- R224: Writes a transform parameter register. -/
  | tpar (r : BitVec 4) (i : BitVec 22) (x : List W32)
  /-- R229: Starts a mixed-radix FFT over a batch of pencils. -/
  | fft (w : BitVec 6) (r : BitVec 6) (d : BitVec 1) (q : BitVec 1) (e : BitVec 1) (t : BitVec 4)
  /-- R233: Starts a Legendre analysis or synthesis command. -/
  | leg (w : BitVec 6) (r : BitVec 6) (d : BitVec 1) (t : BitVec 4)
  /-- R323: Writes a send parameter register. -/
  | xpar (r : BitVec 4) (i : BitVec 22) (x : List W32)
  /-- R326: Starts one scheduled transfer from its descriptor. -/
  | send (w : BitVec 6) (r : BitVec 6) (dx : BitVec 4)
  /-- R336: Starts a Swage collective after reading and checking the parameter block and schedule. -/
  | swg (w : BitVec 6) (r : BitVec 6) (dx : BitVec 4)
  /-- R340: Contributes to a reduction tree. -/
  | rtree (w : BitVec 6) (r : BitVec 6) (dx : BitVec 4)
  /-- R323: Writes a receive parameter register. -/
  | ypar (r : BitVec 4) (i : BitVec 22) (x : List W32)
  /-- R327: Registers an arrival block and zeroes its tag and flag. -/
  | recv (w : BitVec 6) (r : BitVec 6) (y : BitVec 4)
  /-- R328: Unregisters an arrival block and zeroes its flag. -/
  | yclr (w : BitVec 6) (r : BitVec 6) (n : BitVec 4)
  /-- R81: Fetch directive opening a hardware loop level over the following lines. -/
  | loop (l : BitVec 3) (s : BitVec 1) (n : BitVec 12) (c : BitVec 12)
  /-- R84: Padding line that takes one fetch TC and delivers nothing. -/
  | nopl
  /-- R75: Fetch unit fetches one line and delivers its lanes to the strand queues. -/
  | fetchLine (t : TileNo)
  /-- R78: A branch resolves three TCs after issue and fetch resumes at target or fall-through. -/
  | branchResolve (t : TileNo)
  /-- R74: After fetch has ended, a strand whose queue empties is halted. -/
  | fetchEndHalt (t : TileNo) (k : Strand)
  /-- R24: A pending result becomes visible at its visibility count. -/
  | resultLanding (t : TileNo) (k : Strand)
  /-- R257: A fault reaches the control strand at its boundary and the tile enters TRAPPED. -/
  | trapEntry (t : TileNo)
  /-- R266: A read of FREPLY holds until the driver's reply to the tile's last fault record arrives. -/
  | freplyRead (t : TileNo)
  /-- R267: Reads or writes one strand-state element selected by WSEL and advances ELEM. -/
  | wdataAccess (t : TileNo) (wr : Bool) (v : W64)
  /-- R272: A handler write ends the launch on every tile of its group. -/
  | launchend (t : TileNo) (v : W64)
  /-- R198: A sig or rrel whose conditions were pending is performed. -/
  | pendingSigPerform (t : TileNo) (k : Strand)
  /-- R126: The Hearth performs an evset or evclr on the event vector. -/
  | eventPerform
  /-- R286: A qpost waiting more than 1 ms for room returns the timeout value. -/
  | qpostTimeout (t : TileNo)
  /-- R175: Load data arrives and its stream entry becomes visible. -/
  | loadDeliver (t : TileNo)
  /-- R240: A store or atomic is performed at its point of coherence. -/
  | storePerform (t : TileNo) (i : Nat)
  /-- R360: A page walk completes and the held access proceeds or faults. -/
  | tlbWalk (t : TileNo) (k : Strand)
  /-- R195: An ACTIVE stream reads, pads, expands and converts its next element into a reserved entry. -/
  | streamElement (t : TileNo) (n : BitVec 3)
  /-- R219: The prescan of an mmas or codebook mma completes or fails. -/
  | anvilPrescan (t : TileNo)
  /-- R200: The Anvil takes one step of a command in a TC that its tile owns. -/
  | anvilStep (t : TileNo)
  /-- R216: A command reaches its raise point, ends its claims and raises Sem[raise]. -/
  | commandRaise (t : TileNo) (k : Strand)
  /-- R234: The transform unit runs one step of its command. -/
  | transformStep (t : TileNo)
  /-- R221: A follow-on word presented after a copy starts on the target's Anvil or is refused. -/
  | followOnStart (t : TileNo)
  /-- R50: A held pod mode write takes effect once no command is in flight. -/
  | podModeChange (t : TileNo)
  /-- R17: A held island ratio change takes effect at a boundary outside collectives. -/
  | islandRatioChange (i : BitVec 4)
  /-- R268: A tile's watchdog fires and kills the context. -/
  | watchdogExpiry (t : TileNo)
  /-- R275: The sample period expires and a PC sample record is written or dropped. -/
  | traceSample (t : TileNo) (k : Strand)
  /-- R47: Island powered and tile reset complete; the tile enters IDLE. -/
  | tileResetComplete (t : TileNo)
  /-- R311: Firmware writes a bind record and dispatch accepts or refuses it. -/
  | bindRecord (slot : BitVec 8) (rec : BitVec 512)
  /-- R312: All tiles loaded and start FC reached; the group enters RUNNING in one FC. -/
  | groupStart (slot : BitVec 8)
  /-- R48: A tile whose strands all halted finishes draining and enters IDLE. -/
  | tileDrainComplete (t : TileNo)
  /-- R313: A launch completes: SET mask applied, SIG decremented, bind record freed. -/
  | launchComplete (l : Nat)
  /-- R273: Firmware pre-empts a launch; strands stop and work drains before saving. -/
  | preemption (l : Nat)
  /-- R274: A tile's save record is written and the tile enters IDLE. -/
  | saveComplete (t : TileNo)
  /-- R318: Scheduler firmware chooses a placement for a pending launch. -/
  | placeLaunch (l : Nat) (slot : BitVec 8) (x0 : BitVec 4) (y0 : BitVec 4) (orient : BitVec 3) (diemap : BitVec 8) (pmode : Bool)
  /-- R318: Each whole millisecond pending raises a launch's effective priority. -/
  | priorityAging (l : Nat)
  /-- R270: A fault record is written to the fault queue when room exists. -/
  | faultRecordWrite (c : BitVec 6)
  /-- R270: A record not written within 1 ms is dropped and FQLOST rises. -/
  | faultRecordDrop (c : BitVec 6)
  /-- R276: CTXCMD CREATE moves a FREE context to LIVE. -/
  | ctxCreate (c : BitVec 6)
  /-- R276: CTXCMD KILL kills a LIVE context with HOST-KILL. -/
  | ctxKill (c : BitVec 6)
  /-- R276: CTXCMD ACK moves a HALTED context to LIVE. -/
  | ctxAck (c : BitVec 6)
  /-- R276: CTXCMD DESTROY kills and releases a context. -/
  | ctxDestroy (c : BitVec 6)
  /-- R276: A function-level reset of a VF acts as DESTROY of its context. -/
  | functionLevelReset (c : BitVec 6)
  /-- R269: Every tile released, engines purged and signals written; the context is HALTED. -/
  | killingComplete (c : BitVec 6)
  /-- R277: A write of REQ raises DEBUG-ATTN on every RUNNING tile of the context. -/
  | attnRequest (c : BitVec 6)
  /-- R283: The driver's reply is delivered to the waiting tile's FREPLY read. -/
  | reply (c : BitVec 6) (v : W64)
  /-- R280: A write to NOTIFY prompts the Hearth to look at the queue. -/
  | notify (f : HostFn) (q : BitVec 10)
  /-- R282: A host read of CLAIM atomically increments WRITE and returns the old value. -/
  | claim (f : HostFn) (q : BitVec 10)
  /-- R278: CONTROL CREATE checks the QCB and ring and makes the queue ACTIVE or leaves it DEAD. -/
  | queueCreate (q : BitVec 10) (qcb : W64)
  /-- R284: CONTROL PAUSE moves an ACTIVE queue to PAUSED. -/
  | queuePause (q : BitVec 10)
  /-- R284: CONTROL RESUME returns a PAUSED queue to ACTIVE. -/
  | queueResume (q : BitVec 10)
  /-- R285: CONTROL DRAIN moves a queue to DRAINING, cancelling later packets. -/
  | queueDrain (q : BitVec 10)
  /-- R285: CONTROL RESET kills the packet in progress and makes the queue DEAD. -/
  | queueReset (q : BitVec 10)
  /-- R284: A DRAINING queue with nothing in progress and READ = WRITE becomes DEAD. -/
  | drainComplete (q : BitVec 10)
  /-- R280: The Hearth looks at the slot at READ at least every 20 µs while READ ≠ WRITE. -/
  | hearthPoll (q : BitVec 10)
  /-- R289: The Hearth takes a DISPATCH packet and starts a launch. -/
  | dispatch (q : BitVec 10) (pkt : BitVec 512)
  /-- R296: The Hearth takes a COPY packet and a copy engine moves the box. -/
  | copy (q : BitVec 10) (pkt : BitVec 512)
  /-- R293: A LAYOUT packet writes a layout register set. -/
  | layout (q : BitVec 10) (pkt : BitVec 512)
  /-- R291: A QFENCE packet takes its part in a join of queues. -/
  | qfence (q : BitVec 10) (pkt : BitVec 512)
  /-- R245: All named queues' QFENCEs read and earlier packets performed; the join completes. -/
  | qfenceJoinComplete (q : BitVec 10)
  /-- R290: A SIGNAL packet adds, stores or sets or clears an event, with optional MSI-X. -/
  | signalPacket (q : BitVec 10) (pkt : BitVec 512)
  /-- R314: A GRAPH packet hands its graph to the context's sequencer. -/
  | graph (q : BitVec 10) (pkt : BitVec 512)
  /-- R345: A copy completing to a slot ring reserves a slot once one is free. -/
  | slotReserve (q : BitVec 10)
  /-- R301: A copy's bytes are performed and its completions run in order. -/
  | copyComplete (q : BitVec 10)
  /-- R303: A copy fault pauses the queue and writes an error value to SIG. -/
  | copyFault (q : BitVec 10) (cause : BitVec 8)
  /-- R348: A post of arrivals and bytes is performed on a barrier word. -/
  | barrierPost (h : BitVec 3) (pa : BitVec 52) (n : BitVec 16) (b : BitVec 32)
  /-- R351: A barw on a BAR page rereads its word at intervals of at most 1 µs. -/
  | barwPoll (t : TileNo)
  /-- R315: A ready LAUNCH record issues its launch. -/
  | graphLaunchRecord (c : BitVec 6)
  /-- R387: A ready SNAPOP record performs its snapshot operation. -/
  | snapop (c : BitVec 6)
  /-- R314: A ready JUMPIF record chooses the next record by its test. -/
  | jumpif (c : BitVec 6)
  /-- R314: A ready SIGNAL record performs its operation on TARGET. -/
  | graphSignalRecord (c : BitVec 6)
  /-- R316: An END record waits for the pass and then repeats or ends the graph. -/
  | graphEndRecord (c : BitVec 6)
  /-- R322: A scheduled flit departs at its FC and reads its source bytes. -/
  | flitDepart (t : TileNo)
  /-- R329: An arriving flit is checked and written or refused. -/
  | flitLanding (i : Nat)
  /-- R340: A tree node combines a round's contributions and sends the result on. -/
  | treeNodeCombine (tree : BitVec 4) (d : BitVec 3)
  /-- R402: ENABLE := 1 starts bring-up of a DARK port. -/
  | portEnable (n : BitVec 4)
  /-- R402: ENABLE := 0 darkens the port at the next frame boundary. -/
  | portDisable (n : BitVec 4)
  /-- R404: Bring-up step 1, ring and clock lock, completes or fails. -/
  | bringupLock (n : BitVec 4) (ok : Bool)
  /-- R404: Bring-up step 2, phase and deskew with FLIGHT, completes or fails. -/
  | bringupAlign (n : BitVec 4) (skew : BitVec 8) (flight : BitVec 8)
  /-- R404: Bring-up step 3, equaliser training, completes. -/
  | bringupTrain (n : BitVec 4)
  /-- R404: Bring-up step 4, 8,192 test rows each way, passes or fails. -/
  | bringupVerify (n : BitVec 4) (corr : Nat) (uncorr : Nat)
  /-- R404: Both ends agree the first frame boundary and the port becomes ACTIVE. -/
  | bringupHandshake (n : BitVec 4) (same : Bool) (encl : BitVec 8)
  /-- R391: A direction sends one 175-byte row in an FC. -/
  | rowSend (n : BitVec 4)
  /-- R392: The receiver takes a row, applies map changes, decodes and corrects it. -/
  | rowReceive (n : BitVec 4) (beats : BitVec 1600)
  /-- R395: A repair packet arrives and its flit is delivered late. -/
  | repairPacketReceive (n : BitVec 4) (pkt : BitVec 800)
  /-- R396: No repair within the bound; the flit is requested again or lost. -/
  | repairTimeout (n : BitVec 4)
  /-- R399: A NEAR ring is wrapped in a planned way through a leave, retrain and join. -/
  | ringNearWrap (n : BitVec 4) (out : Bool) (lane : BitVec 3)
  /-- R400: A ring reaches the end of its range in mid-row; the lane leaves and repairs are queued. -/
  | ringEndOfRange (n : BitVec 4) (out : Bool) (lane : BitVec 3)
  /-- R401: A wrapped lane finishes retraining and joins at a frame boundary. -/
  | laneRetrainComplete (n : BitVec 4) (out : Bool) (ok : Bool)
  /-- R401: A failed lane retrain is tried again every 1 ms. -/
  | laneRetrainRetry (n : BitVec 4) (out : Bool)
  /-- R407: A write to SWCMD starts a switch cell write or is refused. -/
  | swcmd (e : BitVec 2) (v : W64)
  /-- R407: A 5 µs phase-change cell write completes. -/
  | switchCellWriteDone (e : BitVec 2)
  /-- R413: A remote request is accepted into its interface queue. -/
  | requestAccept (r : Nat)
  /-- R411: A queued request departs in a slot of its pair's SMASK. -/
  | requestDepart (r : Nat)
  /-- R414: The target performs a request within 128 FC or sends WAIT. -/
  | targetService (r : Nat)
  /-- R416: A reply or WAIT arrives at the requester. -/
  | replyArrive (r : Nat) (kind : BitVec 4) (stat : BitVec 6) (aux : BitVec 16) (data : BitVec 1024)
  /-- R417: A request's timeout expires; it is reissued or fails fatally. -/
  | remoteTimeout (r : Nat)
  /-- R414: A request held by WAIT for 10 ms fails with REMOTE-TIMEOUT. -/
  | waitLimitTimeout (r : Nat)
  /-- R403: A request held 10 ms at a port not carrying traffic fails with REMOTE-UNREACHABLE. -/
  | heldRequestTimeout (r : Nat)
  /-- R420: An aggregated element joins or opens a Bellows buffer, or waits. -/
  | aggElementEnter (d : BitVec 2)
  /-- R421: An OPEN buffer reaching AGE leaves. -/
  | aggAgeExpiry (d : BitVec 2) (b : BitVec 6)
  /-- R421: A LEAVING buffer's packet is accepted and the buffer is SENT. -/
  | aggPacketAccept (d : BitVec 2) (b : BitVec 6)
  /-- R423: A status reply arrives; failures are logged and the buffer is FREE. -/
  | aggStatusArrive (d : BitVec 2) (b : BitVec 6) (failed : BitVec 16) (causes : BitVec 128)
  /-- R424: A write to AGE is clamped to 64–4,096. -/
  | aggctlWrite (d : BitVec 2) (v : W64)
  /-- R428: An endpoint takes an Ethernet work descriptor and performs the RMA. -/
  | ueWorkDescriptor (c : BitVec 6) (r : BitVec 2)
  /-- R429: An incoming RMA packet is placed or refused with a NACK. -/
  | ueRmaPacket (c : BitVec 6) (wr : Bool) (rkey : BitVec 12) (off : W64) (data : List Byte)
  /-- R430: Every 1 µs the endpoint rewrites SENT, ECN and RTT. -/
  | entropyStatsUpdate (c : BitVec 6) (eset : BitVec 12) (ent : BitVec 8) (sent : W32) (ecn : BitVec 16) (rtt : BitVec 16)
  /-- R363: Sets a context's table root. -/
  | setroot (c : BitVec 6)
  /-- R364: Drops cached translations of a range in every cache of the package. -/
  | shootdown (c : BitVec 6)
  /-- R368: Changes a frame's COMPRESSED attribute and recodes it. -/
  | frameset (c : BitVec 6)
  /-- R369: Writes back the region's dirty lines and returns its dirty bitmap. -/
  | dirtysync (c : BitVec 6)
  /-- R370: Sets K and FREEZE for a context's migration. -/
  | migcfg (c : BitVec 6)
  /-- R370: A die's access count reaches 2^K; the page moves or freezes. -/
  | migrationTrigger (c : BitVec 6) (va : W64) (d : BitVec 2)
  /-- R371: Copy done, PTE rewritten, shootdown complete; held accesses forwarded. -/
  | migrationMoveComplete (c : BitVec 6) (va : W64)
  /-- R370: The FREEZE period ends and the page returns to MIGRATE. -/
  | freezeExpiry (c : BitVec 6) (va : W64)
  /-- R373: A write to a snapshot range register enables, disables or is refused. -/
  | srangeWrite (c : BitVec 6) (n : BitVec 4) (hiWord : Bool) (v : W64)
  /-- R374: A write to BUDGET takes effect at once. -/
  | spoolWrite (c : BitVec 6) (v : W64)
  /-- R380: The hub's sequencer performs a snapshot operation at every named range. -/
  | snapshotOperationPerform (c : BitVec 6)
  /-- R376: A write reaching a line in a range restores, copies the line to a shadow entry or is refused. -/
  | snapshotLineWrite (h : BitVec 3) (pa : BitVec 52) (c : BitVec 6) (data : List Byte)
  /-- R383: The last invalidate acknowledgement arrives and the reject completes. -/
  | rejectCompletion (c : BitVec 6)
  /-- R383: A die not acknowledging within 10 ms kills the context with LINK-FATAL. -/
  | invalidateAckTimeout (c : BitVec 6)
  /-- R384: The restore engine writes back an awaiting shadow entry and its stamp. -/
  | restoreLine (h : BitVec 3) (line : BitVec 52)
  /-- R254: A host posted write through BAR2 reaches its point of coherence. -/
  | hostWrite (f : HostFn) (addr : W64) (data : List Byte)
  /-- R435: Module power-up runs the start-up steps in order with journal entries. -/
  | modulePowerOn (fails : BitVec 10)
  /-- R434: An island powers up in the fixed order. -/
  | islandPowerUp (i : BitVec 4)
  /-- R434: An island with all tiles IDLE powers down. -/
  | islandPowerDown (i : BitVec 4)
  /-- R433: Every 1 ms the limit loop lowers or restores island ratios on power and heat. -/
  | limitLoop (watts : Nat) (hot : Vector Nat 4)
  /-- R432: A write of an island's requested n, applied under R17 and the voltage limit. -/
  | nreqWrite (i : BitVec 4) (n : BitVec 8)
  /-- R432: A write of an island's supply setting, raised at once or lowered after ratios fit. -/
  | vsetWrite (i : BitVec 4) (v : BitVec 8)
  /-- R438: Mailbox UPDATE writes and verifies firmware in the inactive slot. -/
  | update
  /-- R439: Mailbox ATTEST signs a nonce with the device identity key. -/
  | attest
  /-- R437: Mailbox LOGREAD copies event log records to a buffer. -/
  | logread
  /-- R10: A write to a register without behaviour of its own replaces, clears or discards per its access code. -/
  | registerWrite (f : HostFn) (off : BitVec 24) (v : W64)
  /-- R402: The forwarded clock lane of an ACTIVE or DEGRADED port is lost and the port enters RETRAINING. -/
  | clockLaneLost (n : BitVec 4) (out : Bool)
  /-- R18: Module power is removed and every island, and so every tile, goes unpowered. -/
  | modulePowerOff
  /-- R382: A background free of shadow entries, left by an accept, an EN clear or a destroy, completes and releases budget to held writes. -/
  | shadowEntryFree (c : BitVec 6)
  /-- R428: An acknowledgement, NACK or read-response packet for an outgoing RMA arrives at an Ultra Ethernet endpoint and may complete the descriptor's SIG. -/
  | ueResponsePacket (m : Nat) (kind : BitVec 2) (cause : BitVec 8) (data : List Byte)
  /-- R363: A running page command such as SHOOTDOWN or FRAMESET completes, clearing BUSY, raising DONE and releasing the accesses it held. -/
  | pageCommandComplete
  deriving DecidableEq, Repr

end Sys2Proof
end

