-- ==== Sys2Proof/WellFormed.lean ====
section
/-!
DEFINITION. Well-formedness of an instruction word: the checks of 04_lines.md R99 in their three stages
(own fields, number of extensions, zero bits of extensions), each as a Boolean function of the instruction.
-/
namespace Sys2Proof

/-- Vector operand codes: 58-63 are reserved (R89). -/
def opdOk (a : BitVec 6) : Bool := a.toNat ≤ 57

/-- Vector destination codes: 56-63 are reserved (R89). -/
def dstOk (d : BitVec 6) : Bool := d.toNat ≤ 55

/-- The pairs of element codes that vcvt supports (06_vector.md R146, R147); a block code (7-9) needs scl. -/
def cvtPairOk (f t : Nat) (scl : Bool) : Bool :=
  let plain (c : Nat) : Bool := c ≤ 6 || (10 ≤ c && c ≤ 17)
  let block (c : Nat) : Bool := 7 ≤ c && c ≤ 9
  (plain f && plain t && f != t) || (block f && t ≤ 1 && scl) || (block t && f ≤ 1 && scl)

/-- The valid format pairs of 08_array.md Table 8-7. -/
def mmaPairOk (f g : Nat) : Bool :=
  (f == 0 && g == 0) || (f == 1 && g == 1) || ((f == 2 || f == 3) && (g == 2 || g == 3)) || (f == 4 && g == 4) ||
    (5 ≤ f && f ≤ 7 && 5 ≤ g && g ≤ 7) || (f == 8 && g == 8) || (f == 9 && g == 9) ||
    ((f == 0 || f == 2 || f == 3 || f == 8) && g == 10)

/-- Stage 1 of R99: the word's own fields hold no reserved value. -/
def Instr.fieldsOk : Instr → Bool
  | .add _ _ _ _ _ => true
  | .sub _ _ _ _ _ => true
  | .and _ _ _ _ _ => true
  | .or _ _ _ _ _ => true
  | .xor _ _ _ _ _ => true
  | .andn _ _ _ _ _ => true
  | .shl _ _ _ _ _ => true
  | .shr _ _ _ _ _ => true
  | .sra _ _ _ _ _ => true
  | .min _ _ _ _ _ => true
  | .max _ _ _ _ _ => true
  | .minu _ _ _ _ _ => true
  | .maxu _ _ _ _ _ => true
  | .clz _ _ _ _ => true
  | .ctz _ _ _ _ => true
  | .popc _ _ _ _ => true
  | .sel _ _ _ _ _ => true
  | .addW _ _ _ _ _ => true
  | .subW _ _ _ _ _ => true
  | .shlW _ _ _ _ _ => true
  | .shrW _ _ _ _ _ => true
  | .sraW _ _ _ _ _ => true
  | .clzW _ _ _ _ => true
  | .ctzW _ _ _ _ => true
  | .popcW _ _ _ _ => true
  | .addi _ _ _ _ _ => true
  | .andi _ _ _ _ _ => true
  | .ori _ _ _ _ _ => true
  | .xori _ _ _ _ _ => true
  | .shli _ _ _ _ => true
  | .shri _ _ _ _ => true
  | .srai _ _ _ _ => true
  | .li _ _ _ _ => true
  | .lea _ _ _ => true
  | .cmp _ c _ _ _ _ k => c != 3 && (k.toNat ≤ 5 || (0x10 ≤ k.toNat && k.toNat ≤ 0x13) || (0x18 ≤ k.toNat && k.toNat ≤ 0x1B))
  | .cmpi _ c _ k _ => c != 3 && k.toNat ≤ 5
  | .pand _ _ _ => true
  | .por _ _ _ => true
  | .pxor _ _ _ => true
  | .pandn _ _ _ => true
  | .pnot _ _ => true
  | .mul _ _ _ _ _ => true
  | .mulh _ _ _ _ _ => true
  | .mulhu _ _ _ _ _ => true
  | .mulW _ _ _ _ _ => true
  | .faddS _ _ _ _ _ => true
  | .fsubS _ _ _ _ _ => true
  | .fmulS _ _ _ _ _ => true
  | .fmaS _ _ _ _ _ _ => true
  | .fminS _ _ _ _ _ => true
  | .fmaxS _ _ _ _ _ => true
  | .faddD _ _ _ _ _ => true
  | .fsubD _ _ _ _ _ => true
  | .fmulD _ _ _ _ _ => true
  | .fmaD _ _ _ _ _ _ => true
  | .fminD _ _ _ _ _ => true
  | .fmaxD _ _ _ _ _ => true
  | .cvtSD _ _ _ _ => true
  | .cvtDS _ _ _ _ => true
  | .cvtSI _ _ _ _ => true
  | .cvtIS _ _ _ _ => true
  | .cvtDI _ _ _ _ => true
  | .cvtID _ _ _ _ => true
  | .div _ _ _ _ _ => true
  | .divu _ _ _ _ _ => true
  | .rem _ _ _ _ _ => true
  | .remu _ _ _ _ _ => true
  | .fdivS _ _ _ _ _ => true
  | .fsqrtS _ _ _ _ => true
  | .fdivD _ _ _ _ _ => true
  | .fsqrtD _ _ _ _ => true
  | .movM _ _ _ _ => true
  | .movD _ _ _ _ => true
  | .movL _ _ _ _ => true
  | .spl _ _ _ => true
  | .sps _ _ _ => true
  | .lsp k _ _ _ _ _ => k != 7
  | .ssp _ _ _ _ _ => true
  | .popStream _ b _ _ => b.toNat ≤ 7
  | .popChannel _ b _ _ => b.toNat ≤ 1
  | .pushK _ b _ _ => b.toNat ≤ 4
  | .pushO _ b _ _ => b == 4 || b == 5
  | .pushJ _ b _ _ => b.toNat ≤ 1
  | .br _ _ _ => true
  | .call _ _ _ => true
  | .jr _ _ _ => true
  | .jrl _ _ _ _ => true
  | .snap _ _ _ _ => true
  | .accept _ _ _ _ => true
  | .reject _ _ _ _ => true
  | .snapq _ _ _ _ => true
  | .evset _ => true
  | .evclr _ => true
  | .evtst _ _ => true
  | .qpost _ _ _ _ _ => true
  | .mfs _ _ => true
  | .mts _ _ => true
  | .trap _ _ => true
  | .eret => true
  | .tstop _ => true
  | .tgo _ => true
  | .rawait i c => i.toNat ≤ 15 && 1 ≤ c.toNat && c.toNat ≤ 64
  | .rrel i c => i.toNat ≤ 15 && 1 ≤ c.toNat && c.toNat ≤ 64
  | .halt => true
  | .wait _ _ => true
  | .sig _ _ => true
  | .fwait i _ => i.toNat ≤ 15
  | .vadd d a b _ _ => dstOk d && opdOk a && opdOk b
  | .vsub d a b _ _ => dstOk d && opdOk a && opdOk b
  | .vmul d a b _ _ => dstOk d && opdOk a && opdOk b
  | .vmin d a b _ _ => dstOk d && opdOk a && opdOk b
  | .vmax d a b _ _ => dstOk d && opdOk a && opdOk b
  | .vabs d a _ _ => dstOk d && opdOk a
  | .vneg d a _ _ => dstOk d && opdOk a
  | .vmov d a _ _ => dstOk d && opdOk a
  | .vfma d a b _ t => d.toNat ≤ 47 && opdOk a && opdOk b && t != 3
  | .vfms d a b _ t => d.toNat ≤ 47 && opdOk a && opdOk b && t != 3
  | .vfnma d a b _ t => d.toNat ≤ 47 && opdOk a && opdOk b && t != 3
  | .vdot2 d a b _ => d.toNat ≤ 47 && opdOk a && opdOk b
  | .vand d a b _ _ => dstOk d && opdOk a && opdOk b
  | .vor d a b _ _ => dstOk d && opdOk a && opdOk b
  | .vxor d a b _ _ => dstOk d && opdOk a && opdOk b
  | .vandn d a b _ _ => dstOk d && opdOk a && opdOk b
  | .vshl d a b _ t => dstOk d && opdOk a && opdOk b && t != 3
  | .vshr d a b _ t => dstOk d && opdOk a && opdOk b && t != 3
  | .vsra d a b _ t => dstOk d && opdOk a && opdOk b && t != 3
  | .vnot d a _ _ => dstOk d && opdOk a
  | .vcmp d c a b _ t k => d != 0 && c != 3 && opdOk a && opdOk b && t != 3 && (t != 2 || k.toNat ≤ 5)
  | .vsel d a b _ _ => dstOk d && opdOk a && opdOk b
  | .vcvt d a f t _ _ c => dstOk d && opdOk a && cvtPairOk f.toNat t.toNat (c == 1)
  | .vrcp d a _ t => dstOk d && opdOk a && t.toNat ≤ 1
  | .vrsq d a _ t => dstOk d && opdOk a && t == 0
  | .vexp2 d a _ t => dstOk d && opdOk a && t == 0
  | .vlog2 d a _ t => dstOk d && opdOk a && t == 0
  | .vsinp d a _ t => dstOk d && opdOk a && t == 0
  | .vcosp d a _ t => dstOk d && opdOk a && t == 0
  | .vtanh d a _ t => dstOk d && opdOk a && t == 0
  | .vsqrt d a _ t => dstOk d && opdOk a && t.toNat ≤ 1
  | .vsum d a _ t => dstOk d && opdOk a && t != 3
  | .vrmax d a _ t => dstOk d && opdOk a && t != 3
  | .vrmin d a _ t => dstOk d && opdOk a && t != 3
  | .vramax d a _ t => dstOk d && opdOk a && t != 3
  | .vrot d a _ _ _ => dstOk d && opdOk a
  | .vshuf d a _ _ => dstOk d && opdOk a
  | .vtapw v _ => v.toNat ≤ 47
  | .vtapr v _ => v.toNat ≤ 47
  | .vins v _ e a => v.toNat ≤ 47 && (a == 0 || e == 0)
  | .vinsB _ _ => true
  | .vext v _ _ => v.toNat ≤ 47
  | .vacr v _ _ => v.toNat ≤ 47
  | .vacw v _ _ => v.toNat ≤ 47
  | .cbld d a _ n => d.toNat ≤ 5 && a.toNat ≤ 51 && (48 ≤ a.toNat || n.toNat ≤ 31)
  | .cbswap _ => true
  | .vcbx d a _ w _ => dstOk d && opdOk a && w != 3
  | .vmode w b c _ _ => (c == 1 && w != 3) || (c == 0 && w == 0 && b == 0)
  | .vview d _ => d.toNat ≤ 17
  | .vbamax d a _ => dstOk d && opdOk a
  | .vbscMx a => opdOk a
  | .vbscSb8 a => opdOk a
  | .vbscSb4 a => opdOk a
  | .mand d _ _ => d != 0
  | .mor d _ _ => d != 0
  | .mxor d _ _ => d != 0
  | .mnot d _ => d != 0
  | .mpopc _ => true
  | .ld _ _ s c _ _ => c == 0 || s == 1
  | .ldw _ _ k s c _ _ => k.toNat ≤ 6 && (c == 0 || s == 1)
  | .ldg _ _ k s c _ _ => 4 ≤ k.toNat && k.toNat ≤ 6 && (c == 0 || s == 1)
  | .sset _ _ _ => true
  | .sclr _ => true
  | .markL _ => true
  | .atr _ _ k _ _ _ => k.toNat ≤ 11
  | .fenceL s => s.toNat ≤ 4
  | .acq _ _ k _ => k.toNat ≤ 4
  | .pref _ _ => true
  | .laAdd _ _ _ => true
  | .laAddi _ _ _ _ => true
  | .laShli _ _ _ => true
  | .laLi _ _ _ => true
  | .laTake _ c => c.toNat ≤ 1
  | .laIx _ n => n.toNat ≤ 5
  | .barw _ _ _ => true
  | .st o _ _ _ => o.toNat ≤ 3
  | .stw o _ k _ _ => (o == 4 || o == 5) && k.toNat ≤ 6
  | .stx o _ k _ _ => o.toNat ≤ 3 && 4 ≤ k.toNat && k.toNat ≤ 6
  | .atn o _ k _ _ _ => (o == 4 || o == 5) && k.toNat ≤ 9
  | .markS _ => true
  | .fenceS s => s.toNat ≤ 4
  | .rel o _ k _ => (o == 4 || o == 5) && k.toNat ≤ 4
  | .aflush => true
  | .saAdd _ _ _ => true
  | .saAddi _ _ _ _ => true
  | .saShli _ _ _ => true
  | .saLi _ _ _ => true
  | .saTake _ c => c.toNat ≤ 1
  | .saIx _ n => n.toNat ≤ 5
  | .barm f _ _ _ => f == 4 || f == 5
  | .barr f _ _ _ => f == 4 || f == 5
  | .mpar r _ _ => r.toNat ≤ 7
  | .mparq r => r.toNat ≤ 7
  | .mma _ _ _ _ _ _ f g => mmaPairOk f.toNat g.toNat
  | .mmas _ _ _ _ _ f g => mmaPairOk f.toNat g.toNat && g != 10
  | .mzero _ _ _ => true
  | .mout _ _ _ f => f.toNat ≤ 4 || f == 8 || f == 9
  | .tpar _ _ _ => true
  | .fft _ _ _ _ _ t => 4 ≤ t.toNat
  | .leg _ _ _ t => 4 ≤ t.toNat
  | .xpar _ _ _ => true
  | .send _ _ _ => true
  | .swg _ _ _ => true
  | .rtree _ _ _ => true
  | .ypar _ _ _ => true
  | .recv _ _ _ => true
  | .yclr _ _ _ => true
  | .loop l s n c => l.toNat ≤ 5 && n != 0 && (s == 0 || c == 0)
  | .nopl => true
  | .fetchLine _ => true
  | .branchResolve _ => true
  | .fetchEndHalt _ _ => true
  | .resultLanding _ _ => true
  | .trapEntry _ => true
  | .freplyRead _ => true
  | .wdataAccess _ _ _ => true
  | .launchend _ _ => true
  | .pendingSigPerform _ _ => true
  | .eventPerform => true
  | .qpostTimeout _ => true
  | .loadDeliver _ => true
  | .storePerform _ _ => true
  | .tlbWalk _ _ => true
  | .streamElement _ _ => true
  | .anvilPrescan _ => true
  | .anvilStep _ => true
  | .commandRaise _ _ => true
  | .transformStep _ => true
  | .followOnStart _ => true
  | .podModeChange _ => true
  | .islandRatioChange _ => true
  | .watchdogExpiry _ => true
  | .traceSample _ _ => true
  | .tileResetComplete _ => true
  | .bindRecord _ _ => true
  | .groupStart _ => true
  | .tileDrainComplete _ => true
  | .launchComplete _ => true
  | .preemption _ => true
  | .saveComplete _ => true
  | .placeLaunch _ _ _ _ _ _ _ => true
  | .priorityAging _ => true
  | .faultRecordWrite _ => true
  | .faultRecordDrop _ => true
  | .ctxCreate _ => true
  | .ctxKill _ => true
  | .ctxAck _ => true
  | .ctxDestroy _ => true
  | .functionLevelReset _ => true
  | .killingComplete _ => true
  | .attnRequest _ => true
  | .reply _ _ => true
  | .notify _ _ => true
  | .claim _ _ => true
  | .queueCreate _ _ => true
  | .queuePause _ => true
  | .queueResume _ => true
  | .queueDrain _ => true
  | .queueReset _ => true
  | .drainComplete _ => true
  | .hearthPoll _ => true
  | .dispatch _ _ => true
  | .copy _ _ => true
  | .layout _ _ => true
  | .qfence _ _ => true
  | .qfenceJoinComplete _ => true
  | .signalPacket _ _ => true
  | .graph _ _ => true
  | .slotReserve _ => true
  | .copyComplete _ => true
  | .copyFault _ _ => true
  | .barrierPost _ _ _ _ => true
  | .barwPoll _ => true
  | .graphLaunchRecord _ => true
  | .snapop _ => true
  | .jumpif _ => true
  | .graphSignalRecord _ => true
  | .graphEndRecord _ => true
  | .flitDepart _ => true
  | .flitLanding _ => true
  | .treeNodeCombine _ _ => true
  | .portEnable _ => true
  | .portDisable _ => true
  | .bringupLock _ _ => true
  | .bringupAlign _ _ _ => true
  | .bringupTrain _ => true
  | .bringupVerify _ _ _ => true
  | .bringupHandshake _ _ _ => true
  | .rowSend _ => true
  | .rowReceive _ _ => true
  | .repairPacketReceive _ _ => true
  | .repairTimeout _ => true
  | .ringNearWrap _ _ _ => true
  | .ringEndOfRange _ _ _ => true
  | .laneRetrainComplete _ _ _ => true
  | .laneRetrainRetry _ _ => true
  | .swcmd _ _ => true
  | .switchCellWriteDone _ => true
  | .requestAccept _ => true
  | .requestDepart _ => true
  | .targetService _ => true
  | .replyArrive _ _ _ _ _ => true
  | .remoteTimeout _ => true
  | .waitLimitTimeout _ => true
  | .heldRequestTimeout _ => true
  | .aggElementEnter _ => true
  | .aggAgeExpiry _ _ => true
  | .aggPacketAccept _ _ => true
  | .aggStatusArrive _ _ _ _ => true
  | .aggctlWrite _ _ => true
  | .ueWorkDescriptor _ _ => true
  | .ueRmaPacket _ _ _ _ _ => true
  | .entropyStatsUpdate _ _ _ _ _ _ => true
  | .setroot _ => true
  | .shootdown _ => true
  | .frameset _ => true
  | .dirtysync _ => true
  | .migcfg _ => true
  | .migrationTrigger _ _ _ => true
  | .migrationMoveComplete _ _ => true
  | .freezeExpiry _ _ => true
  | .srangeWrite _ _ _ _ => true
  | .spoolWrite _ _ => true
  | .snapshotOperationPerform _ => true
  | .snapshotLineWrite _ _ _ _ => true
  | .rejectCompletion _ => true
  | .invalidateAckTimeout _ => true
  | .restoreLine _ _ => true
  | .hostWrite _ _ _ => true
  | .modulePowerOn _ => true
  | .islandPowerUp _ => true
  | .islandPowerDown _ => true
  | .limitLoop _ _ => true
  | .nreqWrite _ _ => true
  | .vsetWrite _ _ => true
  | .update => true
  | .attest => true
  | .logread => true
  | .registerWrite _ _ _ => true
  | .clockLaneLost _ _ => true
  | .modulePowerOff => true
  | .shadowEntryFree _ => true
  | .ueResponsePacket _ _ _ _ => true
  | .pageCommandComplete => true

/-- The extension words an instruction carries. -/
def Instr.exts : Instr → List W32
  | .add _ _ _ _ _ => []
  | .sub _ _ _ _ _ => []
  | .and _ _ _ _ _ => []
  | .or _ _ _ _ _ => []
  | .xor _ _ _ _ _ => []
  | .andn _ _ _ _ _ => []
  | .shl _ _ _ _ _ => []
  | .shr _ _ _ _ _ => []
  | .sra _ _ _ _ _ => []
  | .min _ _ _ _ _ => []
  | .max _ _ _ _ _ => []
  | .minu _ _ _ _ _ => []
  | .maxu _ _ _ _ _ => []
  | .clz _ _ _ _ => []
  | .ctz _ _ _ _ => []
  | .popc _ _ _ _ => []
  | .sel _ _ _ _ _ => []
  | .addW _ _ _ _ _ => []
  | .subW _ _ _ _ _ => []
  | .shlW _ _ _ _ _ => []
  | .shrW _ _ _ _ _ => []
  | .sraW _ _ _ _ _ => []
  | .clzW _ _ _ _ => []
  | .ctzW _ _ _ _ => []
  | .popcW _ _ _ _ => []
  | .addi _ _ _ _ x => x
  | .andi _ _ _ _ x => x
  | .ori _ _ _ _ x => x
  | .xori _ _ _ _ x => x
  | .shli _ _ _ _ => []
  | .shri _ _ _ _ => []
  | .srai _ _ _ _ => []
  | .li _ _ _ x => x
  | .lea _ _ _ => []
  | .cmp _ _ _ _ _ _ _ => []
  | .cmpi _ _ _ _ _ => []
  | .pand _ _ _ => []
  | .por _ _ _ => []
  | .pxor _ _ _ => []
  | .pandn _ _ _ => []
  | .pnot _ _ => []
  | .mul _ _ _ _ _ => []
  | .mulh _ _ _ _ _ => []
  | .mulhu _ _ _ _ _ => []
  | .mulW _ _ _ _ _ => []
  | .faddS _ _ _ _ _ => []
  | .fsubS _ _ _ _ _ => []
  | .fmulS _ _ _ _ _ => []
  | .fmaS _ _ _ _ _ _ => []
  | .fminS _ _ _ _ _ => []
  | .fmaxS _ _ _ _ _ => []
  | .faddD _ _ _ _ _ => []
  | .fsubD _ _ _ _ _ => []
  | .fmulD _ _ _ _ _ => []
  | .fmaD _ _ _ _ _ _ => []
  | .fminD _ _ _ _ _ => []
  | .fmaxD _ _ _ _ _ => []
  | .cvtSD _ _ _ _ => []
  | .cvtDS _ _ _ _ => []
  | .cvtSI _ _ _ _ => []
  | .cvtIS _ _ _ _ => []
  | .cvtDI _ _ _ _ => []
  | .cvtID _ _ _ _ => []
  | .div _ _ _ _ _ => []
  | .divu _ _ _ _ _ => []
  | .rem _ _ _ _ _ => []
  | .remu _ _ _ _ _ => []
  | .fdivS _ _ _ _ _ => []
  | .fsqrtS _ _ _ _ => []
  | .fdivD _ _ _ _ _ => []
  | .fsqrtD _ _ _ _ => []
  | .movM _ _ _ _ => []
  | .movD _ _ _ _ => []
  | .movL _ _ _ _ => []
  | .spl _ _ _ => []
  | .sps _ _ _ => []
  | .lsp _ _ _ _ _ x => x
  | .ssp _ _ _ _ _ => []
  | .popStream _ _ _ _ => []
  | .popChannel _ _ _ _ => []
  | .pushK _ _ _ _ => []
  | .pushO _ _ _ _ => []
  | .pushJ _ _ _ _ => []
  | .br _ _ _ => []
  | .call _ _ _ => []
  | .jr _ _ _ => []
  | .jrl _ _ _ _ => []
  | .snap _ _ _ _ => []
  | .accept _ _ _ _ => []
  | .reject _ _ _ _ => []
  | .snapq _ _ _ _ => []
  | .evset _ => []
  | .evclr _ => []
  | .evtst _ _ => []
  | .qpost _ _ _ _ _ => []
  | .mfs _ _ => []
  | .mts _ _ => []
  | .trap _ _ => []
  | .eret => []
  | .tstop _ => []
  | .tgo _ => []
  | .rawait _ _ => []
  | .rrel _ _ => []
  | .halt => []
  | .wait _ _ => []
  | .sig _ _ => []
  | .fwait _ _ => []
  | .vadd _ _ _ _ _ => []
  | .vsub _ _ _ _ _ => []
  | .vmul _ _ _ _ _ => []
  | .vmin _ _ _ _ _ => []
  | .vmax _ _ _ _ _ => []
  | .vabs _ _ _ _ => []
  | .vneg _ _ _ _ => []
  | .vmov _ _ _ _ => []
  | .vfma _ _ _ _ _ => []
  | .vfms _ _ _ _ _ => []
  | .vfnma _ _ _ _ _ => []
  | .vdot2 _ _ _ _ => []
  | .vand _ _ _ _ _ => []
  | .vor _ _ _ _ _ => []
  | .vxor _ _ _ _ _ => []
  | .vandn _ _ _ _ _ => []
  | .vshl _ _ _ _ _ => []
  | .vshr _ _ _ _ _ => []
  | .vsra _ _ _ _ _ => []
  | .vnot _ _ _ _ => []
  | .vcmp _ _ _ _ _ _ _ => []
  | .vsel _ _ _ _ _ => []
  | .vcvt _ _ _ _ _ _ _ => []
  | .vrcp _ _ _ _ => []
  | .vrsq _ _ _ _ => []
  | .vexp2 _ _ _ _ => []
  | .vlog2 _ _ _ _ => []
  | .vsinp _ _ _ _ => []
  | .vcosp _ _ _ _ => []
  | .vtanh _ _ _ _ => []
  | .vsqrt _ _ _ _ => []
  | .vsum _ _ _ _ => []
  | .vrmax _ _ _ _ => []
  | .vrmin _ _ _ _ => []
  | .vramax _ _ _ _ => []
  | .vrot _ _ _ _ _ => []
  | .vshuf _ _ _ x => x
  | .vtapw _ _ => []
  | .vtapr _ _ => []
  | .vins _ _ _ _ => []
  | .vinsB _ _ => []
  | .vext _ _ _ => []
  | .vacr _ _ _ => []
  | .vacw _ _ _ => []
  | .cbld _ _ _ _ => []
  | .cbswap _ => []
  | .vcbx _ _ _ _ _ => []
  | .vmode _ _ _ _ _ => []
  | .vview _ x => x
  | .vbamax _ _ _ => []
  | .vbscMx _ => []
  | .vbscSb8 _ => []
  | .vbscSb4 _ => []
  | .mand _ _ _ => []
  | .mor _ _ _ => []
  | .mxor _ _ _ => []
  | .mnot _ _ => []
  | .mpopc _ => []
  | .ld _ _ _ _ _ x => x
  | .ldw _ _ _ _ _ _ x => x
  | .ldg _ _ _ _ _ _ x => x
  | .sset _ _ _ => []
  | .sclr _ => []
  | .markL _ => []
  | .atr _ _ _ _ _ _ => []
  | .fenceL _ => []
  | .acq _ _ _ _ => []
  | .pref _ _ => []
  | .laAdd _ _ _ => []
  | .laAddi _ _ _ x => x
  | .laShli _ _ _ => []
  | .laLi _ _ x => x
  | .laTake _ _ => []
  | .laIx _ _ => []
  | .barw _ _ _ => []
  | .st _ _ _ _ => []
  | .stw _ _ _ _ _ => []
  | .stx _ _ _ _ _ => []
  | .atn _ _ _ _ _ _ => []
  | .markS _ => []
  | .fenceS _ => []
  | .rel _ _ _ _ => []
  | .aflush => []
  | .saAdd _ _ _ => []
  | .saAddi _ _ _ x => x
  | .saShli _ _ _ => []
  | .saLi _ _ x => x
  | .saTake _ _ => []
  | .saIx _ _ => []
  | .barm _ _ _ _ => []
  | .barr _ _ _ _ => []
  | .mpar _ _ x => x
  | .mparq _ => []
  | .mma _ _ _ _ _ _ _ _ => []
  | .mmas _ _ _ _ _ _ _ => []
  | .mzero _ _ _ => []
  | .mout _ _ _ _ => []
  | .tpar _ _ x => x
  | .fft _ _ _ _ _ _ => []
  | .leg _ _ _ _ => []
  | .xpar _ _ x => x
  | .send _ _ _ => []
  | .swg _ _ _ => []
  | .rtree _ _ _ => []
  | .ypar _ _ x => x
  | .recv _ _ _ => []
  | .yclr _ _ _ => []
  | .loop _ _ _ _ => []
  | .nopl => []
  | .fetchLine _ => []
  | .branchResolve _ => []
  | .fetchEndHalt _ _ => []
  | .resultLanding _ _ => []
  | .trapEntry _ => []
  | .freplyRead _ => []
  | .wdataAccess _ _ _ => []
  | .launchend _ _ => []
  | .pendingSigPerform _ _ => []
  | .eventPerform => []
  | .qpostTimeout _ => []
  | .loadDeliver _ => []
  | .storePerform _ _ => []
  | .tlbWalk _ _ => []
  | .streamElement _ _ => []
  | .anvilPrescan _ => []
  | .anvilStep _ => []
  | .commandRaise _ _ => []
  | .transformStep _ => []
  | .followOnStart _ => []
  | .podModeChange _ => []
  | .islandRatioChange _ => []
  | .watchdogExpiry _ => []
  | .traceSample _ _ => []
  | .tileResetComplete _ => []
  | .bindRecord _ _ => []
  | .groupStart _ => []
  | .tileDrainComplete _ => []
  | .launchComplete _ => []
  | .preemption _ => []
  | .saveComplete _ => []
  | .placeLaunch _ _ _ _ _ _ _ => []
  | .priorityAging _ => []
  | .faultRecordWrite _ => []
  | .faultRecordDrop _ => []
  | .ctxCreate _ => []
  | .ctxKill _ => []
  | .ctxAck _ => []
  | .ctxDestroy _ => []
  | .functionLevelReset _ => []
  | .killingComplete _ => []
  | .attnRequest _ => []
  | .reply _ _ => []
  | .notify _ _ => []
  | .claim _ _ => []
  | .queueCreate _ _ => []
  | .queuePause _ => []
  | .queueResume _ => []
  | .queueDrain _ => []
  | .queueReset _ => []
  | .drainComplete _ => []
  | .hearthPoll _ => []
  | .dispatch _ _ => []
  | .copy _ _ => []
  | .layout _ _ => []
  | .qfence _ _ => []
  | .qfenceJoinComplete _ => []
  | .signalPacket _ _ => []
  | .graph _ _ => []
  | .slotReserve _ => []
  | .copyComplete _ => []
  | .copyFault _ _ => []
  | .barrierPost _ _ _ _ => []
  | .barwPoll _ => []
  | .graphLaunchRecord _ => []
  | .snapop _ => []
  | .jumpif _ => []
  | .graphSignalRecord _ => []
  | .graphEndRecord _ => []
  | .flitDepart _ => []
  | .flitLanding _ => []
  | .treeNodeCombine _ _ => []
  | .portEnable _ => []
  | .portDisable _ => []
  | .bringupLock _ _ => []
  | .bringupAlign _ _ _ => []
  | .bringupTrain _ => []
  | .bringupVerify _ _ _ => []
  | .bringupHandshake _ _ _ => []
  | .rowSend _ => []
  | .rowReceive _ _ => []
  | .repairPacketReceive _ _ => []
  | .repairTimeout _ => []
  | .ringNearWrap _ _ _ => []
  | .ringEndOfRange _ _ _ => []
  | .laneRetrainComplete _ _ _ => []
  | .laneRetrainRetry _ _ => []
  | .swcmd _ _ => []
  | .switchCellWriteDone _ => []
  | .requestAccept _ => []
  | .requestDepart _ => []
  | .targetService _ => []
  | .replyArrive _ _ _ _ _ => []
  | .remoteTimeout _ => []
  | .waitLimitTimeout _ => []
  | .heldRequestTimeout _ => []
  | .aggElementEnter _ => []
  | .aggAgeExpiry _ _ => []
  | .aggPacketAccept _ _ => []
  | .aggStatusArrive _ _ _ _ => []
  | .aggctlWrite _ _ => []
  | .ueWorkDescriptor _ _ => []
  | .ueRmaPacket _ _ _ _ _ => []
  | .entropyStatsUpdate _ _ _ _ _ _ => []
  | .setroot _ => []
  | .shootdown _ => []
  | .frameset _ => []
  | .dirtysync _ => []
  | .migcfg _ => []
  | .migrationTrigger _ _ _ => []
  | .migrationMoveComplete _ _ => []
  | .freezeExpiry _ _ => []
  | .srangeWrite _ _ _ _ => []
  | .spoolWrite _ _ => []
  | .snapshotOperationPerform _ => []
  | .snapshotLineWrite _ _ _ _ => []
  | .rejectCompletion _ => []
  | .invalidateAckTimeout _ => []
  | .restoreLine _ _ => []
  | .hostWrite _ _ _ => []
  | .modulePowerOn _ => []
  | .islandPowerUp _ => []
  | .islandPowerDown _ => []
  | .limitLoop _ _ => []
  | .nreqWrite _ _ => []
  | .vsetWrite _ _ => []
  | .update => []
  | .attest => []
  | .logread => []
  | .registerWrite _ _ _ => []
  | .clockLaneLost _ _ => []
  | .modulePowerOff => []
  | .shadowEntryFree _ => []
  | .ueResponsePacket _ _ _ _ => []
  | .pageCommandComplete => []

/-- Stage 2 of R99: the number `n` of extensions is one the form takes (R77). -/
def Instr.extCountOk (i : Instr) (n : Nat) : Bool :=
  match i with
  | .add _ _ _ _ _ => n == 0
  | .sub _ _ _ _ _ => n == 0
  | .and _ _ _ _ _ => n == 0
  | .or _ _ _ _ _ => n == 0
  | .xor _ _ _ _ _ => n == 0
  | .andn _ _ _ _ _ => n == 0
  | .shl _ _ _ _ _ => n == 0
  | .shr _ _ _ _ _ => n == 0
  | .sra _ _ _ _ _ => n == 0
  | .min _ _ _ _ _ => n == 0
  | .max _ _ _ _ _ => n == 0
  | .minu _ _ _ _ _ => n == 0
  | .maxu _ _ _ _ _ => n == 0
  | .clz _ _ _ _ => n == 0
  | .ctz _ _ _ _ => n == 0
  | .popc _ _ _ _ => n == 0
  | .sel _ _ _ _ _ => n == 0
  | .addW _ _ _ _ _ => n == 0
  | .subW _ _ _ _ _ => n == 0
  | .shlW _ _ _ _ _ => n == 0
  | .shrW _ _ _ _ _ => n == 0
  | .sraW _ _ _ _ _ => n == 0
  | .clzW _ _ _ _ => n == 0
  | .ctzW _ _ _ _ => n == 0
  | .popcW _ _ _ _ => n == 0
  | .addi _ _ _ _ _ => n ≤ 2
  | .andi _ _ _ _ _ => n ≤ 2
  | .ori _ _ _ _ _ => n ≤ 2
  | .xori _ _ _ _ _ => n ≤ 2
  | .shli _ _ _ _ => n == 0
  | .shri _ _ _ _ => n == 0
  | .srai _ _ _ _ => n == 0
  | .li _ _ _ _ => n ≤ 2
  | .lea _ _ _ => n == 0
  | .cmp _ _ _ _ _ _ _ => n == 0
  | .cmpi _ _ _ _ _ => n == 0
  | .pand _ _ _ => n == 0
  | .por _ _ _ => n == 0
  | .pxor _ _ _ => n == 0
  | .pandn _ _ _ => n == 0
  | .pnot _ _ => n == 0
  | .mul _ _ _ _ _ => n == 0
  | .mulh _ _ _ _ _ => n == 0
  | .mulhu _ _ _ _ _ => n == 0
  | .mulW _ _ _ _ _ => n == 0
  | .faddS _ _ _ _ _ => n == 0
  | .fsubS _ _ _ _ _ => n == 0
  | .fmulS _ _ _ _ _ => n == 0
  | .fmaS _ _ _ _ _ _ => n == 0
  | .fminS _ _ _ _ _ => n == 0
  | .fmaxS _ _ _ _ _ => n == 0
  | .faddD _ _ _ _ _ => n == 0
  | .fsubD _ _ _ _ _ => n == 0
  | .fmulD _ _ _ _ _ => n == 0
  | .fmaD _ _ _ _ _ _ => n == 0
  | .fminD _ _ _ _ _ => n == 0
  | .fmaxD _ _ _ _ _ => n == 0
  | .cvtSD _ _ _ _ => n == 0
  | .cvtDS _ _ _ _ => n == 0
  | .cvtSI _ _ _ _ => n == 0
  | .cvtIS _ _ _ _ => n == 0
  | .cvtDI _ _ _ _ => n == 0
  | .cvtID _ _ _ _ => n == 0
  | .div _ _ _ _ _ => n == 0
  | .divu _ _ _ _ _ => n == 0
  | .rem _ _ _ _ _ => n == 0
  | .remu _ _ _ _ _ => n == 0
  | .fdivS _ _ _ _ _ => n == 0
  | .fsqrtS _ _ _ _ => n == 0
  | .fdivD _ _ _ _ _ => n == 0
  | .fsqrtD _ _ _ _ => n == 0
  | .movM _ _ _ _ => n == 0
  | .movD _ _ _ _ => n == 0
  | .movL _ _ _ _ => n == 0
  | .spl _ _ _ => n == 0
  | .sps _ _ _ => n == 0
  | .lsp _ _ _ _ _ _ => n ≤ 2
  | .ssp _ _ _ _ _ => n == 0
  | .popStream _ _ _ _ => n == 0
  | .popChannel _ _ _ _ => n == 0
  | .pushK _ _ _ _ => n == 0
  | .pushO _ _ _ _ => n == 0
  | .pushJ _ _ _ _ => n == 0
  | .br _ _ _ => n == 0
  | .call _ _ _ => n == 0
  | .jr _ _ _ => n == 0
  | .jrl _ _ _ _ => n == 0
  | .snap _ _ _ _ => n == 0
  | .accept _ _ _ _ => n == 0
  | .reject _ _ _ _ => n == 0
  | .snapq _ _ _ _ => n == 0
  | .evset _ => n == 0
  | .evclr _ => n == 0
  | .evtst _ _ => n == 0
  | .qpost _ _ _ _ _ => n == 0
  | .mfs _ _ => n == 0
  | .mts _ _ => n == 0
  | .trap _ _ => n == 0
  | .eret => n == 0
  | .tstop _ => n == 0
  | .tgo _ => n == 0
  | .rawait _ _ => n == 0
  | .rrel _ _ => n == 0
  | .halt => n == 0
  | .wait _ _ => n == 0
  | .sig _ _ => n == 0
  | .fwait _ _ => n == 0
  | .vadd _ _ _ _ _ => n == 0
  | .vsub _ _ _ _ _ => n == 0
  | .vmul _ _ _ _ _ => n == 0
  | .vmin _ _ _ _ _ => n == 0
  | .vmax _ _ _ _ _ => n == 0
  | .vabs _ _ _ _ => n == 0
  | .vneg _ _ _ _ => n == 0
  | .vmov _ _ _ _ => n == 0
  | .vfma _ _ _ _ _ => n == 0
  | .vfms _ _ _ _ _ => n == 0
  | .vfnma _ _ _ _ _ => n == 0
  | .vdot2 _ _ _ _ => n == 0
  | .vand _ _ _ _ _ => n == 0
  | .vor _ _ _ _ _ => n == 0
  | .vxor _ _ _ _ _ => n == 0
  | .vandn _ _ _ _ _ => n == 0
  | .vshl _ _ _ _ _ => n == 0
  | .vshr _ _ _ _ _ => n == 0
  | .vsra _ _ _ _ _ => n == 0
  | .vnot _ _ _ _ => n == 0
  | .vcmp _ _ _ _ _ _ _ => n == 0
  | .vsel _ _ _ _ _ => n == 0
  | .vcvt _ _ _ _ _ _ _ => n == 0
  | .vrcp _ _ _ _ => n == 0
  | .vrsq _ _ _ _ => n == 0
  | .vexp2 _ _ _ _ => n == 0
  | .vlog2 _ _ _ _ => n == 0
  | .vsinp _ _ _ _ => n == 0
  | .vcosp _ _ _ _ => n == 0
  | .vtanh _ _ _ _ => n == 0
  | .vsqrt _ _ _ _ => n == 0
  | .vsum _ _ _ _ => n == 0
  | .vrmax _ _ _ _ => n == 0
  | .vrmin _ _ _ _ => n == 0
  | .vramax _ _ _ _ => n == 0
  | .vrot _ _ _ _ _ => n == 0
  | .vshuf _ _ _ _ => n == 1
  | .vtapw _ _ => n == 0
  | .vtapr _ _ => n == 0
  | .vins _ _ _ _ => n == 0
  | .vinsB _ _ => n == 0
  | .vext _ _ _ => n == 0
  | .vacr _ _ _ => n == 0
  | .vacw _ _ _ => n == 0
  | .cbld _ _ _ _ => n == 0
  | .cbswap _ => n == 0
  | .vcbx _ _ _ _ _ => n == 0
  | .vmode _ _ _ _ _ => n == 0
  | .vview _ _ => n == 1
  | .vbamax _ _ _ => n == 0
  | .vbscMx _ => n == 0
  | .vbscSb8 _ => n == 0
  | .vbscSb4 _ => n == 0
  | .mand _ _ _ => n == 0
  | .mor _ _ _ => n == 0
  | .mxor _ _ _ => n == 0
  | .mnot _ _ => n == 0
  | .mpopc _ => n == 0
  | .ld _ _ _ c _ _ => n == c.toNat
  | .ldw _ _ _ _ c _ _ => n == c.toNat
  | .ldg _ _ _ _ c _ _ => n == c.toNat
  | .sset _ _ _ => n == 0
  | .sclr _ => n == 0
  | .markL _ => n == 0
  | .atr _ _ _ _ _ _ => n == 0
  | .fenceL _ => n == 0
  | .acq _ _ _ _ => n == 0
  | .pref _ _ => n == 0
  | .laAdd _ _ _ => n == 0
  | .laAddi _ _ _ _ => n ≤ 1
  | .laShli _ _ _ => n == 0
  | .laLi _ _ _ => n ≤ 1
  | .laTake _ _ => n == 0
  | .laIx _ _ => n == 0
  | .barw _ _ _ => n == 0
  | .st _ _ _ _ => n == 0
  | .stw _ _ _ _ _ => n == 0
  | .stx _ _ _ _ _ => n == 0
  | .atn _ _ _ _ _ _ => n == 0
  | .markS _ => n == 0
  | .fenceS _ => n == 0
  | .rel _ _ _ _ => n == 0
  | .aflush => n == 0
  | .saAdd _ _ _ => n == 0
  | .saAddi _ _ _ _ => n ≤ 1
  | .saShli _ _ _ => n == 0
  | .saLi _ _ _ => n ≤ 1
  | .saTake _ _ => n == 0
  | .saIx _ _ => n == 0
  | .barm _ _ _ _ => n == 0
  | .barr _ _ _ _ => n == 0
  | .mpar _ _ _ => n ≤ 1
  | .mparq _ => n == 0
  | .mma _ _ _ _ _ _ _ _ => n == 0
  | .mmas _ _ _ _ _ _ _ => n == 0
  | .mzero _ _ _ => n == 0
  | .mout _ _ _ _ => n == 0
  | .tpar _ _ _ => n ≤ 1
  | .fft _ _ _ _ _ _ => n == 0
  | .leg _ _ _ _ => n == 0
  | .xpar _ _ _ => n ≤ 1
  | .send _ _ _ => n == 0
  | .swg _ _ _ => n == 0
  | .rtree _ _ _ => n == 0
  | .ypar _ _ _ => n ≤ 1
  | .recv _ _ _ => n == 0
  | .yclr _ _ _ => n == 0
  | .loop _ _ _ _ => n == 0
  | .nopl => n == 0
  | .fetchLine _ => n == 0
  | .branchResolve _ => n == 0
  | .fetchEndHalt _ _ => n == 0
  | .resultLanding _ _ => n == 0
  | .trapEntry _ => n == 0
  | .freplyRead _ => n == 0
  | .wdataAccess _ _ _ => n == 0
  | .launchend _ _ => n == 0
  | .pendingSigPerform _ _ => n == 0
  | .eventPerform => n == 0
  | .qpostTimeout _ => n == 0
  | .loadDeliver _ => n == 0
  | .storePerform _ _ => n == 0
  | .tlbWalk _ _ => n == 0
  | .streamElement _ _ => n == 0
  | .anvilPrescan _ => n == 0
  | .anvilStep _ => n == 0
  | .commandRaise _ _ => n == 0
  | .transformStep _ => n == 0
  | .followOnStart _ => n == 0
  | .podModeChange _ => n == 0
  | .islandRatioChange _ => n == 0
  | .watchdogExpiry _ => n == 0
  | .traceSample _ _ => n == 0
  | .tileResetComplete _ => n == 0
  | .bindRecord _ _ => n == 0
  | .groupStart _ => n == 0
  | .tileDrainComplete _ => n == 0
  | .launchComplete _ => n == 0
  | .preemption _ => n == 0
  | .saveComplete _ => n == 0
  | .placeLaunch _ _ _ _ _ _ _ => n == 0
  | .priorityAging _ => n == 0
  | .faultRecordWrite _ => n == 0
  | .faultRecordDrop _ => n == 0
  | .ctxCreate _ => n == 0
  | .ctxKill _ => n == 0
  | .ctxAck _ => n == 0
  | .ctxDestroy _ => n == 0
  | .functionLevelReset _ => n == 0
  | .killingComplete _ => n == 0
  | .attnRequest _ => n == 0
  | .reply _ _ => n == 0
  | .notify _ _ => n == 0
  | .claim _ _ => n == 0
  | .queueCreate _ _ => n == 0
  | .queuePause _ => n == 0
  | .queueResume _ => n == 0
  | .queueDrain _ => n == 0
  | .queueReset _ => n == 0
  | .drainComplete _ => n == 0
  | .hearthPoll _ => n == 0
  | .dispatch _ _ => n == 0
  | .copy _ _ => n == 0
  | .layout _ _ => n == 0
  | .qfence _ _ => n == 0
  | .qfenceJoinComplete _ => n == 0
  | .signalPacket _ _ => n == 0
  | .graph _ _ => n == 0
  | .slotReserve _ => n == 0
  | .copyComplete _ => n == 0
  | .copyFault _ _ => n == 0
  | .barrierPost _ _ _ _ => n == 0
  | .barwPoll _ => n == 0
  | .graphLaunchRecord _ => n == 0
  | .snapop _ => n == 0
  | .jumpif _ => n == 0
  | .graphSignalRecord _ => n == 0
  | .graphEndRecord _ => n == 0
  | .flitDepart _ => n == 0
  | .flitLanding _ => n == 0
  | .treeNodeCombine _ _ => n == 0
  | .portEnable _ => n == 0
  | .portDisable _ => n == 0
  | .bringupLock _ _ => n == 0
  | .bringupAlign _ _ _ => n == 0
  | .bringupTrain _ => n == 0
  | .bringupVerify _ _ _ => n == 0
  | .bringupHandshake _ _ _ => n == 0
  | .rowSend _ => n == 0
  | .rowReceive _ _ => n == 0
  | .repairPacketReceive _ _ => n == 0
  | .repairTimeout _ => n == 0
  | .ringNearWrap _ _ _ => n == 0
  | .ringEndOfRange _ _ _ => n == 0
  | .laneRetrainComplete _ _ _ => n == 0
  | .laneRetrainRetry _ _ => n == 0
  | .swcmd _ _ => n == 0
  | .switchCellWriteDone _ => n == 0
  | .requestAccept _ => n == 0
  | .requestDepart _ => n == 0
  | .targetService _ => n == 0
  | .replyArrive _ _ _ _ _ => n == 0
  | .remoteTimeout _ => n == 0
  | .waitLimitTimeout _ => n == 0
  | .heldRequestTimeout _ => n == 0
  | .aggElementEnter _ => n == 0
  | .aggAgeExpiry _ _ => n == 0
  | .aggPacketAccept _ _ => n == 0
  | .aggStatusArrive _ _ _ _ => n == 0
  | .aggctlWrite _ _ => n == 0
  | .ueWorkDescriptor _ _ => n == 0
  | .ueRmaPacket _ _ _ _ _ => n == 0
  | .entropyStatsUpdate _ _ _ _ _ _ => n == 0
  | .setroot _ => n == 0
  | .shootdown _ => n == 0
  | .frameset _ => n == 0
  | .dirtysync _ => n == 0
  | .migcfg _ => n == 0
  | .migrationTrigger _ _ _ => n == 0
  | .migrationMoveComplete _ _ => n == 0
  | .freezeExpiry _ _ => n == 0
  | .srangeWrite _ _ _ _ => n == 0
  | .spoolWrite _ _ => n == 0
  | .snapshotOperationPerform _ => n == 0
  | .snapshotLineWrite _ _ _ _ => n == 0
  | .rejectCompletion _ => n == 0
  | .invalidateAckTimeout _ => n == 0
  | .restoreLine _ _ => n == 0
  | .hostWrite _ _ _ => n == 0
  | .modulePowerOn _ => n == 0
  | .islandPowerUp _ => n == 0
  | .islandPowerDown _ => n == 0
  | .limitLoop _ _ => n == 0
  | .nreqWrite _ _ => n == 0
  | .vsetWrite _ _ => n == 0
  | .update => n == 0
  | .attest => n == 0
  | .logread => n == 0
  | .registerWrite _ _ _ => n == 0
  | .clockLaneLost _ _ => n == 0
  | .modulePowerOff => n == 0
  | .shadowEntryFree _ => n == 0
  | .ueResponsePacket _ _ _ _ => n == 0
  | .pageCommandComplete => n == 0

/-- The view register values that vview accepts: no bit above the top defined one (R159). -/
def viewBitsOk (d : BitVec 6) (v : W32) : Bool :=
  if d == 0 then v.toNat < 2 ^ 18 else if d.toNat ≤ 16 then v.toNat < 2 ^ 23 else v.toNat < 2 ^ 2

/-- Stage 3 of R99: the bits of extensions that Table 4-3 requires to be zero. -/
def Instr.extBitsOk : Instr → Bool
  | .add _ _ _ _ _ => true
  | .sub _ _ _ _ _ => true
  | .and _ _ _ _ _ => true
  | .or _ _ _ _ _ => true
  | .xor _ _ _ _ _ => true
  | .andn _ _ _ _ _ => true
  | .shl _ _ _ _ _ => true
  | .shr _ _ _ _ _ => true
  | .sra _ _ _ _ _ => true
  | .min _ _ _ _ _ => true
  | .max _ _ _ _ _ => true
  | .minu _ _ _ _ _ => true
  | .maxu _ _ _ _ _ => true
  | .clz _ _ _ _ => true
  | .ctz _ _ _ _ => true
  | .popc _ _ _ _ => true
  | .sel _ _ _ _ _ => true
  | .addW _ _ _ _ _ => true
  | .subW _ _ _ _ _ => true
  | .shlW _ _ _ _ _ => true
  | .shrW _ _ _ _ _ => true
  | .sraW _ _ _ _ _ => true
  | .clzW _ _ _ _ => true
  | .ctzW _ _ _ _ => true
  | .popcW _ _ _ _ => true
  | .addi _ _ _ _ x => (x.getD 1 0).toNat < 2 ^ 19
  | .andi _ _ _ _ x => (x.getD 1 0).toNat < 2 ^ 19
  | .ori _ _ _ _ x => (x.getD 1 0).toNat < 2 ^ 19
  | .xori _ _ _ _ x => (x.getD 1 0).toNat < 2 ^ 19
  | .shli _ _ _ _ => true
  | .shri _ _ _ _ => true
  | .srai _ _ _ _ => true
  | .li _ _ _ x => (x.getD 1 0).toNat < 2 ^ 19
  | .lea _ _ _ => true
  | .cmp _ _ _ _ _ _ _ => true
  | .cmpi _ _ _ _ _ => true
  | .pand _ _ _ => true
  | .por _ _ _ => true
  | .pxor _ _ _ => true
  | .pandn _ _ _ => true
  | .pnot _ _ => true
  | .mul _ _ _ _ _ => true
  | .mulh _ _ _ _ _ => true
  | .mulhu _ _ _ _ _ => true
  | .mulW _ _ _ _ _ => true
  | .faddS _ _ _ _ _ => true
  | .fsubS _ _ _ _ _ => true
  | .fmulS _ _ _ _ _ => true
  | .fmaS _ _ _ _ _ _ => true
  | .fminS _ _ _ _ _ => true
  | .fmaxS _ _ _ _ _ => true
  | .faddD _ _ _ _ _ => true
  | .fsubD _ _ _ _ _ => true
  | .fmulD _ _ _ _ _ => true
  | .fmaD _ _ _ _ _ _ => true
  | .fminD _ _ _ _ _ => true
  | .fmaxD _ _ _ _ _ => true
  | .cvtSD _ _ _ _ => true
  | .cvtDS _ _ _ _ => true
  | .cvtSI _ _ _ _ => true
  | .cvtIS _ _ _ _ => true
  | .cvtDI _ _ _ _ => true
  | .cvtID _ _ _ _ => true
  | .div _ _ _ _ _ => true
  | .divu _ _ _ _ _ => true
  | .rem _ _ _ _ _ => true
  | .remu _ _ _ _ _ => true
  | .fdivS _ _ _ _ _ => true
  | .fsqrtS _ _ _ _ => true
  | .fdivD _ _ _ _ _ => true
  | .fsqrtD _ _ _ _ => true
  | .movM _ _ _ _ => true
  | .movD _ _ _ _ => true
  | .movL _ _ _ _ => true
  | .spl _ _ _ => true
  | .sps _ _ _ => true
  | .lsp _ _ _ _ _ x => (x.getD 1 0).toNat < 2 ^ 19
  | .ssp _ _ _ _ _ => true
  | .popStream _ _ _ _ => true
  | .popChannel _ _ _ _ => true
  | .pushK _ _ _ _ => true
  | .pushO _ _ _ _ => true
  | .pushJ _ _ _ _ => true
  | .br _ _ _ => true
  | .call _ _ _ => true
  | .jr _ _ _ => true
  | .jrl _ _ _ _ => true
  | .snap _ _ _ _ => true
  | .accept _ _ _ _ => true
  | .reject _ _ _ _ => true
  | .snapq _ _ _ _ => true
  | .evset _ => true
  | .evclr _ => true
  | .evtst _ _ => true
  | .qpost _ _ _ _ _ => true
  | .mfs _ _ => true
  | .mts _ _ => true
  | .trap _ _ => true
  | .eret => true
  | .tstop _ => true
  | .tgo _ => true
  | .rawait _ _ => true
  | .rrel _ _ => true
  | .halt => true
  | .wait _ _ => true
  | .sig _ _ => true
  | .fwait _ _ => true
  | .vadd _ _ _ _ _ => true
  | .vsub _ _ _ _ _ => true
  | .vmul _ _ _ _ _ => true
  | .vmin _ _ _ _ _ => true
  | .vmax _ _ _ _ _ => true
  | .vabs _ _ _ _ => true
  | .vneg _ _ _ _ => true
  | .vmov _ _ _ _ => true
  | .vfma _ _ _ _ _ => true
  | .vfms _ _ _ _ _ => true
  | .vfnma _ _ _ _ _ => true
  | .vdot2 _ _ _ _ => true
  | .vand _ _ _ _ _ => true
  | .vor _ _ _ _ _ => true
  | .vxor _ _ _ _ _ => true
  | .vandn _ _ _ _ _ => true
  | .vshl _ _ _ _ _ => true
  | .vshr _ _ _ _ _ => true
  | .vsra _ _ _ _ _ => true
  | .vnot _ _ _ _ => true
  | .vcmp _ _ _ _ _ _ _ => true
  | .vsel _ _ _ _ _ => true
  | .vcvt _ _ _ _ _ _ _ => true
  | .vrcp _ _ _ _ => true
  | .vrsq _ _ _ _ => true
  | .vexp2 _ _ _ _ => true
  | .vlog2 _ _ _ _ => true
  | .vsinp _ _ _ _ => true
  | .vcosp _ _ _ _ => true
  | .vtanh _ _ _ _ => true
  | .vsqrt _ _ _ _ => true
  | .vsum _ _ _ _ => true
  | .vrmax _ _ _ _ => true
  | .vrmin _ _ _ _ => true
  | .vramax _ _ _ _ => true
  | .vrot _ _ _ _ _ => true
  | .vshuf _ _ _ x => (x.headD 0).toNat < 2 ^ 24
  | .vtapw _ _ => true
  | .vtapr _ _ => true
  | .vins _ _ _ _ => true
  | .vinsB _ _ => true
  | .vext _ _ _ => true
  | .vacr _ _ _ => true
  | .vacw _ _ _ => true
  | .cbld _ _ _ _ => true
  | .cbswap _ => true
  | .vcbx _ _ _ _ _ => true
  | .vmode _ _ _ _ _ => true
  | .vview d x => viewBitsOk d (x.headD 0)
  | .vbamax _ _ _ => true
  | .vbscMx _ => true
  | .vbscSb8 _ => true
  | .vbscSb4 _ => true
  | .mand _ _ _ => true
  | .mor _ _ _ => true
  | .mxor _ _ _ => true
  | .mnot _ _ => true
  | .mpopc _ => true
  | .ld _ _ _ _ _ x => x.all (fun e => e.toNat < 2 ^ 16)
  | .ldw _ _ _ _ _ _ x => x.all (fun e => e.toNat < 2 ^ 16)
  | .ldg _ _ _ _ _ _ x => x.all (fun e => e.toNat < 2 ^ 16)
  | .sset _ _ _ => true
  | .sclr _ => true
  | .markL _ => true
  | .atr _ _ _ _ _ _ => true
  | .fenceL _ => true
  | .acq _ _ _ _ => true
  | .pref _ _ => true
  | .laAdd _ _ _ => true
  | .laAddi _ _ _ _ => true
  | .laShli _ _ _ => true
  | .laLi _ _ _ => true
  | .laTake _ _ => true
  | .laIx _ _ => true
  | .barw _ _ _ => true
  | .st _ _ _ _ => true
  | .stw _ _ _ _ _ => true
  | .stx _ _ _ _ _ => true
  | .atn _ _ _ _ _ _ => true
  | .markS _ => true
  | .fenceS _ => true
  | .rel _ _ _ _ => true
  | .aflush => true
  | .saAdd _ _ _ => true
  | .saAddi _ _ _ _ => true
  | .saShli _ _ _ => true
  | .saLi _ _ _ => true
  | .saTake _ _ => true
  | .saIx _ _ => true
  | .barm _ _ _ _ => true
  | .barr _ _ _ _ => true
  | .mpar _ _ _ => true
  | .mparq _ => true
  | .mma _ _ _ _ _ _ _ _ => true
  | .mmas _ _ _ _ _ _ _ => true
  | .mzero _ _ _ => true
  | .mout _ _ _ _ => true
  | .tpar _ _ _ => true
  | .fft _ _ _ _ _ _ => true
  | .leg _ _ _ _ => true
  | .xpar _ _ _ => true
  | .send _ _ _ => true
  | .swg _ _ _ => true
  | .rtree _ _ _ => true
  | .ypar _ _ _ => true
  | .recv _ _ _ => true
  | .yclr _ _ _ => true
  | .loop _ _ _ _ => true
  | .nopl => true
  | .fetchLine _ => true
  | .branchResolve _ => true
  | .fetchEndHalt _ _ => true
  | .resultLanding _ _ => true
  | .trapEntry _ => true
  | .freplyRead _ => true
  | .wdataAccess _ _ _ => true
  | .launchend _ _ => true
  | .pendingSigPerform _ _ => true
  | .eventPerform => true
  | .qpostTimeout _ => true
  | .loadDeliver _ => true
  | .storePerform _ _ => true
  | .tlbWalk _ _ => true
  | .streamElement _ _ => true
  | .anvilPrescan _ => true
  | .anvilStep _ => true
  | .commandRaise _ _ => true
  | .transformStep _ => true
  | .followOnStart _ => true
  | .podModeChange _ => true
  | .islandRatioChange _ => true
  | .watchdogExpiry _ => true
  | .traceSample _ _ => true
  | .tileResetComplete _ => true
  | .bindRecord _ _ => true
  | .groupStart _ => true
  | .tileDrainComplete _ => true
  | .launchComplete _ => true
  | .preemption _ => true
  | .saveComplete _ => true
  | .placeLaunch _ _ _ _ _ _ _ => true
  | .priorityAging _ => true
  | .faultRecordWrite _ => true
  | .faultRecordDrop _ => true
  | .ctxCreate _ => true
  | .ctxKill _ => true
  | .ctxAck _ => true
  | .ctxDestroy _ => true
  | .functionLevelReset _ => true
  | .killingComplete _ => true
  | .attnRequest _ => true
  | .reply _ _ => true
  | .notify _ _ => true
  | .claim _ _ => true
  | .queueCreate _ _ => true
  | .queuePause _ => true
  | .queueResume _ => true
  | .queueDrain _ => true
  | .queueReset _ => true
  | .drainComplete _ => true
  | .hearthPoll _ => true
  | .dispatch _ _ => true
  | .copy _ _ => true
  | .layout _ _ => true
  | .qfence _ _ => true
  | .qfenceJoinComplete _ => true
  | .signalPacket _ _ => true
  | .graph _ _ => true
  | .slotReserve _ => true
  | .copyComplete _ => true
  | .copyFault _ _ => true
  | .barrierPost _ _ _ _ => true
  | .barwPoll _ => true
  | .graphLaunchRecord _ => true
  | .snapop _ => true
  | .jumpif _ => true
  | .graphSignalRecord _ => true
  | .graphEndRecord _ => true
  | .flitDepart _ => true
  | .flitLanding _ => true
  | .treeNodeCombine _ _ => true
  | .portEnable _ => true
  | .portDisable _ => true
  | .bringupLock _ _ => true
  | .bringupAlign _ _ _ => true
  | .bringupTrain _ => true
  | .bringupVerify _ _ _ => true
  | .bringupHandshake _ _ _ => true
  | .rowSend _ => true
  | .rowReceive _ _ => true
  | .repairPacketReceive _ _ => true
  | .repairTimeout _ => true
  | .ringNearWrap _ _ _ => true
  | .ringEndOfRange _ _ _ => true
  | .laneRetrainComplete _ _ _ => true
  | .laneRetrainRetry _ _ => true
  | .swcmd _ _ => true
  | .switchCellWriteDone _ => true
  | .requestAccept _ => true
  | .requestDepart _ => true
  | .targetService _ => true
  | .replyArrive _ _ _ _ _ => true
  | .remoteTimeout _ => true
  | .waitLimitTimeout _ => true
  | .heldRequestTimeout _ => true
  | .aggElementEnter _ => true
  | .aggAgeExpiry _ _ => true
  | .aggPacketAccept _ _ => true
  | .aggStatusArrive _ _ _ _ => true
  | .aggctlWrite _ _ => true
  | .ueWorkDescriptor _ _ => true
  | .ueRmaPacket _ _ _ _ _ => true
  | .entropyStatsUpdate _ _ _ _ _ _ => true
  | .setroot _ => true
  | .shootdown _ => true
  | .frameset _ => true
  | .dirtysync _ => true
  | .migcfg _ => true
  | .migrationTrigger _ _ _ => true
  | .migrationMoveComplete _ _ => true
  | .freezeExpiry _ _ => true
  | .srangeWrite _ _ _ _ => true
  | .spoolWrite _ _ => true
  | .snapshotOperationPerform _ => true
  | .snapshotLineWrite _ _ _ _ => true
  | .rejectCompletion _ => true
  | .invalidateAckTimeout _ => true
  | .restoreLine _ _ => true
  | .hostWrite _ _ _ => true
  | .modulePowerOn _ => true
  | .islandPowerUp _ => true
  | .islandPowerDown _ => true
  | .limitLoop _ _ => true
  | .nreqWrite _ _ => true
  | .vsetWrite _ _ => true
  | .update => true
  | .attest => true
  | .logread => true
  | .registerWrite _ _ _ => true
  | .clockLaneLost _ _ => true
  | .modulePowerOff => true
  | .shadowEntryFree _ => true
  | .ueResponsePacket _ _ _ _ => true
  | .pageCommandComplete => true

/-- An instruction word that is well formed passes the three stages of R99; the steps of agents carry no word. -/
def Instr.wf (i : Instr) : Bool := i.fieldsOk && i.extCountOk i.exts.length && i.extBitsOk

end Sys2Proof
end

