-- ==== Sys2Proof/Decode.lean ====
section
/-!
DEFINITION. The decoder: total on every word and extension list of every strand, refusing by name (04_lines.md R72-R99),
and after it the encoder, written from the same format tables.
-/
namespace Sys2Proof

/-- Why a word is not an instruction (R99). -/
inductive DecodeError where
  | illegalInsn
  | illegalExt
  deriving DecidableEq, Repr

/-- The control strand's opcodes; `none` for a reserved opcode, fn value or nonzero zero field. -/
def decodeControl (w : W32) (x : List W32) : Option Instr :=
  match (w.extractLsb' 26 6).toNat with
  | 0 =>
    if w.extractLsb' 0 7 == 0 then some (.add (w.extractLsb' 21 5) (w.extractLsb' 16 5) (w.extractLsb' 11 5) (w.extractLsb' 8 3) (w.extractLsb' 7 1)) else
    if w.extractLsb' 0 7 == 1 then some (.sub (w.extractLsb' 21 5) (w.extractLsb' 16 5) (w.extractLsb' 11 5) (w.extractLsb' 8 3) (w.extractLsb' 7 1)) else
    if w.extractLsb' 0 7 == 2 then some (.and (w.extractLsb' 21 5) (w.extractLsb' 16 5) (w.extractLsb' 11 5) (w.extractLsb' 8 3) (w.extractLsb' 7 1)) else
    if w.extractLsb' 0 7 == 3 then some (.or (w.extractLsb' 21 5) (w.extractLsb' 16 5) (w.extractLsb' 11 5) (w.extractLsb' 8 3) (w.extractLsb' 7 1)) else
    if w.extractLsb' 0 7 == 4 then some (.xor (w.extractLsb' 21 5) (w.extractLsb' 16 5) (w.extractLsb' 11 5) (w.extractLsb' 8 3) (w.extractLsb' 7 1)) else
    if w.extractLsb' 0 7 == 5 then some (.andn (w.extractLsb' 21 5) (w.extractLsb' 16 5) (w.extractLsb' 11 5) (w.extractLsb' 8 3) (w.extractLsb' 7 1)) else
    if w.extractLsb' 0 7 == 6 then some (.shl (w.extractLsb' 21 5) (w.extractLsb' 16 5) (w.extractLsb' 11 5) (w.extractLsb' 8 3) (w.extractLsb' 7 1)) else
    if w.extractLsb' 0 7 == 7 then some (.shr (w.extractLsb' 21 5) (w.extractLsb' 16 5) (w.extractLsb' 11 5) (w.extractLsb' 8 3) (w.extractLsb' 7 1)) else
    if w.extractLsb' 0 7 == 8 then some (.sra (w.extractLsb' 21 5) (w.extractLsb' 16 5) (w.extractLsb' 11 5) (w.extractLsb' 8 3) (w.extractLsb' 7 1)) else
    if w.extractLsb' 0 7 == 9 then some (.min (w.extractLsb' 21 5) (w.extractLsb' 16 5) (w.extractLsb' 11 5) (w.extractLsb' 8 3) (w.extractLsb' 7 1)) else
    if w.extractLsb' 0 7 == 10 then some (.max (w.extractLsb' 21 5) (w.extractLsb' 16 5) (w.extractLsb' 11 5) (w.extractLsb' 8 3) (w.extractLsb' 7 1)) else
    if w.extractLsb' 0 7 == 11 then some (.minu (w.extractLsb' 21 5) (w.extractLsb' 16 5) (w.extractLsb' 11 5) (w.extractLsb' 8 3) (w.extractLsb' 7 1)) else
    if w.extractLsb' 0 7 == 12 then some (.maxu (w.extractLsb' 21 5) (w.extractLsb' 16 5) (w.extractLsb' 11 5) (w.extractLsb' 8 3) (w.extractLsb' 7 1)) else
    if w.extractLsb' 11 5 == 0 && w.extractLsb' 0 7 == 13 then some (.clz (w.extractLsb' 21 5) (w.extractLsb' 16 5) (w.extractLsb' 8 3) (w.extractLsb' 7 1)) else
    if w.extractLsb' 11 5 == 0 && w.extractLsb' 0 7 == 14 then some (.ctz (w.extractLsb' 21 5) (w.extractLsb' 16 5) (w.extractLsb' 8 3) (w.extractLsb' 7 1)) else
    if w.extractLsb' 11 5 == 0 && w.extractLsb' 0 7 == 15 then some (.popc (w.extractLsb' 21 5) (w.extractLsb' 16 5) (w.extractLsb' 8 3) (w.extractLsb' 7 1)) else
    if w.extractLsb' 0 7 == 16 then some (.sel (w.extractLsb' 21 5) (w.extractLsb' 16 5) (w.extractLsb' 11 5) (w.extractLsb' 8 3) (w.extractLsb' 7 1)) else
    if w.extractLsb' 0 7 == 64 then some (.addW (w.extractLsb' 21 5) (w.extractLsb' 16 5) (w.extractLsb' 11 5) (w.extractLsb' 8 3) (w.extractLsb' 7 1)) else
    if w.extractLsb' 0 7 == 65 then some (.subW (w.extractLsb' 21 5) (w.extractLsb' 16 5) (w.extractLsb' 11 5) (w.extractLsb' 8 3) (w.extractLsb' 7 1)) else
    if w.extractLsb' 0 7 == 70 then some (.shlW (w.extractLsb' 21 5) (w.extractLsb' 16 5) (w.extractLsb' 11 5) (w.extractLsb' 8 3) (w.extractLsb' 7 1)) else
    if w.extractLsb' 0 7 == 71 then some (.shrW (w.extractLsb' 21 5) (w.extractLsb' 16 5) (w.extractLsb' 11 5) (w.extractLsb' 8 3) (w.extractLsb' 7 1)) else
    if w.extractLsb' 0 7 == 72 then some (.sraW (w.extractLsb' 21 5) (w.extractLsb' 16 5) (w.extractLsb' 11 5) (w.extractLsb' 8 3) (w.extractLsb' 7 1)) else
    if w.extractLsb' 11 5 == 0 && w.extractLsb' 0 7 == 77 then some (.clzW (w.extractLsb' 21 5) (w.extractLsb' 16 5) (w.extractLsb' 8 3) (w.extractLsb' 7 1)) else
    if w.extractLsb' 11 5 == 0 && w.extractLsb' 0 7 == 78 then some (.ctzW (w.extractLsb' 21 5) (w.extractLsb' 16 5) (w.extractLsb' 8 3) (w.extractLsb' 7 1)) else
    if w.extractLsb' 11 5 == 0 && w.extractLsb' 0 7 == 79 then some (.popcW (w.extractLsb' 21 5) (w.extractLsb' 16 5) (w.extractLsb' 8 3) (w.extractLsb' 7 1)) else
    none
  | 1 =>
    some (.addi (w.extractLsb' 21 5) (w.extractLsb' 16 5) (w.extractLsb' 13 3) (w.extractLsb' 0 13) x)
  | 2 =>
    some (.andi (w.extractLsb' 21 5) (w.extractLsb' 16 5) (w.extractLsb' 13 3) (w.extractLsb' 0 13) x)
  | 3 =>
    some (.ori (w.extractLsb' 21 5) (w.extractLsb' 16 5) (w.extractLsb' 13 3) (w.extractLsb' 0 13) x)
  | 4 =>
    some (.xori (w.extractLsb' 21 5) (w.extractLsb' 16 5) (w.extractLsb' 13 3) (w.extractLsb' 0 13) x)
  | 5 =>
    if w.extractLsb' 6 7 == 0 then some (.shli (w.extractLsb' 21 5) (w.extractLsb' 16 5) (w.extractLsb' 13 3) (w.extractLsb' 0 6)) else
    none
  | 6 =>
    if w.extractLsb' 6 7 == 0 then some (.shri (w.extractLsb' 21 5) (w.extractLsb' 16 5) (w.extractLsb' 13 3) (w.extractLsb' 0 6)) else
    none
  | 7 =>
    if w.extractLsb' 6 7 == 0 then some (.srai (w.extractLsb' 21 5) (w.extractLsb' 16 5) (w.extractLsb' 13 3) (w.extractLsb' 0 6)) else
    none
  | 8 =>
    if w.extractLsb' 16 5 == 0 then some (.li (w.extractLsb' 21 5) (w.extractLsb' 13 3) (w.extractLsb' 0 13) x) else
    none
  | 9 =>
    if w.extractLsb' 16 5 == 0 then some (.lea (w.extractLsb' 21 5) (w.extractLsb' 13 3) (w.extractLsb' 0 13)) else
    none
  | 10 =>
    some (.cmp (w.extractLsb' 23 3) (w.extractLsb' 21 2) (w.extractLsb' 16 5) (w.extractLsb' 11 5) (w.extractLsb' 8 3) (w.extractLsb' 7 1) (w.extractLsb' 0 7))
  | 11 =>
    some (.cmpi (w.extractLsb' 23 3) (w.extractLsb' 21 2) (w.extractLsb' 16 5) (w.extractLsb' 13 3) (w.extractLsb' 0 13))
  | 12 =>
    if w.extractLsb' 0 17 == 0 then some (.pand (w.extractLsb' 23 3) (w.extractLsb' 20 3) (w.extractLsb' 17 3)) else
    if w.extractLsb' 0 17 == 16384 then some (.por (w.extractLsb' 23 3) (w.extractLsb' 20 3) (w.extractLsb' 17 3)) else
    if w.extractLsb' 0 17 == 32768 then some (.pxor (w.extractLsb' 23 3) (w.extractLsb' 20 3) (w.extractLsb' 17 3)) else
    if w.extractLsb' 0 17 == 49152 then some (.pandn (w.extractLsb' 23 3) (w.extractLsb' 20 3) (w.extractLsb' 17 3)) else
    if w.extractLsb' 0 20 == 65536 then some (.pnot (w.extractLsb' 23 3) (w.extractLsb' 20 3)) else
    none
  | 16 =>
    if w.extractLsb' 21 5 == 0 && w.extractLsb' 0 5 == 0 then some (.mul (w.extractLsb' 16 5) (w.extractLsb' 11 5) (w.extractLsb' 8 3) (w.extractLsb' 7 1) (w.extractLsb' 5 2)) else
    if w.extractLsb' 21 5 == 0 && w.extractLsb' 0 5 == 1 then some (.mulh (w.extractLsb' 16 5) (w.extractLsb' 11 5) (w.extractLsb' 8 3) (w.extractLsb' 7 1) (w.extractLsb' 5 2)) else
    if w.extractLsb' 21 5 == 0 && w.extractLsb' 0 5 == 2 then some (.mulhu (w.extractLsb' 16 5) (w.extractLsb' 11 5) (w.extractLsb' 8 3) (w.extractLsb' 7 1) (w.extractLsb' 5 2)) else
    if w.extractLsb' 21 5 == 0 && w.extractLsb' 0 5 == 3 then some (.mulW (w.extractLsb' 16 5) (w.extractLsb' 11 5) (w.extractLsb' 8 3) (w.extractLsb' 7 1) (w.extractLsb' 5 2)) else
    if w.extractLsb' 21 5 == 0 && w.extractLsb' 0 5 == 8 then some (.faddS (w.extractLsb' 16 5) (w.extractLsb' 11 5) (w.extractLsb' 8 3) (w.extractLsb' 7 1) (w.extractLsb' 5 2)) else
    if w.extractLsb' 21 5 == 0 && w.extractLsb' 0 5 == 9 then some (.fsubS (w.extractLsb' 16 5) (w.extractLsb' 11 5) (w.extractLsb' 8 3) (w.extractLsb' 7 1) (w.extractLsb' 5 2)) else
    if w.extractLsb' 21 5 == 0 && w.extractLsb' 0 5 == 10 then some (.fmulS (w.extractLsb' 16 5) (w.extractLsb' 11 5) (w.extractLsb' 8 3) (w.extractLsb' 7 1) (w.extractLsb' 5 2)) else
    if w.extractLsb' 0 5 == 11 then some (.fmaS (w.extractLsb' 21 5) (w.extractLsb' 16 5) (w.extractLsb' 11 5) (w.extractLsb' 8 3) (w.extractLsb' 7 1) (w.extractLsb' 5 2)) else
    if w.extractLsb' 21 5 == 0 && w.extractLsb' 0 5 == 12 then some (.fminS (w.extractLsb' 16 5) (w.extractLsb' 11 5) (w.extractLsb' 8 3) (w.extractLsb' 7 1) (w.extractLsb' 5 2)) else
    if w.extractLsb' 21 5 == 0 && w.extractLsb' 0 5 == 13 then some (.fmaxS (w.extractLsb' 16 5) (w.extractLsb' 11 5) (w.extractLsb' 8 3) (w.extractLsb' 7 1) (w.extractLsb' 5 2)) else
    if w.extractLsb' 21 5 == 0 && w.extractLsb' 0 5 == 16 then some (.faddD (w.extractLsb' 16 5) (w.extractLsb' 11 5) (w.extractLsb' 8 3) (w.extractLsb' 7 1) (w.extractLsb' 5 2)) else
    if w.extractLsb' 21 5 == 0 && w.extractLsb' 0 5 == 17 then some (.fsubD (w.extractLsb' 16 5) (w.extractLsb' 11 5) (w.extractLsb' 8 3) (w.extractLsb' 7 1) (w.extractLsb' 5 2)) else
    if w.extractLsb' 21 5 == 0 && w.extractLsb' 0 5 == 18 then some (.fmulD (w.extractLsb' 16 5) (w.extractLsb' 11 5) (w.extractLsb' 8 3) (w.extractLsb' 7 1) (w.extractLsb' 5 2)) else
    if w.extractLsb' 0 5 == 19 then some (.fmaD (w.extractLsb' 21 5) (w.extractLsb' 16 5) (w.extractLsb' 11 5) (w.extractLsb' 8 3) (w.extractLsb' 7 1) (w.extractLsb' 5 2)) else
    if w.extractLsb' 21 5 == 0 && w.extractLsb' 0 5 == 20 then some (.fminD (w.extractLsb' 16 5) (w.extractLsb' 11 5) (w.extractLsb' 8 3) (w.extractLsb' 7 1) (w.extractLsb' 5 2)) else
    if w.extractLsb' 21 5 == 0 && w.extractLsb' 0 5 == 21 then some (.fmaxD (w.extractLsb' 16 5) (w.extractLsb' 11 5) (w.extractLsb' 8 3) (w.extractLsb' 7 1) (w.extractLsb' 5 2)) else
    if w.extractLsb' 21 5 == 0 && w.extractLsb' 11 5 == 0 && w.extractLsb' 0 5 == 24 then some (.cvtSD (w.extractLsb' 16 5) (w.extractLsb' 8 3) (w.extractLsb' 7 1) (w.extractLsb' 5 2)) else
    if w.extractLsb' 21 5 == 0 && w.extractLsb' 11 5 == 0 && w.extractLsb' 0 5 == 25 then some (.cvtDS (w.extractLsb' 16 5) (w.extractLsb' 8 3) (w.extractLsb' 7 1) (w.extractLsb' 5 2)) else
    if w.extractLsb' 21 5 == 0 && w.extractLsb' 11 5 == 0 && w.extractLsb' 0 5 == 26 then some (.cvtSI (w.extractLsb' 16 5) (w.extractLsb' 8 3) (w.extractLsb' 7 1) (w.extractLsb' 5 2)) else
    if w.extractLsb' 21 5 == 0 && w.extractLsb' 11 5 == 0 && w.extractLsb' 0 5 == 27 then some (.cvtIS (w.extractLsb' 16 5) (w.extractLsb' 8 3) (w.extractLsb' 7 1) (w.extractLsb' 5 2)) else
    if w.extractLsb' 21 5 == 0 && w.extractLsb' 11 5 == 0 && w.extractLsb' 0 5 == 28 then some (.cvtDI (w.extractLsb' 16 5) (w.extractLsb' 8 3) (w.extractLsb' 7 1) (w.extractLsb' 5 2)) else
    if w.extractLsb' 21 5 == 0 && w.extractLsb' 11 5 == 0 && w.extractLsb' 0 5 == 29 then some (.cvtID (w.extractLsb' 16 5) (w.extractLsb' 8 3) (w.extractLsb' 7 1) (w.extractLsb' 5 2)) else
    none
  | 17 =>
    if w.extractLsb' 21 5 == 0 && w.extractLsb' 0 5 == 0 then some (.div (w.extractLsb' 16 5) (w.extractLsb' 11 5) (w.extractLsb' 8 3) (w.extractLsb' 7 1) (w.extractLsb' 5 2)) else
    if w.extractLsb' 21 5 == 0 && w.extractLsb' 0 5 == 1 then some (.divu (w.extractLsb' 16 5) (w.extractLsb' 11 5) (w.extractLsb' 8 3) (w.extractLsb' 7 1) (w.extractLsb' 5 2)) else
    if w.extractLsb' 21 5 == 0 && w.extractLsb' 0 5 == 2 then some (.rem (w.extractLsb' 16 5) (w.extractLsb' 11 5) (w.extractLsb' 8 3) (w.extractLsb' 7 1) (w.extractLsb' 5 2)) else
    if w.extractLsb' 21 5 == 0 && w.extractLsb' 0 5 == 3 then some (.remu (w.extractLsb' 16 5) (w.extractLsb' 11 5) (w.extractLsb' 8 3) (w.extractLsb' 7 1) (w.extractLsb' 5 2)) else
    if w.extractLsb' 21 5 == 0 && w.extractLsb' 0 5 == 8 then some (.fdivS (w.extractLsb' 16 5) (w.extractLsb' 11 5) (w.extractLsb' 8 3) (w.extractLsb' 7 1) (w.extractLsb' 5 2)) else
    if w.extractLsb' 21 5 == 0 && w.extractLsb' 11 5 == 0 && w.extractLsb' 0 5 == 9 then some (.fsqrtS (w.extractLsb' 16 5) (w.extractLsb' 8 3) (w.extractLsb' 7 1) (w.extractLsb' 5 2)) else
    if w.extractLsb' 21 5 == 0 && w.extractLsb' 0 5 == 16 then some (.fdivD (w.extractLsb' 16 5) (w.extractLsb' 11 5) (w.extractLsb' 8 3) (w.extractLsb' 7 1) (w.extractLsb' 5 2)) else
    if w.extractLsb' 21 5 == 0 && w.extractLsb' 11 5 == 0 && w.extractLsb' 0 5 == 17 then some (.fsqrtD (w.extractLsb' 16 5) (w.extractLsb' 8 3) (w.extractLsb' 7 1) (w.extractLsb' 5 2)) else
    none
  | 18 =>
    if w.extractLsb' 18 3 == 0 && w.extractLsb' 11 5 == 0 && w.extractLsb' 0 7 == 0 then some (.movM (w.extractLsb' 21 5) (w.extractLsb' 16 2) (w.extractLsb' 8 3) (w.extractLsb' 7 1)) else
    if w.extractLsb' 18 3 == 0 && w.extractLsb' 11 5 == 0 && w.extractLsb' 0 7 == 1 then some (.movD (w.extractLsb' 21 5) (w.extractLsb' 16 2) (w.extractLsb' 8 3) (w.extractLsb' 7 1)) else
    if w.extractLsb' 18 3 == 0 && w.extractLsb' 11 5 == 0 && w.extractLsb' 0 7 == 2 then some (.movL (w.extractLsb' 21 5) (w.extractLsb' 16 2) (w.extractLsb' 8 3) (w.extractLsb' 7 1)) else
    none
  | 19 =>
    if w.extractLsb' 16 5 == 0 && w.extractLsb' 9 4 == 0 then some (.spl (w.extractLsb' 21 5) (w.extractLsb' 13 3) (w.extractLsb' 0 9)) else
    none
  | 20 =>
    if w.extractLsb' 21 5 == 0 && w.extractLsb' 9 4 == 0 then some (.sps (w.extractLsb' 16 5) (w.extractLsb' 13 3) (w.extractLsb' 0 9)) else
    none
  | 21 =>
    some (.lsp (w.extractLsb' 23 3) (w.extractLsb' 21 2) (w.extractLsb' 16 5) (w.extractLsb' 13 3) (w.extractLsb' 0 13) x)
  | 22 =>
    some (.ssp (w.extractLsb' 21 5) (w.extractLsb' 16 5) (w.extractLsb' 13 3) (w.extractLsb' 11 2) (w.extractLsb' 0 11))
  | 23 =>
    if w.extractLsb' 16 5 == 0 && w.extractLsb' 0 7 == 0 then some (.popStream (w.extractLsb' 21 5) (w.extractLsb' 11 5) (w.extractLsb' 8 3) (w.extractLsb' 7 1)) else
    if w.extractLsb' 16 5 == 0 && w.extractLsb' 0 7 == 1 then some (.popChannel (w.extractLsb' 21 5) (w.extractLsb' 11 5) (w.extractLsb' 8 3) (w.extractLsb' 7 1)) else
    none
  | 24 =>
    if w.extractLsb' 21 5 == 0 && w.extractLsb' 0 7 == 0 then some (.pushK (w.extractLsb' 16 5) (w.extractLsb' 11 5) (w.extractLsb' 8 3) (w.extractLsb' 7 1)) else
    if w.extractLsb' 21 5 == 0 && w.extractLsb' 0 7 == 1 then some (.pushO (w.extractLsb' 16 5) (w.extractLsb' 11 5) (w.extractLsb' 8 3) (w.extractLsb' 7 1)) else
    if w.extractLsb' 21 5 == 0 && w.extractLsb' 0 7 == 2 then some (.pushJ (w.extractLsb' 16 5) (w.extractLsb' 11 5) (w.extractLsb' 8 3) (w.extractLsb' 7 1)) else
    none
  | 32 =>
    some (.br (w.extractLsb' 23 3) (w.extractLsb' 22 1) (w.extractLsb' 0 22))
  | 33 =>
    some (.call (w.extractLsb' 23 3) (w.extractLsb' 22 1) (w.extractLsb' 0 22))
  | 34 =>
    if w.extractLsb' 21 5 == 0 && w.extractLsb' 11 5 == 0 && w.extractLsb' 0 7 == 0 then some (.jr (w.extractLsb' 16 5) (w.extractLsb' 8 3) (w.extractLsb' 7 1)) else
    if w.extractLsb' 11 5 == 0 && w.extractLsb' 0 7 == 1 then some (.jrl (w.extractLsb' 21 5) (w.extractLsb' 16 5) (w.extractLsb' 8 3) (w.extractLsb' 7 1)) else
    none
  | 40 =>
    if w.extractLsb' 11 5 == 0 && w.extractLsb' 0 7 == 0 then some (.snap (w.extractLsb' 21 5) (w.extractLsb' 16 5) (w.extractLsb' 8 3) (w.extractLsb' 7 1)) else
    if w.extractLsb' 11 5 == 0 && w.extractLsb' 0 7 == 1 then some (.accept (w.extractLsb' 21 5) (w.extractLsb' 16 5) (w.extractLsb' 8 3) (w.extractLsb' 7 1)) else
    if w.extractLsb' 11 5 == 0 && w.extractLsb' 0 7 == 2 then some (.reject (w.extractLsb' 21 5) (w.extractLsb' 16 5) (w.extractLsb' 8 3) (w.extractLsb' 7 1)) else
    if w.extractLsb' 11 5 == 0 && w.extractLsb' 0 7 == 3 then some (.snapq (w.extractLsb' 21 5) (w.extractLsb' 16 5) (w.extractLsb' 8 3) (w.extractLsb' 7 1)) else
    none
  | 41 =>
    if w.extractLsb' 8 18 == 0 then some (.evset (w.extractLsb' 0 8)) else
    if w.extractLsb' 8 18 == 2048 then some (.evclr (w.extractLsb' 0 8)) else
    if w.extractLsb' 8 13 == 4096 then some (.evtst (w.extractLsb' 21 5) (w.extractLsb' 0 8)) else
    none
  | 42 =>
    if w.extractLsb' 0 7 == 0 then some (.qpost (w.extractLsb' 21 5) (w.extractLsb' 16 5) (w.extractLsb' 11 5) (w.extractLsb' 8 3) (w.extractLsb' 7 1)) else
    none
  | 48 =>
    if w.extractLsb' 0 9 == 0 then some (.mfs (w.extractLsb' 21 5) (w.extractLsb' 9 12)) else
    none
  | 49 =>
    if w.extractLsb' 0 9 == 0 then some (.mts (w.extractLsb' 21 5) (w.extractLsb' 9 12)) else
    none
  | 50 =>
    if w.extractLsb' 16 10 == 0 then some (.trap (w.extractLsb' 13 3) (w.extractLsb' 0 13)) else
    none
  | 51 =>
    if w.extractLsb' 0 26 == 0 then some (.eret) else
    none
  | 52 =>
    if w.extractLsb' 21 5 == 0 && w.extractLsb' 0 16 == 0 then some (.tstop (w.extractLsb' 16 5)) else
    none
  | 53 =>
    if w.extractLsb' 21 5 == 0 && w.extractLsb' 0 16 == 0 then some (.tgo (w.extractLsb' 16 5)) else
    none
  | 55 =>
    if w.extractLsb' 0 4 == 0 then some (.rawait (w.extractLsb' 20 6) (w.extractLsb' 4 16)) else
    none
  | 56 =>
    if w.extractLsb' 0 4 == 0 then some (.rrel (w.extractLsb' 20 6) (w.extractLsb' 4 16)) else
    none
  | 59 =>
    if w.extractLsb' 0 26 == 0 then some (.halt) else
    none
  | 60 =>
    if w.extractLsb' 0 4 == 0 then some (.wait (w.extractLsb' 20 6) (w.extractLsb' 4 16)) else
    none
  | 61 =>
    if w.extractLsb' 0 4 == 0 then some (.sig (w.extractLsb' 20 6) (w.extractLsb' 4 16)) else
    none
  | 62 =>
    if w.extractLsb' 0 4 == 0 then some (.fwait (w.extractLsb' 20 6) (w.extractLsb' 4 16)) else
    none
  | _ => none

/-- The vector strand's opcodes; `none` for a reserved opcode, fn value or nonzero zero field. -/
def decodeVector (w : W32) (x : List W32) : Option Instr :=
  match (w.extractLsb' 26 6).toNat with
  | 0 =>
    if w.extractLsb' 0 3 == 0 then some (.vadd (w.extractLsb' 20 6) (w.extractLsb' 14 6) (w.extractLsb' 8 6) (w.extractLsb' 5 3) (w.extractLsb' 3 2)) else
    if w.extractLsb' 0 3 == 1 then some (.vsub (w.extractLsb' 20 6) (w.extractLsb' 14 6) (w.extractLsb' 8 6) (w.extractLsb' 5 3) (w.extractLsb' 3 2)) else
    if w.extractLsb' 0 3 == 2 then some (.vmul (w.extractLsb' 20 6) (w.extractLsb' 14 6) (w.extractLsb' 8 6) (w.extractLsb' 5 3) (w.extractLsb' 3 2)) else
    if w.extractLsb' 0 3 == 3 then some (.vmin (w.extractLsb' 20 6) (w.extractLsb' 14 6) (w.extractLsb' 8 6) (w.extractLsb' 5 3) (w.extractLsb' 3 2)) else
    if w.extractLsb' 0 3 == 4 then some (.vmax (w.extractLsb' 20 6) (w.extractLsb' 14 6) (w.extractLsb' 8 6) (w.extractLsb' 5 3) (w.extractLsb' 3 2)) else
    if w.extractLsb' 8 6 == 0 && w.extractLsb' 0 3 == 5 then some (.vabs (w.extractLsb' 20 6) (w.extractLsb' 14 6) (w.extractLsb' 5 3) (w.extractLsb' 3 2)) else
    if w.extractLsb' 8 6 == 0 && w.extractLsb' 0 3 == 6 then some (.vneg (w.extractLsb' 20 6) (w.extractLsb' 14 6) (w.extractLsb' 5 3) (w.extractLsb' 3 2)) else
    if w.extractLsb' 8 6 == 0 && w.extractLsb' 0 3 == 7 then some (.vmov (w.extractLsb' 20 6) (w.extractLsb' 14 6) (w.extractLsb' 5 3) (w.extractLsb' 3 2)) else
    none
  | 1 =>
    if w.extractLsb' 0 3 == 0 then some (.vfma (w.extractLsb' 20 6) (w.extractLsb' 14 6) (w.extractLsb' 8 6) (w.extractLsb' 5 3) (w.extractLsb' 3 2)) else
    if w.extractLsb' 0 3 == 1 then some (.vfms (w.extractLsb' 20 6) (w.extractLsb' 14 6) (w.extractLsb' 8 6) (w.extractLsb' 5 3) (w.extractLsb' 3 2)) else
    if w.extractLsb' 0 3 == 2 then some (.vfnma (w.extractLsb' 20 6) (w.extractLsb' 14 6) (w.extractLsb' 8 6) (w.extractLsb' 5 3) (w.extractLsb' 3 2)) else
    if w.extractLsb' 0 5 == 27 then some (.vdot2 (w.extractLsb' 20 6) (w.extractLsb' 14 6) (w.extractLsb' 8 6) (w.extractLsb' 5 3)) else
    none
  | 2 =>
    if w.extractLsb' 0 3 == 0 then some (.vand (w.extractLsb' 20 6) (w.extractLsb' 14 6) (w.extractLsb' 8 6) (w.extractLsb' 5 3) (w.extractLsb' 3 2)) else
    if w.extractLsb' 0 3 == 1 then some (.vor (w.extractLsb' 20 6) (w.extractLsb' 14 6) (w.extractLsb' 8 6) (w.extractLsb' 5 3) (w.extractLsb' 3 2)) else
    if w.extractLsb' 0 3 == 2 then some (.vxor (w.extractLsb' 20 6) (w.extractLsb' 14 6) (w.extractLsb' 8 6) (w.extractLsb' 5 3) (w.extractLsb' 3 2)) else
    if w.extractLsb' 0 3 == 3 then some (.vandn (w.extractLsb' 20 6) (w.extractLsb' 14 6) (w.extractLsb' 8 6) (w.extractLsb' 5 3) (w.extractLsb' 3 2)) else
    if w.extractLsb' 0 3 == 4 then some (.vshl (w.extractLsb' 20 6) (w.extractLsb' 14 6) (w.extractLsb' 8 6) (w.extractLsb' 5 3) (w.extractLsb' 3 2)) else
    if w.extractLsb' 0 3 == 5 then some (.vshr (w.extractLsb' 20 6) (w.extractLsb' 14 6) (w.extractLsb' 8 6) (w.extractLsb' 5 3) (w.extractLsb' 3 2)) else
    if w.extractLsb' 0 3 == 6 then some (.vsra (w.extractLsb' 20 6) (w.extractLsb' 14 6) (w.extractLsb' 8 6) (w.extractLsb' 5 3) (w.extractLsb' 3 2)) else
    if w.extractLsb' 8 6 == 0 && w.extractLsb' 0 3 == 7 then some (.vnot (w.extractLsb' 20 6) (w.extractLsb' 14 6) (w.extractLsb' 5 3) (w.extractLsb' 3 2)) else
    none
  | 3 =>
    if w.extractLsb' 20 1 == 0 then some (.vcmp (w.extractLsb' 23 3) (w.extractLsb' 21 2) (w.extractLsb' 14 6) (w.extractLsb' 8 6) (w.extractLsb' 5 3) (w.extractLsb' 3 2) (w.extractLsb' 0 3)) else
    none
  | 4 =>
    if w.extractLsb' 0 3 == 0 then some (.vsel (w.extractLsb' 20 6) (w.extractLsb' 14 6) (w.extractLsb' 8 6) (w.extractLsb' 5 3) (w.extractLsb' 3 2)) else
    none
  | 5 =>
    some (.vcvt (w.extractLsb' 20 6) (w.extractLsb' 14 6) (w.extractLsb' 9 5) (w.extractLsb' 4 5) (w.extractLsb' 2 2) (w.extractLsb' 1 1) (w.extractLsb' 0 1))
  | 6 =>
    if w.extractLsb' 8 6 == 0 && w.extractLsb' 0 3 == 0 then some (.vrcp (w.extractLsb' 20 6) (w.extractLsb' 14 6) (w.extractLsb' 5 3) (w.extractLsb' 3 2)) else
    if w.extractLsb' 8 6 == 0 && w.extractLsb' 0 3 == 1 then some (.vrsq (w.extractLsb' 20 6) (w.extractLsb' 14 6) (w.extractLsb' 5 3) (w.extractLsb' 3 2)) else
    if w.extractLsb' 8 6 == 0 && w.extractLsb' 0 3 == 2 then some (.vexp2 (w.extractLsb' 20 6) (w.extractLsb' 14 6) (w.extractLsb' 5 3) (w.extractLsb' 3 2)) else
    if w.extractLsb' 8 6 == 0 && w.extractLsb' 0 3 == 3 then some (.vlog2 (w.extractLsb' 20 6) (w.extractLsb' 14 6) (w.extractLsb' 5 3) (w.extractLsb' 3 2)) else
    if w.extractLsb' 8 6 == 0 && w.extractLsb' 0 3 == 4 then some (.vsinp (w.extractLsb' 20 6) (w.extractLsb' 14 6) (w.extractLsb' 5 3) (w.extractLsb' 3 2)) else
    if w.extractLsb' 8 6 == 0 && w.extractLsb' 0 3 == 5 then some (.vcosp (w.extractLsb' 20 6) (w.extractLsb' 14 6) (w.extractLsb' 5 3) (w.extractLsb' 3 2)) else
    if w.extractLsb' 8 6 == 0 && w.extractLsb' 0 3 == 6 then some (.vtanh (w.extractLsb' 20 6) (w.extractLsb' 14 6) (w.extractLsb' 5 3) (w.extractLsb' 3 2)) else
    if w.extractLsb' 8 6 == 0 && w.extractLsb' 0 3 == 7 then some (.vsqrt (w.extractLsb' 20 6) (w.extractLsb' 14 6) (w.extractLsb' 5 3) (w.extractLsb' 3 2)) else
    none
  | 7 =>
    if w.extractLsb' 8 6 == 0 && w.extractLsb' 0 3 == 0 then some (.vsum (w.extractLsb' 20 6) (w.extractLsb' 14 6) (w.extractLsb' 5 3) (w.extractLsb' 3 2)) else
    if w.extractLsb' 8 6 == 0 && w.extractLsb' 0 3 == 1 then some (.vrmax (w.extractLsb' 20 6) (w.extractLsb' 14 6) (w.extractLsb' 5 3) (w.extractLsb' 3 2)) else
    if w.extractLsb' 8 6 == 0 && w.extractLsb' 0 3 == 2 then some (.vrmin (w.extractLsb' 20 6) (w.extractLsb' 14 6) (w.extractLsb' 5 3) (w.extractLsb' 3 2)) else
    if w.extractLsb' 8 6 == 0 && w.extractLsb' 0 3 == 3 then some (.vramax (w.extractLsb' 20 6) (w.extractLsb' 14 6) (w.extractLsb' 5 3) (w.extractLsb' 3 2)) else
    none
  | 8 =>
    if w.extractLsb' 4 6 == 0 then some (.vrot (w.extractLsb' 20 6) (w.extractLsb' 14 6) (w.extractLsb' 11 3) (w.extractLsb' 10 1) (w.extractLsb' 0 4)) else
    none
  | 9 =>
    if w.extractLsb' 0 11 == 0 then some (.vshuf (w.extractLsb' 20 6) (w.extractLsb' 14 6) (w.extractLsb' 11 3) x) else
    none
  | 10 =>
    if w.extractLsb' 0 16 == 0 then some (.vtapw (w.extractLsb' 20 6) (w.extractLsb' 16 4)) else
    if w.extractLsb' 0 16 == 32768 then some (.vtapr (w.extractLsb' 20 6) (w.extractLsb' 16 4)) else
    none
  | 11 =>
    if w.extractLsb' 0 11 == 0 then some (.vins (w.extractLsb' 20 6) (w.extractLsb' 19 1) (w.extractLsb' 12 7) (w.extractLsb' 11 1)) else
    if w.extractLsb' 20 6 == 0 && w.extractLsb' 11 8 == 0 && w.extractLsb' 0 9 == 256 then some (.vinsB (w.extractLsb' 19 1) (w.extractLsb' 9 2)) else
    none
  | 12 =>
    if w.extractLsb' 0 12 == 0 then some (.vext (w.extractLsb' 20 6) (w.extractLsb' 19 1) (w.extractLsb' 12 7)) else
    none
  | 13 =>
    if w.extractLsb' 0 12 == 0 then some (.vacr (w.extractLsb' 20 6) (w.extractLsb' 19 1) (w.extractLsb' 12 7)) else
    if w.extractLsb' 0 12 == 2048 then some (.vacw (w.extractLsb' 20 6) (w.extractLsb' 19 1) (w.extractLsb' 12 7)) else
    none
  | 14 =>
    if w.extractLsb' 8 4 == 0 then some (.cbld (w.extractLsb' 20 6) (w.extractLsb' 14 6) (w.extractLsb' 12 2) (w.extractLsb' 0 8)) else
    if w.extractLsb' 14 12 == 0 && w.extractLsb' 0 12 == 1024 then some (.cbswap (w.extractLsb' 12 2)) else
    if w.extractLsb' 10 2 == 2 then some (.vcbx (w.extractLsb' 20 6) (w.extractLsb' 14 6) (w.extractLsb' 12 2) (w.extractLsb' 8 2) (w.extractLsb' 0 8)) else
    none
  | 15 =>
    if w.extractLsb' 8 18 == 0 then some (.vmode (w.extractLsb' 6 2) (w.extractLsb' 4 2) (w.extractLsb' 3 1) (w.extractLsb' 2 1) (w.extractLsb' 0 2)) else
    none
  | 16 =>
    if w.extractLsb' 0 20 == 0 then some (.vview (w.extractLsb' 20 6) x) else
    none
  | 17 =>
    if w.extractLsb' 8 6 == 0 && w.extractLsb' 0 5 == 0 then some (.vbamax (w.extractLsb' 20 6) (w.extractLsb' 14 6) (w.extractLsb' 5 3)) else
    if w.extractLsb' 20 6 == 0 && w.extractLsb' 0 14 == 1 then some (.vbscMx (w.extractLsb' 14 6)) else
    if w.extractLsb' 20 6 == 0 && w.extractLsb' 0 14 == 2 then some (.vbscSb8 (w.extractLsb' 14 6)) else
    if w.extractLsb' 20 6 == 0 && w.extractLsb' 0 14 == 3 then some (.vbscSb4 (w.extractLsb' 14 6)) else
    none
  | 18 =>
    if w.extractLsb' 23 3 == 0 && w.extractLsb' 17 3 == 0 && w.extractLsb' 11 3 == 0 && w.extractLsb' 0 8 == 0 then some (.mand (w.extractLsb' 20 3) (w.extractLsb' 14 3) (w.extractLsb' 8 3)) else
    if w.extractLsb' 23 3 == 0 && w.extractLsb' 17 3 == 0 && w.extractLsb' 11 3 == 0 && w.extractLsb' 0 8 == 1 then some (.mor (w.extractLsb' 20 3) (w.extractLsb' 14 3) (w.extractLsb' 8 3)) else
    if w.extractLsb' 23 3 == 0 && w.extractLsb' 17 3 == 0 && w.extractLsb' 11 3 == 0 && w.extractLsb' 0 8 == 2 then some (.mxor (w.extractLsb' 20 3) (w.extractLsb' 14 3) (w.extractLsb' 8 3)) else
    if w.extractLsb' 23 3 == 0 && w.extractLsb' 17 3 == 0 && w.extractLsb' 0 14 == 3 then some (.mnot (w.extractLsb' 20 3) (w.extractLsb' 14 3)) else
    if w.extractLsb' 17 9 == 0 && w.extractLsb' 0 14 == 4 then some (.mpopc (w.extractLsb' 14 3)) else
    none
  | 55 =>
    if w.extractLsb' 0 4 == 0 then some (.rawait (w.extractLsb' 20 6) (w.extractLsb' 4 16)) else
    none
  | 56 =>
    if w.extractLsb' 0 4 == 0 then some (.rrel (w.extractLsb' 20 6) (w.extractLsb' 4 16)) else
    none
  | 59 =>
    if w.extractLsb' 0 26 == 0 then some (.halt) else
    none
  | 60 =>
    if w.extractLsb' 0 4 == 0 then some (.wait (w.extractLsb' 20 6) (w.extractLsb' 4 16)) else
    none
  | 61 =>
    if w.extractLsb' 0 4 == 0 then some (.sig (w.extractLsb' 20 6) (w.extractLsb' 4 16)) else
    none
  | 62 =>
    if w.extractLsb' 0 4 == 0 then some (.fwait (w.extractLsb' 20 6) (w.extractLsb' 4 16)) else
    none
  | _ => none

/-- The load strand's opcodes; `none` for a reserved opcode, fn value or nonzero zero field. -/
def decodeLoad (w : W32) (x : List W32) : Option Instr :=
  match (w.extractLsb' 26 6).toNat with
  | 0 =>
    if w.extractLsb' 25 1 == 0 && w.extractLsb' 15 4 == 7 then some (.ld (w.extractLsb' 23 2) (w.extractLsb' 19 4) (w.extractLsb' 14 1) (w.extractLsb' 13 1) (w.extractLsb' 0 13) x) else
    none
  | 1 =>
    if w.extractLsb' 25 1 == 1 then some (.ldw (w.extractLsb' 23 2) (w.extractLsb' 19 4) (w.extractLsb' 15 4) (w.extractLsb' 14 1) (w.extractLsb' 13 1) (w.extractLsb' 0 13) x) else
    none
  | 2 =>
    if w.extractLsb' 25 1 == 0 && w.extractLsb' 1 12 == 0 then some (.ldg (w.extractLsb' 23 2) (w.extractLsb' 19 4) (w.extractLsb' 15 4) (w.extractLsb' 14 1) (w.extractLsb' 13 1) (w.extractLsb' 0 1) x) else
    none
  | 3 =>
    if w.extractLsb' 0 9 == 0 then some (.sset (w.extractLsb' 23 3) (w.extractLsb' 19 4) (w.extractLsb' 9 10)) else
    none
  | 4 =>
    if w.extractLsb' 0 23 == 0 then some (.sclr (w.extractLsb' 23 3)) else
    none
  | 5 =>
    if w.extractLsb' 0 18 == 0 then some (.markL (w.extractLsb' 18 8)) else
    none
  | 6 =>
    if w.extractLsb' 25 1 == 1 then some (.atr (w.extractLsb' 23 2) (w.extractLsb' 19 4) (w.extractLsb' 15 4) (w.extractLsb' 14 1) (w.extractLsb' 13 1) (w.extractLsb' 0 13)) else
    none
  | 7 =>
    if w.extractLsb' 18 8 == 0 && w.extractLsb' 0 15 == 0 then some (.fenceL (w.extractLsb' 15 3)) else
    none
  | 8 =>
    if w.extractLsb' 25 1 == 1 && w.extractLsb' 13 2 == 0 then some (.acq (w.extractLsb' 23 2) (w.extractLsb' 19 4) (w.extractLsb' 15 4) (w.extractLsb' 0 13)) else
    none
  | 9 =>
    if w.extractLsb' 23 3 == 0 && w.extractLsb' 13 6 == 28 then some (.pref (w.extractLsb' 19 4) (w.extractLsb' 0 13)) else
    none
  | 10 =>
    if w.extractLsb' 4 14 == 0 then some (.laAdd (w.extractLsb' 22 4) (w.extractLsb' 18 4) (w.extractLsb' 0 4)) else
    if w.extractLsb' 13 5 == 4 then some (.laAddi (w.extractLsb' 22 4) (w.extractLsb' 18 4) (w.extractLsb' 0 13) x) else
    if w.extractLsb' 6 12 == 1024 then some (.laShli (w.extractLsb' 22 4) (w.extractLsb' 18 4) (w.extractLsb' 0 6)) else
    if w.extractLsb' 13 9 == 12 then some (.laLi (w.extractLsb' 22 4) (w.extractLsb' 0 13) x) else
    if w.extractLsb' 15 7 == 4 && w.extractLsb' 0 13 == 0 then some (.laTake (w.extractLsb' 22 4) (w.extractLsb' 13 2)) else
    if w.extractLsb' 3 19 == 20480 then some (.laIx (w.extractLsb' 22 4) (w.extractLsb' 0 3)) else
    none
  | 11 =>
    if w.extractLsb' 23 3 == 0 && w.extractLsb' 15 4 == 0 && w.extractLsb' 13 1 == 0 then some (.barw (w.extractLsb' 19 4) (w.extractLsb' 14 1) (w.extractLsb' 0 13)) else
    none
  | 55 =>
    if w.extractLsb' 0 4 == 0 then some (.rawait (w.extractLsb' 20 6) (w.extractLsb' 4 16)) else
    none
  | 56 =>
    if w.extractLsb' 0 4 == 0 then some (.rrel (w.extractLsb' 20 6) (w.extractLsb' 4 16)) else
    none
  | 59 =>
    if w.extractLsb' 0 26 == 0 then some (.halt) else
    none
  | 60 =>
    if w.extractLsb' 0 4 == 0 then some (.wait (w.extractLsb' 20 6) (w.extractLsb' 4 16)) else
    none
  | 61 =>
    if w.extractLsb' 0 4 == 0 then some (.sig (w.extractLsb' 20 6) (w.extractLsb' 4 16)) else
    none
  | 62 =>
    if w.extractLsb' 0 4 == 0 then some (.fwait (w.extractLsb' 20 6) (w.extractLsb' 4 16)) else
    none
  | _ => none

/-- The store strand's opcodes; `none` for a reserved opcode, fn value or nonzero zero field. -/
def decodeStore (w : W32) (x : List W32) : Option Instr :=
  match (w.extractLsb' 26 6).toNat with
  | 0 =>
    if w.extractLsb' 15 4 == 7 && w.extractLsb' 13 1 == 0 then some (.st (w.extractLsb' 23 3) (w.extractLsb' 19 4) (w.extractLsb' 14 1) (w.extractLsb' 0 13)) else
    none
  | 1 =>
    if w.extractLsb' 13 1 == 0 then some (.stw (w.extractLsb' 23 3) (w.extractLsb' 19 4) (w.extractLsb' 15 4) (w.extractLsb' 14 1) (w.extractLsb' 0 13)) else
    none
  | 2 =>
    if w.extractLsb' 1 13 == 0 then some (.stx (w.extractLsb' 23 3) (w.extractLsb' 19 4) (w.extractLsb' 15 4) (w.extractLsb' 14 1) (w.extractLsb' 0 1)) else
    none
  | 3 =>
    some (.atn (w.extractLsb' 23 3) (w.extractLsb' 19 4) (w.extractLsb' 15 4) (w.extractLsb' 14 1) (w.extractLsb' 13 1) (w.extractLsb' 0 13))
  | 4 =>
    if w.extractLsb' 0 18 == 0 then some (.markS (w.extractLsb' 18 8)) else
    none
  | 5 =>
    if w.extractLsb' 18 8 == 0 && w.extractLsb' 0 15 == 0 then some (.fenceS (w.extractLsb' 15 3)) else
    none
  | 6 =>
    if w.extractLsb' 13 2 == 0 then some (.rel (w.extractLsb' 23 3) (w.extractLsb' 19 4) (w.extractLsb' 15 4) (w.extractLsb' 0 13)) else
    none
  | 7 =>
    if w.extractLsb' 0 26 == 0 then some (.aflush) else
    none
  | 8 =>
    if w.extractLsb' 4 14 == 0 then some (.saAdd (w.extractLsb' 22 4) (w.extractLsb' 18 4) (w.extractLsb' 0 4)) else
    if w.extractLsb' 13 5 == 4 then some (.saAddi (w.extractLsb' 22 4) (w.extractLsb' 18 4) (w.extractLsb' 0 13) x) else
    if w.extractLsb' 6 12 == 1024 then some (.saShli (w.extractLsb' 22 4) (w.extractLsb' 18 4) (w.extractLsb' 0 6)) else
    if w.extractLsb' 13 9 == 12 then some (.saLi (w.extractLsb' 22 4) (w.extractLsb' 0 13) x) else
    if w.extractLsb' 15 7 == 4 && w.extractLsb' 0 13 == 0 then some (.saTake (w.extractLsb' 22 4) (w.extractLsb' 13 2)) else
    if w.extractLsb' 3 19 == 20480 then some (.saIx (w.extractLsb' 22 4) (w.extractLsb' 0 3)) else
    none
  | 9 =>
    if w.extractLsb' 0 9 == 0 then some (.barm (w.extractLsb' 23 3) (w.extractLsb' 19 4) (w.extractLsb' 18 1) (w.extractLsb' 9 9)) else
    none
  | 10 =>
    if w.extractLsb' 0 9 == 0 then some (.barr (w.extractLsb' 23 3) (w.extractLsb' 19 4) (w.extractLsb' 18 1) (w.extractLsb' 9 9)) else
    none
  | 55 =>
    if w.extractLsb' 0 4 == 0 then some (.rawait (w.extractLsb' 20 6) (w.extractLsb' 4 16)) else
    none
  | 56 =>
    if w.extractLsb' 0 4 == 0 then some (.rrel (w.extractLsb' 20 6) (w.extractLsb' 4 16)) else
    none
  | 59 =>
    if w.extractLsb' 0 26 == 0 then some (.halt) else
    none
  | 60 =>
    if w.extractLsb' 0 4 == 0 then some (.wait (w.extractLsb' 20 6) (w.extractLsb' 4 16)) else
    none
  | 61 =>
    if w.extractLsb' 0 4 == 0 then some (.sig (w.extractLsb' 20 6) (w.extractLsb' 4 16)) else
    none
  | 62 =>
    if w.extractLsb' 0 4 == 0 then some (.fwait (w.extractLsb' 20 6) (w.extractLsb' 4 16)) else
    none
  | _ => none

/-- The matrix strand's opcodes; `none` for a reserved opcode, fn value or nonzero zero field. -/
def decodeMatrix (w : W32) (x : List W32) : Option Instr :=
  match (w.extractLsb' 26 6).toNat with
  | 0 =>
    some (.mpar (w.extractLsb' 22 4) (w.extractLsb' 0 22) x)
  | 1 =>
    if w.extractLsb' 0 22 == 0 then some (.mparq (w.extractLsb' 22 4)) else
    none
  | 2 =>
    if w.extractLsb' 0 2 == 0 then some (.mma (w.extractLsb' 20 6) (w.extractLsb' 14 6) (w.extractLsb' 13 1) (w.extractLsb' 12 1) (w.extractLsb' 11 1) (w.extractLsb' 10 1) (w.extractLsb' 6 4) (w.extractLsb' 2 4)) else
    none
  | 3 =>
    if w.extractLsb' 10 1 == 0 && w.extractLsb' 0 2 == 0 then some (.mmas (w.extractLsb' 20 6) (w.extractLsb' 14 6) (w.extractLsb' 13 1) (w.extractLsb' 12 1) (w.extractLsb' 11 1) (w.extractLsb' 6 4) (w.extractLsb' 2 4)) else
    none
  | 4 =>
    if w.extractLsb' 0 13 == 0 then some (.mzero (w.extractLsb' 20 6) (w.extractLsb' 14 6) (w.extractLsb' 13 1)) else
    none
  | 5 =>
    if w.extractLsb' 10 3 == 0 && w.extractLsb' 0 6 == 0 then some (.mout (w.extractLsb' 20 6) (w.extractLsb' 14 6) (w.extractLsb' 13 1) (w.extractLsb' 6 4)) else
    none
  | 55 =>
    if w.extractLsb' 0 4 == 0 then some (.rawait (w.extractLsb' 20 6) (w.extractLsb' 4 16)) else
    none
  | 56 =>
    if w.extractLsb' 0 4 == 0 then some (.rrel (w.extractLsb' 20 6) (w.extractLsb' 4 16)) else
    none
  | 59 =>
    if w.extractLsb' 0 26 == 0 then some (.halt) else
    none
  | 60 =>
    if w.extractLsb' 0 4 == 0 then some (.wait (w.extractLsb' 20 6) (w.extractLsb' 4 16)) else
    none
  | 61 =>
    if w.extractLsb' 0 4 == 0 then some (.sig (w.extractLsb' 20 6) (w.extractLsb' 4 16)) else
    none
  | 62 =>
    if w.extractLsb' 0 4 == 0 then some (.fwait (w.extractLsb' 20 6) (w.extractLsb' 4 16)) else
    none
  | _ => none

/-- The transform strand's opcodes; `none` for a reserved opcode, fn value or nonzero zero field. -/
def decodeTransform (w : W32) (x : List W32) : Option Instr :=
  match (w.extractLsb' 26 6).toNat with
  | 0 =>
    some (.tpar (w.extractLsb' 22 4) (w.extractLsb' 0 22) x)
  | 1 =>
    if w.extractLsb' 0 7 == 0 then some (.fft (w.extractLsb' 20 6) (w.extractLsb' 14 6) (w.extractLsb' 13 1) (w.extractLsb' 12 1) (w.extractLsb' 11 1) (w.extractLsb' 7 4)) else
    none
  | 2 =>
    if w.extractLsb' 11 2 == 2 && w.extractLsb' 0 7 == 0 then some (.leg (w.extractLsb' 20 6) (w.extractLsb' 14 6) (w.extractLsb' 13 1) (w.extractLsb' 7 4)) else
    none
  | 55 =>
    if w.extractLsb' 0 4 == 0 then some (.rawait (w.extractLsb' 20 6) (w.extractLsb' 4 16)) else
    none
  | 56 =>
    if w.extractLsb' 0 4 == 0 then some (.rrel (w.extractLsb' 20 6) (w.extractLsb' 4 16)) else
    none
  | 59 =>
    if w.extractLsb' 0 26 == 0 then some (.halt) else
    none
  | 60 =>
    if w.extractLsb' 0 4 == 0 then some (.wait (w.extractLsb' 20 6) (w.extractLsb' 4 16)) else
    none
  | 61 =>
    if w.extractLsb' 0 4 == 0 then some (.sig (w.extractLsb' 20 6) (w.extractLsb' 4 16)) else
    none
  | 62 =>
    if w.extractLsb' 0 4 == 0 then some (.fwait (w.extractLsb' 20 6) (w.extractLsb' 4 16)) else
    none
  | _ => none

/-- The send strand's opcodes; `none` for a reserved opcode, fn value or nonzero zero field. -/
def decodeSend (w : W32) (x : List W32) : Option Instr :=
  match (w.extractLsb' 26 6).toNat with
  | 0 =>
    some (.xpar (w.extractLsb' 22 4) (w.extractLsb' 0 22) x)
  | 1 =>
    if w.extractLsb' 0 10 == 0 then some (.send (w.extractLsb' 20 6) (w.extractLsb' 14 6) (w.extractLsb' 10 4)) else
    none
  | 2 =>
    if w.extractLsb' 0 10 == 0 then some (.swg (w.extractLsb' 20 6) (w.extractLsb' 14 6) (w.extractLsb' 10 4)) else
    none
  | 3 =>
    if w.extractLsb' 0 10 == 0 then some (.rtree (w.extractLsb' 20 6) (w.extractLsb' 14 6) (w.extractLsb' 10 4)) else
    none
  | 55 =>
    if w.extractLsb' 0 4 == 0 then some (.rawait (w.extractLsb' 20 6) (w.extractLsb' 4 16)) else
    none
  | 56 =>
    if w.extractLsb' 0 4 == 0 then some (.rrel (w.extractLsb' 20 6) (w.extractLsb' 4 16)) else
    none
  | 59 =>
    if w.extractLsb' 0 26 == 0 then some (.halt) else
    none
  | 60 =>
    if w.extractLsb' 0 4 == 0 then some (.wait (w.extractLsb' 20 6) (w.extractLsb' 4 16)) else
    none
  | 61 =>
    if w.extractLsb' 0 4 == 0 then some (.sig (w.extractLsb' 20 6) (w.extractLsb' 4 16)) else
    none
  | 62 =>
    if w.extractLsb' 0 4 == 0 then some (.fwait (w.extractLsb' 20 6) (w.extractLsb' 4 16)) else
    none
  | _ => none

/-- The receive strand's opcodes; `none` for a reserved opcode, fn value or nonzero zero field. -/
def decodeReceive (w : W32) (x : List W32) : Option Instr :=
  match (w.extractLsb' 26 6).toNat with
  | 0 =>
    some (.ypar (w.extractLsb' 22 4) (w.extractLsb' 0 22) x)
  | 1 =>
    if w.extractLsb' 0 10 == 0 then some (.recv (w.extractLsb' 20 6) (w.extractLsb' 14 6) (w.extractLsb' 10 4)) else
    none
  | 2 =>
    if w.extractLsb' 0 10 == 0 then some (.yclr (w.extractLsb' 20 6) (w.extractLsb' 14 6) (w.extractLsb' 10 4)) else
    none
  | 55 =>
    if w.extractLsb' 0 4 == 0 then some (.rawait (w.extractLsb' 20 6) (w.extractLsb' 4 16)) else
    none
  | 56 =>
    if w.extractLsb' 0 4 == 0 then some (.rrel (w.extractLsb' 20 6) (w.extractLsb' 4 16)) else
    none
  | 59 =>
    if w.extractLsb' 0 26 == 0 then some (.halt) else
    none
  | 60 =>
    if w.extractLsb' 0 4 == 0 then some (.wait (w.extractLsb' 20 6) (w.extractLsb' 4 16)) else
    none
  | 61 =>
    if w.extractLsb' 0 4 == 0 then some (.sig (w.extractLsb' 20 6) (w.extractLsb' 4 16)) else
    none
  | 62 =>
    if w.extractLsb' 0 4 == 0 then some (.fwait (w.extractLsb' 20 6) (w.extractLsb' 4 16)) else
    none
  | _ => none

/-- The word of a fetch directive (R80, R84); `none` for a reserved dop or nonzero bits of NOPL. -/
def decodeDirective (w : W32) : Option Instr :=
  if w.extractLsb' 28 4 == 0 then
    some (.loop (w.extractLsb' 25 3) (w.extractLsb' 24 1) (w.extractLsb' 12 12) (w.extractLsb' 0 12))
  else if w == 0x10000000 then some .nopl else none

/-- The row of the opcode map that a word names on a strand, before any check of its field values. -/
def decodeRow (k : Strand) (w : W32) (x : List W32) : Option Instr :=
  match k with
  | .control => decodeControl w x
  | .vector => decodeVector w x
  | .load => decodeLoad w x
  | .store => decodeStore w x
  | .matrix => decodeMatrix w x
  | .transform => decodeTransform w x
  | .send => decodeSend w x
  | .receive => decodeReceive w x

/-- Decoding at issue: `x` are the extension words delivered with the word and `misplaced` says that one of them was misplaced
or surplus (R76).  The three checks run in the order of R99. -/
def decodeWord (k : Strand) (w : W32) (x : List W32) (misplaced : Bool) : Except DecodeError Instr :=
  match decodeRow k w x with
  | none => .error .illegalInsn
  | some i =>
    if !i.fieldsOk then .error .illegalInsn
    else if misplaced || !i.extCountOk x.length then .error .illegalExt
    else if !i.extBitsOk then .error .illegalInsn
    else .ok i

/-- The decoding of a word that is given no extension words: a form that needs one takes an extension of zeros. -/
def decodePadded (k : Strand) (w : W32) (x : List W32) : Option (Instr × List W32) :=
  match decodeWord k w x false with
  | .ok i => some (i, x)
  | .error _ =>
    match decodeWord k w (x ++ [0]) false with
    | .ok i => some (i, x ++ [0])
    | .error _ => none

/-- The words of an instruction numbered as spec/opcode_table.json numbers them: the first word, then its extensions. -/
def tableWords (nbits w : Nat) : W32 × List W32 :=
  (BitVec.ofNat 32 w,
    (if 32 < nbits then [BitVec.ofNat 32 (w / 2 ^ 32)] else []) ++ (if 64 < nbits then [BitVec.ofNat 32 (w / 2 ^ 64)] else []))

/-- How many bits of its word the row of the opcode table fixes; none for a step of an agent. -/
def Instr.fixedBits : Instr → Nat
  | .add _ _ _ _ _ => 13
  | .sub _ _ _ _ _ => 13
  | .and _ _ _ _ _ => 13
  | .or _ _ _ _ _ => 13
  | .xor _ _ _ _ _ => 13
  | .andn _ _ _ _ _ => 13
  | .shl _ _ _ _ _ => 13
  | .shr _ _ _ _ _ => 13
  | .sra _ _ _ _ _ => 13
  | .min _ _ _ _ _ => 13
  | .max _ _ _ _ _ => 13
  | .minu _ _ _ _ _ => 13
  | .maxu _ _ _ _ _ => 13
  | .clz _ _ _ _ => 18
  | .ctz _ _ _ _ => 18
  | .popc _ _ _ _ => 18
  | .sel _ _ _ _ _ => 13
  | .addW _ _ _ _ _ => 13
  | .subW _ _ _ _ _ => 13
  | .shlW _ _ _ _ _ => 13
  | .shrW _ _ _ _ _ => 13
  | .sraW _ _ _ _ _ => 13
  | .clzW _ _ _ _ => 18
  | .ctzW _ _ _ _ => 18
  | .popcW _ _ _ _ => 18
  | .addi _ _ _ _ _ => 6
  | .andi _ _ _ _ _ => 6
  | .ori _ _ _ _ _ => 6
  | .xori _ _ _ _ _ => 6
  | .shli _ _ _ _ => 13
  | .shri _ _ _ _ => 13
  | .srai _ _ _ _ => 13
  | .li _ _ _ _ => 11
  | .lea _ _ _ => 11
  | .cmp _ _ _ _ _ _ _ => 6
  | .cmpi _ _ _ _ _ => 6
  | .pand _ _ _ => 23
  | .por _ _ _ => 23
  | .pxor _ _ _ => 23
  | .pandn _ _ _ => 23
  | .pnot _ _ => 26
  | .mul _ _ _ _ _ => 16
  | .mulh _ _ _ _ _ => 16
  | .mulhu _ _ _ _ _ => 16
  | .mulW _ _ _ _ _ => 16
  | .faddS _ _ _ _ _ => 16
  | .fsubS _ _ _ _ _ => 16
  | .fmulS _ _ _ _ _ => 16
  | .fmaS _ _ _ _ _ _ => 11
  | .fminS _ _ _ _ _ => 16
  | .fmaxS _ _ _ _ _ => 16
  | .faddD _ _ _ _ _ => 16
  | .fsubD _ _ _ _ _ => 16
  | .fmulD _ _ _ _ _ => 16
  | .fmaD _ _ _ _ _ _ => 11
  | .fminD _ _ _ _ _ => 16
  | .fmaxD _ _ _ _ _ => 16
  | .cvtSD _ _ _ _ => 21
  | .cvtDS _ _ _ _ => 21
  | .cvtSI _ _ _ _ => 21
  | .cvtIS _ _ _ _ => 21
  | .cvtDI _ _ _ _ => 21
  | .cvtID _ _ _ _ => 21
  | .div _ _ _ _ _ => 16
  | .divu _ _ _ _ _ => 16
  | .rem _ _ _ _ _ => 16
  | .remu _ _ _ _ _ => 16
  | .fdivS _ _ _ _ _ => 16
  | .fsqrtS _ _ _ _ => 21
  | .fdivD _ _ _ _ _ => 16
  | .fsqrtD _ _ _ _ => 21
  | .movM _ _ _ _ => 21
  | .movD _ _ _ _ => 21
  | .movL _ _ _ _ => 21
  | .spl _ _ _ => 15
  | .sps _ _ _ => 15
  | .lsp _ _ _ _ _ _ => 6
  | .ssp _ _ _ _ _ => 6
  | .popStream _ _ _ _ => 18
  | .popChannel _ _ _ _ => 18
  | .pushK _ _ _ _ => 18
  | .pushO _ _ _ _ => 18
  | .pushJ _ _ _ _ => 18
  | .br _ _ _ => 6
  | .call _ _ _ => 6
  | .jr _ _ _ => 23
  | .jrl _ _ _ _ => 18
  | .snap _ _ _ _ => 18
  | .accept _ _ _ _ => 18
  | .reject _ _ _ _ => 18
  | .snapq _ _ _ _ => 18
  | .evset _ => 24
  | .evclr _ => 24
  | .evtst _ _ => 19
  | .qpost _ _ _ _ _ => 13
  | .mfs _ _ => 15
  | .mts _ _ => 15
  | .trap _ _ => 16
  | .eret => 32
  | .tstop _ => 27
  | .tgo _ => 27
  | .rawait _ _ => 10
  | .rrel _ _ => 10
  | .halt => 32
  | .wait _ _ => 10
  | .sig _ _ => 10
  | .fwait _ _ => 10
  | .vadd _ _ _ _ _ => 9
  | .vsub _ _ _ _ _ => 9
  | .vmul _ _ _ _ _ => 9
  | .vmin _ _ _ _ _ => 9
  | .vmax _ _ _ _ _ => 9
  | .vabs _ _ _ _ => 15
  | .vneg _ _ _ _ => 15
  | .vmov _ _ _ _ => 15
  | .vfma _ _ _ _ _ => 9
  | .vfms _ _ _ _ _ => 9
  | .vfnma _ _ _ _ _ => 9
  | .vdot2 _ _ _ _ => 11
  | .vand _ _ _ _ _ => 9
  | .vor _ _ _ _ _ => 9
  | .vxor _ _ _ _ _ => 9
  | .vandn _ _ _ _ _ => 9
  | .vshl _ _ _ _ _ => 9
  | .vshr _ _ _ _ _ => 9
  | .vsra _ _ _ _ _ => 9
  | .vnot _ _ _ _ => 15
  | .vcmp _ _ _ _ _ _ _ => 7
  | .vsel _ _ _ _ _ => 9
  | .vcvt _ _ _ _ _ _ _ => 6
  | .vrcp _ _ _ _ => 15
  | .vrsq _ _ _ _ => 15
  | .vexp2 _ _ _ _ => 15
  | .vlog2 _ _ _ _ => 15
  | .vsinp _ _ _ _ => 15
  | .vcosp _ _ _ _ => 15
  | .vtanh _ _ _ _ => 15
  | .vsqrt _ _ _ _ => 15
  | .vsum _ _ _ _ => 15
  | .vrmax _ _ _ _ => 15
  | .vrmin _ _ _ _ => 15
  | .vramax _ _ _ _ => 15
  | .vrot _ _ _ _ _ => 12
  | .vshuf _ _ _ _ => 17
  | .vtapw _ _ => 22
  | .vtapr _ _ => 22
  | .vins _ _ _ _ => 17
  | .vinsB _ _ => 29
  | .vext _ _ _ => 18
  | .vacr _ _ _ => 18
  | .vacw _ _ _ => 18
  | .cbld _ _ _ _ => 10
  | .cbswap _ => 30
  | .vcbx _ _ _ _ _ => 8
  | .vmode _ _ _ _ _ => 24
  | .vview _ _ => 26
  | .vbamax _ _ _ => 17
  | .vbscMx _ => 26
  | .vbscSb8 _ => 26
  | .vbscSb4 _ => 26
  | .mand _ _ _ => 23
  | .mor _ _ _ => 23
  | .mxor _ _ _ => 23
  | .mnot _ _ => 26
  | .mpopc _ => 29
  | .ld _ _ _ _ _ _ => 11
  | .ldw _ _ _ _ _ _ _ => 7
  | .ldg _ _ _ _ _ _ _ => 19
  | .sset _ _ _ => 15
  | .sclr _ => 29
  | .markL _ => 24
  | .atr _ _ _ _ _ _ => 7
  | .fenceL _ => 29
  | .acq _ _ _ _ => 9
  | .pref _ _ => 15
  | .laAdd _ _ _ => 20
  | .laAddi _ _ _ _ => 11
  | .laShli _ _ _ => 18
  | .laLi _ _ _ => 15
  | .laTake _ _ => 26
  | .laIx _ _ => 25
  | .barw _ _ _ => 14
  | .st _ _ _ _ => 11
  | .stw _ _ _ _ _ => 7
  | .stx _ _ _ _ _ => 19
  | .atn _ _ _ _ _ _ => 6
  | .markS _ => 24
  | .fenceS _ => 29
  | .rel _ _ _ _ => 8
  | .aflush => 32
  | .saAdd _ _ _ => 20
  | .saAddi _ _ _ _ => 11
  | .saShli _ _ _ => 18
  | .saLi _ _ _ => 15
  | .saTake _ _ => 26
  | .saIx _ _ => 25
  | .barm _ _ _ _ => 15
  | .barr _ _ _ _ => 15
  | .mpar _ _ _ => 6
  | .mparq _ => 28
  | .mma _ _ _ _ _ _ _ _ => 8
  | .mmas _ _ _ _ _ _ _ => 9
  | .mzero _ _ _ => 19
  | .mout _ _ _ _ => 15
  | .tpar _ _ _ => 6
  | .fft _ _ _ _ _ _ => 13
  | .leg _ _ _ _ => 15
  | .xpar _ _ _ => 6
  | .send _ _ _ => 16
  | .swg _ _ _ => 16
  | .rtree _ _ _ => 16
  | .ypar _ _ _ => 6
  | .recv _ _ _ => 16
  | .yclr _ _ _ => 16
  | .loop _ _ _ _ => 4
  | .nopl => 32
  | .fetchLine _ => 0
  | .branchResolve _ => 0
  | .fetchEndHalt _ _ => 0
  | .resultLanding _ _ => 0
  | .trapEntry _ => 0
  | .freplyRead _ => 0
  | .wdataAccess _ _ _ => 0
  | .launchend _ _ => 0
  | .pendingSigPerform _ _ => 0
  | .eventPerform => 0
  | .qpostTimeout _ => 0
  | .loadDeliver _ => 0
  | .storePerform _ _ => 0
  | .tlbWalk _ _ => 0
  | .streamElement _ _ => 0
  | .anvilPrescan _ => 0
  | .anvilStep _ => 0
  | .commandRaise _ _ => 0
  | .transformStep _ => 0
  | .followOnStart _ => 0
  | .podModeChange _ => 0
  | .islandRatioChange _ => 0
  | .watchdogExpiry _ => 0
  | .traceSample _ _ => 0
  | .tileResetComplete _ => 0
  | .bindRecord _ _ => 0
  | .groupStart _ => 0
  | .tileDrainComplete _ => 0
  | .launchComplete _ => 0
  | .preemption _ => 0
  | .saveComplete _ => 0
  | .placeLaunch _ _ _ _ _ _ _ => 0
  | .priorityAging _ => 0
  | .faultRecordWrite _ => 0
  | .faultRecordDrop _ => 0
  | .ctxCreate _ => 0
  | .ctxKill _ => 0
  | .ctxAck _ => 0
  | .ctxDestroy _ => 0
  | .functionLevelReset _ => 0
  | .killingComplete _ => 0
  | .attnRequest _ => 0
  | .reply _ _ => 0
  | .notify _ _ => 0
  | .claim _ _ => 0
  | .queueCreate _ _ => 0
  | .queuePause _ => 0
  | .queueResume _ => 0
  | .queueDrain _ => 0
  | .queueReset _ => 0
  | .drainComplete _ => 0
  | .hearthPoll _ => 0
  | .dispatch _ _ => 0
  | .copy _ _ => 0
  | .layout _ _ => 0
  | .qfence _ _ => 0
  | .qfenceJoinComplete _ => 0
  | .signalPacket _ _ => 0
  | .graph _ _ => 0
  | .slotReserve _ => 0
  | .copyComplete _ => 0
  | .copyFault _ _ => 0
  | .barrierPost _ _ _ _ => 0
  | .barwPoll _ => 0
  | .graphLaunchRecord _ => 0
  | .snapop _ => 0
  | .jumpif _ => 0
  | .graphSignalRecord _ => 0
  | .graphEndRecord _ => 0
  | .flitDepart _ => 0
  | .flitLanding _ => 0
  | .treeNodeCombine _ _ => 0
  | .portEnable _ => 0
  | .portDisable _ => 0
  | .bringupLock _ _ => 0
  | .bringupAlign _ _ _ => 0
  | .bringupTrain _ => 0
  | .bringupVerify _ _ _ => 0
  | .bringupHandshake _ _ _ => 0
  | .rowSend _ => 0
  | .rowReceive _ _ => 0
  | .repairPacketReceive _ _ => 0
  | .repairTimeout _ => 0
  | .ringNearWrap _ _ _ => 0
  | .ringEndOfRange _ _ _ => 0
  | .laneRetrainComplete _ _ _ => 0
  | .laneRetrainRetry _ _ => 0
  | .swcmd _ _ => 0
  | .switchCellWriteDone _ => 0
  | .requestAccept _ => 0
  | .requestDepart _ => 0
  | .targetService _ => 0
  | .replyArrive _ _ _ _ _ => 0
  | .remoteTimeout _ => 0
  | .waitLimitTimeout _ => 0
  | .heldRequestTimeout _ => 0
  | .aggElementEnter _ => 0
  | .aggAgeExpiry _ _ => 0
  | .aggPacketAccept _ _ => 0
  | .aggStatusArrive _ _ _ _ => 0
  | .aggctlWrite _ _ => 0
  | .ueWorkDescriptor _ _ => 0
  | .ueRmaPacket _ _ _ _ _ => 0
  | .entropyStatsUpdate _ _ _ _ _ _ => 0
  | .setroot _ => 0
  | .shootdown _ => 0
  | .frameset _ => 0
  | .dirtysync _ => 0
  | .migcfg _ => 0
  | .migrationTrigger _ _ _ => 0
  | .migrationMoveComplete _ _ => 0
  | .freezeExpiry _ _ => 0
  | .srangeWrite _ _ _ _ => 0
  | .spoolWrite _ _ => 0
  | .snapshotOperationPerform _ => 0
  | .snapshotLineWrite _ _ _ _ => 0
  | .rejectCompletion _ => 0
  | .invalidateAckTimeout _ => 0
  | .restoreLine _ _ => 0
  | .hostWrite _ _ _ => 0
  | .modulePowerOn _ => 0
  | .islandPowerUp _ => 0
  | .islandPowerDown _ => 0
  | .limitLoop _ _ => 0
  | .nreqWrite _ _ => 0
  | .vsetWrite _ _ => 0
  | .update => 0
  | .attest => 0
  | .logread => 0
  | .registerWrite _ _ _ => 0
  | .clockLaneLost _ _ => 0
  | .modulePowerOff => 0
  | .shadowEntryFree _ => 0
  | .ueResponsePacket _ _ _ _ => 0
  | .pageCommandComplete => 0

/-- The readings of a word: by the strands whose opcode maps accept it, with the extension words it takes, and as a directive. -/
def decodings (w : W32) (x : List W32) : List (Option Strand × Instr × List W32) :=
  Strand.all.filterMap (fun k => (decodePadded k w x).map (fun r => (some k, r.1, r.2)))
    ++ (((decodeDirective w).filter Instr.fieldsOk).map fun i => (none, i, [])).toList

/-- A word alone does not name its strand (its lane tag does, R72), and the strands share opcodes: of the readings, the one whose row fixes
the most bits, and among equals the first in Table 2-1 order. -/
def decodeAnyStrand (w : W32) (x : List W32) : Option (Option Strand × Instr × List W32) :=
  (decodings w x).foldl (fun acc r =>
    match acc with
    | none => some r
    | some b => if b.2.1.fixedBits < r.2.1.fixedBits then some r else some b) none

/-- The instruction the decoder reads from an instruction whose bits are `w` (the host's question). -/
def decodeTableWord (nbits w : Nat) : Option Instr :=
  let p := tableWords nbits w
  (decodeAnyStrand p.1 p.2).map fun r => r.2.1

/-! ## The line (R72, R73) -/

/-- Word `n` of a 256-bit line: W0 is the header, W1-W7 the lanes. -/
def lineWord (l : BitVec 256) (n : Nat) : W32 := l.extractLsb' (32 * n) 32

/-- The tag of lane `k` (1-7), header bits [4k+3:4k]. -/
def lineTag (l : BitVec 256) (k : Nat) : BitVec 4 := l.extractLsb' (4 * k) 4

/-- LAST, header bit 0. -/
def lineLast (l : BitVec 256) : Bool := l.getLsbD 0

/-- The strand that a tag value names (Table 2-1). -/
def tagStrand (t : BitVec 4) : Option Strand := if t == 0 then none else Strand.ofPos (t.toNat - 1)

/-! ## The encoder -/

/-- The word of an instruction, from the format tables 4-7, 4-8, 4-10, 4-12 and the opcode maps; a step of an agent has none. -/
def encodeWord : Instr → W32
  | .add d a b p n => 0#6 ++ d ++ a ++ b ++ p ++ n ++ 0#7
  | .sub d a b p n => 0#6 ++ d ++ a ++ b ++ p ++ n ++ 1#7
  | .and d a b p n => 0#6 ++ d ++ a ++ b ++ p ++ n ++ 2#7
  | .or d a b p n => 0#6 ++ d ++ a ++ b ++ p ++ n ++ 3#7
  | .xor d a b p n => 0#6 ++ d ++ a ++ b ++ p ++ n ++ 4#7
  | .andn d a b p n => 0#6 ++ d ++ a ++ b ++ p ++ n ++ 5#7
  | .shl d a b p n => 0#6 ++ d ++ a ++ b ++ p ++ n ++ 6#7
  | .shr d a b p n => 0#6 ++ d ++ a ++ b ++ p ++ n ++ 7#7
  | .sra d a b p n => 0#6 ++ d ++ a ++ b ++ p ++ n ++ 8#7
  | .min d a b p n => 0#6 ++ d ++ a ++ b ++ p ++ n ++ 9#7
  | .max d a b p n => 0#6 ++ d ++ a ++ b ++ p ++ n ++ 10#7
  | .minu d a b p n => 0#6 ++ d ++ a ++ b ++ p ++ n ++ 11#7
  | .maxu d a b p n => 0#6 ++ d ++ a ++ b ++ p ++ n ++ 12#7
  | .clz d a p n => 0#6 ++ d ++ a ++ 0#5 ++ p ++ n ++ 13#7
  | .ctz d a p n => 0#6 ++ d ++ a ++ 0#5 ++ p ++ n ++ 14#7
  | .popc d a p n => 0#6 ++ d ++ a ++ 0#5 ++ p ++ n ++ 15#7
  | .sel d a b p n => 0#6 ++ d ++ a ++ b ++ p ++ n ++ 16#7
  | .addW d a b p n => 0#6 ++ d ++ a ++ b ++ p ++ n ++ 64#7
  | .subW d a b p n => 0#6 ++ d ++ a ++ b ++ p ++ n ++ 65#7
  | .shlW d a b p n => 0#6 ++ d ++ a ++ b ++ p ++ n ++ 70#7
  | .shrW d a b p n => 0#6 ++ d ++ a ++ b ++ p ++ n ++ 71#7
  | .sraW d a b p n => 0#6 ++ d ++ a ++ b ++ p ++ n ++ 72#7
  | .clzW d a p n => 0#6 ++ d ++ a ++ 0#5 ++ p ++ n ++ 77#7
  | .ctzW d a p n => 0#6 ++ d ++ a ++ 0#5 ++ p ++ n ++ 78#7
  | .popcW d a p n => 0#6 ++ d ++ a ++ 0#5 ++ p ++ n ++ 79#7
  | .addi d a p i _ => 1#6 ++ d ++ a ++ p ++ i
  | .andi d a p i _ => 2#6 ++ d ++ a ++ p ++ i
  | .ori d a p i _ => 3#6 ++ d ++ a ++ p ++ i
  | .xori d a p i _ => 4#6 ++ d ++ a ++ p ++ i
  | .shli d a p n => 5#6 ++ d ++ a ++ p ++ 0#7 ++ n
  | .shri d a p n => 6#6 ++ d ++ a ++ p ++ 0#7 ++ n
  | .srai d a p n => 7#6 ++ d ++ a ++ p ++ 0#7 ++ n
  | .li d p i _ => 8#6 ++ d ++ 0#5 ++ p ++ i
  | .lea d p i => 9#6 ++ d ++ 0#5 ++ p ++ i
  | .cmp d c a b p n k => 10#6 ++ d ++ c ++ a ++ b ++ p ++ n ++ k
  | .cmpi d c a k i => 11#6 ++ d ++ c ++ a ++ k ++ i
  | .pand d a b => 12#6 ++ d ++ a ++ b ++ 0#17
  | .por d a b => 12#6 ++ d ++ a ++ b ++ 16384#17
  | .pxor d a b => 12#6 ++ d ++ a ++ b ++ 32768#17
  | .pandn d a b => 12#6 ++ d ++ a ++ b ++ 49152#17
  | .pnot d a => 12#6 ++ d ++ a ++ 65536#20
  | .mul a b p n l => 512#11 ++ a ++ b ++ p ++ n ++ l ++ 0#5
  | .mulh a b p n l => 512#11 ++ a ++ b ++ p ++ n ++ l ++ 1#5
  | .mulhu a b p n l => 512#11 ++ a ++ b ++ p ++ n ++ l ++ 2#5
  | .mulW a b p n l => 512#11 ++ a ++ b ++ p ++ n ++ l ++ 3#5
  | .faddS a b p n l => 512#11 ++ a ++ b ++ p ++ n ++ l ++ 8#5
  | .fsubS a b p n l => 512#11 ++ a ++ b ++ p ++ n ++ l ++ 9#5
  | .fmulS a b p n l => 512#11 ++ a ++ b ++ p ++ n ++ l ++ 10#5
  | .fmaS c a b p n l => 16#6 ++ c ++ a ++ b ++ p ++ n ++ l ++ 11#5
  | .fminS a b p n l => 512#11 ++ a ++ b ++ p ++ n ++ l ++ 12#5
  | .fmaxS a b p n l => 512#11 ++ a ++ b ++ p ++ n ++ l ++ 13#5
  | .faddD a b p n l => 512#11 ++ a ++ b ++ p ++ n ++ l ++ 16#5
  | .fsubD a b p n l => 512#11 ++ a ++ b ++ p ++ n ++ l ++ 17#5
  | .fmulD a b p n l => 512#11 ++ a ++ b ++ p ++ n ++ l ++ 18#5
  | .fmaD c a b p n l => 16#6 ++ c ++ a ++ b ++ p ++ n ++ l ++ 19#5
  | .fminD a b p n l => 512#11 ++ a ++ b ++ p ++ n ++ l ++ 20#5
  | .fmaxD a b p n l => 512#11 ++ a ++ b ++ p ++ n ++ l ++ 21#5
  | .cvtSD a p n l => 512#11 ++ a ++ 0#5 ++ p ++ n ++ l ++ 24#5
  | .cvtDS a p n l => 512#11 ++ a ++ 0#5 ++ p ++ n ++ l ++ 25#5
  | .cvtSI a p n l => 512#11 ++ a ++ 0#5 ++ p ++ n ++ l ++ 26#5
  | .cvtIS a p n l => 512#11 ++ a ++ 0#5 ++ p ++ n ++ l ++ 27#5
  | .cvtDI a p n l => 512#11 ++ a ++ 0#5 ++ p ++ n ++ l ++ 28#5
  | .cvtID a p n l => 512#11 ++ a ++ 0#5 ++ p ++ n ++ l ++ 29#5
  | .div a b p n l => 544#11 ++ a ++ b ++ p ++ n ++ l ++ 0#5
  | .divu a b p n l => 544#11 ++ a ++ b ++ p ++ n ++ l ++ 1#5
  | .rem a b p n l => 544#11 ++ a ++ b ++ p ++ n ++ l ++ 2#5
  | .remu a b p n l => 544#11 ++ a ++ b ++ p ++ n ++ l ++ 3#5
  | .fdivS a b p n l => 544#11 ++ a ++ b ++ p ++ n ++ l ++ 8#5
  | .fsqrtS a p n l => 544#11 ++ a ++ 0#5 ++ p ++ n ++ l ++ 9#5
  | .fdivD a b p n l => 544#11 ++ a ++ b ++ p ++ n ++ l ++ 16#5
  | .fsqrtD a p n l => 544#11 ++ a ++ 0#5 ++ p ++ n ++ l ++ 17#5
  | .movM d l p n => 18#6 ++ d ++ 0#3 ++ l ++ 0#5 ++ p ++ n ++ 0#7
  | .movD d l p n => 18#6 ++ d ++ 0#3 ++ l ++ 0#5 ++ p ++ n ++ 1#7
  | .movL d l p n => 18#6 ++ d ++ 0#3 ++ l ++ 0#5 ++ p ++ n ++ 2#7
  | .spl d p s => 19#6 ++ d ++ 0#5 ++ p ++ 0#4 ++ s
  | .sps a p s => 640#11 ++ a ++ p ++ 0#4 ++ s
  | .lsp k l a p i _ => 21#6 ++ k ++ l ++ a ++ p ++ i
  | .ssp b a p z i => 22#6 ++ b ++ a ++ p ++ z ++ i
  | .popStream d b p n => 23#6 ++ d ++ 0#5 ++ b ++ p ++ n ++ 0#7
  | .popChannel d b p n => 23#6 ++ d ++ 0#5 ++ b ++ p ++ n ++ 1#7
  | .pushK a b p n => 768#11 ++ a ++ b ++ p ++ n ++ 0#7
  | .pushO a b p n => 768#11 ++ a ++ b ++ p ++ n ++ 1#7
  | .pushJ a b p n => 768#11 ++ a ++ b ++ p ++ n ++ 2#7
  | .br p n d => 32#6 ++ p ++ n ++ d
  | .call p n d => 33#6 ++ p ++ n ++ d
  | .jr a p n => 1088#11 ++ a ++ 0#5 ++ p ++ n ++ 0#7
  | .jrl d a p n => 34#6 ++ d ++ a ++ 0#5 ++ p ++ n ++ 1#7
  | .snap d a p n => 40#6 ++ d ++ a ++ 0#5 ++ p ++ n ++ 0#7
  | .accept d a p n => 40#6 ++ d ++ a ++ 0#5 ++ p ++ n ++ 1#7
  | .reject d a p n => 40#6 ++ d ++ a ++ 0#5 ++ p ++ n ++ 2#7
  | .snapq d a p n => 40#6 ++ d ++ a ++ 0#5 ++ p ++ n ++ 3#7
  | .evset e => 10747904#24 ++ e
  | .evclr e => 10749952#24 ++ e
  | .evtst d e => 41#6 ++ d ++ 4096#13 ++ e
  | .qpost d a b p n => 42#6 ++ d ++ a ++ b ++ p ++ n ++ 0#7
  | .mfs d s => 48#6 ++ d ++ s ++ 0#9
  | .mts a s => 49#6 ++ a ++ s ++ 0#9
  | .trap p i => 51200#16 ++ p ++ i
  | .eret => 3422552064#32
  | .tstop a => 1664#11 ++ a ++ 0#16
  | .tgo a => 1696#11 ++ a ++ 0#16
  | .rawait i c => 55#6 ++ i ++ c ++ 0#4
  | .rrel i c => 56#6 ++ i ++ c ++ 0#4
  | .halt => 3959422976#32
  | .wait i c => 60#6 ++ i ++ c ++ 0#4
  | .sig i c => 61#6 ++ i ++ c ++ 0#4
  | .fwait i c => 62#6 ++ i ++ c ++ 0#4
  | .vadd d a b m t => 0#6 ++ d ++ a ++ b ++ m ++ t ++ 0#3
  | .vsub d a b m t => 0#6 ++ d ++ a ++ b ++ m ++ t ++ 1#3
  | .vmul d a b m t => 0#6 ++ d ++ a ++ b ++ m ++ t ++ 2#3
  | .vmin d a b m t => 0#6 ++ d ++ a ++ b ++ m ++ t ++ 3#3
  | .vmax d a b m t => 0#6 ++ d ++ a ++ b ++ m ++ t ++ 4#3
  | .vabs d a m t => 0#6 ++ d ++ a ++ 0#6 ++ m ++ t ++ 5#3
  | .vneg d a m t => 0#6 ++ d ++ a ++ 0#6 ++ m ++ t ++ 6#3
  | .vmov d a m t => 0#6 ++ d ++ a ++ 0#6 ++ m ++ t ++ 7#3
  | .vfma d a b m t => 1#6 ++ d ++ a ++ b ++ m ++ t ++ 0#3
  | .vfms d a b m t => 1#6 ++ d ++ a ++ b ++ m ++ t ++ 1#3
  | .vfnma d a b m t => 1#6 ++ d ++ a ++ b ++ m ++ t ++ 2#3
  | .vdot2 d a b m => 1#6 ++ d ++ a ++ b ++ m ++ 27#5
  | .vand d a b m t => 2#6 ++ d ++ a ++ b ++ m ++ t ++ 0#3
  | .vor d a b m t => 2#6 ++ d ++ a ++ b ++ m ++ t ++ 1#3
  | .vxor d a b m t => 2#6 ++ d ++ a ++ b ++ m ++ t ++ 2#3
  | .vandn d a b m t => 2#6 ++ d ++ a ++ b ++ m ++ t ++ 3#3
  | .vshl d a b m t => 2#6 ++ d ++ a ++ b ++ m ++ t ++ 4#3
  | .vshr d a b m t => 2#6 ++ d ++ a ++ b ++ m ++ t ++ 5#3
  | .vsra d a b m t => 2#6 ++ d ++ a ++ b ++ m ++ t ++ 6#3
  | .vnot d a m t => 2#6 ++ d ++ a ++ 0#6 ++ m ++ t ++ 7#3
  | .vcmp d c a b m t k => 3#6 ++ d ++ c ++ 0#1 ++ a ++ b ++ m ++ t ++ k
  | .vsel d a b m t => 4#6 ++ d ++ a ++ b ++ m ++ t ++ 0#3
  | .vcvt d a f t r s c => 5#6 ++ d ++ a ++ f ++ t ++ r ++ s ++ c
  | .vrcp d a m t => 6#6 ++ d ++ a ++ 0#6 ++ m ++ t ++ 0#3
  | .vrsq d a m t => 6#6 ++ d ++ a ++ 0#6 ++ m ++ t ++ 1#3
  | .vexp2 d a m t => 6#6 ++ d ++ a ++ 0#6 ++ m ++ t ++ 2#3
  | .vlog2 d a m t => 6#6 ++ d ++ a ++ 0#6 ++ m ++ t ++ 3#3
  | .vsinp d a m t => 6#6 ++ d ++ a ++ 0#6 ++ m ++ t ++ 4#3
  | .vcosp d a m t => 6#6 ++ d ++ a ++ 0#6 ++ m ++ t ++ 5#3
  | .vtanh d a m t => 6#6 ++ d ++ a ++ 0#6 ++ m ++ t ++ 6#3
  | .vsqrt d a m t => 6#6 ++ d ++ a ++ 0#6 ++ m ++ t ++ 7#3
  | .vsum d a m t => 7#6 ++ d ++ a ++ 0#6 ++ m ++ t ++ 0#3
  | .vrmax d a m t => 7#6 ++ d ++ a ++ 0#6 ++ m ++ t ++ 1#3
  | .vrmin d a m t => 7#6 ++ d ++ a ++ 0#6 ++ m ++ t ++ 2#3
  | .vramax d a m t => 7#6 ++ d ++ a ++ 0#6 ++ m ++ t ++ 3#3
  | .vrot d a m r k => 8#6 ++ d ++ a ++ m ++ r ++ 0#6 ++ k
  | .vshuf d a m _ => 9#6 ++ d ++ a ++ m ++ 0#11
  | .vtapw v l => 10#6 ++ v ++ l ++ 0#16
  | .vtapr v l => 10#6 ++ v ++ l ++ 32768#16
  | .vins v c e a => 11#6 ++ v ++ c ++ e ++ a ++ 0#11
  | .vinsB c b => 704#12 ++ c ++ 0#8 ++ b ++ 256#9
  | .vext v c e => 12#6 ++ v ++ c ++ e ++ 0#12
  | .vacr v c r => 13#6 ++ v ++ c ++ r ++ 0#12
  | .vacw v c r => 13#6 ++ v ++ c ++ r ++ 2048#12
  | .cbld d a k n => 14#6 ++ d ++ a ++ k ++ 0#4 ++ n
  | .cbswap k => 57344#18 ++ k ++ 1024#12
  | .vcbx d a k w g => 14#6 ++ d ++ a ++ k ++ 2#2 ++ w ++ g
  | .vmode w b c f r => 3932160#24 ++ w ++ b ++ c ++ f ++ r
  | .vview d _ => 16#6 ++ d ++ 0#20
  | .vbamax d a m => 17#6 ++ d ++ a ++ 0#6 ++ m ++ 0#5
  | .vbscMx a => 1088#12 ++ a ++ 1#14
  | .vbscSb8 a => 1088#12 ++ a ++ 2#14
  | .vbscSb4 a => 1088#12 ++ a ++ 3#14
  | .mand d a b => 144#9 ++ d ++ 0#3 ++ a ++ 0#3 ++ b ++ 0#8
  | .mor d a b => 144#9 ++ d ++ 0#3 ++ a ++ 0#3 ++ b ++ 1#8
  | .mxor d a b => 144#9 ++ d ++ 0#3 ++ a ++ 0#3 ++ b ++ 2#8
  | .mnot d a => 144#9 ++ d ++ 0#3 ++ a ++ 3#14
  | .mpopc a => 9216#15 ++ a ++ 4#14
  | .ld q a s c i _ => 0#7 ++ q ++ a ++ 7#4 ++ s ++ c ++ i
  | .ldw q a k s c i _ => 3#7 ++ q ++ a ++ k ++ s ++ c ++ i
  | .ldg q a k s c j _ => 4#7 ++ q ++ a ++ k ++ s ++ c ++ 0#12 ++ j
  | .sset q a d => 3#6 ++ q ++ a ++ d ++ 0#9
  | .sclr q => 4#6 ++ q ++ 0#23
  | .markL i => 5#6 ++ i ++ 0#18
  | .atr q a k s w i => 13#7 ++ q ++ a ++ k ++ s ++ w ++ i
  | .fenceL s => 1792#14 ++ s ++ 0#15
  | .acq q a k i => 17#7 ++ q ++ a ++ k ++ 0#2 ++ i
  | .pref a i => 72#9 ++ a ++ 28#6 ++ i
  | .laAdd d a b => 10#6 ++ d ++ a ++ 0#14 ++ b
  | .laAddi d a i _ => 10#6 ++ d ++ a ++ 4#5 ++ i
  | .laShli d a n => 10#6 ++ d ++ a ++ 1024#12 ++ n
  | .laLi d i _ => 10#6 ++ d ++ 12#9 ++ i
  | .laTake d c => 10#6 ++ d ++ 4#7 ++ c ++ 0#13
  | .laIx d n => 10#6 ++ d ++ 20480#19 ++ n
  | .barw a s i => 88#9 ++ a ++ 0#4 ++ s ++ 0#1 ++ i
  | .st o w s i => 0#6 ++ o ++ w ++ 7#4 ++ s ++ 0#1 ++ i
  | .stw o w k s i => 1#6 ++ o ++ w ++ k ++ s ++ 0#1 ++ i
  | .stx o w k s j => 2#6 ++ o ++ w ++ k ++ s ++ 0#13 ++ j
  | .atn o w k s w_part2 i => 3#6 ++ o ++ w ++ k ++ s ++ w_part2 ++ i
  | .markS i => 4#6 ++ i ++ 0#18
  | .fenceS s => 1280#14 ++ s ++ 0#15
  | .rel o w k i => 6#6 ++ o ++ w ++ k ++ 0#2 ++ i
  | .aflush => 469762048#32
  | .saAdd d a b => 8#6 ++ d ++ a ++ 0#14 ++ b
  | .saAddi d a i _ => 8#6 ++ d ++ a ++ 4#5 ++ i
  | .saShli d a n => 8#6 ++ d ++ a ++ 1024#12 ++ n
  | .saLi d i _ => 8#6 ++ d ++ 12#9 ++ i
  | .saTake d c => 8#6 ++ d ++ 4#7 ++ c ++ 0#13
  | .saIx d n => 8#6 ++ d ++ 20480#19 ++ n
  | .barm f w s i => 9#6 ++ f ++ w ++ s ++ i ++ 0#9
  | .barr f w s i => 10#6 ++ f ++ w ++ s ++ i ++ 0#9
  | .mpar r i _ => 0#6 ++ r ++ i
  | .mparq r => 1#6 ++ r ++ 0#22
  | .mma w r c l a b f g => 2#6 ++ w ++ r ++ c ++ l ++ a ++ b ++ f ++ g ++ 0#2
  | .mmas w r c l a f g => 3#6 ++ w ++ r ++ c ++ l ++ a ++ 0#1 ++ f ++ g ++ 0#2
  | .mzero w r c => 4#6 ++ w ++ r ++ c ++ 0#13
  | .mout w r c f => 5#6 ++ w ++ r ++ c ++ 0#3 ++ f ++ 0#6
  | .tpar r i _ => 0#6 ++ r ++ i
  | .fft w r d q e t => 1#6 ++ w ++ r ++ d ++ q ++ e ++ t ++ 0#7
  | .leg w r d t => 2#6 ++ w ++ r ++ d ++ 2#2 ++ t ++ 0#7
  | .xpar r i _ => 0#6 ++ r ++ i
  | .send w r dx => 1#6 ++ w ++ r ++ dx ++ 0#10
  | .swg w r dx => 2#6 ++ w ++ r ++ dx ++ 0#10
  | .rtree w r dx => 3#6 ++ w ++ r ++ dx ++ 0#10
  | .ypar r i _ => 0#6 ++ r ++ i
  | .recv w r y => 1#6 ++ w ++ r ++ y ++ 0#10
  | .yclr w r n => 2#6 ++ w ++ r ++ n ++ 0#10
  | .loop l s n c => 0#4 ++ l ++ s ++ n ++ c
  | .nopl => 268435456#32
  | .fetchLine _ => 0
  | .branchResolve _ => 0
  | .fetchEndHalt _ _ => 0
  | .resultLanding _ _ => 0
  | .trapEntry _ => 0
  | .freplyRead _ => 0
  | .wdataAccess _ _ _ => 0
  | .launchend _ _ => 0
  | .pendingSigPerform _ _ => 0
  | .eventPerform => 0
  | .qpostTimeout _ => 0
  | .loadDeliver _ => 0
  | .storePerform _ _ => 0
  | .tlbWalk _ _ => 0
  | .streamElement _ _ => 0
  | .anvilPrescan _ => 0
  | .anvilStep _ => 0
  | .commandRaise _ _ => 0
  | .transformStep _ => 0
  | .followOnStart _ => 0
  | .podModeChange _ => 0
  | .islandRatioChange _ => 0
  | .watchdogExpiry _ => 0
  | .traceSample _ _ => 0
  | .tileResetComplete _ => 0
  | .bindRecord _ _ => 0
  | .groupStart _ => 0
  | .tileDrainComplete _ => 0
  | .launchComplete _ => 0
  | .preemption _ => 0
  | .saveComplete _ => 0
  | .placeLaunch _ _ _ _ _ _ _ => 0
  | .priorityAging _ => 0
  | .faultRecordWrite _ => 0
  | .faultRecordDrop _ => 0
  | .ctxCreate _ => 0
  | .ctxKill _ => 0
  | .ctxAck _ => 0
  | .ctxDestroy _ => 0
  | .functionLevelReset _ => 0
  | .killingComplete _ => 0
  | .attnRequest _ => 0
  | .reply _ _ => 0
  | .notify _ _ => 0
  | .claim _ _ => 0
  | .queueCreate _ _ => 0
  | .queuePause _ => 0
  | .queueResume _ => 0
  | .queueDrain _ => 0
  | .queueReset _ => 0
  | .drainComplete _ => 0
  | .hearthPoll _ => 0
  | .dispatch _ _ => 0
  | .copy _ _ => 0
  | .layout _ _ => 0
  | .qfence _ _ => 0
  | .qfenceJoinComplete _ => 0
  | .signalPacket _ _ => 0
  | .graph _ _ => 0
  | .slotReserve _ => 0
  | .copyComplete _ => 0
  | .copyFault _ _ => 0
  | .barrierPost _ _ _ _ => 0
  | .barwPoll _ => 0
  | .graphLaunchRecord _ => 0
  | .snapop _ => 0
  | .jumpif _ => 0
  | .graphSignalRecord _ => 0
  | .graphEndRecord _ => 0
  | .flitDepart _ => 0
  | .flitLanding _ => 0
  | .treeNodeCombine _ _ => 0
  | .portEnable _ => 0
  | .portDisable _ => 0
  | .bringupLock _ _ => 0
  | .bringupAlign _ _ _ => 0
  | .bringupTrain _ => 0
  | .bringupVerify _ _ _ => 0
  | .bringupHandshake _ _ _ => 0
  | .rowSend _ => 0
  | .rowReceive _ _ => 0
  | .repairPacketReceive _ _ => 0
  | .repairTimeout _ => 0
  | .ringNearWrap _ _ _ => 0
  | .ringEndOfRange _ _ _ => 0
  | .laneRetrainComplete _ _ _ => 0
  | .laneRetrainRetry _ _ => 0
  | .swcmd _ _ => 0
  | .switchCellWriteDone _ => 0
  | .requestAccept _ => 0
  | .requestDepart _ => 0
  | .targetService _ => 0
  | .replyArrive _ _ _ _ _ => 0
  | .remoteTimeout _ => 0
  | .waitLimitTimeout _ => 0
  | .heldRequestTimeout _ => 0
  | .aggElementEnter _ => 0
  | .aggAgeExpiry _ _ => 0
  | .aggPacketAccept _ _ => 0
  | .aggStatusArrive _ _ _ _ => 0
  | .aggctlWrite _ _ => 0
  | .ueWorkDescriptor _ _ => 0
  | .ueRmaPacket _ _ _ _ _ => 0
  | .entropyStatsUpdate _ _ _ _ _ _ => 0
  | .setroot _ => 0
  | .shootdown _ => 0
  | .frameset _ => 0
  | .dirtysync _ => 0
  | .migcfg _ => 0
  | .migrationTrigger _ _ _ => 0
  | .migrationMoveComplete _ _ => 0
  | .freezeExpiry _ _ => 0
  | .srangeWrite _ _ _ _ => 0
  | .spoolWrite _ _ => 0
  | .snapshotOperationPerform _ => 0
  | .snapshotLineWrite _ _ _ _ => 0
  | .rejectCompletion _ => 0
  | .invalidateAckTimeout _ => 0
  | .restoreLine _ _ => 0
  | .hostWrite _ _ _ => 0
  | .modulePowerOn _ => 0
  | .islandPowerUp _ => 0
  | .islandPowerDown _ => 0
  | .limitLoop _ _ => 0
  | .nreqWrite _ _ => 0
  | .vsetWrite _ _ => 0
  | .update => 0
  | .attest => 0
  | .logread => 0
  | .registerWrite _ _ _ => 0
  | .clockLaneLost _ _ => 0
  | .modulePowerOff => 0
  | .shadowEntryFree _ => 0
  | .ueResponsePacket _ _ _ _ => 0
  | .pageCommandComplete => 0

/-- The words of an instruction: its word, then its extensions. -/
def encode (i : Instr) : List W32 := encodeWord i :: i.exts

/-- The strands that execute an instruction (Tables 4-13 to 4-17); the common operations belong to every strand, directives and
the steps of agents to none. -/
def Instr.onStrand (i : Instr) (k : Strand) : Bool :=
  match i with
  | .add _ _ _ _ _ => k == .control
  | .sub _ _ _ _ _ => k == .control
  | .and _ _ _ _ _ => k == .control
  | .or _ _ _ _ _ => k == .control
  | .xor _ _ _ _ _ => k == .control
  | .andn _ _ _ _ _ => k == .control
  | .shl _ _ _ _ _ => k == .control
  | .shr _ _ _ _ _ => k == .control
  | .sra _ _ _ _ _ => k == .control
  | .min _ _ _ _ _ => k == .control
  | .max _ _ _ _ _ => k == .control
  | .minu _ _ _ _ _ => k == .control
  | .maxu _ _ _ _ _ => k == .control
  | .clz _ _ _ _ => k == .control
  | .ctz _ _ _ _ => k == .control
  | .popc _ _ _ _ => k == .control
  | .sel _ _ _ _ _ => k == .control
  | .addW _ _ _ _ _ => k == .control
  | .subW _ _ _ _ _ => k == .control
  | .shlW _ _ _ _ _ => k == .control
  | .shrW _ _ _ _ _ => k == .control
  | .sraW _ _ _ _ _ => k == .control
  | .clzW _ _ _ _ => k == .control
  | .ctzW _ _ _ _ => k == .control
  | .popcW _ _ _ _ => k == .control
  | .addi _ _ _ _ _ => k == .control
  | .andi _ _ _ _ _ => k == .control
  | .ori _ _ _ _ _ => k == .control
  | .xori _ _ _ _ _ => k == .control
  | .shli _ _ _ _ => k == .control
  | .shri _ _ _ _ => k == .control
  | .srai _ _ _ _ => k == .control
  | .li _ _ _ _ => k == .control
  | .lea _ _ _ => k == .control
  | .cmp _ _ _ _ _ _ _ => k == .control
  | .cmpi _ _ _ _ _ => k == .control
  | .pand _ _ _ => k == .control
  | .por _ _ _ => k == .control
  | .pxor _ _ _ => k == .control
  | .pandn _ _ _ => k == .control
  | .pnot _ _ => k == .control
  | .mul _ _ _ _ _ => k == .control
  | .mulh _ _ _ _ _ => k == .control
  | .mulhu _ _ _ _ _ => k == .control
  | .mulW _ _ _ _ _ => k == .control
  | .faddS _ _ _ _ _ => k == .control
  | .fsubS _ _ _ _ _ => k == .control
  | .fmulS _ _ _ _ _ => k == .control
  | .fmaS _ _ _ _ _ _ => k == .control
  | .fminS _ _ _ _ _ => k == .control
  | .fmaxS _ _ _ _ _ => k == .control
  | .faddD _ _ _ _ _ => k == .control
  | .fsubD _ _ _ _ _ => k == .control
  | .fmulD _ _ _ _ _ => k == .control
  | .fmaD _ _ _ _ _ _ => k == .control
  | .fminD _ _ _ _ _ => k == .control
  | .fmaxD _ _ _ _ _ => k == .control
  | .cvtSD _ _ _ _ => k == .control
  | .cvtDS _ _ _ _ => k == .control
  | .cvtSI _ _ _ _ => k == .control
  | .cvtIS _ _ _ _ => k == .control
  | .cvtDI _ _ _ _ => k == .control
  | .cvtID _ _ _ _ => k == .control
  | .div _ _ _ _ _ => k == .control
  | .divu _ _ _ _ _ => k == .control
  | .rem _ _ _ _ _ => k == .control
  | .remu _ _ _ _ _ => k == .control
  | .fdivS _ _ _ _ _ => k == .control
  | .fsqrtS _ _ _ _ => k == .control
  | .fdivD _ _ _ _ _ => k == .control
  | .fsqrtD _ _ _ _ => k == .control
  | .movM _ _ _ _ => k == .control
  | .movD _ _ _ _ => k == .control
  | .movL _ _ _ _ => k == .control
  | .spl _ _ _ => k == .control
  | .sps _ _ _ => k == .control
  | .lsp _ _ _ _ _ _ => k == .control
  | .ssp _ _ _ _ _ => k == .control
  | .popStream _ _ _ _ => k == .control
  | .popChannel _ _ _ _ => k == .control
  | .pushK _ _ _ _ => k == .control
  | .pushO _ _ _ _ => k == .control
  | .pushJ _ _ _ _ => k == .control
  | .br _ _ _ => k == .control
  | .call _ _ _ => k == .control
  | .jr _ _ _ => k == .control
  | .jrl _ _ _ _ => k == .control
  | .snap _ _ _ _ => k == .control
  | .accept _ _ _ _ => k == .control
  | .reject _ _ _ _ => k == .control
  | .snapq _ _ _ _ => k == .control
  | .evset _ => k == .control
  | .evclr _ => k == .control
  | .evtst _ _ => k == .control
  | .qpost _ _ _ _ _ => k == .control
  | .mfs _ _ => k == .control
  | .mts _ _ => k == .control
  | .trap _ _ => k == .control
  | .eret => k == .control
  | .tstop _ => k == .control
  | .tgo _ => k == .control
  | .rawait _ _ => true
  | .rrel _ _ => true
  | .halt => true
  | .wait _ _ => true
  | .sig _ _ => true
  | .fwait _ _ => true
  | .vadd _ _ _ _ _ => k == .vector
  | .vsub _ _ _ _ _ => k == .vector
  | .vmul _ _ _ _ _ => k == .vector
  | .vmin _ _ _ _ _ => k == .vector
  | .vmax _ _ _ _ _ => k == .vector
  | .vabs _ _ _ _ => k == .vector
  | .vneg _ _ _ _ => k == .vector
  | .vmov _ _ _ _ => k == .vector
  | .vfma _ _ _ _ _ => k == .vector
  | .vfms _ _ _ _ _ => k == .vector
  | .vfnma _ _ _ _ _ => k == .vector
  | .vdot2 _ _ _ _ => k == .vector
  | .vand _ _ _ _ _ => k == .vector
  | .vor _ _ _ _ _ => k == .vector
  | .vxor _ _ _ _ _ => k == .vector
  | .vandn _ _ _ _ _ => k == .vector
  | .vshl _ _ _ _ _ => k == .vector
  | .vshr _ _ _ _ _ => k == .vector
  | .vsra _ _ _ _ _ => k == .vector
  | .vnot _ _ _ _ => k == .vector
  | .vcmp _ _ _ _ _ _ _ => k == .vector
  | .vsel _ _ _ _ _ => k == .vector
  | .vcvt _ _ _ _ _ _ _ => k == .vector
  | .vrcp _ _ _ _ => k == .vector
  | .vrsq _ _ _ _ => k == .vector
  | .vexp2 _ _ _ _ => k == .vector
  | .vlog2 _ _ _ _ => k == .vector
  | .vsinp _ _ _ _ => k == .vector
  | .vcosp _ _ _ _ => k == .vector
  | .vtanh _ _ _ _ => k == .vector
  | .vsqrt _ _ _ _ => k == .vector
  | .vsum _ _ _ _ => k == .vector
  | .vrmax _ _ _ _ => k == .vector
  | .vrmin _ _ _ _ => k == .vector
  | .vramax _ _ _ _ => k == .vector
  | .vrot _ _ _ _ _ => k == .vector
  | .vshuf _ _ _ _ => k == .vector
  | .vtapw _ _ => k == .vector
  | .vtapr _ _ => k == .vector
  | .vins _ _ _ _ => k == .vector
  | .vinsB _ _ => k == .vector
  | .vext _ _ _ => k == .vector
  | .vacr _ _ _ => k == .vector
  | .vacw _ _ _ => k == .vector
  | .cbld _ _ _ _ => k == .vector
  | .cbswap _ => k == .vector
  | .vcbx _ _ _ _ _ => k == .vector
  | .vmode _ _ _ _ _ => k == .vector
  | .vview _ _ => k == .vector
  | .vbamax _ _ _ => k == .vector
  | .vbscMx _ => k == .vector
  | .vbscSb8 _ => k == .vector
  | .vbscSb4 _ => k == .vector
  | .mand _ _ _ => k == .vector
  | .mor _ _ _ => k == .vector
  | .mxor _ _ _ => k == .vector
  | .mnot _ _ => k == .vector
  | .mpopc _ => k == .vector
  | .ld _ _ _ _ _ _ => k == .load
  | .ldw _ _ _ _ _ _ _ => k == .load
  | .ldg _ _ _ _ _ _ _ => k == .load
  | .sset _ _ _ => k == .load
  | .sclr _ => k == .load
  | .markL _ => k == .load
  | .atr _ _ _ _ _ _ => k == .load
  | .fenceL _ => k == .load
  | .acq _ _ _ _ => k == .load
  | .pref _ _ => k == .load
  | .laAdd _ _ _ => k == .load
  | .laAddi _ _ _ _ => k == .load
  | .laShli _ _ _ => k == .load
  | .laLi _ _ _ => k == .load
  | .laTake _ _ => k == .load
  | .laIx _ _ => k == .load
  | .barw _ _ _ => k == .load
  | .st _ _ _ _ => k == .store
  | .stw _ _ _ _ _ => k == .store
  | .stx _ _ _ _ _ => k == .store
  | .atn _ _ _ _ _ _ => k == .store
  | .markS _ => k == .store
  | .fenceS _ => k == .store
  | .rel _ _ _ _ => k == .store
  | .aflush => k == .store
  | .saAdd _ _ _ => k == .store
  | .saAddi _ _ _ _ => k == .store
  | .saShli _ _ _ => k == .store
  | .saLi _ _ _ => k == .store
  | .saTake _ _ => k == .store
  | .saIx _ _ => k == .store
  | .barm _ _ _ _ => k == .store
  | .barr _ _ _ _ => k == .store
  | .mpar _ _ _ => k == .matrix
  | .mparq _ => k == .matrix
  | .mma _ _ _ _ _ _ _ _ => k == .matrix
  | .mmas _ _ _ _ _ _ _ => k == .matrix
  | .mzero _ _ _ => k == .matrix
  | .mout _ _ _ _ => k == .matrix
  | .tpar _ _ _ => k == .transform
  | .fft _ _ _ _ _ _ => k == .transform
  | .leg _ _ _ _ => k == .transform
  | .xpar _ _ _ => k == .send
  | .send _ _ _ => k == .send
  | .swg _ _ _ => k == .send
  | .rtree _ _ _ => k == .send
  | .ypar _ _ _ => k == .receive
  | .recv _ _ _ => k == .receive
  | .yclr _ _ _ => k == .receive
  | .loop _ _ _ _ => false
  | .nopl => false
  | .fetchLine _ => false
  | .branchResolve _ => false
  | .fetchEndHalt _ _ => false
  | .resultLanding _ _ => false
  | .trapEntry _ => false
  | .freplyRead _ => false
  | .wdataAccess _ _ _ => false
  | .launchend _ _ => false
  | .pendingSigPerform _ _ => false
  | .eventPerform => false
  | .qpostTimeout _ => false
  | .loadDeliver _ => false
  | .storePerform _ _ => false
  | .tlbWalk _ _ => false
  | .streamElement _ _ => false
  | .anvilPrescan _ => false
  | .anvilStep _ => false
  | .commandRaise _ _ => false
  | .transformStep _ => false
  | .followOnStart _ => false
  | .podModeChange _ => false
  | .islandRatioChange _ => false
  | .watchdogExpiry _ => false
  | .traceSample _ _ => false
  | .tileResetComplete _ => false
  | .bindRecord _ _ => false
  | .groupStart _ => false
  | .tileDrainComplete _ => false
  | .launchComplete _ => false
  | .preemption _ => false
  | .saveComplete _ => false
  | .placeLaunch _ _ _ _ _ _ _ => false
  | .priorityAging _ => false
  | .faultRecordWrite _ => false
  | .faultRecordDrop _ => false
  | .ctxCreate _ => false
  | .ctxKill _ => false
  | .ctxAck _ => false
  | .ctxDestroy _ => false
  | .functionLevelReset _ => false
  | .killingComplete _ => false
  | .attnRequest _ => false
  | .reply _ _ => false
  | .notify _ _ => false
  | .claim _ _ => false
  | .queueCreate _ _ => false
  | .queuePause _ => false
  | .queueResume _ => false
  | .queueDrain _ => false
  | .queueReset _ => false
  | .drainComplete _ => false
  | .hearthPoll _ => false
  | .dispatch _ _ => false
  | .copy _ _ => false
  | .layout _ _ => false
  | .qfence _ _ => false
  | .qfenceJoinComplete _ => false
  | .signalPacket _ _ => false
  | .graph _ _ => false
  | .slotReserve _ => false
  | .copyComplete _ => false
  | .copyFault _ _ => false
  | .barrierPost _ _ _ _ => false
  | .barwPoll _ => false
  | .graphLaunchRecord _ => false
  | .snapop _ => false
  | .jumpif _ => false
  | .graphSignalRecord _ => false
  | .graphEndRecord _ => false
  | .flitDepart _ => false
  | .flitLanding _ => false
  | .treeNodeCombine _ _ => false
  | .portEnable _ => false
  | .portDisable _ => false
  | .bringupLock _ _ => false
  | .bringupAlign _ _ _ => false
  | .bringupTrain _ => false
  | .bringupVerify _ _ _ => false
  | .bringupHandshake _ _ _ => false
  | .rowSend _ => false
  | .rowReceive _ _ => false
  | .repairPacketReceive _ _ => false
  | .repairTimeout _ => false
  | .ringNearWrap _ _ _ => false
  | .ringEndOfRange _ _ _ => false
  | .laneRetrainComplete _ _ _ => false
  | .laneRetrainRetry _ _ => false
  | .swcmd _ _ => false
  | .switchCellWriteDone _ => false
  | .requestAccept _ => false
  | .requestDepart _ => false
  | .targetService _ => false
  | .replyArrive _ _ _ _ _ => false
  | .remoteTimeout _ => false
  | .waitLimitTimeout _ => false
  | .heldRequestTimeout _ => false
  | .aggElementEnter _ => false
  | .aggAgeExpiry _ _ => false
  | .aggPacketAccept _ _ => false
  | .aggStatusArrive _ _ _ _ => false
  | .aggctlWrite _ _ => false
  | .ueWorkDescriptor _ _ => false
  | .ueRmaPacket _ _ _ _ _ => false
  | .entropyStatsUpdate _ _ _ _ _ _ => false
  | .setroot _ => false
  | .shootdown _ => false
  | .frameset _ => false
  | .dirtysync _ => false
  | .migcfg _ => false
  | .migrationTrigger _ _ _ => false
  | .migrationMoveComplete _ _ => false
  | .freezeExpiry _ _ => false
  | .srangeWrite _ _ _ _ => false
  | .spoolWrite _ _ => false
  | .snapshotOperationPerform _ => false
  | .snapshotLineWrite _ _ _ _ => false
  | .rejectCompletion _ => false
  | .invalidateAckTimeout _ => false
  | .restoreLine _ _ => false
  | .hostWrite _ _ _ => false
  | .modulePowerOn _ => false
  | .islandPowerUp _ => false
  | .islandPowerDown _ => false
  | .limitLoop _ _ => false
  | .nreqWrite _ _ => false
  | .vsetWrite _ _ => false
  | .update => false
  | .attest => false
  | .logread => false
  | .registerWrite _ _ _ => false
  | .clockLaneLost _ _ => false
  | .modulePowerOff => false
  | .shadowEntryFree _ => false
  | .ueResponsePacket _ _ _ _ => false
  | .pageCommandComplete => false

end Sys2Proof
end

