-- ==== Sys2Proof/Machine/Numbers.lean ====
section
/-!
DEFINITION. The arithmetic of 03_numbers.md: element formats, exact values, rounding, special values, flags.  Every operation is
computed exactly on integers and rounded once.
-/
namespace Sys2Proof.Num

/-! ## Flags and rounding modes -/

/-- Exception flags in FPSR order: NV DZ OF UF NX in bits 4-0 (R65). -/
abbrev Flags := BitVec 5

def fNV : Flags := 16
def fDZ : Flags := 8
def fOF : Flags := 4
def fUF : Flags := 2
def fNX : Flags := 1

/-- Rounding modes with the codes of Table 3-5. -/
inductive Rm where
  | rne | rtz | rdn | rup
  deriving DecidableEq, Repr

def Rm.ofBits (b : BitVec 2) : Rm :=
  match b.toNat with
  | 0 => .rne | 1 => .rtz | 2 => .rdn | _ => .rup

/-! ## Formats (R51) -/

/-- A floating-point element format of Table 3-1. -/
structure Fmt where
  ebits : Nat
  fbits : Nat
  bias  : Nat
  /-- infinities at the all-ones exponent with zero fraction, NaNs with nonzero fraction -/
  ieee  : Bool
  /-- the canonical NaN; 0 where the format has none -/
  nan   : Nat
  /-- the largest finite magnitude's encoding -/
  maxFinite : Nat
  deriving DecidableEq, Repr

def fp64 : Fmt := { ebits := 11, fbits := 52, bias := 1023, ieee := true, nan := 0x7FF8000000000000, maxFinite := 0x7FEFFFFFFFFFFFFF }
def fp32 : Fmt := { ebits := 8, fbits := 23, bias := 127, ieee := true, nan := 0x7FC00000, maxFinite := 0x7F7FFFFF }
def fp16 : Fmt := { ebits := 5, fbits := 10, bias := 15, ieee := true, nan := 0x7E00, maxFinite := 0x7BFF }
def bf16 : Fmt := { ebits := 8, fbits := 7, bias := 127, ieee := true, nan := 0x7FC0, maxFinite := 0x7F7F }
def e4m3 : Fmt := { ebits := 4, fbits := 3, bias := 7, ieee := false, nan := 0x7F, maxFinite := 0x7E }
def e5m2 : Fmt := { ebits := 5, fbits := 2, bias := 15, ieee := true, nan := 0x7E, maxFinite := 0x7B }
def e2m1 : Fmt := { ebits := 2, fbits := 1, bias := 1, ieee := false, nan := 0, maxFinite := 7 }

/-- The width of a format in bits. -/
def Fmt.width (f : Fmt) : Nat := f.ebits + f.fbits + 1

/-- The exponent of the smallest normal, `1 - bias`. -/
def Fmt.emin (f : Fmt) : Int := 1 - (f.bias : Int)

/-- An exact value: NaN, a signed infinity, a signed zero, or `±m × 2^e` with `m` nonzero. -/
inductive Val where
  | nan
  | inf (neg : Bool)
  | zero (neg : Bool)
  | fin (neg : Bool) (m : Nat) (e : Int)
  deriving DecidableEq, Repr

/-- The value of an encoding (R51). -/
def decode (f : Fmt) (x : Nat) : Val :=
  let frac := x % 2 ^ f.fbits
  let ex := x / 2 ^ f.fbits % 2 ^ f.ebits
  let neg := x / 2 ^ (f.fbits + f.ebits) % 2 == 1
  if f.ieee && ex == 2 ^ f.ebits - 1 then (if frac == 0 then .inf neg else .nan)
  else if !f.ieee && f.nan != 0 && x % 2 ^ (f.fbits + f.ebits) == f.nan then .nan
  else if ex == 0 then (if frac == 0 then .zero neg else .fin neg frac (f.emin - f.fbits))
  else .fin neg (2 ^ f.fbits + frac) ((ex : Int) - f.bias - f.fbits)

/-- The sign bit in place. -/
def signBit (f : Fmt) (neg : Bool) : Nat := if neg then 2 ^ (f.ebits + f.fbits) else 0

/-- The sign of a value; NaN counts as positive. -/
def Val.neg? : Val → Bool
  | .nan => false
  | .inf n => n
  | .zero n => n
  | .fin n _ _ => n

def Val.isNaN : Val → Bool
  | .nan => true
  | _ => false

def Val.isZero : Val → Bool
  | .zero _ => true
  | _ => false

/-- The value with its sign flipped. -/
def Val.flip : Val → Val
  | .nan => .nan
  | .inf n => .inf !n
  | .zero n => .zero !n
  | .fin n m e => .fin (!n) m e

/-- The magnitude. -/
def Val.abs : Val → Val
  | .nan => .nan
  | .inf _ => .inf false
  | .zero _ => .zero false
  | .fin _ m e => .fin false m e

/-! ## Rounding (R57, R58, R59) -/

/-- Round the magnitude `m × 2^e` (plus an amount strictly between 0 and `2^e` when `sticky`) to a multiple of `2^q`:
the number of quanta and whether the rounding was inexact. -/
def roundAt (rm : Rm) (neg : Bool) (m : Nat) (e q : Int) (sticky : Bool) : Nat × Bool :=
  if q ≤ e then
    let n := m * 2 ^ (e - q).toNat
    let up := sticky && (match rm with | .rup => !neg | .rdn => neg | _ => false)
    (if up then n + 1 else n, sticky)
  else
    let s := (q - e).toNat
    let n := m / 2 ^ s
    let r := m % 2 ^ s
    let half := 2 ^ (s - 1)
    let inexact := r != 0 || sticky
    let up := match rm with
      | .rne => half < r || (r == half && (sticky || n % 2 == 1))
      | .rtz => false
      | .rdn => inexact && neg
      | .rup => inexact && !neg
    (if up then n + 1 else n, inexact)

/-- The delivered bits of an overflow, Table 3-6 (non-saturating) or R59 (saturating). -/
def overflowBits (f : Fmt) (rm : Rm) (sat neg : Bool) : Nat :=
  let s := signBit f neg
  let big := s + f.maxFinite
  if sat || f.nan == 0 then big
  else if f.ieee then
    let inf := s + (2 ^ f.ebits - 1) * 2 ^ f.fbits
    match rm with
    | .rne => inf
    | .rtz => big
    | .rdn => if neg then inf else big
    | .rup => if neg then big else inf
  else
    let nan := s + f.nan
    match rm with
    | .rne => nan
    | .rtz => big
    | .rdn => if neg then nan else big
    | .rup => if neg then big else nan

/-- Round an exact nonzero magnitude (with a sticky remainder) into a format: R58 with tininess detected after rounding. -/
def roundMag (f : Fmt) (rm : Rm) (sat neg : Bool) (m : Nat) (e : Int) (sticky : Bool) : Nat × Flags :=
  let lead := e + Nat.log2 m
  let (n, inx) := roundAt rm neg m e (lead - f.fbits) sticky
  -- the magnitude after rounding to precision with an unbounded exponent is n × 2^(lead - fbits)
  let carried := n == 2 ^ (f.fbits + 1)
  let lead' := if carried then lead + 1 else lead
  let n' := if carried then 2 ^ f.fbits else n
  if lead < f.emin then
    let (k, inxs) := roundAt rm neg m e (f.emin - f.fbits) sticky
    let tiny := lead' < f.emin
    (signBit f neg + k, if inxs then (if tiny then fUF ||| fNX else fNX) else 0)
  else
    let bits := (lead' + f.bias).toNat * 2 ^ f.fbits + (n' - 2 ^ f.fbits)
    if f.maxFinite < bits then (overflowBits f rm sat neg, fOF ||| fNX)
    else (signBit f neg + bits, if inx then fNX else 0)

/-- Deliver an exact value in a format (R58, R59, R61). -/
def round (f : Fmt) (rm : Rm) (sat : Bool) (v : Val) : Nat × Flags :=
  match v with
  | .nan => if f.nan == 0 then (0, fNV) else (f.nan, 0)
  | .inf neg =>
    if f.ieee && !sat then (signBit f neg + (2 ^ f.ebits - 1) * 2 ^ f.fbits, 0)
    else (overflowBits f rm sat neg, fOF)
  | .zero neg => (signBit f neg, 0)
  | .fin neg m e => roundMag f rm sat neg m e false

/-! ## Exact arithmetic -/

/-- A dyadic number `i × 2^e`. -/
structure Dy where
  i : Int
  e : Int
  deriving DecidableEq, Repr

def Dy.add (a b : Dy) : Dy :=
  let e := min a.e b.e
  { i := a.i * 2 ^ (a.e - e).toNat + b.i * 2 ^ (b.e - e).toNat, e := e }

/-- The dyadic number of a finite value; zero for the others. -/
def Val.toDy : Val → Dy
  | .fin neg m e => { i := if neg then -(m : Int) else m, e := e }
  | _ => { i := 0, e := 0 }

/-- The value of a dyadic number; `z` is the sign an exact zero takes. -/
def Dy.toVal (d : Dy) (z : Bool) : Val :=
  if d.i == 0 then .zero z else .fin (d.i < 0) d.i.natAbs d.e

/-- The product with the NV rule 0 × ∞ (R63): NaN operands deliver NaN. -/
def mul (a b : Val) : Val × Flags :=
  let s := a.neg? != b.neg?
  match a, b with
  | .inf _, .zero _ => (.nan, fNV)
  | .zero _, .inf _ => (.nan, fNV)
  | .nan, _ => (.nan, 0)
  | _, .nan => (.nan, 0)
  | .inf _, _ => (.inf s, 0)
  | _, .inf _ => (.inf s, 0)
  | .zero _, _ => (.zero s, 0)
  | _, .zero _ => (.zero s, 0)
  | .fin _ m e, .fin _ m' e' => (.fin s (m * m') (e + e'), 0)

/-- The sum; an exact zero of x + (-x) is negative in RDN only (R58). -/
def add (rm : Rm) (a b : Val) : Val × Flags :=
  match a, b with
  | .nan, _ => (.nan, 0)
  | _, .nan => (.nan, 0)
  | .inf s, .inf t => if s == t then (.inf s, 0) else (.nan, fNV)
  | .inf s, _ => (.inf s, 0)
  | _, .inf t => (.inf t, 0)
  | .zero s, .zero t => (.zero (if s == t then s else rm == .rdn), 0)
  | .zero _, y => (y, 0)
  | x, .zero _ => (x, 0)
  | x, y => ((x.toDy.add y.toDy).toVal (rm == .rdn), 0)

/-- x × y + z, exact; 0 × ∞ sets NV even with a NaN addend (R63). -/
def fma (rm : Rm) (x y z : Val) : Val × Flags :=
  let (p, f) := mul x y
  let (r, g) := add rm p z
  (if f != 0 then .nan else r, f ||| g)

/-- The exact sum of a list of values as one IEEE sum: infinities combine, ∞ − ∞ sets NV, and an exact zero is −0 when every term is
−0 and +0 otherwise (R68, R230).  A NaN comes before the infinities, and sets no NV beside them (DESIGN CHOICE, log entry 97). -/
def sum (vs : List Val) : Val × Flags :=
  if vs.any Val.isNaN then (.nan, 0)
  else
    let pos := vs.any (fun v => match v with | .inf false => true | _ => false)
    let neg := vs.any (fun v => match v with | .inf true => true | _ => false)
    if pos && neg then (.nan, fNV)
    else if pos then (.inf false, 0)
    else if neg then (.inf true, 0)
    else
      let d := vs.foldl (fun (acc : Dy) v => acc.add v.toDy) ({ i := 0, e := 0 } : Dy)
      (d.toVal (!vs.isEmpty && vs.all (fun v => v == .zero true)), 0)

/-- The order of two magnitudes `m × 2^e`. -/
def cmpMag (m : Nat) (e : Int) (m' : Nat) (e' : Int) : Ordering :=
  let b := min e e'
  compare (m * 2 ^ (e - b).toNat) (m' * 2 ^ (e' - b).toNat)

/-- IEEE comparison; none when either is NaN; −0 equals +0. -/
def cmp (a b : Val) : Option Ordering :=
  match a, b with
  | .nan, _ => none
  | _, .nan => none
  | .inf s, .inf t => some (if s == t then .eq else if s then .lt else .gt)
  | .inf s, _ => some (if s then .lt else .gt)
  | _, .inf t => some (if t then .gt else .lt)
  | x, y =>
    let d := x.toDy.add { y.toDy with i := -y.toDy.i }
    some (compare d.i 0)

/-- minimumNumber (R62): a NaN operand yields the other, −0 orders below +0. -/
def minNum (a b : Val) : Val :=
  match cmp a b with
  | none => if a.isNaN then b else a
  | some .lt => a
  | some .gt => b
  | some .eq => if a.neg? then a else b

/-- maximumNumber (R62). -/
def maxNum (a b : Val) : Val :=
  match cmp a b with
  | none => if a.isNaN then b else a
  | some .gt => a
  | some .lt => b
  | some .eq => if a.neg? then b else a

/-! ## Division and square root -/

/-- A quotient or root as a rounded result: the bits and flags for a given destination. -/
def divRound (f : Fmt) (rm : Rm) (sat : Bool) (a b : Val) : Nat × Flags :=
  let s := a.neg? != b.neg?
  match a, b with
  | .nan, _ => round f rm sat .nan
  | _, .nan => round f rm sat .nan
  | .inf _, .inf _ => ((round f rm sat .nan).1, fNV)
  | .zero _, .zero _ => ((round f rm sat .nan).1, fNV)
  | .inf _, _ => round f rm sat (.inf s)
  | .zero _, _ => round f rm sat (.zero s)
  | _, .inf _ => round f rm sat (.zero s)
  | .fin _ _ _, .zero _ =>
    let (r, g) := round f rm sat (.inf s)
    (r, g ||| fDZ)
  | .fin _ m e, .fin _ m' e' =>
    let k := f.fbits + 4 + Nat.log2 m'
    let n := m * 2 ^ k
    roundMag f rm sat s (n / m') (e - e' - k) (n % m' != 0)

/-- The integer square root, bit by bit from bit `k` down. -/
def isqrtFrom (n : Nat) : Nat → Nat → Nat
  | 0, r => r
  | k + 1, r =>
    let t := r + 2 ^ k
    isqrtFrom n k (if t * t ≤ n then t else r)

/-- The integer square root. -/
def isqrt (n : Nat) : Nat := isqrtFrom n (Nat.log2 n / 2 + 1) 0

/-- √x rounded (R63: below −0 sets NV). -/
def sqrtRound (f : Fmt) (rm : Rm) (a : Val) : Nat × Flags :=
  match a with
  | .nan => round f rm false .nan
  | .zero s => round f rm false (.zero s)
  | .inf false => round f rm false (.inf false)
  | .inf true => (f.nan, fNV)
  | .fin true _ _ => (f.nan, fNV)
  | .fin false m e =>
    let (m, e) := if e % 2 == 0 then (m, e) else (m * 2, e - 1)
    let k := f.fbits + 4
    let n := m * 2 ^ (2 * k)
    let r := isqrt n
    roundMag f rm false false r (e / 2 - k) (r * r != n)

/-! ## Integer conversions (R60) -/

/-- Round a value to an integer: the integer, whether it was inexact; none for NaN and infinities. -/
def toInt (rm : Rm) : Val → Option (Int × Bool)
  | .zero _ => some (0, false)
  | .fin neg m e =>
    let (n, inx) := roundAt rm neg m e 0 false
    some (if neg then -(n : Int) else n, inx)
  | _ => none

/-- Convert a value to an integer in `[lo, hi]` with clamping and NV (R60). -/
def toIntClamp (rm : Rm) (lo hi : Int) (v : Val) : Int × Flags :=
  match v with
  | .nan => (0, fNV)
  | .inf neg => (if neg then lo else hi, fNV)
  | v =>
    match toInt rm v with
    | none => (0, fNV)
    | some (i, inx) =>
      if i < lo then (lo, fNV) else if hi < i then (hi, fNV) else (i, if inx then fNX else 0)

/-- The exact value of an integer. -/
def ofInt (i : Int) : Val := if i == 0 then .zero false else .fin (i < 0) i.natAbs 0

/-! ## Flush to zero (R64) -/

/-- A subnormal input reads as a zero of its sign. -/
def flushIn (f : Fmt) (x : Nat) : Nat :=
  if x / 2 ^ f.fbits % 2 ^ f.ebits == 0 then x / 2 ^ (f.ebits + f.fbits) % 2 * 2 ^ (f.ebits + f.fbits) else x

/-- A result that is subnormal after rounding becomes a zero of its sign, with UF and NX. -/
def flushOut (f : Fmt) (r : Nat × Flags) : Nat × Flags :=
  if r.1 / 2 ^ f.fbits % 2 ^ f.ebits == 0 && r.1 % 2 ^ f.fbits != 0 then (flushIn f r.1, r.2 ||| fUF ||| fNX) else r

/-! ## Block formats and scales (R53-R56) -/

/-- The value of an E8M0 scale: NaN for 0xFF (R54). -/
def scaleE8M0 (b : Nat) : Val := if b % 256 == 255 then .nan else .fin false 1 ((b % 256 : Nat) - 127)

/-- The value of an S20 scale word (R55). -/
def scaleS20 (w : Nat) : Val :=
  let e := w / 4096 % 256
  let f := w % 4096
  if e == 255 then .nan else if e == 0 then .zero false else .fin false (4096 + f) ((e : Int) - 127 - 12)

/-- A block element decoded (R56): a zero scale makes it +0 even when the element is NaN. -/
def blockValue (scale elem : Val) : Val :=
  match scale with
  | .nan => .nan
  | .zero _ => .zero false
  | s => (mul s elem).1

/-! ## Correctly rounded functions (R149): fixed-point evaluation on integers -/

/-- The number of fraction bits of the fixed-point evaluations. -/
def prec : Nat := 360

/-- The Taylor sum `Σ x^k / k!` from term `k`, in fixed point; `t` is the current term. -/
def expTerms (x : Nat) : Nat → Nat → Nat → Nat → Nat
  | 0, _, _, acc => acc
  | fuel + 1, k, t, acc =>
    let t' := t * x / 2 ^ prec / k
    expTerms x fuel (k + 1) t' (acc + t')

/-- `exp x - 1` for a fixed-point `x` in [0, 1]. -/
def expm1Fix (x : Nat) : Nat := expTerms x 90 1 (2 ^ prec) 0

/-- The odd series `Σ z^(2k+1) / (2k+1)`. -/
def atanhTerms (z2 : Nat) : Nat → Nat → Nat → Nat → Nat
  | 0, _, _, acc => acc
  | fuel + 1, k, t, acc => atanhTerms z2 fuel (k + 2) (t * z2 / 2 ^ prec) (acc + t / k)

/-- `ln (a / b)` in fixed point for `1 ≤ a / b ≤ 2`. -/
def lnFix (a b : Nat) : Nat :=
  let z := (a - b) * 2 ^ prec / (a + b)
  2 * atanhTerms (z * z / 2 ^ prec) 130 1 z 0

/-- `ln 2` in fixed point. -/
def ln2Fix : Nat := lnFix 2 1

/-- `Σ (-1)^k z^(2k+1) / (2k+1)`, for arctangents of small rationals. -/
def atanTerms (z2 : Nat) : Nat → Nat → Int → Nat → Int → Int
  | 0, _, _, _, acc => acc
  | fuel + 1, k, sg, t, acc => atanTerms z2 fuel (k + 2) (-sg) (t * z2 / 2 ^ prec) (acc + sg * (t / k : Nat))

/-- π in fixed point (16 atan 1/5 − 4 atan 1/239). -/
def piFix : Nat :=
  let g := prec
  let at5 := atanTerms (2 ^ g / 25) 170 1 1 (2 ^ g / 5) 0
  let at239 := atanTerms (2 ^ g / 57121) 60 1 1 (2 ^ g / 239) 0
  (16 * at5 - 4 * at239).toNat

/-- The alternating Taylor terms of sine and cosine from term `k`. -/
def trigTerms (x2 : Nat) : Nat → Nat → Int → Nat → Int → Int
  | 0, _, _, _, acc => acc
  | fuel + 1, k, sg, t, acc =>
    let t' := t * x2 / 2 ^ prec / (k * (k + 1))
    trigTerms x2 fuel (k + 2) (-sg) t' (acc - sg * (t' : Nat))

/-- sin of a fixed-point angle in [0, π/2]. -/
def sinFix (x : Nat) : Nat := (trigTerms (x * x / 2 ^ prec) 60 2 1 x x).toNat

/-- cos of a fixed-point angle in [0, π/2]. -/
def cosFix (x : Nat) : Nat := (trigTerms (x * x / 2 ^ prec) 60 1 1 (2 ^ prec) (2 ^ prec : Nat)).toNat

/-- Round a positive fixed-point approximation of an irrational value. -/
def roundFix (f : Fmt) (neg : Bool) (x : Nat) (e : Int) : Nat × Flags :=
  if x == 0 then (signBit f neg, fUF ||| fNX) else roundMag f .rne false neg x (e - prec) true

/-- 1/√x, RNE. -/
def rsqrtRound (f : Fmt) (a : Val) : Nat × Flags :=
  match a with
  | .nan => (f.nan, 0)
  | .zero s => ((round f .rne false (.inf s)).1, fDZ)
  | .inf false => (0, 0)
  | .inf true => (f.nan, fNV)
  | .fin true _ _ => (f.nan, fNV)
  | .fin false m e =>
    let (m, e) := if e % 2 == 0 then (m, e) else (m * 2, e - 1)
    let k := f.fbits + 4 + Nat.log2 m
    let n := 2 ^ (2 * k) / m
    let r := isqrt n
    roundMag f .rne false false r (-(e / 2) - k) (r * r * m != 2 ^ (2 * k))

/-- A dyadic magnitude as a fixed-point number, truncated. -/
def toFix (m : Nat) (e : Int) : Nat :=
  let s := e + prec
  if 0 ≤ s then m * 2 ^ s.toNat else m / 2 ^ (-s).toNat

/-- 2^x, RNE. -/
def exp2Round (f : Fmt) (a : Val) : Nat × Flags :=
  match a with
  | .nan => (f.nan, 0)
  | .inf neg => if neg then (0, 0) else round f .rne false (.inf false)
  | .zero _ => round f .rne false (.fin false 1 0)
  | .fin neg m e =>
    if 40 ≤ e + Nat.log2 m then
      (if neg then roundMag f .rne false false 1 (-100000) true else roundMag f .rne false false 1 100000 false)
    else
      let d : Dy := { i := if neg then -(m : Int) else m, e := e }
      let (n, fr) : Int × Nat :=
        if 0 ≤ e then (d.i * 2 ^ e.toNat, 0)
        else (d.i / 2 ^ (-e).toNat, (d.i % 2 ^ (-e).toNat).toNat)
      if fr == 0 then round f .rne false (.fin false 1 n)
      else
        let x := toFix fr e
        let p := 2 ^ prec + expm1Fix (x * ln2Fix / 2 ^ prec)
        roundMag f .rne false false p (n - prec) true

/-- log2 x, RNE. -/
def log2Round (f : Fmt) (a : Val) : Nat × Flags :=
  match a with
  | .nan => (f.nan, 0)
  | .zero _ => ((round f .rne false (.inf true)).1, fDZ)
  | .inf false => round f .rne false (.inf false)
  | .inf true => (f.nan, fNV)
  | .fin true _ _ => (f.nan, fNV)
  | .fin false m e =>
    let l := Nat.log2 m
    let ex : Int := e + l
    if m == 2 ^ l then round f .rne false (ofInt ex)
    else
      let frac := lnFix m (2 ^ l) * 2 ^ prec / ln2Fix
      let t : Int := ex * 2 ^ prec + frac
      if 0 ≤ t then roundFix f false t.toNat 0 else roundFix f true (-t).toNat 0

/-- sin(π a/b) or cos(π a/b) with `0 ≤ a/b < 2`, as a signed fixed-point number; the quadrants are reduced exactly. -/
def sinPiFix (a b : Nat) : Int :=
  let half := 2 * a / b
  let r := 2 * a % b          -- a/b = half/2 + r/(2b)
  let x := piFix * r / (2 * b)
  match half % 4 with
  | 0 => (sinFix x : Nat)
  | 1 => (cosFix x : Nat)
  | 2 => -(sinFix x : Int)
  | _ => -(cosFix x : Int)

def cosPiFix (a b : Nat) : Int :=
  let half := 2 * a / b
  let r := 2 * a % b
  let x := piFix * r / (2 * b)
  match half % 4 with
  | 0 => (cosFix x : Nat)
  | 1 => -(sinFix x : Int)
  | 2 => -(cosFix x : Int)
  | _ => (sinFix x : Nat)

/-- Round a signed fixed-point approximation, RNE. -/
def roundSigned (f : Fmt) (t : Int) : Nat × Flags :=
  if 0 ≤ t then roundFix f false t.toNat 0 else roundFix f true (-t).toNat 0

/-- x mod 2 of a dyadic magnitude as a fraction `a / 2^k`. -/
def mod2 (m : Nat) (e : Int) : Nat × Nat :=
  if 0 ≤ e then (m * 2 ^ e.toNat % 2, 1) else (m % 2 ^ ((-e).toNat + 1), 2 ^ (-e).toNat)

/-- sin(πx), RNE. -/
def sinPiRound (f : Fmt) (a : Val) : Nat × Flags :=
  match a with
  | .nan => (f.nan, 0)
  | .inf _ => (f.nan, fNV)
  | .zero s => round f .rne false (.zero s)
  | .fin neg m e =>
    let (p, q) := mod2 m e
    if p % q == 0 then round f .rne false (.zero neg)
    else if 2 * p % q == 0 then round f .rne false (.fin ((p / q % 2 == 1) != neg) 1 0)
    else
      let t := sinPiFix p q
      roundSigned f (if neg then -t else t)

/-- cos(πx), RNE. -/
def cosPiRound (f : Fmt) (a : Val) : Nat × Flags :=
  match a with
  | .nan => (f.nan, 0)
  | .inf _ => (f.nan, fNV)
  | .zero _ => round f .rne false (.fin false 1 0)
  | .fin _ m e =>
    let (p, q) := mod2 m e
    if p % q == 0 then round f .rne false (.fin (p / q % 2 == 1) 1 0)
    else if 2 * p % q == 0 then round f .rne false (.zero false)
    else roundSigned f (cosPiFix p q)

/-- tanh x, RNE. -/
def tanhRound (f : Fmt) (a : Val) : Nat × Flags :=
  match a with
  | .nan => (f.nan, 0)
  | .inf s => round f .rne false (.fin s 1 0)
  | .zero s => round f .rne false (.zero s)
  | .fin neg m e =>
    let lead := e + Nat.log2 m
    if lead < -40 then roundMag f .rne false neg (m * 2 ^ 40 - 1) (e - 40) true
    else if 6 ≤ lead then roundMag f .rne false neg (2 ^ 60 - 1) (-60) true
    else
      -- y = 2x; e^y = 2^n × e^r with r in [0, ln 2)
      let y := 2 * toFix m e
      let n := y / ln2Fix
      let ex := (2 ^ prec + expm1Fix (y % ln2Fix)) * 2 ^ n
      roundFix f neg ((ex - 2 ^ prec) * 2 ^ prec / (ex + 2 ^ prec)) 0

/-- The twiddle cos 2πe/n rounded to the working precision (R70, R230); exact at the multiples of a quarter turn. -/
def cosTurn (f : Fmt) (e n : Nat) : Val :=
  let e := e % n
  if 4 * e % n == 0 then
    match 4 * e / n with
    | 0 => .fin false 1 0
    | 2 => .fin true 1 0
    | _ => .zero false
  else decode f (roundSigned f (cosPiFix (2 * e) n)).1

/-- The twiddle sin 2πe/n rounded to the working precision. -/
def sinTurn (f : Fmt) (e n : Nat) : Val :=
  let e := e % n
  if 4 * e % n == 0 then
    match 4 * e / n with
    | 1 => .fin false 1 0
    | 3 => .fin true 1 0
    | _ => .zero false
  else decode f (roundSigned f (sinPiFix (2 * e) n)).1

end Sys2Proof.Num
end

