-- ==== Sys2Proof/Machine/State.lean ====
section
/-!
DEFINITION. The state of the machine: every piece of state that the specification names, as plain data, and the reset state.
Each structure cites the rule that gives its parts; INVENTORY.md lists them one by one.
-/
namespace Sys2Proof.Machine
open Sys2Proof

/-! ## Memory -/

/-- Memory as (address, byte) cells in one canonical form: addresses strictly rising, no zero byte listed; an unlisted address
reads zero (DESIGN CHOICE, log entry 2). -/
abbrev Memory := List Host.Cell

/-- The cells are at addresses from `lo` up, strictly rising, and none holds zero. -/
def Memory.wfFrom : Nat → Memory → Bool
  | _, [] => true
  | lo, (a, b) :: rest => decide (lo ≤ a) && b != 0 && Memory.wfFrom (a + 1) rest

/-- The canonical form of a memory. -/
def Memory.wf (m : Memory) : Bool := Memory.wfFrom 0 m

/-! ## Stops -/

/-- Faults that stop the MODEL.  The machine's own faults (11_context.md Table 11-5) are traps that a step takes as a next state and
are no members of this type. -/
inductive Fault where
  /-- Raised by no meaning: the specification gives every instruction and event of the table an effect in every state ("any event
  not listed for a state leaves that state unchanged").  Safe: it is never answered. -/
  | stuck
  deriving DecidableEq, Repr

/-- Refusals of the model. -/
inductive Refusal where
  /-- An instruction whose meaning is not modelled.  Raised by the dispatch alone.  Safe: nothing can be proved of it. -/
  | notModelled (mnemonic : String)
  deriving DecidableEq, Repr

/-! ## The strands of a tile (02_tile.md R22-R27) -/

/-- What an entry of an instruction queue stands for. -/
inductive QKind where
  /-- an instruction word -/
  | insn
  /-- the place of an ILLEGAL-LINE fault in control-strand order, with the address FADDR reports (R99, R100, R79) -/
  | badLine (faddr : W64)
  /-- the place of an ILLEGAL-EXT fault without a target (R76) -/
  | badExt
  deriving DecidableEq, Repr

/-- An entry of an instruction queue: a word with the extensions that travel with it (R73), the PC of its lane, and the loop
indices as they stood at its fetch (R82). -/
structure QEntry where
  kind : QKind
  word : W32
  exts : List W32
  /-- an extension of this target stands behind an empty or directive lane (R76) -/
  misplaced : Bool
  pc : W64
  ix : Vector (BitVec 16) 6
  deriving DecidableEq, Repr

/-- The fault window of a strand, class 10 of Table 11-6. -/
structure FaultWin where
  cause : W64
  fpc : W64
  faddr : W64
  deriving DecidableEq, Repr

/-- The parts that every strand has. -/
structure StrandState where
  queue : List QEntry
  stopped : Bool
  halted : Bool
  /-- issue count (R23) -/
  count : W64
  /-- the strand has used this TC: it issued, or an empty issue cycle was counted -/
  used : Bool
  /-- where a stopped strand resumes (0x110 + k), or the PC of the halt of a halted one -/
  pc : W64
  fault : FaultWin
  /-- a fault has been raised and not yet taken as CAUSE nor moved to FPEND; the TC it arose in -/
  reached : Option W64
  deriving DecidableEq, Repr

/-- A control latch (R39). -/
inductive Latch where
  | m (i : BitVec 2)
  | d (i : BitVec 2)
  | l (i : BitVec 2)
  deriving DecidableEq, Repr

/-- A control landing record (R27): the result becomes visible when `rem` reaches zero.  A handler may leave one that is not valid
(R267): nothing lands from it. -/
structure Landing where
  rem : Nat
  dest : Latch
  value : W64
  flags : BitVec 5
  valid : Bool := true
  deriving DecidableEq, Repr

/-- A latch bank (R40): the twelve latches and the landing records. -/
structure Bank where
  m : Vector W64 4
  d : Vector W64 4
  l : Vector W64 4
  recs : List Landing
  deriving DecidableEq, Repr

/-- General and predicate registers of the control strand in one mode; s0 and p0 are hard-wired (R108). -/
structure Regs where
  s : Vector W64 32
  p : Vector Bool 8
  deriving DecidableEq, Repr

/-- An instruction that has issued and holds the control strand until another agent answers. -/
inductive CtlWait where
  /-- evtst: the Hearth returns the bit to s[d] (R126) -/
  | event (d : BitVec 5)
  /-- qpost: the claim and write of the packet read at issue into queue `q`, since FC `since` (R128, R286) -/
  | qpost (d : BitVec 5) (q : Nat) (pkt : BitVec 512) (claimed : Option W64) (since : W64)
  /-- a snapshot form waits for the hub's sequencer (R379); a fault puts its entry back at the head of the queue, and the landing records and
  the FPSR as they were before its issue cycle -/
  | snapshot (d : BitVec 5) (entry : QEntry) (bank : Bank) (fpsr : BitVec 8)
  deriving DecidableEq, Repr

/-- State of the control strand beyond the common parts (Table 5-1, R256). -/
structure Control where
  user : Regs
  sup : Regs
  ubank : Bank
  sbank : Bank
  spill : Vector W64 512
  sspill : Vector W64 64
  /-- .spill of the image (R41) -/
  spillN : Nat
  /-- supervisor mode: queue and last PC of the handler -/
  squeue : List QEntry
  spc : W64
  /-- an issued instruction that another agent completes; the supervisor's stands apart from the user's -/
  wait : Option CtlWait
  swait : Option CtlWait
  deriving DecidableEq, Repr

/-! ## FIFOs (R42, R43) -/

/-- An entry of a FIFO: reserved until `ready`; a ready entry can be popped in TCs after `born`; `tag` says which instruction or
stream element fills it. -/
structure Ent (α : Type) where
  val : α
  ready : Bool
  born : W64
  tag : W64
  deriving DecidableEq, Repr

/-- A FIFO of 64-bit entries, from the head. -/
abbrev Fifo := List (Ent W64)

/-- A FIFO of 512-byte vectors, from the head. -/
abbrev VFifo := List (Ent Vec)

/-- The FIFOs of Table 2-8. -/
structure Fifos where
  k : Vector Fifo 5
  j : Vector Fifo 2
  e : Vector Fifo 2
  qv : Vector VFifo 4
  /-- 64-bit words already popped from the head vector of q0-q3 by the control strand -/
  qpos : Vector Nat 4
  qs : Vector Fifo 4
  ov : Vector VFifo 4
  os : Vector Fifo 2
  x : Vector VFifo 4
  deriving DecidableEq, Repr

/-! ## Sync objects (R46) -/

/-- A slot ring (15_barrier.md R344). -/
structure Ring where
  count : Nat
  slotsz : Nat
  base : Nat
  rp : Nat
  fill : Nat
  res : Nat
  /-- reservations, oldest first: the copy that holds each and whether its bytes are performed (R345) -/
  order : List (Nat × Bool)
  deriving DecidableEq, Repr

/-- An arrival block (R45, R327): registered when `expect` is nonzero. -/
structure ArrBlock where
  registered : Bool
  base : Nat
  len : Nat
  expect : Nat
  tag : BitVec 16
  deriving DecidableEq, Repr

/-- One plane of a codebook bank (R163): 256 entries of 128 bits, KIND and the loaded COUNT. -/
structure Plane where
  entries : Vector (BitVec 128) 256
  kind : BitVec 6
  count : Nat
  /-- Anvil commands in flight that have captured it (HELD, R169) -/
  captures : Nat
  deriving DecidableEq, Repr

/-- A codebook bank. -/
structure CodeBank where
  front : Plane
  back : Plane
  /-- how often the roles have been exchanged, modulo 2, and the TC of the last exchange (R165) -/
  swapped : Bool
  swappedAt : Option W64
  deriving DecidableEq, Repr

structure Sync where
  sem : Vector (BitVec 16) 64
  flag : Vector (BitVec 16) 16
  ring : Vector (Option Ring) 16
  block : Vector ArrBlock 16
  bank : Vector CodeBank 4
  deriving DecidableEq, Repr

/-! ## Fetch (04_lines.md R74-R84) -/

/-- A hardware loop level. -/
structure LoopLevel where
  active : Bool
  ix : BitVec 16
  /-- iterations of the current run -/
  count : Nat
  /-- first body line and length in lines -/
  first : Nat
  length : Nat
  deriving DecidableEq, Repr

/-- A loop-table entry (R106). -/
structure LoopEntry where
  kind : BitVec 2
  count : BitVec 16
  deriving DecidableEq, Repr

/-- The branch that fetch is held for (R78). -/
structure PendingBranch where
  line : W64
  /-- lines that a LOOP of count zero on this line passes over -/
  skip : Nat
  /-- the TC in which it issued, and its target when taken -/
  issued : Option (W64 × Option W64)
  deriving DecidableEq, Repr

/-- The fetch unit in user mode. -/
structure Fetch where
  /-- the code store: the image's lines in order (R74) -/
  code : List (BitVec 256)
  addr : W64
  /-- fetch has ended after the LAST line (R74) -/
  ended : Bool
  /-- fetch has stopped at an ILLEGAL-LINE (R100) -/
  stopped : Bool
  branch : Option PendingBranch
  /-- fetch continues in a TC no earlier than this one -/
  notBefore : W64
  level : Vector LoopLevel 6
  table : List LoopEntry
  deriving DecidableEq, Repr

/-- The fetch unit in supervisor mode (R256): no directives, so no loops. -/
structure SupFetch where
  addr : W64
  ended : Bool
  stopped : Bool
  branch : Option PendingBranch
  notBefore : W64
  deriving DecidableEq, Repr

/-! ## System registers (11_context.md Table 11-3) -/

structure Sys where
  fpsr : Vector (BitVec 8) 8
  cause : W64
  fstrand : BitVec 3
  fpc : W64
  faddr : W64
  epc : W64
  fetchpc : W64
  fpend : BitVec 8
  /-- the driver's reply to the tile's last fault record, once arrived (R271) -/
  reply : Option W64
  /-- SEQ of the tile's last fault record, and the TILE it carries (R273) -/
  lastSeq : Option (BitVec 32)
  lastTile : BitVec 10 := 0
  wsel : W64
  tracectl : W64
  tracebase : W64
  tracewp : W64
  tracerp : W64
  saverec : W64
  ltile : W64
  gshape : W64
  deriving DecidableEq, Repr

/-- A trace record that waits to be written, or was dropped (R275). -/
structure Trace where
  waiting : List (W64 × W64)
  dropped : W64
  /-- TCs since the last PC sample -/
  since : Nat
  deriving DecidableEq, Repr

/-! ## The vector strand (06_vector.md) -/

/-- What becomes visible when a vector landing record runs out. -/
inductive VAct where
  /-- lanes `en` of a register-space row -/
  | row (r : Nat) (en : BitVec 128) (v : Vec)
  /-- all of a register-space row: what a vtapr issued at count `n` read on a ring lane (R151, R152) -/
  | tap (r : Nat) (lane : BitVec 4) (n : W64) (v : Vec)
  /-- bits `en` of mk[i] -/
  | mask (i : BitVec 3) (en v : BitVec 128)
  /-- broadcast register b[i] -/
  | bcast (i : BitVec 2) (v : W64)
  /-- flags into the vector FPSR -/
  | flags (f : BitVec 5)
  /-- the reserved entry `tag` of o, x or e -/
  | pushO (i : BitVec 2) (tag : W64) (v : Vec)
  | pushX (i : BitVec 2) (tag : W64) (v : Vec)
  | pushE (i : BitVec 1) (tag v : W64)
  /-- a sig.v whose older results are then visible at every slice (R162) -/
  | sem (i : BitVec 6) (c : BitVec 16)
  deriving DecidableEq, Repr

/-- A vector landing record (R27, R134): counts are of slice 0's view, and slice s follows s counts later (R29). -/
structure VRec where
  rem : Nat
  act : VAct
  valid : Bool := true
  deriving DecidableEq, Repr

/-- A result that slice 0 holds and later slices do not yet: slice s holds it once `age` is s (R29, R134). -/
structure Late where
  age : Nat
  act : VAct
  deriving DecidableEq, Repr

/-- A datum written to a ring lane (R151), or a rotation that takes the lane (R152). -/
structure Tap where
  lane : BitVec 4
  count : W64
  /-- none for a vrot -/
  val : Option Vec
  deriving DecidableEq, Repr

/-- A row that holds what a vtapr read on a ring lane, until it is written again: the lanes that still do (R152). -/
structure TapRead where
  lane : BitVec 4
  count : W64
  row : Nat
  en : BitVec 128
  deriving DecidableEq, Repr

structure VectorState where
  mask : Vector (BitVec 128) 8
  /-- the copy of each broadcast register that each slice holds (R138) -/
  b : Vector (Vector W64 16) 4
  /-- the vmode word (R160) -/
  mode : BitVec 11
  vview : W64
  tview : Vector W64 16
  cview : W64
  recs : List VRec
  /-- results on their way through the slices, oldest first -/
  late : List Late
  taps : List Tap
  reads : List TapRead
  /-- words still in the wave: the word and the count it issued at (R29) -/
  wave : List (W32 × W64)
  deriving DecidableEq, Repr

/-! ## The access strands (07_streams.md) -/

/-- A physical location of global memory with the attributes its translation gave (16_page.md R357, R358). -/
structure Phys where
  pkg : BitVec 6
  die : BitVec 3
  pa : BitVec 52
  mode : BitVec 3
  agg : Bool
  bar : Bool
  /-- the CMP bit of the leaf, which a home in another package compares with its own attribute (R362) -/
  cmp : Bool := false
  deriving DecidableEq, Repr

/-- Where bytes of an access lie. -/
inductive Loc where
  | spad (off : Nat)
  | glob (p : Phys)
  deriving DecidableEq, Repr

/-- A contiguous part of an access: bytes `[at, at+len)` of its data lie at `loc`. -/
structure Piece where
  pos : Nat
  len : Nat
  loc : Loc
  va : W64
  deriving DecidableEq, Repr

/-- An atomic operation (Table 7-5). -/
structure Atomic where
  op : BitVec 4
  wide : Bool
  operand : W64
  compare : W64
  deriving DecidableEq, Repr

/-- What a load-strand access in flight does when it is performed. -/
inductive LoadKind where
  /-- ld, ldg: a 512-byte entry of q0-q3 -/
  | vector
  /-- ldw: the bytes of a kind code, extended -/
  | scalar (kind : Nat)
  | atomic (a : Atomic)
  | acquire (scope : BitVec 3)
  | fence (scope : BitVec 3)
  deriving DecidableEq, Repr

/-- A load that has issued and not yet delivered. -/
structure PendingLoad where
  seq : Nat
  kind : LoadKind
  q : BitVec 3
  tag : W64
  pieces : List Piece
  /-- bytes already returned by remote requests -/
  data : Vec
  /-- it has read what is at hand and sent its requests; those outstanding -/
  sent : Bool
  waits : List Nat
  pc : W64
  va : W64
  deriving DecidableEq, Repr

/-- What a store-strand access in flight does when it is performed. -/
inductive StoreKind where
  | plain
  | atomic (a : Atomic)
  /-- barm: arm(v) of R348 -/
  | arm (v : W64)
  /-- barr: post(n, b) of R348 -/
  | post (n : BitVec 16) (b : BitVec 32)
  /-- rel step 3: OR of the signature into SIG -/
  | orSig
  /-- rel step 4: the flag -/
  | flag
  deriving DecidableEq, Repr

/-- A store, atomic or barrier operation that has issued and is not yet performed. -/
structure PendingStore where
  seq : Nat
  kind : StoreKind
  pieces : List Piece
  data : Vec
  /-- remote requests outstanding, one per piece; none sent yet while `sent` is false -/
  waits : List Nat
  sent : Bool
  pc : W64
  va : W64
  deriving DecidableEq, Repr

/-- What an issued instruction holds the load strand for. -/
inductive LoadHold where
  /-- mark.l, the k-th with its id; the stores to wait for are known once the mark.s has issued (R188) -/
  | mark (id : BitVec 8) (k : Nat) (need : Option Nat)
  /-- barw on a BAR page (R351) -/
  | barw (p : Phys) (va pc : W64)
  deriving DecidableEq, Repr

/-- What an issued instruction holds the store strand for. -/
inductive StoreHold where
  | mark (id : BitVec 8) (k : Nat) (need : Option Nat)
  /-- fence.s: stores before `seq` at the scope, then buffers -/
  | fence (scope : BitVec 3) (seq : Nat)
  /-- rel, by its step (R185) -/
  | rel (scope : BitVec 3) (seq : Nat) (step : Nat) (loc : Phys) (v : W64) (va : W64) (pc : W64)
  /-- barr, by its step: 0 earlier stores and buffers, 1 its post (R351) -/
  | barr (seq : Nat) (step : Nat) (loc : Loc) (v : W64) (va : W64) (pc : W64)
  /-- aflush until the packets are accepted -/
  | aflush
  deriving DecidableEq, Repr

/-- A sig or rrel of an access or command strand whose conditions are pending. -/
structure PendingSig where
  /-- rrel when true -/
  rel : Bool
  id : BitVec 6
  count : BitVec 16
  /-- accesses or commands issued before this sequence number must be done -/
  before : Nat
  deriving DecidableEq, Repr

/-- Stream states (R192). -/
inductive StreamPhase where
  | explicit | active | drained | halted
  deriving DecidableEq, Repr

/-- A cached translation: the page's first address, its size, and the PTE, or the cause a walk found for a held access. -/
structure TlbEntry where
  va : W64
  size : Nat
  result : Except Nat W64
  deriving DecidableEq, Repr

/-- A stream. -/
structure Stream where
  phase : StreamPhase
  /-- consumer of q0-q3: the control strand when true -/
  control : Bool
  desc : BitVec 512
  /-- the pattern's base address -/
  base : W64
  /-- the next ordinal, and the faulting one -/
  next : Nat
  faultOrd : Nat
  /-- the entry in assembly: its bits so far and how many -/
  acc : Vec
  filled : Nat
  /-- its place in the FIFO is reserved -/
  reserved : Bool
  /-- loads issued before the sset that must be performed first (R196) -/
  after : Nat
  /-- an sclr waits for what is in flight -/
  clearing : Bool
  /-- tags handed to reserved entries -/
  tags : Nat
  /-- the stream TLB: the current page's translation -/
  tlb : Option TlbEntry
  /-- the translation of the next page in pattern order, fetched as the stream entered the current page (R197) -/
  tlb2 : Option TlbEntry := none
  /-- remote requests outstanding, and the lines they brought, by home key / 128 -/
  waits : List Nat
  got : List (Nat × BitVec 1024)
  /-- the plane that the entry in assembly expands from (R195) -/
  plane : Option Plane
  deriving DecidableEq, Repr

structure LoadState where
  a : Vector W64 16
  pending : List PendingLoad
  /-- loads issued so far -/
  seq : Nat
  hold : Option LoadHold
  sigs : List PendingSig
  marks : Vector Nat 256
  stream : Vector Stream 8
  /-- address whose translation a walk is to find -/
  walk : Option W64
  deriving DecidableEq, Repr

structure StoreState where
  w : Vector W64 16
  pending : List PendingStore
  seq : Nat
  hold : Option StoreHold
  sigs : List PendingSig
  marks : Vector Nat 256
  /-- the dirty signature (R184) -/
  sig : BitVec 1024
  walk : Option W64
  /-- the buffer evicted for the strand's element, until its packet is accepted (R190) -/
  aggWait : Option (BitVec 6)
  deriving DecidableEq, Repr

/-! ## The Anvil (08_array.md) -/

/-- One chunk's contribution to an accumulator element, as the step formed it. -/
inductive Contribution where
  /-- an exact value for an FP32 accumulator, with the flags its formation raised -/
  | real (v : Num.Val) (f : Num.Flags)
  /-- an INT32 sum -/
  | int (i : Int)
  deriving DecidableEq, Repr

/-- What lands in TC `at` (R216). -/
inductive AnvilLanding where
  /-- the chunk updates of a step: accumulator row, and for each column its contributions in chunk order -/
  | update (due : W64) (row : Nat) (cols : List (List Contribution))
  /-- sixteen rows cleared by mzero, from row `row` -/
  | zero (due : W64) (row : Nat)
  /-- an output row of mout: space, first byte, and the bytes -/
  | out (due : W64) (view : Bool) (first : Nat) (bytes : List Byte)
  deriving DecidableEq, Repr

/-- A command of the Anvil from its start to its raise point. -/
structure AnvilCmd where
  word : W32
  /-- PC of the command, or a follow-on of a copy (R221) -/
  pc : W64
  followOn : Bool
  /-- parameters captured at start (R201) -/
  mp : Vector W64 8
  /-- tile view captured at start (R159) -/
  tview : W64
  /-- accumulator types captured at start (R159, R207) -/
  cview : W64
  /-- codebook plane captured at start (R165) -/
  plane : Option Plane
  bank : BitVec 2
  /-- the parity of its bank's exchanges when that plane was the front -/
  parity : Bool
  t0 : W64
  /-- prescan length, and whether it has passed -/
  prescan : Nat
  scanned : Bool
  /-- steps in all and steps taken -/
  steps : Nat
  taken : Nat
  lastStep : Option W64
  /-- bank groups claimed -/
  claims : List (BitVec 2)
  landings : List AnvilLanding
  /-- its raise point has come; it leaves at the end of that TC -/
  raised : Bool
  deriving DecidableEq, Repr

/-- The matrix strand's and the Anvil's state of one tile (R199). -/
structure MatrixState where
  mp : Vector W64 8
  /-- commands in flight, oldest first: at most the newest takes steps -/
  cmds : List AnvilCmd
  /-- commands started so far, and sigs that wait for them -/
  seq : Nat
  sigs : List PendingSig
  /-- follow-on words presented and not yet started: the word, σ, and the context of the copy (R221) -/
  follow : List (W32 × BitVec 6)
  deriving DecidableEq, Repr

/-- A pod: its mode (R50) and a write of it that waits for the Anvil. -/
structure Pod where
  mode : BitVec 2
  want : Option (BitVec 2)
  deriving DecidableEq, Repr

/-! ## The transform unit (09_transform.md) -/

/-- A transform command from its start to its raise point. -/
structure TransformCmd where
  word : W32
  pc : W64
  /-- tp0-tp3 captured, and the plan's offset (R226) -/
  tp : Vector W64 4
  plan : W64
  t0 : W64
  /-- the start checks of t0 + 1 have passed, and S is known -/
  started : Bool
  steps : Nat
  taken : Nat
  claims : List (BitVec 2)
  /-- its raise point has come; it leaves at the end of that TC -/
  raised : Bool
  deriving DecidableEq, Repr

structure TransformState where
  tp : Vector W64 16
  cmd : Option TransformCmd
  seq : Nat
  sigs : List PendingSig
  deriving DecidableEq, Repr

/-! ## Scheduled traffic (14_group.md) -/

/-- A transfer that a send or swg has under way (R325). -/
structure Transfer where
  id : Nat
  /-- departure FC of flit 0 -/
  depart : W64
  flits : Nat
  runLen : Nat
  soff : Nat
  sstride : Nat
  doff : Nat
  tag : BitVec 16
  /-- destination package, die and tile on the die -/
  dstPkg : BitVec 6
  dstDie : BitVec 3
  dstTile : Nat
  block : BitVec 4
  lat : Nat
  /-- routed in physical order (DMODE 1, EPV 1) rather than logical order (R321) -/
  physical : Bool
  lane : Nat
  port : Nat
  psub : Nat
  sent : Nat
  deriving DecidableEq, Repr

/-- A command of the send strand from its start to its raise point. -/
structure SendCmd where
  word : W32
  pc : W64
  t0 : W64
  /-- the start checks have passed -/
  started : Bool
  desc : BitVec 512
  /-- FCC in t0 + 1, when its checks began -/
  checkAt : Option W64 := none
  transfers : List Transfer
  /-- the rtree contribution: tree, count, block, destination offset, round, departure FC and the element bytes -/
  tree : Option (BitVec 4 × Nat × BitVec 4 × Nat × BitVec 16 × W64)
  soff : Nat
  /-- the collective's promised landing (R338) -/
  promise : W64
  /-- FC after which the raise point lies, once the last flit has departed -/
  lastFc : Option W64
  /-- its raise point has come; it leaves at the end of that TC -/
  raised : Bool
  deriving DecidableEq, Repr

structure SendState where
  xp : Vector W64 16
  cmd : Option SendCmd
  /-- promised landings of commands past their raise point -/
  promise : W64
  seq : Nat
  sigs : List PendingSig
  deriving DecidableEq, Repr

/-- A command of the receive strand (recv, yclr). -/
structure RecvCmd where
  word : W32
  pc : W64
  t0 : W64
  started : Bool
  desc : BitVec 512
  raised : Bool
  deriving DecidableEq, Repr

structure RecvState where
  yp : Vector W64 16
  cmd : Option RecvCmd
  seq : Nat
  sigs : List PendingSig
  deriving DecidableEq, Repr

/-- A link of the scheduled plane inside the package (R331): kind and numbers. -/
inductive Link where
  | inject (tile : Nat)
  | eject (tile : Nat)
  /-- on-die mesh link leaving `tile` in direction 0 +x, 1 −x, 2 +y, 3 −y -/
  | mesh (tile : Nat) (dir : Nat)
  | diePair (src dst lane : Nat)
  | optical (port psub : Nat)
  deriving DecidableEq, Repr

/-- A flit under way: the slots it is still to occupy (FC, link, number of the input it is offered from). -/
structure Flit where
  xfer : Nat
  index : Nat
  count : Nat
  src : Nat
  srcCtx : BitVec 6
  dstPkg : BitVec 6
  dstDie : BitVec 3
  dstTile : Nat
  block : BitVec 4
  doff : Nat
  tag : BitVec 16
  /-- bytes it carries: 64, fewer at the end of a tree's result -/
  len : Nat
  data : BitVec 512
  land : W64
  slots : List (W64 × Link × Nat)
  /-- the header that a flit of another package brought with it -/
  head : Option W64 := none
  deriving DecidableEq, Repr

/-- How a transfer fares at its destination (R329): flits landed, and whether one was refused or discarded. -/
structure Arrival where
  xfer : Nat
  landed : Nat
  spoiled : Bool
  deriving DecidableEq, Repr

/-- A round of a tree node (R341): the contributions that wait, each by its child's number, with its element values in FP32. -/
structure TreeRound where
  tree : BitVec 4
  /-- node: 0-3 die fabric interfaces, 4 the hub's reduction unit -/
  node : Nat
  tag : BitVec 16
  count : Nat
  parts : List (Nat × List W32)
  /-- the leaves that contributed: tile, arrival block, offset and context -/
  leaves : List (TileNo × BitVec 4 × Nat × BitVec 6)
  /-- departure of the last contribution so far -/
  last : W64
  /-- nodes of other packages among the contributors -/
  nodes : List Nat
  deriving DecidableEq, Repr

/-- The scheduled plane's state of the package. -/
structure Fabric where
  flits : List Flit
  arrivals : List Arrival
  nextXfer : Nat
  /-- route entries RIDX with their four variants (R332), as the fabric manager loaded them -/
  routes : List (BitVec 12 × Vector W64 4)
  /-- tree entries: node and the 64-byte entry (R339) -/
  trees : List (Nat × BitVec 512)
  rounds : List TreeRound
  /-- rounds that a COUNT mismatch has ended: tree, TAG, and the leaves whose contributions are still to come (R341) -/
  brokenRounds : List (BitVec 4 × BitVec 16 × List TileNo) := []
  /-- rounds whose value went to a parent in another package, until the result comes -/
  sentUp : List TreeRound := []
  /-- flits for tree nodes, from other packages, whose message is not whole yet -/
  inTree : List (W64 × BitVec 512) := []
  deriving DecidableEq, Repr

/-! ## The tile (02_tile.md R47) -/

/-- Tile states of Table 2-10. -/
inductive TilePhase where
  | off | idle | bound | running | trapped | saving
  deriving DecidableEq, Repr

structure Tile where
  phase : TilePhase
  /-- context and launch it is bound to; meaningful from BOUND to SAVING -/
  ctx : BitVec 6
  launch : Nat
  slot : BitVec 8
  /-- island TCC, and fabric cycles credited towards the next TC -/
  tcc : W64
  credit : Nat
  strand : Vector StrandState 8
  ctl : Control
  fifo : Fifos
  sync : Sync
  fetch : Fetch
  sfetch : SupFetch
  sys : Sys
  trace : Trace
  vec : VectorState
  ld : LoadState
  st : StoreState
  mx : MatrixState
  xf : TransformState
  tx : SendState
  rx : RecvState
  spad : Memory
  /-- the scratchpad as the TC began: what the TC's reads see (R33) -/
  spad0 : Memory
  /-- register space, accumulator rows included (R35) -/
  rsp : Memory
  tlb : List TlbEntry
  /-- a pre-emption has reached the tile: its strands stop at their next boundaries (R273) -/
  preempt : Bool
  /-- while SAVING: the tile was TRAPPED when pre-emption reached it -/
  savedSup : Bool
  /-- DEBUG-ATTN is to be taken at the next boundary (R277) -/
  attn : Bool
  /-- TCs in which no strand issued and no command was in flight, or spent TRAPPED (watchdog, R268) -/
  quiet : Nat
  deriving DecidableEq, Repr

/-! ## Contexts (11_context.md) -/

/-- Context states of Table 11-1. -/
inductive CtxPhase where
  | free | live | killing | halted
  deriving DecidableEq, Repr

/-- A fault record that has been made and waits for room (R270): the TC or FC it was made in is byte 0x20 of the record. -/
structure FaultRecord where
  /-- the record's words, SEQ included -/
  words : Vector W64 8
  deriving DecidableEq, Repr

structure Context where
  phase : CtxPhase
  /-- a destroy is to follow once HALTED is reached (Table 11-2) -/
  destroying : Bool
  /-- cause of the kill under way -/
  cause : BitVec 8
  /-- the 256-bit event vector -/
  events : BitVec 256
  fqBase : W64
  fqLog2 : Nat
  fqrp : W64
  fqwp : W64
  fqlost : W64
  /-- SEQ of the next record -/
  seq : BitVec 32
  records : List FaultRecord
  saveBase : W64
  /-- table root: PFN in [51:12], die in [54:52] (R363) -/
  root : W64
  /-- MIGCFG: K and FREEZE in ms (R370) -/
  migK : Nat
  migFreeze : Nat
  deriving DecidableEq, Repr

/-- The context command registers (Table 11-10). -/
structure CtxRegs where
  arg0 : W64
  arg1 : W64
  arg2 : W64
  done : BitVec 32
  last : BitVec 6
  err : BitVec 8
  busy : Bool
  /-- the command running, and whether one was written while busy -/
  op : BitVec 4
  late : Bool
  deriving DecidableEq, Repr

/-- An event operation under way to the Hearth (R126). -/
inductive EventOp where
  | set (ctx : BitVec 6) (launch : Nat) (e : BitVec 8)
  | clear (ctx : BitVec 6) (launch : Nat) (e : BitVec 8)
  /-- evtst of a tile, in supervisor mode or not -/
  | test (ctx : BitVec 6) (t : TileNo) (sup : Bool) (e : BitVec 8)
  deriving DecidableEq, Repr

/-! ## Queues (12_queue.md) -/

/-- STATUS.STATE (Table 12-3). -/
inductive QueuePhase where
  | dead | active | paused | draining
  deriving DecidableEq, Repr

/-- A layout register set (R293). -/
structure LayoutSet where
  base : W64
  ext : Vector W32 5
  deriving DecidableEq, Repr

/-- A layout record (Table 12-12) as read. -/
structure LayoutRec where
  etype : Nat
  rank : Nat
  repeatPad : Bool
  swz : Nat
  padval : W64
  /-- byte strides of dimensions 0-4 -/
  stride : List Int
  /-- box extents of dimensions 0-4 -/
  box : List Nat
  deriving DecidableEq, Repr

/-- A copy from its packet to its completion (R295-R301). -/
structure CopyOp where
  pkt : BitVec 512
  src : LayoutRec
  dst : LayoutRec
  sset : LayoutSet
  dset : LayoutSet
  /-- the ring slots reserved, one per receiver; none until every receiver of a slot-ring copy has one -/
  slots : Option (List (TileNo × Nat))
  deriving DecidableEq, Repr

/-- What the packet in progress of a queue waits for. -/
inductive InProgress where
  /-- taken, and waiting for memory that its check reads -/
  | taken (pkt : BitVec 512)
  | launch (id : Nat)
  | copy (c : CopyOp)
  /-- a QFENCE that the Hearth has read: its whole packet -/
  | qfence (pkt : BitVec 512)
  /-- a GRAPH that holds its queue for the sequencer, or runs on it -/
  | graph (pkt : BitVec 512) (started : Bool)
  deriving DecidableEq, Repr

/-- A user-mode queue: the queue page's registers and what the Hearth holds (R278-R286). -/
structure Queue where
  phase : QueuePhase
  /-- the context it is granted to, while `granted` -/
  granted : Bool
  ctx : BitVec 6
  ctxsel : BitVec 6
  err : BitVec 8
  cause : BitVec 8
  pkt : W32
  /-- QCB address, ring address and LOG2N captured at CREATE -/
  qcb : W64
  ring : W64
  log2n : Nat
  sets : Vector LayoutSet 8
  prog : Option InProgress
  /-- the index of the packet in progress -/
  progIdx : W32
  /-- the Hearth has been prompted to look (R280) -/
  prompted : Bool
  deriving DecidableEq, Repr

/-! ## Launches, bind records and graphs (13_kernel.md) -/

/-- Launch states (Table 13-1). -/
inductive LaunchPhase where
  | pending | binding | running | saved | done | failed
  deriving DecidableEq, Repr

/-- Where a launch came from: a DISPATCH packet, or a graph's LAUNCH record with its SET mask. -/
inductive LaunchFrom where
  | packet
  | record (set : BitVec 256) (order : Nat) (addr : W64)
  deriving DecidableEq, Repr

structure Launch where
  id : Nat
  phase : LaunchPhase
  ctx : BitVec 6
  queue : BitVec 10
  from_ : LaunchFrom
  prio : BitVec 3
  pre : Bool
  kernel : W64
  arg : W64
  argw : W64
  sig : W64
  startfcc : W64
  /-- group shape from the loop table (R309) -/
  gx : Nat
  gy : Nat
  gd : Nat
  dieMask : BitVec 4
  /-- FC in which it entered PENDING, SAVED or BINDING, and milliseconds it has aged since it waits (R318) -/
  since : W64
  age : Nat
  /-- the slot of its bind record, and its tiles in logical order -/
  slot : Option (BitVec 8)
  tiles : List TileNo
  orient : BitVec 3
  /-- a pre-emption has been asked for (R273), and the save records that are written -/
  preempting : Bool
  saved : List Tile
  /-- replies held while SAVED: logical tile and word (R273) -/
  replies : List (Nat × W64)
  /-- the handler's code of an ended launch whose buffers must still report (R272) -/
  code : BitVec 8
  /-- the bytes of its image, as dispatch checked them (R107) -/
  image : List Byte := []
  deriving DecidableEq, Repr

/-- A graph on its context's sequencer (R314-R317). -/
structure Graph where
  queue : BitVec 10
  addr : W64
  passMax : W32
  pass : W32
  sig : W64
  /-- the record held at -/
  next : Nat
  /-- launches in flight -/
  launches : List Nat
  /-- SNAPOPs in flight -/
  snapops : Nat
  /-- launches issued since the graph started, for the order of SET masks -/
  issued : Nat
  /-- an error ended it: the value for SIG, and STATUS.ERR, 0 for none -/
  failed : Option (W64 × BitVec 8)
  /-- DRAIN or RESET: no further launch is issued -/
  stopped : Bool
  deriving DecidableEq, Repr

/-! ## Snapshots (17_snapshot.md) -/

/-- A range register pair with its levels (R372, R375). -/
structure SnapRange where
  en : Bool
  err : Bool
  die : BitVec 3
  /-- physical address bits [51:16] -/
  base : BitVec 36
  sizem1 : BitVec 20
  /-- generations of the open levels, level 1 first; the depth is their number -/
  gens : List Nat
  deriving DecidableEq, Repr

structure Snap where
  ranges : Vector SnapRange 16
  budget : BitVec 24
  deriving DecidableEq, Repr

/-- What becomes of a shadow entry. -/
inductive ShadowPhase where
  | held | freeing | awaiting
  deriving DecidableEq, Repr

/-- A shadow entry (R374). -/
structure Shadow where
  ctx : BitVec 6
  range : Fin 16
  home : Nat
  /-- physical address of the line, divided by 128 -/
  line : Nat
  level : Nat
  data : BitVec 1024
  stamp : Nat
  phase : ShadowPhase
  deriving DecidableEq, Repr

/-- Who waits for a snapshot operation. -/
inductive SnapWho where
  | tile (t : TileNo) (sup : Bool) (d : BitVec 5)
  | graph (set : BitVec 256) (order : Nat)
  /-- a write that clears EN -/
  | register
  /-- a SNAPOP whose graph is gone -/
  | nobody
  deriving DecidableEq, Repr

/-- A snapshot operation at the hub's sequencer (R380): form 0 snap, 1 accept, 2 reject, 3 snapq, 4 a clear of EN. -/
structure SnapOp where
  ctx : BitVec 6
  who : SnapWho
  form : Nat
  operand : W64
  /-- a reject past its effect points: the FC in which the invalidates went out -/
  rejecting : Option W64
  /-- dies of other packages that have not acknowledged the invalidate yet -/
  unacked : List (BitVec 6 × BitVec 3) := []
  deriving DecidableEq, Repr

/-! ## Pages (16_page.md) -/

/-- The page command registers (Table 16-6) and the command running. -/
structure PageRegs where
  arg0 : W64
  arg1 : W64
  done : BitVec 32
  err : BitVec 8
  /-- a command was written while one ran -/
  late : Bool
  data : Vector W64 8
  run : Option (BitVec 4 × BitVec 6 × W64 × W64)
  deriving DecidableEq, Repr

/-- Migration states of a page (Table 16-9). -/
inductive MigPhase where
  | stable
  | moving (since : W64) (target : Nat) (frame : Nat)
  /-- FROZEN until an FC; then the leaf entries at `place` of a table of die `die` are written as they were (R371) -/
  | frozen (until_ : W64) (die : BitVec 3) (place : Nat) (entries : List W64)
  deriving DecidableEq, Repr

/-- A counter of the home for a MIGRATE page (R370), with the moves of the last 16 ms. -/
structure MigPage where
  ctx : BitVec 6
  va : W64
  size : Nat
  home : Nat
  counts : Vector Nat 4
  moves : List W64
  phase : MigPhase
  deriving DecidableEq, Repr

/-- The physical memory of the cell and what its homes keep about it. -/
structure Store where
  /-- ((package × 8 + die) × 2^52) + physical address; dies 0-3 and the hub 4 (R357) -/
  mem : Memory
  /-- stamps of lines: six bytes at 8 × (home key / 128) (R375) -/
  stamp : Memory
  /-- generation counters of homes 0-4 of this package -/
  gen : Vector Nat 5
  shadows : List Shadow
  /-- frame attribute table: byte 1 for a COMPRESSED 64 KiB frame, at home key / 65,536 (R367) -/
  attr : Memory
  /-- chunk metadata: at home key / 256 -/
  chunk : Memory
  /-- dirty bits: byte 1 at home key / 4,096 (R369) -/
  dirty : Memory
  migs : List MigPage
  /-- free frames of the migration reserve of each compute die: physical address and bytes -/
  reserve : Vector (List (Nat × Nat)) 4
  /-- frames of the reserves in which a move has put a page: die, physical address and bytes (R370) -/
  placed : List (Nat × Nat × Nat) := []
  deriving DecidableEq, Repr

/-! ## Ports and switches (18_link.md) -/

/-- Port states (Table 18-5). -/
inductive PortPhase where
  | dark | locking | aligning | trained | active | degraded | retraining | failed
  deriving DecidableEq, Repr

/-- One direction of a port. -/
structure PortDir where
  /-- stripe map: lane of position k in [3k+2:3k], spare in [23:21] -/
  map : BitVec 24
  /-- position on the spare; 7 none -/
  onSpare : BitVec 3
  /-- rings of this package that are NEAR -/
  near : BitVec 8
  /-- the lane that retrains, and when it was last tried -/
  retrain : Option (BitVec 3 × W64)
  /-- a trained lane that joins at the next frame boundary -/
  joining : Bool
  deriving DecidableEq, Repr

/-- A repair: flit bytes, LATE, slot and row (R395). -/
structure Repair where
  flit : BitVec 640
  late : Bool
  slot : Bool
  row : BitVec 8
  deriving DecidableEq, Repr

/-- A request for a repair that the receiver has made or is to make (R396). -/
structure RepairWait where
  row : BitVec 8
  slot : Bool
  /-- FC of the errored row's arrival -/
  since : W64
  /-- requests made so far; and whether one is to go out -/
  asked : Nat
  due : Bool
  deriving DecidableEq, Repr

structure Port where
  phase : PortPhase
  enable : Bool
  full : Bool
  skipFast : Bool
  lastFail : BitVec 3
  flight : BitVec 8
  outd : PortDir
  ind : PortDir
  corr : W32
  uncorr : W32
  wraps : BitVec 16
  late : BitVec 16
  repaired : W32
  laneErr : W64
  /-- the bring-up under way runs the fast path; steps done -/
  fast : Bool
  step : Nat
  /-- ENABLE was cleared: DARK at the next frame boundary -/
  darkening : Bool
  /-- the handshake is agreed: ACTIVE at the next frame boundary -/
  goingActive : Bool
  /-- FC in which it stopped carrying traffic -/
  lostAt : W64
  /-- consecutive uncorrectable inward rows -/
  badRows : Nat
  /-- rows sent in the last 256 FC, as (FC, row) -/
  sent : List (W64 × BitVec 1400)
  /-- repairs queued to be sent; those being sent in shares and on the spare lane, with the parts already sent; and those sent within
  the last 256 FC: row, slot, FC -/
  repairs : List Repair
  sendShare : Option (Repair × Nat)
  sendSpare : Option (Repair × Nat)
  resent : List (BitVec 8 × Bool × W64)
  waits : List RepairWait
  /-- shares of the inward repair packet being received -/
  shares : List Byte
  /-- beats of the inward repair packet on the spare lane -/
  beats : List Byte
  /-- a map operation to announce: MOPV, MOPJ, MPOS, MDIR -/
  mop : List (Bool × BitVec 3 × Bool)
  /-- flits to be sent, and those sent within the flight time: FC, slot, context and flit -/
  out : List (W64 × Bool × BitVec 6 × BitVec 640)
  /-- LSEC and ICNT (Table 19-6) -/
  keyIdx : Bool
  same : Bool
  encl : BitVec 8
  gmac : BitVec 4
  icnt : W64
  deriving DecidableEq, Repr

/-- The switch matrix of a photonic engine (R406, R407, Table 18-9). -/
structure Switch where
  /-- the column set in each logical row -/
  row : Vector (Option (BitVec 3)) 8
  /-- the physical row of each logical row -/
  phys : Vector (BitVec 4) 8
  spares : Nat
  err : BitVec 8
  /-- the cell write in progress: value, column, logical row, and whether the row retires first -/
  busy : Option (Bool × BitVec 3 × BitVec 3 × Bool)
  /-- wear counters: physical row × 8 + column -/
  wear : Vector W32 80
  deriving DecidableEq, Repr

/-! ## Remote requests (19_remote.md) -/

/-- A pair entry of a die fabric interface (R411). -/
structure PairEntry where
  src : Nat
  pkg : BitVec 6
  die : BitVec 3
  /-- ports that the path crosses -/
  ports : List Nat
  smask : W64
  rtt : Nat
  /-- FC of the last departure -/
  last : W64
  deriving DecidableEq, Repr

/-- States of a remote request (Table 19-2); DONE and FAILED requests leave the list. -/
inductive ReqPhase where
  | held | queued | sent | waiting
  deriving DecidableEq, Repr

/-- Kinds of request (R410). -/
inductive ReqKind where
  | load | store
  | atomic (a : Atomic)
  | aggregate
  /-- barm -/
  | arm (v : W64)
  /-- barr -/
  | post (n : BitVec 16) (b : BitVec 32)
  deriving DecidableEq, Repr

/-- Who sent a request: a piece of a strand's access, an aggregation buffer, or another package. -/
inductive ReqOwner where
  | loadPiece (t : TileNo) (seq : Nat) (piece : Nat)
  | storePiece (t : TileNo) (seq : Nat) (piece : Nat)
  | stream (t : TileNo) (n : Fin 8)
  | barw (t : TileNo)
  /-- a line that a pref asks for (R178) -/
  | prefetch
  | buffer (d : BitVec 2) (b : BitVec 6)
  | other
  deriving DecidableEq, Repr

/-- An element of an aggregation buffer (R420). -/
structure AggElement where
  pa : BitVec 16
  value : W64
  tile : TileNo
  launch : Nat
  deriving DecidableEq, Repr

/-- A reply as the target made it (R416, R422): STAT, AUX and the data. -/
structure Reply where
  stat : BitVec 6
  aux : BitVec 16
  data : BitVec 1024
  deriving DecidableEq, Repr

structure Request where
  id : Nat
  phase : ReqPhase
  kind : ReqKind
  owner : ReqOwner
  ctx : BitVec 6
  cmp : Bool
  spkg : BitVec 6
  sdie : Nat
  pkg : BitVec 6
  die : BitVec 3
  pa : Nat
  len : Nat
  data : BitVec 1024
  /-- elements of an aggregated packet with its operation: none for stores -/
  elems : List AggElement
  op : Option (BitVec 4)
  wide : Bool
  tag : BitVec 16
  reiss : Nat
  /-- FC from which it is held, or of its acceptance or the last WAIT; and of its last departure -/
  since : W64
  departed : W64
  /-- FC spent under WAIT -/
  waited : Nat
  /-- performed at its target: the reply on its way -/
  reply : Option Reply
  /-- the line it reads enters the L2 of its die -/
  fill : Bool := false
  deriving DecidableEq, Repr

/-- An entry of a die's reply cache (R418). -/
structure CachedReply where
  spkg : BitVec 6
  sdie : Nat
  tag : BitVec 16
  reply : Reply
  sentAt : W64
  deriving DecidableEq, Repr

/-- States of an aggregation buffer (Table 19-3). -/
inductive BufPhase where
  | free | open_ | leaving | sent
  deriving DecidableEq, Repr

/-- The key of a buffer: context, home, window, operation (none for a store) and width (R420). -/
structure AggKey where
  ctx : BitVec 6
  pkg : BitVec 6
  die : BitVec 3
  window : Nat
  op : Option (BitVec 4)
  wide : Bool
  deriving DecidableEq, Repr

structure AggBuffer where
  phase : BufPhase
  key : AggKey
  elems : List AggElement
  /-- FC of its first element -/
  first : W64
  deriving DecidableEq, Repr

/-- The Bellows of a die (R420-R424). -/
structure Bellows where
  age : Nat
  packets : W32
  evictions : W32
  bufs : Vector AggBuffer 64
  /-- elements waiting at the interface, in arrival order -/
  waiting : List (AggKey × AggElement)
  /-- elements that arrive in this FC -/
  arriving : List (AggKey × AggElement)
  /-- triggers of R421 raised in this FC by store strands: tile and launch; judged after the arrivals -/
  flush : List (TileNo × Nat)
  deriving DecidableEq, Repr

/-- The remote-fault log of a context (Table 19-5). -/
structure FaultLog where
  base : W64
  lost : W32
  log2n : BitVec 5
  wp : W64
  rp : W64
  deriving DecidableEq, Repr

/-- An outgoing RMA of an Ultra Ethernet endpoint (R428). -/
structure Rma where
  id : Nat
  ctx : BitVec 6
  ring : BitVec 2
  desc : BitVec 512
  /-- bytes of a read already placed -/
  done : Nat
  deriving DecidableEq, Repr

/-- The requests in flight, the reply caches and the Bellows. -/
structure Remote where
  pairs : List PairEntry
  reqs : List Request
  nextId : Nat
  /-- next TAG of each die, and TAGs not yet free: die, tag, FC it finished -/
  nextTag : Vector (BitVec 16) 5
  retired : List (Nat × BitVec 16 × W64)
  cache : Vector (List CachedReply) 5
  bellows : Vector Bellows 4
  rfl : Vector FaultLog 64
  /-- Ethernet work rings: context × 4 + ring -/
  rings : Vector Queue 256
  rmas : List Rma
  nextRma : Nat
  /-- flits of dynamic messages of other packages that are not whole yet: header and payload (R410) -/
  inflits : List (W64 × BitVec 512) := []
  /-- flits of messages that wait for a row of a port: port, virtual channel, header and payload -/
  outflits : List (Nat × Nat × W64 × BitVec 512) := []
  deriving DecidableEq, Repr

/-! ## Management (25_management.md) -/

/-- An island's point (Table 25-1), whether it is powered, and a ratio change that is held. -/
structure Island where
  powered : Bool
  /-- n in effect -/
  ncur : Nat
  nreq : Nat
  vset : Nat
  /-- a lower supply setting waits for ratios to fit -/
  vwant : Option Nat
  /-- a ratio change held under R17 -/
  held : Option Nat
  /-- the held change is a lowering of the limit loop (R20) -/
  forced : Bool
  deriving DecidableEq, Repr

/-- Kinds of the entries that the specification sends to the event log (R437, R269, R270, R426, R370, R407, R433, R435). -/
inductive LogKind where
  | journal | limit | held | shutdown | freeze | integrity | retirement | fatalFree | recordDrop
  deriving DecidableEq, Repr

/-- An entry of the event log or of the journal (R437). -/
structure LogRecord where
  seq : W64
  fcc : W64
  kind : LogKind
  detail : List W64
  deriving DecidableEq, Repr

/-- A firmware slot (R438): image, digest and signature. -/
structure Slot where
  image : List Byte
  digest : BitVec 512
  signature : BitVec 512
  deriving DecidableEq, Repr

structure Manage where
  on : Bool
  islands : Vector Island 16
  sensors : Vector W64 256
  log : List LogRecord
  logSeq : W64
  boots : W64
  /-- start-up steps with a failure mark; place 0: the start that failed had taken a pending slot -/
  failMarks : Vector Bool 10
  slots : Vector Slot 2
  /-- the slot that runs, and one marked pending -/
  running : Fin 2
  pending : Option (Fin 2)
  arg0 : W64
  arg1 : W32
  /-- the mailbox command running, BUSY -/
  cmd : Option (BitVec 4)
  err : BitVec 8
  /-- the watchdog's period in ms, 1-1,000, set by scheduler firmware (R268) -/
  watchdogMs : Nat
  deriving DecidableEq, Repr

/-! ## Writes that wait -/

/-- A write of the Hearth that a frame, a shadow entry, a claimed bank group or a path holds: it is made once that lets it. -/
inductive OwedWrite where
  /-- a value that replaces a signal's -/
  | store (q : Option (BitVec 10)) (c : BitVec 6) (sig : W64) (v : Nat)
  /-- a signal's decrement -/
  | done (q : Option (BitVec 10)) (c : BitVec 6) (sig : W64)
  /-- the copy of a queue's STATUS in its control block -/
  | status (q : Option (BitVec 10)) (c : BitVec 6) (va : W64) (v : Nat)
  /-- the atomic add of a CLAIM -/
  | claim (f : HostFn) (q : BitVec 10)
  /-- a CREATE, whose control block cannot be read yet -/
  | create (q : BitVec 10) (qcb : W64)
  /-- a RESET, whose packets cannot be read yet -/
  | reset (q : BitVec 10)
  /-- a CONTROL write of an Ethernet work ring, whose control block or descriptors cannot be read yet -/
  | ringControl (c : BitVec 6) (r : BitVec 2) (v : W64)
  deriving DecidableEq, Repr

/-- A posted write of the host that waits, or stands behind one that does (R254). -/
inductive HostPost where
  | memory (f : HostFn) (addr : W64) (data : List Byte)
  /-- a write to a queue page, at its offset in BAR0 -/
  | page (f : HostFn) (off : BitVec 24) (v : W64)
  deriving DecidableEq, Repr

/-! ## The whole machine -/

/-- Whose turn it is: the tile, and the phase of its turn (DESIGN CHOICE, log entry 3): 0 the fabric cycle's work for the tile;
1-8 the strands that need no sync object; 9 the additions of the engines and of pending sigs; 10-17 the strands that wait on a sync object
(R343), a follow-on behind the matrix strand; 18-20 the memory accesses of the control, load and store strands, by when the claims of the TC
stand (R217); 21 the Anvil's step and branch resolution; 22 fetch; 23 the end of the TC. -/
structure Turn where
  tile : TileNo
  phase : Nat
  deriving DecidableEq, Repr

/-- A step that an agent beside the strands takes next: a row of the table that no agent outside the machine supplies the data of. -/
inductive Work where
  | eventPerform
  | loadDeliver (t : TileNo)
  | storePerform (t : TileNo) (i : Nat)
  | tlbWalk (t : TileNo) (k : Strand)
  | streamElement (t : TileNo) (n : BitVec 3)
  | podModeChange (t : TileNo)
  | islandRatioChange (i : BitVec 4)
  | watchdogExpiry (t : TileNo)
  | tileResetComplete (t : TileNo)
  | tileDrainComplete (t : TileNo)
  | groupStart (slot : BitVec 8)
  | placeLaunch (l : Nat) (slot : BitVec 8) (x0 : BitVec 4) (y0 : BitVec 4) (orient : BitVec 3) (diemap : BitVec 8) (pmode : Bool)
  | launchComplete (l : Nat)
  | preemption (l : Nat)
  | saveComplete (t : TileNo)
  | priorityAging (l : Nat)
  | faultRecordWrite (c : BitVec 6)
  | faultRecordDrop (c : BitVec 6)
  | killingComplete (c : BitVec 6)
  | hearthPoll (q : BitVec 10)
  | dispatch (q : BitVec 10) (pkt : BitVec 512)
  | copy (q : BitVec 10) (pkt : BitVec 512)
  | layout (q : BitVec 10) (pkt : BitVec 512)
  | qfence (q : BitVec 10) (pkt : BitVec 512)
  | signalPacket (q : BitVec 10) (pkt : BitVec 512)
  | graph (q : BitVec 10) (pkt : BitVec 512)
  | qfenceJoinComplete (q : BitVec 10)
  | drainComplete (q : BitVec 10)
  | slotReserve (q : BitVec 10)
  | copyComplete (q : BitVec 10)
  | copyFault (q : BitVec 10) (cause : BitVec 8)
  | qpostTimeout (t : TileNo)
  | barwPoll (t : TileNo)
  | graphLaunchRecord (c : BitVec 6)
  | snapop (c : BitVec 6)
  | jumpif (c : BitVec 6)
  | graphSignalRecord (c : BitVec 6)
  | graphEndRecord (c : BitVec 6)
  | flitLanding (i : Nat)
  | treeNodeCombine (tree : BitVec 4) (d : BitVec 3)
  | requestAccept (r : Nat)
  | requestDepart (r : Nat)
  | targetService (r : Nat)
  | replyArrive (r : Nat) (kind : BitVec 4) (stat : BitVec 6) (aux : BitVec 16) (data : BitVec 1024)
  | remoteTimeout (r : Nat)
  | waitLimitTimeout (r : Nat)
  | heldRequestTimeout (r : Nat)
  | aggElementEnter (d : BitVec 2)
  | aggAgeExpiry (d : BitVec 2) (b : BitVec 6)
  | aggPacketAccept (d : BitVec 2) (b : BitVec 6)
  | aggStatusArrive (d : BitVec 2) (b : BitVec 6) (failed : BitVec 16) (causes : BitVec 128)
  | ueWorkDescriptor (c : BitVec 6) (r : BitVec 2)
  | migrationTrigger (c : BitVec 6) (va : W64) (d : BitVec 2)
  | migrationMoveComplete (c : BitVec 6) (va : W64)
  | freezeExpiry (c : BitVec 6) (va : W64)
  | snapshotOperationPerform (c : BitVec 6)
  | rejectCompletion (c : BitVec 6)
  | shadowEntryFree (c : BitVec 6)
  | restoreLine (h : BitVec 3) (line : BitVec 52)
  | invalidateAckTimeout (c : BitVec 6)
  | pageCommandComplete
  | update
  | attest
  | logread
  | rowSend (n : BitVec 4)
  | repairTimeout (n : BitVec 4)
  | laneRetrainRetry (n : BitVec 4) (out : Bool)
  | switchCellWriteDone (e : BitVec 2)
  deriving DecidableEq, Repr

structure State where
  tiles : Vector Tile 640
  pods : Vector Pod 320
  turn : Turn
  /-- the steps that the other agents take next, in order (DESIGN CHOICE, log entry 3) -/
  agenda : List Work
  /-- how many free values have been drawn (the model's own field) -/
  drawn : Nat
  fcc : W64
  /-- package number, set at start-up -/
  pkg : BitVec 6
  store : Store
  ctxs : Vector Context 64
  ctxRegs : CtxRegs
  events : List EventOp
  /-- supervisor code store (R256) -/
  supCode : List (BitVec 256)
  fabric : Fabric
  /-- CACHED copies in the L2 of each compute die: home key / 128 and the 128 bytes -/
  l2 : Vector (List (Nat × BitVec 1024)) 4
  queues : Vector Queue 1024
  launches : List Launch
  nextLaunch : Nat
  /-- the queue whose launch was placed last (R318) -/
  served : BitVec 10
  /-- the slot table (R310) -/
  slots : Vector (BitVec 512) 256
  graphs : Vector (Option Graph) 64
  snaps : Vector Snap 64
  snapOps : List SnapOp
  page : PageRegs
  /-- MSI-X messages sent: function and vector, newest first (R290) -/
  msix : List (BitVec 6 × BitVec 6)
  ports : Vector Port 16
  switches : Vector Switch 4
  remote : Remote
  manage : Manage
  /-- writes of the Hearth that wait, in order -/
  owed : List OwedWrite := []
  /-- posted writes of the host that wait, in order -/
  posted : List HostPost := []
  /-- what the last host read of a CLAIM register returned (R282) -/
  claimed : W64 := 0
  deriving DecidableEq, Repr

/-! ## Launch values and the reset state -/

/-- A strand that has not started. -/
def StrandState.init : StrandState :=
  { queue := [], stopped := false, halted := false, count := 0, used := false, pc := 0, fault := { cause := 0, fpc := 0, faddr := 0 },
    reached := none }

def Regs.init : Regs := { s := Vector.replicate 32 0, p := Vector.replicate 8 false }

def Bank.init : Bank := { m := Vector.replicate 4 0, d := Vector.replicate 4 0, l := Vector.replicate 4 0, recs := [] }

/-- The control strand at launch (R41, R108). -/
def Control.init : Control :=
  { user := Regs.init, sup := Regs.init, ubank := Bank.init, sbank := Bank.init, spill := Vector.replicate 512 0,
    sspill := Vector.replicate 64 0, spillN := 0, squeue := [], spc := 0, wait := none, swait := none }

/-- Every FIFO is empty at launch (R44). -/
def Fifos.init : Fifos :=
  { k := Vector.replicate 5 [], j := Vector.replicate 2 [], e := Vector.replicate 2 [], qv := Vector.replicate 4 [],
    qpos := Vector.replicate 4 0, qs := Vector.replicate 4 [], ov := Vector.replicate 4 [], os := Vector.replicate 2 [],
    x := Vector.replicate 4 [] }

def Plane.init : Plane := { entries := Vector.replicate 256 0, kind := 0, count := 0, captures := 0 }

/-- The sync objects at launch (Table 2-9). -/
def Sync.init : Sync :=
  { sem := Vector.replicate 64 0, flag := Vector.replicate 16 0, ring := Vector.replicate 16 none,
    block := Vector.replicate 16 { registered := false, base := 0, len := 0, expect := 0, tag := 0 },
    bank := Vector.replicate 4 { front := Plane.init, back := Plane.init, swapped := false, swappedAt := none } }

def Fetch.init : Fetch :=
  { code := [], addr := 0, ended := false, stopped := false, branch := none, notBefore := 0,
    level := Vector.replicate 6 { active := false, ix := 0, count := 0, first := 0, length := 0 }, table := [] }

def SupFetch.init : SupFetch := { addr := 0, ended := false, stopped := false, branch := none, notBefore := 0 }

def Sys.init : Sys :=
  { fpsr := Vector.replicate 8 0, cause := 0, fstrand := 0, fpc := 0, faddr := 0, epc := 0, fetchpc := 0, fpend := 0, reply := none,
    lastSeq := none, wsel := 0, tracectl := 0, tracebase := 0, tracewp := 0, tracerp := 0, saverec := 0, ltile := 0, gshape := 0 }

/-- The vector strand at launch (R36, R160). -/
def VectorState.init : VectorState :=
  { mask := Vector.replicate 8 0, b := Vector.replicate 4 (Vector.replicate 16 0), mode := 0, vview := 0, tview := Vector.replicate 16 0, cview := 0,
    recs := [], late := [], taps := [], reads := [], wave := [] }

/-- A stream at launch: EXPLICIT; q0-q3 belong to the vector strand and q4-q7 to the control strand (R192). -/
def Stream.init (n : Nat) : Stream :=
  { phase := .explicit, control := decide (4 ≤ n), desc := 0, base := 0, next := 0, faultOrd := 0, acc := 0, filled := 0,
    reserved := false, after := 0, clearing := false, tags := 0, tlb := none, waits := [], got := [], plane := none }

def LoadState.init : LoadState :=
  { a := Vector.replicate 16 0, pending := [], seq := 0, hold := none, sigs := [], marks := Vector.replicate 256 0,
    stream := Vector.ofFn fun n => Stream.init n.val, walk := none }

def StoreState.init : StoreState :=
  { w := Vector.replicate 16 0, pending := [], seq := 0, hold := none, sigs := [], marks := Vector.replicate 256 0, sig := 0,
    walk := none, aggWait := none }

/-- The matrix parameters at launch: zero but for OSCALE 1.0 in mp7 (R199, Table 8-5). -/
def MatrixState.init : MatrixState :=
  { mp := #v[0, 0, 0, 0, 0, 0, 0, 0x3F800000#64], cmds := [], seq := 0, sigs := [], follow := [] }

def TransformState.init : TransformState := { tp := Vector.replicate 16 0, cmd := none, seq := 0, sigs := [] }

def SendState.init : SendState := { xp := Vector.replicate 16 0, cmd := none, promise := 0, seq := 0, sigs := [] }

def RecvState.init : RecvState := { yp := Vector.replicate 16 0, cmd := none, seq := 0, sigs := [] }

/-- A tile without power, every part at its launch value; memories list nothing. -/
def Tile.blank : Tile :=
  { phase := .off, ctx := 0, launch := 0, slot := 0, tcc := 0, credit := 0, strand := Vector.replicate 8 StrandState.init,
    ctl := Control.init, fifo := Fifos.init, sync := Sync.init, fetch := Fetch.init, sfetch := SupFetch.init, sys := Sys.init,
    trace := { waiting := [], dropped := 0, since := 0 }, vec := VectorState.init, ld := LoadState.init, st := StoreState.init,
    mx := MatrixState.init, xf := TransformState.init, tx := SendState.init, rx := RecvState.init, spad := [], spad0 := [], rsp := [], tlb := [],
    preempt := false, savedSup := false, attn := false, quiet := 0 }

/-- A context that is FREE (R255); K and FREEZE at their reset values (R370). -/
def Context.init : Context :=
  { phase := .free, destroying := false, cause := 0, events := 0, fqBase := 0, fqLog2 := 0, fqrp := 0, fqwp := 0, fqlost := 0, seq := 0,
    records := [], saveBase := 0, root := 0, migK := 12, migFreeze := 256 }

/-- A queue that is DEAD (R284). -/
def Queue.init : Queue :=
  { phase := .dead, granted := false, ctx := 0, ctxsel := 0, err := 0, cause := 0, pkt := 0, qcb := 0, ring := 0, log2n := 0,
    sets := Vector.replicate 8 { base := 0, ext := Vector.replicate 5 0 }, prog := none, progIdx := 0, prompted := false }

def Snap.init : Snap :=
  { ranges := Vector.replicate 16 { en := false, err := false, die := 0, base := 0, sizem1 := 0, gens := [] }, budget := 0 }

/-- A direction of a port: position k on lane k, the spare on lane 7 (Table 18-8). -/
def PortDir.init : PortDir := { map := 0xFAC688, onSpare := 7, near := 0, retrain := none, joining := false }

/-- A port that is DARK (Table 18-5). -/
def Port.init : Port :=
  { phase := .dark, enable := false, full := false, skipFast := false, lastFail := 0, flight := 0, outd := PortDir.init,
    ind := PortDir.init, corr := 0, uncorr := 0, wraps := 0, late := 0, repaired := 0, laneErr := 0, fast := false, step := 0,
    darkening := false, goingActive := false, lostAt := 0, badRows := 0, sent := [], repairs := [], sendShare := none, sendSpare := none, resent := [], waits := [],
    shares := [], beats := [], mop := [], out := [], keyIdx := false, same := false, encl := 0, gmac := 0, icnt := 0 }

def Switch.init : Switch :=
  { row := Vector.replicate 8 none, phys := Vector.ofFn fun i => BitVec.ofNat 4 i.val, spares := 2, err := 0, busy := none,
    wear := Vector.replicate 80 0 }

/-- The Bellows of a die: AGE 512 (R424), every buffer FREE. -/
def Bellows.init : Bellows :=
  { age := 512, packets := 0, evictions := 0,
    bufs := Vector.replicate 64
      { phase := .free, key := { ctx := 0, pkg := 0, die := 0, window := 0, op := none, wide := false }, elems := [], first := 0 },
    waiting := [], arriving := [], flush := [] }

def Remote.init : Remote :=
  { pairs := [], reqs := [], nextId := 0, nextTag := Vector.replicate 5 0, retired := [], cache := Vector.replicate 5 [],
    bellows := Vector.replicate 4 Bellows.init, rfl := Vector.replicate 64 { base := 0, lost := 0, log2n := 0, wp := 0, rp := 0 },
    rings := Vector.replicate 256 Queue.init, rmas := [], nextRma := 0 }

/-- An island has tile clocks: islands 3d and 3d + 1 for d = 0-3 (Table 1-3). -/
def tileIsland (i : Nat) : Bool := decide (i < 12) && i % 3 != 2

/-- An island without power; n and the supply setting as start-up loads them (R431). -/
def Island.init (i : Nat) : Island :=
  { powered := false, ncur := if tileIsland i then 32 else 0, nreq := if i < 12 then 32 else 0, vset := 50, vwant := none, held := none,
    forced := false }

def Manage.init : Manage :=
  { on := false, islands := Vector.ofFn fun i => Island.init i.val, sensors := Vector.replicate 256 0, log := [], logSeq := 0, boots := 0,
    failMarks := Vector.replicate 10 false, slots := Vector.replicate 2 { image := [], digest := 0, signature := 0 }, running := 0,
    pending := none, arg0 := 0, arg1 := 0, cmd := none, err := 0, watchdogMs := 100 }

def Store.init : Store :=
  { mem := [], stamp := [], gen := Vector.replicate 5 0, shadows := [], attr := [], chunk := [], dirty := [], migs := [],
    reserve := Vector.replicate 4 [] }

/-- The machine right after power-on reset, before start-up: every register at the value the specification gives for reset, or the
one that the assumption log names; no tile has power, and no program is present. -/
def State.reset : State :=
  { tiles := Vector.replicate 640 Tile.blank, pods := Vector.replicate 320 { mode := 0, want := none }, turn := { tile := 0, phase := 0 },
    agenda := [], drawn := 0, fcc := 0, pkg := 0, store := Store.init, ctxs := Vector.replicate 64 Context.init,
    ctxRegs := { arg0 := 0, arg1 := 0, arg2 := 0, done := 0, last := 0, err := 0, busy := false, op := 0, late := false },
    events := [], supCode := [],
    fabric := { flits := [], arrivals := [], nextXfer := 0, routes := [], trees := [], rounds := [] },
    l2 := Vector.replicate 4 [], queues := Vector.replicate 1024 Queue.init, launches := [], nextLaunch := 0, served := 0,
    slots := Vector.replicate 256 0, graphs := Vector.replicate 64 none, snaps := Vector.replicate 64 Snap.init, snapOps := [],
    page := { arg0 := 0, arg1 := 0, done := 0, err := 0, late := false, data := Vector.replicate 8 0, run := none },
    msix := [], ports := Vector.replicate 16 Port.init, switches := Vector.replicate 4 Switch.init, remote := Remote.init,
    manage := Manage.init }


end Sys2Proof.Machine
end

