-- ==== Sys2Proof/Machine/Ops.lean ====
section
/-!
DEFINITION. The named operations over bits, memory and the parts of a tile; how an instruction issues, holds, faults and retires
(02_tile.md R23-R27, 04_lines.md R99); and taking an exception and returning from one (11_context.md R257-R263).
-/
namespace Sys2Proof.Machine
open Sys2Proof

/-! ## Bit fields and byte order -/

/-- The line address of a PC (R22). -/
def lineAddr (pc : W64) : W64 := pc &&& ~~~31#64

/-- Bits `[lo+n-1:lo]` of a number. -/
def fld (x lo n : Nat) : Nat := x / 2 ^ lo % 2 ^ n

/-- Sign extension of an `n`-bit number to 64 bits. -/
def sext64 (x : BitVec n) : W64 := x.signExtend 64

/-- Zero extension to 64 bits. -/
def zext64 (x : BitVec n) : W64 := x.setWidth 64

/-- The low 32 bits. -/
def lo32 (x : W64) : W32 := x.setWidth 32

/-- The bytes of a number, lowest first (R5). -/
def toBytes : Nat → Nat → List Byte
  | 0, _ => []
  | n + 1, v => BitVec.ofNat 8 v :: toBytes n (v / 256)

/-- The number whose bytes, lowest first, are given. -/
def ofBytes : List Byte → Nat
  | [] => 0
  | b :: bs => b.toNat + 256 * ofBytes bs

/-- Pack fields of `w` bits, the first lowest. -/
def packList (w : Nat) : List Nat → Nat
  | [] => 0
  | v :: vs => v % 2 ^ w + 2 ^ w * packList w vs

/-- A 512-byte vector from 128 lanes of 32 bits. -/
def ofLanes (f : Nat → W32) : Vec := BitVec.ofNat 4096 (packList 32 ((List.range 128).map fun i => (f i).toNat))

/-- Lane `i` of a vector. -/
def lane (v : Vec) (i : Nat) : W32 := v.extractLsb' (32 * i) 32

/-- The bytes of a vector enabled by a lane mask, as a bit mask over the vector. -/
def laneBits (en : BitVec 128) : Vec :=
  BitVec.ofNat 4096 (packList 32 ((List.range 128).map fun i => if en.getLsbD i then 2 ^ 32 - 1 else 0))

/-- `new` in the enabled lanes, `old` in the others. -/
def blend (en : BitVec 128) (new old : Vec) : Vec :=
  let m := laneBits en
  (new &&& m) ||| (old &&& ~~~m)

/-- Set element `i` of a list; nothing when there is none. -/
def listSet (l : List α) (i : Nat) (f : α → α) : List α := l.modify i f

/-! ## Memory -/

/-- The byte at an address. -/
def Memory.read : Memory → Nat → Byte
  | [], _ => 0
  | (a, b) :: rest, x => if x < a then 0 else if x = a then b else Memory.read rest x

/-- Insert a cell before a memory whose addresses are higher, unless it holds zero. -/
def Memory.cons (x : Nat) (v : Byte) (m : Memory) : Memory := if v = 0 then m else (x, v) :: m

/-- Write one byte, keeping the canonical form. -/
def Memory.write : Memory → Nat → Byte → Memory
  | [], x, v => Memory.cons x v []
  | (a, b) :: rest, x, v =>
    if x < a then Memory.cons x v ((a, b) :: rest)
    else if x = a then Memory.cons x v rest
    else (a, b) :: Memory.write rest x v

/-- The number in `n` bytes from address `a`, little-endian. -/
def Memory.readN (m : Memory) (a : Nat) : Nat → Nat
  | 0 => 0
  | n + 1 => (m.read a).toNat + 256 * Memory.readN m (a + 1) n

/-- Write the low `n` bytes of a number from address `a`, little-endian. -/
def Memory.writeN (m : Memory) (a : Nat) : Nat → Nat → Memory
  | 0, _ => m
  | n + 1, v => Memory.writeN (m.write a (BitVec.ofNat 8 v)) (a + 1) n (v / 256)

/-- Write a list of bytes from address `a`. -/
def Memory.writeList (m : Memory) (a : Nat) : List Byte → Memory
  | [] => m
  | b :: bs => Memory.writeList (m.write a b) (a + 1) bs

/-- `n` bytes from address `a`. -/
def Memory.readList (m : Memory) (a : Nat) : Nat → List Byte
  | 0 => []
  | n + 1 => m.read a :: Memory.readList m (a + 1) n

/-- The 512 bytes of register-space row `r`. -/
def Memory.row (m : Memory) (r : Nat) : Vec := BitVec.ofNat 4096 (m.readN (512 * r) 512)

/-- Write register-space row `r`. -/
def Memory.setRow (m : Memory) (r : Nat) (v : Vec) : Memory := m.writeN (512 * r) 512 v.toNat

/-- The size of the scratchpad (R31); only bits [20:0] of an offset are used. -/
def spadSize : Nat := 0x200000

/-- The barrier region's first offset (R32). -/
def barrierBase : Nat := 0x1FF000

/-- The bank group of a scratchpad offset (Table 2-3). -/
def bankGroup (off : Nat) : BitVec 2 := BitVec.ofNat 2 (off / 0x80000)

/-! ## Tiles of the state -/

def State.tile (s : State) (t : TileNo) : Tile := s.tiles[t]

def State.setTile (s : State) (t : TileNo) (x : Tile) : State := { s with tiles := s.tiles.set t x }

def State.modTile (s : State) (t : TileNo) (f : Tile → Tile) : State := s.setTile t (f (s.tile t))

/-- Apply a function to every tile. -/
def State.mapTiles (s : State) (f : TileNo → Tile → Tile) : State :=
  { s with tiles := Vector.ofFn fun t => f t s.tiles[t] }

/-- The tile number of a die, row and column. -/
def tileOf? (n : Nat) : Option TileNo := if h : n < 640 then some ⟨n, h⟩ else none

/-- The pod of a tile (R49). -/
def podOf (t : TileNo) : Fin 320 := ⟨t.val / 2, by omega⟩

/-- The other tile of the pod. -/
def podMate (t : TileNo) : TileNo := ⟨t.val / 2 * 2 + (1 - t.val % 2), by omega⟩

/-- Whether a tile owns Anvil windows and has an accumulator window: SPLIT, or SOLO of its own side (R35, R50). -/
def State.hasWindow (s : State) (t : TileNo) : Bool :=
  match s.pods[podOf t].mode.toNat with
  | 1 => t.val % 2 == 0
  | 2 => t.val % 2 == 1
  | _ => true

/-- Physical die, row and column. -/
def dieOf (t : TileNo) : Nat := t.val / 160

/-- Enqueue what other agents do next. -/
def State.post (s : State) (is : List Work) : State := { s with agenda := s.agenda ++ is }

/-! ## Strands -/

def Tile.str (t : Tile) (k : Strand) : StrandState :=
  t.strand[k.pos]'(by cases k <;> simp [Strand.pos])

def Tile.modStr (t : Tile) (k : Strand) (f : StrandState → StrandState) : Tile :=
  { t with strand := t.strand.set k.pos (f (t.str k)) (by cases k <;> simp [Strand.pos]) }

/-- The tile is in supervisor mode (R256). -/
def Tile.isSup (t : Tile) : Bool := t.phase == .trapped

/-- The control strand runs in supervisor mode and takes its instructions from the handler's queue. -/
def Tile.queueOf (t : Tile) (k : Strand) : List QEntry :=
  if k == .control && t.isSup then t.ctl.squeue else (t.str k).queue

def Tile.setQueue (t : Tile) (k : Strand) (q : List QEntry) : Tile :=
  if k == .control && t.isSup then { t with ctl := { t.ctl with squeue := q } }
  else t.modStr k fun st => { st with queue := q }

/-- The PC of a user strand: where a stopped strand resumes, or that of its next unissued instruction. -/
def Tile.userPc (t : Tile) (k : Strand) : W64 :=
  let st := t.str k
  if st.stopped || st.halted then st.pc
  else match st.queue with
    | e :: _ => e.pc
    | [] => t.fetch.addr + 4

/-- The PC of a strand: of its next unissued instruction, or of lane 1 of the next line to be fetched (R22; DEDUCED, log entry 6). -/
def Tile.pcOf (t : Tile) (k : Strand) : W64 :=
  if k == .control && t.isSup then
    match t.ctl.squeue with
    | e :: _ => e.pc
    | [] => t.sfetch.addr + 4
  else
    match (t.str k).queue with
    | e :: _ => e.pc
    | [] => t.fetch.addr + 4

/-! ## Control registers -/

/-- The registers of the mode the control strand runs in (R256). -/
def Tile.regs (t : Tile) : Regs := if t.isSup then t.ctl.sup else t.ctl.user

def Tile.setRegs (t : Tile) (r : Regs) : Tile :=
  { t with ctl := if t.isSup then { t.ctl with sup := r } else { t.ctl with user := r } }

/-- Read an s-register; s0 reads zero (R39). -/
def Regs.get (r : Regs) (i : BitVec 5) : W64 := if i = 0 then 0 else r.s[i.toNat]

/-- Write an s-register; a write to s0 is discarded (R39). -/
def Regs.put (r : Regs) (i : BitVec 5) (v : W64) : Regs := if i = 0 then r else { r with s := r.s.set i.toNat v }

/-- Read a predicate; p0 reads true (R108). -/
def Regs.getP (r : Regs) (i : BitVec 3) : Bool := if i = 0 then true else r.p[i.toNat]

/-- Write a predicate; a write to p0 is discarded (R87). -/
def Regs.putP (r : Regs) (i : BitVec 3) (v : Bool) : Regs := if i = 0 then r else { r with p := r.p.set i.toNat v }

def Tile.s (t : Tile) (i : BitVec 5) : W64 := t.regs.get i

def Tile.setS (t : Tile) (i : BitVec 5) (v : W64) : Tile := t.setRegs (t.regs.put i v)

def Tile.p (t : Tile) (i : BitVec 3) : Bool := t.regs.getP i

def Tile.setP (t : Tile) (i : BitVec 3) (v : Bool) : Tile := t.setRegs (t.regs.putP i v)

/-- The guard: p[p] XOR pn (R85). -/
def Tile.guard (t : Tile) (p : BitVec 3) (n : BitVec 1) : Bool := t.p p != (n == 1)

/-- The latch bank of the mode the control strand runs in (R40). -/
def Tile.bank (t : Tile) : Bank := if t.isSup then t.ctl.sbank else t.ctl.ubank

def Tile.setBank (t : Tile) (b : Bank) : Tile :=
  { t with ctl := if t.isSup then { t.ctl with sbank := b } else { t.ctl with ubank := b } }

/-- The value a latch shows. -/
def Bank.get (b : Bank) : Latch → W64
  | .m i => b.m[i.toNat]
  | .d i => b.d[i.toNat]
  | .l i => b.l[i.toNat]

/-- Put a value into a latch. -/
def Bank.put (b : Bank) (l : Latch) (v : W64) : Bank :=
  match l with
  | .m i => { b with m := b.m.set i.toNat v }
  | .d i => { b with d := b.d.set i.toNat v }
  | .l i => { b with l := b.l.set i.toNat v }

/-- A strand's FPSR. -/
def Tile.fpsr (t : Tile) (k : Strand) : BitVec 8 :=
  t.sys.fpsr[k.pos]'(by cases k <;> simp [Strand.pos])

def Tile.setFpsr (t : Tile) (k : Strand) (v : BitVec 8) : Tile :=
  { t with sys := { t.sys with fpsr := t.sys.fpsr.set k.pos v (by cases k <;> simp [Strand.pos]) } }

/-- OR flags into a strand's FPSR (R67). -/
def Tile.raiseFlags (t : Tile) (k : Strand) (f : Num.Flags) : Tile :=
  t.setFpsr k (t.fpsr k ||| f.setWidth 8)

/-! ## Landing (R24-R27) -/

/-- Land the records whose count has run out, oldest first, and keep the others; one that is not valid is dropped. -/
def landAll (b : Bank) (fl : Num.Flags) : List Landing → Bank × Num.Flags
  | [] => (b, fl)
  | r :: rest =>
    if !r.valid then landAll b fl rest
    else if r.rem ≤ 1 then landAll (b.put r.dest r.value) (fl ||| r.flags) rest
    else
      let (b', f') := landAll b fl rest
      ({ b' with recs := { r with rem := r.rem - 1 } :: b'.recs }, f')

/-- One issue cycle of the control strand: its records count down and those due become visible (R24, R115). -/
def Tile.tickControl (t : Tile) : Tile :=
  let b := t.bank
  let (b', fl) := landAll { b with recs := [] } 0 b.recs
  (t.setBank b').raiseFlags .control fl

/-- Hold a result until it becomes visible `lat` issue counts from now. -/
def Tile.pend (t : Tile) (lat : Nat) (dest : Latch) (v : W64) (fl : Num.Flags) : Tile :=
  let b := t.bank
  t.setBank { b with recs := b.recs ++ [{ rem := lat, dest := dest, value := v, flags := fl }] }

/-- Put a ready value into the reserved entry `tag` of a FIFO. -/
def fillEnt (q : List (Ent α)) (tag : W64) (now : W64) (v : α) : List (Ent α) :=
  q.map fun e => if !e.ready && e.tag == tag then { e with val := v, ready := true, born := now } else e

/-- Sem[n] := min(Sem[n] + c, 65,535) (R342). -/
def satAdd16 (x c : BitVec 16) : BitVec 16 := BitVec.ofNat 16 (min (x.toNat + c.toNat) 65535)

def Tile.semAdd (t : Tile) (i : BitVec 6) (c : BitVec 16) : Tile :=
  { t with sync := { t.sync with sem := t.sync.sem.set i.toNat (satAdd16 t.sync.sem[i.toNat] c) } }

/-- Lanes `en` of row `r` are written: they hold no longer what a vtapr read. -/
def dropReads (r : Nat) (en : BitVec 128) (l : List TapRead) : List TapRead :=
  (l.map fun e => if e.row == r then { e with en := e.en &&& ~~~en } else e).filter fun e => e.en != 0

/-- The lanes of slice `x` (R28). -/
def sliceLane (x : Nat) : BitVec 128 := 255#128 <<< (8 * x)

/-- Write the enabled lanes of slice `x` of a register-space row. -/
def Memory.setSlice (m : Memory) (r x : Nat) (en : BitVec 128) (v : Vec) : Memory :=
  let part (w : Vec) : Vec := (w >>> (256 * x)) &&& ((BitVec.allOnes 256).setWidth 4096)
  let k := part (laneBits (en &&& sliceLane x))
  let old : Vec := BitVec.ofNat 4096 (m.readN (512 * r + 32 * x) 32)
  m.writeN (512 * r + 32 * x) 32 ((part v &&& k) ||| (old &&& ~~~k)).toNat

/-- The part of a result that slice `x` writes: registers and the slice's copy of a broadcast register (R134, R138). -/
def Tile.sliceAct (t : Tile) (x : Nat) : VAct → Tile
  | .row r en v => { t with rsp := t.rsp.setSlice r x en v }
  | .tap r _ _ v => { t with rsp := t.rsp.setSlice r x (BitVec.allOnes 128) v }
  | .bcast i v =>
    { t with vec := { t.vec with b := t.vec.b.set i.toNat (t.vec.b[i.toNat].setIfInBounds x v) } }
  | _ => t

/-- A result becomes visible at slice 0, and will at slice s in s counts. -/
def Tile.begin (t : Tile) (a : VAct) : Tile :=
  let u := t.sliceAct 0 a
  { u with vec := { u.vec with late := u.vec.late ++ [{ age := 0, act := a }] } }

/-- What a vector record does when it becomes visible at slice 0 (R134-R137). -/
def Tile.vact (t : Tile) : VAct → Tile
  | .row r en v =>
    let u := t.begin (.row r en v)
    { u with vec := { u.vec with reads := dropReads r en u.vec.reads } }
  | .tap r lane n v =>
    let all := BitVec.allOnes 128
    let u := t.begin (.tap r lane n v)
    { u with vec := { u.vec with reads := { lane := lane, count := n, row := r, en := all } :: dropReads r all u.vec.reads } }
  | .mask i en v =>
    if i = 0 then t
    else
      let u := t.begin (.mask i en v)
      let old := u.vec.mask[i.toNat]
      { u with vec := { u.vec with mask := u.vec.mask.set i.toNat ((v &&& en) ||| (old &&& ~~~en)) } }
  | .bcast i v => t.begin (.bcast i v)
  | .flags f => t.raiseFlags .vector f
  | .pushO i tag v => { t with fifo := { t.fifo with ov := t.fifo.ov.set i.toNat (fillEnt t.fifo.ov[i.toNat] tag t.tcc v) } }
  | .pushX i tag v => { t with fifo := { t.fifo with x := t.fifo.x.set i.toNat (fillEnt t.fifo.x[i.toNat] tag t.tcc v) } }
  | .pushE i tag v => { t with fifo := { t.fifo with e := t.fifo.e.set i.toNat (fillEnt t.fifo.e[i.toNat] tag t.tcc v) } }
  | .sem i c => t.semAdd i c

/-- Land the vector records that are due, oldest first; one that is not valid is dropped. -/
def Tile.landVec (t : Tile) : List VRec → Tile
  | [] => t
  | r :: rest =>
    if !r.valid then t.landVec rest
    else if r.rem ≤ 1 then (t.vact r.act).landVec rest
    else
      let t' := t.landVec rest
      { t' with vec := { t'.vec with recs := { r with rem := r.rem - 1 } :: t'.vec.recs } }

/-- Results on their way reach the next slice, oldest first; one that has reached slice 15 is done. -/
def Tile.passLate (t : Tile) : List Late → Tile
  | [] => t
  | l :: rest =>
    let u := t.sliceAct (l.age + 1) l.act
    (if l.age < 14 then { u with vec := { u.vec with late := u.vec.late ++ [{ l with age := l.age + 1 }] } } else u).passLate rest

/-- One issue cycle of the vector strand (R29, R134): results pass to their next slice, records count down, and what the ring lanes
and the wave no longer hold is forgotten. -/
def Tile.tickVector (t : Tile) : Tile :=
  let v := t.vec
  let now := (t.str .vector).count
  let taps := v.taps.filter fun x => (now - x.count).toNat < 64
  let reads := v.reads.filter fun x => (now - x.count).toNat < 64
  let wave := v.wave.filter fun x => (now - x.2).toNat < 16
  (({ t with vec := { v with recs := [], late := [], taps := taps, reads := reads, wave := wave } }).passLate v.late).landVec v.recs

/-- The issue cycle of a strand begins: pending results that are due become visible. -/
def Tile.tick (t : Tile) : Strand → Tile
  | .control => t.tickControl
  | .vector => t.tickVector
  | _ => t

/-- An issue cycle has been used: the count rises (not while the handler runs, R257) and the strand has had this TC. -/
def Tile.countUp (t : Tile) (k : Strand) : Tile :=
  t.modStr k fun st =>
    { st with count := if k == .control && t.isSup then st.count else st.count + 1, used := true }

/-- The instruction at the head of the queue has issued. -/
def Tile.retire (t : Tile) (k : Strand) : Tile :=
  (t.setQueue k (t.queueOf k).tail).countUp k

/-- A command whose start checks pass in the TC after its start leaves the queue; a strand stopped meanwhile resumes behind it. -/
def Tile.finishHead (t : Tile) (k : Strand) : Tile :=
  let pc := t.pcOf k
  let x := t.retire k
  x.modStr k fun st => { st with pc := if st.stopped && st.pc == pc then x.pcOf k else st.pc }

/-! ## Outcomes of an issue -/

/-- A fault as Table 11-5 reports it. -/
structure Trap where
  code : Nat
  sub : Nat := 0
  tcode : Nat := 0
  faddr : W64 := 0
  deferred : Bool := false
  async : Bool := false
  deriving DecidableEq, Repr

/-- What becomes of an instruction that would issue: done; held (R23); held with something begun for it (a page walk asked for, a
record made); or a fault that leaves it unexecuted (R99). -/
inductive Res (α : Type) where
  | done (a : α)
  | hold
  | stay (g : State → State)
  | trap (f : Trap)

def Res.bind (r : Res α) (f : α → Res β) : Res β :=
  match r with
  | .done a => f a
  | .hold => .hold
  | .stay g => .stay g
  | .trap x => .trap x

def Res.map (f : α → β) : Res α → Res β
  | .done a => .done (f a)
  | .hold => .hold
  | .stay g => .stay g
  | .trap x => .trap x

/-! ## Cause codes (Table 11-5) -/

def cIllegalInsn : Nat := 0x01
def cIllegalExt : Nat := 0x02
def cIllegalLine : Nat := 0x03
def cPrivileged : Nat := 0x04
def cMisaligned : Nat := 0x05
def cSpillRange : Nat := 0x06
def cStreamState : Nat := 0x07
def cBankClaim : Nat := 0x08
def cBankConflict : Nat := 0x09
def cCodebookIndex : Nat := 0x0A
def cSchedule : Nat := 0x0B
def cBarrierRegion : Nat := 0x0C
def cViewRange : Nat := 0x0D
def cPageNotPresent : Nat := 0x10
def cPermission : Nat := 0x11
def cAttribute : Nat := 0x12
def cCompressed : Nat := 0x13
def cShadow : Nat := 0x14
def cSnapNesting : Nat := 0x15
def cSnapRange : Nat := 0x16
def cRemoteTimeout : Nat := 0x20
def cRemoteUnreachable : Nat := 0x21
def cIntegrity : Nat := 0x22
def cAggElement : Nat := 0x23
def cSoftwareTrap : Nat := 0x30
def cPreempt : Nat := 0x31
def cDebugAttn : Nat := 0x33
def cCommandFault : Nat := 0x40
def cUncorrectable : Nat := 0xF0
def cLinkFatal : Nat := 0xF1
def cWatchdog : Nat := 0xF2
def cHostKill : Nat := 0xF3
def cNested : Nat := 0xF4

/-- The CAUSE word of a fault (Table 11-4). -/
def Trap.word (f : Trap) : W64 :=
  BitVec.ofNat 64 (f.code % 256 + f.sub % 256 * 256 + f.tcode % 0x4000 * 0x10000 + (if f.async then 2 ^ 30 else 0)
    + (if f.deferred then 2 ^ 31 else 0))

/-! ## Fault records (R270) -/

/-- The words of a fault record (Table 11-7). -/
def recordWords (seq : BitVec 32) (cause : W64) (strand : Nat) (fatal nest async : Bool) (pc addr : W64) (ctx : BitVec 6)
    (lt tile : Nat) (fcc info : W64) : Vector W64 8 :=
  let c := cause.toNat
  let async := async || cause.getLsbD 30
  let w0 := seq.toNat * 2 ^ 32 + (if nest then 2 ^ 22 else 0) + (if fatal then 2 ^ 21 else 0) + (if async then 2 ^ 20 else 0)
    + fld c 31 1 * 2 ^ 19 + strand % 8 * 2 ^ 16 + c % 65536
  let w3 := ctx.toNat * 2 ^ 26 + lt % 1024 * 2 ^ 16 + tile % 1024
  #v[BitVec.ofNat 64 w0, if async then 0 else pc, addr, BitVec.ofNat 64 w3, fcc, info, 0, 0]

def State.ctx (s : State) (c : BitVec 6) : Context := s.ctxs[c.toNat]

def State.modCtx (s : State) (c : BitVec 6) (f : Context → Context) : State :=
  { s with ctxs := s.ctxs.set c.toNat (f s.ctxs[c.toNat]) }

/-- Make a fault record of a context; it waits to be written (R270). -/
def State.makeRecord (s : State) (c : BitVec 6) (cause : W64) (strand : Nat) (fatal nest async : Bool) (pc addr : W64)
    (lt tile : Nat) (info : W64) : State :=
  s.modCtx c fun x =>
    { x with seq := x.seq + 1,
             records := x.records ++ [{ words := recordWords x.seq cause strand fatal nest async pc addr c lt tile s.fcc info }] }

/-- An asynchronous record (R268): no tile traps.  It names the strand and the tile it concerns, with the tile's number in its launch,
and INFO is the fault's TCODE or the stream's ordinal (Table 11-7). -/
def State.asyncRecord (s : State) (c : BitVec 6) (code sub tile : Nat) (addr : W64) (strand : Nat := 0) (lt : Nat := 0)
    (info : W64 := 0) : State :=
  s.makeRecord c (BitVec.ofNat 64 (code % 256 + sub % 256 * 256)) strand false false true 0 addr lt tile info

/-! ## The event log (25_management.md R437) and trace records (R275) -/

/-- Write an entry of the management event log, a ring of 65,536 records. -/
def State.logEvent (s : State) (kind : LogKind) (detail : List W64) : State :=
  let m := s.manage
  let r : LogRecord := { seq := m.logSeq, fcc := s.fcc, kind := kind, detail := detail }
  { s with manage := { m with log := (m.log ++ [r]).drop (m.log.length + 1 - 65536), logSeq := m.logSeq + 1 } }

/-- TRACECTL fields. -/
def Sys.traceOn (y : Sys) : Bool := y.tracectl.getLsbD 16
def Sys.traceBranch (y : Sys) : Bool := y.tracectl.getLsbD 12
def Sys.traceSize (y : Sys) : Nat := 2 ^ (fld y.tracectl.toNat 0 4 + 8)
def Sys.tracePeriod (y : Sys) : Nat := 2 ^ (fld y.tracectl.toNat 13 3 + 6)

/-- Make trace records, the words of each; all are dropped when the tile has no room for them among the 16 that wait, or when the ring is
full. -/
def Tile.traceAdd (t : Tile) (fcc : W64) (type strand : Nat) (word : W64) : Tile :=
  let head (ty : Nat) : W64 := BitVec.ofNat 64 (ty + 16 * strand + 256 * (fcc.toNat % 2 ^ 56))
  let rs := (if t.trace.dropped = 0 then [] else [(head 3, t.trace.dropped)]) ++ [(head type, word)]
  let n := t.trace.waiting.length + rs.length
  let used := (t.sys.tracewp - t.sys.tracerp).toNat % t.sys.traceSize
  if 16 < n || t.sys.traceSize ≤ used + n then { t with trace := { t.trace with dropped := t.trace.dropped + 1 } }
  else { t with trace := { t.trace with waiting := t.trace.waiting ++ rs, dropped := 0 } }

/-- The trace record of a resolved branch: the next line and whether it was taken (R275). -/
def Tile.traceBr (t : Tile) (fcc : W64) (next : W64) (taken : Bool) : Tile :=
  if t.sys.traceOn && t.sys.traceBranch then t.traceAdd fcc 2 0 (lineAddr next ||| (if taken then 1 else 0)) else t

/-! ## Releasing tiles and killing a context (R269) -/

/-- A tile goes to IDLE: strands stop, commands in flight are abandoned, FIFOs and streams are discarded (R47, R48, R269). -/
def Tile.release (t : Tile) : Tile :=
  { t with phase := .idle, preempt := false, attn := false, quiet := 0,
           mx := { t.mx with cmds := [], sigs := [], follow := [] },
           xf := { t.xf with cmd := none, sigs := [] },
           tx := { t.tx with cmd := none, sigs := [] },
           rx := { t.rx with cmd := none, sigs := [] },
           ld := { t.ld with pending := [], hold := none, sigs := [], walk := none },
           st := { t.st with pending := [], hold := none, sigs := [], walk := none, aggWait := none },
           tlb := [] }

/-- Whether a tile is held by a launch of a context. -/
def Tile.heldBy (t : Tile) (c : BitVec 6) : Bool :=
  t.ctx == c && (t.phase == .bound || t.phase == .running || t.phase == .trapped || t.phase == .saving)

/-- A request of a context fails and its buffers are lost when the context enters KILLING (R416, R421). -/
def Remote.purge (r : Remote) (c : BitVec 6) (now : W64) : Remote :=
  let mine (q : Request) : Bool := q.ctx == c && q.owner != ReqOwner.other
  let gone := r.reqs.filter mine
  { r with
    reqs := r.reqs.filter fun q => !mine q
    retired := r.retired ++ (gone.filter fun q => q.phase != ReqPhase.held).map fun q => (q.sdie, q.tag, now)
    bellows := r.bellows.map fun b => { b with
      bufs := b.bufs.map fun x => if x.key.ctx == c then { x with phase := .free, elems := [] } else x
      waiting := b.waiting.filter fun e => e.1.ctx != c
      arriving := b.arriving.filter fun e => e.1.ctx != c } }

/-- A fatal cause of a context (R269, Table 11-2).  LIVE: the context enters KILLING, its tiles go to IDLE at once (step 1), and the
record with FATAL set is made; the rest is done when the kill completes.  KILLING or HALTED: the record and nothing else.  FREE:
nothing here. -/
def State.killWith (s : State) (c : BitVec 6) (code : Nat) (cause : W64) (strand : Nat) (nest async : Bool) (pc addr : W64)
    (lt tile : Nat) (info : W64) : State :=
  match (s.ctx c).phase with
  | .free => s.logEvent .fatalFree [zext64 c, cause]
  | .live =>
    let s := s.mapTiles fun _ t => if t.heldBy c then t.release else t
    let s := { s with remote := s.remote.purge c s.fcc }
    let s := s.modCtx c fun x => { x with phase := .killing, cause := BitVec.ofNat 8 code }
    s.makeRecord c cause strand true nest async pc addr lt tile info
  | _ => s.makeRecord c cause strand true nest async pc addr lt tile info

/-- A fatal cause that no instruction raised. -/
def State.kill (s : State) (c : BitVec 6) (code : Nat) : State :=
  s.killWith c code (BitVec.ofNat 64 code) 0 false true 0 0 0 0 0

/-! ## Taking an exception and returning from one (R257-R263) -/

/-- The lowest strand position with a fault that has reached the control strand. -/
def Tile.lowestReached (t : Tile) : Option Strand :=
  Strand.all.find? fun k => (t.str k).reached.isSome

/-- The mask of strands with a fault that has reached the control strand, without `k`. -/
def Tile.reachedMask (t : Tile) (k : Strand) : BitVec 8 :=
  BitVec.ofNat 8 (packList 1 (Strand.all.map fun j => if j != k && (t.str j).reached.isSome then 1 else 0))

/-- What fetch does with a branch that has issued (R79, R82, R83): see `Fetch.resolve`.  The fetch address after a taken branch:
levels whose body does not hold the target end. -/
def Fetch.endLevels (f : Fetch) (target : W64) : Fetch :=
  let n := target.toNat / 32
  { f with level := f.level.map fun l =>
      if l.active && !(decide (l.first ≤ n) && decide (n < l.first + l.length)) then { l with active := false } else l }

/-- The innermost active level whose body ends with line `n`, as its number. -/
def Fetch.innermostEnding (f : Fetch) (n : Nat) : Option (Fin 6) :=
  (List.finRange 6).reverse.find? fun i => f.level[i].active && f.level[i].first + f.level[i].length == n + 1

/-- After line `n`, without a taken branch: bodies that end here repeat from their first line or end, innermost first (R82). -/
def Fetch.wrap (f : Fetch) (n : Nat) : Nat → Fetch × Bool
  | 0 => (f, false)
  | fuel + 1 =>
    match f.innermostEnding n with
    | none => ({ f with addr := BitVec.ofNat 64 (32 * (n + 1)) }, false)
    | some i =>
      let l := f.level[i]
      if l.ix.toNat + 1 < l.count then
        ({ f with addr := BitVec.ofNat 64 (32 * l.first), level := f.level.set i { l with ix := l.ix + 1 } }, true)
      else Fetch.wrap { f with level := f.level.set i { l with active := false } } n fuel

/-- The LAST bit of line `n` of the code store. -/
def Fetch.lastAt (f : Fetch) (n : Nat) : Bool := (f.code[n]?.getD 0).getLsbD 0

/-- Go on after line `n` with no branch taken: wrap a loop, or end after the LAST line (R74, R82). -/
def Fetch.next (f : Fetch) (n : Nat) : Fetch :=
  let (g, again) := f.wrap n 7
  if f.lastAt n && !again then { g with ended := true } else g

/-- A branch has resolved: fetch goes to its target, ending the levels it leaves, or falls through (R78, R83). -/
def Fetch.resolve (f : Fetch) (b : PendingBranch) : Fetch :=
  let g := { f with branch := none }
  match b.issued with
  | some (_, some target) => { g.endLevels target with addr := target }
  | _ => g.next (b.line.toNat / 32 + b.skip)

/-- The trace record of the issued branch that trap entry resolves at once (R275). -/
def Tile.traceEntry (t : Tile) (fcc : W64) : Tile :=
  match t.fetch.branch with
  | some b => match b.issued with
    | some (_, tgt) => t.traceBr fcc (t.fetch.resolve b).addr tgt.isSome
    | none => t
  | none => t

/-- The steps of trap entry (R257) in user mode, reporting strand `k` with the fault its window holds: supervisor mode begins at
supervisor line 0, and the handler's first instruction issues 8 TCs later. -/
def Tile.trapEntry (t : Tile) (k : Strand) : Tile :=
  let w := (t.str k).fault
  let fetch := match t.fetch.branch with
    | some b => if b.issued.isSome then t.fetch.resolve b else t.fetch
    | none => t.fetch
  let epc := if (t.str .control).halted then (t.str .control).pc else ({ t with fetch := fetch } : Tile).pcOf .control
  let pend := t.reachedMask k
  { t with
    phase := .trapped
    attn := false
    quiet := 0
    fetch := fetch
    strand := t.strand.map fun st => { st with reached := none }
    ctl := { t.ctl with squeue := [] }
    sfetch := { addr := 0, ended := false, stopped := false, branch := none, notBefore := t.tcc + 7 }
    sys := { t.sys with
      cause := w.cause, fstrand := BitVec.ofNat 3 k.pos, fpc := w.fpc, faddr := w.faddr, epc := epc
      fetchpc := fetch.addr, fpend := t.sys.fpend ||| pend, reply := none, lastSeq := none } }

/-- A failed translation is not kept. -/
def Tile.dropErrors (t : Tile) : Tile :=
  { t with tlb := t.tlb.filter fun e => match e.result with | .ok _ => true | .error _ => false }

/-- A fault of strand `k` at its next instruction: the fault window is written and, but for the control strand, the strand stops;
the fault reaches the control strand at its next boundary, or FPEND while the handler runs (R257, R259).  A failed translation is
not kept.  A control strand that has halted keeps the PC of its halt (R258). -/
def Tile.faultAt (t : Tile) (k : Strand) (f : Trap) (pc : W64) : Tile :=
  let w : FaultWin := { cause := f.word, fpc := pc, faddr := f.faddr }
  let sup := t.isSup
  let t := t.dropErrors.modStr k fun st =>
    { st with fault := w, stopped := st.stopped || k != .control,
              reached := if sup then none else some t.tcc, pc := if k == .control && st.halted then st.pc else t.pcOf k }
  if sup then { t with sys := { t.sys with fpend := t.sys.fpend ||| BitVec.ofNat 8 (2 ^ k.pos) } } else t

/-- A fault of an instruction that would issue (R99).  The control strand's own fault is taken at once in user mode (DEDUCED, log
entry 5) and is nested, and so fatal, in supervisor mode (R260). -/
def State.fault (s : State) (t : TileNo) (k : Strand) (f : Trap) : State :=
  let x := s.tile t
  if k == .control then
    if x.isSup then
      s.killWith x.ctx cNested f.word 0 true false (x.pcOf .control) f.faddr x.sys.ltile.toNat t.val (BitVec.ofNat 64 f.tcode)
    else s.setTile t (((x.faultAt .control f (x.pcOf .control)).traceEntry s.fcc).trapEntry .control)
  else s.setTile t (x.faultAt k f (x.pcOf k))

/-- Drop the queue entries before the one at `pc`; all of them when none is at `pc` (R263, R264; DEDUCED, log entry 6). -/
def dropTo (q : List QEntry) (pc : W64) : List QEntry := q.dropWhile fun e => e.pc != pc

/-- The return from an exception (R263): the user bank is back, user control goes on at EPC and user fetch at FETCHPC; a pending
fault re-enters the handler at once.  A branch that the return skips never issues, and fetch does not hold for it (R78). -/
def Tile.eret (t : Tile) : Tile :=
  let u := t.str .control
  let t' := { t with
    phase := .running
    quiet := 0
    fetch := { t.fetch with addr := t.sys.fetchpc, stopped := false, notBefore := t.tcc + 1 } }
  let t' := t'.modStr .control fun st => { st with queue := if u.halted then [] else dropTo u.queue t.sys.epc }
  let t' := match t'.fetch.branch with
    | some b =>
      if b.issued.isNone && !((t'.str .control).queue.any fun e => lineAddr e.pc == b.line) then
        { t' with fetch := { t'.fetch with branch := none } }
      else t'
    | none => t'
  match Strand.all.find? fun k => t.sys.fpend.getLsbD k.pos with
  | none => t'
  | some k =>
    let again := t'.trapEntry k
    { again with sys := { again.sys with epc := t.sys.epc, fetchpc := t.sys.fetchpc } }

/-! ## Issuing -/

/-- The tile and strand whose turn it is. -/
def State.here (s : State) : TileNo := s.turn.tile

def State.cur (s : State) : Tile := s.tile s.here

/-- Issue the head instruction of strand `k` of the tile whose turn it is: results due become visible, then the effect, and the
instruction retires; held, nothing happens; a fault leaves it unexecuted. -/
def State.issue (s : State) (k : Strand) (f : State → Res State) : State :=
  let t := s.here
  match f (s.modTile t (·.tick k)) with
  | .done s' => s'.modTile t (·.retire k)
  | .hold => s
  | .stay g => g s
  | .trap x => s.fault t k x

/-- Issue with an effect on the tile alone. -/
def State.issueT (s : State) (k : Strand) (f : Tile → Res Tile) : State :=
  s.issue k fun s => (f s.cur).map fun x => s.setTile s.here x

abbrev Out := Host.Outcome State Fault Refusal

end Sys2Proof.Machine
end

