-- ==== Sys2Proof/Machine/Flags.lean ====
section
/-!
DEFINITION. The flag computations: the FPSR (03_numbers.md R65-R67), the compare conditions of the control strand (05_control.md
Table 5-4) and of the vector strand (06_vector.md R143).
-/
namespace Sys2Proof.Machine
open Sys2Proof

/-! ## FPSR -/

/-- RM of a strand's FPSR. -/
def Tile.rm (t : Tile) (k : Strand) : Num.Rm := Num.Rm.ofBits ((t.fpsr k).extractLsb' 6 2)

/-- mts to an FPSR: the sticky flags are W1C; RM is written in the control FPSR alone (R66). -/
def fpsrWrite (k : Strand) (old : BitVec 8) (v : W64) : BitVec 8 :=
  let flags := old &&& 0x1F#8 &&& ~~~(v.setWidth 8)
  let rm := if k == .control then v.setWidth 8 &&& 0xC0#8 else old &&& 0xC0#8
  rm ||| (old &&& 0x20#8) ||| flags

/-! ## Control compares (Table 5-4) -/

/-- A floating-point relation of two encodings; false when either is NaN. -/
def fpRel (f : Num.Fmt) (ok : Ordering → Bool) (x y : Nat) : Bool :=
  match Num.cmp (Num.decode f x) (Num.decode f y) with
  | some o => ok o
  | none => false

/-- Either operand is NaN. -/
def fpUn (f : Num.Fmt) (x y : Nat) : Bool := (Num.cmp (Num.decode f x) (Num.decode f y)).isNone

/-- The outcome of cmp under a cond value of Table 5-4; false for the values the decoder refuses. -/
def cmpCond (cond : BitVec 7) (x y : W64) : Bool :=
  let xs := (lo32 x).toNat
  let ys := (lo32 y).toNat
  match cond.toNat with
  | 0x00 => x == y
  | 0x01 => x != y
  | 0x02 => x.slt y
  | 0x03 => y.sle x
  | 0x04 => x.ult y
  | 0x05 => y.ule x
  | 0x10 => fpRel Num.fp32 (· == .eq) xs ys
  | 0x11 => fpRel Num.fp32 (· == .lt) xs ys
  | 0x12 => fpRel Num.fp32 (· != .gt) xs ys
  | 0x13 => fpUn Num.fp32 xs ys
  | 0x18 => fpRel Num.fp64 (· == .eq) x.toNat y.toNat
  | 0x19 => fpRel Num.fp64 (· == .lt) x.toNat y.toNat
  | 0x1A => fpRel Num.fp64 (· != .gt) x.toNat y.toNat
  | 0x1B => fpUn Num.fp64 x.toNat y.toNat
  | _ => false

/-- Combining an outcome into a predicate or mask bit (R87): set, AND, OR. -/
def combine (comb : BitVec 2) (old c : Bool) : Bool :=
  match comb.toNat with
  | 0 => c
  | 1 => old && c
  | _ => old || c

/-! ## Vector compares (R143) -/

/-- A vector compare condition over IEEE comparison; every relation but ne is false with a NaN. -/
def vcondFp (cond : BitVec 3) (o : Option Ordering) : Bool :=
  match cond.toNat, o with
  | 0, some o => o == .eq
  | 1, some o => o != .eq
  | 1, none => true
  | 2, some o => o == .lt
  | 3, some o => o != .gt
  | 4, some o => o == .gt
  | 5, some o => o != .lt
  | 6, o => o.isNone
  | 7, o => o.isSome
  | _, _ => false

/-- The signed integer form. -/
def vcondInt (cond : BitVec 3) (x y : W32) : Bool :=
  match cond.toNat with
  | 0 => x == y
  | 1 => x != y
  | 2 => x.slt y
  | 3 => x.sle y
  | 4 => y.slt x
  | _ => y.sle x

end Sys2Proof.Machine
end

