-- ==== Sys2Proof/Machine/Operands.lean ====
section
/-!
DEFINITION. The operand forms: immediates with extensions (04_lines.md R77), line addresses (R79), scratchpad offsets (02_tile.md
R31), claims (R34), views (R36, R37) and the vector operand codes (R89, 06_vector.md R138).
-/
namespace Sys2Proof.Machine
open Sys2Proof

/-! ## Immediates and addresses -/

/-- The CI immediate of Table 4-3: 13 bits, 45 bits with one extension, 64 bits with two. -/
def imm13 (i : BitVec 13) (x : List W32) : W64 :=
  match x with
  | [] => i.signExtend 64
  | [e1] => (e1 ++ i).signExtend 64
  | e1 :: e2 :: _ => (e2.setWidth 19 ++ e1 ++ i).setWidth 64

/-- The MP, TP, XP and YP immediate of Table 4-3: 22 bits, or 54 with one extension. -/
def imm22 (i : BitVec 22) (x : List W32) : W64 :=
  match x with
  | [] => i.setWidth 64
  | e1 :: _ => (e1 ++ i).setWidth 64

/-- A scratchpad offset: bits [20:0] (R31). -/
def spadOff (a : W64) : Nat := a.toNat % spadSize

/-- The bank groups that `n` bytes from an offset touch. -/
def groupsOf (off n : Nat) : List (BitVec 2) :=
  if bankGroup off == bankGroup (off + (n - 1)) then [bankGroup off] else [bankGroup off, bankGroup (off + (n - 1))]

/-- The groups that commands of the tile hold claimed (R34, R217, R236). -/
def Tile.claims (t : Tile) : List (BitVec 2) :=
  (t.mx.cmds.flatMap fun c => c.claims) ++ (match t.xf.cmd with | some c => c.claims | none => [])

/-- Whether any of `n` bytes from a scratchpad offset lies in a claimed group. -/
def Tile.claimed (t : Tile) (off n : Nat) : Bool := (groupsOf off n).any fun g => t.claims.contains g

/-! ## Element types and masks -/

/-- The vector types of a ty field (R89). -/
inductive Ty where
  | f32 | f64 | i32 | bf16
  deriving DecidableEq, Repr

def Ty.ofBits (b : BitVec 2) : Ty :=
  match b.toNat with
  | 0 => .f32 | 1 => .f64 | 2 => .i32 | _ => .bf16

/-- The width of an element in bits; a bf16 pair is two elements. -/
def Ty.width : Ty → Nat
  | .f32 => 32 | .f64 => 64 | .i32 => 32 | .bf16 => 16

def Ty.num (t : Ty) : Nat := 4096 / t.width

/-- The mask bit that governs element `i` (R137). -/
def Ty.maskBit : Ty → Nat → Nat
  | .bf16, i => i / 2
  | _, i => i

/-- The elements of a vector, as numbers of `w` bits. -/
def elems (w n : Nat) (v : Vec) : List Nat := (List.range n).map fun i => v.toNat / 2 ^ (w * i) % 2 ^ w

/-- The vector with the given elements from the lowest, zero beyond. -/
def fromElems (w : Nat) (l : List Nat) : Vec := BitVec.ofNat 4096 (packList w l)

/-- The lanes that a mask enables for a type: both lanes of an included FP64 element. -/
def laneEn (ty : Ty) (mk : BitVec 128) : BitVec 128 :=
  match ty with
  | .f64 => BitVec.ofNat 128 (packList 2 ((List.range 64).map fun i => if mk.getLsbD i then 3 else 0))
  | _ => mk

/-- A mask register; mk0 reads all ones (R137). -/
def Tile.maskReg (t : Tile) (m : BitVec 3) : BitVec 128 := if m = 0 then BitVec.allOnes 128 else t.vec.mask[m.toNat]

/-! ## Views (R36, R37) -/

/-- Whether a register-space row exists for the tile: below 768, and below 512 without an accumulator window. -/
def rowExists (win : Bool) (r : Nat) : Bool := decide (r < 512) || (win && decide (r < 768))

/-- The row of v`i` through VVIEW; none when the reference fails the check. -/
def Tile.viewRow (t : Tile) (win : Bool) (i : Nat) : Option Nat :=
  let v := t.vec.vview.toNat
  let count := fld v 10 6
  let r := fld v 0 10 + i
  if i < count && decide (count < 49) && rowExists win r then some r else none

/-! ## Vector operand codes (R89, R138) -/

/-- What iota reads in a type. -/
def iotaOf : Ty → Vec
  | .f32 => fromElems 32 ((List.range 128).map fun (i : Nat) => (Num.round Num.fp32 .rne false (Num.ofInt (i : Int))).1)
  | .f64 => fromElems 64 ((List.range 64).map fun (i : Nat) => (Num.round Num.fp64 .rne false (Num.ofInt (i : Int))).1)
  | .i32 => fromElems 32 (List.range 128)
  | .bf16 => fromElems 16 ((List.range 256).map fun i => (Num.round Num.bf16 .rne false (Num.ofInt (i / 2 : Nat))).1)

/-- A broadcast register as 64-bit elements or as 32-bit lanes of bits [31:0]. -/
def bcastOf (wide : Bool) (v : W64) : Vec :=
  if wide then fromElems 64 (List.replicate 64 v.toNat) else fromElems 32 (List.replicate 128 (v.toNat % 2 ^ 32))

/-- A FIFO's entry number `n` from the head, when it can be popped in this TC. -/
def entryOf (q : List (Ent α)) (n : Nat) (now : W64) : Option α :=
  match q[n]? with
  | some e => if e.ready && e.born != now then some e.val else none
  | none => none

/-- The lanes of the slices beyond slice `x`. -/
def lanesBeyond (x : Nat) : BitVec 128 := BitVec.allOnes 128 <<< (8 * (x + 1))

/-- What a result on its way puts over row `r` for an instruction that issues now: the slices it has not reached read it when the
instruction's own wave is there (R134). -/
def Late.over (r : Nat) (v : Vec) (l : Late) : Vec :=
  match l.act with
  | .row q en x => if q == r then blend (en &&& lanesBeyond l.age) x v else v
  | .tap q _ _ x => if q == r then blend (lanesBeyond l.age) x v else v
  | _ => v

/-- A register-space row as the slices of an instruction that issues now read it, each in its own count (R134). -/
def Tile.rowOf (t : Tile) (r : Nat) : Vec := t.vec.late.foldl (Late.over r) (t.rsp.row r)

/-- A vector operand: its value, given what iota and a broadcast read; the `nth` entry for a stream. -/
def Tile.vread (t : Tile) (win : Bool) (iota : Vec) (bc : W64 → Vec) (nth : Nat) (c : BitVec 6) : Res Vec :=
  let n := c.toNat
  if n < 48 then
    match t.viewRow win n with
    | some r => .done (t.rowOf r)
    | none => .trap { code := cViewRange }
  else if n < 52 then
    let q := n % 4
    if (t.ld.stream[q]'(by omega)).control then .trap { code := cStreamState }
    else match entryOf (t.fifo.qv[q]'(by omega)) nth t.tcc with
      | some v => .done v
      | none => .hold
  else if n = 52 then .done 0
  else if n = 53 then .done iota
  else .done (bc (t.vec.b[(n + 2) % 4]'(by omega))[0])

/-- A register code that its view does not map. -/
def Tile.viewBad (t : Tile) (win : Bool) (c : BitVec 6) : Bool := decide (c.toNat < 48) && (t.viewRow win c.toNat).isNone

/-- A stream code whose stream is bound to the control strand. -/
def Tile.ctlBound (t : Tile) (c : BitVec 6) : Bool :=
  decide (48 ≤ c.toNat) && decide (c.toNat < 52) && (t.ld.stream[c.toNat % 4]'(by omega)).control

/-- The faults of the operand codes alone, before any hold (R139): STREAM-STATE for a source, VIEW-RANGE for a source or the
destination. -/
def Tile.vcheck (t : Tile) (win : Bool) (srcs : List (BitVec 6)) (dests : List (BitVec 6)) : Res Unit :=
  if srcs.any t.ctlBound then .trap { code := cStreamState }
  else if (srcs ++ dests).any (t.viewBad win) then .trap { code := cViewRange }
  else .done ()

/-- Pop the stream an operand code names (R43, R135). -/
def Tile.vpop (t : Tile) (c : BitVec 6) : Tile :=
  let n := c.toNat
  if 48 ≤ n ∧ n < 52 then
    let q := n % 4
    { t with fifo := { t.fifo with qv := t.fifo.qv.set q (t.fifo.qv[q]'(by omega)).tail (by omega) } }
  else t

/-- A destination FIFO has room for one reservation, or the instruction holds (R135, R136). -/
def Tile.vroom (t : Tile) (d : BitVec 6) : Res Unit :=
  let n := d.toNat
  if n < 48 then .done ()
  else if n < 52 then (if (t.fifo.ov[n % 4]'(by omega)).length < 8 then .done () else .hold)
  else (if (t.fifo.x[n % 4]'(by omega)).length < 8 then .done () else .hold)

/-- A reserved entry. -/
def reserve (q : List (Ent α)) (z : α) (tag : W64) : List (Ent α) := q ++ [{ val := z, ready := false, born := 0, tag := tag }]

/-- Deliver a vector result of latency `lat` to a destination code: lanes `en` of a register, or a whole entry whose excluded
lanes carry zero, pushed when slice 15's result would be visible; flags then too (R134, R136, R67). -/
def Tile.vdeliver (t : Tile) (win : Bool) (d : BitVec 6) (lat : Nat) (en : BitVec 128) (v : Vec) (fl : Num.Flags) : Tile :=
  let n := d.toNat
  let tag := (t.str .vector).count
  let t :=
    if n < 48 then
      match t.viewRow win n with
      | some r => { t with vec := { t.vec with recs := t.vec.recs ++ [{ rem := lat, act := .row r en v }] } }
      | none => t
    else
      let whole := blend en v 0
      if n < 52 then
        { t with fifo := { t.fifo with ov := t.fifo.ov.set (n % 4) (reserve (t.fifo.ov[n % 4]'(by omega)) 0 tag) (by omega) },
                 vec := { t.vec with recs := t.vec.recs ++ [{ rem := 15 + lat, act := .pushO (BitVec.ofNat 2 n) tag whole }] } }
      else
        { t with fifo := { t.fifo with x := t.fifo.x.set (n % 4) (reserve (t.fifo.x[n % 4]'(by omega)) 0 tag) (by omega) },
                 vec := { t.vec with recs := t.vec.recs ++ [{ rem := 15 + lat, act := .pushX (BitVec.ofNat 2 n) tag whole }] } }
  if fl = 0 then t
  else { t with vec := { t.vec with recs := t.vec.recs ++ [{ rem := 15 + lat, act := .flags fl }] } }

/-! ## Codebook expansion (R163, R166) -/

/-- Parts of an entry by kind (Table 6-7). -/
def kindParts (k : BitVec 6) : Nat :=
  match k.toNat with
  | 0 => 1 | 1 => 2 | 2 => 2 | 3 => 4 | 4 => 8 | 5 => 8 | _ => 1

/-- A byte of an E16F8 entry widened to BF16. -/
def widenF8 (f : Num.Fmt) (b : Nat) : Nat := (Num.round Num.bf16 .rne false (Num.decode f b)).1

/-- Part `p` of an entry of a kind. -/
def entryPart (k : BitVec 6) (e : BitVec 128) (p : Nat) : Nat :=
  let x := e.toNat
  if k.toNat < 4 then fld x (32 * p) 32
  else
    let f := if k.toNat = 4 then Num.e4m3 else Num.e5m2
    widenF8 f (fld x (16 * p) 8) + 65536 * widenF8 f (fld x (16 * p + 8) 8)

/-- The index that lane `l` of slice `s` uses in group `g`: from the slice's own 32 bytes. -/
def laneIndex (iw : BitVec 2) (w g : Nat) (a : Vec) (s l : Nat) : Nat :=
  let cap := if iw = 0 then 64 else 32
  let k := (g * (8 / w) + l / w) % cap
  let bytes := a.toNat / 2 ^ (256 * s)
  if iw = 0 then fld bytes (4 * k) 4 else if iw = 1 then fld bytes (8 * k) 6 else fld bytes (8 * k) 8

/-- Expand an index vector through a plane; none when an index is at or beyond COUNT (R168). -/
def expandVec (pl : Plane) (iw : BitVec 2) (g : Nat) (a : Vec) : Option Vec :=
  let w := kindParts pl.kind
  let ix := (List.range 128).map fun i => laneIndex iw w g a (i / 8) (i % 8)
  if ix.all fun i => decide (i < pl.count) then
    some (fromElems 32 ((List.range 128).map fun i =>
      let e := laneIndex iw w g a (i / 8) (i % 8)
      entryPart pl.kind (if h : e < 256 then pl.entries[e] else 0) (i % 8 % w)))
  else none

/-- A vector from its sixteen slices. -/
def ofSlices (f : Nat → Nat) : Vec := fromElems 256 ((List.range 16).map f)

/-- An index operand, read at issue at every slice as it stands there: registers and the slices' copies of a broadcast register as
results have reached them (R164, R166). -/
def Tile.vreadIx (t : Tile) (win : Bool) (iota : Vec) (c : BitVec 6) : Res Vec :=
  if c.toNat < 48 then
    match t.viewRow win c.toNat with
    | some r => .done (t.rsp.row r)
    | none => .trap { code := cViewRange }
  else if 54 ≤ c.toNat ∧ c.toNat < 58 then
    let b := t.vec.b[(c.toNat + 2) % 4]'(by omega)
    .done (ofSlices fun s => (bcastOf false (b[s]?.getD 0)).toNat / 2 ^ (256 * s) % 2 ^ 256)
  else t.vread win iota (bcastOf false) 0 c

/-- Operand a of the forms that expand under CBX (R167). -/
def Tile.vreadA (t : Tile) (win : Bool) (iota : Vec) (bc : W64 → Vec) (c : BitVec 6) : Res Vec :=
  if t.vec.mode.getLsbD 3 then
    (t.vreadIx win iota c).bind fun a =>
      match expandVec (t.sync.bank[(t.vec.mode.extractLsb' 4 2).toNat]).front (t.vec.mode.extractLsb' 6 2) 0 a with
      | some v => .done v
      | none => .trap { code := cCodebookIndex }
  else t.vread win iota bc 0 c

end Sys2Proof.Machine
end

