-- ==== Sys2Proof/Machine/Control.lean ====
section
/-!
DEFINITION. The control strand's integer, predicate, long-latency, spill and channel instructions (05_control.md R108-R123).
-/
namespace Sys2Proof.Machine
open Sys2Proof

/-! ## Shapes -/

/-- A guarded control instruction with an effect on the tile. -/
def ctl (p : BitVec 3) (n : BitVec 1) (f : Tile → Res Tile) (s : State) : Out :=
  .next (s.issueT .control fun t => if t.guard p n then f t else .done t)

/-- An ALU form: s[d] := a function of the tile's registers, latency 1 (R110, R111). -/
def alu (d : BitVec 5) (p : BitVec 3) (n : BitVec 1) (f : Tile → W64) (s : State) : Out :=
  ctl p n (fun t => .done (t.setS d (f t))) s

/-- A predicate form without guard (R114). -/
def plog (d : BitVec 3) (f : Tile → Bool) (s : State) : Out :=
  .next (s.issueT .control fun t => .done (t.setP d (f t)))

/-- A long-latency form: the result and its flags become visible in a latch after `lat` issue counts (R115). -/
def unit (lat : Nat) (dest : Latch) (p : BitVec 3) (n : BitVec 1) (f : Tile → W64 × Num.Flags) (s : State) : Out :=
  ctl p n (fun t => .done (t.pend lat dest (f t).1 (f t).2)) s

/-! ## Counting (Table 5-2) -/

/-- Leading zeros of an `n`-bit value. -/
def clz {n : Nat} (x : BitVec n) : Nat := if x = 0 then n else n - 1 - Nat.log2 x.toNat

/-- Trailing zeros, by the lowest bit set. -/
def ctz {n : Nat} (x : BitVec n) : Nat := if x = 0 then n else Nat.log2 (x &&& (0 - x)).toNat

/-- The number of 1 bits. -/
def popc {n : Nat} (x : BitVec n) : Nat := (List.range n).foldl (fun acc i => acc + (x.getLsbD i).toNat) 0

/-- Deliver a 32-bit result sign-extended (word forms, R110). -/
def word (x : W32) : W64 := x.signExtend 64

/-! ## Integer ALU (R110) -/

def execAdd (d a b : BitVec 5) (p : BitVec 3) (n : BitVec 1) (s : State) : Out := alu d p n (fun t => t.s a + t.s b) s
def execSub (d a b : BitVec 5) (p : BitVec 3) (n : BitVec 1) (s : State) : Out := alu d p n (fun t => t.s a - t.s b) s
def execAnd (d a b : BitVec 5) (p : BitVec 3) (n : BitVec 1) (s : State) : Out := alu d p n (fun t => t.s a &&& t.s b) s
def execOr (d a b : BitVec 5) (p : BitVec 3) (n : BitVec 1) (s : State) : Out := alu d p n (fun t => t.s a ||| t.s b) s
def execXor (d a b : BitVec 5) (p : BitVec 3) (n : BitVec 1) (s : State) : Out := alu d p n (fun t => t.s a ^^^ t.s b) s
def execAndn (d a b : BitVec 5) (p : BitVec 3) (n : BitVec 1) (s : State) : Out := alu d p n (fun t => t.s a &&& ~~~t.s b) s

/-- Shift amounts are y[5:0]. -/
def sh6 (y : W64) : Nat := y.toNat % 64

/-- Shift amounts of the word forms are y[4:0]. -/
def sh5 (y : W64) : Nat := y.toNat % 32

def execShl (d a b : BitVec 5) (p : BitVec 3) (n : BitVec 1) (s : State) : Out := alu d p n (fun t => t.s a <<< sh6 (t.s b)) s
def execShr (d a b : BitVec 5) (p : BitVec 3) (n : BitVec 1) (s : State) : Out := alu d p n (fun t => t.s a >>> sh6 (t.s b)) s
def execSra (d a b : BitVec 5) (p : BitVec 3) (n : BitVec 1) (s : State) : Out :=
  alu d p n (fun t => (t.s a).sshiftRight (sh6 (t.s b))) s
def execMin (d a b : BitVec 5) (p : BitVec 3) (n : BitVec 1) (s : State) : Out :=
  alu d p n (fun t => if (t.s a).slt (t.s b) then t.s a else t.s b) s
def execMax (d a b : BitVec 5) (p : BitVec 3) (n : BitVec 1) (s : State) : Out :=
  alu d p n (fun t => if (t.s a).slt (t.s b) then t.s b else t.s a) s
def execMinu (d a b : BitVec 5) (p : BitVec 3) (n : BitVec 1) (s : State) : Out :=
  alu d p n (fun t => if (t.s a).ult (t.s b) then t.s a else t.s b) s
def execMaxu (d a b : BitVec 5) (p : BitVec 3) (n : BitVec 1) (s : State) : Out :=
  alu d p n (fun t => if (t.s a).ult (t.s b) then t.s b else t.s a) s
def execClz (d a : BitVec 5) (p : BitVec 3) (n : BitVec 1) (s : State) : Out := alu d p n (fun t => BitVec.ofNat 64 (clz (t.s a))) s
def execCtz (d a : BitVec 5) (p : BitVec 3) (n : BitVec 1) (s : State) : Out := alu d p n (fun t => BitVec.ofNat 64 (ctz (t.s a))) s
def execPopc (d a : BitVec 5) (p : BitVec 3) (n : BitVec 1) (s : State) : Out :=
  alu d p n (fun t => BitVec.ofNat 64 (popc (t.s a))) s

/-- sel executes unconditionally: p and pn are its condition. -/
def execSel (d a b : BitVec 5) (p : BitVec 3) (n : BitVec 1) (s : State) : Out :=
  alu d 0 0 (fun t => if t.guard p n then t.s a else t.s b) s

def execAddW (d a b : BitVec 5) (p : BitVec 3) (n : BitVec 1) (s : State) : Out :=
  alu d p n (fun t => word (lo32 (t.s a) + lo32 (t.s b))) s
def execSubW (d a b : BitVec 5) (p : BitVec 3) (n : BitVec 1) (s : State) : Out :=
  alu d p n (fun t => word (lo32 (t.s a) - lo32 (t.s b))) s
def execShlW (d a b : BitVec 5) (p : BitVec 3) (n : BitVec 1) (s : State) : Out :=
  alu d p n (fun t => word (lo32 (t.s a) <<< sh5 (t.s b))) s
def execShrW (d a b : BitVec 5) (p : BitVec 3) (n : BitVec 1) (s : State) : Out :=
  alu d p n (fun t => word (lo32 (t.s a) >>> sh5 (t.s b))) s
def execSraW (d a b : BitVec 5) (p : BitVec 3) (n : BitVec 1) (s : State) : Out :=
  alu d p n (fun t => word ((lo32 (t.s a)).sshiftRight (sh5 (t.s b)))) s
def execClzW (d a : BitVec 5) (p : BitVec 3) (n : BitVec 1) (s : State) : Out :=
  alu d p n (fun t => BitVec.ofNat 64 (clz (lo32 (t.s a)))) s
def execCtzW (d a : BitVec 5) (p : BitVec 3) (n : BitVec 1) (s : State) : Out :=
  alu d p n (fun t => BitVec.ofNat 64 (ctz (lo32 (t.s a)))) s
def execPopcW (d a : BitVec 5) (p : BitVec 3) (n : BitVec 1) (s : State) : Out :=
  alu d p n (fun t => BitVec.ofNat 64 (popc (lo32 (t.s a)))) s

/-! ## Immediate forms (R111): the guard is p alone -/

def execAddi (d a : BitVec 5) (p : BitVec 3) (i : BitVec 13) (x : List W32) (s : State) : Out :=
  alu d p 0 (fun t => t.s a + imm13 i x) s
def execAndi (d a : BitVec 5) (p : BitVec 3) (i : BitVec 13) (x : List W32) (s : State) : Out :=
  alu d p 0 (fun t => t.s a &&& imm13 i x) s
def execOri (d a : BitVec 5) (p : BitVec 3) (i : BitVec 13) (x : List W32) (s : State) : Out :=
  alu d p 0 (fun t => t.s a ||| imm13 i x) s
def execXori (d a : BitVec 5) (p : BitVec 3) (i : BitVec 13) (x : List W32) (s : State) : Out :=
  alu d p 0 (fun t => t.s a ^^^ imm13 i x) s
def execShli (d a : BitVec 5) (p : BitVec 3) (n : BitVec 6) (s : State) : Out := alu d p 0 (fun t => t.s a <<< n.toNat) s
def execShri (d a : BitVec 5) (p : BitVec 3) (n : BitVec 6) (s : State) : Out := alu d p 0 (fun t => t.s a >>> n.toNat) s
def execSrai (d a : BitVec 5) (p : BitVec 3) (n : BitVec 6) (s : State) : Out :=
  alu d p 0 (fun t => (t.s a).sshiftRight n.toNat) s
def execLi (d : BitVec 5) (p : BitVec 3) (i : BitVec 13) (x : List W32) (s : State) : Out := alu d p 0 (fun _ => imm13 i x) s

/-- lea: the line address of its own line plus the displacement in lines. -/
def execLea (d : BitVec 5) (p : BitVec 3) (i : BitVec 13) (s : State) : Out :=
  alu d p 0 (fun t => lineAddr (t.pcOf .control) + (sext64 i <<< 5)) s

/-! ## Predicates (R112-R114) -/

def execCmp (d : BitVec 3) (c : BitVec 2) (a b : BitVec 5) (p : BitVec 3) (n : BitVec 1) (k : BitVec 7) (s : State) : Out :=
  ctl p n (fun t => .done (t.setP d (combine c (t.p d) (cmpCond k (t.s a) (t.s b))))) s
def execCmpi (d : BitVec 3) (c : BitVec 2) (a : BitVec 5) (k : BitVec 3) (i : BitVec 13) (s : State) : Out :=
  ctl 0 0 (fun t => .done (t.setP d (combine c (t.p d) (cmpCond (k.setWidth 7) (t.s a) (sext64 i))))) s
def execPand (d a b : BitVec 3) (s : State) : Out := plog d (fun t => t.p a && t.p b) s
def execPor (d a b : BitVec 3) (s : State) : Out := plog d (fun t => t.p a || t.p b) s
def execPxor (d a b : BitVec 3) (s : State) : Out := plog d (fun t => t.p a != t.p b) s
def execPandn (d a b : BitVec 3) (s : State) : Out := plog d (fun t => t.p a && !t.p b) s
def execPnot (d a : BitVec 3) (s : State) : Out := plog d (fun t => !t.p a) s

/-! ## The multiply and FP unit (R116, Table 5-5), latency 4 -/

/-- An integer result, which sets no flag. -/
def noFlags (x : W64) : W64 × Num.Flags := (x, 0)

def execMul (a b : BitVec 5) (p : BitVec 3) (n : BitVec 1) (l : BitVec 2) (s : State) : Out :=
  unit 4 (.m l) p n (fun t => noFlags (t.s a * t.s b)) s
def execMulh (a b : BitVec 5) (p : BitVec 3) (n : BitVec 1) (l : BitVec 2) (s : State) : Out :=
  unit 4 (.m l) p n (fun t => noFlags (BitVec.ofInt 64 ((t.s a).toInt * (t.s b).toInt / 2 ^ 64))) s
def execMulhu (a b : BitVec 5) (p : BitVec 3) (n : BitVec 1) (l : BitVec 2) (s : State) : Out :=
  unit 4 (.m l) p n (fun t => noFlags (BitVec.ofNat 64 ((t.s a).toNat * (t.s b).toNat / 2 ^ 64))) s
def execMulW (a b : BitVec 5) (p : BitVec 3) (n : BitVec 1) (l : BitVec 2) (s : State) : Out :=
  unit 4 (.m l) p n (fun t => noFlags (word (lo32 (t.s a) * lo32 (t.s b)))) s

/-- An FP operand of a register: bits [31:0] for FP32 (R116). -/
def fpVal (f : Num.Fmt) (x : W64) : Num.Val := Num.decode f (x.toNat % 2 ^ f.width)

/-- Deliver an exact value with the flags of its formation: an FP32 result has bits [63:32] zero. -/
def fpOut (f : Num.Fmt) (rm : Num.Rm) (v : Num.Val × Num.Flags) : W64 × Num.Flags :=
  let r := Num.round f rm false v.1
  (BitVec.ofNat 64 r.1, r.2 ||| v.2)

/-- A two-operand FP form rounded by RM. -/
def fp2 (f : Num.Fmt) (op : Num.Rm → Num.Val → Num.Val → Num.Val × Num.Flags) (a b : BitVec 5) (t : Tile) : W64 × Num.Flags :=
  fpOut f (t.rm .control) (op (t.rm .control) (fpVal f (t.s a)) (fpVal f (t.s b)))

def fpSub (rm : Num.Rm) (x y : Num.Val) : Num.Val × Num.Flags := Num.add rm x y.flip
def fpMul (_ : Num.Rm) (x y : Num.Val) : Num.Val × Num.Flags := Num.mul x y
def fpMin (_ : Num.Rm) (x y : Num.Val) : Num.Val × Num.Flags := (Num.minNum x y, 0)
def fpMax (_ : Num.Rm) (x y : Num.Val) : Num.Val × Num.Flags := (Num.maxNum x y, 0)

/-- x × y + s[c] with one rounding. -/
def fp3 (f : Num.Fmt) (a b c : BitVec 5) (t : Tile) : W64 × Num.Flags :=
  fpOut f (t.rm .control) (Num.fma (t.rm .control) (fpVal f (t.s a)) (fpVal f (t.s b)) (fpVal f (t.s c)))

def execFaddS (a b : BitVec 5) (p : BitVec 3) (n : BitVec 1) (l : BitVec 2) (s : State) : Out :=
  unit 4 (.m l) p n (fp2 Num.fp32 Num.add a b) s
def execFsubS (a b : BitVec 5) (p : BitVec 3) (n : BitVec 1) (l : BitVec 2) (s : State) : Out :=
  unit 4 (.m l) p n (fp2 Num.fp32 fpSub a b) s
def execFmulS (a b : BitVec 5) (p : BitVec 3) (n : BitVec 1) (l : BitVec 2) (s : State) : Out :=
  unit 4 (.m l) p n (fp2 Num.fp32 fpMul a b) s
def execFmaS (c a b : BitVec 5) (p : BitVec 3) (n : BitVec 1) (l : BitVec 2) (s : State) : Out :=
  unit 4 (.m l) p n (fp3 Num.fp32 a b c) s
def execFminS (a b : BitVec 5) (p : BitVec 3) (n : BitVec 1) (l : BitVec 2) (s : State) : Out :=
  unit 4 (.m l) p n (fp2 Num.fp32 fpMin a b) s
def execFmaxS (a b : BitVec 5) (p : BitVec 3) (n : BitVec 1) (l : BitVec 2) (s : State) : Out :=
  unit 4 (.m l) p n (fp2 Num.fp32 fpMax a b) s
def execFaddD (a b : BitVec 5) (p : BitVec 3) (n : BitVec 1) (l : BitVec 2) (s : State) : Out :=
  unit 4 (.m l) p n (fp2 Num.fp64 Num.add a b) s
def execFsubD (a b : BitVec 5) (p : BitVec 3) (n : BitVec 1) (l : BitVec 2) (s : State) : Out :=
  unit 4 (.m l) p n (fp2 Num.fp64 fpSub a b) s
def execFmulD (a b : BitVec 5) (p : BitVec 3) (n : BitVec 1) (l : BitVec 2) (s : State) : Out :=
  unit 4 (.m l) p n (fp2 Num.fp64 fpMul a b) s
def execFmaD (c a b : BitVec 5) (p : BitVec 3) (n : BitVec 1) (l : BitVec 2) (s : State) : Out :=
  unit 4 (.m l) p n (fp3 Num.fp64 a b c) s
def execFminD (a b : BitVec 5) (p : BitVec 3) (n : BitVec 1) (l : BitVec 2) (s : State) : Out :=
  unit 4 (.m l) p n (fp2 Num.fp64 fpMin a b) s
def execFmaxD (a b : BitVec 5) (p : BitVec 3) (n : BitVec 1) (l : BitVec 2) (s : State) : Out :=
  unit 4 (.m l) p n (fp2 Num.fp64 fpMax a b) s

/-! ### Conversions -/

def execCvtSD (a : BitVec 5) (p : BitVec 3) (n : BitVec 1) (l : BitVec 2) (s : State) : Out :=
  unit 4 (.m l) p n (fun t => fpOut Num.fp32 (t.rm .control) (fpVal Num.fp64 (t.s a), 0)) s
def execCvtDS (a : BitVec 5) (p : BitVec 3) (n : BitVec 1) (l : BitVec 2) (s : State) : Out :=
  unit 4 (.m l) p n (fun t => fpOut Num.fp64 (t.rm .control) (fpVal Num.fp32 (t.s a), 0)) s
def execCvtSI (a : BitVec 5) (p : BitVec 3) (n : BitVec 1) (l : BitVec 2) (s : State) : Out :=
  unit 4 (.m l) p n (fun t => fpOut Num.fp32 (t.rm .control) (Num.ofInt (lo32 (t.s a)).toInt, 0)) s
def execCvtIS (a : BitVec 5) (p : BitVec 3) (n : BitVec 1) (l : BitVec 2) (s : State) : Out :=
  unit 4 (.m l) p n (fun t =>
    let r := Num.toIntClamp .rtz (-2 ^ 31) (2 ^ 31 - 1) (fpVal Num.fp32 (t.s a))
    (BitVec.ofInt 64 r.1, r.2)) s
def execCvtDI (a : BitVec 5) (p : BitVec 3) (n : BitVec 1) (l : BitVec 2) (s : State) : Out :=
  unit 4 (.m l) p n (fun t => fpOut Num.fp64 (t.rm .control) (Num.ofInt (t.s a).toInt, 0)) s
def execCvtID (a : BitVec 5) (p : BitVec 3) (n : BitVec 1) (l : BitVec 2) (s : State) : Out :=
  unit 4 (.m l) p n (fun t =>
    let r := Num.toIntClamp .rtz (-2 ^ 63) (2 ^ 63 - 1) (fpVal Num.fp64 (t.s a))
    (BitVec.ofInt 64 r.1, r.2)) s

/-! ## The divide and square-root unit (Table 5-6) -/

/-- Signed quotient towards zero; all ones for divisor zero; −2^63 by −1 wraps to −2^63. -/
def sdivTotal (x y : W64) : W64 := if y = 0 then BitVec.allOnes 64 else x.sdiv y

/-- Signed remainder with the sign of x; x for divisor zero. -/
def sremTotal (x y : W64) : W64 := if y = 0 then x else x.srem y

def udivTotal (x y : W64) : W64 := if y = 0 then BitVec.allOnes 64 else x / y

def uremTotal (x y : W64) : W64 := if y = 0 then x else x % y

def execDiv (a b : BitVec 5) (p : BitVec 3) (n : BitVec 1) (l : BitVec 2) (s : State) : Out :=
  unit 22 (.d l) p n (fun t => noFlags (sdivTotal (t.s a) (t.s b))) s
def execDivu (a b : BitVec 5) (p : BitVec 3) (n : BitVec 1) (l : BitVec 2) (s : State) : Out :=
  unit 22 (.d l) p n (fun t => noFlags (udivTotal (t.s a) (t.s b))) s
def execRem (a b : BitVec 5) (p : BitVec 3) (n : BitVec 1) (l : BitVec 2) (s : State) : Out :=
  unit 22 (.d l) p n (fun t => noFlags (sremTotal (t.s a) (t.s b))) s
def execRemu (a b : BitVec 5) (p : BitVec 3) (n : BitVec 1) (l : BitVec 2) (s : State) : Out :=
  unit 22 (.d l) p n (fun t => noFlags (uremTotal (t.s a) (t.s b))) s

/-- Bits and flags as a latch result. -/
def latchBits (r : Nat × Num.Flags) : W64 × Num.Flags := (BitVec.ofNat 64 r.1, r.2)

def execFdivS (a b : BitVec 5) (p : BitVec 3) (n : BitVec 1) (l : BitVec 2) (s : State) : Out :=
  unit 14 (.d l) p n (fun t => latchBits (Num.divRound Num.fp32 (t.rm .control) false (fpVal Num.fp32 (t.s a)) (fpVal Num.fp32 (t.s b)))) s
def execFsqrtS (a : BitVec 5) (p : BitVec 3) (n : BitVec 1) (l : BitVec 2) (s : State) : Out :=
  unit 14 (.d l) p n (fun t => latchBits (Num.sqrtRound Num.fp32 (t.rm .control) (fpVal Num.fp32 (t.s a)))) s
def execFdivD (a b : BitVec 5) (p : BitVec 3) (n : BitVec 1) (l : BitVec 2) (s : State) : Out :=
  unit 22 (.d l) p n (fun t => latchBits (Num.divRound Num.fp64 (t.rm .control) false (fpVal Num.fp64 (t.s a)) (fpVal Num.fp64 (t.s b)))) s
def execFsqrtD (a : BitVec 5) (p : BitVec 3) (n : BitVec 1) (l : BitVec 2) (s : State) : Out :=
  unit 22 (.d l) p n (fun t => latchBits (Num.sqrtRound Num.fp64 (t.rm .control) (fpVal Num.fp64 (t.s a)))) s

/-! ## Latches (R117), latency 1 -/

def execMovM (d : BitVec 5) (l : BitVec 2) (p : BitVec 3) (n : BitVec 1) (s : State) : Out := alu d p n (fun t => t.bank.get (.m l)) s
def execMovD (d : BitVec 5) (l : BitVec 2) (p : BitVec 3) (n : BitVec 1) (s : State) : Out := alu d p n (fun t => t.bank.get (.d l)) s
def execMovL (d : BitVec 5) (l : BitVec 2) (p : BitVec 3) (n : BitVec 1) (s : State) : Out := alu d p n (fun t => t.bank.get (.l l)) s

/-! ## Spill slots (R118, R41) -/

/-- Whether a slot exists in the mode the strand runs in. -/
def Tile.slotOk (t : Tile) (i : BitVec 9) : Bool := if t.isSup then i.toNat < 64 else i.toNat < t.ctl.spillN

def Tile.spillGet (t : Tile) (i : BitVec 9) : W64 :=
  if t.isSup then t.ctl.sspill[i.toNat % 64]'(by omega) else t.ctl.spill[i.toNat]

def Tile.spillPut (t : Tile) (i : BitVec 9) (v : W64) : Tile :=
  if t.isSup then { t with ctl := { t.ctl with sspill := t.ctl.sspill.set (i.toNat % 64) v (by omega) } }
  else { t with ctl := { t.ctl with spill := t.ctl.spill.set i.toNat v } }

def execSpl (d : BitVec 5) (p : BitVec 3) (i : BitVec 9) (s : State) : Out :=
  ctl p 0 (fun t => if t.slotOk i then .done (t.setS d (t.spillGet i)) else .trap { code := cSpillRange }) s
def execSps (a : BitVec 5) (p : BitVec 3) (i : BitVec 9) (s : State) : Out :=
  ctl p 0 (fun t => if t.slotOk i then .done (t.spillPut i (t.s a)) else .trap { code := cSpillRange }) s

/-! ## Scratchpad scalar access (R119, R120) -/

/-- Extend the bytes of a kind code 0-6 (Table 4-11). -/
def extendKind (k : Nat) (v : Nat) : W64 :=
  match k with
  | 0 => BitVec.ofNat 64 (v % 256)
  | 1 => (BitVec.ofNat 8 v).signExtend 64
  | 2 => BitVec.ofNat 64 (v % 65536)
  | 3 => (BitVec.ofNat 16 v).signExtend 64
  | 4 => BitVec.ofNat 64 (v % 2 ^ 32)
  | 5 => (BitVec.ofNat 32 v).signExtend 64
  | _ => BitVec.ofNat 64 v

/-- The size in bytes of a kind code 0-6. -/
def kindSize (k : Nat) : Nat :=
  match k with
  | 0 | 1 => 1
  | 2 | 3 => 2
  | 4 | 5 => 4
  | _ => 8

/-- lsp: the bytes are read in the TC of issue and delivered to $l at count n + 4. -/
def execLsp (k : BitVec 3) (l : BitVec 2) (a : BitVec 5) (p : BitVec 3) (i : BitVec 13) (x : List W32) (s : State) : Out :=
  ctl p 0 (fun t =>
    let off := spadOff (t.s a + imm13 i x)
    let n := kindSize k.toNat
    if off % n != 0 then .trap { code := cMisaligned, faddr := BitVec.ofNat 64 off }
    else if t.claimed off n then .trap { code := cBankClaim, faddr := BitVec.ofNat 64 off }
    else .done (t.pend 4 (.l l) (extendKind k.toNat (t.spad0.readN off n)) 0)) s

/-- ssp: the low bytes of s[b] are written in the TC of issue.  Bytes both in the barrier region and in a claimed group report
BARRIER-REGION, in the order that R441 gives the access strands (DEDUCED, log entry 72). -/
def execSsp (b a : BitVec 5) (p : BitVec 3) (z : BitVec 2) (i : BitVec 11) (s : State) : Out :=
  ctl p 0 (fun t =>
    let off := spadOff (t.s a + sext64 i)
    let n := 2 ^ z.toNat
    if off % n != 0 then .trap { code := cMisaligned, faddr := BitVec.ofNat 64 off }
    else if barrierBase ≤ off then .trap { code := cBarrierRegion, faddr := BitVec.ofNat 64 off }
    else if t.claimed off n then .trap { code := cBankClaim, faddr := BitVec.ofNat 64 off }
    else .done { t with spad := t.spad.writeN off n (t.s b).toNat }) s

/-! ## Channels and queues (R122, R123) -/

/-- The head of a FIFO, when it can be popped in this TC (R43). -/
def headOf (q : List (Ent α)) (now : W64) : Option α :=
  match q with
  | e :: _ => if e.ready && e.born != now then some e.val else none
  | [] => none

/-- A pushed entry, poppable from the next issue cycle. -/
def pushEnt (q : List (Ent α)) (now : W64) (v : α) : List (Ent α) :=
  q ++ [{ val := v, ready := true, born := now, tag := 0 }]

/-- pop of a stream: q4-q7 whole entries, q0-q3 the next 64 bits of the head vector (R43). -/
def popStream (t : Tile) (q : BitVec 3) : Res (W64 × Tile) :=
  if h : q.toNat < 4 then
    if !(t.ld.stream[q.toNat]).control then .trap { code := cStreamState }
    else match headOf t.fifo.qv[q.toNat] t.tcc with
      | none => .hold
      | some v =>
        let i := t.fifo.qpos[q.toNat]
        let w := v.extractLsb' (64 * i) 64
        let f := if i + 1 < 64 then { t.fifo with qpos := t.fifo.qpos.set q.toNat (i + 1) }
          else { t.fifo with qpos := t.fifo.qpos.set q.toNat 0, qv := t.fifo.qv.set q.toNat t.fifo.qv[q.toNat].tail }
        .done (w, { t with fifo := f })
  else
    match headOf (t.fifo.qs[q.toNat - 4]'(by omega)) t.tcc with
    | none => .hold
    | some w => .done (w, { t with fifo := { t.fifo with
        qs := t.fifo.qs.set (q.toNat - 4) (t.fifo.qs[q.toNat - 4]'(by omega)).tail (by omega) } })

def execPopStream (d b : BitVec 5) (p : BitVec 3) (n : BitVec 1) (s : State) : Out :=
  ctl p n (fun t => (popStream t (b.setWidth 3)).map fun r => r.2.setS d r.1) s

def execPopChannel (d b : BitVec 5) (p : BitVec 3) (n : BitVec 1) (s : State) : Out :=
  ctl p n (fun t =>
    let i := b.toNat % 2
    match headOf (t.fifo.e[i]'(by omega)) t.tcc with
    | none => .hold
    | some w => .done ({ t with fifo := { t.fifo with e := t.fifo.e.set i (t.fifo.e[i]'(by omega)).tail (by omega) } }.setS d w)) s

/-- push k0-k4: 16 entries each. -/
def execPushK (a b : BitVec 5) (p : BitVec 3) (n : BitVec 1) (s : State) : Out :=
  ctl p n (fun t =>
    let i := b.toNat % 5
    let q := t.fifo.k[i]'(by omega)
    if 16 ≤ q.length then .hold
    else .done { t with fifo := { t.fifo with k := t.fifo.k.set i (pushEnt q t.tcc (t.s a)) (by omega) } }) s

/-- push o4-o5. -/
def execPushO (a b : BitVec 5) (p : BitVec 3) (n : BitVec 1) (s : State) : Out :=
  ctl p n (fun t =>
    let i := b.toNat % 2
    let q := t.fifo.os[i]'(by omega)
    if 16 ≤ q.length then .hold
    else .done { t with fifo := { t.fifo with os := t.fifo.os.set i (pushEnt q t.tcc (t.s a)) (by omega) } }) s

/-- push j0-j1. -/
def execPushJ (a b : BitVec 5) (p : BitVec 3) (n : BitVec 1) (s : State) : Out :=
  ctl p n (fun t =>
    let i := b.toNat % 2
    let q := t.fifo.j[i]'(by omega)
    if 16 ≤ q.length then .hold
    else .done { t with fifo := { t.fifo with j := t.fifo.j.set i (pushEnt q t.tcc (t.s a)) (by omega) } }) s

end Sys2Proof.Machine
end

