-- ==== Sys2Proof/Machine/Sync.lean ====
section
/-!
DEFINITION. The common operations of every strand (04_lines.md Table 4-13) and the sync objects they act on (15_barrier.md
R342-R346, R355; 14_group.md R330).
-/
namespace Sys2Proof.Machine
open Sys2Proof

/-- The strand whose turn it is, from the phase of the turn. -/
def State.strandHere (s : State) : Strand :=
  match s.turn.phase with
  | 18 => .control
  | 19 => .load
  | 20 => .store
  | n => (Strand.ofPos (if n < 9 then n - 1 else n - 10)).getD .control

def Tile.sem (t : Tile) (i : BitVec 6) : BitVec 16 := t.sync.sem[i.toNat]

/-- Take `c` from Sem[i] when it holds as many (wait, R342). -/
def Tile.semTake (t : Tile) (i : BitVec 6) (c : BitVec 16) : Option Tile :=
  if c.toNat ≤ (t.sem i).toNat then
    some { t with sync := { t.sync with sem := t.sync.sem.set i.toNat (t.sem i - c) } }
  else none

/-- The await of a command: 63 means none (R46). -/
def Tile.takeAwait (t : Tile) (w : BitVec 6) : Option Tile :=
  if w == 63 then some t else t.semTake w 1

/-- The raise of a command, or the restoring of its await. -/
def Tile.raise (t : Tile) (r : BitVec 6) : Tile := if r == 63 then t else t.semAdd r 1

/-! ## Slot rings (R344-R346) -/

/-- rrel: RP := (RP + c) mod COUNT, FILL := FILL − c. -/
def Ring.release (r : Ring) (c : Nat) : Ring := { r with rp := (r.rp + c) % r.count, fill := r.fill - c }

def Tile.ringOf (t : Tile) (i : BitVec 6) : Option Ring := t.sync.ring[i.toNat % 16]'(by omega)

def Tile.setRing (t : Tile) (i : BitVec 6) (r : Ring) : Tile :=
  { t with sync := { t.sync with ring := t.sync.ring.set (i.toNat % 16) (some r) (by omega) } }

def Tile.relRing (t : Tile) (i : BitVec 6) (c : BitVec 16) : Tile :=
  match t.ringOf i with
  | some r => t.setRing i (r.release c.toNat)
  | none => t

/-! ## Pending sigs and rrels (R198, R346) -/

/-- Perform, in order, the pending operations of a list whose accesses are done: none issued before `before` is outstanding. -/
def performSigs (oldest : Nat) : List PendingSig → Tile → Tile × List PendingSig
  | [], t => (t, [])
  | g :: rest, t =>
    if g.before ≤ oldest then
      performSigs oldest rest (if g.rel then t.relRing g.id g.count else t.semAdd g.id g.count)
    else (t, g :: rest)

/-- The sequence number of the oldest load not delivered. -/
def LoadState.oldest (l : LoadState) : Nat := match l.pending with | p :: _ => p.seq | [] => l.seq

/-- The sequence number of the oldest store not performed. -/
def StoreState.oldest (l : StoreState) : Nat := l.pending.foldl (fun m p => min m p.seq) l.seq

/-- Commands of the matrix strand that have reached their raise points, counted from the first. -/
def MatrixState.oldest (m : MatrixState) : Nat := m.seq - (m.cmds.filter fun c => !c.followOn && !c.raised).length

def TransformState.oldest (x : TransformState) : Nat := x.seq - (if x.cmd.any (fun c => !c.raised) then 1 else 0)

def SendState.oldest (x : SendState) : Nat := x.seq - (if x.cmd.any (fun c => !c.raised) then 1 else 0)

def RecvState.oldest (x : RecvState) : Nat := x.seq - (if x.cmd.any (fun c => !c.raised) then 1 else 0)

/-- Perform the pending sigs and rrels of strand `k` whose conditions are met. -/
def Tile.pendingSigs (t : Tile) (k : Strand) : Tile :=
  match k with
  | .load => let r := performSigs t.ld.oldest t.ld.sigs t; { r.1 with ld := { r.1.ld with sigs := r.2 } }
  | .store => let r := performSigs t.st.oldest t.st.sigs t; { r.1 with st := { r.1.st with sigs := r.2 } }
  | .matrix => let r := performSigs t.mx.oldest t.mx.sigs t; { r.1 with mx := { r.1.mx with sigs := r.2 } }
  | .transform => let r := performSigs t.xf.oldest t.xf.sigs t; { r.1 with xf := { r.1.xf with sigs := r.2 } }
  | .send => let r := performSigs t.tx.oldest t.tx.sigs t; { r.1 with tx := { r.1.tx with sigs := r.2 } }
  | .receive => let r := performSigs t.rx.oldest t.rx.sigs t; { r.1 with rx := { r.1.rx with sigs := r.2 } }
  | _ => t

/-- PENDING_SIG_PERFORM: a sig or rrel whose conditions were pending is performed. -/
def execPendingSigPerform (t : TileNo) (k : Strand) (s : State) : Out := .next (s.modTile t (·.pendingSigs k))

/-- Put a sig or rrel on its strand's pending list. -/
def Tile.deferSig (t : Tile) (k : Strand) (rel : Bool) (i : BitVec 6) (c : BitVec 16) : Tile :=
  let g (n : Nat) : PendingSig := { rel := rel, id := i, count := c, before := n }
  let t := match k with
    | .load => { t with ld := { t.ld with sigs := t.ld.sigs ++ [g t.ld.seq] } }
    | .store => { t with st := { t.st with sigs := t.st.sigs ++ [g t.st.seq] } }
    | .matrix => { t with mx := { t.mx with sigs := t.mx.sigs ++ [g t.mx.seq] } }
    | .transform => { t with xf := { t.xf with sigs := t.xf.sigs ++ [g t.xf.seq] } }
    | .send => { t with tx := { t.tx with sigs := t.tx.sigs ++ [g t.tx.seq] } }
    | .receive => { t with rx := { t.rx with sigs := t.rx.sigs ++ [g t.rx.seq] } }
    | _ => t
  t.pendingSigs k

/-! ## The vector strand's sig (R162) -/

/-- Counts until every older vector result is visible at every slice and every push has entered its FIFO. -/
def VectorState.settle (v : VectorState) : Nat :=
  let r := v.recs.foldl (fun m r => max m (match r.act with
    | .row _ _ _ | .tap _ _ _ _ | .mask _ _ _ | .bcast _ _ => r.rem + 15
    | _ => r.rem)) 0
  v.late.foldl (fun m u => max m (15 - u.age)) r

/-- sig: at once on the control strand and on the command strands; pending on the vector strand and the access strands. -/
def Tile.sigOp (t : Tile) (k : Strand) (i : BitVec 6) (c : BitVec 16) : Tile :=
  match k with
  | .vector =>
    let n := t.vec.settle
    if n = 0 then t.semAdd i c
    else { t with vec := { t.vec with recs := t.vec.recs ++ [{ rem := n, act := .sem i c }] } }
  | .load => t.deferSig .load false i c
  | .store => t.deferSig .store false i c
  | _ => t.semAdd i c

/-- SIG: Sem[i] rises by c, saturating, when its strand's chapter states. -/
def execSig (i : BitVec 6) (c : BitVec 16) (s : State) : Out :=
  let k := s.strandHere
  .next (s.issueT k fun t => .done (t.sigOp k i c))

/-- WAIT: holds until Sem[i] ≥ c, then subtracts c (R342). -/
def execWait (i : BitVec 6) (c : BitVec 16) (s : State) : Out :=
  .next (s.issueT s.strandHere fun t =>
    match t.semTake i c with
    | some t' => .done t'
    | none => .hold)

/-- FWAIT: holds until f[i] ≥ c, and changes nothing (R330). -/
def execFwait (i : BitVec 6) (c : BitVec 16) (s : State) : Out :=
  .next (s.issueT s.strandHere fun t =>
    if c.toNat ≤ (t.sync.flag[i.toNat % 16]'(by omega)).toNat then .done t else .hold)

/-- RAWAIT: holds until FILL ≥ c, and changes nothing (R346). -/
def execRawait (i : BitVec 6) (c : BitVec 16) (s : State) : Out :=
  .next (s.issueT s.strandHere fun t =>
    match t.ringOf i with
    | none => .trap { code := cIllegalInsn }
    | some r =>
      if r.count < c.toNat then .trap { code := cIllegalInsn }
      else if c.toNat ≤ r.fill then .done t else .hold)

/-- RREL: performed once its strand has finished with the older data (R346). -/
def execRrel (i : BitVec 6) (c : BitVec 16) (s : State) : Out :=
  let k := s.strandHere
  .next (s.issueT k fun t =>
    match t.ringOf i with
    | none => .trap { code := cIllegalInsn }
    | some r =>
      if r.count < c.toNat || r.fill < c.toNat then .trap { code := cIllegalInsn }
      else match k with
        | .control | .vector => .done (t.relRing i c)
        | _ => .done (t.deferSig k true i c))

/-! ## halt (R355, R133) -/

/-- The strand ends: its later lanes are discarded; on the control strand pending results are dropped and a branch left unissued is
not taken (R78, R133). -/
def Tile.haltStrand (t : Tile) (k : Strand) : Tile :=
  if k == .control && t.isSup then
    { t with ctl := { t.ctl with squeue := [] }, sfetch := { t.sfetch with ended := true } }.setBank { t.bank with recs := [] }
  else
    let pc := t.pcOf k
    let t := if k == .control then t.setBank { t.bank with recs := [] } else t
    let t := if k == .control then
        match t.fetch.branch with
        | some b => if b.issued.isNone then { t with fetch := { t.fetch.resolve b with notBefore := t.tcc + 1 } } else t
        | none => t
      else t
    t.modStr k fun st => { st with halted := true, queue := [], pc := pc }

end Sys2Proof.Machine
end

