-- ==== Sys2Proof/Machine/Branch.lean ====
section
/-!
DEFINITION. Branches (05_control.md R124, 04_lines.md R78, R79, R83), events (R126), trap, eret, tstop and tgo (R131, R132,
11_context.md R262-R264), and the trap-entry event (R257).
-/
namespace Sys2Proof.Machine
open Sys2Proof

/-! ## Branches -/

/-- The branch instruction has issued, with its target when taken: it resolves three TCs later (R78).  A target at or beyond line
`lines` is ILLEGAL-LINE on the control strand right after the branch, and fetch stops (R79, R100). -/
def Tile.branch (t : Tile) (lines : Nat) (tgt : Option W64) : Tile :=
  let line := lineAddr (t.pcOf .control)
  let bad := match tgt with | some a => decide (lines ≤ a.toNat / 32) | none => false
  let skip := match t.fetch.branch with | some b => b.skip | none => 0
  let b : PendingBranch := { line := line, skip := skip, issued := some (t.tcc, tgt) }
  let stop (a : W64) : QEntry :=
    { kind := .badLine a, word := 0, exts := [], misplaced := false, pc := a + 4, ix := Vector.replicate 6 0 }
  if t.isSup then
    if bad then { t with sfetch := { t.sfetch with addr := tgt.getD 0, branch := none, stopped := true },
                         ctl := { t.ctl with squeue := t.ctl.squeue ++ [stop (tgt.getD 0)] } }
    else { t with sfetch := { t.sfetch with branch := some b } }
  else if bad then
    ({ t with fetch := { (t.fetch.endLevels (tgt.getD 0)) with addr := tgt.getD 0, branch := none, stopped := true } }).modStr .control fun st =>
      { st with queue := st.queue ++ [stop (tgt.getD 0)] }
  else { t with fetch := { t.fetch with branch := some b } }

/-- The number of lines of the code store of the mode (R74, R256). -/
def State.codeLines (s : State) (t : Tile) : Nat := if t.isSup then min 512 s.supCode.length else t.fetch.code.length

/-- The target of br and call: the branch's line plus the displacement in lines. -/
def brTarget (t : Tile) (d : BitVec 22) : W64 := lineAddr (t.pcOf .control) + (sext64 d <<< 5)

/-- The return line address of call and jrl. -/
def linkOf (t : Tile) : W64 := lineAddr (t.pcOf .control) + 32

def execBr (p : BitVec 3) (n : BitVec 1) (d : BitVec 22) (s : State) : Out :=
  .next (s.issueT .control fun t => .done (t.branch (s.codeLines t) (if t.guard p n then some (brTarget t d) else none)))

def execCall (p : BitVec 3) (n : BitVec 1) (d : BitVec 22) (s : State) : Out :=
  .next (s.issueT .control fun t =>
    if t.guard p n then .done ((t.branch (s.codeLines t) (some (brTarget t d))).setS 31 (linkOf t))
    else .done (t.branch (s.codeLines t) none))

/-- A register target; a nonzero bit [4:0] raises MISALIGNED and does not branch (R79). -/
def jumpReg (a : BitVec 5) (link : Option (BitVec 5)) (p : BitVec 3) (n : BitVec 1) (s : State) : Out :=
  .next (s.issueT .control fun t =>
    if t.guard p n then
      let tgt := t.s a
      if tgt.toNat % 32 != 0 then .trap { code := cMisaligned, faddr := tgt }
      else
        let t' := t.branch (s.codeLines t) (some tgt)
        .done (match link with | some d => t'.setS d (linkOf t) | none => t')
    else .done (t.branch (s.codeLines t) none))

def execJr (a : BitVec 5) (p : BitVec 3) (n : BitVec 1) (s : State) : Out := jumpReg a none p n s

/-- jrl reads s[a] before it writes s[d]. -/
def execJrl (d a : BitVec 5) (p : BitVec 3) (n : BitVec 1) (s : State) : Out := jumpReg a (some d) p n s

/-- BRANCH_RESOLVE: three TCs after it issued, a branch resolves; fetch goes on in the next TC (R78). -/
def execBranchResolve (t : TileNo) (s : State) : Out :=
  .next (s.modTile t fun x =>
    if x.isSup then
      match x.sfetch.branch with
      | some b => match b.issued with
        | some (n, tgt) =>
          if 3 ≤ (x.tcc - n).toNat then
            ({ x with sfetch := { x.sfetch with branch := none, addr := tgt.getD (b.line + 32), notBefore := x.tcc + 1 } } : Tile).traceBr s.fcc
              (tgt.getD (b.line + 32)) tgt.isSome
          else x
        | none => x
      | none => x
    else
      match x.fetch.branch with
      | some b => match b.issued with
        | some (n, tgt) =>
          if 3 ≤ (x.tcc - n).toNat then
            ({ x with fetch := { x.fetch.resolve b with notBefore := x.tcc + 1 } } : Tile).traceBr s.fcc (x.fetch.resolve b).addr tgt.isSome
          else x
        | none => x
      | none => x)

/-! ## Events (R126, R127) -/

def execEvset (e : BitVec 8) (s : State) : Out :=
  .next (s.issue .control fun s => .done { s with events := s.events ++ [EventOp.set s.cur.ctx s.cur.launch e] })

def execEvclr (e : BitVec 8) (s : State) : Out :=
  .next (s.issue .control fun s => .done { s with events := s.events ++ [EventOp.clear s.cur.ctx s.cur.launch e] })

/-- The wait of the mode the strand runs in. -/
def Tile.setWait (t : Tile) (w : Option CtlWait) : Tile :=
  { t with ctl := if t.isSup then { t.ctl with swait := w } else { t.ctl with wait := w } }

def Tile.waitOf (t : Tile) : Option CtlWait := if t.isSup then t.ctl.swait else t.ctl.wait

/-- evtst issues and then holds the control strand until the Hearth returns the bit. -/
def execEvtst (d : BitVec 5) (e : BitVec 8) (s : State) : Out :=
  .next (s.issue .control fun s =>
    let s := { s with events := s.events ++ [EventOp.test s.cur.ctx s.here s.cur.isSup e] }
    .done (s.modTile s.here (·.setWait (some (.event d)))))

/-- A result that another agent returns to the control strand in a given mode. -/
def Tile.answer (t : Tile) (sup : Bool) (d : BitVec 5) (v : W64) : Tile :=
  if sup then { t with ctl := { t.ctl with sup := t.ctl.sup.put d v, swait := none } }
  else { t with ctl := { t.ctl with user := t.ctl.user.put d v, wait := none } }

/-- Set or clear a bit of an event vector. -/
def setBit (x : BitVec 256) (i : Nat) (b : Bool) : BitVec 256 :=
  if b then x ||| BitVec.ofNat 256 (2 ^ i) else x &&& ~~~BitVec.ofNat 256 (2 ^ i)

/-- EVENT_PERFORM: the Hearth performs the oldest event operation that has arrived. -/
def execEventPerform (s : State) : Out :=
  .next (match s.events with
    | [] => s
    | .set c _ e :: rest => ({ s with events := rest }).modCtx c fun x => { x with events := setBit x.events e.toNat true }
    | .clear c _ e :: rest => ({ s with events := rest }).modCtx c fun x => { x with events := setBit x.events e.toNat false }
    | .test c t sup e :: rest =>
      let bit := (s.ctx c).events.getLsbD e.toNat
      ({ s with events := rest }).modTile t fun x =>
        match (if sup then x.ctl.swait else x.ctl.wait) with
        | some (.event d) => x.answer sup d (if bit then 1 else 0)
        | _ => x)

/-! ## trap, eret, tstop, tgo -/

/-- trap: SOFTWARE-TRAP with its code; the trap has retired, so EPC is the next instruction (R262). -/
def execTrap (p : BitVec 3) (i : BitVec 13) (s : State) : Out :=
  .next (
    let t := s.here
    let x := s.cur.tick .control
    if x.guard p 0 then
      let f : Trap := { code := cSoftwareTrap, tcode := i.toNat }
      if x.isSup then s.fault t .control f
      else s.setTile t ((((x.retire .control).faultAt .control f (x.pcOf .control)).traceEntry s.fcc).trapEntry .control)
    else s.issueT .control .done)

/-- eret (R263): supervisor only. -/
def execEret (s : State) : Out :=
  .next (
    let t := s.here
    if s.cur.isSup then
      s.setTile t (((s.cur.tick .control).eret).modStr .control fun st => { st with used := true })
    else s.fault t .control { code := cPrivileged })

/-- A stopped strand resumes at its PC register (R264). -/
def Tile.stopStrand (t : Tile) (k : Strand) : Tile :=
  let st := t.str k
  if st.halted || st.stopped then t else t.modStr k fun st => { st with stopped := true, pc := t.pcOf k }

def Tile.startStrand (t : Tile) (k : Strand) : Tile :=
  t.modStr k fun st =>
    if st.stopped && !st.halted then { st with stopped := false, reached := none, queue := dropTo st.queue st.pc } else st

/-- The strands named by a mask, in position order. -/
def maskStrands (m : W64) : List Strand := Strand.all.filter fun k => m.getLsbD k.pos

/-- The store strand runs an issued rel or barr to its end before it stops (R185, R351). -/
def Tile.storeBusy (t : Tile) : Bool :=
  match t.st.hold with
  | some (.rel ..) => true
  | some (.barr ..) => true
  | _ => false

/-- tstop: every named strand stops at its next boundary, and the control strand is held until all have: a store strand with an issued
rel or barr runs it to its end first, and the others stop at once (R264). -/
def execTstop (a : BitVec 5) (s : State) : Out :=
  .next (
    if !s.cur.isSup then s.fault s.here .control { code := cPrivileged }
    else s.issueT .control fun t =>
      let m := t.s a
      if m.getLsbD 0 then .trap { code := cIllegalInsn }
      else if (maskStrands m).contains .store && t.storeBusy then
        .stay fun s => s.modTile s.here fun x => ((maskStrands m).filter (· != .store)).foldl Tile.stopStrand x
      else .done ((maskStrands m).foldl Tile.stopStrand t))

/-- tgo: every named strand that is stopped and not halted resumes at its PC register. -/
def execTgo (a : BitVec 5) (s : State) : Out :=
  .next (
    if !s.cur.isSup then s.fault s.here .control { code := cPrivileged }
    else s.issueT .control fun t =>
      let m := t.s a
      if m.getLsbD 0 then .trap { code := cIllegalInsn }
      else .done ((maskStrands m).foldl Tile.startStrand t))

/-! ## TRAP_ENTRY (R257-R259, R277) -/

/-- At a boundary of user control: the lowest strand with a fault that reached it is reported, or a pending DEBUG-ATTN. -/
def Tile.boundary (t : Tile) : Tile :=
  if t.phase != .running then t
  else match t.lowestReached with
    | some k => t.trapEntry k
    | none =>
      if t.attn then
        let f : Trap := { code := cDebugAttn, async := true }
        let w : FaultWin := { cause := f.word, fpc := t.pcOf .control, faddr := 0 }
        (t.modStr .control fun st => { st with fault := w }).trapEntry .control
      else t

/-- TRAP_ENTRY: the faults that have reached the control strand of a tile are taken. -/
def execTrapEntry (t : TileNo) (s : State) : Out :=
  .next (s.modTile t fun x =>
    if x.phase == .running && (x.lowestReached.isSome || x.attn) then (x.traceEntry s.fcc).boundary else x)

end Sys2Proof.Machine
end

