-- ==== Sys2Proof/Machine/Fetch.lean ====
section
/-!
DEFINITION. Fetch: lines, lanes, extensions, ILLEGAL-LINE, hardware loops and the directives (04_lines.md R72-R84, R99, R100;
11_context.md R256).
-/
namespace Sys2Proof.Machine
open Sys2Proof

/-! ## The lanes of a line -/

/-- What a line carries: the lanes for strands in lane order, the extensions without a target (R76), and the directive lanes. -/
structure Lanes where
  insns : List (Strand × QEntry)
  orphans : List QEntry
  dirs : List W32
  deriving DecidableEq, Repr

/-- Add an extension to the newest instruction, which is misplaced when `gap` lanes stand between (R76). -/
def addExt (ls : List (Strand × QEntry)) (w : W32) (gap : Bool) : List (Strand × QEntry) :=
  match ls.reverse with
  | (k, e) :: rest =>
    (rest.reverse) ++ [(k, if gap then { e with misplaced := true } else { e with exts := e.exts ++ [w] })]
  | [] => []

/-- Take the lanes from `n` on: `pc` is the line address, `gap` says that the last lane was empty or a directive. -/
def takeLanes (l : BitVec 256) (pc : W64) (ix : Vector (BitVec 16) 6) : List Nat → Bool → Lanes → Lanes
  | [], _, acc => acc
  | n :: rest, gap, acc =>
    let w := lineWord l n
    let tag := lineTag l n
    let at_ : W64 := pc + BitVec.ofNat 64 (4 * n)
    match tagStrand tag with
    | some k =>
      let e : QEntry := { kind := .insn, word := w, exts := [], misplaced := false, pc := at_, ix := ix }
      takeLanes l pc ix rest false { acc with insns := acc.insns ++ [(k, e)] }
    | none =>
      if tag = 0xE then
        if acc.insns.isEmpty then
          let e : QEntry := { kind := .badExt, word := w, exts := [], misplaced := false, pc := at_, ix := ix }
          takeLanes l pc ix rest gap { acc with orphans := acc.orphans ++ [e] }
        else takeLanes l pc ix rest gap { acc with insns := addExt acc.insns w gap }
      else if tag = 0xF then takeLanes l pc ix rest true { acc with dirs := acc.dirs ++ [w] }
      else takeLanes l pc ix rest true acc

/-- The lanes of a line. -/
def lanesOf (l : BitVec 256) (pc : W64) (ix : Vector (BitVec 16) 6) : Lanes :=
  takeLanes l pc ix [1, 2, 3, 4, 5, 6, 7] false { insns := [], orphans := [], dirs := [] }

/-- A control word that is a br, call, jr or jrl. -/
def isBranchWord (w : W32) : Bool :=
  match decodeControl w [] with
  | some (.br ..) | some (.call ..) | some (.jr ..) | some (.jrl ..) => true
  | _ => false

/-- The rules of a line that hold whatever the loops (R72, R78, R80, R84, R99). -/
def lineOk (l : BitVec 256) : Bool :=
  let ns := [1, 2, 3, 4, 5, 6, 7]
  let ls := lanesOf l 0 (Vector.replicate 6 0)
  let ctls := (ls.insns.filter fun e => e.1 == .control).map fun e => isBranchWord e.2.word
  let dirs := ls.dirs.map decodeDirective
  (l.extractLsb' 1 3 == 0)
    && ns.all (fun n => let t := (lineTag l n).toNat; !(9 ≤ t && t ≤ 13) && (t != 0 || lineWord l n == 0))
    && dirs.all Option.isSome && decide (dirs.length ≤ 1)
    && (if dirs.contains (some .nopl) then ls.insns.isEmpty && ls.orphans.isEmpty else true)
    && !(ctls.dropLast.any fun b => b)

/-! ## Hardware loops (R80-R82) -/

/-- The count of a LOOP: immediate, or of the loop table's temporal entry (R81). -/
def Fetch.loopCount (f : Fetch) (l : BitVec 3) (src : BitVec 1) (c : BitVec 12) : Option Nat :=
  match f.table[l.toNat]? with
  | some e => if e.kind != 0 then none else if src = 0 then some (c.toNat + 1) else if c = 0 then some e.count.toNat else none
  | none => none

/-- Whether line `n` may open level `l` over a body of `len` lines (R81). -/
def Fetch.loopOk (f : Fetch) (n : Nat) (l : BitVec 3) (len : Nat) : Bool :=
  decide (l.toNat < 6) && decide (len ≠ 0) && decide (n + len < f.code.length)
    && (List.finRange 6).all fun i => !f.level[i].active
      || (decide (i.val < l.toNat) && decide (n + len < f.level[i].first + f.level[i].length))

/-- Open level `l` after line `n`.  A COUNT of 0 opens nothing, and the level's index stays as it was: R82 gives it no value, for count − 1
does not exist (DESIGN CHOICE, log entry 75). -/
def Fetch.openLoop (f : Fetch) (n : Nat) (l : BitVec 3) (len count : Nat) : Fetch :=
  if count = 0 then f
  else if h : l.toNat < 6 then
    { f with level := f.level.set l.toNat { active := true, ix := 0, count := count, first := n + 1, length := len } }
  else f

/-! ## Delivery -/

/-- The depth of an instruction queue (R22). -/
def queueDepth : Nat := 16

/-- The instructions in a queue: the place of a fault of fetch is no entry of the hardware's queue (R73, R76). -/
def entriesIn (q : List QEntry) : Nat := (q.filter fun e => e.kind == .insn).length

/-- Append entries to a user queue. -/
def Tile.deliver (t : Tile) (k : Strand) (es : List QEntry) : Tile :=
  if (t.str k).halted then t else t.modStr k fun st => { st with queue := st.queue ++ es }

/-- Every strand that the line carries lanes for has room for all of them (R75); a halted strand takes none. -/
def Tile.roomFor (t : Tile) (ls : Lanes) : Bool :=
  Strand.all.all fun k =>
    (t.str k).halted ||
      decide (entriesIn (t.str k).queue + (ls.insns.filter fun e => e.1 == k).length ≤ queueDepth) ||
      !ls.insns.any (fun e => e.1 == k)

/-- The control strand takes ILLEGAL-LINE after what was delivered before (R100); a halted one has nothing before it. -/
def Tile.illegalLine (t : Tile) (addr : W64) : Tile :=
  let t := { t with fetch := { t.fetch with stopped := true } }
  if (t.str .control).halted then t.faultAt .control { code := cIllegalLine, faddr := addr } (addr + 4)
  else t.deliver .control
    [{ kind := .badLine addr, word := 0, exts := [], misplaced := false, pc := addr + 4, ix := t.fetch.level.map fun l => l.ix }]

/-- The control strand takes ILLEGAL-EXT, once, for the first extension of a line without a target, after what was delivered before
(R76); a halted one has nothing before it. -/
def Tile.deliverOrphans (t : Tile) (es : List QEntry) : Tile :=
  match es with
  | [] => t
  | e :: _ => if (t.str .control).halted then t.faultAt .control { code := cIllegalExt } e.pc else t.deliver .control [e]

/-- User fetch may take a line in this TC (R74, R75, R78). -/
def Tile.canFetch (t : Tile) : Bool :=
  t.phase == .running && !t.fetch.ended && !t.fetch.stopped && t.fetch.branch.isNone && t.fetch.notBefore.ule t.tcc

/-- Deliver line `n`, apply its directive, and hold for a delivered branch or take the next line, after `skip` lines that a LOOP of
count zero passes over.  Where the last of these is the LAST line there is no line after the body, and fetch ends as it does after that
line (DESIGN CHOICE, log entry 74). -/
def Tile.deliverLine (t : Tile) (n : Nat) (ls : Lanes) (open_ : Fetch → Fetch) (skip : Nat) : Tile :=
  let branch := !(t.str .control).halted && ls.insns.any fun e => e.1 == .control && isBranchWord e.2.word
  let t := t.deliverOrphans ls.orphans
  let t := ls.insns.foldl (fun t e => t.deliver e.1 [e.2]) t
  let f := open_ t.fetch
  let f' :=
    if branch then
      { f with addr := BitVec.ofNat 64 (32 * (n + skip + 1)),
               branch := some { line := BitVec.ofNat 64 (32 * n), skip := skip, issued := none } }
    else f.next (n + skip)
  { t with fetch := f' }

/-- One TC of user fetch. -/
def Tile.fetchUser (t : Tile) : Tile :=
  if !t.canFetch then t
  else
    let n := t.fetch.addr.toNat / 32
    match t.fetch.code[n]? with
    | none => t.illegalLine t.fetch.addr
    | some l =>
      let ls := lanesOf l (BitVec.ofNat 64 (32 * n)) (t.fetch.level.map fun x => x.ix)
      if !lineOk l then t.illegalLine t.fetch.addr
      else
        match ls.dirs.head?.bind decodeDirective with
        | some (.loop lv src len c) =>
          match t.fetch.loopCount lv src c with
          | none => t.illegalLine t.fetch.addr
          | some count =>
            if !t.fetch.loopOk n lv len.toNat then t.illegalLine t.fetch.addr
            else if !t.roomFor ls then t
            else t.deliverLine n ls (fun f => f.openLoop n lv len.toNat count) (if count = 0 then len.toNat else 0)
        | _ => if !t.roomFor ls then t else t.deliverLine n ls id 0

/-! ## Supervisor fetch (R256) -/

/-- A supervisor line carries control and extension lanes alone. -/
def supLineOk (l : BitVec 256) : Bool :=
  lineOk l && [1, 2, 3, 4, 5, 6, 7].all fun n => let t := lineTag l n; t == 0 || t == 1 || t == 0xE

/-- One TC of supervisor fetch. -/
def Tile.fetchSup (t : Tile) (code : List (BitVec 256)) : Tile :=
  let f := t.sfetch
  if f.ended || f.stopped || f.branch.isSome || !(f.notBefore.ule t.tcc) then t
  else
    let n := f.addr.toNat / 32
    let bad : QEntry :=
      { kind := .badLine f.addr, word := 0, exts := [], misplaced := false, pc := f.addr + 4, ix := Vector.replicate 6 0 }
    match (code.take 512)[n]? with
    | none => { t with sfetch := { f with stopped := true }, ctl := { t.ctl with squeue := t.ctl.squeue ++ [bad] } }
    | some l =>
      if !supLineOk l then { t with sfetch := { f with stopped := true }, ctl := { t.ctl with squeue := t.ctl.squeue ++ [bad] } }
      else
        let ls := lanesOf l (BitVec.ofNat 64 (32 * n)) (t.fetch.level.map fun x => x.ix)
        let es := ls.orphans.take 1 ++ ls.insns.map fun e => e.2
        if queueDepth < entriesIn t.ctl.squeue + ls.insns.length then t
        else
          let f' :=
            if ls.insns.any fun e => isBranchWord e.2.word then
              { f with branch := some { line := BitVec.ofNat 64 (32 * n), skip := 0, issued := none } }
            else { f with addr := BitVec.ofNat 64 (32 * (n + 1)), ended := lineLast l }
          { t with sfetch := f', ctl := { t.ctl with squeue := t.ctl.squeue ++ es } }

/-- One TC of fetch, in the tile's mode. -/
def State.fetchTile (s : State) (t : TileNo) : State :=
  s.modTile t fun x => if x.isSup then x.fetchSup s.supCode else x.fetchUser

/-! ## Meanings -/

/-- FETCH_LINE: the fetch unit takes one line and delivers its lanes. -/
def execFetchLine (t : TileNo) (s : State) : Out := .next (s.fetchTile t)

/-- The line that user fetch takes next. -/
def Tile.nextLine (t : Tile) : Option (BitVec 256) := t.fetch.code[t.fetch.addr.toNat / 32]?

/-- The directive that fetch meets next on a tile: that of its next line. -/
def Tile.nextDirective (t : Tile) : Option Instr :=
  match t.nextLine with
  | some l => (lanesOf l 0 (Vector.replicate 6 0)).dirs.head?.bind decodeDirective
  | none => none

/-- LOOP: fetch takes the line that carries this directive, delivers its lanes and opens the level (R81). -/
def execLoop (l : BitVec 3) (src : BitVec 1) (n c : BitVec 12) (s : State) : Out :=
  .next (if s.cur.nextDirective == some (.loop l src n c) then s.fetchTile s.here else s)

/-- NOPL: the line takes one fetch TC and delivers nothing (R84). -/
def execNopl (s : State) : Out := .next (if s.cur.nextDirective == some .nopl then s.fetchTile s.here else s)

/-- RESULT_LANDING: an issue cycle of a strand whose queue is empty; it counts, and results that are due become visible (R23, R24).
A halted vector strand still counts while words are in the wave (R162), and the handler's strand whatever user control does (R258). -/
def execResultLanding (t : TileNo) (k : Strand) (s : State) : Out :=
  .next (s.modTile t fun x =>
    let st := x.str k
    let alive := !st.halted || k == .vector || (k == .control && x.isSup)
    if alive && !st.stopped && !st.used && (x.queueOf k).isEmpty && (x.phase == .running || x.phase == .trapped)
    then (x.tick k).countUp k else x)

end Sys2Proof.Machine
end

