-- ==== Sys2Proof/Config.lean ====
section
/-!
DEFINITION. What the specification leaves to the surroundings or gives without a value: constants with no body, so that nothing
can be proved of their value.  Each is named in the assumption log.
-/
namespace Sys2Proof.Config

/-- Whether a signature over a firmware image or a key exchange verifies: Ed25519 over SHA-512 with keys held in fuses, which the
specification does not give (25_management.md R438). -/
opaque signatureOk : List Byte → Bool

/-- The Ed25519 signature that the device identity key makes over a message (25_management.md R439); the key is not given. -/
opaque identitySign : List Byte → BitVec 512

/-- The SHA-512 digest of a byte string, as R438 and R439 use it; kept abstract because nothing else of the machine reads it. -/
opaque sha512 : List Byte → BitVec 512

/-- The 8-byte integrity tag of a flit sent on a port in an FC and slot (19_remote.md R425): keyed by keys the management
subsystem installs, which the specification does not give. -/
opaque integrityTag : (port : Nat) → (fcc : BitVec 64) → (slot : Bool) → BitVec 576 → BitVec 64

/-- The payload as encrypted under AES-256-GCM (or decrypted: the counter mode is its own inverse), when the virtual channel is not
integrity only (R425). -/
opaque cipher : (port : Nat) → (fcc : BitVec 64) → (slot : Bool) → BitVec 512 → BitVec 512

/-- The 8-byte header that a scheduled flit carries on a link: destination endpoint, arrival block, block offset, sequence tag and
whether it is the last of its transfer.  The specification states what a landing does (14_group.md R329) and not how the header
holds it. -/
opaque flitHeader : (dep : BitVec 18) → (block : BitVec 4) → (offset : BitVec 21) → (tag : BitVec 16) → (index : Nat) → (count : Nat) →
  BitVec 64

/-- The reading of such a header: endpoint, block, offset, tag, flit index, flit count. -/
opaque readFlitHeader : BitVec 64 → BitVec 18 × BitVec 4 × BitVec 21 × BitVec 16 × Nat × Nat

/-- The context of its sender, as the header of a scheduled flit names it. -/
opaque flitContext : BitVec 64 → BitVec 6

/-- The die-pair lane that the fabric manager's tables give a flit that comes in at a port for an endpoint on another die (14_group.md R332:
"Intermediate hops of a route are set by the fabric manager's tables"). -/
opaque inwardLane : (port : Nat) → (dep : BitVec 18) → Nat

/-- Where the fabric manager's tables send on a flit that comes in at a port, in a slot, for another package: the outward port and slot, and the
fabric cycles until it crosses them; none where they hold no such route (14_group.md R332). -/
opaque transit : (port : Nat) → (slot : Bool) → (dep : BitVec 18) → Option (BitVec 4 × Bool × Nat)

/-- The three payloads after flit 0 of an aggregated packet, from its elements (address bits and value), and their reading for a count: R410
gives the count and not the elements' places. -/
opaque aggPayload : List (BitVec 16 × BitVec 64) → BitVec 1536
opaque readAggPayload : BitVec 1536 → (count : Nat) → List (BitVec 16 × BitVec 64)

/-- The virtual channel that the header of a flit names (R425). -/
opaque flitChannel : BitVec 64 → BitVec 2

/-- The frame of device memory that holds entropy set `n` (19_remote.md R430 states its layout and not where it lies):
home and physical address. -/
opaque entropySetBase : Nat → Nat × Nat

/-- Entry `rkey` of context `ctx`'s remote key table (R429 states base, length and W, and not where the table lies). -/
opaque remoteKey : (ctx : Nat) → (rkey : Nat) → Option (BitVec 64 × Nat × Bool)

/-- The `n`-th placement that the scheduler firmware chooses, packed as slot [7:0], x0 [11:8], y0 [15:12], orientation [18:16], die map
[26:19] and SOLO [27]: its policy is not given (13_kernel.md R320), and dispatch refuses what R311 forbids. -/
opaque placement : (n : Nat) → BitVec 28

/-- The lines of the signed supervisor handler in a firmware image (R435): the image's format is not given. -/
opaque handlerOf : List Byte → List (BitVec 256)

/-- The signature that a firmware image brings (R438): where it lies is not given. -/
opaque slotSignature : List Byte → BitVec 512

/-- The fuse version (R439), fixed at manufacture. -/
opaque fuseVersion : BitVec 32

/-- The package number that start-up loads (11_context.md Table 11-4, "boot"). -/
opaque bootPackage : BitVec 6

/-- The boot values of the maps that the fabric manager provides (R435 step 9): route entries with their four variants (14_group.md
R332), tree entries by node (R339), and pair entries of the die fabric interfaces (19_remote.md R411): source die, package, die, ports,
SMASK and round trip. -/
opaque bootRoutes : List (BitVec 12 × Vector (BitVec 64) 4)
opaque bootTrees : List (Nat × BitVec 512)
opaque bootPairs : List (Nat × BitVec 6 × BitVec 3 × List Nat × BitVec 64 × Nat)

/-- The 64 bytes of an event-log record with a sequence, FCC, kind and detail words: R437 names its parts and not their places. -/
opaque logBytes : (seq fcc : BitVec 64) → (kind : Nat) → (detail : List (BitVec 64)) → BitVec 512

/-- What operand code 53 (iota) reads in the vector forms that have no element type (vrot, vshuf, vcbx): R138 gives it by the type
alone. -/
opaque untypedIota : BitVec 4096

/-- A value that the specification leaves open, the `n`-th one drawn in a run. -/
opaque freeValue : Nat → BitVec 64

/-- The watchdog period in milliseconds that scheduler firmware sets as it makes its n-th choice; none where it leaves it (R268). -/
opaque watchdogPeriod : Nat → Option Nat

end Sys2Proof.Config
end

