-- ==== Sys2Proof/Machine/Windows.lean ====
section
/-!
DEFINITION. The windows onto strand state (11_context.md R267, Table 11-6).  The specification names the elements; where it does not
give the places of the bits inside one, the layouts below are the model's (DESIGN CHOICE, log entry 8).
-/
namespace Sys2Proof.Machine
open Sys2Proof

/-- A strand is stopped in the sense of R265; user control is stopped while the handler runs. -/
def Tile.isStopped (t : Tile) (k : Strand) : Bool := (t.str k).stopped || (k == .control && t.isSup)

/-- Fields packed from the lowest: widths and values. -/
def packFields : List (Nat × Nat) → Nat
  | [] => 0
  | (w, v) :: rest => v % 2 ^ w + 2 ^ w * packFields rest

def w64 (n : Nat) : W64 := BitVec.ofNat 64 n

/-! ## Class 0: instruction queues -/

def queueRead (q : List QEntry) (e : Nat) : W64 :=
  if e = 0 then w64 q.length
  else match q[(e - 1) / 3]? with
    | none => 0
    | some x => match (e - 1) % 3 with
      | 0 => (x.exts[0]?.getD 0) ++ x.word
      | 1 => w64 (x.exts.length * 2 ^ 32 + (x.exts[1]?.getD 0).toNat)
      | _ => x.pc

/-- An entry a handler adds: an instruction word zero. -/
def blankEntry : QEntry :=
  { kind := .insn, word := 0, exts := [], misplaced := false, pc := 0, ix := Vector.replicate 6 0 }

/-- Make a list have `n` elements. -/
def resize (l : List α) (n : Nat) (z : α) : List α := l.take n ++ List.replicate (n - l.length) z

/-- The extension words of an entry, by count, after ext`i` was set. -/
def setExts (x : List W32) (count : Nat) (e1 e2 : W32) : List W32 := match count, x with
  | 0, _ => []
  | 1, _ => [e1]
  | _, _ => [e1, e2]

def queueWrite (q : List QEntry) (e : Nat) (v : W64) : List QEntry :=
  if e = 0 then resize q (min v.toNat 16) blankEntry
  else q.modify ((e - 1) / 3) fun x => match (e - 1) % 3 with
    | 0 => { x with word := lo32 v, exts := setExts x.exts x.exts.length (v.extractLsb' 32 32) (x.exts[1]?.getD 0) }
    | 1 => { x with exts := setExts x.exts (v.extractLsb' 32 32).toNat (x.exts[0]?.getD 0) (lo32 v) }
    | _ => { x with pc := v }

/-! ## Class 1: control latches and landing records -/

def latchCode : Latch → Nat
  | .m i => i.toNat
  | .d i => 4 + i.toNat
  | .l i => 8 + i.toNat

def latchOf (n : Nat) : Latch :=
  let i := BitVec.ofNat 2 n
  match n / 4 % 4 with
  | 0 => .m i
  | 1 => .d i
  | _ => .l i

/-- {valid [63], flags [20:16], destination code [15:8], remaining count [7:0]}. -/
def landingWord (r : Landing) : W64 :=
  w64 (packFields [(8, r.rem), (8, latchCode r.dest), (5, r.flags.toNat), (42, 0), (1, r.valid.toNat)])

def bankRead (b : Bank) (e : Nat) : W64 :=
  if e < 12 then b.get (latchOf e)
  else match b.recs[(e - 12) / 2]? with
    | none => 0
    | some r => if e % 2 = 0 then r.value else landingWord r

def bankWrite (b : Bank) (e : Nat) (v : W64) : Bank :=
  if e < 12 then b.put (latchOf e) v
  else
    let r := (e - 12) / 2
    if 32 ≤ r then b
    else
      let blank : Landing := { rem := 0, dest := .m 0, value := 0, flags := 0, valid := false }
      let recs := b.recs ++ List.replicate (r + 1 - b.recs.length) blank
      { b with recs := recs.modify r fun x =>
          if e % 2 = 0 then { x with value := v }
          else { x with rem := fld v.toNat 0 8, dest := latchOf (fld v.toNat 8 8), flags := BitVec.ofNat 5 (fld v.toNat 16 5),
                        valid := v.getLsbD 63 } }

/-! ## Class 2: vector landing and wave -/

/-- A code for what a vector record writes: 0 row, 1 mask, 2 broadcast, 3 flags, 4 o, 5 x, 6 e, 7 semaphore; and its number. -/
def vactCode : VAct → Nat × Nat
  | .row r _ _ => (0, r)
  | .tap r _ _ _ => (0, r)
  | .mask i _ _ => (1, i.toNat)
  | .bcast i _ => (2, i.toNat)
  | .flags _ => (3, 0)
  | .pushO i _ _ => (4, i.toNat)
  | .pushX i _ _ => (5, i.toNat)
  | .pushE i _ _ => (6, i.toNat)
  | .sem i _ => (7, i.toNat)

/-- The low 64 bits of a vector record's value. -/
def vactLow : VAct → W64
  | .row _ _ v => v.setWidth 64
  | .tap _ _ _ v => v.setWidth 64
  | .mask _ _ v => v.setWidth 64
  | .bcast _ v => v
  | .flags f => f.setWidth 64
  | .pushO _ _ v => v.setWidth 64
  | .pushX _ _ v => v.setWidth 64
  | .pushE _ _ v => v
  | .sem _ c => c.setWidth 64

def vecRead (t : Tile) (e : Nat) : W64 :=
  if e < 64 then
    match t.vec.recs[e / 2]? with
    | none => 0
    | some r => if e % 2 = 0 then vactLow r.act
      else w64 (packFields [(8, r.rem), (10, (vactCode r.act).2), (4, (vactCode r.act).1), (41, 0), (1, r.valid.toNat)])
  else
    match t.vec.wave[(e - 64) / 16]? with
    | none => 0
    | some (w, n) =>
      let age : Nat := ((t.str .vector).count - n).toNat
      if age ≤ (e - 64) % 16 then n.setWidth 32 ++ w else 0

/-- Replace the 64 bits of a vector at word `i`. -/
def setWord64 (x : Vec) (i : Nat) (v : W64) : Vec :=
  (x &&& ~~~((BitVec.allOnes 64).setWidth 4096 <<< (64 * i))) ||| (v.setWidth 4096 <<< (64 * i))

/-- A vector record's value with its low 64 bits replaced: the table gives a value one 64-bit element. -/
def vactPut (v : W64) : VAct → VAct
  | .row r en x => .row r en (setWord64 x 0 v)
  | .tap r l n x => .tap r l n (setWord64 x 0 v)
  | .mask i en x => .mask i en (x.extractLsb' 64 64 ++ v)
  | .bcast i _ => .bcast i v
  | .flags _ => .flags (v.setWidth 5)
  | .pushO i t x => .pushO i t (setWord64 x 0 v)
  | .pushX i t x => .pushX i t (setWord64 x 0 v)
  | .pushE i t _ => .pushE i t v
  | .sem i _ => .sem i (v.setWidth 16)

/-- A vector record for another destination: its code and number; the value's low bits stay. -/
def vactTo (code num : Nat) (a : VAct) : VAct :=
  if vactCode a == (code, num) then a
  else
    let all := BitVec.allOnes 128
    let low := vactLow a
    match code with
    | 0 => (match a with
      | .row _ en x => .row num en x
      | .tap _ l n x => .tap num l n x
      | _ => .row num all (low.setWidth 4096))
    | 1 => .mask (BitVec.ofNat 3 num) all (low.setWidth 128)
    | 2 => .bcast (BitVec.ofNat 2 num) low
    | 3 => .flags (low.setWidth 5)
    | 4 => .pushO (BitVec.ofNat 2 num) 0 (low.setWidth 4096)
    | 5 => .pushX (BitVec.ofNat 2 num) 0 (low.setWidth 4096)
    | 6 => .pushE (BitVec.ofNat 1 num) 0 low
    | _ => .sem (BitVec.ofNat 6 num) (low.setWidth 16)

/-- A handler writes a vector record or a word of the wave. -/
def vecWrite (t : Tile) (e : Nat) (v : W64) : Tile :=
  if e < 64 then
    let blank : VRec := { rem := 0, act := .flags 0, valid := false }
    let recs := t.vec.recs ++ List.replicate (e / 2 + 1 - t.vec.recs.length) blank
    { t with vec := { t.vec with recs := recs.modify (e / 2) fun x =>
        if e % 2 = 0 then { x with act := vactPut v x.act }
        else { rem := fld v.toNat 0 8, act := vactTo (fld v.toNat 18 4) (fld v.toNat 8 10) x.act, valid := v.getLsbD 63 } } }
  else
    { t with vec := { t.vec with wave := t.vec.wave.modify ((e - 64) / 16) fun x =>
        (lo32 v, x.2.extractLsb' 32 32 ++ v.extractLsb' 32 32) } }

/-! ## Class 3: FIFOs -/

def fifoRead (q : Fifo) (e : Nat) : W64 :=
  if e = 0 then w64 q.length else match q[e - 1]? with | some x => x.val | none => 0

def vfifoRead (q : VFifo) (e : Nat) : W64 :=
  if e = 0 then w64 q.length
  else match q[(e - 1) / 64]? with | some x => x.val.extractLsb' (64 * ((e - 1) % 64)) 64 | none => 0

def blankEnt (z : α) : Ent α := { val := z, ready := true, born := 0, tag := 0 }

def fifoWrite (q : Fifo) (e : Nat) (v : W64) : Fifo :=
  if e = 0 then resize q (min v.toNat 16) (blankEnt 0) else q.modify (e - 1) fun x => { x with val := v }

def vfifoWrite (q : VFifo) (e : Nat) (v : W64) : VFifo :=
  if e = 0 then resize q (min v.toNat 8) (blankEnt 0)
  else q.modify ((e - 1) / 64) fun x => { x with val := setWord64 x.val ((e - 1) % 64) v }

def fifoClassRead (f : Fifos) (i e : Nat) : W64 :=
  if h : i < 4 then vfifoRead f.qv[i] e
  else if h : i < 8 then fifoRead (f.qs[i - 4]'(by omega)) e
  else if h : i < 12 then vfifoRead (f.ov[i - 8]'(by omega)) e
  else if h : i < 14 then fifoRead (f.os[i - 12]'(by omega)) e
  else if h : i < 18 then vfifoRead (f.x[i - 14]'(by omega)) e
  else if h : i < 23 then fifoRead (f.k[i - 18]'(by omega)) e
  else if h : i < 25 then fifoRead (f.j[i - 23]'(by omega)) e
  else if h : i < 27 then fifoRead (f.e[i - 25]'(by omega)) e
  else 0

def fifoClassWrite (f : Fifos) (i e : Nat) (v : W64) : Fifos :=
  if h : i < 4 then { f with qv := f.qv.set i (vfifoWrite f.qv[i] e v) }
  else if h : i < 8 then { f with qs := f.qs.set (i - 4) (fifoWrite (f.qs[i - 4]'(by omega)) e v) (by omega) }
  else if h : i < 12 then { f with ov := f.ov.set (i - 8) (vfifoWrite (f.ov[i - 8]'(by omega)) e v) (by omega) }
  else if h : i < 14 then { f with os := f.os.set (i - 12) (fifoWrite (f.os[i - 12]'(by omega)) e v) (by omega) }
  else if h : i < 18 then { f with x := f.x.set (i - 14) (vfifoWrite (f.x[i - 14]'(by omega)) e v) (by omega) }
  else if h : i < 23 then { f with k := f.k.set (i - 18) (fifoWrite (f.k[i - 18]'(by omega)) e v) (by omega) }
  else if h : i < 25 then { f with j := f.j.set (i - 23) (fifoWrite (f.j[i - 23]'(by omega)) e v) (by omega) }
  else if h : i < 27 then { f with e := f.e.set (i - 25) (fifoWrite (f.e[i - 25]'(by omega)) e v) (by omega) }
  else f

/-- The strand that pops a FIFO (Table 2-8), whose stop lets a handler write it. -/
def fifoOwner (t : Tile) (i : Nat) : Strand :=
  if h : i < 4 then (if (t.ld.stream[i]).control then .control else .vector)
  else if i < 8 then .control
  else if i < 14 then .store
  else if i < 16 then .load
  else if i < 18 then .store
  else if i < 20 then .load
  else if i < 22 then .store
  else if i < 23 then .matrix
  else if i < 25 then .vector
  else .control

/-! ## Class 4: streams -/

def phaseCode : StreamPhase → Nat
  | .explicit => 0 | .active => 1 | .drained => 2 | .halted => 3

def phaseOf (n : Nat) : StreamPhase :=
  match n with
  | 0 => .explicit | 1 => .active | 2 => .drained | _ => .halted

def streamRead (x : Stream) (e : Nat) : W64 :=
  match e with
  | 0 => w64 (packFields [(2, phaseCode x.phase), (1, x.control.toNat)])
  | 1 => w64 x.next
  | 2 => w64 x.faultOrd
  | 3 => 0
  | _ => if e < 12 then x.desc.extractLsb' (64 * (e - 4)) 64 else 0

/-- RESUME (element 3): a HALTED stream becomes ACTIVE from the faulting ordinal (Table 7-7). -/
def streamWrite (x : Stream) (e : Nat) (v : W64) : Stream :=
  match e with
  | 0 => { x with phase := phaseOf (fld v.toNat 0 2), control := v.getLsbD 2 }
  | 1 => { x with next := v.toNat }
  | 2 => { x with faultOrd := v.toNat }
  | 3 => if v == 1 && x.phase == .halted then { x with phase := .active, next := x.faultOrd, tlb := none, tlb2 := none } else x
  | _ =>
    if e < 12 then
      let i := e - 4
      { x with desc := (x.desc &&& ~~~((BitVec.allOnes 64).setWidth 512 <<< (64 * i))) ||| (v.setWidth 512 <<< (64 * i)) }
    else x

/-! ## Class 5: sync objects -/

/-- Element 2r: BASE [31:0], SLOTSZ [47:32], COUNT [63:48]; element 2r + 1: RES [15:0], FILL [31:16], RP [47:32]. -/
def ringRead (r : Option Ring) (odd : Bool) : W64 :=
  match r with
  | none => 0
  | some r => if odd then w64 (packFields [(16, r.res), (16, r.fill), (16, r.rp)])
    else w64 (packFields [(32, r.base), (16, r.slotsz), (16, r.count)])

def ringWrite (r : Option Ring) (odd : Bool) (v : W64) : Option Ring :=
  let x := r.getD { count := 0, slotsz := 0, base := 0, rp := 0, fill := 0, res := 0, order := [] }
  let x := if odd then { x with res := fld v.toNat 0 16, fill := fld v.toNat 16 16, rp := fld v.toNat 32 16 }
    else { x with base := fld v.toNat 0 32, slotsz := fld v.toNat 32 16, count := fld v.toNat 48 16 }
  if x.count = 0 then none else some x

/-- Elements of an arrival block: 0 BASE with bit 63 registered, 1 SIZE, 2 TAG [31:16] and EXPECT [15:0]. -/
def blockRead (b : ArrBlock) (e : Nat) : W64 :=
  match e with
  | 0 => w64 (packFields [(63, b.base), (1, b.registered.toNat)])
  | 1 => w64 b.len
  | _ => w64 (packFields [(16, b.expect), (16, b.tag.toNat)])

def blockWrite (b : ArrBlock) (e : Nat) (v : W64) : ArrBlock :=
  match e with
  | 0 => { b with base := fld v.toNat 0 63, registered := v.getLsbD 63 }
  | 1 => { b with len := v.toNat }
  | _ => { b with expect := fld v.toNat 0 16, tag := BitVec.ofNat 16 (fld v.toNat 16 16) }

def syncRead (y : Sync) (e : Nat) : W64 :=
  if h : e < 64 then y.sem[e].setWidth 64
  else if h : e < 80 then (y.flag[e - 64]'(by omega)).setWidth 64
  else if h : e < 112 then ringRead (y.ring[(e - 80) / 2]'(by omega)) (e % 2 == 1)
  else if h : e < 160 then blockRead (y.block[(e - 112) / 3]'(by omega)) ((e - 112) % 3)
  else 0

def syncWrite (y : Sync) (e : Nat) (v : W64) : Sync :=
  if h : e < 64 then { y with sem := y.sem.set e (v.setWidth 16) }
  else if h : e < 80 then { y with flag := y.flag.set (e - 64) (v.setWidth 16) (by omega) }
  else if h : e < 112 then
    { y with ring := y.ring.set ((e - 80) / 2) (ringWrite (y.ring[(e - 80) / 2]'(by omega)) (e % 2 == 1) v) (by omega) }
  else if h : e < 160 then
    { y with block := y.block.set ((e - 112) / 3) (blockWrite (y.block[(e - 112) / 3]'(by omega)) ((e - 112) % 3) v) (by omega) }
  else y

/-! ## Classes 6-10 -/

def viewRead (v : VectorState) (i : Nat) : W64 :=
  if i = 0 then v.vview
  else if h : 1 ≤ i ∧ i ≤ 16 then v.tview[i - 1]'(by omega)
  else if i = 17 then v.cview
  else if i = 18 then v.mode.setWidth 64
  else 0

def viewWrite (v : VectorState) (i : Nat) (x : W64) : VectorState :=
  if i = 0 then { v with vview := x &&& 0x3FFFF#64 }
  else if h : 1 ≤ i ∧ i ≤ 16 then { v with tview := v.tview.set (i - 1) (x &&& 0x7FFFFF#64) (by omega) }
  else if i = 17 then { v with cview := x &&& 3#64 }
  else if i = 18 then { v with mode := x.setWidth 11 }
  else v

/-- The FPSR with the RM and FTZ that vmode gives. -/
def fpsrMode (old : BitVec 8) (rm : BitVec 2) (ftz : BitVec 1) : BitVec 8 := rm ++ ftz ++ old.setWidth 5

/-- Write the vmode word, whose RM and FTZ the vector FPSR shows (R160, R65). -/
def Tile.setMode (t : Tile) (x : BitVec 11) : Tile :=
  { t with vec := { t.vec with mode := x } }.setFpsr .vector (fpsrMode (t.fpsr .vector) (x.extractLsb' 0 2) (x.extractLsb' 2 1))

def planeRead (p : Plane) (e : Nat) : W64 :=
  if h : e < 512 then (p.entries[e / 2]'(by omega)).extractLsb' (64 * (e % 2)) 64
  else if e = 512 then w64 (packFields [(16, p.count), (6, p.kind.toNat)])
  else 0

def planeWrite (p : Plane) (e : Nat) (v : W64) : Plane :=
  if h : e < 512 then
    let old := p.entries[e / 2]'(by omega)
    let new : BitVec 128 := if e % 2 = 0 then old.extractLsb' 64 64 ++ v else v ++ old.extractLsb' 0 64
    { p with entries := p.entries.set (e / 2) new (by omega) }
  else if e = 512 then { p with count := min (fld v.toNat 0 16) 256, kind := BitVec.ofNat 6 (fld v.toNat 16 6) }
  else p

def codeRead (y : Sync) (i e : Nat) : W64 :=
  if h : i < 8 then
    let b := y.bank[i / 2]'(by omega)
    planeRead (if i % 2 = 0 then b.front else b.back) e
  else 0

def codeWrite (y : Sync) (i e : Nat) (v : W64) : Sync :=
  if h : i < 8 then
    let b := y.bank[i / 2]'(by omega)
    let b' := if i % 2 = 0 then { b with front := planeWrite b.front e v } else { b with back := planeWrite b.back e v }
    { y with bank := y.bank.set (i / 2) b' (by omega) }
  else y

def paramRead (t : Tile) (i e : Nat) : W64 :=
  if h : e < 16 then
    match i with
    | 0 => if h' : e < 8 then t.mx.mp[e] else 0
    | 1 => t.xf.tp[e]
    | 2 => t.tx.xp[e]
    | 3 => t.rx.yp[e]
    | _ => 0
  else 0

def paramWrite (t : Tile) (i e : Nat) (v : W64) : Tile :=
  if h : e < 16 then
    match i with
    | 0 => if h' : e < 8 then { t with mx := { t.mx with mp := t.mx.mp.set e v } } else t
    | 1 => { t with xf := { t.xf with tp := t.xf.tp.set e v } }
    | 2 => { t with tx := { t.tx with xp := t.tx.xp.set e v } }
    | 3 => { t with rx := { t.rx with yp := t.rx.yp.set e v } }
    | _ => t
  else t

/-- The strands whose counts element 339 shows together, ten bits each: the table gives 'the rest' one element (log entry 8). -/
def restStrands : List Strand := [.load, .store, .matrix, .transform, .send, .receive]

/-- Class 9 holds the user registers: element 32 the user predicates p0-p7, p0 reading 1. -/
def regRead (t : Tile) (e : Nat) : W64 :=
  if h : e < 32 then (if e = 0 then 0 else t.ctl.user.s[e])
  else if e = 32 then w64 (packFields ((List.range 8).map fun i => (1, (t.ctl.user.getP (BitVec.ofNat 3 i)).toNat)))
  else if h : e < 49 then t.ld.a[e - 33]'(by omega)
  else if h : e < 65 then t.st.w[e - 49]'(by omega)
  else if h : e < 321 then w64 (packFields [(32, t.ld.marks[e - 65]'(by omega)), (32, t.st.marks[e - 65]'(by omega))])
  else if e < 337 then t.st.sig.extractLsb' (64 * (e - 321)) 64
  else if e = 337 then (t.str .control).count
  else if e = 338 then (t.str .vector).count
  else if e = 339 then w64 (packFields (restStrands.map fun k => (10, (t.str k).count.toNat)))
  else 0

/-- The strand that owns an element of class 9. -/
def regOwner (e : Nat) : Strand :=
  if e < 33 then .control else if e < 49 then .load else if e < 65 then .store
  else if e < 321 then .load else if e < 337 then .store
  else if e = 338 then .vector else .control

def regWrite (t : Tile) (e : Nat) (v : W64) : Tile :=
  if h : e < 32 then { t with ctl := { t.ctl with user := t.ctl.user.put (BitVec.ofNat 5 e) v } }
  else if e = 32 then
    { t with ctl := { t.ctl with user := { t.ctl.user with p := Vector.ofFn fun i => v.getLsbD i.val } } }
  else if h : e < 49 then { t with ld := { t.ld with a := t.ld.a.set (e - 33) v (by omega) } }
  else if h : e < 65 then { t with st := { t.st with w := t.st.w.set (e - 49) v (by omega) } }
  else if h : e < 321 then
    { t with ld := { t.ld with marks := t.ld.marks.set (e - 65) (fld v.toNat 0 32) (by omega) },
             st := { t.st with marks := t.st.marks.set (e - 65) (fld v.toNat 32 32) (by omega) } }
  else if e < 337 then
    let i := e - 321
    { t with st := { t.st with sig :=
        (t.st.sig &&& ~~~((BitVec.allOnes 64).setWidth 1024 <<< (64 * i))) ||| (v.setWidth 1024 <<< (64 * i)) } }
  else if e = 337 then t.modStr .control fun st => { st with count := v }
  else if e = 338 then t.modStr .vector fun st => { st with count := v }
  else if e = 339 then
    (List.range 6).foldl (fun t i => t.modStr (restStrands.getD i .load) fun st => if !st.stopped then st else
      { st with count := (st.count &&& ~~~(1023#64)) ||| BitVec.ofNat 64 (fld v.toNat (10 * i) 10) }) t
  else t

/-- A strand by its position, control beyond the table. -/
def strandAt (i : Nat) : Strand := (Strand.ofPos i).getD .control

/-! ## WSEL and WDATA -/

def winClass (w : W64) : Nat := fld w.toNat 56 8
def winIndex (w : W64) : Nat := fld w.toNat 48 8
def winElem (w : W64) : Nat := fld w.toNat 0 32

/-- The element that WSEL selects; zero outside the ranges of Table 11-6. -/
def Tile.windowRead (t : Tile) : W64 :=
  let w := t.sys.wsel
  let i := winIndex w
  let e := winElem w
  match winClass w with
  | 0 => if i < 8 then queueRead (t.str (strandAt i)).queue e else 0
  | 1 => if i = 0 then bankRead t.ctl.ubank e else if i = 1 then bankRead t.ctl.sbank e else 0
  | 2 => if i = 0 then vecRead t e else 0
  | 3 => fifoClassRead t.fifo i e
  | 4 => if h : i < 8 then streamRead t.ld.stream[i] e else 0
  | 5 => if i = 0 then syncRead t.sync e else 0
  | 6 => if i = 0 then viewRead t.vec e else 0
  | 7 => codeRead t.sync i e
  | 8 => paramRead t i e
  | 9 => if i = 0 then regRead t e else 0
  | 10 =>
    if i < 8 then
      let f := (t.str (strandAt i)).fault
      match e with
      | 0 => f.cause | 1 => f.fpc | 2 => f.faddr | _ => 0
    else 0
  | _ => 0

/-- Write the selected element: classes 0-4 and 9 only while the owning strand is stopped (R265, R267). -/
def Tile.windowWrite (t : Tile) (v : W64) : Tile :=
  let w := t.sys.wsel
  let i := winIndex w
  let e := winElem w
  match winClass w with
  | 0 =>
    if i < 8 && t.isStopped (strandAt i) then t.modStr (strandAt i) fun st => { st with queue := queueWrite st.queue e v } else t
  | 1 =>
    if !t.isStopped .control then t
    else if i = 0 then { t with ctl := { t.ctl with ubank := bankWrite t.ctl.ubank e v } }
    else if i = 1 then { t with ctl := { t.ctl with sbank := bankWrite t.ctl.sbank e v } } else t
  | 2 => if i = 0 && t.isStopped .vector then vecWrite t e v else t
  | 3 => if t.isStopped (fifoOwner t i) then { t with fifo := fifoClassWrite t.fifo i e v } else t
  | 4 =>
    if h : i < 8 then
      if t.isStopped .load || e == 3 then { t with ld := { t.ld with stream := t.ld.stream.set i (streamWrite t.ld.stream[i] e v) } } else t
    else t
  | 5 => if i = 0 then { t with sync := syncWrite t.sync e v } else t
  | 6 => if i = 0 then (if e = 18 then t.setMode ((v.setWidth 8).setWidth 11) else { t with vec := viewWrite t.vec e v }) else t
  | 7 => { t with sync := codeWrite t.sync i e v }
  | 8 => paramWrite t i e v
  | 9 => if i = 0 && t.isStopped (regOwner e) then regWrite t e v else t
  | 10 =>
    if i < 8 then t.modStr (strandAt i) fun st => { st with fault := match e with
      | 0 => { st.fault with cause := v &&& 0xFFFFFFFF#64 } | 1 => { st.fault with fpc := v } | 2 => { st.fault with faddr := v } | _ => st.fault }
    else t
  | _ => t

/-- ELEM := ELEM + 1 after each access (R267). -/
def Tile.windowNext (t : Tile) : Tile :=
  let w := t.sys.wsel
  { t with sys := { t.sys with wsel := (w &&& 0xFFFFFFFF00000000#64) ||| zext64 (lo32 w + 1) } }

/-- WDATA_ACCESS: a handler's access of the element WSEL selects. -/
def execWdataAccess (t : TileNo) (wr : Bool) (v : W64) (s : State) : Out :=
  .next (s.modTile t fun x => if x.isSup then (if wr then x.windowWrite v else x).windowNext else x)

end Sys2Proof.Machine
end

