-- ==== Sys2Proof/Machine/Vector.lean ====
section
/-!
DEFINITION. The vector strand (06_vector.md R134-R162) and the codebook banks (R163-R170).
-/
namespace Sys2Proof.Machine
open Sys2Proof

/-! ## Shapes -/

/-- A vector instruction: its effect on the tile, given whether the tile has an accumulator window; the word enters the wave.  It
draws `draws` free values. -/
def State.issueV (s : State) (f : Bool → Tile → Res Tile) (draws : Nat := 0) : State :=
  s.issue .vector fun s =>
    let t := s.cur
    let word := match (t.str .vector).queue with | e :: _ => e.word | [] => 0
    (f (s.hasWindow s.here) t).map fun x =>
      { s.setTile s.here { x with vec := { x.vec with wave := x.vec.wave ++ [(word, (t.str .vector).count)] } } with
        drawn := s.drawn + draws }

/-- How many entries of its stream operand b comes after operand a. -/
def nthB (a b : BitVec 6) : Nat := if a == b && decide (48 ≤ a.toNat) && decide (a.toNat < 52) then 1 else 0

/-- A form d := g(a, b) of latency `lat`: `cbx` expands operand a under the mode, `en` are the lanes written, and `g` is given the
tile, the operands and the destination's prior value (R134-R139, R167). -/
def vform (cbx : Bool) (iota : Vec) (bc : W64 → Vec) (lat : Nat) (d a b : BitVec 6) (two : Bool) (en : Tile → BitVec 128)
    (g : Tile → Vec → Vec → Vec → Vec × Num.Flags) (s : State) : Out :=
  .next (s.issueV fun win t =>
    let srcs := if two then [a, b] else [a]
    (t.vcheck win srcs [d]).bind fun _ =>
    (t.vroom d).bind fun _ =>
    (if two then t.vread win iota bc (nthB a b) b else .done 0).bind fun vb =>
    (if cbx then t.vreadA win iota bc a else t.vread win iota bc 0 a).bind fun va =>
      let old := match t.viewRow win d.toNat with | some r => t.rowOf r | none => 0
      let r := g t va vb old
      let t := t.vpop a
      let t := if two then t.vpop b else t
      .done (t.vdeliver win d lat (en t) r.1 r.2))

/-- Apply an element operation to the included elements; the others are zero and raise nothing. -/
def vlift (ty : Ty) (mk : BitVec 128) (f : Nat → Nat → Nat → Nat × Num.Flags) (a b c : Vec) : Vec × Num.Flags :=
  let w := ty.width
  let rs := (List.range ty.num).map fun i =>
    if mk.getLsbD (ty.maskBit i) then
      f (a.toNat / 2 ^ (w * i) % 2 ^ w) (b.toNat / 2 ^ (w * i) % 2 ^ w) (c.toNat / 2 ^ (w * i) % 2 ^ w)
    else (0, 0)
  (fromElems w (rs.map (·.1)), rs.foldl (fun acc r => acc ||| r.2) 0)

/-- The floating-point format of a type; FP32 stands in for i32. -/
def Ty.fmt : Ty → Num.Fmt
  | .f64 => Num.fp64
  | .bf16 => Num.bf16
  | _ => Num.fp32

/-- Flush-to-zero is on (R64, R160). -/
def Tile.ftz (t : Tile) : Bool := t.vec.mode.getLsbD 2

/-- An operand element, flushed when the mode says so. -/
def fin (ftz : Bool) (f : Num.Fmt) (x : Nat) : Num.Val := Num.decode f (if ftz then Num.flushIn f x else x)

/-- Round a result once, flushed when the mode says so. -/
def fout (ftz : Bool) (f : Num.Fmt) (rm : Num.Rm) (v : Num.Val × Num.Flags) : Nat × Num.Flags :=
  let r := Num.round f rm false v.1
  let r := if ftz then Num.flushOut f r else r
  (r.1, r.2 ||| v.2)

/-! ## varith (R140) and the fused forms (R141) -/

/-- Latency of varith and the fused forms (Table 6-1). -/
def latArith (ty : Ty) : Nat := if ty == .f64 then 6 else 4

/-- A varith form from its floating-point operation and its 32-bit integer operation. -/
def varith (two : Bool) (fp : Num.Rm → Num.Val → Num.Val → Num.Val × Num.Flags) (int : W32 → W32 → W32)
    (d a b : BitVec 6) (m : BitVec 3) (ty : BitVec 2) (s : State) : Out :=
  let ty := Ty.ofBits ty
  vform true (iotaOf ty) (bcastOf (ty == .f64)) (latArith ty) d a b two (fun t => laneEn ty (t.maskReg m))
    (fun t va vb _ =>
      let rm := t.rm .vector
      let op : Nat → Nat → Nat → Nat × Num.Flags := match ty with
        | .i32 => fun x y _ => ((int (BitVec.ofNat 32 x) (BitVec.ofNat 32 y)).toNat, 0)
        | _ => fun x y _ => fout t.ftz ty.fmt rm (fp rm (fin t.ftz ty.fmt x) (fin t.ftz ty.fmt y))
      vlift ty (t.maskReg m) op va vb 0) s

def execVadd (d a b : BitVec 6) (m : BitVec 3) (ty : BitVec 2) (s : State) : Out :=
  varith true Num.add (fun x y => x + y) d a b m ty s
def execVsub (d a b : BitVec 6) (m : BitVec 3) (ty : BitVec 2) (s : State) : Out :=
  varith true fpSub (fun x y => x - y) d a b m ty s
def execVmul (d a b : BitVec 6) (m : BitVec 3) (ty : BitVec 2) (s : State) : Out :=
  varith true fpMul (fun x y => x * y) d a b m ty s
def execVmin (d a b : BitVec 6) (m : BitVec 3) (ty : BitVec 2) (s : State) : Out :=
  varith true fpMin (fun x y => if x.slt y then x else y) d a b m ty s
def execVmax (d a b : BitVec 6) (m : BitVec 3) (ty : BitVec 2) (s : State) : Out :=
  varith true fpMax (fun x y => if x.slt y then y else x) d a b m ty s

/-- vabs: NaN gives the canonical NaN. -/
def execVabs (d a : BitVec 6) (m : BitVec 3) (ty : BitVec 2) (s : State) : Out :=
  varith false (fun _ x _ => (x.abs, 0)) (fun x _ => if x.slt 0 then 0 - x else x) d a 0 m ty s
def execVneg (d a : BitVec 6) (m : BitVec 3) (ty : BitVec 2) (s : State) : Out :=
  varith false (fun _ x _ => (x.flip, 0)) (fun x _ => 0 - x) d a 0 m ty s

/-- vmov copies bits, NaN payloads included. -/
def execVmov (d a : BitVec 6) (m : BitVec 3) (ty : BitVec 2) (s : State) : Out :=
  let ty := Ty.ofBits ty
  vform true (iotaOf ty) (bcastOf (ty == .f64)) (latArith ty) d a 0 false (fun t => laneEn ty (t.maskReg m))
    (fun _ va _ _ => (va, 0)) s

/-- A fused form: one rounding of the exact value, or 32-bit integers modulo 2^32. -/
def vfused (fp : Num.Rm → Num.Val → Num.Val → Num.Val → Num.Val × Num.Flags) (int : W32 → W32 → W32 → W32)
    (d a b : BitVec 6) (m : BitVec 3) (ty : BitVec 2) (s : State) : Out :=
  let ty := Ty.ofBits ty
  vform true (iotaOf ty) (bcastOf (ty == .f64)) (latArith ty) d a b true (fun t => laneEn ty (t.maskReg m))
    (fun t va vb vd =>
      let rm := t.rm .vector
      let op : Nat → Nat → Nat → Nat × Num.Flags := match ty with
        | .i32 => fun x y z => ((int (BitVec.ofNat 32 x) (BitVec.ofNat 32 y) (BitVec.ofNat 32 z)).toNat, 0)
        | _ => fun x y z => fout t.ftz ty.fmt rm (fp rm (fin t.ftz ty.fmt x) (fin t.ftz ty.fmt y) (fin t.ftz ty.fmt z))
      vlift ty (t.maskReg m) op va vb vd) s

def execVfma (d a b : BitVec 6) (m : BitVec 3) (ty : BitVec 2) (s : State) : Out :=
  vfused Num.fma (fun x y z => x * y + z) d a b m ty s
def execVfms (d a b : BitVec 6) (m : BitVec 3) (ty : BitVec 2) (s : State) : Out :=
  vfused (fun rm x y z => Num.fma rm x y z.flip) (fun x y z => x * y - z) d a b m ty s
def execVfnma (d a b : BitVec 6) (m : BitVec 3) (ty : BitVec 2) (s : State) : Out :=
  vfused (fun rm x y z => Num.fma rm x.flip y z) (fun x y z => z - x * y) d a b m ty s

/-- RM(d + a.lo × b.lo + a.hi × b.hi, FP32), with exact products. -/
def dot2 (ftz : Bool) (rm : Num.Rm) (x y z : Nat) : Nat × Num.Flags :=
  let h := fun n => fin ftz Num.bf16 n
  let p := Num.mul (h (x % 65536)) (h (y % 65536))
  let q := Num.mul (h (x / 65536)) (h (y / 65536))
  let u := Num.add rm (fin ftz Num.fp32 z) p.1
  let v := Num.add rm u.1 q.1
  fout ftz Num.fp32 rm (v.1, p.2 ||| q.2 ||| u.2 ||| v.2)

def execVdot2 (d a b : BitVec 6) (m : BitVec 3) (s : State) : Out :=
  vform true (iotaOf .bf16) (bcastOf false) 4 d a b true (fun t => t.maskReg m)
    (fun t va vb vd => vlift .f32 (t.maskReg m) (dot2 t.ftz (t.rm .vector)) va vb vd) s

/-! ## Bitwise forms and shifts (R142) -/

def vbits (two : Bool) (f : Vec → Vec → Vec) (d a b : BitVec 6) (m : BitVec 3) (ty : BitVec 2) (s : State) : Out :=
  let ty := Ty.ofBits ty
  vform false (iotaOf ty) (bcastOf (ty == .f64)) 2 d a b two (fun t => laneEn ty (t.maskReg m))
    (fun _ va vb _ => (f va vb, 0)) s

def execVand (d a b : BitVec 6) (m : BitVec 3) (ty : BitVec 2) (s : State) : Out := vbits true (fun x y => x &&& y) d a b m ty s
def execVor (d a b : BitVec 6) (m : BitVec 3) (ty : BitVec 2) (s : State) : Out := vbits true (fun x y => x ||| y) d a b m ty s
def execVxor (d a b : BitVec 6) (m : BitVec 3) (ty : BitVec 2) (s : State) : Out := vbits true (fun x y => x ^^^ y) d a b m ty s
def execVandn (d a b : BitVec 6) (m : BitVec 3) (ty : BitVec 2) (s : State) : Out := vbits true (fun x y => x &&& ~~~y) d a b m ty s
def execVnot (d a : BitVec 6) (m : BitVec 3) (ty : BitVec 2) (s : State) : Out := vbits false (fun x _ => ~~~x) d a 0 m ty s

/-- A shift of each element by the count in the same element of b. -/
def vshift (f : (w : Nat) → BitVec w → Nat → BitVec w) (d a b : BitVec 6) (m : BitVec 3) (ty : BitVec 2) (s : State) : Out :=
  let ty := Ty.ofBits ty
  let w := ty.width
  vform false (iotaOf ty) (bcastOf (ty == .f64)) 2 d a b true (fun t => laneEn ty (t.maskReg m))
    (fun t va vb _ => vlift ty (t.maskReg m) (fun x y _ => ((f w (BitVec.ofNat w x) (y % w)).toNat, 0)) va vb 0) s

def execVshl (d a b : BitVec 6) (m : BitVec 3) (ty : BitVec 2) (s : State) : Out := vshift (fun _ x n => x <<< n) d a b m ty s
def execVshr (d a b : BitVec 6) (m : BitVec 3) (ty : BitVec 2) (s : State) : Out := vshift (fun _ x n => x >>> n) d a b m ty s
def execVsra (d a b : BitVec 6) (m : BitVec 3) (ty : BitVec 2) (s : State) : Out :=
  vshift (fun _ x n => x.sshiftRight n) d a b m ty s

/-! ## vcmp and vsel (R143, R144) -/

/-- A 128-bit mask from its bits. -/
def maskOf (f : Nat → Bool) : BitVec 128 := BitVec.ofNat 128 (packList 1 ((List.range 128).map fun i => (f i).toNat))

/-- The outcome of a compare at element `i`.  The operands are compared as they stand, subnormal or not, in flush-to-zero too: R64
names vector arithmetic, vfunc, vred and the destination of vcvt, and R143 says nothing of it (DESIGN CHOICE, log entry 69). -/
def vcmpAt (ty : Ty) (k : BitVec 3) (x y : Nat) : Bool :=
  match ty with
  | .i32 => vcondInt k (BitVec.ofNat 32 x) (BitVec.ofNat 32 y)
  | _ => vcondFp k (Num.cmp (Num.decode ty.fmt x) (Num.decode ty.fmt y))

def execVcmp (md : BitVec 3) (comb : BitVec 2) (a b : BitVec 6) (m : BitVec 3) (ty : BitVec 2) (k : BitVec 3) (s : State) : Out :=
  let ty := Ty.ofBits ty
  let bc := bcastOf (ty == .f64)
  .next (s.issueV fun win t =>
    (t.vcheck win [a, b] []).bind fun _ =>
    (t.vread win (iotaOf ty) bc (nthB a b) b).bind fun vb =>
    (t.vread win (iotaOf ty) bc 0 a).bind fun va =>
      let w := ty.width
      let en := maskOf fun i => decide (i < ty.num) && (t.maskReg m).getLsbD i
      let old := t.maskReg md
      let v := maskOf fun i =>
        combine comb (old.getLsbD i) (vcmpAt ty k (va.toNat / 2 ^ (w * i) % 2 ^ w) (vb.toNat / 2 ^ (w * i) % 2 ^ w))
      let t := (t.vpop a).vpop b
      .done { t with vec := { t.vec with recs := t.vec.recs ++ [{ rem := 2, act := .mask md en v }] } })

/-- vsel: the mask selects and does not suppress writes. -/
def execVsel (d a b : BitVec 6) (m : BitVec 3) (ty : BitVec 2) (s : State) : Out :=
  let ty := Ty.ofBits ty
  vform true (iotaOf ty) (bcastOf (ty == .f64)) 2 d a b true (fun _ => BitVec.allOnes 128)
    (fun t va vb _ => (blend (laneEn ty (t.maskReg m)) va vb, 0)) s

/-! ## vcvt (R145-R147) -/

/-- The element size in bits of a VC code (Table 4-9). -/
def ccBits (c : Nat) : Nat :=
  match c with
  | 0 | 13 => 64
  | 1 | 12 | 16 => 32
  | 2 | 3 | 11 | 15 => 16
  | 4 | 5 | 7 | 10 | 14 => 8
  | _ => 4

/-- The floating-point format of a code: of its elements for a block code; none for an integer. -/
def ccFmt (c : Nat) : Option Num.Fmt :=
  match c with
  | 0 => some Num.fp64
  | 1 => some Num.fp32
  | 2 => some Num.fp16
  | 3 => some Num.bf16
  | 4 | 7 => some Num.e4m3
  | 5 => some Num.e5m2
  | 6 | 8 | 9 => some Num.e2m1
  | _ => none

/-- A block code. -/
def ccBlock (c : Nat) : Bool := c == 7 || c == 8 || c == 9

/-- An unsigned integer code. -/
def ccUnsigned (c : Nat) : Bool := c == 14 || c == 15 || c == 16

/-- The range of an integer code. -/
def ccRange (c : Nat) : Int × Int :=
  if ccUnsigned c then (0, 2 ^ ccBits c - 1) else (-2 ^ (ccBits c - 1), 2 ^ (ccBits c - 1) - 1)

/-- The integer that bits of an integer code denote. -/
def ccInt (c x : Nat) : Int := if ccUnsigned c then (x : Int) else (BitVec.ofNat (ccBits c) x).toInt

/-- The bits of an integer in an integer code. -/
def ccOfInt (c : Nat) (i : Int) : Nat := (BitVec.ofInt (ccBits c) i).toNat

/-- What iota reads as a vcvt source (R138). -/
def ccIota (c n : Nat) : Vec :=
  fromElems (ccBits c) ((List.range n).map fun (i : Nat) =>
    match ccFmt c with
    | some f => (Num.round f .rne false (Num.ofInt i)).1
    | none => i % 2 ^ ccBits c)

/-- The scale of block `k`'s word for a block code. -/
def ccScale (c : Nat) (b : W64) : Num.Val := if c == 9 then Num.scaleE8M0 b.toNat else Num.scaleS20 b.toNat

/-- Deliver a real value in a code's type. -/
def ccDeliver (dst : Nat) (rm : Num.Rm) (sat ftz : Bool) (v : Num.Val) : Nat × Num.Flags :=
  match ccFmt dst with
  | some f =>
    let r := Num.round f rm sat v
    if ftz && (dst == 0 || dst == 1 || dst == 3) then Num.flushOut f r else r
  | none =>
    let r := Num.toIntClamp rm (ccRange dst).1 (ccRange dst).2 v
    (ccOfInt dst r.1, r.2)

/-- Encode a value into a block element with scale s (R147). -/
def blockEncode (dst : Nat) (rm : Num.Rm) (sat : Bool) (s x : Num.Val) : Nat × Num.Flags :=
  let f := (ccFmt dst).getD Num.e2m1
  match s with
  | .zero _ => (0, 0)
  | .nan => (if dst == 7 then 0x7F else 0, Num.fNV)
  | s => Num.divRound f rm sat x s

/-- An integer of one code in another, without a scale (R146): a wider code holds it extended by the source's sign; in a narrower one
the low bits are kept, or, with sat, it is clamped with NV.  R146 names no case for codes of one size: they are treated as narrowing
(DESIGN CHOICE, log entry 71). -/
def ccIntTo (src dst : Nat) (sat : Bool) (i : Int) : Nat × Num.Flags :=
  let (lo, hi) := ccRange dst
  let clamp := sat && decide (ccBits dst ≤ ccBits src)
  if clamp && decide (i < lo) then (ccOfInt dst lo, Num.fNV)
  else if clamp && decide (hi < i) then (ccOfInt dst hi, Num.fNV)
  else (ccOfInt dst i, 0)

/-- One element of a vcvt, with the scale word its source slice holds. -/
def cvtElem (src dst : Nat) (rm : Num.Rm) (sat scl ftz : Bool) (b : W64) (x : Nat) : Nat × Num.Flags :=
  let value : Num.Val := match ccFmt src with
    | some f => Num.decode f x
    | none => Num.ofInt (ccInt src x)
  if ccBlock src then ccDeliver dst rm sat ftz (Num.blockValue (ccScale src b) value)
  else if ccBlock dst then blockEncode dst rm sat (ccScale dst b) value
  else if scl then
    let p := Num.mul value (Num.decode Num.fp32 (lo32 b).toNat)
    let r := ccDeliver dst rm sat ftz p.1
    (r.1, r.2 ||| p.2)
  else if (ccFmt src).isNone && (ccFmt dst).isNone then ccIntTo src dst sat (ccInt src x)
  else ccDeliver dst rm sat ftz value

def execVcvt (d a : BitVec 6) (f : BitVec 5) (ty : BitVec 5) (r : BitVec 2) (sat : BitVec 1) (scl : BitVec 1) (s : State) : Out :=
  let fc := f.toNat
  let tc := ty.toNat
  let n := if ccBits fc == 64 || ccBits tc == 64 then 64 else 128
  vform false (ccIota fc n) (bcastOf (ccBits fc == 64)) (if ccBits fc == ccBits tc then 4 else 20) d a 0 false
    (fun _ => BitVec.allOnes 128)
    (fun t va _ _ =>
      let rs := (List.range n).map fun i =>
        let b := (t.vec.b[if ccBlock fc || ccBlock tc then i / 32 % 4 else 0]'(by split <;> omega))[0]
        cvtElem fc tc (Num.Rm.ofBits r) (sat == 1) (scl == 1) t.ftz b (va.toNat / 2 ^ (ccBits fc * i) % 2 ^ ccBits fc)
      (fromElems (ccBits tc) (rs.map (·.1)), rs.foldl (fun acc x => acc ||| x.2) 0)) s

/-! ## vblk (R148) -/

/-- The maximumNumber of the included magnitudes of block `k`; subnormal operands are taken as they stand, in flush-to-zero too
(DESIGN CHOICE, log entry 69). -/
def blockMax (mk : BitVec 128) (v : Vec) (k : Nat) : Nat :=
  let m := (List.range 32).foldl (fun (acc : Option Num.Val) j =>
    let x := if mk.getLsbD (32 * k + j) then (Num.decode Num.fp32 (lane v (32 * k + j)).toNat).abs else .zero false
    some (match acc with | none => x | some y => Num.maxNum y x)) none
  (Num.round Num.fp32 .rne false (m.getD (.zero false))).1

def execVbamax (d a : BitVec 6) (m : BitVec 3) (s : State) : Out :=
  vform false (iotaOf .f32) (bcastOf false) 8 d a 0 false (fun _ => BitVec.allOnes 128)
    (fun t va _ _ =>
      let ms := (List.range 4).map fun k => blockMax (t.maskReg m) va k
      (fromElems 32 ((List.range 128).map fun i => ms.getD (i / 32) 0), 0)) s

/-- The S20 format as a floating-point format: 8 exponent bits, 12 fraction bits, no sign. -/
def s20Fmt : Num.Fmt := { ebits := 8, fbits := 12, bias := 127, ieee := true, nan := 0xFF800, maxFinite := 0xFEFFF }

/-- S20 of amax / divisor, rounded upward, within the range of the format. -/
def scaleFor (divisor : Nat) (amax : Nat) : Nat :=
  match Num.decode Num.fp32 amax with
  | .nan | .inf _ => 0xFF800
  | .zero _ => 0
  | .fin true _ _ => 0x01000
  | x =>
    let r := (Num.divRound s20Fmt .rup false x (Num.ofInt divisor)).1
    if r < 0x01000 then 0x01000 else if 0xFEFFF < r then 0xFEFFF else r

/-- E8M0 of amax for MXFP4: clamp(floor(log2 amax) − 2 + 127, 0, 254); of a negative amax the specification states no value, so
it is the free value `u` (log entry 10). -/
def scaleMx (u : W64) (amax : Nat) : Nat :=
  match Num.decode Num.fp32 amax with
  | .nan | .inf _ => 0xFF
  | .zero _ => 0
  | .fin true _ _ => u.toNat % 256
  | .fin false m e => (min (max (e + Nat.log2 m - 2 + 127) 0) 254).toNat

/-- A scale form: b[k] is visible to the instructions that issue at count n + 20 or later, and so in the copy of slice s from count
n + 20 + s, as R134 has every latency; R148's 'at every slice from count n + 20' is read so (DEDUCED, log entry 70). -/
def vbsc (draws : Nat) (g : Nat → Nat → Nat) (a : BitVec 6) (s : State) : Out :=
  .next (s.issueV (fun win t =>
    (t.vcheck win [a] []).bind fun _ =>
    (t.vread win (iotaOf .f32) (bcastOf false) 0 a).bind fun va =>
      let recs := (List.range 4).map fun k =>
        ({ rem := 20, act := .bcast (BitVec.ofNat 2 k) (BitVec.ofNat 64 (g k (lane va (32 * k)).toNat)) } : VRec)
      let t := t.vpop a
      .done { t with vec := { t.vec with recs := t.vec.recs ++ recs } }) draws)

/-- The four blocks of a vbsc.mx draw four free values, used only where amax is negative. -/
def execVbscMx (a : BitVec 6) (s : State) : Out :=
  vbsc 4 (fun k x => scaleMx (Config.freeValue (s.drawn + k)) x) a s
def execVbscSb8 (a : BitVec 6) (s : State) : Out := vbsc 0 (fun _ x => scaleFor 448 x) a s
def execVbscSb4 (a : BitVec 6) (s : State) : Out := vbsc 0 (fun _ x => scaleFor 6 x) a s

/-! ## vfunc (R149) -/

def vfunc (lat : Ty → Nat) (g : Num.Fmt → Num.Rm → Num.Val → Nat × Num.Flags) (d a : BitVec 6) (m : BitVec 3) (ty : BitVec 2)
    (s : State) : Out :=
  let ty := Ty.ofBits ty
  vform false (iotaOf ty) (bcastOf (ty == .f64)) (lat ty) d a 0 false (fun t => laneEn ty (t.maskReg m))
    (fun t va _ _ =>
      vlift ty (t.maskReg m) (fun x _ _ =>
        let r := g ty.fmt (t.rm .vector) (fin t.ftz ty.fmt x)
        if t.ftz then Num.flushOut ty.fmt r else r) va 0 0) s

def execVrcp (d a : BitVec 6) (m : BitVec 3) (ty : BitVec 2) (s : State) : Out :=
  vfunc (fun ty => if ty == .f64 then 10 else 8) (fun f _ x => Num.divRound f .rne false (Num.ofInt 1) x) d a m ty s
def execVrsq (d a : BitVec 6) (m : BitVec 3) (ty : BitVec 2) (s : State) : Out :=
  vfunc (fun _ => 8) (fun f _ x => Num.rsqrtRound f x) d a m ty s
def execVexp2 (d a : BitVec 6) (m : BitVec 3) (ty : BitVec 2) (s : State) : Out :=
  vfunc (fun _ => 8) (fun f _ x => Num.exp2Round f x) d a m ty s
def execVlog2 (d a : BitVec 6) (m : BitVec 3) (ty : BitVec 2) (s : State) : Out :=
  vfunc (fun _ => 8) (fun f _ x => Num.log2Round f x) d a m ty s
def execVsinp (d a : BitVec 6) (m : BitVec 3) (ty : BitVec 2) (s : State) : Out :=
  vfunc (fun _ => 8) (fun f _ x => Num.sinPiRound f x) d a m ty s
def execVcosp (d a : BitVec 6) (m : BitVec 3) (ty : BitVec 2) (s : State) : Out :=
  vfunc (fun _ => 8) (fun f _ x => Num.cosPiRound f x) d a m ty s
def execVtanh (d a : BitVec 6) (m : BitVec 3) (ty : BitVec 2) (s : State) : Out :=
  vfunc (fun _ => 8) (fun f _ x => Num.tanhRound f x) d a m ty s
def execVsqrt (d a : BitVec 6) (m : BitVec 3) (ty : BitVec 2) (s : State) : Out :=
  vfunc (fun ty => if ty == .f64 then 16 else 12) (fun f rm x => Num.sqrtRound f rm x) d a m ty s

/-! ## vred (R150, R69) -/

/-- One level of the reduction tree: neighbours combine, the lower-numbered on the left. -/
def treeLevel (op : Nat → Nat → Nat × Num.Flags) : List Nat → List Nat × Num.Flags
  | x :: y :: rest =>
    let r := op x y
    let q := treeLevel op rest
    (r.1 :: q.1, r.2 ||| q.2)
  | l => (l, 0)

/-- The tree of Table 3-11, by levels. -/
def treeReduce (op : Nat → Nat → Nat × Num.Flags) : Nat → List Nat → Num.Flags → Nat × Num.Flags
  | 0, l, f => (l.headD 0, f)
  | n + 1, l, f =>
    let r := treeLevel op l
    treeReduce op n r.1 (f ||| r.2)

/-- A reduction from its element map, identity and operation; the total goes to every element. -/
def vreduce (el : Tile → Ty → Nat → Nat) (ident : Ty → Nat) (op : Tile → Ty → Nat → Nat → Nat × Num.Flags)
    (d a : BitVec 6) (m : BitVec 3) (ty : BitVec 2) (s : State) : Out :=
  let ty := Ty.ofBits ty
  vform false (iotaOf ty) (bcastOf (ty == .f64)) 24 d a 0 false (fun _ => BitVec.allOnes 128)
    (fun t va _ _ =>
      let w := ty.width
      let xs := (List.range ty.num).map fun i =>
        if (t.maskReg m).getLsbD i then el t ty (va.toNat / 2 ^ (w * i) % 2 ^ w) else ident ty
      let r := treeReduce (op t ty) (if ty == .f64 then 6 else 7) xs 0
      (fromElems w (List.replicate ty.num r.1), r.2)) s

/-- An element as a reduction takes it: flushed under the mode. -/
def redIn (t : Tile) (ty : Ty) (x : Nat) : Nat := if t.ftz && ty != .i32 then Num.flushIn ty.fmt x else x

def redAdd (t : Tile) (ty : Ty) (x y : Nat) : Nat × Num.Flags :=
  match ty with
  | .i32 => ((x + y) % 2 ^ 32, 0)
  | _ => fout t.ftz ty.fmt (t.rm .vector) (Num.add (t.rm .vector) (fin t.ftz ty.fmt x) (fin t.ftz ty.fmt y))

/-- A maximum or minimum of two elements. -/
def redPick (fp : Num.Val → Num.Val → Num.Val) (int : W32 → W32 → Bool) (_ : Tile) (ty : Ty) (x y : Nat) : Nat × Num.Flags :=
  match ty with
  | .i32 => (if int (BitVec.ofNat 32 x) (BitVec.ofNat 32 y) then x else y, 0)
  | _ => ((Num.round ty.fmt .rne false (fp (Num.decode ty.fmt x) (Num.decode ty.fmt y))).1, 0)

def execVsum (d a : BitVec 6) (m : BitVec 3) (ty : BitVec 2) (s : State) : Out :=
  vreduce redIn (fun ty => if ty == .i32 then 0 else Num.signBit ty.fmt true) redAdd d a m ty s
def execVrmax (d a : BitVec 6) (m : BitVec 3) (ty : BitVec 2) (s : State) : Out :=
  vreduce redIn (fun ty => if ty == .i32 then 0x80000000 else ty.fmt.nan) (redPick Num.maxNum fun x y => y.sle x) d a m ty s
def execVrmin (d a : BitVec 6) (m : BitVec 3) (ty : BitVec 2) (s : State) : Out :=
  vreduce redIn (fun ty => if ty == .i32 then 0x7FFFFFFF else ty.fmt.nan) (redPick Num.minNum fun x y => x.sle y) d a m ty s

/-- The magnitude of an element: unsigned for i32. -/
def redAbs (t : Tile) (ty : Ty) (x : Nat) : Nat :=
  match ty with
  | .i32 => if x < 2 ^ 31 then x else 2 ^ 32 - x
  | _ => redIn t ty x % 2 ^ (ty.width - 1)

def execVramax (d a : BitVec 6) (m : BitVec 3) (ty : BitVec 2) (s : State) : Out :=
  vreduce redAbs (fun _ => 0) (redPick Num.maxNum fun x y => y.ule x) d a m ty s

/-! ## Ring lanes (R151, R152) -/

/-- The datum of one tap standing at slice `x` at count `m + x`: the count it was written at, the hops it made, and its 32 bytes. -/
def tapAt (lane : BitVec 4) (n : W64) (v : Vec) (m : W64) (x : Nat) : List (Nat × Nat × Nat) :=
  (List.range 16).filterMap fun j =>
    let src := if lane.toNat < 8 then (x + 16 - j) % 16 else (x + j) % 16
    if n.toNat + src + j + 1 = m.toNat + x then some (n.toNat + src, j, v.toNat / 2 ^ (256 * src) % 2 ^ 256) else none

/-- Of two data at one position the later written stands, and of two written at one count the one with fewer hops. -/
def tapBest : List (Nat × Nat × Nat) → Option (Nat × Nat × Nat)
  | [] => none
  | x :: rest =>
    match tapBest rest with
    | none => some x
    | some y => some (if y.1 < x.1 || (y.1 == x.1 && decide (x.2.1 ≤ y.2.1)) then x else y)

/-- A tap at count `n` is lost to a vrot on its lane within 31 counts, before or after it (R152). -/
def nearRot (taps : List Tap) (lane : BitVec 4) (n : W64) : Bool :=
  taps.any fun x => x.val.isNone && x.lane == lane && decide ((n - x.count).toNat ≤ 31 ∨ (x.count - n).toNat ≤ 31)

/-- What a vtapr issued at `m` reads on a lane. -/
def tapRead (taps : List Tap) (lane : BitVec 4) (m : W64) : Vec :=
  if nearRot taps lane m then 0
  else fromElems 256 ((List.range 16).map fun x =>
    let cands := taps.flatMap fun p =>
      match p.val with
      | some v => if p.lane == lane && !nearRot taps lane p.count then tapAt lane p.count v m x else []
      | none => []
    match tapBest cands with | some r => r.2.2 | none => 0)

def execVtapw (v : BitVec 6) (l : BitVec 4) (s : State) : Out :=
  .next (s.issueV fun win t =>
    (t.vcheck win [v] []).bind fun _ =>
    (t.vread win 0 (bcastOf false) 0 v).bind fun x =>
      .done { t with vec := { t.vec with taps := t.vec.taps ++ [{ lane := l, count := (t.str .vector).count, val := some x }] } })

/-- A vtapr has read `x`: its record, of latency 1. -/
def Tile.tapTo (t : Tile) (win : Bool) (v : BitVec 6) (l : BitVec 4) (x : Vec) : Tile :=
  match t.viewRow win v.toNat with
  | some r => { t with vec := { t.vec with recs := t.vec.recs ++ [{ rem := 1, act := .tap r l (t.str .vector).count x }] } }
  | none => t

/-- The lanes that hold what a tap has delivered so far: those of the slices its result has reached. -/
def Tile.reachedBy (t : Tile) (e : TapRead) : BitVec 128 :=
  match t.vec.late.find? fun l => match l.act with | .tap r k n _ => r == e.row && k == e.lane && n == e.count | _ => false with
  | some l => e.en &&& ~~~lanesBeyond l.age
  | none => e.en

/-- A vrot takes lane `l`: a vtapr of the lane issued within the last 31 counts has read zero (R152), in the lanes that still hold what it
read.  Instructions that have read such a register meanwhile keep what they read (log entry 19). -/
def Tile.takeLane (t : Tile) (l : BitVec 4) : Tile :=
  let now := (t.str .vector).count
  let hit (lane : BitVec 4) (n : W64) : Bool := lane == l && decide ((now - n).toNat ≤ 31)
  let blank (a : VAct) : VAct := match a with
    | .tap r k n v => .tap r k n (if hit k n then 0 else v)
    | _ => a
  { t with
    rsp := (t.vec.reads.filter fun e => hit e.lane e.count).foldl
      (fun m e => m.setRow e.row (blend (t.reachedBy e) 0 (m.row e.row))) t.rsp
    vec := { t.vec with
      taps := t.vec.taps ++ [{ lane := l, count := now, val := none }]
      reads := t.vec.reads.filter fun e => !hit e.lane e.count
      late := t.vec.late.map fun x => { x with act := blank x.act }
      recs := t.vec.recs.map fun x => { x with act := blank x.act } } }

def execVtapr (v : BitVec 6) (l : BitVec 4) (s : State) : Out :=
  .next (s.issueV fun win t =>
    (t.vcheck win [] [v]).bind fun _ =>
      .done (t.tapTo win v l (tapRead t.vec.taps l (t.str .vector).count)))

/-! ## Rotation and shuffle (R153, R154) -/

/-- Latency of a rotation at destination slice `x` (Table 6-4). -/
def rotLat (ac : Bool) (k x : Nat) : Nat :=
  if k = 0 then 1
  else if ac then (if x + k ≤ 15 then 2 * k + 1 else max 1 (2 * k - 15))
  else (if k ≤ x then 1 else 17)

/-- The rotated vector. -/
def rotVec (ac : Bool) (k : Nat) (v : Vec) : Vec :=
  fromElems 256 ((List.range 16).map fun x =>
    let src := if ac then (x + k) % 16 else (x + 16 - k) % 16
    v.toNat / 2 ^ (256 * src) % 2 ^ 256)

/-- The lanes of the slices with a property. -/
def sliceLanes (f : Nat → Bool) : BitVec 128 := maskOf fun i => f (i / 8)

def execVrot (d a : BitVec 6) (m : BitVec 3) (r : BitVec 1) (k : BitVec 4) (s : State) : Out :=
  .next (s.issueV fun win t =>
    (t.vcheck win [a] [d]).bind fun _ =>
    (t.vroom d).bind fun _ =>
    let ac := r == 1
    let t := t.takeLane (if ac then 15 else 7)
    (t.vread win Config.untypedIota (bcastOf false) 0 a).bind fun va =>
      let v := rotVec ac k.toNat va
      let en := t.maskReg m
      let t := t.vpop a
      if d.toNat < 48 then
        let lats := ((List.range 16).map (rotLat ac k.toNat)).eraseDups
        .done (lats.foldl (fun t l =>
          t.vdeliver win d l (en &&& sliceLanes fun x => rotLat ac k.toNat x == l) v 0) t)
      else .done (t.vdeliver win d (rotLat ac k.toNat 15) en v 0))

/-- Result lane l of every slice is the slice's lane of the pattern's l-th field. -/
def shufVec (pat : W32) (v : Vec) : Vec :=
  ofLanes fun i => lane v (i / 8 * 8 + fld pat.toNat (3 * (i % 8)) 3)

def execVshuf (d a : BitVec 6) (m : BitVec 3) (x : List W32) (s : State) : Out :=
  vform false Config.untypedIota (bcastOf false) 2 d a 0 false (fun t => t.maskReg m)
    (fun _ va _ _ => (shufVec (x.headD 0) va, 0)) s

/-! ## Between the clusters (R155, R156) -/

/-- Pop the head of j[ch]. -/
def Tile.popJ (t : Tile) (c : BitVec 1) : Res (W64 × Tile) :=
  match headOf (t.fifo.j[c.toNat]) t.tcc with
  | none => .hold
  | some w => .done (w, { t with fifo := { t.fifo with j := t.fifo.j.set c.toNat (t.fifo.j[c.toNat]).tail } })

def execVins (v : BitVec 6) (c : BitVec 1) (e : BitVec 7) (a : BitVec 1) (s : State) : Out :=
  .next (s.issueV fun win t =>
    (t.vcheck win [] [v]).bind fun _ =>
    (t.popJ c).bind fun r =>
      let en := if a = 1 then BitVec.allOnes 128 else maskOf fun i => i == e.toNat
      .done (r.2.vdeliver win v 1 en (bcastOf false r.1) 0))

def execVinsB (c : BitVec 1) (b : BitVec 2) (s : State) : Out :=
  .next (s.issueV fun _ t =>
    (t.popJ c).bind fun r =>
      .done { r.2 with vec := { r.2.vec with recs := r.2.vec.recs ++ [{ rem := 1, act := .bcast b r.1 }] } })

/-- Reserve an entry of e[i] and push `v` into it `rem` counts from now: in the issue cycle itself for 0. -/
def Tile.pushAfter (t : Tile) (i : BitVec 1) (rem : Nat) (v : W64) : Tile :=
  let tag := (t.str .vector).count
  let t := { t with fifo := { t.fifo with e := t.fifo.e.set i.toNat (reserve t.fifo.e[i.toNat] 0 tag) } }
  if rem = 0 then t.vact (.pushE i tag v)
  else { t with vec := { t.vec with recs := t.vec.recs ++ [{ rem := rem, act := .pushE i tag v }] } }

def execVext (v : BitVec 6) (c : BitVec 1) (e : BitVec 7) (s : State) : Out :=
  .next (s.issueV fun win t =>
    (t.vcheck win [v] []).bind fun _ =>
    (t.vread win 0 (bcastOf false) 0 v).bind fun x =>
      if 16 ≤ (t.fifo.e[c.toNat]).length then .hold
      else
        let e' := (e.toNat + 1) % 128
        .done (t.pushAfter c (max (e.toNat / 8) (e' / 8)) (lane x e' ++ lane x e.toNat)))

/-! ## Accumulators (R157) -/

/-- Register-space row of row `r` of accumulator c[c]. -/
def accRow (c : BitVec 1) (r : Nat) : Nat := 512 + 128 * c.toNat + r

def execVacr (v : BitVec 6) (c : BitVec 1) (r : BitVec 7) (s : State) : Out :=
  .next (s.issueV fun win t =>
    if !win then .trap { code := cViewRange }
    else (t.vcheck win [] [v]).bind fun _ =>
      .done (t.vdeliver win v 4 (BitVec.allOnes 128) (t.rowOf (accRow c r.toNat)) 0))

/-- vacw: slice s writes its part of the row at count n + s. -/
def execVacw (v : BitVec 6) (c : BitVec 1) (r : BitVec 7) (s : State) : Out :=
  .next (s.issueV fun win t =>
    if !win then .trap { code := cViewRange }
    else (t.vcheck win [v] []).bind fun _ =>
    (t.vread win 0 (bcastOf false) 0 v).bind fun x =>
      .done (t.vact (.row (accRow c r.toNat) (BitVec.allOnes 128) x)))

/-! ## Views and mode (R159, R160) -/

def execVview (d : BitVec 6) (x : List W32) (s : State) : Out :=
  .next (s.issueV fun _ t => .done { t with vec := viewWrite t.vec d.toNat (zext64 (x.headD 0)) })

def execVmode (w b : BitVec 2) (c f : BitVec 1) (r : BitVec 2) (s : State) : Out :=
  .next (s.issueV fun _ t =>
    .done (t.setMode (0#3 ++ w ++ b ++ c ++ f ++ r : BitVec 11)))

/-! ## Masks (R161) -/

/-- A whole-mask operation, L = 1. -/
def mop (f : BitVec 128 → BitVec 128 → BitVec 128) (d a b : BitVec 3) (s : State) : Out :=
  .next (s.issueV fun _ t =>
    .done { t with vec := { t.vec with recs := t.vec.recs ++
      [{ rem := 1, act := .mask d (BitVec.allOnes 128) (f (t.maskReg a) (t.maskReg b)) }] } })

def execMand (d a b : BitVec 3) (s : State) : Out := mop (fun x y => x &&& y) d a b s
def execMor (d a b : BitVec 3) (s : State) : Out := mop (fun x y => x ||| y) d a b s
def execMxor (d a b : BitVec 3) (s : State) : Out := mop (fun x y => x ^^^ y) d a b s
def execMnot (d a : BitVec 3) (s : State) : Out := mop (fun x _ => ~~~x) d a 0 s

def execMpopc (a : BitVec 3) (s : State) : Out :=
  .next (s.issueV fun _ t =>
    if 16 ≤ (t.fifo.e[0]).length then .hold
    else .done (t.pushAfter 0 16 (BitVec.ofNat 64 (popc (t.maskReg a)))))

/-! ## The codebook banks (R164-R166) -/

/-- The entries a cbld writes: entry e is 16 bytes of source vector e div 32. -/
def loadPlane (p : Plane) (kind : BitVec 6) (count : Nat) (src : List Vec) : Plane :=
  { p with kind := kind, count := count,
           entries := Vector.ofFn fun e : Fin 256 =>
             if e.val < count then (src.getD (e.val / 32) 0).extractLsb' (128 * (e.val % 32)) 128 else p.entries[e] }

/-- The source vectors of a cbld: a register at issue at every slice, or the first ceil(count/32) entries of a stream. -/
def Tile.codeSource (t : Tile) (win : Bool) (a : BitVec 6) (vecs : Nat) : Res (List Vec) :=
  if a.toNat < 48 then (t.vreadIx win 0 a).map fun v => [v]
  else (List.range vecs).foldr (fun i acc => (t.vread win 0 (bcastOf false) i a).bind fun v => acc.map fun vs => v :: vs) (.done [])

/-- Pop `n` entries of a stream. -/
def Tile.vpopN (t : Tile) (a : BitVec 6) : Nat → Tile
  | 0 => t
  | n + 1 => (t.vpop a).vpopN a n

def execCbld (d a : BitVec 6) (k : BitVec 2) (n : BitVec 8) (s : State) : Out :=
  .next (s.issueV fun win t =>
    let count := n.toNat + 1
    let vecs := (count + 31) / 32
    (t.vcheck win [a] []).bind fun _ =>
    (t.codeSource win a vecs).bind fun src =>
      let b := t.sync.bank[k.toNat]
      if 0 < b.back.captures then .hold
      else
        let t := t.vpopN a vecs
        .done { t with sync := { t.sync with bank := t.sync.bank.set k.toNat { b with back := loadPlane b.back d count src } } })

def execCbswap (k : BitVec 2) (s : State) : Out :=
  .next (s.issueV fun _ t =>
    let b := t.sync.bank[k.toNat]
    .done { t with sync := { t.sync with bank := t.sync.bank.set k.toNat { front := b.back, back := b.front, swapped := !b.swapped, swappedAt := some t.tcc } } })

def execVcbx (d a : BitVec 6) (k w : BitVec 2) (g : BitVec 8) (s : State) : Out :=
  .next (s.issueV fun win t =>
    (t.vcheck win [a] [d]).bind fun _ =>
    (t.vroom d).bind fun _ =>
    (t.vreadIx win Config.untypedIota a).bind fun va =>
      match expandVec (t.sync.bank[k.toNat]).front w g.toNat va with
      | none => .trap { code := cCodebookIndex }
      | some v => .done ((t.vpop a).vdeliver win d 4 (BitVec.allOnes 128) v 0))

end Sys2Proof.Machine
end

