-- ==== Sys2Proof/Machine/Global.lean ====
section
/-!
DEFINITION. Global memory: homes and their physical map (16_page.md R357, 25_management.md R436), the page walk and its checks
(R356-R362), reads and writes at the point of coherence with tile windows (R366), compressed frames (12_queue.md R304), snapshot
ranges (17_snapshot.md R376, R377, R384), dirty bits (R369), migration counters (R370), and barrier words (15_barrier.md R347, R348).
-/
namespace Sys2Proof.Machine
open Sys2Proof

/-! ## Homes -/

/-- The key of a physical address of a home in the cell's memory. -/
def homeKey (pkg : BitVec 6) (die : BitVec 3) (pa : Nat) : Nat := (pkg.toNat * 8 + die.toNat) * 2 ^ 52 + pa

/-- Installed bytes of a home (R436). -/
def homeSize (die : BitVec 3) : Nat := if die.toNat < 4 then 0x1DCD650000 else 0x165A0BC0000

/-- Where the carve-out begins (R436). -/
def carveOut (die : BitVec 3) : Nat := if die.toNat < 4 then 0x1D4D650000 else 0x163A0BC0000

/-- Entries of a home's shadow pool (R436). -/
def shadowPool (home : Nat) : Nat := if home < 4 then 4194304 else 8388608

/-- Base of the tile windows (Table 16-2). -/
def windowBase : Nat := 0x10000000000

/-- The tile of a die and the offset that a physical address in a tile window names. -/
def windowAt (die : BitVec 3) (pa : Nat) : Option (Nat × Nat) :=
  if die.toNat < 4 ∧ windowBase ≤ pa ∧ pa < windowBase + 160 * 0x200000 then
    some ((pa - windowBase) / 0x200000, (pa - windowBase) % 0x200000)
  else none

/-- `n` bytes of a home that hold memory: its installed memory less the carve-out (Table 16-2), and the frames of this package's
reserves that hold a migrated page (R370; DESIGN CHOICE, log entry 12). -/
def State.inMemory (s : State) (pkg : BitVec 6) (die : BitVec 3) (pa n : Nat) : Bool :=
  decide (die.toNat ≤ 4) &&
    (decide (pa + n ≤ carveOut die) ||
      (pkg == s.pkg && s.store.placed.any fun f =>
        f.1 == die.toNat && decide (f.2.1 ≤ pa) && decide (pa + n ≤ f.2.1 + f.2.2)))

/-- Whether a leaf may map `n` bytes from a physical address of this package (Table 16-4). -/
def State.mappable (s : State) (die : BitVec 3) (pa n : Nat) : Bool :=
  s.inMemory s.pkg die pa n || (decide (die.toNat ≤ 4) && (windowAt die pa).isSome && (windowAt die (pa + n - 1)).isSome)

/-- Whether a table may lie at a physical address of this package. -/
def tableOk (die : BitVec 3) (pa : Nat) : Bool := decide (die.toNat ≤ 4) && decide (pa + 4096 ≤ carveOut die)

/-- The tile a window address names. -/
def windowTile (die : BitVec 3) (pa : Nat) : Option (TileNo × Nat) :=
  match windowAt die pa with
  | some (t, off) => (tileOf? (die.toNat * 160 + t)).map fun x => (x, off)
  | none => none

/-! ## Snapshot reads: awaiting entries (R377) -/

/-- The awaiting entry of lowest level of a line. -/
def awaitingOf (l : List Shadow) (home line : Nat) : Option Shadow :=
  l.foldl (fun acc e =>
    if e.home == home && e.line == line && e.phase == ShadowPhase.awaiting then
      match acc with
      | some b => if e.level < b.level then some e else acc
      | none => some e
    else acc) none

/-! ## Bytes at the point of coherence -/

/-- A tile lets an access of context `c` through its window (R366). -/
def Tile.windowOpen (t : Tile) (c : BitVec 6) : Bool :=
  t.ctx == c && (t.phase == .bound || t.phase == .running || t.phase == .trapped)

/-- The byte that context `c` reads at a home. -/
def State.rd1 (s : State) (c : BitVec 6) (pkg : BitVec 6) (die : BitVec 3) (pa : Nat) : Byte :=
  match if pkg == s.pkg then windowTile die pa else none with
  | some (t, off) => if (s.tile t).windowOpen c then (s.tile t).spad.read off else 0
  | none =>
    match if pkg == s.pkg then awaitingOf s.store.shadows die.toNat (pa / 128) else none with
    | some e => e.data.extractLsb' (8 * (pa % 128)) 8
    | none => s.store.mem.read (homeKey pkg die pa)

/-- `n` bytes from an address, little-endian. -/
def State.rdN (s : State) (c : BitVec 6) (pkg : BitVec 6) (die : BitVec 3) (pa : Nat) : Nat → Nat
  | 0 => 0
  | n + 1 => (s.rd1 c pkg die pa).toNat + 256 * s.rdN c pkg die (pa + 1) n

/-- Write a byte at a home: a closed window discards it; device memory sets its dirty bit (R369). -/
def State.wr1 (s : State) (c : BitVec 6) (pkg : BitVec 6) (die : BitVec 3) (pa : Nat) (b : Byte) : State :=
  match if pkg == s.pkg then windowTile die pa else none with
  | some (t, off) => if (s.tile t).windowOpen c then s.modTile t fun x => { x with spad := x.spad.write off b } else s
  | none =>
    let k := homeKey pkg die pa
    { s with store := { s.store with mem := s.store.mem.write k b, dirty := s.store.dirty.write (k / 4096) 1 } }

def State.wrN (s : State) (c : BitVec 6) (pkg : BitVec 6) (die : BitVec 3) (pa : Nat) : Nat → Nat → State
  | 0, _ => s
  | n + 1, v => (s.wr1 c pkg die pa (BitVec.ofNat 8 v)).wrN c pkg die (pa + 1) n (v / 256)

/-! ## The walk (R356-R360) -/

/-- What an access wants of a page. -/
inductive Want where
  | read | write | code
  deriving DecidableEq, Repr

def pteV (e : W64) : Bool := e.getLsbD 0
def pteW (e : W64) : Bool := e.getLsbD 1
def pteX (e : W64) : Bool := e.getLsbD 2
def pteCmp (e : W64) : Bool := e.getLsbD 3
def pteAgg (e : W64) : Bool := e.getLsbD 4
def pteBar (e : W64) : Bool := e.getLsbD 5
def pteMode (e : W64) : BitVec 3 := e.extractLsb' 6 3
def pteCont (e : W64) : Bool := e.getLsbD 9
def pteLeaf (e : W64) : Bool := e.getLsbD 11
def ptePfn (e : W64) : Nat := fld e.toNat 12 40
def pteDie (e : W64) : BitVec 3 := e.extractLsb' 52 3
def ptePkg (e : W64) : BitVec 6 := e.extractLsb' 55 6

def modeLocal : BitVec 3 := 0
def modeDirect : BitVec 3 := 1
def modeCached : BitVec 3 := 2
def modeMigrate : BitVec 3 := 3

/-- The table entry at an index of a table of this package. -/
def State.entryAt (s : State) (die : BitVec 3) (table i : Nat) : W64 := BitVec.ofNat 64 (s.rdN 0 s.pkg die (table + 8 * i) 8)

/-- The 16 entries of a contiguous group agree (R359). -/
def groupOk (lvl : Nat) (es : List W64) : Bool :=
  let step := if lvl = 0 then 1 else 512
  let first := es.headD 0
  let mask : W64 := 0xFFF0000000000FFF#64
  ptePfn first % (16 * step) == 0 &&
    (List.range 16).all fun i =>
      let e := es.getD i 0
      pteV e && pteCont e && (e &&& mask) == (first &&& mask) && ptePfn e == ptePfn first + i * step

/-- A leaf entry met at a level: the entry and the size of what it maps, or PAGE-NOT-PRESENT.  Of a contiguous group the whole size is
judged (R359). -/
def State.leafAt (s : State) (lvl : Nat) (die : BitVec 3) (table i : Nat) (e : W64) : Except Nat (W64 × Nat) :=
  let size := 4096 * 512 ^ lvl
  let es := (List.range 16).map fun k => s.entryAt die table (i / 16 * 16 + k)
  let whole := if pteCont e then 16 * size else size
  if decide (3 < (pteMode e).toNat) || decide (4 < (pteDie e).toNat) || (pteCont e && lvl == 2)
      || (pteCont e && !groupOk lvl es) || ptePfn e % 512 ^ lvl != 0
      || (ptePkg e == s.pkg && !s.mappable (pteDie e) (4096 * ptePfn e / whole * whole) whole) then .error cPageNotPresent
  else .ok (e, whole)

/-- Walk from the table of level `lvl`. -/
def State.walkFrom (s : State) (va : W64) : Nat → BitVec 3 → Nat → Except Nat (W64 × Nat)
  | lvl, die, table =>
    let i := fld va.toNat (12 + 9 * lvl) 9
    let e := s.entryAt die table i
    if !pteV e || (e.extractLsb' 61 3 != 0) || e.getLsbD 10 then .error cPageNotPresent
    else
      match lvl with
      | 0 => if pteLeaf e then .error cPageNotPresent else s.leafAt 0 die table i e
      | l + 1 =>
        if pteLeaf e then (if l + 1 ≤ 2 then s.leafAt (l + 1) die table i e else .error cPageNotPresent)
        else if (e.extractLsb' 1 11 != 0) || ptePkg e != s.pkg || !tableOk (pteDie e) (4096 * ptePfn e) then .error cPageNotPresent
        else s.walkFrom va l (pteDie e) (4096 * ptePfn e)

/-- VA[63:57] all equal VA[56]. -/
def canonical (va : W64) : Bool := (va.extractLsb' 56 8 == 0) || (va.extractLsb' 56 8 == 0xFF)

/-- The walk of context `c` for an address: the leaf entry and the size it maps. -/
def State.walk (s : State) (c : BitVec 6) (va : W64) : Except Nat (W64 × Nat) :=
  let root := (s.ctx c).root
  if !canonical va || !tableOk (pteDie root) (4096 * ptePfn root) then .error cPageNotPresent
  else s.walkFrom va 4 (pteDie root) (4096 * ptePfn root)

/-- The physical location that a leaf gives an address of the `size` bytes it maps; a contiguous group is aligned to its size, so any of
its entries names the group's base (R359). -/
def physOf (e : W64) (size : Nat) (va : W64) : Phys :=
  { pkg := ptePkg e, die := pteDie e, pa := BitVec.ofNat 52 (4096 * ptePfn e / size * size + va.toNat % size), mode := pteMode e,
    agg := pteAgg e, bar := pteBar e, cmp := pteCmp e }

/-- A frame's attribute in its home's table (R367). -/
def State.frameCmp (s : State) (pkg : BitVec 6) (die : BitVec 3) (pa : Nat) : Bool :=
  s.store.attr.read (homeKey pkg die pa / 65536) != 0

/-- A forbidden combination of attributes (Table 16-5). -/
def State.attrBad (s : State) (e : W64) (size : Nat) (p : Phys) : Bool :=
  let m := pteMode e
  let win := (windowAt p.die p.pa.toNat).isSome
  (p.pkg == s.pkg && pteCmp e != s.frameCmp p.pkg p.die p.pa.toNat)
    || (pteCmp e && (m == modeMigrate || pteBar e))
    || (pteBar e && (pteAgg e || m == modeCached || m == modeMigrate))
    || ((m == modeLocal || m == modeMigrate) && p.pkg != s.pkg)
    || (m == modeMigrate && decide (65536 < size))
    || (win && (pteCmp e || m == modeCached || m == modeMigrate))

/-- The checks after the walk, in the order of Table 16-4; `coded` allows COMPRESSED frames. -/
def State.checkPte (s : State) (e : W64) (size : Nat) (va : W64) (want : Want) (coded : Bool) : Except Nat Phys :=
  let p := physOf e size va
  if s.attrBad e size p then .error cAttribute
  else if (want == .write && !pteW e) || (want == .code && !pteX e) then .error cPermission
  else if pteCmp e && !coded then .error cCompressed
  else .ok p

/-- Translation without a TLB: of the Hearth, dispatch, copy engines and endpoints. -/
def State.translate (s : State) (c : BitVec 6) (va : W64) (want : Want) (coded : Bool) : Except Nat Phys :=
  match s.walk c va with
  | .error x => .error x
  | .ok (e, size) => s.checkPte e size va want coded

/-! ## Compressed frames (R304) -/

/-- Decode one code of a chunk at bit `pos`: the words it gives and the bits it takes (Table 12-14). -/
def decodeCode (x pos : Nat) : List Nat × Nat :=
  let f := fun lo n => fld x (pos + lo) n
  let sx := fun (w v : Nat) => ((BitVec.ofNat w v).signExtend 32).toNat
  match f 0 3 with
  | 0 => (List.replicate (f 3 3 + 1) 0, 6)
  | 1 => ([sx 4 (f 3 4)], 7)
  | 2 => ([sx 8 (f 3 8)], 11)
  | 3 => ([sx 16 (f 3 16)], 19)
  | 4 => ([f 3 16 * 65536], 19)
  | 5 => ([((BitVec.ofNat 8 (f 3 8)).signExtend 16).toNat + 65536 * ((BitVec.ofNat 8 (f 11 8)).signExtend 16).toNat], 19)
  | 6 => ([f 3 8 * 0x01010101], 11)
  | _ => ([f 3 32], 35)

/-- Decode 64 words. -/
def decodeWords (x : Nat) : Nat → Nat → List Nat → List Nat
  | 0, _, acc => acc.take 64
  | fuel + 1, pos, acc =>
    if 64 ≤ acc.length then acc.take 64
    else
      let r := decodeCode x pos
      decodeWords x fuel (pos + r.2) (acc ++ r.1)

/-- A word is the sign extension of its low `w` bits. -/
def fitsSigned (w v : Nat) : Bool := ((BitVec.ofNat w v).signExtend 32).toNat == v

/-- The code of one nonzero word: its bits and their number, by the encoder's choice (R304). -/
def encodeOne (v : Nat) : Nat × Nat :=
  if fitsSigned 4 v then (1 + 8 * (v % 16), 7)
  else if fitsSigned 8 v then (2 + 8 * (v % 256), 11)
  else if v == v % 256 * 0x01010101 then (6 + 8 * (v % 256), 11)
  else if fitsSigned 16 v then (3 + 8 * (v % 65536), 19)
  else if v % 65536 == 0 then (4 + 8 * (v / 65536), 19)
  else
    let b0 := v % 65536
    let b1 := v / 65536
    let half := fun x => ((BitVec.ofNat 8 x).signExtend 16).toNat == x
    if half b0 && half b1 then (5 + 8 * (b0 % 256) + 2048 * (b1 % 256), 19) else (7 + 8 * v, 35)

/-- Encode words: the bits and their number. -/
def encodeChunk : Nat → List Nat → Nat × Nat
  | 0, _ => (0, 0)
  | _, [] => (0, 0)
  | fuel + 1, v :: rest =>
    if v = 0 then
      let n := min 8 (1 + (rest.takeWhile fun x => x == 0).length)
      let q := encodeChunk fuel (rest.drop (n - 1))
      (8 * (n - 1) + 64 * q.1, 6 + q.2)
    else
      let r := encodeOne v
      let q := encodeChunk fuel rest
      (r.1 + 2 ^ r.2 * q.1, r.2 + q.2)

/-- The 256 bytes of a chunk of a COMPRESSED frame, decoded, as a number. -/
def State.chunkValue (s : State) (pkg : BitVec 6) (die : BitVec 3) (pa : Nat) : Nat :=
  let base := pa / 256 * 256
  let raw := s.rdN 0 pkg die base 256
  if s.store.chunk.read (homeKey pkg die base / 256) == 0x0F then raw
  else packList 32 (decodeWords raw 64 0 [])

/-- Store 256 bytes as a coded chunk. -/
def State.chunkStore (s : State) (pkg : BitVec 6) (die : BitVec 3) (pa : Nat) (v : Nat) : State :=
  let base := pa / 256 * 256
  let key := homeKey pkg die base / 256
  let c := encodeChunk 64 ((List.range 64).map fun i => fld v (32 * i) 32)
  let k := (c.2 + 127) / 128
  let s' := if k ≤ 15 then s.wrN 0 pkg die base (16 * k) c.1 else s.wrN 0 pkg die base 256 v
  { s' with store := { s'.store with chunk := s'.store.chunk.write key (if k ≤ 15 then BitVec.ofNat 8 (k - 1) else 0x0F) } }

/-- A byte as copy engines, the Hearth and endpoints read it: decoded from a COMPRESSED frame. -/
def State.rdC (s : State) (c : BitVec 6) (p : Phys) : Byte :=
  let pa := p.pa.toNat
  if s.frameCmp p.pkg p.die pa && (windowAt p.die pa).isNone then
    BitVec.ofNat 8 (fld (s.chunkValue p.pkg p.die pa) (8 * (pa % 256)) 8)
  else s.rd1 c p.pkg p.die pa

/-- A byte as they write it. -/
def State.wrC (s : State) (c : BitVec 6) (p : Phys) (b : Byte) : State :=
  let pa := p.pa.toNat
  if s.frameCmp p.pkg p.die pa && (windowAt p.die pa).isNone then
    let v := s.chunkValue p.pkg p.die pa
    let i := pa % 256
    let old := fld v (8 * i) 8
    s.chunkStore p.pkg p.die pa (v - old * 2 ^ (8 * i) + b.toNat * 2 ^ (8 * i))
  else s.wr1 c p.pkg p.die pa b

/-! ## Snapshot ranges (R376, R384) -/

/-- A range contains a physical address of its home. -/
def SnapRange.holds (r : SnapRange) (home pa : Nat) : Bool :=
  r.en && r.die.toNat == home && decide (r.base.toNat * 65536 ≤ pa) && decide (pa < (r.base.toNat + r.sizem1.toNat + 1) * 65536)

/-- The context and range that hold an address of this package. -/
def State.rangeAt (s : State) (home pa : Nat) : Option (BitVec 6 × Fin 16) :=
  (List.range 64).findSome? fun c =>
    let cx := BitVec.ofNat 6 c
    ((List.finRange 16).find? fun i => (s.snaps[cx.toNat]).ranges[i].holds home pa).map fun i => (cx, i)

/-- The stamp of a line of this package. -/
def State.stampOf (s : State) (home line : Nat) : Nat :=
  s.store.stamp.readN (8 * (homeKey s.pkg (BitVec.ofNat 3 home) 0 / 128 + line)) 6

def State.setStamp (s : State) (home line v : Nat) : State :=
  { s with store := { s.store with
      stamp := s.store.stamp.writeN (8 * (homeKey s.pkg (BitVec.ofNat 3 home) 0 / 128 + line)) 6 v } }

/-- The 128 bytes of a line as they stand in memory. -/
def State.lineData (s : State) (home line : Nat) : BitVec 1024 :=
  BitVec.ofNat 1024 (s.store.mem.readN (homeKey s.pkg (BitVec.ofNat 3 home) (128 * line)) 128)

/-- Restore a line that has entries awaiting restore: the data and old stamp of the entry of lowest level come back, and every
awaiting entry of the line is freed (R384). -/
def State.restore (s : State) (home line : Nat) : State :=
  match awaitingOf s.store.shadows home line with
  | none => s
  | some e =>
    let s := { s with store := { s.store with
      mem := s.store.mem.writeN (homeKey s.pkg (BitVec.ofNat 3 home) (128 * line)) 128 e.data.toNat
      shadows := s.store.shadows.filter fun x => !(x.home == home && x.line == line && x.phase == ShadowPhase.awaiting) } }
    s.setStamp home line e.stamp

/-- How a write fares under R376. -/
inductive SnapFate where
  | ok (s : State)
  | hold
  | refuse

/-- Ready a line of this package for a write. -/
def State.snapLine (s : State) (home line : Nat) : SnapFate :=
  let s := s.restore home line
  match s.rangeAt home (128 * line) with
  | none => .ok s
  | some (c, i) =>
    let r := (s.snaps[c.toNat]).ranges[i]
    match r.gens.getLast? with
    | none => .ok s
    | some g =>
      if g ≤ s.stampOf home line then .ok s
      else
        let mine := s.store.shadows.filter fun e => e.ctx == c
        let pool := (s.store.shadows.filter fun e => e.home == home).length
        if (s.snaps[c.toNat]).budget.toNat ≤ mine.length || decide (shadowPool home ≤ pool) then
          if mine.any fun e => e.phase != ShadowPhase.held then .hold else .refuse
        else
          let e : Shadow :=
            { ctx := c, range := i, home := home, line := line, level := r.gens.length, data := s.lineData home line,
              stamp := s.stampOf home line, phase := .held }
          .ok (({ s with store := { s.store with shadows := s.store.shadows ++ [e] } }).setStamp home line g)

/-- Ready every line of an access together, or none (R440). -/
def State.snapLines (s : State) : List (Nat × Nat) → SnapFate
  | [] => .ok s
  | (home, line) :: rest =>
    match s.snapLine home line with
    | .ok s' => s'.snapLines rest
    | .hold => .hold
    | .refuse => .refuse

/-- The lines of this package's device memory that a write of `n` bytes touches. -/
def State.linesOf (s : State) (p : Phys) (n : Nat) : List (Nat × Nat) :=
  if p.pkg == s.pkg && (windowAt p.die p.pa.toNat).isNone then
    (List.range ((p.pa.toNat % 128 + n + 127) / 128)).map fun i => (p.die.toNat, p.pa.toNat / 128 + i)
  else []

/-- Whether any byte of an access lies in an enabled range of this package. -/
def State.inRange (s : State) (p : Phys) (n : Nat) : Bool :=
  (s.linesOf p n).any fun l => (s.rangeAt l.1 (128 * l.2)).isSome

/-! ## Frames held, and migration counters (R368, R370, R371) -/

/-- A page or frame is held by a FRAMESET or a move. -/
def State.frameHeld (s : State) (p : Phys) : Bool :=
  (match s.page.run with
   | some (op, _, a0, _) => op == 3 && p.pkg == s.pkg && p.die == pteDie a0 && p.pa.toNat / 65536 == ptePfn a0 / 16
   | none => false)
  || s.store.migs.any fun m =>
    match m.phase with
    | .moving _ _ _ => p.pkg == s.pkg && p.die.toNat == m.home &&
        (match s.walk m.ctx m.va with
         | .ok (e, _) => p.pa.toNat / m.size == 4096 * ptePfn e / m.size
         | .error _ => false)
    | _ => false

/-- Count an access of die `d` to a MIGRATE page (R370): 4,096 counters, of which the lowest is reused. -/
def State.countAccess (s : State) (d : Nat) (c : BitVec 6) (p : Phys) (va : W64) : State :=
  if p.mode != modeMigrate || p.pkg != s.pkg || d == p.die.toNat || decide (3 < d) || s.inRange p 1 then s
  else
    match s.walk c va with
    | .error _ => s
    | .ok (_, size) =>
      let page := BitVec.ofNat 64 (va.toNat / size * size)
      let bump (m : MigPage) : MigPage :=
        if h : d < 4 then { m with counts := m.counts.set d (m.counts[d] + 1) } else m
      if s.store.migs.any fun m => m.ctx == c && m.va == page then
        { s with store := { s.store with migs := s.store.migs.map fun m =>
          if m.ctx == c && m.va == page && m.phase == .stable then bump m else m } }
      else
        let new := bump { ctx := c, va := page, size := size, home := p.die.toNat, counts := Vector.replicate 4 0, moves := [], phase := .stable }
        let low := s.store.migs.foldl (fun (acc : Option Nat) m =>
          if m.phase == .stable then some (min (acc.getD (m.counts.toList.foldl max 0)) (m.counts.toList.foldl max 0)) else acc) none
        let kept := if s.store.migs.length < 4096 then s.store.migs
          else s.store.migs.eraseIdx ((s.store.migs.findIdx? fun m => m.phase == .stable && some (m.counts.toList.foldl max 0) == low).getD 0)
        { s with store := { s.store with migs := kept ++ [new] } }

/-! ## Barrier words (R347, R348) -/

/-- The 16 bytes of a barrier word, CTL low. -/
abbrev BarWord := BitVec 128

def barState (w : BarWord) : Nat := fld w.toNat 62 2
def barAexp (w : BarWord) : Nat := fld w.toNat 32 16

/-- A barrier word from its fields; every reserved bit is zero. -/
def barOf (state brk nb phase aexp acnt bexp bcnt : Nat) : BarWord :=
  BitVec.ofNat 128 (packFields [(16, 0), (16, acnt), (16, aexp), (8, phase), (2, 0), (1, nb), (3, brk), (2, state), (32, bcnt), (32, bexp)])

/-- post(n, b) of R348. -/
def barPost (w : BarWord) (n b : Nat) : BarWord :=
  if n = 0 ∧ b = 0 then w
  else
    let x := w.toNat
    let st := barState w
    let brk := fld x 59 3
    let nb := fld x 58 1
    let ph := fld x 48 8
    let aexp := barAexp w
    let bexp := fld x 96 32
    let acnt := min (fld x 16 16 + n) 65535
    let bcnt := min (fld x 64 32 + b) (2 ^ 32 - 1)
    if st = 1 then
      if aexp < acnt then barOf 3 2 nb ph aexp acnt bexp bcnt
      else if nb = 0 ∧ bexp < bcnt then barOf 3 3 nb ph aexp acnt bexp bcnt
      else if acnt = aexp ∧ (nb = 1 ∨ bcnt = bexp) then barOf 2 brk nb ph aexp acnt bexp bcnt
      else barOf st brk nb ph aexp acnt bexp bcnt
    else if st ≠ 3 then barOf 3 1 nb ph aexp acnt bexp bcnt
    else barOf st brk nb ph aexp acnt bexp bcnt

/-- arm(v) of R348. -/
def barArm (w : BarWord) (v : W64) : BarWord :=
  let x := w.toNat
  let ph := fld x 48 8
  let aexp := fld v.toNat 0 16
  if aexp = 0 then barOf 0 0 0 ((ph + 1) % 256) 0 0 0 0
  else if barState w = 1 then
    barOf 3 4 (fld x 58 1) ph (barAexp w) (fld x 16 16) (fld x 96 32) (fld x 64 32)
  else barOf 1 0 (fld v.toNat 16 1) ((ph + 1) % 256) aexp 0 (fld v.toNat 32 32) 0

/-- Whether an address is a 16-byte unit of the barrier region of a tile window. -/
def barrierWindow (die : BitVec 3) (pa : Nat) : Bool :=
  match windowAt die pa with
  | some (_, off) => decide (barrierBase ≤ off)
  | none => false

/-- Read and write a barrier word at its home. -/
def State.barRead (s : State) (c : BitVec 6) (pkg : BitVec 6) (die : BitVec 3) (pa : Nat) : BarWord :=
  BitVec.ofNat 128 (s.rdN c pkg die pa 16)

def State.barWrite (s : State) (c : BitVec 6) (pkg : BitVec 6) (die : BitVec 3) (pa : Nat) (w : BarWord) : State :=
  s.wrN c pkg die pa 16 w.toNat

/-- BARRIER_POST: a post of arrivals and bytes is performed on a barrier word of this package, at a home's address; a post of zero and
zero writes nothing (R347). -/
def execBarrierPost (h : BitVec 3) (pa : BitVec 52) (n : BitVec 16) (b : BitVec 32) (s : State) : Out :=
  .next (
    let a := pa.toNat / 16 * 16
    match windowTile h a with
    | some (t, off) =>
      let x := s.tile t
      if x.phase == .bound || x.phase == .running || x.phase == .trapped then
        s.setTile t { x with spad := x.spad.writeN off 16 (barPost (BitVec.ofNat 128 (x.spad.readN off 16)) n.toNat b.toNat).toNat }
      else s
    | none =>
      if s.inMemory s.pkg h a 16 && (n != 0 || b != 0) then
        s.barWrite 0 s.pkg h a (barPost (s.barRead 0 s.pkg h a) n.toNat b.toNat)
      else s)

end Sys2Proof.Machine
end

