-- ==== Sys2Proof/Machine/Home.lean ====
section
/-!
DEFINITION. Performing an access at its home (10_order.md R240, 16_page.md R362, R366, 17_snapshot.md R376-R378, 15_barrier.md R348,
R353), atomics (07_streams.md R182), the CACHED copies of a die's L2 (R181, R184, R186), the making of remote requests
(19_remote.md R410), and deferred faults (11_context.md R268).
-/
namespace Sys2Proof.Machine
open Sys2Proof

/-! ## Atomics (Table 7-5) -/

/-- The new value of an atomic on old value `m`. -/
def Atomic.apply (a : Atomic) (m : Nat) : Nat :=
  let w := if a.wide then 64 else 32
  let f := if a.wide then Num.fp64 else Num.fp32
  let x := m % 2 ^ w
  let v := a.operand.toNat % 2 ^ w
  let sx := (BitVec.ofNat w x).toInt
  let sv := (BitVec.ofNat w v).toInt
  match a.op.toNat with
  | 0 => (x + v) % 2 ^ w
  | 1 => max x v
  | 2 => if sx ≤ sv then v else x
  | 3 => (Num.round f .rne false (Num.maxNum (Num.decode f x) (Num.decode f v))).1
  | 4 => min x v
  | 5 => if sx ≤ sv then x else v
  | 6 => (Num.round f .rne false (Num.minNum (Num.decode f x) (Num.decode f v))).1
  | 7 => x &&& v
  | 8 => x ||| v
  | 9 => x ^^^ v
  | 10 => v
  | _ => if x = a.compare.toNat % 2 ^ w then v else x

def Atomic.size (a : Atomic) : Nat := if a.wide then 8 else 4

/-! ## One access at its home -/

/-- What an access does at its home. -/
inductive HomeOp where
  | read (n : Nat)
  | write (n : Nat) (v : Nat)
  | atomic (a : Atomic)
  | arm (v : W64)
  | post (n b : Nat)
  deriving DecidableEq, Repr

def HomeOp.size : HomeOp → Nat
  | .read n => n
  | .write n _ => n
  | .atomic a => a.size
  | .arm _ => 16
  | .post _ _ => 16

/-- A post of zero and zero writes nothing (R347). -/
def HomeOp.writes : HomeOp → Bool
  | .read _ => false
  | .post 0 0 => false
  | _ => true

/-- A barrier operation, which alone may write a barrier word (R353). -/
def HomeOp.barrier : HomeOp → Bool
  | .arm _ => true
  | .post _ _ => true
  | _ => false

/-- The value that an operation leaves where `m` stood. -/
def HomeOp.result (op : HomeOp) (m : Nat) : Nat :=
  match op with
  | .read _ => m
  | .write _ v => v
  | .atomic a => a.apply m
  | .arm v => (barArm (BitVec.ofNat 128 m) v).toNat
  | .post n b => (barPost (BitVec.ofNat 128 m) n b).toNat

/-- How an access fares at its home: performed, held there, or refused with a cause. -/
inductive Fate (α : Type) where
  | ok (a : α)
  | hold
  | refuse (cause : Nat)

/-- The die, pa and length of a physical location as this package judges them. -/
def physAt (pkg : BitVec 6) (die : BitVec 3) (pa : Nat) : Phys :=
  { pkg := pkg, die := die, pa := BitVec.ofNat 52 pa, mode := modeDirect, agg := false, bar := false }

/-- An atomic on a location of device memory: the queues whose WRITE word lies there are looked at (R280). -/
def State.promptAt (s : State) (pkg : BitVec 6) (die : BitVec 3) (pa : Nat) : State :=
  let mine (q : Queue) : Bool :=
    q.phase != .dead && match s.translate q.ctx q.qcb .read false with
      | .ok p => p.pkg == pkg && p.die == die && p.pa.toNat / 8 == pa / 8
      | .error _ => false
  if s.queues.any mine then { s with queues := s.queues.map fun q => if mine q then { q with prompted := true } else q } else s

/-- Perform an operation at an address of a home, for context `c`: the old value, or why not.  A closed tile window reads zero and
discards writes, with a PERMISSION record (R366); a claimed bank group, a held frame and a held shadow entry make it wait.  At a home of
another package the frame is checked there (R362); what a tile window of another package holds is kept as bytes of its home
(DESIGN CHOICE, log entry 77). -/
def State.homeOp (s : State) (c : BitVec 6) (pkg : BitVec 6) (die : BitVec 3) (pa : Nat) (op : HomeOp) : Fate (State × Nat) :=
  let n := op.size
  if pkg != s.pkg then
    match windowAt die pa with
    | some (_, off) =>
      if op.writes && !op.barrier && decide (barrierBase < off + n) then .refuse cBarrierRegion
      else
        let m := s.rdN c pkg die pa n
        .ok (if op.writes then s.wrN c pkg die pa n (op.result m) else s, m)
    | none =>
      if !s.inMemory pkg die pa n || s.frameCmp pkg die pa then .refuse cRemoteUnreachable
      else
        let m := s.rdN c pkg die pa n
        let s' := if op.writes then s.wrN c pkg die pa n (op.result m) else s
        .ok (match op with | .atomic _ => s'.promptAt pkg die pa | _ => s', m)
  else
    match windowTile die pa with
    | some (t, off) =>
      let x := s.tile t
      if !x.windowOpen c then .ok (s.asyncRecord c cPermission 0 t.val (BitVec.ofNat 64 pa), 0)
      else if x.claimed off n then .hold
      else if op.writes && !op.barrier && decide (barrierBase < off + n) then .refuse cBarrierRegion
      else
        let m := x.spad.readN off n
        .ok (if op.writes then s.setTile t { x with spad := x.spad.writeN off n (op.result m) } else s, m)
    | none =>
      let p := physAt pkg die pa
      if !s.inMemory pkg die pa n || s.frameCmp pkg die pa then .refuse cRemoteUnreachable
      else if s.frameHeld p then .hold
      else if op.writes then
        match s.snapLines (s.linesOf p n) with
        | .hold => .hold
        | .refuse => .refuse cShadow
        | .ok s' =>
          let m := s'.rdN c pkg die pa n
          let s' := s'.wrN c pkg die pa n (op.result m)
          .ok (match op with | .atomic _ => s'.promptAt pkg die pa | _ => s', m)
      else .ok (s, s.rdN c pkg die pa n)

/-! ## CACHED copies -/

/-- The copy of a line in the L2 of die `d`. -/
def State.copyOf (s : State) (d key : Nat) : Option (BitVec 1024) :=
  if h : d < 4 then (s.l2[d].find? fun e => e.1 == key).map fun e => e.2 else none

def State.dropCopies (s : State) (d : Nat) (f : Nat → Bool) : State :=
  if h : d < 4 then { s with l2 := s.l2.set d (s.l2[d].filter fun e => !f e.1) } else s

/-- Lines of the L2 of a compute die: 384 slices of 256 KiB (R12). -/
def l2Lines : Nat := 384 * 2048

/-- A line enters the L2 of a die.  When the L2 is full the line that entered first leaves (DESIGN CHOICE, log entry 76). -/
def State.putCopy (s : State) (d key : Nat) (v : BitVec 1024) : State :=
  let s := s.dropCopies d (· == key)
  if h : d < 4 then { s with l2 := s.l2.set d (((key, v) :: s.l2[d]).take l2Lines) } else s

/-- Update the bytes of a copy that a store of the die writes (R181). -/
def State.patchCopy (s : State) (d key pos n v : Nat) : State :=
  if h : d < 4 then
    { s with l2 := s.l2.set d (s.l2[d].map fun e =>
        if e.1 == key then
          let old := fld e.2.toNat (8 * pos) (8 * n)
          (e.1, BitVec.ofNat 1024 (e.2.toNat - old * 2 ^ (8 * pos) + v % 2 ^ (8 * n) * 2 ^ (8 * pos)))
        else e) }
  else s

/-- The line of a physical location, as the key of its copies. -/
def Phys.line (p : Phys) : Nat := homeKey p.pkg p.die p.pa.toNat / 128

/-- The three signature bits of a line (R184), from its key: n is A[56:7] of the home address. -/
def sigBits (key : Nat) : List Nat :=
  let a := key / 2 ^ 45 * 2 ^ 41 + key % 2 ^ 41
  let f := fun lo => fld a lo 10
  [f 0 ^^^ f 30, f 10 ^^^ f 40, f 20 ^^^ f 10 ^^^ f 0]

/-- A line hits a signature. -/
def sigHit (sig : BitVec 1024) (key : Nat) : Bool := (sigBits key).all fun b => sig.getLsbD b

/-- A signature with a line marked. -/
def sigMark (sig : BitVec 1024) (key : Nat) : BitVec 1024 :=
  (sigBits key).foldl (fun g b => g ||| BitVec.ofNat 1024 (2 ^ b)) sig

/-! ## Remote requests -/

/-- The home is the tile's own die. -/
def State.atHome (s : State) (t : TileNo) (p : Phys) : Bool := p.pkg == s.pkg && p.die.toNat == dieOf t

/-- Make a request: it is HELD until its interface accepts it (R413, R416). -/
def State.ask (s : State) (kind : ReqKind) (owner : ReqOwner) (c : BitVec 6) (sdie : Nat) (p : Phys) (len : Nat) (data : BitVec 1024)
    (fill : Bool := false) : State × Nat :=
  let r := s.remote
  let q : Request :=
    { id := r.nextId, phase := .held, kind := kind, owner := owner, ctx := c, cmp := false, spkg := s.pkg, sdie := sdie, pkg := p.pkg,
      die := p.die, pa := p.pa.toNat, len := len, data := data, elems := [], op := none, wide := false, tag := 0, reiss := 0,
      since := s.fcc, departed := 0, waited := 0, reply := none, fill := fill }
  ({ s with remote := { r with reqs := r.reqs ++ [q], nextId := r.nextId + 1 } }, r.nextId)

/-- A load request fetches its whole line; of a CACHED page, `fill` brings it into the L2 of the die. -/
def State.askLine (s : State) (owner : ReqOwner) (c : BitVec 6) (sdie : Nat) (p : Phys) (fill : Bool := false) : State × Nat :=
  s.ask .load owner c sdie { p with pa := BitVec.ofNat 52 (p.pa.toNat / 128 * 128) } 128 0 (fill && p.mode == modeCached)

/-! ## Deferred faults (R268) -/

/-- INFO of a record (Table 11-7): the ordinal at which a stream halted, for a stream's fault on the load strand; else the TCODE. -/
def Tile.infoOf (t : Tile) (f : Trap) : W64 :=
  if f.tcode / 0x1000 = 2 then
    BitVec.ofNat 64 ((t.ld.stream[f.tcode % 8]'(by omega)).faultOrd)
  else BitVec.ofNat 64 f.tcode

/-- Every strand of a RUNNING tile has halted: it drains, and takes no trap (R48). -/
def Tile.draining (t : Tile) : Bool := t.phase == .running && !t.savedSup && Strand.all.all fun k => (t.str k).halted

/-- The strand can take another report: none of its own is waiting to be read; or the tile drains, and a record is made at once. -/
def Tile.canReport (t : Tile) (k : Strand) : Bool :=
  t.draining || ((t.str k).reached.isNone && !t.sys.fpend.getLsbD k.pos)

/-- An asynchronous record about strand `k` of a tile, for the context of its launch (R268, Table 11-7). -/
def State.tileRecord (s : State) (t : TileNo) (k : Strand) (f : Trap) : State :=
  let x := s.tile t
  s.asyncRecord x.ctx f.code f.sub t.val f.faddr k.pos (fld x.sys.ltile.toNat 0 12) (x.infoOf f)

/-- A fault that an agent other than the issuing strand finds, reported on strand `k`: the strand stops and the fault goes to the
control strand; while the tile drains, an asynchronous record is made and nothing else (R48, R268). -/
def State.raiseOn (s : State) (t : TileNo) (k : Strand) (f : Trap) (pc : W64) : State :=
  let x := s.tile t
  if x.draining then s.tileRecord t k f
  else if x.phase == .running || x.phase == .trapped then s.setTile t (x.faultAt k f pc)
  else s

/-- A deferred fault: the strand stops at its next issue boundary, with the PC and address of the original request. -/
def State.deferred (s : State) (t : TileNo) (k : Strand) (code : Nat) (pc va : W64) : State :=
  s.raiseOn t k { code := code, faddr := va, deferred := true } pc

/-- A fault that halts stream `n`, reported on the load strand, which does not stop (R197, R268).  No instruction of the load strand
stands behind it, so CAUSE.ASYNC is 1 (DEDUCED, log entry 80). -/
def State.streamFault (s : State) (t : TileNo) (n code : Nat) (deferred : Bool) (va : W64) : State :=
  let x := s.tile t
  let s' := s.raiseOn t .load { code := code, tcode := 0x2000 + n, faddr := va, deferred := deferred, async := true } (x.pcOf .load)
  s'.modTile t fun y => y.modStr .load fun st => { st with stopped := (x.str .load).stopped, pc := (x.str .load).pc }

end Sys2Proof.Machine
end

