-- ==== Sys2Proof/Machine/Access.lean ====
section
/-!
DEFINITION. The load strand and the store strand (07_streams.md R171-R191, R441; 15_barrier.md R349-R352): how an access finds its
bytes and its faults, its issue, and its performing and delivery (LOAD_DELIVER, STORE_PERFORM, TLB_WALK, BARW_POLL).
-/
namespace Sys2Proof.Machine
open Sys2Proof

/-! ## The parts of an access -/

/-- Cut `len` bytes from address `a` at the multiples of `unit`: offset, address and length of each part. -/
def cutAt (unit : Nat) : Nat → Nat → Nat → Nat → List (Nat × Nat × Nat)
  | 0, _, _, _ => []
  | fuel + 1, pos, a, len =>
    if len = 0 then []
    else
      let n := min len (unit - a % unit)
      (pos, a, n) :: cutAt unit fuel (pos + n) (a + n) (len - n)

/-- A contiguous part of an access that one check judges: offset in the data, length, and address (a scratchpad offset or a virtual
address). -/
structure Elem where
  pos : Nat
  len : Nat
  va : W64
  deriving DecidableEq, Repr

/-- What an access asks of the bytes it touches. -/
structure Ask where
  sp : Bool
  want : Want
  align : Nat
  /-- a barrier operation, which alone may touch the barrier region or a BAR page -/
  barrier : Bool
  /-- the sequence check of an element (R177) -/
  seqOk : Elem → Bool
  /-- pieces are cut at multiples of this -/
  unit : Nat

/-- How an element fares: its pieces; a translation to be found first; or its first fault, with the faulting address and the pieces that
pass every other check. -/
inductive Judged where
  | ok (ps : List Piece)
  | miss (va : W64)
  | bad (addr : Nat) (code : Nat) (ps : List Piece)

/-- Two judgements together: a missing translation is found first; then the fault of the lowest address stands (R441). -/
def Judged.also : Judged → Judged → Judged
  | .miss v, _ => .miss v
  | _, .miss v => .miss v
  | .bad a c ps, .bad a' c' qs => if a' < a then .bad a' c' (ps ++ qs) else .bad a c (ps ++ qs)
  | .bad a c ps, .ok qs => .bad a c (ps ++ qs)
  | .ok ps, .bad a c qs => .bad a c (ps ++ qs)
  | .ok ps, .ok qs => .ok (ps ++ qs)

/-- The cached translation of an address. -/
def tlbFind (l : List TlbEntry) (va : W64) : Option TlbEntry :=
  l.find? fun e => decide (e.va.toNat ≤ va.toNat) && decide (va.toNat < e.va.toNat + e.size)

/-- The first scratchpad fault of an element, lowest byte first: BARRIER-REGION, then BANK-CLAIM (R441). -/
def spadFault (claims : List (BitVec 2)) (q : Ask) (e : Elem) : Option (Nat × Nat) :=
  (List.range e.len).findSome? fun i =>
    let o := (spadOff e.va + i) % spadSize
    if q.want == .write && !q.barrier && decide (barrierBase ≤ o) then some (o, cBarrierRegion)
    else if q.barrier && decide (o < barrierBase) then some (o, cBarrierRegion)
    else if claims.contains (bankGroup o) then some (o, cBankClaim)
    else none

/-- The scratchpad pieces of an element. -/
def spadPieces (e : Elem) : List Piece :=
  (cutAt spadSize 3 e.pos (spadOff e.va) e.len).map fun x =>
    { pos := x.1, len := x.2.2, loc := .spad (x.2.1 % spadSize), va := e.va + BitVec.ofNat 64 (x.1 - e.pos) }

/-- The cause that a translated part meets after the checks of Table 16-4: BARRIER-REGION of a BAR page, of no BAR page for a
barrier operation, or of the barrier region of a tile window (R441, R352, Table 15-5). -/
def barFault (q : Ask) (p : Phys) (n : Nat) : Bool :=
  if q.barrier then !p.bar
  else q.want == .write && (p.bar ||
    match windowAt p.die p.pa.toNat with
    | some (_, off) => decide (barrierBase < off + n)
    | none => false)

/-- Judge one global part, which lies in one page. -/
def State.judgePart (s : State) (t : TileNo) (q : Ask) (pos a n : Nat) : Judged :=
  let va := BitVec.ofNat 64 a
  match tlbFind (s.tile t).tlb va with
  | none => .miss va
  | some e =>
    match e.result with
    | .error c => .bad a c []
    | .ok pte =>
      match s.checkPte pte e.size va q.want false with
      | .error c => .bad a c []
      | .ok p =>
        if barFault q p n then .bad a cBarrierRegion []
        else .ok ((cutAt q.unit 10 pos p.pa.toNat n).map fun x =>
          { pos := x.1, len := x.2.2, loc := .glob { p with pa := BitVec.ofNat 52 x.2.1 }, va := va + BitVec.ofNat 64 (x.1 - pos) })

/-- Judge the global parts of an element, page by page. -/
def State.judgeParts (s : State) (t : TileNo) (q : Ask) : List (Nat × Nat × Nat) → Judged
  | [] => .ok []
  | (pos, a, n) :: rest => (s.judgePart t q pos a n).also (s.judgeParts t q rest)

/-- Judge one element in the order of R441. -/
def State.judge (s : State) (t : TileNo) (q : Ask) (e : Elem) : Judged :=
  let a := if q.sp then spadOff e.va else e.va.toNat
  if a % q.align != 0 then .bad a cMisaligned []
  else if !q.seqOk e then .bad a cSchedule []
  else if q.sp then
    match spadFault (s.tile t).claims q e with
    | some (o, c) => .bad o c []
    | none => .ok (spadPieces e)
  else s.judgeParts t q (cutAt 4096 3 e.pos a e.len)

/-- Judge every element. -/
def State.judgeAll (s : State) (t : TileNo) (q : Ask) (es : List Elem) : Judged :=
  es.foldl (fun acc e => acc.also (s.judge t q e)) (.ok [])

/-! ## Shadow entries of an access (R440, R441) -/

/-- Whether any piece of an access lies in an enabled snapshot range of this package (R378). -/
def State.anyRange (s : State) (ps : List Piece) : Bool :=
  ps.any fun p => match p.loc with
    | .glob g => s.inRange g p.len
    | .spad _ => false

/-- The lines of every piece. -/
def State.pieceLines (s : State) (ps : List Piece) : List (Nat × Nat) :=
  ps.flatMap fun p => match p.loc with
    | .glob g => s.linesOf g p.len
    | .spad _ => []

/-- A frame of any piece is held. -/
def State.anyHeld (s : State) (ps : List Piece) : Bool :=
  ps.any fun p => match p.loc with
    | .glob g => s.frameHeld g
    | .spad _ => false

/-- A write of a line would need an entry under R376. -/
def State.needsEntry (s : State) (home line : Nat) : Bool :=
  let s := s.restore home line
  match s.rangeAt home (128 * line) with
  | none => false
  | some (c, i) =>
    match (s.snaps[c.toNat]).ranges[i].gens.getLast? with
    | none => false
    | some g => decide (s.stampOf home line < g)

/-- The lowest byte address of an access whose line needs an entry (R441). -/
def State.firstShadow (s : State) (ps : List Piece) : Option Nat :=
  ps.foldl (fun acc p => match p.loc with
    | .glob g =>
      if (s.linesOf g p.len).any fun l => s.needsEntry l.1 l.2 then some (min (acc.getD p.va.toNat) p.va.toNat) else acc
    | .spad _ => acc) none

/-- SHADOW-EXHAUSTED of an access judged whole: the faulting address, when the homes refuse it (R376, R440). -/
def State.shadowFault (s : State) (ps : List Piece) : Option Nat :=
  if s.anyRange ps then
    match s.snapLines (s.pieceLines ps) with
    | .refuse => s.firstShadow ps
    | _ => none
  else none

/-- Ask for a page walk on behalf of a strand, which holds meanwhile (R174). -/
def Tile.askWalk (t : Tile) (k : Strand) (va : W64) : Tile :=
  match k with
  | .load => { t with ld := { t.ld with walk := some va } }
  | _ => { t with st := { t.st with walk := some va } }

/-- The pieces of an access, or its hold or fault; SHADOW-EXHAUSTED of a lower byte stands before another cause (R441). -/
def State.pieces (s : State) (k : Strand) (q : Ask) (es : List Elem) : Res (List Piece) :=
  match s.judgeAll s.here q es with
  | .ok ps => .done ps
  | .miss va => .stay fun s => s.modTile s.here (·.askWalk k va)
  | .bad a c ps =>
    match if q.want == .write then s.shadowFault ps else none with
    | some b => if b < a then .trap { code := cShadow, faddr := BitVec.ofNat 64 b } else .trap { code := c, faddr := BitVec.ofNat 64 a }
    | none => .trap { code := c, faddr := BitVec.ofNat 64 a }

/-- Count the accesses of a tile to MIGRATE pages (R370). -/
def State.countPieces (s : State) (t : TileNo) (ps : List Piece) : State :=
  ps.foldl (fun s p => match p.loc with
    | .glob g => s.countAccess (dieOf t) (s.tile t).ctx g p.va
    | .spad _ => s) s

/-! ## TLB_WALK (R356-R361, R364) -/

/-- Entries of an access unit's second-level TLB (R364). -/
def tlbMax : Nat := 1024

/-- A finished walk is kept; the oldest entry makes room. -/
def Tile.keepWalk (t : Tile) (va : W64) (r : Except Nat (W64 × Nat)) : Tile :=
  let e : TlbEntry := match r with
    | .ok (pte, size) => { va := BitVec.ofNat 64 (va.toNat / size * size), size := size, result := .ok pte }
    | .error c => { va := BitVec.ofNat 64 (va.toNat / 4096 * 4096), size := 4096, result := .error c }
  { t with tlb := (e :: t.tlb).take tlbMax }

/-- TLB_WALK: the walk that a strand waits for completes; the access proceeds or faults at its next attempt. -/
def execTlbWalk (t : TileNo) (k : Strand) (s : State) : Out :=
  .next (
    let x := s.tile t
    match (if k == .load then x.ld.walk else if k == .store then x.st.walk else none) with
    | none => s
    | some va =>
      let x := x.keepWalk va (s.walk x.ctx va)
      s.setTile t (if k == .load then { x with ld := { x.ld with walk := none } } else { x with st := { x.st with walk := none } }))

/-! ## Streams' FIFOs -/

def vecDepth : Nat := 8
def scalarDepth : Nat := 16

/-- A load form may deliver into stream `q` only in state EXPLICIT (R175). -/
def Tile.explicit (t : Tile) (q : BitVec 3) : Bool := (t.ld.stream[q.toNat]).phase == .explicit

def Tile.qRoom (t : Tile) (q : BitVec 3) : Bool :=
  if h : q.toNat < 4 then decide (t.fifo.qv[q.toNat].length < vecDepth)
  else decide ((t.fifo.qs[q.toNat - 4]'(by omega)).length < scalarDepth)

/-- Reserve an entry of stream `q`. -/
def Tile.qReserve (t : Tile) (q : BitVec 3) (tag : W64) : Tile :=
  if h : q.toNat < 4 then { t with fifo := { t.fifo with qv := t.fifo.qv.set q.toNat (reserve t.fifo.qv[q.toNat] 0 tag) } }
  else { t with fifo := { t.fifo with
    qs := t.fifo.qs.set (q.toNat - 4) (reserve (t.fifo.qs[q.toNat - 4]'(by omega)) 0 tag) (by omega) } }

/-- Fill a reserved entry of stream `q`.  It happens between two TCs and belongs to the one that has ended. -/
def Tile.qFill (t : Tile) (q : BitVec 3) (tag : W64) (v : Vec) : Tile :=
  if h : q.toNat < 4 then { t with fifo := { t.fifo with qv := t.fifo.qv.set q.toNat (fillEnt t.fifo.qv[q.toNat] tag (t.tcc - 1) v) } }
  else { t with fifo := { t.fifo with
    qs := t.fifo.qs.set (q.toNat - 4) (fillEnt (t.fifo.qs[q.toNat - 4]'(by omega)) tag (t.tcc - 1) (v.setWidth 64)) (by omega) } }

/-- Withdraw a reserved entry whose access was not performed (DESIGN CHOICE, log entry 13). -/
def Tile.qDrop (t : Tile) (q : BitVec 3) (tag : W64) : Tile :=
  if h : q.toNat < 4 then { t with fifo := { t.fifo with
    qv := t.fifo.qv.set q.toNat (t.fifo.qv[q.toNat].filter fun e => e.ready || e.tag != tag) } }
  else { t with fifo := { t.fifo with
    qs := t.fifo.qs.set (q.toNat - 4) ((t.fifo.qs[q.toNat - 4]'(by omega)).filter fun e => e.ready || e.tag != tag) (by omega) } }

/-! ## Issuing loads -/

/-- Bytes put into the data of an access. -/
def putBytes (d : Vec) (pos len v : Nat) : Vec := d ||| BitVec.ofNat 4096 (v % 2 ^ (8 * len) * 2 ^ (8 * pos))

/-- One scratchpad piece of a load, in the TC it is made: a read sees the bytes as the TC found them (R33), and an atomic those that stand
there (R182; DESIGN CHOICE, log entry 78). -/
def Tile.spadLoad (t : Tile) (kind : LoadKind) (off len : Nat) : Tile × Nat :=
  match kind with
  | .atomic a =>
    let m := t.spad.readN off len
    ({ t with spad := t.spad.writeN off len (a.apply m) }, m)
  | _ => (t, t.spad0.readN off len)

/-- The scratchpad pieces of a load one after another. -/
def Tile.spadLoads (t : Tile) (kind : LoadKind) : List Piece → Vec → Tile × Vec
  | [], d => (t, d)
  | p :: rest, d =>
    match p.loc with
    | .spad off =>
      let r := t.spadLoad kind off p.len
      r.1.spadLoads kind rest (putBytes d p.pos p.len r.2)
    | .glob _ => t.spadLoads kind rest d

/-- Every piece lies in the tile's scratchpad. -/
def allSpad (ps : List Piece) : Bool :=
  !ps.isEmpty && ps.all fun p => match p.loc with | .spad _ => true | .glob _ => false

/-- A load enters the list of those in flight.  One of scratchpad alone is performed in the TC of its issue (R33) unless an older load is
still to be performed (R242). -/
def Tile.addLoad (t : Tile) (kind : LoadKind) (q : BitVec 3) (ps : List Piece) (va : W64) : Tile :=
  let now := allSpad ps && t.ld.pending.all fun l => l.sent && l.waits.isEmpty
  let r := if now then t.spadLoads kind ps 0 else (t, 0)
  let p : PendingLoad :=
    { seq := t.ld.seq, kind := kind, q := q, tag := BitVec.ofNat 64 t.ld.seq, pieces := ps, data := r.2, sent := now, waits := [],
      pc := t.pcOf .load, va := va }
  let x := r.1
  { x with ld := { x.ld with pending := x.ld.pending ++ [p], seq := x.ld.seq + 1 } }

/-- The address of a load form (R173). -/
def Tile.laAddr (t : Tile) (a : BitVec 4) (i : BitVec 13) : W64 := t.ld.a[a.toNat] + sext64 i

/-- The sequence check against the block that holds an offset (R45, R177). -/
def Tile.blockAt (t : Tile) (off : Nat) : Option ArrBlock :=
  t.sync.block.toList.find? fun b => b.registered && decide (b.base ≤ off) && decide (off < b.base + b.len)

def Tile.seqTag (t : Tile) (off : Nat) (x : List W32) : Bool :=
  match t.blockAt off with
  | some b => b.tag == (x.headD 0).setWidth 16
  | none => false

/-- Issue a load into stream `q`: STREAM-STATE, the checks, room, then the reservation (R174, R175, R441). -/
def State.loadTo (s : State) (q : BitVec 3) (kind : LoadKind) (ask : Ask) (es : List Elem) (va : W64) (pop : Tile → Tile) : Res State :=
  (s.pieces .load ask es).bind fun ps =>
    if !s.cur.qRoom q then .hold
    else
      let t := pop s.cur
      .done ((s.setTile s.here ((t.qReserve q (BitVec.ofNat 64 t.ld.seq)).addLoad kind q ps va)).countPieces s.here ps)

/-- STREAM-STATE stands before every other cause and before a hold. -/
def State.loadGuard (s : State) (q : BitVec 3) (f : Unit → Res State) : Res State :=
  if s.cur.explicit q then f () else .trap { code := cStreamState }

def execLd (q : BitVec 2) (a : BitVec 4) (sp sq : BitVec 1) (i : BitVec 13) (x : List W32) (s : State) : Out :=
  .next (s.issue .load fun s => s.loadGuard (q.setWidth 3) fun _ =>
    let t := s.cur
    let va := t.laAddr a i
    let ask : Ask :=
      { sp := sp == 1, want := .read, align := 32, barrier := false, seqOk := fun e => sq == 0 || t.seqTag (spadOff e.va) x, unit := 128 }
    s.loadTo (q.setWidth 3) .vector ask [{ pos := 0, len := 512, va := va }] va id)

def execLdw (q : BitVec 2) (a k : BitVec 4) (sp sq : BitVec 1) (i : BitVec 13) (x : List W32) (s : State) : Out :=
  .next (s.issue .load fun s =>
    let qn : BitVec 3 := 1#1 ++ q
    s.loadGuard qn fun _ =>
      let t := s.cur
      let va := t.laAddr a i
      let n := kindSize k.toNat
      let ask : Ask :=
        { sp := sp == 1, want := .read, align := n, barrier := false, seqOk := fun e => sq == 0 || t.seqTag (spadOff e.va) x, unit := 128 }
      s.loadTo qn (.scalar k.toNat) ask [{ pos := 0, len := n, va := va }] va id)

/-- The elements of a gather or scatter: those whose index is not null (R176). -/
def gatherElems (base : W64) (size : Nat) (ix : Vec) : List Elem :=
  (List.range (512 / size)).filterMap fun i =>
    let n := lane ix i
    if n == 0x80000000 then none
    else some { pos := i * size, len := size, va := base + (n.signExtend 64) * BitVec.ofNat 64 size }

/-- Whether an element lies in the block that holds the base of a gather, whose tag matches. -/
def Tile.gatherSeq (t : Tile) (base : W64) (x : List W32) (e : Elem) : Bool :=
  match t.blockAt (spadOff base) with
  | some b => b.tag == (x.headD 0).setWidth 16 && decide (b.base ≤ spadOff e.va) && decide (spadOff e.va + e.len ≤ b.base + b.len)
  | none => false

/-- Pop the index vector of x[i]. -/
def Tile.popX (t : Tile) (i : Fin 4) : Tile := { t with fifo := { t.fifo with x := t.fifo.x.set i t.fifo.x[i].tail } }

def execLdg (q : BitVec 2) (a k : BitVec 4) (sp sq : BitVec 1) (j : BitVec 1) (x : List W32) (s : State) : Out :=
  .next (s.issue .load fun s => s.loadGuard (q.setWidth 3) fun _ =>
    let t := s.cur
    let xi : Fin 4 := ⟨j.toNat, by omega⟩
    match headOf t.fifo.x[xi] t.tcc with
    | none => .hold
    | some ix =>
      let base := t.ld.a[a.toNat]
      let n := kindSize k.toNat
      let ask : Ask :=
        { sp := sp == 1, want := .read, align := n, barrier := false, seqOk := fun e => sq == 0 || t.gatherSeq base x e, unit := 128 }
      let es := gatherElems base n ix
      if sq == 1 && es.isEmpty && !t.seqTag (spadOff base) x then .trap { code := cSchedule, faddr := BitVec.ofNat 64 (spadOff base) }
      else s.loadTo (q.setWidth 3) .vector ask es base (·.popX xi))

/-- Ask for the lines of a pref that its die's L2 does not hold: those of a CACHED page homed elsewhere (R178). -/
def State.prefLines (s : State) (t : TileNo) (ps : List Piece) : State :=
  ps.foldl (fun s p => match p.loc with
    | .glob g =>
      if g.mode == modeCached && !s.atHome t g && (s.copyOf (dieOf t) g.line).isNone then
        (s.askLine .prefetch (s.tile t).ctx (dieOf t) g true).1
      else s
    | .spad _ => s) s

/-- pref asks for the lines that cover its 512 bytes; an address that fails a check makes it a no-operation (R178; log entry 21). -/
def execPref (a : BitVec 4) (i : BitVec 13) (s : State) : Out :=
  .next (s.issue .load fun s =>
    let va := s.cur.laAddr a i
    let ask : Ask := { sp := false, want := .read, align := 32, barrier := false, seqOk := fun _ => true, unit := 128 }
    match s.judgeAll s.here ask [{ pos := 0, len := 512, va := va }] with
    | .ok ps => .done (s.prefLines s.here ps)
    | .miss v => .stay fun s => s.modTile s.here (·.askWalk .load v)
    | .bad _ _ _ => .done (s.modTile s.here (·.dropErrors)))

def execAcq (q : BitVec 2) (a k : BitVec 4) (i : BitVec 13) (s : State) : Out :=
  .next (s.issue .load fun s =>
    let qn : BitVec 3 := 1#1 ++ q
    s.loadGuard qn fun _ =>
      let va := s.cur.laAddr a i
      let wide := decide (2 ≤ k.toNat)
      let ask : Ask :=
        { sp := false, want := .read, align := if wide then 256 else 8, barrier := false, seqOk := fun _ => true, unit := 128 }
      let flag : Elem := { pos := 0, len := 8, va := va }
      let one := s.pieces .load ask [flag]
      if wide then
        one.bind fun ps =>
          (s.pieces .load { ask with align := 128 } [{ pos := 128, len := 128, va := va + 128 }]).bind fun sg =>
            if !s.cur.qRoom qn then .hold
            else
              let t := s.cur
              .done (s.setTile s.here ((t.qReserve qn (BitVec.ofNat 64 t.ld.seq)).addLoad (.acquire (k.setWidth 3)) qn (ps ++ sg) va))
      else s.loadTo qn (.acquire (k.setWidth 3)) ask [flag] va id)

/-- fence.l takes its place among the loads (R187). -/
def execFenceL (sc : BitVec 3) (s : State) : Out :=
  .next (s.issueT .load fun t => .done (t.addLoad (.fence sc) 0 [] 0))

/-! ## Deliveries -/

/-- What a load asks at a home of its own die. -/
def LoadKind.op (k : LoadKind) (len : Nat) : HomeOp :=
  match k with
  | .atomic a => .atomic a
  | _ => .read len

/-- One piece of a load, read here: in the tile's scratchpad, where it waits for a claim that has begun since its issue (R34), in a CACHED
copy, or at a home of the tile's die; none when it is to be asked of another die. -/
def State.loadPiece (s : State) (t : TileNo) (kind : LoadKind) (p : Piece) : Fate (State × Option Nat) :=
  match p.loc with
  | .spad off =>
    let x := s.tile t
    if x.claimed off p.len then .hold
    else
      let r := x.spadLoad kind off p.len
      .ok (s.setTile t r.1, some r.2)
  | .glob g =>
    let c := (s.tile t).ctx
    let copy := match kind with
      | .vector | .scalar _ => if g.mode == modeCached then s.copyOf (dieOf t) g.line else none
      | _ => none
    match copy with
    | some v => .ok (s, some (fld v.toNat (8 * (g.pa.toNat % 128)) (8 * p.len)))
    | none =>
      if s.atHome t g then
        match s.homeOp c g.pkg g.die g.pa.toNat (kind.op p.len) with
        | .ok (s', m) => .ok (s', some m)
        | .hold => .hold
        | .refuse x => .refuse x
      else .ok (s, none)

/-- Ask another die for a piece of a load; a line of a CACHED page enters the L2 of the die. -/
def State.askPiece (s : State) (t : TileNo) (l : PendingLoad) (i : Nat) (p : Piece) : State × List Nat :=
  match p.loc with
  | .spad _ => (s, [])
  | .glob g =>
    let c := (s.tile t).ctx
    match l.kind with
    | .atomic a =>
      let r := s.ask (.atomic a) (.loadPiece t l.seq i) c (dieOf t) g p.len 0
      (r.1, [r.2])
    | k =>
      let fill := match k with | .vector => true | .scalar _ => true | _ => false
      let r := s.askLine (.loadPiece t l.seq i) c (dieOf t) g fill
      (r.1, [r.2])

/-- Read what is at hand of a load's pieces and ask for the rest. -/
def State.startLoad (s : State) (t : TileNo) (l : PendingLoad) : Nat → List Piece → Vec → List Nat → Fate (State × Vec × List Nat)
  | _, [], d, ws => .ok (s, d, ws)
  | i, p :: rest, d, ws =>
    match s.loadPiece t l.kind p with
    | .hold => .hold
    | .refuse c => .refuse c
    | .ok (s', some m) => s'.startLoad t l (i + 1) rest (putBytes d p.pos p.len m) ws
    | .ok (s', none) =>
      let r := s'.askPiece t l i p
      r.1.startLoad t l (i + 1) rest d (ws ++ r.2)

/-- The value a scalar stream receives. -/
def LoadKind.value (k : LoadKind) (d : Vec) : Vec :=
  match k with
  | .scalar kind => (extendKind kind (fld d.toNat 0 (8 * kindSize kind))).setWidth 4096
  | .acquire _ => (d.setWidth 64).setWidth 4096
  | .atomic a => (d.setWidth (8 * a.size)).setWidth 4096
  | _ => d

/-- What a load does to the CACHED copies of its die when it is performed: an acquire drops those that hit the signature it read, a
fence all (R186, R187). -/
def State.loadCopies (s : State) (t : TileNo) (k : LoadKind) (d : Vec) : State :=
  match k with
  | .acquire sc => if 2 ≤ sc.toNat then s.dropCopies (dieOf t) (sigHit (d.extractLsb' 1024 1024)) else s
  | .fence sc => if 2 ≤ sc.toNat then s.dropCopies (dieOf t) (fun _ => true) else s
  | _ => s

/-- Deliver the oldest load: its entry becomes visible, and sigs waiting for it are performed. -/
def State.finishLoad (s : State) (t : TileNo) (l : PendingLoad) (d : Vec) : State :=
  let s := s.loadCopies t l.kind d
  s.modTile t fun x =>
    let x := { x with ld := { x.ld with pending := x.ld.pending.tail } }
    let x := match l.kind with
      | .fence _ => x
      | k => x.qFill l.q l.tag (k.value d)
    x.pendingSigs .load

/-- A load that failed after issue: its entry is withdrawn and a deferred fault reported (R268). -/
def State.failLoad (s : State) (t : TileNo) (l : PendingLoad) (code : Nat) (va : W64) : State :=
  (s.modTile t fun x =>
    let x := { x with ld := { x.ld with pending := x.ld.pending.filter fun y => y.seq != l.seq } }
    let x := match l.kind with
      | .fence _ => x
      | _ => x.qDrop l.q l.tag
    x.pendingSigs .load).deferred t .load code l.pc va

/-- LOAD_DELIVER: the oldest load of a tile reads what is at hand and sends its requests, or delivers once its data has arrived. -/
def execLoadDeliver (t : TileNo) (s : State) : Out :=
  .next (
    match (s.tile t).ld.pending with
    | [] => s
    | l :: _ =>
      if l.sent then (if l.waits.isEmpty then s.finishLoad t l l.data else s)
      else
        match s.startLoad t l 0 l.pieces l.data [] with
        | .hold => s
        | .refuse c => if (s.tile t).canReport .load then s.failLoad t l c l.va else s
        | .ok (s', d, ws) =>
          if ws.isEmpty then s'.finishLoad t l d
          else s'.modTile t fun x =>
            { x with ld := { x.ld with pending := { l with sent := true, data := d, waits := ws } :: x.ld.pending.tail } })

/-! ## barw (R350, R351) -/

/-- barw: it reads once every earlier load has been performed (R242, R247); a scratchpad word is judged in every TC. -/
def execBarw (a : BitVec 4) (sp : BitVec 1) (i : BitVec 13) (s : State) : Out :=
  .next (s.issue .load fun s =>
    let t := s.cur
    let va := t.laAddr a i
    let ask : Ask := { sp := sp == 1, want := .read, align := 16, barrier := true, seqOk := fun _ => true, unit := 128 }
    (s.pieces .load ask [{ pos := 0, len := 16, va := va }]).bind fun ps =>
      if !t.ld.pending.isEmpty then .hold
      else match ps with
      | [{ loc := .spad off, .. }] => if barState (BitVec.ofNat 128 (t.spad0.readN off 16)) = 1 then .hold else .done s
      | { loc := .glob g, .. } :: _ => .done (s.modTile s.here fun x => { x with ld := { x.ld with hold := some (.barw g va (x.pcOf .load)) } })
      | _ => .done s)

/-- The word a barw read: it returns unless ARMED. -/
def Tile.barwSees (t : Tile) (w : BarWord) : Tile :=
  match t.ld.hold with
  | some (.barw _ _ _) => if barState w = 1 then t else { t with ld := { t.ld with hold := none } }
  | _ => t

/-- BARW_POLL: the word of a barw on a BAR page is read again, here or by a request. -/
def execBarwPoll (t : TileNo) (s : State) : Out :=
  .next (
    match (s.tile t).ld.hold with
    | some (.barw g va pc) =>
      let c := (s.tile t).ctx
      if s.atHome t g then
        match s.homeOp c g.pkg g.die g.pa.toNat (.read 16) with
        | .ok (s', m) => s'.modTile t (·.barwSees (BitVec.ofNat 128 m))
        | .hold => s
        | .refuse x =>
          if (s.tile t).canReport .load then
            (s.modTile t fun y => { y with ld := { y.ld with hold := none } }).deferred t .load x pc va
          else s
      else if s.remote.reqs.any fun r => r.owner == .barw t then s
      else (s.askLine (.barw t) c (dieOf t) g).1
    | _ => s)

/-! ## The mark pair (R188) -/

/-- Both marks of a pair have issued: each side learns what it waits for. -/
def Tile.meetMarks (t : Tile) (id : BitVec 8) (k : Nat) : Tile :=
  let t := match t.ld.hold with
    | some (.mark i k' none) => if i == id && k' == k then { t with ld := { t.ld with hold := some (.mark i k' (some t.st.seq)) } } else t
    | _ => t
  match t.st.hold with
  | some (.mark i k' none) => if i == id && k' == k then { t with st := { t.st with hold := some (.mark i k' (some t.ld.seq)) } } else t
  | _ => t

def execMarkL (id : BitVec 8) (s : State) : Out :=
  .next (s.issueT .load fun t =>
    let k := t.ld.marks[id.toNat] + 1
    let t := { t with ld := { t.ld with marks := t.ld.marks.set id.toNat k, hold := some (.mark id k none) } }
    .done (if k ≤ t.st.marks[id.toNat] then t.meetMarks id k else t))

def execMarkS (id : BitVec 8) (s : State) : Out :=
  .next (s.issueT .store fun t =>
    let k := t.st.marks[id.toNat] + 1
    let t := { t with st := { t.st with marks := t.st.marks.set id.toNat k, hold := some (.mark id k none) } }
    .done (if k ≤ t.ld.marks[id.toNat] then t.meetMarks id k else t))

/-! ## Atomics of the load strand (R182) -/

/-- Replace channel k[i]. -/
def Tile.setK (t : Tile) (i : Fin 5) (q : Fifo) : Tile := { t with fifo := { t.fifo with k := t.fifo.k.set i q } }

def execAtr (q : BitVec 2) (a k : BitVec 4) (sp w : BitVec 1) (i : BitVec 13) (s : State) : Out :=
  .next (s.issue .load fun s =>
    let qn : BitVec 3 := 1#1 ++ q
    s.loadGuard qn fun _ =>
      let t := s.cur
      let va := t.laAddr a i
      let n := if w == 1 then 8 else 4
      let ask : Ask := { sp := sp == 1, want := .write, align := n, barrier := false, seqOk := fun _ => true, unit := 64 }
      (s.pieces .load ask [{ pos := 0, len := n, va := va }]).bind fun ps =>
        let k0 := t.fifo.k[0]
        let at_ : Option (Atomic × Nat) :=
          if k == 11 then
            match entryOf k0 0 t.tcc, entryOf k0 1 t.tcc with
            | some c, some v => some ({ op := k, wide := w == 1, operand := v, compare := c }, 2)
            | _, _ => none
          else (entryOf k0 0 t.tcc).map fun v => ({ op := k, wide := w == 1, operand := v, compare := 0 }, 1)
        match at_ with
        | none => .hold
        | some (at_, pops) =>
          if !t.qRoom qn then .hold
          else
            let t' := (t.setK 0 (k0.drop pops)).qReserve qn (BitVec.ofNat 64 t.ld.seq)
            if s.anyRange ps then
              -- the strand holds the atomic until the home answers (R378)
              if !t.ld.pending.isEmpty || s.anyHeld ps then .hold
              else match s.snapLines (s.pieceLines ps) with
                | .hold => .hold
                | .refuse => .trap { code := cShadow, faddr := BitVec.ofNat 64 ((s.firstShadow ps).getD va.toNat) }
                | .ok s' => .done ((s'.setTile s.here (t'.addLoad (.atomic at_) qn ps va)).countPieces s.here ps)
            else .done ((s.setTile s.here (t'.addLoad (.atomic at_) qn ps va)).countPieces s.here ps))

/-! ## Address registers (R172) -/

/-- A load-strand register operation. -/
def laOp (d : BitVec 4) (f : Tile → Res (W64 × Tile)) (s : State) : Out :=
  .next (s.issueT .load fun t => (f t).map fun r => { r.2 with ld := { r.2.ld with a := r.2.ld.a.set d.toNat r.1 } })

/-- A store-strand register operation. -/
def saOp (d : BitVec 4) (f : Tile → Res (W64 × Tile)) (s : State) : Out :=
  .next (s.issueT .store fun t => (f t).map fun r => { r.2 with st := { r.2.st with w := r.2.st.w.set d.toNat r.1 } })

/-- The loop index as it stood at the fetch of a strand's line (R82). -/
def Tile.ixOf (t : Tile) (k : Strand) (n : BitVec 3) : W64 :=
  match t.queueOf k with
  | e :: _ => if h : n.toNat < 6 then zext64 e.ix[n.toNat] else 0
  | [] => 0

/-- Pop a channel whole, or hold. -/
def Tile.takeK (t : Tile) (i : Fin 5) : Res (W64 × Tile) :=
  match headOf t.fifo.k[i] t.tcc with
  | none => .hold
  | some v => .done (v, t.setK i t.fifo.k[i].tail)

def execLaAdd (d a b : BitVec 4) (s : State) : Out := laOp d (fun t => .done (t.ld.a[a.toNat] + t.ld.a[b.toNat], t)) s
def execLaAddi (d a : BitVec 4) (i : BitVec 13) (x : List W32) (s : State) : Out := laOp d (fun t => .done (t.ld.a[a.toNat] + imm13 i x, t)) s
def execLaShli (d a : BitVec 4) (n : BitVec 6) (s : State) : Out := laOp d (fun t => .done (t.ld.a[a.toNat] <<< n.toNat, t)) s
def execLaLi (d : BitVec 4) (i : BitVec 13) (x : List W32) (s : State) : Out := laOp d (fun t => .done (imm13 i x, t)) s
def execLaTake (d : BitVec 4) (c : BitVec 2) (s : State) : Out := laOp d (fun t => t.takeK ⟨c.toNat % 2, by omega⟩) s
def execLaIx (d : BitVec 4) (n : BitVec 3) (s : State) : Out := laOp d (fun t => .done (t.ixOf .load n, t)) s
def execSaAdd (d a b : BitVec 4) (s : State) : Out := saOp d (fun t => .done (t.st.w[a.toNat] + t.st.w[b.toNat], t)) s
def execSaAddi (d a : BitVec 4) (i : BitVec 13) (x : List W32) (s : State) : Out := saOp d (fun t => .done (t.st.w[a.toNat] + imm13 i x, t)) s
def execSaShli (d a : BitVec 4) (n : BitVec 6) (s : State) : Out := saOp d (fun t => .done (t.st.w[a.toNat] <<< n.toNat, t)) s
def execSaLi (d : BitVec 4) (i : BitVec 13) (x : List W32) (s : State) : Out := saOp d (fun t => .done (imm13 i x, t)) s
def execSaTake (d : BitVec 4) (c : BitVec 2) (s : State) : Out := saOp d (fun t => t.takeK ⟨2 + c.toNat % 2, by omega⟩) s
def execSaIx (d : BitVec 4) (n : BitVec 3) (s : State) : Out := saOp d (fun t => .done (t.ixOf .store n, t)) s

end Sys2Proof.Machine
end

