-- ==== Sys2Proof/Machine/Anvil.lean ====
section
/-!
DEFINITION. The matrix strand and the Anvil (08_array.md R199-R222, 03_numbers.md R68): parameters, start checks, prescan, steps,
landings, the raise point and follow-on words.
-/
namespace Sys2Proof.Machine
open Sys2Proof

/-! ## Formats (Table 8-7) -/

/-- The element code (Table 4-9) of a matrix format code 0-9. -/
def mfCode (f : Nat) : Nat :=
  match f with
  | 0 => 3 | 1 => 2 | 2 => 4 | 3 => 5 | 4 => 6 | 5 => 7 | 6 => 8 | 7 => 9 | 8 => 1 | _ => 10

def mfBits (f : Nat) : Nat := ccBits (mfCode f)

def mfFmt (f : Nat) : Num.Fmt := (ccFmt (mfCode f)).getD Num.fp32

/-- A block format, and the bytes of its scales. -/
def mfBlock (f : Nat) : Bool := f == 5 || f == 6 || f == 7

def mfScale (f : Nat) : Nat := if f = 7 then 1 else 4

/-- Chunk length G of one format (Table 3-9). -/
def mfG (f : Nat) : Nat := if f = 0 ∨ f = 1 then 16 else if f = 8 then 4 else 32

/-- Step depth KS of a valid pair. -/
def pairKS (fa fb : Nat) : Nat :=
  let g := if fb = 10 then fa else fb
  if fa = 0 ∨ fa = 1 then 128
  else if fa = 8 then 32
  else if fa = 4 then 512
  else if mfBlock fa then (if fa != 5 && g != 5 then 512 else 256)
  else 256

/-! ## Parameter fields (Tables 8-1 to 8-6) -/

structure Operand where
  resOk : Bool
  view : Bool
  tview : Nat
  pitch : Nat
  off : Nat
  deriving DecidableEq, Repr

/-- The operand layout of mp0, mp1 and mp6. -/
def operandOf (v : W64) : Operand :=
  let x := v.toNat
  { resOk := fld x 54 10 == 0 && fld x 37 12 == 0 && (fld x 53 1 == 1 || fld x 49 4 == 0)
    view := fld x 53 1 == 1, tview := fld x 49 4, pitch := fld x 21 16, off := fld x 0 21 }

structure Shape where
  resOk : Bool
  row0 : Nat
  m : Nat
  n : Nat
  k : Nat
  deriving DecidableEq, Repr

def shapeOf (v : W64) : Shape :=
  let x := v.toNat
  { resOk := fld x 48 16 == 0 && fld x 16 11 == 0, row0 := fld x 41 7, m := fld x 34 7 + 1, n := fld x 27 7 + 1, k := fld x 0 16 + 1 }

/-- Values that an entry of a kind expands to along k, and their width (R213). -/
def codeE (kind : BitVec 6) : Nat × Nat :=
  match kind.toNat with
  | 0 => (1, 32) | 1 => (2, 32) | 2 => (4, 16) | 3 => (8, 16) | 4 => (16, 8) | _ => (16, 8)

/-- The matrix format of the values of a kind (Table 6-7). -/
def codeFmt (kind : BitVec 6) : Nat :=
  match kind.toNat with
  | 0 | 1 => 8
  | 2 | 3 => 0
  | 4 => 2
  | _ => 3

/-- A kind suits fa (R213). -/
def kindSuits (kind : BitVec 6) (fa : Nat) : Bool :=
  match kind.toNat with
  | 0 | 1 => fa == 8
  | 2 | 3 => fa == 0
  | 4 | 5 => fa == 2 || fa == 3
  | _ => false

/-- The fields of an MC word. -/
structure McWord where
  op : Nat
  await : BitVec 6
  rise : BitVec 6
  c : BitVec 1
  clr : Bool
  ta : Bool
  tb : Bool
  fa : Nat
  fb : Nat
  deriving DecidableEq, Repr

def mcOf (w : W32) : McWord :=
  { op := fld w.toNat 26 6, await := w.extractLsb' 20 6, rise := w.extractLsb' 14 6, c := w.extractLsb' 13 1, clr := w.getLsbD 12,
    ta := w.getLsbD 11, tb := w.getLsbD 10, fa := fld w.toNat 6 4, fb := fld w.toNat 2 4 }

/-- The word of an MC instruction. -/
def mcWord (op : BitVec 6) (w r : BitVec 6) (c l a b : BitVec 1) (f g : BitVec 4) : W32 := op ++ w ++ r ++ c ++ l ++ a ++ b ++ f ++ g ++ 0#2

/-! ## Operands in storage (R209) -/

/-- The `w`-bit element `e` from a byte address of a memory; 4-bit elements low nibble first (R52). -/
def elemBits (m : Memory) (base w e : Nat) : Nat :=
  if w = 4 then fld (m.read (base + e / 2)).toNat (4 * (e % 2)) 4 else m.readN (base + e * (w / 8)) (w / 8)

/-- Last byte, from OFF, of `rows` stored rows of `elems` elements of `w` bits. -/
def extent (o : Operand) (rows elems w : Nat) : Nat := (rows - 1) * o.pitch * 32 + (elems * w + 7) / 8 - 1

/-- Bytes `[lo, hi]` lie in one bank group of the scratchpad. -/
def oneGroup (lo hi : Nat) : Bool := decide (hi < spadSize) && bankGroup lo == bankGroup hi

/-- Bytes `[lo, hi]` from the first row of a tile view lie in the view's rows, which exist, and its format is `f`. -/
def viewOk (win : Bool) (v : W64) (f lo hi : Nat) : Bool :=
  let x := v.toNat
  fld x 18 1 == 1 && decide (fld x 19 4 < 10) && fld x 19 4 == f && decide (lo ≤ hi) && decide (hi < (fld x 10 8 + 1) * 512)
    && rowExists win (fld x 0 10 + hi / 512) && rowExists win (fld x 0 10 + lo / 512)

/-- The bitmap and the live segments of a sparse B: (g, h) in order (R211). -/
def liveSegs (m : Memory) (mapOff k n : Nat) : List (Nat × Nat) :=
  (List.range (k / 64)).flatMap fun g =>
    (List.range ((n + 15) / 16)).filterMap fun h => if (m.read (mapOff + g)).getLsbD h then some (g, h) else none

/-- The live slabs of depth 2 × KS, in order (R212). -/
def liveSlabs (segs : List (Nat × Nat)) (ks k : Nat) : List Nat :=
  (List.range ((k + 2 * ks - 1) / (2 * ks))).filter fun q => segs.any fun s => 64 * s.1 / (2 * ks) == q

/-! ## Start checks (Table 8-9) -/

/-- What the checks find: a sub-cause, or the groups to claim, the prescan length and the steps. -/
structure Started where
  claims : List (BitVec 2)
  prescan : Nat
  steps : Nat
  deriving DecidableEq, Repr

/-- Conditions in table order: the first that holds names the sub-cause. -/
def firstBad : List (Nat × Bool) → Option Nat
  | [] => none
  | (c, b) :: rest => if b then some c else firstBad rest

/-- The captured front plane: of a bank exchanged in this TC, the plane that was the front before (R165). -/
def Tile.capturePlane (t : Tile) (bank : Nat) : Plane × Bool :=
  let b := t.sync.bank[bank % 4]'(by omega)
  if b.swappedAt == some t.tcc then (b.back, !b.swapped) else (b.front, b.swapped)

def noView : W64 := 0

/-- The tile view an operand names. -/
def Tile.viewOf (t : Tile) (o : Operand) : W64 := t.vec.tview[o.tview % 16]'(by omega)

/-- Distinct bytes of `rows` stored rows of `len` bytes, `pitch` 32-byte units apart: rows may overlap (R219, R220). -/
def rowBytesRead (rows len pitch : Nat) : Nat := if len ≤ 32 * pitch then rows * len else (rows - 1) * (32 * pitch) + len

/-- Start checks of mma and mmas; `win`: the tile has an accumulator window. -/
def Tile.checkMma (t : Tile) (win : Bool) (w : McWord) : Except Nat Started :=
  let sparse := w.op == 3
  let a := operandOf t.mx.mp[0]
  let b := operandOf t.mx.mp[1]
  let sh := shapeOf t.mx.mp[2]
  let mp3 := t.mx.mp[3].toNat
  let mp4 := t.mx.mp[4].toNat
  let mp5 := t.mx.mp[5].toNat
  let block := mfBlock w.fa
  let code := w.fb == 10
  let plane := (t.capturePlane (fld mp5 0 2)).1
  let e := if code then (codeE plane.kind).1 else 1
  let bw := if code then (if fld mp5 2 2 = 0 then 4 else 8) else mfBits w.fb
  let ks := pairKS w.fa w.fb
  let asOff := fld mp3 21 21
  let bsOff := fld mp3 0 21
  let mapOff := fld mp4 21 21
  let idxOff := fld mp4 0 21
  let segs := if sparse then liveSegs t.spad0 mapOff sh.k sh.n else []
  let steps := if sparse then sh.m * (liveSlabs segs ks sh.k).length else sh.m * ((sh.k + ks - 1) / ks)
  let aw := mfBits w.fa
  let aEnd := a.off + (if w.ta then extent a sh.k sh.m aw else extent a sh.m sh.k aw)
  let bk := (sh.k + e - 1) / e
  let bEnd := if sparse then b.off + segs.length * 64 * bw - 1
    else b.off + (if w.tb then extent b sh.n bk bw else extent b bk sh.n bw)
  let asEnd := asOff + sh.m * (sh.k / 32) * mfScale w.fa - 1
  let bsEnd := bsOff + sh.n * (sh.k / 32) * mfScale w.fb - 1
  let gb := bankGroup b.off
  let inGb (lo hi : Nat) : Bool := oneGroup lo hi && bankGroup lo == gb
  let prescan := if sparse then (sh.k / 64 + 128 * segs.length + 511) / 512
    else if code then
      ((if w.tb then rowBytesRead sh.n ((bk * bw + 7) / 8) b.pitch else rowBytesRead bk ((sh.n * bw + 7) / 8) b.pitch) + 511) / 512
    else 0
  let bad := firstBad [
    (0x01, !a.resOk || !b.resOk || b.view || !sh.resOk || (block && fld mp3 42 22 != 0) || (sparse && fld mp4 42 22 != 0)
      || (code && fld mp5 4 60 != 0)),
    (0x01, a.pitch == 0 || b.pitch == 0 || decide (128 < sh.row0 + sh.m)),
    (0x01, (block && sh.k % 32 != 0) || (sparse && sh.k % 64 != 0) || (code && sh.k % e != 0) || (code && fld mp5 2 2 == 3)),
    (0x01, !sparse && decide (4096 < steps)),
    (0x05, a.off % 32 != 0 || b.off % 32 != 0 || (sparse && idxOff % 32 != 0)
      || (block && (asOff % mfScale w.fa != 0 || bsOff % mfScale w.fb != 0))),
    (0x09, (!a.view && (!oneGroup a.off aEnd || bankGroup a.off == gb)) || !(if sparse && segs.isEmpty then true else inGb b.off bEnd)),
    (0x09, block && (!(if a.view then inGb asOff asEnd else oneGroup asOff asEnd && bankGroup asOff == bankGroup a.off) || !inGb bsOff bsEnd)),
    (0x09, sparse && (!inGb mapOff (mapOff + sh.k / 64 - 1) || (!segs.isEmpty && !inGb idxOff (idxOff + 128 * segs.length - 1)))),
    (0x0A, code && !kindSuits plane.kind w.fa),
    (0x0D, !win || (a.view && !viewOk win (t.viewOf a) w.fa a.off aEnd)),
    (0x0D, (t.vec.cview.getLsbD w.c.toNat) != (w.fa == 9))]
  match bad with
  | some c => .error c
  | none => .ok { claims := (if a.view then [] else [bankGroup a.off]) ++ [gb], prescan := prescan, steps := steps }

/-- Start checks of mout. -/
def Tile.checkMout (t : Tile) (win : Bool) (w : McWord) : Except Nat Started :=
  let d := operandOf t.mx.mp[6]
  let sh := shapeOf t.mx.mp[2]
  let dEnd := d.off + extent d sh.m sh.n (mfBits w.fa)
  let bad := firstBad [
    (0x01, !d.resOk || !sh.resOk || fld t.mx.mp[7].toNat 35 29 != 0 || d.pitch == 0 || decide (128 < sh.row0 + sh.m)),
    (0x05, d.off % 32 != 0),
    (0x09, !d.view && !oneGroup d.off dEnd),
    (0x0C, !d.view && decide (barrierBase ≤ dEnd)),
    (0x0D, !win || (d.view && !viewOk win (t.viewOf d) w.fa d.off dEnd))]
  match bad with
  | some c => .error c
  | none => .ok { claims := if d.view then [] else [bankGroup d.off], prescan := 0, steps := sh.m }

/-- The start checks of a command. -/
def Tile.checkMc (t : Tile) (win : Bool) (w : McWord) : Except Nat Started :=
  match w.op with
  | 4 => .ok { claims := [], prescan := 0, steps := 8 }
  | 5 => t.checkMout win w
  | _ => t.checkMma win w

/-! ## Operand values -/

/-- Operands are read as the TC found them (R33).  Where a captured operand's bytes lie: scratchpad, or register space from its view's first row. -/
def Tile.operandMem (t : Tile) (o : Operand) (view : W64) : Memory × Nat :=
  if o.view then (t.rsp, 512 * fld view.toNat 0 10 + o.off) else (t.spad0, o.off)

/-- The bits of A(i, k). -/
def Tile.aBits (t : Tile) (c : AnvilCmd) (w : McWord) (i k : Nat) : Nat :=
  let o := operandOf c.mp[0]
  let (m, base) := t.operandMem o c.tview
  let (r, e) := if w.ta then (k, i) else (i, k)
  elemBits m (base + r * o.pitch * 32) (mfBits w.fa) e

/-- The bits of the stored element that a dense or codebook-coded B holds at (k, j), in the format `fa` or `fb`. -/
def Tile.bDense (t : Tile) (c : AnvilCmd) (w : McWord) (k j : Nat) : Nat :=
  let o := operandOf c.mp[1]
  let at_ (kk bw : Nat) : Nat :=
    let (r, e) := if w.tb then (j, kk) else (kk, j)
    elemBits t.spad0 (o.off + r * o.pitch * 32) bw e
  match c.plane with
  | some p =>
    let (n, vw) := codeE p.kind
    let iw := fld c.mp[5].toNat 2 2
    let raw := at_ (k / n) (if iw = 0 then 4 else 8)
    let ix := if iw = 1 then raw % 64 else raw
    if h : ix < 256 then fld p.entries[ix].toNat (vw * (k % n)) vw else 0
  | none => at_ k (mfBits w.fb)

/-- The position of a live segment. -/
def segNumber (segs : List (Nat × Nat)) (g h : Nat) : Option Nat := segs.findIdx? fun s => s.1 == g && s.2 == h

/-- The 2-bit index of value `v` of column `j` of live segment `s`. -/
def segIndex (m : Memory) (idxOff s j v : Nat) : Nat :=
  let bit := 2 * (j * 32 + v)
  fld (m.read (idxOff + 128 * s + bit / 8)).toNat (bit % 8) 2

/-- The bits of a stored element of a sparse B at logical (k, j); none when it is not stored (R211, R212). -/
def Tile.bSparse (t : Tile) (c : AnvilCmd) (w : McWord) (segs : List (Nat × Nat)) (k j : Nat) : Option Nat :=
  match segNumber segs (k / 64) (j / 16) with
  | none => none
  | some s =>
    let idx := fld c.mp[4].toNat 0 21
    let q := k % 64 / 4
    ([2 * q, 2 * q + 1].find? fun v => segIndex t.spad0 idx s (j % 16) v == k % 4).map fun v =>
      elemBits t.spad0 ((operandOf c.mp[1]).off + s * 64 * mfBits w.fb) (mfBits w.fb) (j % 16 * 32 + v)

/-- The scale of block `n` of a block operand. -/
def Tile.scaleAt (t : Tile) (f off n : Nat) : Num.Val :=
  if f = 7 then Num.scaleE8M0 (t.spad0.read (off + n)).toNat else Num.scaleS20 (t.spad0.readN (off + 4 * n) 4)

/-- Whether a scale is zero or NaN. -/
def odd? : Num.Val → Bool
  | .zero _ => true
  | .nan => true
  | _ => false

/-! ## Contributions (R68) -/

/-- The contribution of one chunk: its elements as (A, B) bit pairs, B absent where it is not stored; and the two scales.  A chunk of a live
slab in which no product is formed contributes +0 (DESIGN CHOICE, log entry 84). -/
def chunkOf (w : McWord) (fb : Nat) (es : List (Nat × Option Nat)) (sa sb : Num.Val) : Contribution :=
  if w.fa = 9 then
    .int (es.foldl (fun acc e => match e.2 with
      | some y => acc + (BitVec.ofNat 8 e.1).toInt * (BitVec.ofNat 8 y).toInt
      | none => acc) 0)
  else
    let block := mfBlock w.fa
    let special := block && (odd? sa || odd? sb)
    let va (x : Nat) : Num.Val := let v := Num.decode (mfFmt w.fa) x; if special then Num.blockValue sa v else v
    let vb (x : Nat) : Num.Val := let v := Num.decode (mfFmt fb) x; if special then Num.blockValue sb v else v
    let ps := es.filterMap fun e => e.2.map fun y => Num.mul (va e.1) (vb y)
    let fl := ps.foldl (fun f p => f ||| p.2) 0
    let sm := Num.sum (ps.map fun p => p.1)
    if block && !special then
      let p := Num.mul (Num.mul sa sb).1 sm.1
      .real p.1 (fl ||| sm.2)
    else .real (if fl != 0 then .nan else sm.1) (fl ||| sm.2)

/-- The contributions of a step to column `j` of row `i`: chunks of the slab [k0, k1). -/
def Tile.chunks (t : Tile) (c : AnvilCmd) (w : McWord) (segs : List (Nat × Nat)) (i j k0 k1 : Nat) : List Contribution :=
  let sh := shapeOf c.mp[2]
  let fb := match c.plane with
    | some p => codeFmt p.kind
    | none => w.fb
  let g := max (mfG w.fa) (mfG fb)
  let nb := sh.k / 32
  let mp3 := c.mp[3].toNat
  (List.range ((k1 - k0 + g - 1) / g)).map fun q =>
    let lo := k0 + q * g
    let es := (List.range (min g (k1 - lo))).map fun n =>
      (t.aBits c w i (lo + n), if w.op = 3 then t.bSparse c w segs (lo + n) j else some (t.bDense c w (lo + n) j))
    let one := Num.ofInt 1
    if mfBlock w.fa then
      chunkOf w fb es (t.scaleAt w.fa (fld mp3 21 21) (i * nb + lo / 32)) (t.scaleAt w.fb (fld mp3 0 21) (j * nb + lo / 32))
    else chunkOf w fb es one one

/-- One accumulator element after a chain of contributions, and the flags raised. -/
def accumulate (acc : Nat) : List Contribution → Nat × Num.Flags
  | [] => (acc, 0)
  | .int i :: rest => accumulate (((acc : Int) + i) % 2 ^ 32).toNat rest
  | .real v f :: rest =>
    let a := Num.add .rne (Num.decode Num.fp32 acc) v
    let r := Num.round Num.fp32 .rne false a.1
    let q := accumulate r.1 rest
    (q.1, f ||| a.2 ||| r.2 ||| q.2)

/-! ## Steps and landings (R200, R216) -/

/-- The TC belongs to the tile (R200). -/
def State.ownsTc (s : State) (t : TileNo) : Bool :=
  match s.pods[podOf t].mode.toNat with
  | 1 => t.val % 2 == 0
  | 2 => t.val % 2 == 1
  | _ => (s.tile t).tcc.toNat / 8 % 2 == t.val % 2

/-- One output row of mout. -/
def Tile.moutRow (t : Tile) (c : AnvilCmd) (w : McWord) (i : Nat) : List Byte × Num.Flags :=
  let sh := shapeOf c.mp[2]
  let ctl := c.mp[7].toNat
  let code := mfCode w.fa
  let rs := (List.range sh.n).map fun j =>
    let x := t.rsp.readN (512 * accRow w.c (sh.row0 + i) + 4 * j) 4
    let v := if c.cview.getLsbD w.c.toNat then Num.ofInt (BitVec.ofNat 32 x).toInt else Num.decode Num.fp32 x
    let p := Num.mul v (Num.decode Num.fp32 (fld ctl 0 32))
    let r := ccDeliver code (Num.Rm.ofBits (BitVec.ofNat 2 (fld ctl 32 2))) (fld ctl 34 1 == 1) false p.1
    (r.1, r.2 ||| p.2)
  let bits := mfBits w.fa
  (toBytes ((sh.n * bits + 7) / 8) (packList bits (rs.map Prod.fst)), rs.foldl (fun f r => f ||| r.2) 0)

/-- What one step of a command forms; mout raises its flags here, before its raise. -/
def Tile.stepLanding (t : Tile) (c : AnvilCmd) : AnvilLanding × Num.Flags :=
  let w := mcOf c.word
  let due := t.tcc + 8
  match w.op with
  | 4 => (.zero due (accRow w.c (16 * c.taken)), 0)
  | 5 =>
    let d := operandOf c.mp[6]
    let base := if d.view then 512 * fld c.tview.toNat 0 10 + d.off else d.off
    let r := t.moutRow c w c.taken
    (.out due d.view (base + c.taken * d.pitch * 32) r.1, r.2)
  | _ =>
    let sh := shapeOf c.mp[2]
    let ks := pairKS w.fa w.fb
    let segs := if w.op = 3 then liveSegs t.spad0 (fld c.mp[4].toNat 21 21) sh.k sh.n else []
    let slabs := if w.op = 3 then liveSlabs segs ks sh.k else List.range ((sh.k + ks - 1) / ks)
    let depth := if w.op = 3 then 2 * ks else ks
    let n := max 1 slabs.length
    let i := c.taken / n
    let q := slabs.getD (c.taken % n) 0
    let k0 := q * depth
    (.update due (accRow w.c (sh.row0 + i)) ((List.range sh.n).map fun j => t.chunks c w segs i j k0 (min sh.k (k0 + depth))), 0)

def AnvilLanding.due : AnvilLanding → W64
  | .update d _ _ => d
  | .zero d _ => d
  | .out d _ _ _ => d

/-- Land one item. -/
def Tile.landAnvil (t : Tile) : AnvilLanding → Tile
  | .update _ row cols =>
    let old := t.rsp.readN (512 * row) (4 * cols.length)
    let rs : List (Nat × Num.Flags) := (List.range cols.length).map fun j => accumulate (fld old (32 * j) 32) (cols.getD j [])
    ({ t with rsp := t.rsp.writeN (512 * row) (4 * cols.length) (packList 32 (rs.map Prod.fst)) }).raiseFlags .matrix
      ((rs.map Prod.snd).foldl (· ||| ·) 0)
  | .zero _ row => { t with rsp := (List.range 16).foldl (fun m i => m.setRow (row + i) 0) t.rsp }
  | .out _ view first bytes =>
    if view then { t with rsp := t.rsp.writeList first bytes } else { t with spad := t.spad.writeList first bytes }

/-- Change the commands in flight. -/
def Tile.setCmds (t : Tile) (cs : List AnvilCmd) : Tile := { t with mx := { t.mx with cmds := cs } }

/-- The landings due in this TC, in the order of the commands and of their steps. -/
def Tile.landDue (t : Tile) : Tile :=
  let due := t.mx.cmds.flatMap fun c => c.landings.filter fun l => l.due.ule t.tcc
  let t' := due.foldl Tile.landAnvil t
  t'.setCmds (t.mx.cmds.map fun c => { c with landings := c.landings.filter fun l => !(l.due.ule t.tcc) })

/-- Take a step of the command whose turn it is. -/
def Tile.stepCmd (t : Tile) : Tile :=
  match t.mx.cmds.findIdx? fun c => c.scanned && decide (c.taken < c.steps) && (c.t0 + BitVec.ofNat 64 c.prescan).ult t.tcc with
  | none => t
  | some i =>
    match t.mx.cmds[i]? with
    | none => t
    | some c =>
      let (l, fl) := t.stepLanding c
      let c' := { c with taken := c.taken + 1, landings := c.landings ++ [l],
                         lastStep := if c.steps ≤ c.taken + 1 then some t.tcc else none }
      (t.raiseFlags .matrix fl).setCmds (listSet t.mx.cmds i fun _ => c')

/-- ANVIL_STEP: what is due lands; in a TC that belongs to the tile, its command takes one step. -/
def execAnvilStep (t : TileNo) (s : State) : Out :=
  .next (s.modTile t fun x =>
    let x := x.landDue
    if s.ownsTc t then x.stepCmd else x)

/-- The claims of a command end in the TC after its last step (R217); a command past its raise point has left. -/
def Tile.endClaims (t : Tile) : Tile :=
  t.setCmds ((t.mx.cmds.filter fun c => !c.raised).map fun c => match c.lastStep with
    | some l => if l.ule t.tcc then { c with claims := [] } else c
    | none => c)

/-! ## Prescan (R219) -/

/-- The first failure of a prescan: sub-cause and byte address. -/
def Tile.prescanBad (t : Tile) (c : AnvilCmd) : Option (Nat × Nat) :=
  let w := mcOf c.word
  let sh := shapeOf c.mp[2]
  if w.op = 3 then
    let mapOff := fld c.mp[4].toNat 21 21
    let idxOff := fld c.mp[4].toNat 0 21
    let hs := (sh.n + 15) / 16
    let segs := liveSegs t.spad0 mapOff sh.k sh.n
    match (List.range (sh.k / 64)).find? fun g => (t.spad0.read (mapOff + g)).toNat / 2 ^ hs != 0 with
    | some g => some (0x01, mapOff + g)
    | none =>
      if 4096 < sh.m * (liveSlabs segs (pairKS w.fa w.fb) sh.k).length then some (0x01, mapOff)
      else
        let n := segs.length * 256
        ((List.range n).find? fun p =>
            let s := p / 256
            let j := p % 256 / 16
            let q := p % 16
            decide (segIndex t.spad0 idxOff s j (2 * q + 1) ≤ segIndex t.spad0 idxOff s j (2 * q))).map fun p =>
          (0x01, idxOff + 128 * (p / 256) + (2 * (p % 256 / 16 * 32 + 2 * (p % 16))) / 8)
  else
    match c.plane with
    | none => none
    | some p =>
      let o := operandOf c.mp[1]
      let iw := fld c.mp[5].toNat 2 2
      let bw := if iw = 0 then 4 else 8
      let bk := (sh.k + (codeE p.kind).1 - 1) / (codeE p.kind).1
      let (rows, elems) := if w.tb then (sh.n, bk) else (bk, sh.n)
      ((List.range (rows * elems)).find? fun n =>
          let raw := elemBits t.spad0 (o.off + n / elems * o.pitch * 32) bw (n % elems)
          decide (p.count ≤ (if iw = 1 then raw % 64 else raw))).map fun n =>
        (0x0A, o.off + n / elems * o.pitch * 32 + n % elems * bw / 8)

/-- A plane that a command captured is released: it leaves HELD with its last command (R169). -/
def Tile.freePlane (t : Tile) (c : AnvilCmd) : Tile :=
  match c.plane with
  | none => t
  | some _ =>
    let b := t.sync.bank[c.bank.toNat]
    let down (p : Plane) : Plane := { p with captures := p.captures - 1 }
    let b' := if c.parity == b.swapped then { b with front := down b.front } else { b with back := down b.back }
    { t with sync := { t.sync with bank := t.sync.bank.set c.bank.toNat b' } }

/-- A command that failed after its start is removed. -/
def Tile.dropCmd (t : Tile) (i : Nat) (c : AnvilCmd) : Tile := (t.freePlane c).setCmds (t.mx.cmds.eraseIdx i)

/-- ANVIL_PRESCAN: in its last TC the prescan passes; or it fails: the claims are released, the await is
restored, and the fault is reported on the matrix strand, for a follow-on word asynchronously (R219, R221). -/
def execAnvilPrescan (t : TileNo) (s : State) : Out :=
  .next (
    let x := s.tile t
    match x.mx.cmds.findIdx? fun c => !c.scanned && (c.t0 + BitVec.ofNat 64 c.prescan).ule x.tcc with
    | none => s
    | some i =>
      match x.mx.cmds[i]? with
      | none => s
      | some c =>
        let w := mcOf c.word
        match x.prescanBad c with
        | none =>
          let sh := shapeOf c.mp[2]
          let steps := if w.op = 3 then
              sh.m * (liveSlabs (liveSegs x.spad0 (fld c.mp[4].toNat 21 21) sh.k sh.n) (pairKS w.fa w.fb) sh.k).length
            else c.steps
          let c' := { c with scanned := true, steps := steps, lastStep := if steps = 0 then some x.tcc else none }
          s.setTile t (x.setCmds (listSet x.mx.cmds i fun _ => c'))
        | some (sub, addr) =>
          let x' := (x.dropCmd i c).raise w.await
          let f : Trap := { code := cCommandFault, sub := sub, faddr := BitVec.ofNat 64 addr }
          if c.followOn then (s.setTile t x').tileRecord t .matrix f
          else (s.setTile t { x' with mx := { x'.mx with seq := x'.mx.seq - 1 } }).raiseOn t .matrix f c.pc)

/-! ## Start (R201) -/

/-- A command may start behind those in flight: mma and mmas after the last step of the newest, mzero and mout after every raise
point. -/
def Tile.anvilFree (t : Tile) (w : McWord) : Bool :=
  if w.op == 2 || w.op == 3 then t.mx.cmds.all fun c => match c.lastStep with | some l => l.ult t.tcc | none => false
  else t.mx.cmds.isEmpty

/-- An output row of an earlier mout is still to land in a group, or in the tile view, that a command reads (R244; DEDUCED, log entry
83). -/
def Tile.outDue (t : Tile) (gs : List (BitVec 2)) (view : Bool) : Bool :=
  t.mx.cmds.any fun c => c.landings.any fun l => match l with
    | .out _ v first _ => if v then view else gs.contains (bankGroup first)
    | _ => false

/-- The transform unit claims one of these groups (R236). -/
def Tile.xfClaims (t : Tile) (gs : List (BitVec 2)) : Bool := t.xf.cmd.any fun c => c.claims.any gs.contains

/-- Clear a block of an accumulator: `n` columns of rows `r` on. -/
def Tile.clearAcc (t : Tile) (c : BitVec 1) (r m n : Nat) : Tile :=
  { t with rsp := (List.range m).foldl (fun s i => s.writeN (512 * (accRow c (r + i))) (4 * n) 0) t.rsp }

/-- What earlier commands are still to write into rows of an accumulator lands before those rows are cleared (R244). -/
def Tile.landRows (t : Tile) (r m : Nat) : Tile :=
  let mine (l : AnvilLanding) : Bool := match l with
    | .update _ row _ => decide (r ≤ row) && decide (row < r + m)
    | .zero _ row => decide (r < row + 16) && decide (row < r + m)
    | .out _ _ _ _ => false
  let t' := (t.mx.cmds.flatMap fun c => c.landings.filter mine).foldl Tile.landAnvil t
  t'.setCmds (t.mx.cmds.map fun c => { c with landings := c.landings.filter fun l => !mine l })

/-- Put a command that passed its checks in flight: captures, claims, the plane HELD, and the clear of clr, unless the prescan is to fail;
its bytes are claimed, so it finds at its end what stands there now (R216, R219). -/
def Tile.startMc (t : Tile) (word : W32) (pc : W64) (followOn : Bool) (st : Started) : Tile :=
  let w := mcOf word
  let code := w.op == 2 && w.fb == 10
  let bank := BitVec.ofNat 2 (fld t.mx.mp[5].toNat 0 2)
  let cap := t.capturePlane bank.toNat
  let view := t.viewOf (operandOf (if w.op == 5 then t.mx.mp[6] else t.mx.mp[0]))
  let cmd : AnvilCmd :=
    { word := word, pc := pc, followOn := followOn, mp := t.mx.mp, tview := view, cview := t.vec.cview, plane := if code then some cap.1 else none,
      bank := bank, parity := cap.2, t0 := t.tcc, prescan := st.prescan, scanned := st.prescan == 0, steps := st.steps, taken := 0,
      lastStep := none, claims := st.claims, landings := [], raised := false }
  let sh := shapeOf t.mx.mp[2]
  let t := if w.clr && (w.op == 2 || w.op == 3) && (st.prescan == 0 || (t.prescanBad cmd).isNone) then
      (t.landRows (accRow w.c sh.row0) sh.m).clearAcc w.c sh.row0 sh.m sh.n
    else t
  let t := if code then
      let b := t.sync.bank[bank.toNat]
      let up (p : Plane) : Plane := { p with captures := p.captures + 1 }
      let b' := if cap.2 == b.swapped then { b with front := up b.front } else { b with back := up b.back }
      { t with sync := { t.sync with bank := t.sync.bank.set bank.toNat b' } }
    else t
  { t with mx := { t.mx with cmds := t.mx.cmds ++ [cmd], seq := if followOn then t.mx.seq else t.mx.seq + 1 } }

/-- Issue a matrix-strand instruction other than a common operation: only a tile that owns Anvil windows may (R50). -/
def State.issueM (s : State) (f : Tile → Res Tile) : State :=
  s.issueT .matrix fun t => if s.hasWindow s.here then f t else .trap { code := cIllegalInsn }

/-- A command: behind what is in flight, with its await, and with its checks passed. -/
def mcExec (word : W32) (s : State) : Out :=
  .next (s.issueM fun t =>
    let w := mcOf word
    if !t.anvilFree w then .hold
    else match t.takeAwait w.await with
      | none => .hold
      | some t' =>
        match t.checkMc true w with
        | .error sub => .trap { code := cCommandFault, sub := sub }
        | .ok st => if t.xfClaims st.claims || t.outDue st.claims (operandOf t.mx.mp[0]).view then .hold else .done (t'.startMc word (t.pcOf .matrix) false st))

def execMma (w r : BitVec 6) (c l a b : BitVec 1) (f g : BitVec 4) (s : State) : Out := mcExec (mcWord 2 w r c l a b f g) s
def execMmas (w r : BitVec 6) (c l a : BitVec 1) (f g : BitVec 4) (s : State) : Out := mcExec (mcWord 3 w r c l a 0 f g) s
def execMzero (w r : BitVec 6) (c : BitVec 1) (s : State) : Out := mcExec (mcWord 4 w r c 0 0 0 0 0) s
def execMout (w r : BitVec 6) (c : BitVec 1) (f : BitVec 4) (s : State) : Out := mcExec (mcWord 5 w r c 0 0 0 f 0) s

/-! ## Parameters (R202) -/

def Tile.setMp (t : Tile) (r : BitVec 4) (v : W64) : Tile :=
  if h : r.toNat < 8 then { t with mx := { t.mx with mp := t.mx.mp.set r.toNat v } } else t

def execMpar (r : BitVec 4) (i : BitVec 22) (x : List W32) (s : State) : Out :=
  .next (s.issueM fun t => .done (t.setMp r (imm22 i x)))

def execMparq (r : BitVec 4) (s : State) : Out :=
  .next (s.issueM fun t =>
    match headOf t.fifo.k[4] t.tcc with
    | none => .hold
    | some v => .done ({ t with fifo := { t.fifo with k := t.fifo.k.set 4 t.fifo.k[4].tail } }.setMp r v))

/-! ## The raise point (R216) -/

/-- Commands of the Anvil whose raise point this TC is: their planes are released, and their semaphores rise. -/
def Tile.raiseMatrix (t : Tile) : Tile :=
  (List.range t.mx.cmds.length).foldl (fun x i =>
    match x.mx.cmds[i]? with
    | some c =>
      match c.lastStep with
      | some l =>
        if !c.raised && (l + 9).ule t.tcc then
          let x := (x.freePlane c).setCmds (listSet x.mx.cmds i fun d => { d with raised := true })
          (x.raise (mcOf c.word).rise).pendingSigs .matrix
        else x
      | none => x
    | none => x) t

/-! ## Follow-on words (R221) -/

/-- FOLLOW_ON_START: the oldest presented word starts on the target's Anvil, or is refused; none starts once pre-emption has reached the tile
(R222).  The rise of σ is an addition of the TC after the start (DESIGN CHOICE, log entry 85). -/
def execFollowOnStart (t : TileNo) (s : State) : Out :=
  .next (
    let x := s.tile t
    match x.mx.follow with
    | [] => s
    | (word, sem) :: rest =>
      let x1 := { x with mx := { x.mx with follow := rest } }
      let refuse (sub : Nat) : State := (s.setTile t x1).tileRecord t .matrix { code := cCommandFault, sub := sub }
      let w := mcOf word
      match if w.op == 2 || w.op == 3 then decodeMatrix word [] else none with
      | none => refuse 0x01
      | some i =>
        if !i.fieldsOk then refuse 0x01
        else if x.preempt || !x.anvilFree w then s
        else match x1.takeAwait w.await with
          | none => s
          | some x2 =>
            match x1.checkMc (s.hasWindow t) w with
            | .error sub => refuse sub
            | .ok st =>
              if x.xfClaims st.claims || x.outDue st.claims (operandOf x.mx.mp[0]).view then s
              else
                let y := x2.startMc word 0 true st
                let rise : PendingSig := { rel := false, id := sem, count := 1, before := 0 }
                s.setTile t { y with mx := { y.mx with sigs := if sem == 63 then y.mx.sigs else rise :: y.mx.sigs } })

end Sys2Proof.Machine
end

