-- ==== Sys2Proof/Machine/Stores.lean ====
section
/-!
DEFINITION. The store strand's accesses (07_streams.md R179-R191; 15_barrier.md R349-R353): stores, scatters, atomics, barrier
operations, fences, releases, and the aggregation buffers that hold a strand's elements (19_remote.md R420, R421).
-/
namespace Sys2Proof.Machine
open Sys2Proof

/-! ## Aggregation buffers of a strand -/

/-- The Bellows of a tile's die. -/
def State.bellows (s : State) (d : Fin 4) : Bellows := s.remote.bellows[d]

def State.setBellows (s : State) (d : Fin 4) (b : Bellows) : State :=
  { s with remote := { s.remote with bellows := s.remote.bellows.set d b } }

/-- The compute die of a tile. -/
def dieFin (t : TileNo) : Fin 4 := ⟨dieOf t, by unfold dieOf; omega⟩

/-- An element of the tile's present launch. -/
def AggElement.of (e : AggElement) (t : TileNo) (launch : Nat) : Bool := e.tile == t && e.launch == launch

/-- A buffer holds an element of the tile's store strand. -/
def AggBuffer.has (b : AggBuffer) (t : TileNo) (launch : Nat) : Bool :=
  b.phase != BufPhase.free && b.elems.any fun e => e.of t launch

/-- An element of the strand stands before the buffers. -/
def State.aggQueued (s : State) (t : TileNo) : Bool :=
  let b := s.bellows (dieFin t)
  let l := (s.tile t).launch
  (b.waiting ++ b.arriving).any fun e => e.2.of t l

/-- Buffers that satisfy `f` and are OPEN begin to leave (R421). -/
def State.leave (s : State) (d : Fin 4) (f : AggBuffer → Bool) : State :=
  let b := s.bellows d
  s.setBellows d { b with bufs := b.bufs.map fun x => if x.phase == BufPhase.open_ && f x then { x with phase := .leaving } else x }

/-- Every buffer that holds an element of the tile's store strand is to leave, once this FC's elements have entered (R421). -/
def State.leaveOf (s : State) (t : TileNo) : State :=
  let b := s.bellows (dieFin t)
  let e := (t, (s.tile t).launch)
  if b.flush.contains e then s else s.setBellows (dieFin t) { b with flush := e :: b.flush }

/-- Nothing of the strand stands in or before a buffer: every status has come (R185). -/
def State.aggClear (s : State) (t : TileNo) : Bool :=
  !s.aggQueued t && !((s.bellows (dieFin t)).bufs.toList.any fun b => b.has t (s.tile t).launch)

/-- Every packet of the strand has been accepted (R191). -/
def State.aggAccepted (s : State) (t : TileNo) : Bool :=
  !s.aggQueued t && !((s.bellows (dieFin t)).bufs.toList.any fun b => b.has t (s.tile t).launch && b.phase != BufPhase.sent)

/-! ## Output queues -/

def Tile.popO (t : Tile) (i : Fin 4) : Tile := { t with fifo := { t.fifo with ov := t.fifo.ov.set i t.fifo.ov[i].tail } }

def Tile.popOs (t : Tile) (i : Fin 2) : Tile := { t with fifo := { t.fifo with os := t.fifo.os.set i t.fifo.os[i].tail } }

/-- The address of a store form (R173). -/
def Tile.saAddr (t : Tile) (w : BitVec 4) (i : BitVec 13) : W64 := t.st.w[w.toNat] + sext64 i

/-- o0-o3 of an o field. -/
def oVec (o : BitVec 3) : Fin 4 := ⟨o.toNat % 4, by omega⟩

/-- o4, o5 of an o field. -/
def oSca (o : BitVec 3) : Fin 2 := ⟨o.toNat % 2, by omega⟩

/-! ## Performing at once, for ranges of this package (R378, R440) -/

/-- The data bytes of a piece. -/
def pieceData (d : Vec) (p : Piece) : Nat := fld d.toNat (8 * p.pos) (8 * p.len)

/-- What a store asks at a home. -/
def StoreKind.op (k : StoreKind) (d : Vec) (p : Piece) : HomeOp :=
  match k with
  | .plain => .write p.len (pieceData d p)
  | .flag => .write p.len (pieceData d p)
  | .atomic a => .atomic a
  | .orSig => .atomic { op := 8, wide := true, operand := BitVec.ofNat 64 (pieceData d p), compare := 0 }
  | .arm v => .arm v
  | .post n b => .post n.toNat b.toNat

/-- The tile's scratchpad after an operation on it. -/
def Tile.spadOp (t : Tile) (off : Nat) (op : HomeOp) : Tile :=
  if op.writes then { t with spad := t.spad.writeN off op.size (op.result (t.spad.readN off op.size)) } else t

/-- A store to a CACHED page marks the dirty signature (R184). -/
def State.markLine (s : State) (t : TileNo) (k : StoreKind) (p : Piece) : State :=
  match p.loc, k with
  | .glob g, .plain =>
    if g.mode == modeCached then s.modTile t fun x => { x with st := { x.st with sig := sigMark x.st.sig g.line } } else s
  | _, _ => s

/-- A write performed for an agent of die `d` meets that die's copy of the line: a store updates it, an atomic or barrier operation drops
it (R181, R182). -/
def State.meetCopy (s : State) (d : Nat) (op : HomeOp) (key pos : Nat) : State :=
  match op with
  | .read _ => s
  | .write n v => s.patchCopy d key pos n v
  | _ => s.dropCopies d (· == key)

/-- Perform one piece of a store where it can be performed without a request; a scratchpad piece waits for a claim that has begun since its
issue (R34). -/
def State.storePiece (s : State) (t : TileNo) (k : StoreKind) (d : Vec) (direct : Bool) (p : Piece) : Fate (Option State) :=
  match p.loc with
  | .spad off => if (s.tile t).claimed off p.len then .hold else .ok (some (s.modTile t (·.spadOp off (k.op d p))))
  | .glob g =>
    if direct || s.atHome t g then
      match s.homeOp (s.tile t).ctx g.pkg g.die g.pa.toNat (k.op d p) with
      | .ok (s', _) => .ok (some (s'.meetCopy (dieOf t) (k.op d p) g.line (g.pa.toNat % 128)))
      | .hold => .hold
      | .refuse c => .refuse c
    else .ok none

/-! ## Performing issued stores -/

/-- Ask another die for a piece of a store. -/
def State.askStore (s : State) (t : TileNo) (l : PendingStore) (i : Nat) (p : Piece) : State × List Nat :=
  match p.loc with
  | .spad _ => (s, [])
  | .glob g =>
    let kind : ReqKind := match l.kind.op l.data p with
      | .atomic a => .atomic a
      | .arm v => .arm v
      | .post n b => .post (BitVec.ofNat 16 n) (BitVec.ofNat 32 b)
      | _ => .store
    let r := s.ask kind (.storePiece t l.seq i) (s.tile t).ctx (dieOf t) g p.len (BitVec.ofNat 1024 (pieceData l.data p))
    (r.1, [r.2])

/-- Perform a store's pieces in order: those at hand at once, the others by request. -/
def State.startStore (s : State) (t : TileNo) (l : PendingStore) : Nat → List Piece → List Nat → Fate (State × List Nat)
  | _, [], ws => .ok (s, ws)
  | i, p :: rest, ws =>
    match s.storePiece t l.kind l.data false p with
    | .hold => .hold
    | .refuse c => .refuse c
    | .ok (some s') => (s'.markLine t l.kind p).startStore t l (i + 1) rest ws
    | .ok none =>
      let r := s.askStore t l i p
      (r.1.markLine t l.kind p).startStore t l (i + 1) rest (ws ++ r.2)

/-- A store leaves the list: sigs waiting for it are performed. -/
def Tile.dropStore (t : Tile) (seq : Nat) : Tile :=
  ({ t with st := { t.st with pending := t.st.pending.filter fun y => y.seq != seq } }).pendingSigs .store

/-- A store that failed after issue: a deferred fault (R268). -/
def State.failStore (s : State) (t : TileNo) (l : PendingStore) (code : Nat) (va : W64) : State :=
  (s.modTile t fun x => x.dropStore l.seq).deferred t .store code l.pc va

/-- STORE_PERFORM: the store with sequence number `i` of a tile is performed, or its requests are sent, once every earlier store of the
strand has been performed (R179, R242). -/
def execStorePerform (t : TileNo) (i : Nat) (s : State) : Out :=
  .next (
    let ps := (s.tile t).st.pending
    match ps.find? fun l => l.seq == i with
    | none => s
    | some l =>
      if l.sent || !(ps.filter fun o => decide (o.seq < i)).isEmpty then s
      else
        match s.startStore t l 0 l.pieces [] with
        | .hold => s
        | .refuse c => if (s.tile t).canReport .store then s.failStore t l c l.va else s
        | .ok (s', ws) =>
          if ws.isEmpty then s'.modTile t (·.dropStore i)
          else s'.modTile t fun x => { x with st := { x.st with
            pending := x.st.pending.map fun y => if y.seq == i then { y with sent := true, waits := ws } else y } })

/-! ## Issuing stores -/

/-- A store enters the list of those in flight. -/
def Tile.addStore (t : Tile) (kind : StoreKind) (ps : List Piece) (d : Vec) (va pc : W64) : Tile :=
  let p : PendingStore :=
    { seq := t.st.seq, kind := kind, pieces := ps, data := d, waits := [], sent := false, pc := pc, va := va }
  { t with st := { t.st with pending := t.st.pending ++ [p], seq := t.st.seq + 1 } }

/-- A store that is performed as it issues is counted. -/
def Tile.countStore (t : Tile) : Tile := { t with st := { t.st with seq := t.st.seq + 1 } }

/-- The scratchpad pieces of a store, in order. -/
def Tile.spadStores (t : Tile) (k : StoreKind) (d : Vec) : List Piece → Tile
  | [] => t
  | p :: rest =>
    (match p.loc with
      | .spad off => t.spadOp off (k.op d p)
      | .glob _ => t).spadStores k d rest

/-- Perform every piece at once; the lines were readied together before. -/
def State.storeNow (s : State) (t : TileNo) (k : StoreKind) (d : Vec) : List Piece → Option State
  | [] => some s
  | p :: rest =>
    match s.storePiece t k d true p with
    | .ok (some s') => (s'.markLine t k p).storeNow t k d rest
    | _ => none

/-- A store whose data has been popped: it goes on its way, or, when it touches an enabled snapshot range of this package, is held
until every home has answered and is judged whole (R378, R440).  A store of scratchpad alone is performed in the TC of its issue (R33)
when no older one is still to be performed. -/
def State.storeOut (s : State) (k : StoreKind) (ps : List Piece) (d : Vec) (va : W64) (pop : Tile → Tile) : Res State :=
  let t := s.here
  if s.anyRange ps then
    if !s.cur.st.pending.isEmpty || s.anyHeld ps then .hold
    else match s.snapLines (s.pieceLines ps) with
      | .hold => .hold
      | .refuse => .trap { code := cShadow, faddr := BitVec.ofNat 64 ((s.firstShadow ps).getD va.toNat) }
      | .ok s' =>
        match (s'.modTile t pop).storeNow t k d ps with
        | none => .hold
        | some s'' => .done ((s''.modTile t (·.countStore)).countPieces t ps)
  else if allSpad ps && s.cur.st.pending.isEmpty then
    .done (s.setTile t (((pop s.cur).spadStores k d ps).countStore))
  else .done ((s.setTile t ((pop s.cur).addStore k ps d va (s.cur.pcOf .store))).countPieces t ps)

def storeAsk (sp : BitVec 1) (align : Nat) : Ask :=
  { sp := sp == 1, want := .write, align := align, barrier := false, seqOk := fun _ => true, unit := 64 }

/-- st: one vector (R179). -/
def execSt (o : BitVec 3) (w : BitVec 4) (sp : BitVec 1) (i : BitVec 13) (s : State) : Out :=
  .next (s.issue .store fun s =>
    let t := s.cur
    let va := t.saAddr w i
    (s.pieces .store (storeAsk sp 32) [{ pos := 0, len := 512, va := va }]).bind fun ps =>
      match headOf t.fifo.ov[oVec o] t.tcc with
      | none => .hold
      | some v => s.storeOut .plain ps v va (·.popO (oVec o)))

/-- The bellows key of an aggregated access (R189, R420). -/
def aggKey (s : State) (t : TileNo) (p : Piece) (op : Option (BitVec 4)) (wide : Bool) : Option (AggKey × BitVec 16) :=
  match p.loc with
  | .glob g =>
    if g.agg && g.mode == modeDirect && !s.atHome t g then
      some ({ ctx := (s.tile t).ctx, pkg := g.pkg, die := g.die, window := g.pa.toNat / 65536, op := op, wide := wide },
        g.pa.setWidth 16)
    else none
  | .spad _ => none

/-- An aggregated access goes to the Bellows of its die; the strand goes on (R190). -/
def State.aggregate (s : State) (t : TileNo) (key : AggKey) (pa : BitVec 16) (v : W64) : State :=
  let d := dieFin t
  let b := s.bellows d
  let e : AggElement := { pa := pa, value := v, tile := t, launch := (s.tile t).launch }
  s.setBellows d { b with arriving := b.arriving ++ [(key, e)] }

/-- A scalar store or atomic: aggregated where R189 says so, else on its way. -/
def State.scalarOut (s : State) (k : StoreKind) (agg : Option (Option (BitVec 4) × Bool)) (ps : List Piece) (v va : W64)
    (o : BitVec 3) : Res State :=
  let t := s.here
  match agg.bind fun g => ps.head?.bind fun p => aggKey s t p g.1 g.2 with
  | some (key, pa) =>
    if s.aggQueued t then .hold
    else .done ((s.modTile t (·.popOs (oSca o))).aggregate t key pa v)
  | none => s.storeOut k ps (v.setWidth 4096) va (·.popOs (oSca o))

/-- stw: the low bytes of a 64-bit entry (R179); kinds 4-6 may aggregate. -/
def execStw (o : BitVec 3) (w k : BitVec 4) (sp : BitVec 1) (i : BitVec 13) (s : State) : Out :=
  .next (s.issue .store fun s =>
    let t := s.cur
    let va := t.saAddr w i
    let n := kindSize k.toNat
    (s.pieces .store (storeAsk sp n) [{ pos := 0, len := n, va := va }]).bind fun ps =>
      match headOf t.fifo.os[oSca o] t.tcc with
      | none => .hold
      | some v => s.scalarOut .plain (if 4 ≤ k.toNat then some (none, n == 8) else none) ps v va o)

/-- stx: a scatter (R180); elements in increasing i. -/
def execStx (o : BitVec 3) (w k : BitVec 4) (sp : BitVec 1) (j : BitVec 1) (s : State) : Out :=
  .next (s.issue .store fun s =>
    let t := s.cur
    let xi : Fin 4 := ⟨2 + j.toNat, by omega⟩
    match headOf t.fifo.x[xi] t.tcc with
    | none => .hold
    | some ix =>
      let n := kindSize k.toNat
      let base := t.st.w[w.toNat]
      (s.pieces .store (storeAsk sp n) (gatherElems base n ix)).bind fun ps =>
        match headOf t.fifo.ov[oVec o] t.tcc with
        | none => .hold
        | some v => s.storeOut .plain ps v base (fun t => (t.popO (oVec o)).popX xi))

/-- atn: an atomic without a result (R182). -/
def execAtn (o : BitVec 3) (w k : BitVec 4) (sp wd : BitVec 1) (i : BitVec 13) (s : State) : Out :=
  .next (s.issue .store fun s =>
    let t := s.cur
    let va := t.saAddr w i
    let n := if wd == 1 then 8 else 4
    (s.pieces .store (storeAsk sp n) [{ pos := 0, len := n, va := va }]).bind fun ps =>
      match headOf t.fifo.os[oSca o] t.tcc with
      | none => .hold
      | some v =>
        s.scalarOut (.atomic { op := k, wide := wd == 1, operand := v, compare := 0 }) (some (some k, wd == 1)) ps v va o)

/-! ## Barrier operations (R349-R351) -/

/-- The offset of a barrier form: IMM9 in 16-byte units. -/
def Tile.sbAddr (t : Tile) (w : BitVec 4) (i : BitVec 9) : W64 := t.st.w[w.toNat] + zext64 i * 16

def barrierAsk (sp : BitVec 1) : Ask :=
  { sp := sp == 1, want := .write, align := 16, barrier := true, seqOk := fun _ => true, unit := 64 }

/-- barm: arm(v), in store-strand order. -/
def execBarm (f : BitVec 3) (w : BitVec 4) (sp : BitVec 1) (i : BitVec 9) (s : State) : Out :=
  .next (s.issue .store fun s =>
    let t := s.cur
    let va := t.sbAddr w i
    (s.pieces .store (barrierAsk sp) [{ pos := 0, len := 16, va := va }]).bind fun ps =>
      match headOf t.fifo.os[oSca f] t.tcc with
      | none => .hold
      | some v => s.storeOut (.arm v) ps 0 va (·.popOs (oSca f)))

/-- barr: its post follows every earlier store, and on a BAR page the strand's buffers; the strand holds until it is performed. -/
def execBarr (f : BitVec 3) (w : BitVec 4) (sp : BitVec 1) (i : BitVec 9) (s : State) : Out :=
  .next (s.issue .store fun s =>
    let t := s.cur
    let va := t.sbAddr w i
    (s.pieces .store (barrierAsk sp) [{ pos := 0, len := 16, va := va }]).bind fun ps =>
      match headOf t.fifo.os[oSca f] t.tcc, ps with
      | some v, p :: _ =>
        let s' := s.modTile s.here fun x =>
          let x := x.popOs (oSca f)
          { x with st := { x.st with hold := some (.barr x.st.seq 0 p.loc v va (t.pcOf .store)) } }
        .done (if sp = 1 then s' else s'.leaveOf s.here)
      | _, _ => .hold)

/-! ## Fences and releases (R185, R187, R191) -/

/-- fence.s: earlier stores are performed at the scope; at die scope or wider the strand's buffers leave and report first. -/
def execFenceS (sc : BitVec 3) (s : State) : Out :=
  .next (s.issue .store fun s =>
    let s' := s.modTile s.here fun x => { x with st := { x.st with hold := some (.fence sc x.st.seq) } }
    .done (if sc = 0 then s' else s'.leaveOf s.here))

/-- aflush: the strand's buffers leave; it waits for their acceptance. -/
def execAflush (s : State) : Out :=
  .next (s.issue .store fun s =>
    .done ((s.modTile s.here fun x => { x with st := { x.st with hold := some .aflush } }).leaveOf s.here))

/-- rel: its value is popped once its checks pass; its steps follow while the strand holds. -/
def execRel (o : BitVec 3) (w k : BitVec 4) (i : BitVec 13) (s : State) : Out :=
  .next (s.issue .store fun s =>
    let t := s.cur
    let va := t.saAddr w i
    let wide := decide (2 ≤ k.toNat)
    let ask : Ask := storeAsk 0 (if wide then 256 else 8)
    (s.pieces .store ask [{ pos := 0, len := 8, va := va }]).bind fun ps =>
      match headOf t.fifo.os[oSca o] t.tcc, ps with
      | some v, { loc := .glob g, .. } :: _ =>
        let s' := s.modTile s.here fun x =>
          let x := x.popOs (oSca o)
          { x with st := { x.st with hold := some (.rel (k.setWidth 3) x.st.seq 1 g v va (t.pcOf .store)) } }
        .done (if k = 0 then s' else s'.leaveOf s.here)
      | _, _ => .hold)

/-- The pieces of a signature OR: sixteen 64-bit words from FLAG + 0x80 (R183). -/
def sigPieces (g : Phys) (va : W64) : List Piece :=
  (List.range 16).map fun i =>
    { pos := 8 * i, len := 8, loc := .glob { g with pa := g.pa + BitVec.ofNat 52 (0x80 + 8 * i) }, va := va + BitVec.ofNat 64 (0x80 + 8 * i) }

def Tile.setStHold (t : Tile) (h : Option StoreHold) : Tile := { t with st := { t.st with hold := h } }

/-- What an issued store-strand instruction holds for has come, or its next step is taken (R185, R187, R188, R191, R351). -/
def State.storeHold (s : State) (t : TileNo) : State :=
  let x := s.tile t
  match x.st.hold with
  | none => s
  | some (.mark _ _ need) =>
    match need with
    | some n => if n ≤ x.ld.oldest then s.setTile t (x.setStHold none) else s
    | none => s
  | some (.fence sc seq) =>
    if decide (seq ≤ x.st.oldest) && (sc == 0 || s.aggClear t) then s.setTile t (x.setStHold none)
    else if sc = 0 then s else s.leaveOf t
  | some .aflush => if s.aggAccepted t then s.setTile t (x.setStHold none) else s.leaveOf t
  | some (.barr seq step loc v va pc) =>
    let p : Piece := { pos := 0, len := 16, loc := loc, va := va }
    let page := match loc with | .glob _ => true | .spad _ => false
    if step = 0 then
      if decide (seq ≤ x.st.oldest) && (!page || s.aggClear t) then
        s.setTile t ((x.addStore (.post (v.setWidth 16) (v.extractLsb' 32 32)) [p] 0 va pc).setStHold (some (.barr seq 1 loc v va pc)))
      else if page then s.leaveOf t else s
    else if x.st.pending.isEmpty then s.setTile t (x.setStHold none)
    else s
  | some (.rel sc seq step g v va pc) =>
    let go (n : Nat) (x : Tile) : State := s.setTile t (x.setStHold (some (.rel sc seq n g v va pc)))
    let flag : Piece := { pos := 0, len := 8, loc := .glob g, va := va }
    match step with
    | 1 => if sc == 0 || s.aggClear t then go 2 x else s.leaveOf t
    | 2 =>
      if x.st.oldest < seq then s
      else if 2 ≤ sc.toNat then go 3 (x.addStore .orSig (sigPieces g va) (x.st.sig.setWidth 4096) va pc)
      else go 4 (x.addStore .flag [flag] (v.setWidth 4096) va pc)
    | 3 =>
      if x.st.pending.isEmpty then
        go 4 (({ x with st := { x.st with sig := 0 } }).addStore .flag [flag] (v.setWidth 4096) va pc)
      else s
    | _ => if x.st.pending.isEmpty then s.setTile t (x.setStHold none) else s

/-- The same for the load strand: a mark.l whose pair is met and whose stores are performed (R188). -/
def State.loadHold (s : State) (t : TileNo) : State :=
  let x := s.tile t
  match x.ld.hold with
  | some (.mark _ _ (some n)) => if n ≤ x.st.oldest then s.setTile t { x with ld := { x.ld with hold := none } } else s
  | _ => s

/-! ## halt (R355, R74, R198) -/

/-- A strand ends.  The store strand ends once its issued stores have been performed, and its buffers leave. -/
def State.haltAt (s : State) (t : TileNo) (k : Strand) : State :=
  let s := s.modTile t (·.haltStrand k)
  if k == .store then s.leaveOf t else s

/-- Whether a strand that reaches its end may be halted now. -/
def Tile.mayHalt (t : Tile) (k : Strand) : Bool := k != .store || (t.st.pending.isEmpty && t.st.hold.isNone && t.st.aggWait.isNone)

/-- HALT: the issuing strand ends for the rest of the launch; the word counts as issued. -/
def execHalt (s : State) : Out :=
  let k := s.strandHere
  .next (
    if !s.cur.mayHalt k then s
    else
      let t := s.here
      let s := s.modTile t fun x => (x.tick k).countUp k
      s.haltAt t k)

/-- FETCH_END_HALT: after fetch has ended, a strand whose queue is empty is halted as if it had issued halt (R74). -/
def execFetchEndHalt (t : TileNo) (k : Strand) (s : State) : Out :=
  .next (
    let x := s.tile t
    let st := x.str k
    let sup := k == .control && x.isSup
    let ended := if sup then x.sfetch.ended else x.fetch.ended
    let waiting := k == .control && (if sup then x.ctl.swait.isSome else x.ctl.wait.isSome)
    if (x.phase == .running || x.phase == .trapped) && ended && (x.queueOf k).isEmpty && !st.halted && !waiting
        && !(st.stopped && !sup) && !(x.isSup && k == .control && !sup) && x.mayHalt k
    then s.haltAt t k else s)

end Sys2Proof.Machine
end

