-- ==== Sys2Proof/Machine/Streams.lean ====
section
/-!
DEFINITION. The stream (07_streams.md R192-R197): sset and sclr, the descriptor and its rules, and one element's way through pad,
read, expansion, scale and conversion (STREAM_ELEMENT).
-/
namespace Sys2Proof.Machine
open Sys2Proof

/-! ## Descriptor fields (Table 7-8) -/

/-- Bits `[lo+n-1:lo]` of the control word. -/
def dctl (d : BitVec 512) (lo n : Nat) : Nat := fld d.toNat (64 + lo) n

def dBase (d : BitVec 512) : W64 := d.extractLsb' 0 64
def dBind (d : BitVec 512) : Bool := d.getLsbD 103
def dStream (d : BitVec 512) : Nat := dctl d 36 3
def dIw (d : BitVec 512) : Nat := dctl d 34 2
def dBank (d : BitVec 512) : Nat := dctl d 32 2
def dCbx (d : BitVec 512) : Bool := d.getLsbD 95
def dScale (d : BitVec 512) : Bool := d.getLsbD 94
def dPad (d : BitVec 512) : Bool := d.getLsbD 93
def dCvt (d : BitVec 512) : Bool := d.getLsbD 92
def dSat (d : BitVec 512) : Bool := d.getLsbD 91
def dRm (d : BitVec 512) : Num.Rm := Num.Rm.ofBits (BitVec.ofNat 2 (dctl d 25 2))
def dDst (d : BitVec 512) : Nat := dctl d 20 5
def dSrc (d : BitVec 512) : Nat := dctl d 15 5
def dRank (d : BitVec 512) : Nat := dctl d 12 3 + 1
def dCons (d : BitVec 512) : Bool := d.getLsbD 75
def dSp (d : BitVec 512) : Bool := d.getLsbD 74
def dMode (d : BitVec 512) : Nat := dctl d 8 2
def dDim (d : BitVec 512) (l : Nat) : W64 := d.extractLsb' (128 + 64 * l) 64
def dCount (d : BitVec 512) (l : Nat) : Nat := fld (dDim d l).toNat 48 16 + 1
def dStride (d : BitVec 512) (l : Nat) : W64 := ((dDim d l).setWidth 48).signExtend 64
def dScaleBase (d : BitVec 512) : W64 := d.extractLsb' 384 64
def dPadVal (d : BitVec 512) : Nat := fld d.toNat 448 32
def dLimit (d : BitVec 512) : Nat := fld d.toNat 480 16

/-- Bits that a source element takes in memory. -/
def dWidth (d : BitVec 512) : Nat := if dCbx d then (if dIw d = 0 then 4 else 8) else ccBits (dSrc d)

/-- A packed source (R195). -/
def dPacked (d : BitVec 512) : Bool := dCbx d || [6, 8, 9, 17].contains (dSrc d)

/-- Source element size in bytes for the alignment rule of R193. -/
def dAlign (d : BitVec 512) : Nat := if dPacked d then 1 else dWidth d / 8

/-- The number of elements T. -/
def dTotal (d : BitVec 512) : Nat := (List.range (dRank d)).foldl (fun n l => n * dCount d l) 1

/-- Two codes that vcvt converts between without a scale (R146). -/
def cvtPair (f t : Nat) : Bool := f != t && decide (f < 18) && decide (t < 18) && !ccBlock f && !ccBlock t

/-- The rules of Table 7-8 and R195 for stream `q`. -/
def descOk (q : Nat) (d : BitVec 512) : Bool :=
  let known := decide (dSrc d < 18) && decide (dDst d < 18)
  let common := (dctl d 40 24 == 0) && (dctl d 0 8 == 0) && (fld d.toNat 496 16 == 0) && (dBind d || dStream d == 0)
    && (decide (q < 4) || dCons d)
  if dMode d = 0 then
    common && (d &&& ~~~(BitVec.ofNat 512 ((0xF * 2 ^ 36 + 0xC00) * 2 ^ 64)) == 0)
  else
    common && dMode d == 1 && known && decide (dRank d ≤ 4)
      && (List.range 4).all (fun l => decide (l < dRank d) || dDim d l == 0)
      && (!dPacked d || (dStride d 0 == 0 && (dWidth d != 4 || dCount d 0 % 2 == 0)))
      && (if dCbx d then dIw d != 3 && !dScale d && !dCvt d && (dDst d == 1 || dDst d == 3) && dSrc d == dDst d && decide (q < 4)
          else (if ccBlock (dSrc d) then dScale d && dCvt d && (dDst d == 0 || dDst d == 1) && dCount d 0 % 32 == 0
            else !dScale d && (if dCvt d then cvtPair (dSrc d) (dDst d) else dSrc d == dDst d)))
      && (decide (q < 4) || !dScale d)

/-- BASE and the strides are multiples of the element size (R193). -/
def descAligned (d : BitVec 512) : Bool :=
  let n := dAlign d
  (dBase d).toNat % n == 0 && (List.range (dRank d)).all fun l => (dStride d l).toNat % n == 0

/-! ## sset and sclr (R192, R193) -/

def Tile.qEmpty (t : Tile) (q : BitVec 3) : Bool :=
  if h : q.toNat < 4 then t.fifo.qv[q.toNat].isEmpty else (t.fifo.qs[q.toNat - 4]'(by omega)).isEmpty

def Tile.qClear (t : Tile) (q : BitVec 3) : Tile :=
  if h : q.toNat < 4 then { t with fifo := { t.fifo with qv := t.fifo.qv.set q.toNat [], qpos := t.fifo.qpos.set q.toNat 0 } }
  else { t with fifo := { t.fifo with qs := t.fifo.qs.set (q.toNat - 4) [] (by omega) } }

def Tile.setStream (t : Tile) (q : BitVec 3) (x : Stream) : Tile := { t with ld := { t.ld with stream := t.ld.stream.set q.toNat x } }

/-- Apply a valid descriptor to a stream: `off` is added to BASE. -/
def Tile.applyDesc (t : Tile) (q : BitVec 3) (d : BitVec 512) (off : W64) : Tile :=
  let x := t.ld.stream[q.toNat]
  let y := { x with control := dCons d, desc := d, base := dBase d + off, next := 0, faultOrd := 0, acc := 0, filled := 0,
                    after := t.ld.seq, clearing := false, tlb := none, tlb2 := none, waits := [], got := [], plane := none, reserved := false }
  t.setStream q { y with phase := if dMode d = 0 then .explicit else .active }

/-- The 64-byte descriptor at a register-space offset. -/
def Tile.descAt (t : Tile) (off : Nat) : BitVec 512 := BitVec.ofNat 512 (t.rsp.readN off 64)

def execSset (q : BitVec 3) (a : BitVec 4) (d : BitVec 10) (s : State) : Out :=
  .next (s.issueT .load fun t =>
    let x := t.ld.stream[q.toNat]
    let desc := t.descAt (64 * d.toNat)
    let off := t.ld.a[a.toNat]
    if x.phase == .active || x.phase == .halted || !descOk q.toNat desc || (dCons desc != x.control && !t.qEmpty q) then
      .trap { code := cStreamState }
    else if dMode desc == 1 && !descAligned desc then .trap { code := cMisaligned, faddr := dBase desc + off }
    else .done (t.applyDesc q desc off))

/-- sclr: EXPLICIT and empty, once what is in flight into the stream has come (Table 7-7). -/
def execSclr (q : BitVec 3) (s : State) : Out :=
  .next (s.issueT .load fun t =>
    let x := t.ld.stream[q.toNat]
    let busy := !x.waits.isEmpty || t.ld.pending.any fun l =>
      l.q == q && match l.kind with | .fence _ => false | _ => true
    if busy then .stay fun s => s.modTile s.here fun y => y.setStream q { y.ld.stream[q.toNat] with clearing := true }
    else .done ((t.qClear q).setStream q { x with phase := .explicit, clearing := false, acc := 0, filled := 0, reserved := false,
                                                  tlb := none, tlb2 := none, got := [], plane := none }))

/-! ## Reading for a stream -/

/-- What a read for a stream finds: the value; a request that was sent; nothing to be done yet; a fault. -/
inductive StreamRead where
  | val (s : State) (n : Nat)
  | sent (s : State)
  | hold
  | bad (cause : Nat)

/-- The index of ordinal `j` at level `l`. -/
def levelIndex (d : BitVec 512) (j l : Nat) : Nat :=
  j / ((List.range l).foldl (fun n i => n * dCount d i) 1) % dCount d l

/-- The byte address of ordinal `j`, and whether its nibble is the high one. -/
def elemAddr (d : BitVec 512) (base : W64) (j : Nat) : W64 × Bool :=
  let run := (List.range (dRank d)).foldl (fun a l => a + BitVec.ofNat 64 (levelIndex d j l) * dStride d l) base
  if dPacked d then
    let i0 := levelIndex d j 0
    if dWidth d = 4 then (run + BitVec.ofNat 64 (i0 / 2), i0 % 2 == 1) else (run + BitVec.ofNat 64 i0, false)
  else (run, false)

/-- Ordinal `j` is padding, which reads nothing (R195). -/
def padded (d : BitVec 512) (j : Nat) : Bool := dPad d && decide (dLimit d ≤ levelIndex d j 0)

/-- The first address in pattern order, from ordinal `j`, that lies outside a page. -/
def nextOutside (d : BitVec 512) (base : W64) (page : TlbEntry) : Nat → Nat → Option W64
  | 0, _ => none
  | fuel + 1, j =>
    let va := (elemAddr d base j).1
    if !padded d j && (tlbFind [page] va).isNone then some va else nextOutside d base page fuel (j + 1)

/-- A walk as the stream TLB keeps it; a failed one is not kept. -/
def State.walkEntry (s : State) (c : BitVec 6) (va : W64) : Option TlbEntry :=
  match s.walk c va with
  | .error _ => none
  | .ok (pte, size) => some { va := BitVec.ofNat 64 (va.toNat / size * size), size := size, result := .ok pte }

/-- The stream enters a page: its translation is kept, and that of the next page in pattern order is fetched (R197). -/
def State.enterPage (s : State) (t : TileNo) (n : Fin 8) (e : TlbEntry) : State :=
  let x := s.tile t
  let st := x.ld.stream[n]
  let d := st.desc
  let ahead := (nextOutside d st.base e (dTotal d - st.next - 1) (st.next + 1)).bind (s.walkEntry x.ctx)
  s.setTile t (x.setStream (BitVec.ofNat 3 n.val) { st with tlb := some e, tlb2 := ahead })

/-- The translation of an address through the stream's TLB: of the current page and the next in pattern order (R197, R364).  A scale, which
is no address of the pattern, does not change the current page. -/
def State.streamPte (s : State) (t : TileNo) (n : Fin 8) (element : Bool) (va : W64) : State × Except Nat (W64 × Nat) :=
  let x := s.tile t
  let st := x.ld.stream[n]
  let found (e : TlbEntry) : Except Nat (W64 × Nat) := e.result.map fun pte => (pte, e.size)
  match tlbFind st.tlb.toList va with
  | some e => (s, found e)
  | none =>
    match tlbFind st.tlb2.toList va with
    | some e => (if element then s.enterPage t n e else s, found e)
    | none =>
      match s.walk x.ctx va with
      | .error c => (s, .error c)
      | .ok (pte, size) =>
        let e : TlbEntry := { va := BitVec.ofNat 64 (va.toNat / size * size), size := size, result := .ok pte }
        (if element then s.enterPage t n e else s, .ok (pte, size))

/-- Read one part, which lies in one line, of global memory. -/
def State.streamPart (s : State) (t : TileNo) (n : Fin 8) (element : Bool) (va : W64) (len : Nat) : StreamRead :=
  let (s, r) := s.streamPte t n element va
  match r with
  | .error c => .bad c
  | .ok (pte, size) =>
    match s.checkPte pte size va .read false with
    | .error c => .bad c
    | .ok g =>
      let x := s.tile t
      let st := x.ld.stream[n]
      let pick (v : BitVec 1024) : Nat := fld v.toNat (8 * (g.pa.toNat % 128)) (8 * len)
      match if g.mode == modeCached then s.copyOf (dieOf t) g.line else none with
      | some v => .val s (pick v)
      | none =>
        if s.atHome t g then
          match s.homeOp x.ctx g.pkg g.die g.pa.toNat (.read len) with
          | .ok (s', m) => .val s' m
          | .hold => .hold
          | .refuse c => .bad c
        else match st.got.find? fun e => e.1 == g.line with
          | some e => .val s (pick e.2)
          | none =>
            if !st.waits.isEmpty then .hold
            else
              let q := s.askLine (.stream t n) x.ctx (dieOf t) g true
              .sent (q.1.modTile t fun y => y.setStream (BitVec.ofNat 3 n.val) { y.ld.stream[n] with waits := [q.2] })

/-- Read the parts of an element one after another; `sh` is the place of the next byte in the value. -/
def State.streamParts (s : State) (t : TileNo) (n : Fin 8) (element : Bool) : List (Nat × Nat × Nat) → Nat → StreamRead
  | [], acc => .val s acc
  | (pos, a, len) :: rest, acc =>
    match s.streamPart t n element (BitVec.ofNat 64 a) len with
    | .val s' m => s'.streamParts t n element rest (acc + m * 2 ^ (8 * pos))
    | other => other

/-- Read `len` bytes for a stream, in the space its descriptor names. -/
def State.streamBytes (s : State) (t : TileNo) (n : Fin 8) (sp element : Bool) (va : W64) (len : Nat) : StreamRead :=
  if sp then
    let x := s.tile t
    let offs := (List.range len).map fun i => (spadOff va + i) % spadSize
    let claims := x.claims
    if offs.any fun o => claims.contains (bankGroup o) then .bad cBankClaim
    else .val s (ofBytes (offs.map fun o => x.spad.read o))
  else s.streamParts t n element (cutAt 128 10 0 va.toNat len) 0

/-! ## STREAM_ELEMENT (R195-R197) -/

/-- Elements or lanes of an entry, and their width. -/
def entryCap (q : Nat) (d : BitVec 512) : Nat × Nat :=
  if q < 4 then (if dCbx d then (128, 32) else (4096 / ccBits (dDst d), ccBits (dDst d))) else (1, 64)

/-- A scalar stream's 64 bits from an element of a code (R196). -/
def scalarPlace (c x : Nat) : Nat :=
  if (ccFmt c).isNone && !ccUnsigned c then ((BitVec.ofNat (ccBits c) x).signExtend 64).toNat else x

/-- Put values into the entry in assembly; deliver it when it is full or the pattern ends.  An element is taken between two TCs: its flags
and its entry belong to the TC that has ended (R67). -/
def Tile.streamPut (t : Tile) (n : Fin 8) (vals : List Nat) (flags : Num.Flags) : Tile :=
  let q := BitVec.ofNat 3 n.val
  let x := t.ld.stream[n]
  let d := x.desc
  let (cap, w) := entryCap n.val d
  let acc := x.acc ||| BitVec.ofNat 4096 (packList w vals * 2 ^ (w * x.filled))
  let filled := x.filled + vals.length
  let last := decide (dTotal d ≤ x.next + 1)
  let t := t.raiseFlags .load flags
  let y := { x with next := x.next + 1, got := [] }
  if cap ≤ filled || last then
    (t.qFill q (BitVec.ofNat 64 (2 ^ 63 + x.tags)) acc).setStream q
      { y with acc := 0, filled := 0, tags := x.tags + 1, reserved := false, plane := none, phase := if last then .drained else .active }
  else t.setStream q { y with acc := acc, filled := filled }

/-- A stream waits for an acquire, a fence or a barw of the load strand, and for the loads before its sset (R186, R187, R196, R351). -/
def Tile.streamOrdered (t : Tile) (x : Stream) : Bool :=
  decide (x.after ≤ t.ld.oldest)
    && !(t.ld.pending.any fun l => match l.kind with | .acquire _ => true | .fence _ => true | _ => false)
    && (match t.ld.hold with | some (.barw _ _ _) => false | _ => true)

/-- Reserve the entry that the next element goes to, and capture the plane it expands from. -/
def Tile.streamReserve (t : Tile) (n : Fin 8) : Option Tile :=
  let q := BitVec.ofNat 3 n.val
  let x := t.ld.stream[n]
  if x.reserved then some t
  else if !t.qRoom q then none
  else
    let plane := if dCbx x.desc then some (t.sync.bank[dBank x.desc % 4]'(by omega)).front else none
    some ((t.qReserve q (BitVec.ofNat 64 (2 ^ 63 + x.tags))).setStream q { x with reserved := true, plane := plane })

/-- The element of ordinal `next` faults: the stream is HALTED there (R197). -/
def State.streamHalt (s : State) (t : TileNo) (n : Fin 8) (code : Nat) (deferred : Bool) (va : W64) : State :=
  (s.modTile t fun x =>
    let st := x.ld.stream[n]
    x.setStream (BitVec.ofNat 3 n.val) { st with phase := .halted, faultOrd := st.next, got := [], waits := [] }).streamFault t n.val
      code deferred va

/-- Take the next element of a stream that may go on. -/
def State.streamNext (s : State) (t : TileNo) (n : Fin 8) : State :=
  let x := s.tile t
  let st := x.ld.stream[n]
  let d := st.desc
  let j := st.next
  let fault (c : Nat) (va : W64) : State := if x.canReport .load then s.streamHalt t n c false va else s
  let parts := match st.plane with
    | some p => kindParts p.kind
    | none => 1
  if padded d j then
    let v := dPadVal d % 2 ^ ccBits (dDst d)
    s.modTile t fun y => y.streamPut n
      (if dCbx d then List.replicate parts (dPadVal d)
       else if n.val < 4 then [v] else [scalarPlace (dDst d) v]) 0
  else
    let (va, high) := elemAddr d st.base j
    let bytes := (dWidth d + 7) / 8
    match s.streamBytes t n (dSp d) true va bytes with
    | .sent s' => s'
    | .hold => s
    | .bad c => fault c va
    | .val s1 raw =>
      let bits := if dWidth d = 4 then (if high then raw / 16 else raw % 16) else raw
      if dCbx d then
        let pl := st.plane.getD { entries := Vector.replicate 256 0, kind := 0, count := 0, captures := 0 }
        let ix := if dIw d = 1 then bits % 64 else bits
        if pl.count ≤ ix then fault cCodebookIndex va
        else
          let e := if h : ix < 256 then pl.entries[ix] else 0
          s1.modTile t fun y => y.streamPut n ((List.range (kindParts pl.kind)).map fun p => entryPart pl.kind e p) 0
      else
        let put (s : State) (r : Nat × Num.Flags) : State :=
          s.modTile t fun y => y.streamPut n [if n.val < 4 then r.1 else scalarPlace (dDst d) r.1] r.2
        if dScale d then
          let sb := if dSrc d = 9 then 1 else 4
          match s1.streamBytes t n (dSp d) false (dScaleBase d + BitVec.ofNat 64 (j / 32 * sb)) sb with
          | .sent s' => s'
          | .hold => s
          | .bad c => fault c va
          | .val s2 b => put s2 (cvtElem (dSrc d) (dDst d) (dRm d) (dSat d) true false (BitVec.ofNat 64 b) bits)
        else if dCvt d then put s1 (cvtElem (dSrc d) (dDst d) (dRm d) (dSat d) false false 0 bits)
        else put s1 (bits, 0)

/-- STREAM_ELEMENT: an ACTIVE stream takes its next element, into an entry that it has reserved. -/
def execStreamElement (t : TileNo) (n : BitVec 3) (s : State) : Out :=
  .next (
    let i : Fin 8 := ⟨n.toNat, n.isLt⟩
    let x := s.tile t
    let st := x.ld.stream[i]
    if st.phase != .active || st.clearing || !x.streamOrdered st then s
    else match x.streamReserve i with
      | none => s
      | some x' => (s.setTile t x').streamNext t i)

end Sys2Proof.Machine
end

