-- ==== Sys2Proof/Machine/Remote.lean ====
section
/-!
DEFINITION. The remote request (19_remote.md R410-R424, 18_link.md R403): acceptance, departure, service at the target, replies,
timeouts and reissue, the reply cache, and the Bellows.
-/
namespace Sys2Proof.Machine
open Sys2Proof

/-! ## Pair entries (R411, R412) -/

/-- The pair entry of a die for a destination; one that is not loaded acts as an entry with every slot, no port and no round trip
(DESIGN CHOICE, log entry 14). -/
def State.pair (s : State) (src : Nat) (pkg : BitVec 6) (die : BitVec 3) : PairEntry :=
  (s.remote.pairs.find? fun e => e.src == src && e.pkg == pkg && e.die == die).getD
    { src := src, pkg := pkg, die := die, ports := [], smask := BitVec.allOnes 64, rtt := 0, last := 0 }

/-- Store a pair entry. -/
def State.setPair (s : State) (e : PairEntry) : State :=
  let rest := s.remote.pairs.filter fun x => !(x.src == e.src && x.pkg == e.pkg && x.die == e.die)
  { s with remote := { s.remote with pairs := e :: rest } }

/-- The promised bound B (R412). -/
def PairEntry.bound (e : PairEntry) : Nat :=
  let n := max 1 (popc e.smask)
  64 * ((8 + n - 1) / n) + e.rtt

/-- A port carries traffic (R403). -/
def State.carries (s : State) (n : Nat) : Bool :=
  if h : n < 16 then s.ports[n].phase == .active || s.ports[n].phase == .degraded else false

/-- FC in which a port lost its traffic. -/
def State.lostAt (s : State) (n : Nat) : W64 := if h : n < 16 then s.ports[n].lostAt else 0

/-- Ten milliseconds, in FC (R13). -/
def tenMs : Nat := 12500000

/-! ## The list of requests -/

def State.req (s : State) (r : Nat) : Option Request := s.remote.reqs.find? fun q => q.id == r

def State.modReq (s : State) (r : Nat) (f : Request → Request) : State :=
  { s with remote := { s.remote with reqs := s.remote.reqs.map fun q => if q.id == r then f q else q } }

/-- A request reaches DONE or FAILED: it leaves, and its TAG rests (R418). -/
def State.endReq (s : State) (q : Request) : State :=
  let r := s.remote
  { s with remote := { r with
      reqs := r.reqs.filter fun x => x.id != q.id
      retired := if q.phase == ReqPhase.held || q.owner == ReqOwner.other then r.retired else (q.sdie, q.tag, s.fcc) :: r.retired } }

/-- Entries that a request takes in an interface queue. -/
def Request.weight (q : Request) : Nat := match q.kind with | .aggregate => 2 | _ => 1

/-- The strand a request belongs to. -/
def ReqOwner.strand : ReqOwner → Option (TileNo × Strand)
  | .loadPiece t _ _ => some (t, .load)
  | .stream t _ => some (t, .load)
  | .barw t => some (t, .load)
  | .storePiece t _ _ => some (t, .store)
  | _ => none

/-- Requests of one source die to one destination. -/
def Request.samePair (a b : Request) : Bool := a.sdie == b.sdie && a.pkg == b.pkg && a.die == b.die

/-- A TAG of a die that no request uses and that has rested 20 µs (25,000 FC). -/
def State.freeTag (s : State) (d : Nat) : Option (BitVec 16) :=
  let r := s.remote
  let t := if h : d < 5 then r.nextTag[d] else 0
  let busy := (r.reqs.any fun q => q.sdie == d && q.owner != ReqOwner.other && q.phase != ReqPhase.held && q.tag == t)
    || r.retired.any fun x => x.1 == d && x.2.1 == t && decide ((s.fcc - x.2.2).toNat < 25000)
  if busy then none else some t

/-- A TAG is taken: the next one is tried next, and rests that are over are forgotten. -/
def State.takeTag (s : State) (d : Nat) : State :=
  let r := s.remote
  let next := if h : d < 5 then r.nextTag.set d (r.nextTag[d] + 1) else r.nextTag
  { s with remote := { r with nextTag := next, retired := r.retired.filter fun x => decide ((s.fcc - x.2.2).toNat < 25000) } }

/-! ## Acceptance and departure (R411, R413) -/

/-- Whether a HELD request can be accepted now: room, ports, and its strand's earlier requests accepted before. -/
def State.acceptable (s : State) (q : Request) : Bool :=
  let used := (s.remote.reqs.filter fun x => x.phase == ReqPhase.queued && x.samePair q).foldl (fun n x => n + x.weight) 0
  let first := !(s.remote.reqs.any fun x =>
    x.phase == ReqPhase.held && decide (x.id < q.id) && x.owner.strand == q.owner.strand && x.owner.strand.isSome)
  q.phase == ReqPhase.held && decide (used + q.weight ≤ 8) && (s.pair q.sdie q.pkg q.die).ports.all s.carries && first
    && (s.freeTag q.sdie).isSome

/-- The packet of an aggregation buffer, whose acceptance is AGG_PACKET_ACCEPT. -/
def Request.ofBuffer (q : Request) : Bool := match q.owner with | .buffer _ _ => true | _ => false

/-- REQUEST_ACCEPT. -/
def execRequestAccept (r : Nat) (s : State) : Out :=
  .next (
    match s.req r with
    | none => s
    | some q =>
      if s.acceptable q && !q.ofBuffer then
        let tag := (s.freeTag q.sdie).getD 0
        (s.modReq r fun x => { x with phase := .queued, tag := tag, since := s.fcc }).takeTag q.sdie
      else s)

/-- The next slot of a mask after an FC, within one frame. -/
def nextSlot (m : W64) (f : W64) : W64 :=
  match (List.range 64).find? fun i => m.getLsbD ((f.toNat + 1 + i) % 64) with
  | some i => f + 1 + BitVec.ofNat 64 i
  | none => f + 64

/-! ## Messages of the dynamic plane (R410) -/

/-- A header of Table 19-1. -/
def dynHeader (dpkg ddie spkg sdie vc kind tag fidx stat aux : Nat) : W64 :=
  BitVec.ofNat 64 (packFields [(16, aux), (6, stat), (2, fidx), (16, tag), (4, kind), (2, vc), (3, sdie), (6, spkg), (3, ddie), (6, dpkg)])

/-- Flits of a message by its KIND. -/
def dynFlits (kind : Nat) : Nat := if kind = 4 then 4 else 2

/-- KIND, operation field and operands of a request. -/
def Request.parts (q : Request) : Nat × Nat × W64 × W64 :=
  match q.kind with
  | .load => (1, 0, 0, 0)
  | .store => (2, 0, 0, 0)
  | .atomic a => (3, a.op.toNat, if a.op == 11 then a.compare else a.operand, if a.op == 11 then a.operand else 0)
  | .aggregate => (4, (q.op.map fun o => o.toNat).getD 15, 0, 0)
  | .arm v => (5, 0, v, 0)
  | .post n b => (5, 1, BitVec.ofNat 64 (n.toNat + 2 ^ 32 * b.toNat), 0)

/-- Whether a request is of 64 bits. -/
def Request.isWide (q : Request) : Bool :=
  match q.kind with
  | .atomic a => a.wide
  | .aggregate => q.wide
  | _ => false

/-- The flits of a request's message. -/
def Request.flits (q : Request) : List (W64 × BitVec 512) :=
  let (kind, op, x, y) := q.parts
  let p0 : BitVec 512 := BitVec.ofNat 512
    (packFields [(52, q.pa), (6, q.ctx.toNat), (1, q.cmp.toNat), (5, 0), (8, q.len - 1), (4, op), (1, q.isWide.toNat), (51, 0), (64, x.toNat),
      (64, y.toNat)])
  let tail : Nat := match q.kind with
    | .store => q.data.toNat
    | .aggregate => (Config.aggPayload (q.elems.map fun e => (e.pa, e.value))).toNat
    | _ => 0
  let aux := match q.kind with | .aggregate => q.elems.length | _ => 0
  (List.range (dynFlits kind)).map fun i =>
    (dynHeader q.pkg.toNat q.die.toNat q.spkg.toNat q.sdie 1 kind q.tag.toNat i 0 aux,
      if i = 0 then p0 else BitVec.ofNat 512 (tail / 2 ^ (512 * (i - 1))))

/-- The flits of a message back to a requester in another package: KIND 12 is WAIT. -/
def Request.replyFlits (q : Request) (wait : Bool) (rep : Reply) : List (W64 × BitVec 512) :=
  let kind := if wait then 12 else match q.kind with
    | .load => 8
    | .atomic _ => 10
    | .aggregate => 11
    | _ => 9
  (List.range 2).map fun i =>
    (dynHeader q.spkg.toNat q.sdie q.pkg.toNat q.die.toNat 2 kind q.tag.toNat i rep.stat.toNat rep.aux.toNat,
      rep.data.extractLsb' (512 * i) 512)

/-- Flits for another package, on a virtual channel, wait for rows of the first port of their path. -/
def State.sendFlits (s : State) (src : Nat) (pkg : BitVec 6) (die : BitVec 3) (vc : Nat) (fs : List (W64 × BitVec 512)) : State :=
  match (s.pair src pkg die).ports with
  | [] => s
  | n :: _ => { s with remote := { s.remote with outflits := s.remote.outflits ++ fs.map fun f => (n, vc, f.1, f.2) } }

/-- REQUEST_DEPART: the first queued request of a pair departs in a slot of its SMASK that is not taken; an aggregated packet takes
the next slot as well.  Its message goes out on a port when its home is in another package (R410). -/
def execRequestDepart (r : Nat) (s : State) : Out :=
  .next (
    match s.req r with
    | none => s
    | some q =>
      let e := s.pair q.sdie q.pkg q.die
      let first := !(s.remote.reqs.any fun x => x.phase == ReqPhase.queued && x.samePair q
        && (decide (x.since.toNat < q.since.toNat) || (x.since == q.since && decide (x.id < q.id))))
      if q.phase == ReqPhase.queued && first && e.smask.getLsbD (s.fcc.toNat % 64) && e.last.ult s.fcc then
        let last := match q.kind with | .aggregate => nextSlot e.smask s.fcc | _ => s.fcc
        let s := (s.modReq r fun x => { x with phase := .sent, departed := last }).setPair { e with last := last }
        if q.pkg == s.pkg then s else s.sendFlits q.sdie q.pkg q.die 1 q.flits
      else s)

/-! ## Service at the target (R414, R418, R422) -/

def replyOk (data : Nat) : Reply := { stat := 0, aux := 0, data := BitVec.ofNat 1024 data }

/-- Perform the elements of an aggregated packet in order: a failed element is not performed and the others are; none is when one
must wait. -/
def State.aggPerform (s : State) (q : Request) : Nat → List AggElement → Nat → Nat → Fate (State × Reply)
  | _, [], bits, causes => .ok (s, { stat := 0, aux := BitVec.ofNat 16 bits, data := BitVec.ofNat 1024 causes })
  | i, e :: rest, bits, causes =>
    let n := if q.wide then 8 else 4
    let op : HomeOp := match q.op with
      | some o => .atomic { op := o, wide := q.wide, operand := e.value, compare := 0 }
      | none => .write n e.value.toNat
    match s.homeOp q.ctx q.pkg q.die (q.pa + e.pa.toNat) op with
    | .hold => .hold
    | .ok (s', _) => s'.aggPerform q (i + 1) rest bits causes
    | .refuse c => s.aggPerform q (i + 1) rest (bits + 2 ^ i) (causes + c * 2 ^ (8 * i))

/-- Perform a request at its point of coherence. -/
def State.serve (s : State) (q : Request) : Fate (State × Reply) :=
  let one (op : HomeOp) : Fate (State × Reply) :=
    match s.homeOp q.ctx q.pkg q.die q.pa op with
    | .ok (s', m) => .ok (s', replyOk m)
    | .hold => .hold
    | .refuse c => .ok (s, { stat := BitVec.ofNat 6 c, aux := 0, data := 0 })
  let g : Phys := physAt q.pkg q.die q.pa
  if q.cmp then
    -- a requester that reads or writes a COMPRESSED frame decoded (R362, R367)
    if !s.frameCmp q.pkg q.die q.pa then .ok (s, { stat := BitVec.ofNat 6 cRemoteUnreachable, aux := 0, data := 0 })
    else if s.frameHeld g then .hold
    else match q.kind with
      | .load =>
        .ok (s, replyOk (ofBytes ((List.range q.len).map fun i => s.rdC q.ctx { g with pa := g.pa + BitVec.ofNat 52 i })))
      | .store =>
        .ok ((List.range q.len).foldl (fun (s : State) i =>
          s.wrC q.ctx { g with pa := g.pa + BitVec.ofNat 52 i } (q.data.extractLsb' (8 * i) 8)) s, replyOk 0)
      | _ => .ok (s, { stat := BitVec.ofNat 6 cCompressed, aux := 0, data := 0 })
  else
  match q.kind with
  | .load => one (.read q.len)
  | .store => one (.write q.len q.data.toNat)
  | .atomic a => one (.atomic a)
  | .arm v => one (.arm v)
  | .post n b => one (.post n.toNat b.toNat)
  | .aggregate => s.aggPerform q 0 q.elems 0 0

/-- Kinds performed exactly once through the reply cache. -/
def ReqKind.once : ReqKind → Bool
  | .load => false
  | .store => false
  | _ => true

/-- The reply cache of a home of this package: entries and age limit (R418). -/
def cacheSize : Nat := 4096

/-- Fabric cycles that an entry is kept after its reply was last sent: 16 µs. -/
def cacheAge : Nat := 20000

/-- The stored reply of a key that is present: an entry older than 16 µs is there no more, so that a TAG used again after 20 µs is a new
request (DEDUCED, log entry 81). -/
def State.cached (s : State) (q : Request) : Option CachedReply :=
  if h : q.die.toNat < 5 then
    s.remote.cache[q.die.toNat].find? fun e =>
      e.spkg == q.spkg && e.sdie == q.sdie && e.tag == q.tag && decide ((s.fcc - e.sentAt).toNat < cacheAge)
  else none

/-- The cache has an entry to give: free, or older than 16 µs (20,000 FC). -/
def State.cacheRoom (s : State) (d : Nat) : Bool :=
  if h : d < 5 then
    let l := s.remote.cache[d]
    decide (l.length < cacheSize) || l.any fun e => decide (cacheAge ≤ (s.fcc - e.sentAt).toNat)
  else true

/-- Keep a reply; the oldest entry makes room. -/
def State.keepReply (s : State) (q : Request) (r : Reply) : State :=
  if h : q.die.toNat < 5 then
    let l := s.remote.cache[q.die.toNat].filter fun e => !(e.spkg == q.spkg && e.sdie == q.sdie && e.tag == q.tag)
    let l := if cacheSize ≤ l.length then l.dropLast else l
    let e : CachedReply := { spkg := q.spkg, sdie := q.sdie, tag := q.tag, reply := r, sentAt := s.fcc }
    { s with remote := { s.remote with cache := s.remote.cache.set q.die.toNat (e :: l) } }
  else s

/-- The target answers WAIT: the timeout starts again (R414). -/
def Request.wait (q : Request) (now : W64) : Request :=
  { q with phase := .waiting, waited := if q.phase == ReqPhase.waiting then q.waited + (now - q.since).toNat else q.waited, since := now }

/-- The target holds a request: its requester learns it by WAIT, one of another package by a message. -/
def State.waitFor (s : State) (q : Request) : State :=
  let s' := s.modReq q.id (·.wait s.fcc)
  if q.owner == ReqOwner.other && q.phase == ReqPhase.sent then
    s'.sendFlits q.die.toNat q.spkg (BitVec.ofNat 3 q.sdie) 2 (q.replyFlits true { stat := 0, aux := 0, data := 0 })
  else s'

/-- A request of an agent of this package has been performed: the line it read enters the L2 of its die, and what it wrote meets that die's
copy (R181, R182, R241).  The copy changes at the point of coherence, so it is replaced only with a newer one (DESIGN CHOICE, log entry
79). -/
def State.meetServed (s : State) (q : Request) (rep : Reply) : State :=
  if q.spkg != s.pkg || rep.stat != 0 then s
  else
    let key := homeKey q.pkg q.die q.pa / 128
    match q.kind with
    | .load => if q.fill then s.putCopy q.sdie key rep.data else s
    | .store => s.patchCopy q.sdie key (q.pa % 128) q.len q.data.toNat
    | .aggregate => s
    | _ => s.dropCopies q.sdie (· == key)

/-- TARGET_SERVICE: the target performs a request that has reached it, or sends WAIT.  A reissued request of the kinds performed
once receives its stored reply. -/
def execTargetService (r : Nat) (s : State) : Out :=
  .next (
    match s.req r with
    | none => s
    | some q =>
      if !(q.phase == ReqPhase.sent || q.phase == ReqPhase.waiting) || q.reply.isSome then s
      else
        let here := q.pkg == s.pkg && q.kind.once
        match if here then s.cached q else none with
        | some e => (s.modReq r fun x => { x with reply := some e.reply }).keepReply q e.reply
        | none =>
          if here && !s.cacheRoom q.die.toNat then s.waitFor q
          else match s.serve q with
            | .ok (s', rep) =>
              let s' := (s'.modReq r fun x => { x with reply := some rep }).meetServed q rep
              if here then s'.keepReply q rep else s'
            | _ => s.waitFor q)

/-! ## Replies (R416, R419) -/

/-- A piece of a load has come. -/
def State.loadReply (s : State) (t : TileNo) (seq piece : Nat) (q : Request) (rep : Reply) : State :=
  match (s.tile t).ld.pending.find? fun l => l.seq == seq with
  | none => s.endReq q
  | some l =>
    match l.pieces[piece]? with
    | none => s.endReq q
    | some p =>
      if rep.stat != 0 then
        if (s.tile t).canReport .load then (s.endReq q).failLoad t l rep.stat.toNat p.va else s
      else
        let v := match l.kind, p.loc with
          | .atomic _, _ => rep.data.toNat
          | _, .glob g => fld rep.data.toNat (8 * (g.pa.toNat % 128)) (8 * p.len)
          | _, .spad _ => 0
        (s.endReq q).modTile t fun x => { x with ld := { x.ld with pending := x.ld.pending.map fun y =>
          if y.seq == seq then { y with data := putBytes y.data p.pos p.len v, waits := y.waits.filter fun w => w != q.id } else y } }

/-- A piece of a store has been performed, or failed. -/
def State.storeReply (s : State) (t : TileNo) (seq piece : Nat) (q : Request) (rep : Reply) : State :=
  match (s.tile t).st.pending.find? fun l => l.seq == seq with
  | none => s.endReq q
  | some l =>
    let va := match l.pieces[piece]? with | some p => p.va | none => l.va
    if rep.stat != 0 && !(s.tile t).canReport .store then s
    else
      let s := (s.endReq q).modTile t fun x =>
        let ws := l.waits.filter fun w => w != q.id
        if ws.isEmpty then x.dropStore seq
        else { x with st := { x.st with pending := x.st.pending.map fun y => if y.seq == seq then { y with waits := ws } else y } }
      if rep.stat = 0 then s
      else
        let s := match (l.pieces[piece]?).map fun p => p.loc with
          | some (.glob g) => s.dropCopies (dieOf t) (· == g.line)
          | _ => s
        s.deferred t .store rep.stat.toNat l.pc va

/-- A line has come for a stream. -/
def State.streamReply (s : State) (t : TileNo) (n : Fin 8) (q : Request) (rep : Reply) : State :=
  let x := s.tile t
  let st := x.ld.stream[n]
  if !st.waits.contains q.id then s.endReq q
  else if rep.stat != 0 then
    if x.canReport .load then (s.endReq q).streamHalt t n rep.stat.toNat true (elemAddr st.desc st.base st.next).1 else s
  else
    (s.endReq q).modTile t fun x =>
      x.setStream (BitVec.ofNat 3 n.val)
        { st with waits := [], got := (homeKey q.pkg q.die q.pa / 128, rep.data) :: st.got }

/-- A word has come for a barw. -/
def State.barwReply (s : State) (t : TileNo) (q : Request) (rep : Reply) : State :=
  match (s.tile t).ld.hold with
  | some (.barw g va pc) =>
    if rep.stat != 0 then
      if (s.tile t).canReport .load then
        ((s.endReq q).modTile t fun y => { y with ld := { y.ld with hold := none } }).deferred t .load rep.stat.toNat pc va
      else s
    else (s.endReq q).modTile t (·.barwSees (BitVec.ofNat 128 (fld rep.data.toNat (8 * (g.pa.toNat % 128)) 128)))
  | _ => s.endReq q

/-! ## The remote-fault log (R423) -/

/-- Write one record of a context's remote-fault log; a record that cannot be written is dropped and counted.  None while its line is held
at its home: the status then waits (R250, R423). -/
def State.rflWrite (s : State) (c : BitVec 6) (w : Vector W64 4) : Option State :=
  let l := s.remote.rfl[c.toNat]
  let put (l : FaultLog) (s : State) : State := { s with remote := { s.remote with rfl := s.remote.rfl.set c.toNat l } }
  let drop := put { l with lost := l.lost + 1 } s
  let n := l.log2n.toNat
  if n < 7 || 20 < n || decide (2 ^ n ≤ (l.wp - l.rp).toNat) then some drop
  else
    let va := l.base + BitVec.ofNat 64 (32 * (l.wp.toNat % 2 ^ n))
    match s.translate c va .write false with
    | .error _ => some drop
    | .ok p =>
      if !(p.mode == modeLocal || p.mode == modeDirect) || p.bar then some drop
      else
        match s.homeOp c p.pkg p.die p.pa.toNat (.write 32 (packList 64 (w.toList.map fun x => x.toNat))) with
        | .ok (s', _) => some (put { l with wp := l.wp + 1 } s')
        | .hold => none
        | .refuse _ => some drop

/-- The record of the failed element `i` of a packet (Table 19-4). -/
def State.aggRecord (s : State) (k : AggKey) (e : AggElement) (cause : Nat) : Option State :=
  let l := s.remote.rfl[k.ctx.toNat]
  let op := match k.op with | some o => o.toNat | none => 15
  let w0 := (l.wp.toNat % 2 ^ 32) * 2 ^ 32 + cause * 2 ^ 24 + op * 2 ^ 20 + k.wide.toNat * 2 ^ 19 + 3 * 2 ^ 16 + e.tile.val
  let pa := k.window * 65536 + e.pa.toNat
  s.rflWrite k.ctx #v[BitVec.ofNat 64 w0, BitVec.ofNat 64 ((k.pkg.toNat * 8 + k.die.toNat) * 2 ^ 52 + pa),
    (if k.wide then e.value else zext64 (lo32 e.value)), s.fcc]

/-- The records of the failed elements of a packet, then one fault record with their number (R423); none while a record must wait. -/
def State.aggFailed (s : State) (k : AggKey) (es : List AggElement) (failed : BitVec 16) (causes : BitVec 128) : Option State :=
  let bad := (List.range es.length).filter fun i => failed.getLsbD i
  let s := bad.foldl (fun (o : Option State) i => o.bind fun s =>
    match es[i]? with
    | none => some s
    | some e => s.aggRecord k e (causes.extractLsb' (8 * i) 8).toNat) (some s)
  if bad.isEmpty then s
  else s.map fun s =>
    s.makeRecord k.ctx (BitVec.ofNat 64 cAggElement) 3 false false true 0 0 0 ((es.head?.map fun e => e.tile.val).getD 0)
      (BitVec.ofNat 64 bad.length)

/-! ## The Bellows (R420-R422) -/

def satInc (x : BitVec w) : BitVec w := if x == BitVec.allOnes w then x else x + 1

/-- The first buffer of a kind. -/
def Bellows.find (b : Bellows) (f : AggBuffer → Bool) : Option (Fin 64) := (List.finRange 64).find? fun i => f b.bufs[i]

/-- An element joins the OPEN buffer of its key, or opens a FREE one; a full buffer leaves. -/
def Bellows.enter (b : Bellows) (now : W64) (k : AggKey) (e : AggElement) : Option Bellows :=
  match b.find fun x => x.phase == BufPhase.open_ && x.key == k && decide (x.elems.length < 16) with
  | some i =>
    let x := b.bufs[i]
    let x := { x with elems := x.elems ++ [e] }
    some { b with bufs := b.bufs.set i (if 16 ≤ x.elems.length then { x with phase := .leaving } else x) }
  | none =>
    match b.find fun x => x.phase == BufPhase.free with
    | some i => some { b with bufs := b.bufs.set i { phase := .open_, key := k, elems := [e], first := now } }
    | none => none

/-- The waiting elements enter in order, as far as buffers allow. -/
def Bellows.drain (b : Bellows) (now : W64) : List (AggKey × AggElement) → Bellows
  | [] => { b with waiting := [] }
  | (k, e) :: rest =>
    match b.enter now k e with
    | some b' => b'.drain now rest
    | none => { b with waiting := (k, e) :: rest }

/-- The OPEN buffer whose first element is oldest, the lowest-numbered among equals. -/
def Bellows.oldest (b : Bellows) : Option (Fin 64) :=
  (List.finRange 64).foldl (fun acc i =>
    if b.bufs[i].phase == BufPhase.open_ then
      match acc with
      | some j => if b.bufs[i].first.ult b.bufs[j].first then some i else acc
      | none => some i
    else acc) none

/-- One arriving element. -/
def State.aggArrive (s : State) (d : Fin 4) (k : AggKey) (e : AggElement) : State :=
  let b := s.bellows d
  let joins := (b.find fun x => x.phase == BufPhase.open_ && x.key == k && decide (x.elems.length < 16)).isSome
  match if joins || b.waiting.isEmpty then b.enter s.fcc k e else none with
  | some b' => s.setBellows d b'
  | none =>
    let wait (b : Bellows) : Bellows := { b with waiting := b.waiting ++ [(k, e)] }
    match if (b.find fun x => x.phase == BufPhase.free).isSome then none else b.oldest with
    | none => s.setBellows d (wait b)
    | some i =>
      let b := { b with bufs := b.bufs.set i { b.bufs[i] with phase := .leaving }, evictions := satInc b.evictions }
      (s.setBellows d (wait b)).modTile e.tile fun x => { x with st := { x.st with aggWait := some (BitVec.ofNat 6 i.val) } }

/-- The triggers that store strands have raised are judged: their buffers leave; one whose elements still wait stays raised. -/
def Bellows.judge (b : Bellows) : Bellows :=
  { b with
    bufs := b.bufs.map fun x =>
      if x.phase == BufPhase.open_ && (b.flush.any fun e => x.has e.1 e.2) then { x with phase := .leaving } else x
    flush := b.flush.filter fun e => b.waiting.any fun w => w.2.of e.1 e.2 }

/-- AGG_ELEMENT_ENTER: waiting elements enter as buffers become FREE; the elements arriving in this FC enter in increasing tile
number; then the triggers of store strands are judged (R421). -/
def execAggElementEnter (d : BitVec 2) (s : State) : Out :=
  .next (
    let i : Fin 4 := ⟨d.toNat, d.isLt⟩
    let b := s.bellows i
    let b := b.drain s.fcc b.waiting
    let now := b.arriving
    let s := s.setBellows i { b with arriving := [] }
    let s := (List.range 160).foldl (fun s n =>
      (now.filter fun e => e.2.tile.val == 160 * i.val + n).foldl (fun s e => s.aggArrive i e.1 e.2) s) s
    s.setBellows i (s.bellows i).judge)

/-- AGG_AGE_EXPIRY: an OPEN buffer whose first element is AGE old leaves. -/
def execAggAgeExpiry (d : BitVec 2) (n : BitVec 6) (s : State) : Out :=
  .next (
    let i : Fin 4 := ⟨d.toNat, d.isLt⟩
    let b := s.bellows i
    let x := b.bufs[n.toNat]
    if x.phase == BufPhase.open_ && decide (b.age ≤ (s.fcc - x.first).toNat) then
      s.setBellows i { b with bufs := b.bufs.set n.toNat { x with phase := .leaving } }
    else s)

/-- The request of a buffer's packet: made HELD when the buffer first offers it. -/
def State.bufReq (s : State) (d : BitVec 2) (n : BitVec 6) : Option Request :=
  s.remote.reqs.find? fun q => q.owner == .buffer d n

/-- AGG_PACKET_ACCEPT: the packet of a LEAVING buffer is offered to its interface; accepted, the buffer is SENT. -/
def execAggPacketAccept (d : BitVec 2) (n : BitVec 6) (s : State) : Out :=
  .next (
    let i : Fin 4 := ⟨d.toNat, d.isLt⟩
    let x := (s.bellows i).bufs[n.toNat]
    if x.phase != BufPhase.leaving then s
    else
      let s := if (s.bufReq d n).isSome then s else
        let g := physAt x.key.pkg x.key.die (x.key.window * 65536)
        let r := s.ask .aggregate (.buffer d n) x.key.ctx i.val g 0 0
        r.1.modReq r.2 fun q => { q with elems := x.elems, op := x.key.op, wide := x.key.wide }
      match s.bufReq d n with
      | none => s
      | some q =>
        if !s.acceptable q then s
        else
          let s := (s.modReq q.id fun y => { y with phase := .queued, tag := (s.freeTag q.sdie).getD 0, since := s.fcc }).takeTag q.sdie
          let b := s.bellows i
          let s := s.setBellows i { b with bufs := b.bufs.set n.toNat { x with phase := .sent }, packets := satInc b.packets }
          s.mapTiles fun t y =>
            if dieOf t == i.val && y.st.aggWait == some n then { y with st := { y.st with aggWait := none } } else y)

/-- The status of a buffer's packet has come: failures are logged, and the buffer is FREE.  While a log record must wait, so does the
status. -/
def State.aggStatus (s : State) (d : BitVec 2) (n : BitVec 6) (failed : BitVec 16) (causes : BitVec 128) : State :=
  let i : Fin 4 := ⟨d.toNat, d.isLt⟩
  let x := (s.bellows i).bufs[n.toNat]
  match s.aggFailed x.key x.elems failed causes with
  | none =>
    match s.bufReq d n with
    | some q => s.modReq q.id fun y => { y with reply := some { stat := 0, aux := failed, data := causes.setWidth 1024 } }
    | none => s
  | some s =>
    let s := match s.bufReq d n with | some q => s.endReq q | none => s
    let b := s.bellows i
    let s := s.setBellows i { b with bufs := b.bufs.set n.toNat { x with phase := .free, elems := [] } }
    s.mapTiles fun t y => if dieOf t == i.val && y.st.aggWait == some n then { y with st := { y.st with aggWait := none } } else y

/-- AGG_STATUS_ARRIVE: the target's own status where it served the packet, else what the surroundings give. -/
def execAggStatusArrive (d : BitVec 2) (n : BitVec 6) (failed : BitVec 16) (causes : BitVec 128) (s : State) : Out :=
  .next (
    let i : Fin 4 := ⟨d.toNat, d.isLt⟩
    if (s.bellows i).bufs[n.toNat].phase != BufPhase.sent then s
    else match (s.bufReq d n).bind fun q => q.reply with
      | some r => s.aggStatus d n r.aux (r.data.setWidth 128)
      | none => s.aggStatus d n failed causes)

/-! ## Completion and timeouts -/

/-- A reply reaches the owner of a request. -/
def State.deliverReply (s : State) (q : Request) (rep : Reply) : State :=
  match q.owner with
  | .loadPiece t seq i => s.loadReply t seq i q rep
  | .storePiece t seq i => s.storeReply t seq i q rep
  | .stream t n => s.streamReply t n q rep
  | .barw t => s.barwReply t q rep
  | .buffer d n => s.aggStatus d n rep.aux (rep.data.setWidth 128)
  | .prefetch => s.endReq q
  | .other => (s.endReq q).sendFlits q.die.toNat q.spkg (BitVec.ofNat 3 q.sdie) 2 (q.replyFlits false rep)

/-- A reply has come for a request: the target's own where it served it, else the one given; KIND 12 is WAIT. -/
def State.takeReply (s : State) (q : Request) (kind : BitVec 4) (stat : BitVec 6) (aux : BitVec 16) (data : BitVec 1024) : State :=
  if !(q.phase == ReqPhase.sent || q.phase == ReqPhase.waiting) then s
  else match q.reply with
    | some rep => s.deliverReply q rep
    | none => if kind == 12 then s.modReq q.id (·.wait s.fcc) else s.deliverReply q { stat := stat, aux := aux, data := data }

/-- REPLY_ARRIVE: the reply that the target made, or the one the surroundings give, reaches the requester. -/
def execReplyArrive (r : Nat) (kind : BitVec 4) (stat : BitVec 6) (aux : BitVec 16) (data : BitVec 1024) (s : State) : Out :=
  .next (
    match s.req r with
    | none => s
    | some q => s.takeReply q kind stat aux data)

/-! ## Messages of other packages -/

/-- The kind of a request from its KIND, operation field and operands. -/
def reqKindOf (kind op : Nat) (wide : Bool) (x y : W64) : ReqKind :=
  match kind with
  | 1 => .load
  | 2 => .store
  | 3 => .atomic { op := BitVec.ofNat 4 op, wide := wide, operand := if op = 11 then y else x, compare := if op = 11 then x else 0 }
  | 4 => .aggregate
  | _ => if op = 0 then .arm x else .post (x.setWidth 16) (x.extractLsb' 32 32)

/-- A request of another package, read from the flits of its message; one that the target holds already is not taken twice. -/
def State.peerRequest (s : State) (h : W64) (p0 : BitVec 512) (tail : BitVec 1536) : State :=
  let f := fun lo n => fld p0.toNat lo n
  let r := s.remote
  let kind := fld h.toNat 40 4
  let wide := f 76 1 == 1
  let spkg := BitVec.ofNat 6 (fld h.toNat 49 6)
  let sdie := fld h.toNat 46 3
  let tag := BitVec.ofNat 16 (fld h.toNat 24 16)
  let count := if kind = 4 then fld h.toNat 0 16 else 0
  let q : Request :=
    { id := r.nextId, phase := .sent, kind := reqKindOf kind (f 72 4) wide (w64 (f 128 64)) (w64 (f 192 64)), owner := .other
      ctx := BitVec.ofNat 6 (f 52 6), cmp := f 58 1 == 1, spkg := spkg, sdie := sdie, pkg := s.pkg
      die := BitVec.ofNat 3 (fld h.toNat 55 3), pa := f 0 52, len := f 64 8 + 1, data := tail.setWidth 1024
      elems := (Config.readAggPayload tail count).map fun e => { pa := e.1, value := e.2, tile := 0, launch := 0 }
      op := if f 72 4 < 10 then some (BitVec.ofNat 4 (f 72 4)) else none, wide := wide, tag := tag, reiss := 0
      since := s.fcc, departed := s.fcc, waited := 0, reply := none }
  if r.reqs.any fun x => x.owner == ReqOwner.other && x.spkg == spkg && x.sdie == sdie && x.tag == tag then s
  else { s with remote := { r with reqs := r.reqs ++ [q], nextId := r.nextId + 1 } }

/-- Every die drops its copies of the lines of a home of another package (R383), and the acknowledgement goes back.  The message's range is
taken as the whole home (DESIGN CHOICE, log entry 82). -/
def State.peerInvalidate (s : State) (h : W64) : State :=
  let f := fun lo n => fld h.toNat lo n
  let home := f 49 6 * 8 + f 46 3
  let s := (List.range 4).foldl (fun (s : State) d => s.dropCopies d fun key => key / 2 ^ 45 == home) s
  let ack := (List.range 2).map fun i => (dynHeader (f 49 6) (f 46 3) s.pkg.toNat (f 55 3) 3 14 (f 24 16) i 0 0, (0 : BitVec 512))
  s.sendFlits (f 55 3) (BitVec.ofNat 6 (f 49 6)) (BitVec.ofNat 3 (f 46 3)) 3 ack

/-- Send the invalidate of a reject of context `c` to dies of other packages, from the hub; its first operand is the range's first address and
its second the size (R383, R426; DESIGN CHOICE, log entry 82). -/
def State.sendInvalidates (s : State) (c : BitVec 6) (start size : Nat) (dies : List (BitVec 6 × BitVec 3)) : State :=
  let p0 : BitVec 512 := BitVec.ofNat 512 (packFields [(52, start), (6, c.toNat), (6, 0), (64, 0), (64, start), (64, size)])
  dies.foldl (fun (s : State) d =>
    s.sendFlits 4 d.1 d.2 3 ((List.range 2).map fun i =>
      (dynHeader d.1.toNat d.2.toNat s.pkg.toNat 4 3 13 c.toNat i 0 0, if i = 0 then p0 else 0))) s

/-- A die of another package acknowledges the invalidate of the reject that its TAG names. -/
def State.peerAck (s : State) (h : W64) : State :=
  let from_ := (BitVec.ofNat 6 (fld h.toNat 49 6), BitVec.ofNat 3 (fld h.toNat 46 3))
  let mine (o : SnapOp) : Bool := o.ctx.toNat == fld h.toNat 24 16 && o.rejecting.isSome
  { s with snapOps := s.snapOps.map fun (o : SnapOp) => if mine o then { o with unacked := o.unacked.filter (· != from_) } else o }

/-- A whole message of the dynamic plane has come from another package: a request, which the target then serves; a reply; or an
invalidate. -/
def State.peerMessage (s : State) (h : W64) (p : Nat → BitVec 512) : State :=
  let kind := fld h.toNat 40 4
  if kind = 13 then s.peerInvalidate h
  else if kind = 14 then s.peerAck h
  else if 1 ≤ kind && kind ≤ 5 then s.peerRequest h (p 0) (p 3 ++ p 2 ++ p 1)
  else if 8 ≤ kind && kind ≤ 12 then
    match s.remote.reqs.find? fun q =>
        q.owner != ReqOwner.other && q.sdie == fld h.toNat 55 3 && q.tag.toNat == fld h.toNat 24 16 && q.phase != ReqPhase.held
          && q.pkg.toNat == fld h.toNat 49 6 && q.die.toNat == fld h.toNat 46 3 with
    | some q => s.takeReply q (BitVec.ofNat 4 kind) (BitVec.ofNat 6 (fld h.toNat 16 6)) (h.setWidth 16) (p 1 ++ p 0)
    | none => s
  else s

/-- A flit of the dynamic plane arrives (R410): its message is whole once every FIDX has come; a reserved KIND is discarded. -/
def State.dynFlit (s : State) (h : W64) (b : BitVec 512) : State :=
  let kind := fld h.toNat 40 4
  let key (x : W64) : W64 := x &&& ~~~(0xC00000 : W64)
  let idx (x : W64) : Nat := fld x.toNat 22 2
  if [0, 6, 7, 15].contains kind || fld h.toNat 58 6 != s.pkg.toNat then s
  else
    let all := (h, b) :: s.remote.inflits
    let mine := all.filter fun x => key x.1 == key h
    if (List.range (dynFlits kind)).all fun i => mine.any fun x => idx x.1 == i then
      let s := { s with remote := { s.remote with inflits := all.filter fun x => key x.1 != key h } }
      s.peerMessage h fun i => ((mine.find? fun x => idx x.1 == i).map fun x => x.2).getD 0
    else { s with remote := { s.remote with inflits := all } }

/-- A request fails fatally: its context is killed with REMOTE-TIMEOUT (R416). -/
def State.failFatal (s : State) (q : Request) : State := (s.endReq q).kill q.ctx cRemoteTimeout

/-- REMOTE_TIMEOUT: the request, and every later request of its strand to the same home, is queued again; the fourth timeout is
fatal (R417). -/
def execRemoteTimeout (r : Nat) (s : State) : Out :=
  .next (
    match s.req r with
    | none => s
    | some q =>
      let limit := (s.pair q.sdie q.pkg q.die).bound + 64
      if !(q.phase == ReqPhase.sent || q.phase == ReqPhase.waiting) || q.owner == ReqOwner.other || decide ((s.fcc - q.since).toNat < limit) then s
      else if 3 ≤ q.reiss then s.failFatal q
      else
        { s with remote := { s.remote with reqs := s.remote.reqs.map fun x =>
            let later := x.samePair q && x.owner.strand.isSome && x.owner.strand == q.owner.strand && decide (q.id < x.id)
              && (x.phase == ReqPhase.sent || x.phase == ReqPhase.waiting)
            if x.id == r || later then { x with phase := .queued, reiss := x.reiss + 1, since := s.fcc } else x } })

/-- WAIT_LIMIT_TIMEOUT: ten milliseconds of WAIT in total are fatal (R414). -/
def execWaitLimitTimeout (r : Nat) (s : State) : Out :=
  .next (
    match s.req r with
    | none => s
    | some q =>
      if q.phase == ReqPhase.waiting && q.owner != ReqOwner.other && decide (tenMs ≤ q.waited + (s.fcc - q.since).toNat) then s.failFatal q else s)

/-- HELD_REQUEST_TIMEOUT: ten milliseconds held at a port that carries no traffic (R403, R413). -/
def execHeldRequestTimeout (r : Nat) (s : State) : Out :=
  .next (
    match s.req r with
    | none => s
    | some q =>
      let dead := (s.pair q.sdie q.pkg q.die).ports.filter fun p => !s.carries p
      let late := dead.any fun p =>
        decide (tenMs ≤ (s.fcc - q.since).toNat) && decide (tenMs ≤ (s.fcc - s.lostAt p).toNat)
      if q.phase == ReqPhase.held && late then
        match q.owner with
        | .buffer d n => s.aggStatus d n (BitVec.allOnes 16) (BitVec.ofNat 128 (packList 8 (List.replicate 16 cRemoteUnreachable)))
        | _ => s.deliverReply q { stat := BitVec.ofNat 6 cRemoteUnreachable, aux := 0, data := 0 }
      else s)

/-- AGGCTL_WRITE: AGE is clamped to 64-4,096 (R424). -/
def execAggctlWrite (d : BitVec 2) (v : W64) (s : State) : Out :=
  .next (
    let i : Fin 4 := ⟨d.toNat, d.isLt⟩
    s.setBellows i { s.bellows i with age := min 4096 (max 64 (fld v.toNat 0 13)) })

end Sys2Proof.Machine
end

