-- ==== Sys2Proof/Machine/Transform.lean ====
section
/-!
DEFINITION. The transform strand and its unit (09_transform.md R223-R237; arithmetic of 03_numbers.md R70, R71).
-/
namespace Sys2Proof.Machine
open Sys2Proof

/-! ## Elements and their arrays (R225) -/

/-- A strided array of the scratchpad: offset, distances in elements, element size, pencils and elements of each. -/
structure Strided where
  off : Nat
  pstr : Nat
  estr : Nat
  es : Nat
  pencils : Nat
  elems : Nat
  deriving DecidableEq, Repr

def stridedOf (v : W64) (es pencils elems : Nat) : Strided :=
  { off := fld v.toNat 0 21, estr := fld v.toNat 21 16, pstr := fld v.toNat 37 16, es := es, pencils := pencils, elems := elems }

/-- The offset of element `t` of pencil `b`. -/
def Strided.addr (a : Strided) (b t : Nat) : Nat := a.off + (b * a.pstr + t * a.estr) * a.es

/-- The offsets of all its elements. -/
def Strided.all (a : Strided) : List Nat :=
  (List.range a.pencils).flatMap fun b => (List.range a.elems).map fun t => a.addr b t

/-- The last byte of the farthest element. -/
def Strided.last (a : Strided) : Nat := a.addr (a.pencils - 1) (a.elems - 1) + a.es - 1

/-- Some element has a byte in `[lo, hi)`.  Pencils that start beyond the scratchpad are not looked at. -/
def Strided.touches (a : Strided) (lo hi : Nat) : Bool :=
  let far := if a.pstr = 0 then 1 else spadSize / (a.pstr * a.es) + 1
  (List.range (min a.pencils far)).any fun b =>
    let base := a.addr b 0
    let d := a.estr * a.es
    let t := if lo < base + a.es then 0 else if d = 0 then 0 else (lo - base - a.es) / d + 1
    decide (t < a.elems) && decide (base + t * d < hi) && decide (lo < base + t * d + a.es)

/-- Elements of two arrays share a byte. -/
def Strided.meets (a b : Strided) : Bool := a.all.any fun x => b.touches x (x + a.es)

/-! ## Commands (R226) -/

/-- The fields of a TC word. -/
structure TcWord where
  op : Nat
  await : BitVec 6
  rise : BitVec 6
  dir : Bool
  wide : Bool
  real : Bool
  plan : Nat
  deriving DecidableEq, Repr

def tcOf (w : W32) : TcWord :=
  { op := fld w.toNat 26 6, await := w.extractLsb' 20 6, rise := w.extractLsb' 14 6, dir := w.getLsbD 13, wide := w.getLsbD 12,
    real := w.getLsbD 11, plan := fld w.toNat 7 4 }

def tcWord (op : BitVec 6) (w r : BitVec 6) (d q e : BitVec 1) (t : BitVec 4) : W32 := op ++ w ++ r ++ d ++ q ++ e ++ t ++ 0#7

def TcWord.fmt (w : TcWord) : Num.Fmt := if w.wide then Num.fp64 else Num.fp32

/-- Bytes of one part. -/
def TcWord.part (w : TcWord) : Nat := if w.wide then 8 else 4

/-! ## The plan and what a command covers (R227, R228, R232) -/

/-- A command's plan and run as read: `p0` and `p1` are the first plan words, `P` its radix stages, `stages` P', `n` the stages run. -/
structure Run where
  w0 : Nat
  nc : Nat
  p : Nat
  radix : List Nat
  total : Nat
  first : Nat
  n : Nat
  shift : Nat
  pencils : Nat
  src : Strided
  dst : Strided
  work : Strided
  workUsed : Bool
  deriving DecidableEq, Repr

/-- A 64-bit word of the plan. -/
def planWord (m : Memory) (plan : W64) (i : Nat) : Nat := m.readN (fld plan.toNat 0 21 + 8 * i) 8

/-- The run of an fft from its captured registers and the plan's bytes. -/
def fftRun (w : TcWord) (tp : Vector W64 4) (plan : W64) (m : Memory) : Run :=
  let w0 := planWord m plan 0
  let w1 := planWord m plan 1
  let nc := fld w0 0 16 + 1
  let p := fld w0 55 5
  let total := if w.real then p + 1 else p
  let x := tp[2].toNat
  let first := fld x 20 4
  let n := if fld x 24 5 = 0 then total - first else fld x 24 5
  let pencils := fld x 0 16 + 1
  let cplx := 2 * w.part
  let realIn := w.real && !w.dir && first == 0
  let realOut := w.real && w.dir && first + n == total
  let src := if realIn then stridedOf tp[0] w.part pencils (2 * nc)
    else stridedOf tp[0] cplx pencils (if w.real && w.dir && first == 0 then nc + 1 else nc)
  let dst := if realOut then stridedOf tp[1] w.part pencils (2 * nc)
    else stridedOf tp[1] cplx pencils (if w.real && !w.dir && first + n == total then nc + 1 else nc)
  { w0 := w0, nc := nc, p := p, radix := (List.range 16).map fun s => fld w1 (4 * s) 4, total := total, first := first, n := n
    shift := fld x 32 6, pencils := pencils, src := src, dst := dst
    work := { off := fld tp[3].toNat 0 21, pstr := 0, estr := 1, es := cplx, pencils := 1, elems := nc }
    workUsed := decide (2 ≤ n) }

/-- The Legendre plan: J, L, M and the offsets of its tables with their lengths in bytes. -/
structure LegPlan where
  w0 : Nat
  j : Nat
  l : Nat
  m : Nat
  lo : Nat
  hi : Nat
  nodes : Nat
  weights : Nat
  seeds : Nat
  coef : Nat
  deriving DecidableEq, Repr

def legPlan (tp : Vector W64 4) (plan : W64) (m : Memory) : LegPlan :=
  let w0 := planWord m plan 0
  let x := tp[2].toNat
  { w0 := w0, j := fld w0 32 12 + 1, l := fld w0 16 16, m := fld w0 0 16, lo := fld x 16 12, hi := fld x 28 12
    nodes := fld (planWord m plan 1) 0 21, weights := fld (planWord m plan 2) 0 21
    seeds := fld (planWord m plan 3) 0 21, coef := fld (planWord m plan 4) 0 21 }

/-- The tables as (offset, bytes). -/
def LegPlan.tables (g : LegPlan) : List (Nat × Nat) :=
  [(g.nodes, 8 * g.j), (g.weights, 8 * g.j), (g.seeds, 16 * g.j), (g.coef, 16 * (g.l - g.m - 1))]

def LegPlan.src (g : LegPlan) (w : TcWord) (tp : Vector W64 4) : Strided :=
  stridedOf tp[0] 16 (fld tp[2].toNat 0 16 + 1) (if w.dir then g.l + 1 - g.m else g.j)

def LegPlan.dst (g : LegPlan) (tp : Vector W64 4) : Strided :=
  stridedOf tp[1] 16 (fld tp[2].toNat 0 16 + 1) (g.hi + 1 - g.lo)

/-- Bytes `[off, off + n)` touch group `b`; no byte touches nothing. -/
def spanTouches (off n b : Nat) : Bool := decide (0 < n) && decide (off < (b + 1) * 0x80000) && decide (b * 0x80000 < off + n)

/-- The groups a command would claim (R236). -/
def xfGroups (w : TcWord) (tp : Vector W64 4) (plan : W64) (m : Memory) : List (BitVec 2) :=
  let po := fld plan.toNat 0 21
  ((List.range 4).filter fun b =>
    let lo := b * 0x80000
    let hi := (b + 1) * 0x80000
    if w.op = 1 then
      let r := fftRun w tp plan m
      spanTouches po 16 b || r.src.touches lo hi || r.dst.touches lo hi || (r.workUsed && r.work.touches lo hi)
    else
      let g := legPlan tp plan m
      spanTouches po 64 b || (g.src w tp).touches lo hi || (g.dst tp).touches lo hi
        || g.tables.any fun x => spanTouches x.1 x.2 b).map (BitVec.ofNat 2)

/-- Points per step (R234). -/
def TcWord.rate (w : TcWord) : Nat := if w.wide then 4 else 8

/-- Stage `s` of the plan is the real stage: the merge of an inverse, the split of a forward transform (R231). -/
def Run.realStage (r : Run) (w : TcWord) (s : Nat) : Bool := w.real && (if w.dir then s == 0 else s == r.p)

/-- Steps of stage `i` of a command, for one pencil. -/
def Run.stageSteps (r : Run) (w : TcWord) (i : Nat) : Nat :=
  ((if r.realStage w (r.first + i) then r.nc + 1 else r.nc) + w.rate - 1) / w.rate

/-- Steps of one pencil. -/
def Run.pencilSteps (r : Run) (w : TcWord) : Nat := (List.range r.n).foldl (fun acc i => acc + r.stageSteps w i) 0

/-- Steps of an fft (R234). -/
def Run.steps (r : Run) (w : TcWord) : Nat := r.pencils * r.pencilSteps w

/-- Groups of four, and degrees, that the steps of a leg go through for one pencil (R234). -/
def LegPlan.quads (g : LegPlan) (w : TcWord) : Nat := if w.dir then (g.hi + 1 - g.lo + 3) / 4 else (g.j + 3) / 4
def LegPlan.degrees (g : LegPlan) (w : TcWord) : Nat := if w.dir then g.l + 1 - g.m else g.hi + 1 - g.m

/-- Steps of a leg. -/
def LegPlan.steps (g : LegPlan) (w : TcWord) (tp : Vector W64 4) : Nat := (fld tp[2].toNat 0 16 + 1) * (g.quads w * g.degrees w)

/-! ## Start checks (Table 9-7) -/

/-- Offsets, overlap and step bound of the arrays of a command. -/
def arraysBad (src dst work : Strided) (workUsed : Bool) (steps : Nat) : Bool :=
  decide (12288 < steps) || decide (spadSize ≤ src.last) || decide (spadSize ≤ dst.last)
    || (workUsed && decide (spadSize ≤ work.last)) || dst.meets src || (workUsed && (work.meets src || work.meets dst))

def checkFft (w : TcWord) (tp : Vector W64 4) (plan : W64) (m : Memory) : Except Nat Nat :=
  let r := fftRun w tp plan m
  let x := tp[2].toNat
  let used := r.radix.take r.p
  let steps := r.steps w
  let form := fld tp[0].toNat 53 11 != 0 || fld tp[1].toNat 53 11 != 0 || fld x 38 26 != 0 || fld x 29 3 != 0 || fld x 16 4 != 0
    || fld tp[3].toNat 21 43 != 0 || fld plan.toNat 21 43 != 0 || fld r.w0 16 39 != 0 || fld r.w0 60 4 != 1
    || r.p == 0 || decide (16 < r.p)
    || used.any (fun q => !([2, 3, 4, 5, 7, 8].contains q)) || (r.radix.drop r.p).any (· != 0)
    || used.foldl (· * ·) 1 != r.nc || decide (r.nc < 2) || ((w.real || w.wide) && decide (32768 < r.nc))
    || fld tp[0].toNat 21 16 == 0 || fld tp[1].toNat 21 16 == 0
    || decide (r.total ≤ r.first) || decide (r.total < r.first + r.n) || decide (16 < fld x 24 5)
  if form || arraysBad r.src r.dst r.work r.workUsed steps then .error 0x01
  else if r.src.off % r.src.es != 0 || r.dst.off % r.dst.es != 0 || (r.workUsed && r.work.off % 32 != 0)
    || fld plan.toNat 0 21 % 64 != 0 then .error 0x05
  else if decide (barrierBase ≤ r.dst.last) || (r.workUsed && decide (barrierBase ≤ r.work.last)) then .error 0x0C
  else .ok steps

def checkLeg (w : TcWord) (tp : Vector W64 4) (plan : W64) (m : Memory) : Except Nat Nat :=
  let g := legPlan tp plan m
  let x := tp[2].toNat
  let src := g.src w tp
  let dst := g.dst tp
  let po := fld plan.toNat 0 21
  let steps := g.steps w tp
  let form := fld tp[0].toNat 53 11 != 0 || fld tp[1].toNat 53 11 != 0 || fld x 40 24 != 0
    || fld tp[3].toNat 21 43 != 0 || fld plan.toNat 21 43 != 0 || fld g.w0 44 16 != 0 || fld g.w0 60 4 != 2
    || [1, 2, 3, 4].any (fun i => fld (planWord m plan i) 21 43 != 0) || [5, 6, 7].any (fun i => planWord m plan i != 0)
    || decide (4095 < g.l) || decide (g.l < g.m) || decide (g.hi < g.lo)
    || (if w.dir then decide (g.j ≤ g.hi) else decide (g.lo < g.m) || decide (g.l < g.hi))
    || fld tp[0].toNat 21 16 == 0 || fld tp[1].toNat 21 16 == 0
    || g.tables.any (fun t => decide (0 < t.2) && (!oneGroupOf po t.1 t.2 || decide (barrierBase < t.1 + t.2)))
  if form || arraysBad src dst src false steps then .error 0x01
  else if src.off % 16 != 0 || dst.off % 16 != 0 || po % 64 != 0 || g.tables.any (fun t => t.1 % 8 != 0) then .error 0x05
  else if decide (barrierBase ≤ dst.last) then .error 0x0C
  else .ok steps
where
  /-- `n` bytes from `off` lie in the bank group of the plan. -/
  oneGroupOf (plan off n : Nat) : Bool := decide (off + n ≤ spadSize) && off / 0x80000 == plan / 0x80000 && (off + n - 1) / 0x80000 == plan / 0x80000

/-! ## Arithmetic (R230, R231) -/

/-- A complex number by the bits of its parts, and the flags so far. -/
abbrev Cpx := Nat × Nat

/-- A term of an exact sum: a value times a factor; a factor that is exactly zero forms no product. -/
def term (neg : Bool) (x w : Num.Val) : List (Num.Val × Num.Flags) :=
  if w.isZero then [] else
    let r := Num.mul x w
    [(if neg then r.1.flip else r.1, r.2)]

/-- Round the exact sum of terms once. -/
def roundSum (f : Num.Fmt) (ts : List (Num.Val × Num.Flags)) : Nat × Num.Flags :=
  let s := Num.sum (ts.map Prod.fst)
  let r := Num.round f .rne false s.1
  (r.1, (ts.map Prod.snd).foldl (· ||| ·) 0 ||| s.2 ||| r.2)

/-- W(e, n): parts of the twiddle, with the sign of the direction. -/
def twiddle (f : Num.Fmt) (inv : Bool) (e n : Nat) : Num.Val × Num.Val :=
  let s := Num.sinTurn f e n
  (Num.cosTurn f e n, if inv then s else s.flip)

/-- The sum of complex products z × w, each part exact and rounded once. -/
def cpxSum (f : Num.Fmt) (zs : List (Cpx × (Num.Val × Num.Val))) : Cpx × Num.Flags :=
  let d := Num.decode f
  let re := roundSum f (zs.flatMap fun z => term false (d z.1.1) z.2.1 ++ term true (d z.1.2) z.2.2)
  let im := roundSum f (zs.flatMap fun z => term false (d z.1.1) z.2.2 ++ term false (d z.1.2) z.2.1)
  ((re.1, im.1), re.2 ||| im.2)

/-- Tw(z, e, n). -/
def twist (f : Num.Fmt) (inv : Bool) (z : Cpx) (e n : Nat) : Cpx × Num.Flags :=
  if e = 0 then (z, 0) else cpxSum f [(z, twiddle f inv e n)]

/-- One output of a radix stage: element `o` of Z, from Y (R229). -/
def radixOut (f : Num.Fmt) (inv : Bool) (y : Nat → Cpx) (nc ns r o : Nat) : Cpx × Num.Flags :=
  let k := o % ns
  let p := o / ns % r
  let j := o / (ns * r) * ns + k
  let v := (List.range r).map fun q => twist f inv (y (j + q * (nc / r))) (q * k) (ns * r)
  let b := cpxSum f (v.zipIdx.map fun x => (x.1.1, twiddle f inv (p * x.2) r))
  (b.1, (v.map Prod.snd).foldl (· ||| ·) b.2)

/-- Element `k` of the split stage (`merge` false) or of the merge stage (R231). -/
def realOut (f : Num.Fmt) (merge : Bool) (y : Nat → Cpx) (nc k : Nat) : Cpx × Num.Flags :=
  let d := Num.decode f
  let b := y (if merge then nc - k else (nc - k) % nc)
  let a := y (if merge then k else k % nc)
  let w := twiddle f merge k (2 * nc)
  let h : Num.Val := if merge then .fin false 1 0 else .fin false 1 (-1)
  let half (x : Num.Val) : Num.Val := if merge then x else (Num.mul x (.fin false 1 (-1))).1
  let wr := half w.1
  let wi := half w.2
  -- Y[k] − conj Y[Nc−k] = (ar − br, ai + bi); times i·w for merge and −i·w for split
  let re := term false (d a.1) h ++ term false (d b.1) h
    ++ term merge (d a.2) wr ++ term merge (d b.2) wr ++ term merge (d a.1) wi ++ term (!merge) (d b.1) wi
  let im := term false (d a.2) h ++ term true (d b.2) h
    ++ term (!merge) (d a.1) wr ++ term merge (d b.1) wr ++ term merge (d a.2) wi ++ term merge (d b.2) wi
  let r := roundSum f re
  let i := roundSum f im
  ((r.1, i.1), r.2 ||| i.2)

/-- Scale a part by 2^−SHIFT, rounding once more. -/
def scalePart (f : Num.Fmt) (shift x : Nat) : Nat × Num.Flags :=
  match Num.decode f x with
  | .fin n m e => Num.round f .rne false (.fin n m (e - shift))
  | v => Num.round f .rne false v

/-- Element `t` of pencil `b` of an array of complex elements; a real array pairs its elements. -/
def cpxAt (m : Memory) (part : Nat) (a : Strided) (b t : Nat) : Cpx :=
  if a.es = part then (m.readN (a.addr b (2 * t)) part, m.readN (a.addr b (2 * t + 1)) part)
  else (m.readN (a.addr b t) part, m.readN (a.addr b t + part) part)

/-- Write such an element. -/
def putCpx (m : Memory) (part : Nat) (a : Strided) (b t : Nat) (z : Cpx) : Memory :=
  if a.es = part then (m.writeN (a.addr b (2 * t)) part z.1).writeN (a.addr b (2 * t + 1)) part z.2
  else (m.writeN (a.addr b t) part z.1).writeN (a.addr b t + part) part z.2

/-- The array that stage `i` of a command writes, and the pencil of it: OUT when n − 1 − i is even, otherwise WORK (R229). -/
def Run.writes (r : Run) (i b : Nat) : Strided × Nat := if (r.n - 1 - i) % 2 = 0 then (r.dst, b) else (r.work, 0)

/-- The array that stage `i` reads: IN, or what the stage before it wrote. -/
def Run.reads (r : Run) (i b : Nat) : Strided × Nat := if i = 0 then (r.src, b) else r.writes (i - 1) b

/-- Elements that stage `i` of a command writes. -/
def Run.points (r : Run) (w : TcWord) (i : Nat) : Nat := if r.realStage w (r.first + i) && !w.dir then r.nc + 1 else r.nc

/-- Element `o` of stage `i`, from the elements it reads, and its flags; the last stage of the plan is scaled (R231). -/
def fftOut (w : TcWord) (r : Run) (i o : Nat) (y : Nat → Cpx) : Cpx × Num.Flags :=
  let f := w.fmt
  let s := r.first + i
  let z :=
    if r.realStage w s then realOut f w.dir y r.nc o
    else
      let q := if w.real && w.dir then s - 1 else s
      radixOut f w.dir y r.nc ((r.radix.take q).foldl (· * ·) 1) (r.radix.getD q 1) o
  if s + 1 == r.total && r.shift != 0 then
    let a := scalePart f r.shift z.1.1
    let b := scalePart f r.shift z.1.2
    ((a.1, b.1), z.2 ||| a.2 ||| b.2)
  else z

/-- The stage of a pencil that step `k` of it belongs to, and the step of that stage. -/
def Run.stageAt (r : Run) (w : TcWord) : Nat → Nat → Nat → Nat × Nat
  | 0, i, k => (i, k)
  | fuel + 1, i, k => if k < r.stageSteps w i then (i, k) else r.stageAt w fuel (i + 1) (k - r.stageSteps w i)

/-- Step `k` of an fft: the points it writes, from the scratchpad `m` as the TC found it, into `d`, and its flags (R229, R234).  IN is never
written. -/
def fftStep (w : TcWord) (r : Run) (k : Nat) (m d : Memory) : Memory × Num.Flags :=
  let b := k / max 1 (r.pencilSteps w)
  let (i, c) := r.stageAt w r.n 0 (k % max 1 (r.pencilSteps w))
  let (x, xb) := r.reads i b
  let (y, yb) := r.writes i b
  (List.range (min w.rate (r.points w i - c * w.rate))).foldl (fun acc n =>
    let o := c * w.rate + n
    let z := fftOut w r i o (cpxAt m w.part x xb)
    (putCpx acc.1 w.part y yb o z.1, acc.2 ||| z.2)) (d, 0)

/-! ## Legendre (R71, R233) -/

/-- The values P_n(x_j) for n from m to `last`, and the flags: from the two seeds by the recurrence. -/
def legendre (mem : Memory) (g : LegPlan) (j last : Nat) : List Nat × Num.Flags :=
  let d := Num.decode Num.fp64
  let x := mem.readN (g.nodes + 8 * j) 8
  let s0 := mem.readN (g.seeds + 16 * j) 8
  let s1 := mem.readN (g.seeds + 16 * j + 8) 8
  if last ≤ g.m then ([s0], 0)
  else
    let r := (List.range (last - g.m - 1)).foldl (fun (acc : List Nat × Num.Flags) i =>
      let p1 := acc.1.headD 0
      let p2 := acc.1.tail.headD 0
      let a := mem.readN (g.coef + 16 * i) 8
      let b := mem.readN (g.coef + 16 * i + 8) 8
      let t1 := roundSum Num.fp64 [Num.mul (d x) (d p1)]
      let bp := Num.mul (d b) (d p2)
      let p := roundSum Num.fp64 [Num.mul (d a) (d t1.1), (bp.1.flip, bp.2)]
      (p.1 :: acc.1, acc.2 ||| t1.2 ||| p.2)) ([s1, s0], 0)
    (r.1.reverse, r.2)

/-- acc := RNE(acc + x × y). -/
def fusedStep (acc : Nat × Num.Flags) (x y : Nat) : Nat × Num.Flags :=
  let d := Num.decode Num.fp64
  let r := roundSum Num.fp64 [(d acc.1, 0), Num.mul (d x) (d y)]
  (r.1, acc.2 ||| r.2)

/-- The fused sum of products of two lists, from +0. -/
def fusedDot (xs ys : List Nat) : Nat × Num.Flags := (xs.zip ys).foldl (fun acc p => fusedStep acc p.1 p.2) (0, 0)

/-- Element `i` of pencil `b` of an analysis: c_n for n = LO + i, accumulated over the nodes. -/
def anaOut (tp : Vector W64 4) (w : TcWord) (g : LegPlan) (m : Memory) (b i : Nat) : Cpx × Num.Flags :=
  let d := Num.decode Num.fp64
  let n := g.lo + i
  let js := List.range g.j
  let ps := js.map fun j => legendre m g j n
  let gs := js.map fun j =>
    let z := cpxAt m 8 (g.src w tp) b j
    let wj := d (m.readN (g.weights + 8 * j) 8)
    (roundSum Num.fp64 [Num.mul wj (d z.1)], roundSum Num.fp64 [Num.mul wj (d z.2)])
  let fl := ps.foldl (fun f p => f ||| p.2) (gs.foldl (fun f z => f ||| z.1.2 ||| z.2.2) 0)
  let vs := ps.map fun p => p.1.getD (n - g.m) 0
  let re := fusedDot (gs.map fun z => z.1.1) vs
  let im := fusedDot (gs.map fun z => z.2.1) vs
  ((re.1, im.1), re.2 ||| im.2 ||| fl)

/-- Element `i` of pencil `b` of a synthesis: f(x_j) for j = LO + i, accumulated over the degrees. -/
def synOut (tp : Vector W64 4) (w : TcWord) (g : LegPlan) (m : Memory) (b i : Nat) : Cpx × Num.Flags :=
  let ps := legendre m g (g.lo + i) g.l
  let ins := (List.range (g.l + 1 - g.m)).map (cpxAt m 8 (g.src w tp) b)
  let re := fusedDot ps.1 (ins.map Prod.fst)
  let im := fusedDot ps.1 (ins.map Prod.snd)
  ((re.1, im.1), re.2 ||| im.2 ||| ps.2)

/-- The elements that step `k` of a leg completes, with their pencil: of an analysis one degree at the last four nodes, of a synthesis four
nodes at the last degree (R233, R234). -/
def LegPlan.completes (g : LegPlan) (w : TcWord) (k : Nat) : Nat × List Nat :=
  let nn := max 1 (g.degrees w)
  let nq := max 1 (g.quads w)
  let b := k / (nq * nn)
  let q := k / nn % nq
  let n := k % nn
  if w.dir then (b, if n + 1 = nn then (List.range (min 4 (g.hi + 1 - g.lo - 4 * q))).map (4 * q + ·) else [])
  else (b, if q + 1 = nq && decide (g.lo ≤ g.m + n) then [g.m + n - g.lo] else [])

/-- Step `k` of a leg: the elements it completes, from the scratchpad `m` as the TC found it, into `d`, and its flags. -/
def legStep (w : TcWord) (tp : Vector W64 4) (g : LegPlan) (k : Nat) (m d : Memory) : Memory × Num.Flags :=
  let (b, os) := g.completes w k
  os.foldl (fun acc i =>
    let z := if w.dir then synOut tp w g m b i else anaOut tp w g m b i
    (putCpx acc.1 8 (g.dst tp) b i z.1, acc.2 ||| z.2)) (d, 0)

/-! ## Issue -/

def Tile.setTp (t : Tile) (r : BitVec 4) (v : W64) : Tile := { t with xf := { t.xf with tp := t.xf.tp.set r.toNat v } }

/-- TPAR (R224). -/
def execTpar (r : BitVec 4) (i : BitVec 22) (x : List W32) (s : State) : Out :=
  .next (s.issueT .transform fun t => .done (t.setTp r (imm22 i x)))

/-- A command starts (R226): the await is taken, the registers captured and the groups claimed; its instruction leaves the queue when
the checks of the next TC pass. -/
def tcExec (word : W32) (s : State) : Out :=
  .next (s.issueT .transform fun t =>
    let w := tcOf word
    if w.plan < 4 || (w.op == 2 && (!w.wide || w.real)) then .trap { code := cIllegalInsn }
    else if t.xf.cmd.isSome then .hold
    else
      let tp : Vector W64 4 := #v[t.xf.tp[0], t.xf.tp[1], t.xf.tp[2], t.xf.tp[3]]
      let plan := t.xf.tp[w.plan % 16]'(by omega)
      let groups := xfGroups w tp plan t.spad0
      if t.mx.cmds.any fun c => c.claims.any groups.contains then .hold
      else match t.takeAwait w.await with
        | none => .hold
        | some t' => .stay fun s =>
          let cmd : TransformCmd :=
            { word := word, pc := t.pcOf .transform, tp := tp, plan := plan, t0 := t.tcc, started := false, steps := 0, taken := 0
              claims := groups, raised := false }
          s.setTile s.here { t' with xf := { t'.xf with cmd := some cmd, seq := t'.xf.seq + 1 } })

def execFft (w r : BitVec 6) (d q e : BitVec 1) (t : BitVec 4) (s : State) : Out := tcExec (tcWord 1 w r d q e t) s
def execLeg (w r : BitVec 6) (d : BitVec 1) (t : BitVec 4) (s : State) : Out := tcExec (tcWord 2 w r d 1 0 t) s

/-! ## Steps (R234, R235) -/

/-- The check of t0 + 1, on the plan as the TC found it. -/
def Tile.checkTc (t : Tile) (c : TransformCmd) : Except Nat Nat :=
  let w := tcOf c.word
  if w.op = 1 then checkFft w c.tp c.plan t.spad0 else checkLeg w c.tp c.plan t.spad0

/-- One step of a command: its writes and its flags. -/
def Tile.stepTc (t : Tile) (c : TransformCmd) : Tile :=
  let w := tcOf c.word
  let r := if w.op = 1 then fftStep w (fftRun w c.tp c.plan t.spad0) c.taken t.spad0 t.spad
    else legStep w c.tp (legPlan c.tp c.plan t.spad0) c.taken t.spad0 t.spad
  { t with spad := r.1 }.raiseFlags .transform r.2

/-- TRANSFORM_STEP: in t0 + 1 the plan is read and checked, and from t0 + 2 a step runs in each TC, with its
writes. -/
def execTransformStep (t : TileNo) (s : State) : Out :=
  .next (
    let x := s.tile t
    match x.xf.cmd with
    | none => s
    | some c =>
      if !c.started then
        if c.t0.ult x.tcc then
          match x.checkTc c with
          | .error sub =>
            let x' := { x with xf := { x.xf with cmd := none, seq := x.xf.seq - 1 } }.raise (tcOf c.word).await
            (s.setTile t x').raiseOn t .transform { code := cCommandFault, sub := sub } c.pc
          | .ok steps =>
            s.setTile t ({ x with xf := { x.xf with cmd := some { c with started := true, steps := steps } } }.finishHead .transform)
        else s
      else if c.taken < c.steps then
        s.setTile t ({ x with xf := { x.xf with cmd := some { c with taken := c.taken + 1 } } }.stepTc c)
      else s)

/-- The raise point t0 + S + 18 (R234): Sem[raise] rises. -/
def Tile.raiseTransform (t : Tile) : Tile :=
  match t.xf.cmd with
  | some c =>
    if c.started && !c.raised && (c.t0 + BitVec.ofNat 64 (c.steps + 18)).ule t.tcc then
      ({ t with xf := { t.xf with cmd := some { c with raised := true } } }.raise (tcOf c.word).rise).pendingSigs .transform
    else t
  | none => t

end Sys2Proof.Machine
end

