-- ==== Sys2Proof/Machine/Group.lean ====
section
/-!
DEFINITION. The send and receive strands, the scheduled plane and the reduction trees (14_group.md R321-R342, R442), and the raise
points of commands.
-/
namespace Sys2Proof.Machine
open Sys2Proof

/-! ## Groups and endpoints (R309, R325) -/

def State.launch (s : State) (l : Nat) : Option Launch := s.launches.find? fun x => x.id == l

/-- The launch a tile is bound to. -/
def State.launchOf (s : State) (t : TileNo) : Option Launch :=
  let x := s.tile t
  if x.phase == .off || x.phase == .idle then none else s.launch x.launch

/-- The 18-bit endpoint of a tile of this package (Table 14-3). -/
def endpointOf (pkg : BitVec 6) (t : TileNo) : Nat := pkg.toNat * 4096 + t.val / 160 * 256 + t.val % 160

def epPkg (e : Nat) : BitVec 6 := BitVec.ofNat 6 (e / 4096)
def epDie (e : Nat) : BitVec 3 := BitVec.ofNat 3 (e / 256 % 8)
def epTile (e : Nat) : Nat := e % 256

/-- A tile endpoint that exists: bit 11 zero, dies 0-3, tiles 0-159. -/
def epOk (e : Nat) : Bool := fld e 11 1 == 0 && decide (fld e 8 3 < 4) && decide (fld e 0 8 < 160)

/-- The tile of this package that an endpoint names. -/
def State.epTileNo (s : State) (e : Nat) : Option TileNo :=
  if epPkg e == s.pkg && epOk e then tileOf? (fld e 8 3 * 160 + fld e 0 8) else none

/-! ## Routes (R331, R332) -/

/-- The variant of a route entry for a physical source die; zero when none is loaded. -/
def State.route (s : State) (ridx : Nat) (die : Nat) : Nat :=
  match s.fabric.routes.find? fun r => r.1.toNat == ridx with
  | some r => (r.2[die % 4]'(by omega)).toNat
  | none => 0

def rLat (r : Nat) : Nat := fld r 0 12
def rLane (r : Nat) : Nat := fld r 12 4
def rPort (r : Nat) : Nat := fld r 16 4
def rPsub (r : Nat) : Nat := fld r 20 1
def rMarg (r : Nat) : Nat := fld r 22 8

/-- Positions on a die from `a` to `b`, along x first and then y, without the first. -/
def pathXY (ax ay bx by_ : Nat) : List (Nat × Nat) :=
  let xs := if ax ≤ bx then (List.range (bx - ax)).map fun i => (ax + 1 + i, ay) else (List.range (ax - bx)).map fun i => (ax - 1 - i, ay)
  let ys := if ay ≤ by_ then (List.range (by_ - ay)).map fun i => (bx, ay + 1 + i) else (List.range (ay - by_)).map fun i => (bx, ay - 1 - i)
  xs ++ ys

/-- The tiles that an on-die transfer passes after its source, in physical order or in the logical order of the launch (R321). -/
def State.pathTiles (s : State) (src dst : TileNo) (physical : Bool) : List TileNo :=
  match if physical then none else s.launchOf src with
  | some l =>
    let gx := max 1 l.gx
    let gy := max 1 l.gy
    let a := (l.tiles.findIdx? (· == src)).getD 0
    let b := (l.tiles.findIdx? (· == dst)).getD 0
    let base := a / (gx * gy) * (gx * gy)
    (pathXY (a % gx) (a / gx % gy) (b % gx) (b / gx % gy)).filterMap fun p => l.tiles[base + p.1 + gx * p.2]?
  | none =>
    (pathXY (src.val % 16) (src.val % 160 / 16) (dst.val % 16) (dst.val % 160 / 16)).filterMap fun p =>
      tileOf? (src.val / 160 * 160 + p.1 + 16 * p.2)

/-- The direction of a hop: 0 +x, 1 −x, 2 +y, 3 −y. -/
def hopDir (a b : TileNo) : Nat := if b.val == a.val + 1 then 0 else if b.val + 1 == a.val then 1 else if a.val < b.val then 2 else 3

/-- The number, in the order of R331, of the input that a flit moving in a direction comes in by: 0 local, 1 x−, 2 x+, 3 y−, 4 y+. -/
def inputOf (dir : Nat) : Nat := if dir = 0 then 1 else if dir = 1 then 2 else if dir = 2 then 3 else 4

/-- Mesh hops of a path: link, FC and input; `j` counts from 1. -/
def meshSlots (d : W64) : TileNo → Nat → Nat → List TileNo → List (W64 × Link × Nat)
  | _, _, _, [] => []
  | a, inp, j, b :: rest =>
    let dir := hopDir a b
    (d + BitVec.ofNat 64 (2 + j), .mesh a.val dir, inp) :: meshSlots d b (inputOf dir) (j + 1) rest

/-- The input by which the last hop enters the destination's router. -/
def lastInput : TileNo → List TileNo → Nat
  | _, [] => 0
  | a, [b] => inputOf (hopDir a b)
  | _, b :: rest => lastInput b rest

/-- The slots of a flit that departs at FC `d` (R322, R442). -/
def State.slotsOf (s : State) (src : TileNo) (x : Transfer) (d : W64) : List (W64 × Link × Nat) :=
  let at_ (n : Nat) : W64 := d + BitVec.ofNat 64 n
  let die := dieOf src
  let inj : W64 × Link × Nat := (d, .inject src.val, 0)
  if x.dstPkg == s.pkg then
    match tileOf? (x.dstDie.toNat * 160 + x.dstTile) with
    | none => [inj]
    | some dst =>
      if x.dstDie.toNat == die then
        let path := s.pathTiles src dst x.physical
        inj :: meshSlots d src 0 1 path ++ [(at_ (3 + path.length), .eject dst.val, lastInput src path)]
      else
        [inj, (at_ 3, .diePair die x.dstDie.toNat x.lane, 0), (at_ 29, .eject dst.val, 16 + 16 * die + x.lane)]
  else
    let pd := x.port / 4
    if pd == die then [inj, (at_ 3, .optical x.port x.psub, 0)]
    else [inj, (at_ 3, .diePair die pd x.lane, 0), (at_ 29, .optical x.port x.psub, 16 + 16 * die + x.lane)]

/-! ## Transfer entries (Table 14-3) -/

structure Entry where
  resOk : Bool
  dt : Nat
  dest : Nat
  ablk : Nat
  dmode : Bool
  soff : Nat
  runs : Nat
  rlen : Nat
  sstride : Nat
  doff : Nat
  dep : Nat
  ridx : Nat
  deriving DecidableEq, Repr

def entryOf256 (x : Nat) : Entry :=
  { resOk := fld x 49 15 == 0 && fld x 85 11 == 0 && fld x 110 18 == 0 && fld x 149 11 == 0 && fld x 181 11 == 0 && fld x 210 14 == 0
      && fld x 236 20 == 0 && fld x 203 1 == 0
    dt := fld x 0 32, dest := fld x 32 12, ablk := fld x 44 4, dmode := fld x 48 1 == 1
    soff := fld x 64 21, runs := fld x 96 8 + 1, rlen := fld x 104 6 + 1
    sstride := fld x 128 21, doff := fld x 160 21, dep := fld x 192 18, ridx := fld x 224 12 }

def Entry.flits (e : Entry) : Nat := e.runs * e.rlen

/-- The end of its source bytes, from SOFF's base. -/
def Entry.srcEnd (e : Entry) : Nat := e.soff + (e.runs - 1) * e.sstride + e.rlen * 64

def Entry.misaligned (e : Entry) : Bool := e.soff % 64 != 0 || e.sstride % 64 != 0 || e.doff % 64 != 0

/-- A destination as a transfer names it: package, die, tile on the die, and whether it is routed in physical order. -/
structure Dest where
  pkg : BitVec 6
  die : BitVec 3
  tile : Nat
  physical : Bool
  deriving DecidableEq, Repr

def destOfTile (pkg : BitVec 6) (t : TileNo) : Dest :=
  { pkg := pkg, die := BitVec.ofNat 3 (dieOf t), tile := t.val % 160, physical := false }

def destOfEp (e : Nat) : Dest := { pkg := epPkg e, die := epDie e, tile := epTile e, physical := true }

/-- The path latency of a transfer (Table 14-1). -/
def State.pathLat (s : State) (src : TileNo) (d : Dest) (ridx : Nat) : Nat :=
  if d.pkg != s.pkg then rLat (s.route ridx (dieOf src))
  else if d.die.toNat != dieOf src then 32
  else match tileOf? (d.die.toNat * 160 + d.tile) with
    | some dst => 6 + (s.pathTiles src dst d.physical).length
    | none => 6

/-- The RIDX of an entry does not suit its path: zero if and only if the destination lies on the source die, and a route that is
loaded. -/
def State.routeBad (s : State) (src : TileNo) (d : Dest) (ridx : Nat) : Bool :=
  let own := d.pkg == s.pkg && d.die.toNat == dieOf src
  (own != (ridx == 0)) || (ridx != 0 && rLat (s.route ridx (dieOf src)) == 0)

/-- The transfer of an entry. -/
def State.transferOf (s : State) (src : TileNo) (e : Entry) (d : Dest) (block : BitVec 4) (base : W64) (tag : BitVec 16) (sbase id : Nat) :
    Transfer :=
  let r := s.route e.ridx (dieOf src)
  { id := id, depart := base + BitVec.ofNat 64 e.dt, flits := e.flits, runLen := e.rlen, soff := sbase + e.soff, sstride := e.sstride
    doff := e.doff, tag := tag, dstPkg := d.pkg, dstDie := d.die, dstTile := d.tile, block := block, lat := s.pathLat src d e.ridx
    physical := d.physical, lane := rLane r, port := rPort r, psub := rPsub r, sent := 0 }

/-! ## Issue of commands (R323, R324) -/

def Tile.setXp (t : Tile) (r : BitVec 4) (v : W64) : Tile := { t with tx := { t.tx with xp := t.tx.xp.set r.toNat v } }
def Tile.setYp (t : Tile) (r : BitVec 4) (v : W64) : Tile := { t with rx := { t.rx with yp := t.rx.yp.set r.toNat v } }

def execXpar (r : BitVec 4) (i : BitVec 22) (x : List W32) (s : State) : Out :=
  .next (s.issueT .send fun t => .done (t.setXp r (imm22 i x)))

def execYpar (r : BitVec 4) (i : BitVec 22) (x : List W32) (s : State) : Out :=
  .next (s.issueT .receive fun t => .done (t.setYp r (imm22 i x)))

/-- The fields of an XC or YC word. -/
structure XcWord where
  op : Nat
  await : BitVec 6
  rise : BitVec 6
  desc : BitVec 4
  deriving DecidableEq, Repr

def xcOf (w : W32) : XcWord :=
  { op := fld w.toNat 26 6, await := w.extractLsb' 20 6, rise := w.extractLsb' 14 6, desc := w.extractLsb' 10 4 }

def xcWord (op : BitVec 6) (w r : BitVec 6) (d : BitVec 4) : W32 := op ++ w ++ r ++ d ++ 0#10

/-- The 64 bytes at a descriptor offset, as the TC found them (R33, R324). -/
def Tile.descriptor (t : Tile) (v : W64) : BitVec 512 := BitVec.ofNat 512 (t.spad0.readN (v.toNat % spadSize) 64)

/-- The endpoint of the tile, as a child of tree entries. -/
def treeChild (e : Nat) (i : Nat) : Nat := fld e (128 + 24 * i) 24
def treeKids (e : Nat) : Nat := fld e 7 4 + 1

/-- The node of which a tile is a leaf in a tree, with the entry and its child number. -/
def State.leafNode (s : State) (t : TileNo) (tree : BitVec 4) : Option (Nat × Nat × Nat) :=
  s.fabric.trees.findSome? fun x =>
    let e := x.2.toNat
    if fld e 0 4 == tree.toNat then
      ((List.range (treeKids e)).find? fun i => treeChild e i == endpointOf s.pkg t).map fun i => (x.1, e, i)
    else none

/-- The leaf's node holds two incomplete rounds of the tree, and neither is this one (R341; DEDUCED, log entry 16). -/
def State.treeFull (s : State) (t : TileNo) (tree : BitVec 4) (tag : BitVec 16) : Bool :=
  match s.leafNode t tree with
  | none => false
  | some (n, _, _) =>
    let rs := s.fabric.rounds.filter fun r => r.tree == tree && r.node == n
    decide (2 ≤ rs.length) && rs.all fun r => r.tag != tag

/-- A send-strand command starts: the await is taken and the descriptor read; it leaves the queue when its checks pass. -/
def xcExec (word : W32) (s : State) : Out :=
  .next (s.issue .send fun s1 =>
    let t := s1.cur
    let w := xcOf word
    let desc := t.descriptor t.tx.xp[w.desc.toNat]
    if t.tx.cmd.isSome then .hold
    else if w.op == 3 && s1.treeFull s1.here (desc.extractLsb' 0 4) (desc.extractLsb' 128 16) then .hold
    else match t.takeAwait w.await with
      | none => .hold
      | some t' => .stay fun s =>
        let cmd : SendCmd :=
          { word := word, pc := t.pcOf .send, t0 := t.tcc, started := false, desc := desc, transfers := [], tree := none, soff := 0
            promise := 0, lastFc := none, raised := false }
        s.setTile s.here { t' with tx := { t'.tx with cmd := some cmd, seq := t'.tx.seq + 1 } })

def execSend (w r : BitVec 6) (dx : BitVec 4) (s : State) : Out := xcExec (xcWord 1 w r dx) s
def execSwg (w r : BitVec 6) (dx : BitVec 4) (s : State) : Out := xcExec (xcWord 2 w r dx) s
def execRtree (w r : BitVec 6) (dx : BitVec 4) (s : State) : Out := xcExec (xcWord 3 w r dx) s

/-- A receive-strand command starts. -/
def ycExec (word : W32) (s : State) : Out :=
  .next (s.issueT .receive fun t =>
    let w := xcOf word
    if t.rx.cmd.isSome then .hold
    else match t.takeAwait w.await with
      | none => .hold
      | some t' => .stay fun s =>
        let cmd : RecvCmd :=
          { word := word, pc := t.pcOf .receive, t0 := t.tcc, started := false, desc := t.descriptor t.rx.yp[w.desc.toNat], raised := false }
        s.setTile s.here { t' with rx := { t'.rx with cmd := some cmd, seq := t'.rx.seq + 1 } })

def execRecv (w r : BitVec 6) (dx : BitVec 4) (s : State) : Out := ycExec (xcWord 1 w r dx) s
def execYclr (w r : BitVec 6) (dx : BitVec 4) (s : State) : Out := ycExec (xcWord 2 w r dx) s

/-! ## Start checks -/

/-- How a start check ends, with the state that its reads leave (a closed tile window makes a record, R366): the command as it goes on, a wait
for memory, or a sub-cause with the address read. -/
inductive Checked (σ α : Type) where
  | ok (s : σ) (a : α)
  | hold
  | bad (s : σ) (sub : Nat) (addr : W64)

/-- The first failing condition of a list, with no address. -/
def checkList (s : σ) (l : List (Nat × Bool)) (next : Checked σ α) : Checked σ α :=
  match firstBad l with
  | some c => .bad s c 0
  | none => next

/-- The conditions on a descriptor offset (R324). -/
def offsetBad (v : W64) : List (Nat × Bool) := [(0x01, fld v.toNat 21 43 != 0), (0x05, v.toNat % 64 != 0)]

/-- The island of a tile (Table 1-3). -/
def islandOf (t : TileNo) : Fin 16 := ⟨(3 * (t.val / 160) + t.val % 160 / 80) % 16, by omega⟩

/-- Fabric cycles until TC `t0 + 16` begins, seen in TC `t0 + 1` (R16). -/
def State.fcTo16 (s : State) (t : TileNo) : Nat :=
  let n := (s.manage.islands[islandOf t]).ncur
  (400 - (s.tile t).credit + max 1 n - 1) / max 1 n

/-- Start checks of send (Table 14-4). -/
def State.checkSend (s : State) (t : TileNo) (c : SendCmd) : Checked State SendCmd :=
  let x := s.tile t
  let w := xcOf c.word
  let d := c.desc.toNat
  let e := entryOf256 (fld d 0 256)
  let l := s.launchOf t
  let size := match l with | some l => l.tiles.length | none => 0
  let base : W64 := BitVec.ofNat 64 (fld d 256 64)
  let tag := BitVec.ofNat 16 (fld d 320 16)
  let named := if e.dmode then some (destOfEp e.dep)
    else match l with | some l => (l.tiles[e.dest]?).map (destOfTile s.pkg) | none => none
  let dest := named.getD (destOfTile s.pkg t)
  let n := e.flits
  checkList s (offsetBad x.tx.xp[w.desc.toNat]) (checkList s [
    (0x01, !e.resOk || fld d 336 176 != 0 || decide (spadSize < e.srcEnd) || (!e.dmode && decide (size ≤ e.dest))
      || (e.dmode && !epOk e.dep) || s.routeBad t dest e.ridx),
    (0x05, e.misaligned),
    (0x0B, decide (base.toNat + e.dt < s.fcc.toNat + s.fcTo16 t))]
    (let tr := s.transferOf t e dest (BitVec.ofNat 4 e.ablk) base tag 0 s.fabric.nextXfer
     .ok s { c with started := true, transfers := [tr], promise := tr.depart + BitVec.ofNat 64 (n - 1 + tr.lat) }))

/-- The path to a home of another package is down: a read waits, and fails once a port of it has carried no traffic for 10 ms (R413; DESIGN
CHOICE, log entry 86). -/
def State.pathDown (s : State) (src : Nat) (p : Phys) : Option Bool :=
  if p.pkg == s.pkg then none
  else
    let dead := (s.pair src p.pkg p.die).ports.filter fun n => !s.carries n
    if dead.isEmpty then none else some (dead.any fun n => decide (tenMs ≤ (s.fcc - s.lostAt n).toNat))

/-- Read `n` bytes of global memory for a command of context `c`, by an agent of die `src`. -/
def State.readVa (s : State) (src : Nat) (c : BitVec 6) (va : W64) (n : Nat) : Checked State Nat :=
  match s.translate c va .read false with
  | .error x => .bad s x va
  | .ok p =>
    match s.pathDown src p with
    | some true => .bad s cRemoteUnreachable va
    | some false => .hold
    | none =>
      match s.homeOp c p.pkg p.die p.pa.toNat (.read n) with
      | .ok r => .ok r.1 r.2
      | .hold => .hold
      | .refuse x => .bad s x va

/-- A decomposition word keeps R334. -/
def decompOk (w : Nat) (npart rank : Nat) (ext : Nat → Nat) : Bool :=
  let a := fld w 0 2
  let da := fld w 2 12 + 1
  let b := fld w 14 2
  let db := fld w 16 12 + 1
  fld w 28 36 == 0 && da * db == npart && decide (a < rank) && ext a % da == 0
    && (if db = 1 then b == 0 else b != a && decide (b < rank) && ext b % db == 0)

/-- A participant entry (R335). -/
structure Part where
  ltile : Nat
  ablk : Nat
  pkg : BitVec 6
  ep : Nat
  epv : Bool
  resOk : Bool
  nin : Nat
  nout : Nat
  sched : Nat
  deriving DecidableEq, Repr

def partOf (x : Nat) : Part :=
  { ltile := fld x 0 12, ablk := fld x 12 4, pkg := BitVec.ofNat 6 (fld x 16 6), ep := fld x 22 18, epv := fld x 40 1 == 1
    resOk := fld x 41 23 == 0, nin := fld x 64 16, nout := fld x 80 16, sched := fld x 96 32 * 64 }

/-- Where a participant's flits go. -/
def State.partDest (s : State) (l : Option Launch) (p : Part) (t : TileNo) : Dest :=
  if p.epv then destOfEp p.ep
  else match l with
    | some l => ((l.tiles[p.ltile]?).map (destOfTile s.pkg)).getD (destOfTile s.pkg t)
    | none => destOfTile s.pkg t

/-- Read and check the participant entries. -/
def State.readParts (s : State) (src : Nat) (c : BitVec 6) (blk : W64) (check : Nat → Part → Bool) :
    Nat → Nat → List Part → Checked State (List Part)
  | 0, _, acc => .ok s acc.reverse
  | n + 1, i, acc =>
    match s.readVa src c (blk + BitVec.ofNat 64 (0x80 + 16 * i)) 16 with
    | .bad s x a => .bad s x a
    | .hold => .hold
    | .ok s v =>
      let p := partOf v
      if check i p then s.readParts src c blk check n (i + 1) (p :: acc) else .bad s 0x01 0

/-- What the entries of a schedule table are checked against. -/
structure SwgCtx where
  npart : Nat
  parts : List Part
  block : Nat
  sbase : Nat
  t0 : W64
  span : Nat
  tag : BitVec 16
  deriving DecidableEq, Repr

/-- Read and check the schedule table, one entry after the other; `free` is the first DT that the entry before allows. -/
def State.readTable (s : State) (t : TileNo) (g : SwgCtx) (addr : W64) : Nat → Nat → Nat → List Transfer → Checked State (List Transfer)
  | 0, _, _, acc => .ok s acc.reverse
  | n + 1, i, free, acc =>
    let x := s.tile t
    match s.readVa (dieOf t) x.ctx (addr + BitVec.ofNat 64 (32 * i)) 32 with
    | .bad s c a => .bad s c a
    | .hold => .hold
    | .ok s v =>
      let e := entryOf256 v
      let p := g.parts.getD e.dest (partOf 0)
      let d := s.partDest (s.launchOf t) p t
      let r := s.route e.ridx (dieOf t)
      let lat := s.pathLat t d e.ridx
      let marg := if e.ridx = 0 then 0 else rMarg r
      match firstBad [
        (0x01, !e.resOk || decide (g.npart ≤ e.dest) || e.ablk != 0 || e.dmode || s.routeBad t d e.ridx || decide (g.block < e.srcEnd)
          || decide (spadSize < g.sbase + e.srcEnd) || decide (g.block < e.doff + 64 * e.flits)),
        (0x05, e.misaligned),
        (0x0B, decide (e.dt < free) || decide (g.span < e.dt + e.flits - 1 + lat + marg))] with
      | some c => .bad s c 0
      | none =>
        let tr := s.transferOf t e d (BitVec.ofNat 4 p.ablk) g.t0 g.tag g.sbase (s.fabric.nextXfer + i)
        s.readTable t g addr n (i + 1) (e.dt + e.flits) (tr :: acc)

/-- Start checks of swg (Table 14-7), in the order of its reads; FCC is that of t0 + 1, however long a read waits. -/
def State.checkSwg (s : State) (t : TileNo) (c : SendCmd) : Checked State SendCmd :=
  let x := s.tile t
  let w := xcOf c.word
  let d := c.desc.toNat
  let blk : W64 := BitVec.ofNat 64 (fld d 0 64)
  let part := fld d 64 12
  let sbase := fld d 96 21
  let l := s.launchOf t
  let size := match l with | some l => l.tiles.length | none => 0
  checkList s (offsetBad x.tx.xp[w.desc.toNat]) (checkList s [
    (0x01, fld d 76 20 != 0 || fld d 117 395 != 0),
    (0x05, blk.toNat % 128 != 0 || sbase % 64 != 0)]
    (match s.readVa (dieOf t) x.ctx blk 128 with
    | .bad s c a => .bad s c a
    | .hold => .hold
    | .ok s h =>
      let esize := fld h 8 5
      let rank := fld h 13 2 + 1
      let npart := fld h 32 12 + 1
      let ext (i : Nat) : Nat := if i < 2 then fld h (64 + 32 * i) 32 else fld h 128 32
      let total := ext 0 * ext 1 * ext 2 * esize
      let block := total / npart
      let span := if fld h 384 20 = 0xFFFFF then 1048576 else fld h 384 20
      let t0 : W64 := BitVec.ofNat 64 (fld h 320 64)
      checkList s [
        (0x01, fld h 15 17 != 0 || fld h 44 20 != 0 || fld h 160 32 != 0 || fld h 404 44 != 0 || fld h 464 560 != 0 || fld h 0 8 != 1
          || esize == 0 || decide (16 < esize) || decide (3 < rank) || npart == 1 || (decide (rank < 3) && ext 2 != 1) || span == 0
          || !decompOk (fld h 192 64) npart rank ext || !decompOk (fld h 256 64) npart rank ext
          || total % npart != 0 || block % 64 != 0 || decide (npart ≤ part))]
        (let check (i : Nat) (p : Part) : Bool :=
          p.resOk && p.nin != 0 && p.nout != 0 && (if p.epv then epOk p.ep else p.pkg == s.pkg && decide (p.ltile < size))
            && (i != part || (p.pkg == s.pkg && (!p.epv || p.ep == endpointOf s.pkg t)))
        match s.readParts (dieOf t) x.ctx blk check npart 0 [] with
        | .bad s c a => .bad s c a
        | .hold => .hold
        | .ok s parts =>
          let own := parts.getD part (partOf 0)
          let g : SwgCtx := { npart := npart, parts := parts, block := block, sbase := sbase, t0 := t0, span := span,
                              tag := BitVec.ofNat 16 (fld h 448 16) }
          match s.readTable t g (BitVec.ofNat 64 own.sched) own.nout 0 0 [] with
          | .bad s c a => .bad s c a
          | .hold => .hold
          | .ok s trs =>
            let b := x.sync.block[own.ablk % 16]'(by omega)
            checkList s [
              (0x01, trs.foldl (fun n tr => n + tr.flits) 0 * 64 != block),
              (0x0B, decide (t0.toNat < (c.checkAt.getD s.fcc).toNat + 64 + (own.nout + 1) / 2) || !b.registered || decide (b.len < block)
                || b.expect != own.nin)]
              (.ok s { c with started := true, transfers := trs, promise := t0 + BitVec.ofNat 64 span }))))

/-- Start checks of rtree (R341). -/
def State.checkRtree (s : State) (t : TileNo) (c : SendCmd) : Checked State SendCmd :=
  let x := s.tile t
  let w := xcOf c.word
  let d := c.desc.toNat
  let tree := BitVec.ofNat 4 (fld d 0 4)
  let count := fld d 4 10 + 1
  let soff := fld d 64 21
  let doff := fld d 96 21
  let node := s.leafNode t tree
  let es := match node with | some (_, e, _) => if fld e 4 2 = 1 then 2 else 4 | none => 4
  let flits := (count * es + 63) / 64
  let lat := (s.fabric.trees.findSome? fun y =>
    if fld y.2.toNat 0 4 == tree.toNat && fld y.2.toNat 6 1 == 1 then some (fld y.2.toNat 64 16) else none).getD 0
  let dep := s.fcc + BitVec.ofNat 64 flits
  checkList s (offsetBad x.tx.xp[w.desc.toNat]) (checkList s [
    (0x01, fld d 18 46 != 0 || fld d 85 11 != 0 || fld d 117 11 != 0 || fld d 144 368 != 0 || decide (spadSize < soff + count * es)),
    (0x05, soff % 64 != 0 || doff % 64 != 0),
    (0x0B, node.isNone)]
    (.ok s { c with
      started := true, soff := soff, promise := dep + BitVec.ofNat 64 lat,
      tree := some (tree, count, BitVec.ofNat 4 (fld d 14 4), doff, BitVec.ofNat 16 (fld d 128 16), dep) }))

/-! ## recv and yclr (R327, R328) -/

/-- Start checks of recv and what it registers in t0 + 1. -/
def Tile.checkRecv (t : Tile) (c : RecvCmd) : Checked Tile Unit :=
  let w := xcOf c.word
  let d := c.desc.toNat
  let n := fld d 0 4
  let base := fld d 21 21
  let size := fld d 64 22
  let expect := fld d 96 16
  let old := t.sync.block[n % 16]'(by omega)
  let others := (List.finRange 16).any fun i =>
    let b := t.sync.block[i]
    i.val != n && b.registered && decide (b.base < base + size) && decide (base < b.base + b.len)
  checkList t (offsetBad t.rx.yp[w.desc.toNat]) (checkList t [
    (0x01, fld d 4 17 != 0 || fld d 42 22 != 0 || fld d 86 10 != 0 || fld d 112 400 != 0 || decide (size < 64)
      || decide (0x1FF000 < size) || expect == 0),
    (0x05, base % 64 != 0 || size % 64 != 0),
    (0x0C, decide (0x1FF000 < base + size)),
    (0x0B, others || (old.registered && decide ((t.sync.flag[n % 16]'(by omega)).toNat < old.expect)))]
    (.ok { t with sync := { t.sync with
      block := t.sync.block.set (n % 16) { registered := true, base := base, len := size, expect := expect, tag := 0 } (by omega)
      flag := t.sync.flag.set (n % 16) 0 (by omega) } } ()))

/-- yclr: the block is unregistered and its flag cleared, if it was registered. -/
def Tile.clearBlock (t : Tile) (n : BitVec 4) : Tile :=
  if (t.sync.block[n.toNat]).registered then
    { t with sync := { t.sync with
      block := t.sync.block.set n.toNat { registered := false, base := 0, len := 0, expect := 0, tag := 0 }
      flag := t.sync.flag.set n.toNat 0 } }
  else t

/-! ## Progress and raise points of the send and receive strands -/

/-- A command of the send strand whose check failed: nothing is sent, the await is back, and the fault is precise in the strand. -/
def State.failSend (s : State) (t : TileNo) (c : SendCmd) (sub : Nat) (addr : W64) : State :=
  let x := s.tile t
  let x' := { x with tx := { x.tx with cmd := none, seq := x.tx.seq - 1 } }.raise (xcOf c.word).await
  (s.setTile t x').raiseOn t .send { code := cCommandFault, sub := sub, faddr := addr } c.pc

def State.failRecv (s : State) (t : TileNo) (c : RecvCmd) (sub : Nat) : State :=
  let x := s.tile t
  let x' := { x with rx := { x.rx with cmd := none, seq := x.rx.seq - 1 } }.raise (xcOf c.word).await
  (s.setTile t x').raiseOn t .receive { code := cCommandFault, sub := sub } c.pc

/-- The send strand's command in t0 + 1: its checks.  Later: its raise point, in the TC after its last flit departs. -/
def State.advanceSend (s : State) (t : TileNo) : State :=
  let x := s.tile t
  match x.tx.cmd with
  | none => s
  | some c =>
    if !c.started then
      if c.t0.ult x.tcc then
        let c := { c with checkAt := some (c.checkAt.getD s.fcc) }
        match (match (xcOf c.word).op with | 1 => s.checkSend t c | 2 => s.checkSwg t c | _ => s.checkRtree t c) with
        | .hold => s.setTile t { x with tx := { x.tx with cmd := some c } }
        | .bad s sub addr => s.failSend t c sub addr
        | .ok s c' =>
          { s.setTile t ({ x with tx := { x.tx with cmd := some c' } }.finishHead .send) with
            fabric := { s.fabric with nextXfer := s.fabric.nextXfer + c'.transfers.length } }
      else s
    else
      match c.lastFc with
      | some l =>
        if l.ult s.fcc && !c.raised then
          let x := { x with tx := { x.tx with cmd := some { c with raised := true },
                                              promise := if x.tx.promise.ult c.promise then c.promise else x.tx.promise } }
          s.setTile t ((x.raise (xcOf c.word).rise).pendingSigs .send)
        else s
      | none => s

/-- The receive strand's command: checks and effect in t0 + 1, raise point in t0 + 2. -/
def State.advanceRecv (s : State) (t : TileNo) : State :=
  let x := s.tile t
  match x.rx.cmd with
  | none => s
  | some c =>
    let w := xcOf c.word
    if !c.started then
      if c.t0.ult x.tcc then
        match (if w.op = 1 then x.checkRecv c else .ok (x.clearBlock w.desc) ()) with
        | .hold => s
        | .bad _ sub _ => s.failRecv t c sub
        | .ok x' _ => s.setTile t ({ x' with rx := { x'.rx with cmd := some { c with started := true } } }.finishHead .receive)
      else s
    else if !c.raised && (c.t0 + 2).ule x.tcc then
      let x := { x with rx := { x.rx with cmd := some { c with raised := true } } }
      s.setTile t ((x.raise w.rise).pendingSigs .receive)
    else s

/-- COMMAND_RAISE: the command of a strand reaches its raise point; the send and receive strands make their start checks here in the TC
after the start. -/
def execCommandRaise (t : TileNo) (k : Strand) (s : State) : Out :=
  .next (
    match k with
    | .matrix => s.modTile t (·.raiseMatrix)
    | .transform => s.modTile t (·.raiseTransform)
    | .send => s.advanceSend t
    | .receive => s.advanceRecv t
    | _ => s)

/-- At the end of a TC, commands past their raise points leave: their strands' next commands start no earlier than the next TC. -/
def Tile.dropRaised (t : Tile) : Tile :=
  { t with xf := { t.xf with cmd := t.xf.cmd.filter fun c => !c.raised }
           tx := { t.tx with cmd := t.tx.cmd.filter fun c => !c.raised }
           rx := { t.rx with cmd := t.rx.cmd.filter fun c => !c.raised } }

/-! ## Slot conflicts (R331) -/

/-- One more flit of a transfer has ended: landed, or spoiled when it was refused or discarded (R329). -/
def Fabric.ended (f : Fabric) (xfer : Nat) (bad : Bool) : Fabric :=
  match f.arrivals.find? fun a => a.xfer == xfer with
  | some a => { f with arrivals := f.arrivals.map fun b => if b.xfer == xfer then { a with landed := a.landed + 1, spoiled := a.spoiled || bad } else b }
  | none => { f with arrivals := f.arrivals ++ [{ xfer := xfer, landed := 1, spoiled := bad }] }

/-- The transfer's flits have all ended. -/
def Fabric.settle (f : Fabric) (xfer count : Nat) : Fabric :=
  { f with arrivals := f.arrivals.filter fun a => !(a.xfer == xfer && decide (count ≤ a.landed)) }

/-- A flit loses a slot it is offered: another flit is offered the same slot by a lower-numbered input, or by the same input and
departed earlier. -/
def losesSlot (all : List (Nat × Flit)) (now : W64) (i : Nat) (f : Flit) : Bool :=
  f.slots.any fun p => p.1.ult now && all.any fun x =>
    x.1 != i && x.2.slots.any fun q => q.1 == p.1 && q.2.1 == p.2.1 && (decide (q.2.2 < p.2.2) || (q.2.2 == p.2.2 && decide (x.1 < i)))

/-- Resolve the slots of fabric cycles before this one: the losers are discarded and recorded for their senders. -/
def State.resolveSlots (s : State) : State :=
  let all := s.fabric.flits.zipIdx.map fun x => (x.2, x.1)
  let lost := all.filter fun x => losesSlot all s.fcc x.1 x.2
  let kept := (all.filter fun x => !losesSlot all s.fcc x.1 x.2).map fun x =>
    { x.2 with slots := x.2.slots.filter fun p => !p.1.ult s.fcc }
  let s := { s with fabric := { s.fabric with flits := kept } }
  lost.foldl (fun s x =>
    let s := { s with fabric := (s.fabric.ended x.2.xfer true).settle x.2.xfer x.2.count }
    s.asyncRecord x.2.srcCtx cCommandFault 0x0B x.2.src 0) s

/-! ## Departure (R322, R326) -/

/-- The 640 bits of a flit as it crosses a port: header, payload as the virtual channel protects it, and integrity tag (R425). -/
def State.sealFlit (s : State) (port : Fin 16) (vc : Nat) (fc : W64) (slot : Bool) (header : W64) (payload : BitVec 512) : BitVec 640 :=
  let p := s.ports[port]
  let body := if p.same && p.gmac.getLsbD vc then payload else Config.cipher port.val fc slot payload
  Config.integrityTag port.val fc slot (body ++ header) ++ (body ++ header)

/-- One flit departs from tile `t`: its source bytes are read, and its slots taken; one for another package is offered
to its port in its optical slot. -/
def State.departFlit (s : State) (t : TileNo) (x : Transfer) : State :=
  let k := x.sent
  let tile := s.tile t
  let data := BitVec.ofNat 512 (tile.spad.readN (x.soff + k / x.runLen * x.sstride + k % x.runLen * 64) 64)
  let f : Flit :=
    { xfer := x.id, index := k, count := x.flits, src := t.val, srcCtx := tile.ctx, dstPkg := x.dstPkg, dstDie := x.dstDie
      dstTile := x.dstTile, block := x.block, doff := x.doff, tag := x.tag, len := 64, data := data
      land := s.fcc + BitVec.ofNat 64 x.lat, slots := s.slotsOf t x s.fcc }
  { s with fabric := { s.fabric with flits := s.fabric.flits ++ [f] } }

/-- The flit that an outward slot of a port carries in this FC: of those offered it, the one by the lowest-numbered input (R331). -/
def State.opticalFlit (s : State) (n : Nat) (psub : Nat) : Option Flit :=
  let offer (f : Flit) : Option (Nat × Flit) :=
    (f.slots.find? fun p => p.1 == s.fcc && p.2.1 == Link.optical n psub).map fun p => (p.2.2, f)
  ((s.fabric.flits.filterMap offer).foldl (fun (acc : Option (Nat × Flit)) x => match acc with
    | none => some x
    | some y => if x.1 < y.1 then some x else some y) none).map fun x => x.2

/-- The header of a flit as it crosses a port: one that has come from another package keeps its own. -/
def Flit.header (f : Flit) : W64 :=
  f.head.getD (Config.flitHeader (BitVec.ofNat 18 (f.dstPkg.toNat * 4096 + f.dstDie.toNat * 256 + f.dstTile)) f.block
    (BitVec.ofNat 21 f.doff) f.tag f.index f.count)

/-- Every transfer of a command whose flit departs in this FC. -/
def State.departAll (s : State) (t : TileNo) : List Transfer → State × List Transfer
  | [] => (s, [])
  | x :: rest =>
    if x.sent < x.flits && (x.depart + BitVec.ofNat 64 x.sent).ule s.fcc then
      let r := (s.departFlit t x).departAll t rest
      (r.1, { x with sent := x.sent + 1 } :: r.2)
    else
      let r := s.departAll t rest
      (r.1, x :: r.2)

/-- Widen a contribution's elements to FP32. -/
def widenTree (op : Nat) (m : Memory) (soff count : Nat) : List W32 :=
  (List.range count).map fun i =>
    if op = 1 then BitVec.ofNat 32 (m.readN (soff + 2 * i) 2 * 65536) else BitVec.ofNat 32 (m.readN (soff + 4 * i) 4)

def State.modFabric (s : State) (f : Fabric → Fabric) : State := { s with fabric := f s.fabric }

/-- The leaves of a tree in this package. -/
def State.treeLeaves (s : State) (tree : BitVec 4) : List TileNo :=
  (s.fabric.trees.filter fun x => fld x.2.toNat 0 4 == tree.toNat).flatMap fun x =>
    (List.range (treeKids x.2.toNat)).filterMap fun i => s.epTileNo (treeChild x.2.toNat i)

/-- A COUNT mismatch ends a round: no leaf receives a result, and every leaf has a record (R341).  Contributions of the round that are still
to come are not taken. -/
def State.endRound (s : State) (tree : BitVec 4) (tag : BitVec 16) (leaves : List (TileNo × BitVec 4 × Nat × BitVec 6)) : State :=
  let mine (r : TreeRound) : Bool := r.tree == tree && r.tag == tag
  let came := (leaves ++ (s.fabric.rounds.filter mine).flatMap fun r => r.leaves).map fun l => l.1
  let all := s.treeLeaves tree
  let waiting := all.filter fun t => !came.contains t
  let fab := { s.fabric with
    rounds := s.fabric.rounds.filter fun r => !mine r
    brokenRounds := (if waiting.isEmpty then [] else [(tree, tag, waiting)]) ++ s.fabric.brokenRounds }
  all.foldl (fun (s : State) t =>
    let x := s.tile t
    if x.phase == .idle || x.phase == .off then s else s.asyncRecord x.ctx cCommandFault 0x01 t.val 0 Strand.send.pos (fld x.sys.ltile.toNat 0 12))
    { s with fabric := fab }

/-- A contribution reaches a round of a node; `last` is the departure of the last one in it, `nodes` the nodes of other packages whose values
it holds. -/
def State.contribute (s : State) (tree : BitVec 4) (node : Nat) (tag : BitVec 16) (count child : Nat) (v : List W32)
    (leaves : List (TileNo × BitVec 4 × Nat × BitVec 6)) (last : W64) (nodes : List Nat) : State :=
  let mine (r : TreeRound) : Bool := r.tree == tree && r.node == node && r.tag == tag && !(r.parts.any fun p => p.1 == child)
  let late (t : TileNo) : Bool := s.fabric.brokenRounds.any fun e => e.1 == tree && e.2.1 == tag && e.2.2.contains t
  if leaves.any fun l => late l.1 then
    let e := s.fabric.brokenRounds.map fun e => if e.1 == tree && e.2.1 == tag then (e.1, e.2.1, e.2.2.filter fun t => !leaves.any fun l => l.1 == t) else e
    { s with fabric := { s.fabric with brokenRounds := e.filter fun e => !e.2.2.isEmpty } }
  else if s.fabric.rounds.any fun r => mine r && r.count != count then s.endRound tree tag leaves
  else if s.fabric.rounds.any mine then
    let join (r : TreeRound) : TreeRound :=
      { r with parts := r.parts ++ [(child, v)], leaves := r.leaves ++ leaves, nodes := r.nodes ++ nodes
               last := if r.last.ult last then last else r.last }
    s.modFabric fun f => { f with rounds := f.rounds.map fun r => if mine r then join r else r }
  else
    { s with fabric := { s.fabric with rounds := s.fabric.rounds ++
      [{ tree := tree, node := node, tag := tag, count := count, parts := [(child, v)], leaves := leaves, last := last, nodes := nodes }] } }

/-- FLIT_DEPART: the slots of the fabric cycles before this one are resolved; then every flit of tile `t` that departs in this FC does,
and so does a tree contribution. -/
def execFlitDepart (t : TileNo) (s : State) : Out :=
  .next (
    let s := s.resolveSlots
    match (s.tile t).tx.cmd with
    | none => s
    | some c =>
      if !c.started || c.raised || c.lastFc.isSome then s
      else
        match c.tree with
        | some (tree, count, blk, doff, tag, dep) =>
          if s.fcc.ult dep then s
          else
            let x := s.tile t
            match s.leafNode t tree with
            | none => s.setTile t { x with tx := { x.tx with cmd := some { c with lastFc := some s.fcc } } }
            | some (node, e, child) =>
              (s.setTile t { x with tx := { x.tx with cmd := some { c with lastFc := some s.fcc } } }).contribute tree node tag count child
                (widenTree (fld e 4 2) x.spad c.soff count) [(t, blk, doff, x.ctx)] s.fcc []
        | none =>
          let r := s.departAll t c.transfers
          let x := r.1.tile t
          match x.tx.cmd with
          | none => r.1
          | some _ =>
            let done := r.2.all fun y => y.flits ≤ y.sent
            r.1.setTile t { x with tx := { x.tx with cmd := some { c with transfers := r.2, lastFc := if done then some s.fcc else none } } })

/-! ## Landing (R329) -/

/-- The name of a flit in the table's step: its transfer and its index. -/
def Flit.key (f : Flit) : Nat := f.xfer * 65536 + f.index

/-- The flag of a block rises and its tag is set. -/
def Tile.countTransfer (t : Tile) (b : BitVec 4) (tag : BitVec 16) : Tile :=
  { t with sync := { t.sync with
    flag := t.sync.flag.set b.toNat (satAdd16 t.sync.flag[b.toNat] 1)
    block := t.sync.block.set b.toNat { t.sync.block[b.toNat] with tag := tag } } }

/-- A flit ends at its destination; with the last of its transfer, none spoiled, the transfer is counted. -/
def State.endFlit (s : State) (f : Flit) (bad : Bool) : State :=
  let fab := s.fabric.ended f.xfer bad
  let full := fab.arrivals.any fun a => a.xfer == f.xfer && decide (f.count ≤ a.landed) && !a.spoiled
  let s := { s with fabric := (fab.settle f.xfer f.count) }
  let s := { s with fabric := { s.fabric with flits := s.fabric.flits.eraseP fun g => g.key == f.key } }
  match if full then tileOf? (f.dstDie.toNat * 160 + f.dstTile) else none with
  | some t => s.modTile t fun x => x.countTransfer f.block f.tag
  | none => s

/-- FLIT_LANDING: a flit whose landing is due is written into its arrival block, or refused; one for another package is gone. -/
def execFlitLanding (i : Nat) (s : State) : Out :=
  .next (
    match s.fabric.flits.find? fun f => f.key == i && f.land.ule s.fcc with
    | none => s
    | some f =>
      if f.dstPkg != s.pkg then { s with fabric := { s.fabric with flits := s.fabric.flits.filter fun g => g.key != f.key } }
      else match tileOf? (f.dstDie.toNat * 160 + f.dstTile) with
        | none => s.endFlit f true
        | some t =>
          let x := s.tile t
          let b := x.sync.block[f.block.toNat]
          let first := b.base + f.doff + 64 * f.index
          let live := x.phase == .running || x.phase == .trapped
          if live && b.registered && decide (f.doff + 64 * f.index + f.len ≤ b.len) then
            if x.claimed first f.len then s
            else (s.setTile t { x with spad := x.spad.writeN first f.len f.data.toNat }).endFlit f false
          else
            let c := if x.phase == .idle || x.phase == .off then f.srcCtx else x.ctx
            (s.asyncRecord c cCommandFault 0x0B t.val 0).endFlit f true)

/-! ## Reduction trees (R340, R341) -/

/-- Combine two values. -/
def treeCombine (op : Nat) (v x : W32) : W32 :=
  let a := Num.decode Num.fp32 v.toNat
  let b := Num.decode Num.fp32 x.toNat
  let r := match op with
    | 2 => Num.maxNum a b
    | 3 => Num.minNum a b
    | _ => (Num.add .rne a b).1
  BitVec.ofNat 32 (Num.round Num.fp32 .rne false r).1

/-- The element values of a node: its children's, in combination order. -/
def treeValue (op kids count : Nat) (parts : List (Nat × List W32)) : List W32 :=
  let child (i : Nat) : List W32 := ((parts.find? fun p => p.1 == i).map fun p => p.2).getD []
  (List.range count).map fun j =>
    (List.range (kids - 1)).foldl (fun v i => treeCombine op v ((child (i + 1)).getD j 0)) ((child 0).getD j 0)

/-- The bytes of a result. -/
def treeBytes (op : Nat) (v : List W32) : List Byte :=
  v.flatMap fun x =>
    if op = 1 then toBytes 2 (Num.round Num.bf16 .rne false (Num.decode Num.fp32 x.toNat)).1 else toBytes 4 x.toNat

/-- The flits of a result for one leaf, landing in FC `land`. -/
def State.resultFlits (s : State) (xfer : Nat) (tag : BitVec 16) (bytes : List Byte) (land : W64)
    (l : TileNo × BitVec 4 × Nat × BitVec 6) : List Flit :=
  let n := (bytes.length + 63) / 64
  (List.range n).map fun k =>
    let part := (bytes.drop (64 * k)).take 64
    { xfer := xfer, index := k, count := n, src := l.1.val, srcCtx := l.2.2.2, dstPkg := s.pkg, dstDie := BitVec.ofNat 3 (dieOf l.1)
      dstTile := l.1.val % 160, block := l.2.1, doff := l.2.2.1, tag := tag, len := part.length, data := BitVec.ofNat 512 (ofBytes part)
      land := land, slots := [] }

/-- The number of a node: its die's fabric interface, or 4 for the hub. -/
def nodeOfEp (e : Nat) : Nat := fld e 8 3

/-- The endpoint of a node of this package. -/
def State.nodeEp (s : State) (d : Nat) : Nat := s.pkg.toNat * 4096 + d * 256 + 255

/-- The offset field of a flit between tree nodes: the sending node, COUNT − 1, and whether it is a result (DESIGN CHOICE, log entry 87). -/
def treeOffset (from_ count : Nat) (result : Bool) : Nat :=
  packFields [(3, nodeOfEp from_), (6, from_ / 4096), (10, count - 1), (1, result.toNat)]

/-- Bytes go to a node of another package as flits of the scheduled plane (R339, R340). -/
def State.treeSend (s : State) (d : Nat) (dest : Nat) (tree : BitVec 4) (tag : BitVec 16) (count : Nat) (result : Bool) (bytes : List Byte) :
    State :=
  let n := (bytes.length + 63) / 64
  let fs := (List.range n).map fun k =>
    (Config.flitHeader (BitVec.ofNat 18 dest) tree (BitVec.ofNat 21 (treeOffset (s.nodeEp d) count result)) tag k n,
      BitVec.ofNat 512 (ofBytes ((bytes.drop (64 * k)).take 64)))
  s.sendFlits d (epPkg dest) (epDie dest) 0 fs

/-- A result goes to the leaves and to the nodes of other packages that contributed to a round. -/
def State.deliverTree (s : State) (r : TreeRound) (bytes : List Byte) (land : W64) : State :=
  let fl := r.leaves.zipIdx.flatMap fun l => s.resultFlits (s.fabric.nextXfer + l.2) r.tag bytes land l.1
  let s := { s with fabric := { s.fabric with flits := s.fabric.flits ++ fl, nextXfer := s.fabric.nextXfer + r.leaves.length } }
  r.nodes.foldl (fun (s : State) n => s.treeSend r.node n r.tree r.tag r.count true bytes) s

/-- The entry of a node for a tree. -/
def State.treeEntry (s : State) (node : Nat) (tree : BitVec 4) : Option Nat :=
  (s.fabric.trees.find? fun x => x.1 == node && fld x.2.toNat 0 4 == tree.toNat).map fun x => x.2.toNat

/-- A node holds two incomplete rounds of a tree, and neither is this one (R341). -/
def State.nodeFull (s : State) (node : Nat) (tree : BitVec 4) (tag : BitVec 16) : Bool :=
  let rs := s.fabric.rounds.filter fun r => r.tree == tree && r.node == node
  decide (2 ≤ rs.length) && rs.all fun r => r.tag != tag

/-- TREE_NODE_COMBINE: a node whose round holds every child's contribution combines them; the root sends the result to the leaves, so that
it lands LAT after the last contribution's departure, and any other node passes it to its parent, once that has room for the round. -/
def execTreeNodeCombine (tree : BitVec 4) (d : BitVec 3) (s : State) : Out :=
  .next (
    match s.treeEntry d.toNat tree with
    | none => s
    | some e =>
      let kids := treeKids e
      let ready (r : TreeRound) : Bool := r.tree == tree && r.node == d.toNat && decide (kids ≤ r.parts.length)
      match s.fabric.rounds.find? ready with
      | none => s
      | some r =>
        let gone := { s with fabric := { s.fabric with rounds := s.fabric.rounds.eraseP fun q => ready q && q.tag == r.tag } }
        let op := fld e 4 2
        let v := treeValue op kids r.count r.parts
        if fld e 6 1 = 1 then
          let due := r.last + BitVec.ofNat 64 (fld e 64 16)
          gone.deliverTree r (treeBytes op v) (if due.ult s.fcc then s.fcc else due)
        else
          let parent := fld e 24 18
          if epPkg parent != s.pkg then
            (gone.treeSend d.toNat parent tree r.tag r.count false (v.flatMap fun x => toBytes 4 x.toNat)).modFabric fun f =>
              { f with sentUp := f.sentUp ++ [r] }
          else
            let pn := nodeOfEp parent
            match s.treeEntry pn tree with
            | none => gone
            | some pe =>
              match (List.range (treeKids pe)).find? fun i => treeChild pe i == s.nodeEp d.toNat with
              | none => gone
              | some child =>
                if s.nodeFull pn tree r.tag then s
                else gone.contribute tree pn r.tag r.count child v r.leaves r.last r.nodes)

/-- A whole message for a node of this package has come from a node of another: a child's value, or the result of a round (R339, R340). -/
def State.treeMessage (s : State) (node : Nat) (tree : BitVec 4) (tag : BitVec 16) (off : Nat) (bytes : List Byte) : State :=
  let sender := fld off 3 6 * 4096 + fld off 0 3 * 256 + 255
  let count := fld off 9 10 + 1
  match s.treeEntry node tree with
  | none => s
  | some e =>
    if fld off 19 1 = 1 then
      match s.fabric.sentUp.find? fun r => r.tree == tree && r.node == node && r.tag == tag with
      | none => s
      | some r =>
        let es := if fld e 4 2 = 1 then 2 else 4
        (s.modFabric fun f => { f with sentUp := f.sentUp.eraseP fun q => q.tree == tree && q.node == node && q.tag == tag }).deliverTree r
          (bytes.take (es * count)) (s.fcc + 1)
    else
      match (List.range (treeKids e)).find? fun i => treeChild e i == sender with
      | none => s
      | some child =>
        let v := (List.range count).map fun j => BitVec.ofNat 32 (ofBytes ((bytes.drop (4 * j)).take 4))
        s.contribute tree node tag count child v [] s.fcc [sender]

/-- A flit for a tree node arrives from another package: its message is whole once every index has come. -/
def State.treeFlit (s : State) (h : W64) (b : BitVec 512) : State :=
  let key (x : W64) := let r := Config.readFlitHeader x; (r.1, r.2.1, r.2.2.1, r.2.2.2.1)
  let index (x : W64) : Nat := (Config.readFlitHeader x).2.2.2.2.1
  let (dep, block, off, tag, _, count) := Config.readFlitHeader h
  let all := (h, b) :: s.fabric.inTree
  let mine := all.filter fun x => key x.1 == key h
  if (List.range count).all fun i => mine.any fun x => index x.1 == i then
    let bytes := (List.range count).flatMap fun i =>
      toBytes 64 (((mine.find? fun (x : W64 × BitVec 512) => index x.1 == i).map fun (x : W64 × BitVec 512) => x.2).getD 0).toNat
    (s.modFabric fun f => { f with inTree := all.filter fun x => key x.1 != key h }).treeMessage (nodeOfEp dep.toNat) block tag off.toNat bytes
  else s.modFabric fun f => { f with inTree := all }

end Sys2Proof.Machine
end

