-- ==== Sys2Proof/Machine/Queue.lean ====
section
/-!
DEFINITION. User-mode queues and the Hearth's queue readers (12_queue.md R278-R306): the queue page, taking packets, LAYOUT, QFENCE,
SIGNAL and COPY, signals, slot rings (15_barrier.md R344, R345) and qpost (05_control.md R128).
-/
namespace Sys2Proof.Machine
open Sys2Proof

/-! ## The Hearth's accesses -/

/-- A location that only barrier operations and posts write: of a barrier region, or on a BAR page (Table 15-5). -/
def barrierPlace (p : Phys) : Bool := p.bar || barrierWindow p.die p.pa.toNat

/-- The tile window that an address lies in: the tile and the offset. -/
def State.windowOf (s : State) (p : Phys) : Option (TileNo × Nat) := if p.pkg == s.pkg then windowTile p.die p.pa.toNat else none

/-- The bytes lie in a bank group of a tile window that is claimed (R34, R366). -/
def State.claimedAt (s : State) (p : Phys) (n : Nat) : Bool :=
  match s.windowOf p with
  | some (t, off) => (s.tile t).claimed off n
  | none => false

/-- `n` bytes at a location can be reached now by an agent of die `src`: they exist and their frame is what the page says (R362), the path
to them carries traffic (R413), and neither a frame command, a move nor a claim holds them. -/
def State.canReach (s : State) (src : Nat) (p : Phys) (n : Nat) (va : W64) : Checked Unit Unit :=
  match s.pathDown src p with
  | some true => .bad () cRemoteUnreachable va
  | some false => .hold
  | none =>
    if (windowAt p.die p.pa.toNat).isNone && (!s.inMemory p.pkg p.die p.pa.toNat n || p.cmp != s.frameCmp p.pkg p.die p.pa.toNat) then
      .bad () cRemoteUnreachable va
    else if s.frameHeld p || s.claimedAt p n then .hold
    else .ok () ()

/-- An access that has met a tile window that is not open to its context makes a record (R366). -/
def State.closedRecord (s : State) (c : BitVec 6) (p : Phys) (va : W64) : State :=
  match s.windowOf p with
  | some (t, _) => if (s.tile t).windowOpen c then s else s.asyncRecord c cPermission 0 t.val va
  | none => s

/-- The die that the Hearth's accesses leave from: the hub. -/
def hubDie : Nat := 4

/-- Read `n` bytes for the Hearth. -/
def State.hRead (s : State) (c : BitVec 6) (va : W64) (n : Nat) : Checked State Nat := s.readVa hubDie c va n

/-- Read `n` bytes from `va`, in parts that do not cross a 64-byte boundary, where COMPRESSED frames are decoded: as copy engines, the
sequencer, dispatch and the firmware read (R367). -/
def State.span (s : State) (c : BitVec 6) (want : Want) (va : W64) : Nat → Nat → Checked State (List Byte)
  | 0, _ => .ok s []
  | _, 0 => .ok s []
  | fuel + 1, n =>
    let len := min n (64 - va.toNat % 64)
    match s.translate c va want true with
    | .error x => .bad s x va
    | .ok p =>
      match s.canReach hubDie p len va with
      | .hold => .hold
      | .bad _ x a => .bad s x a
      | .ok _ _ =>
        match (s.closedRecord c p va).span c want (va + BitVec.ofNat 64 len) fuel (n - len) with
        | .ok s' rest => .ok s' ((List.range len).map (fun i => s.rdC c { p with pa := p.pa + BitVec.ofNat 52 i }) ++ rest)
        | e => e

/-- An operation of the Hearth at an address: a barrier word is never written so (R306, Table 15-5). -/
def State.hAccess (s : State) (c : BitVec 6) (va : W64) (a : HomeOp) : Checked State Nat :=
  match s.translate c va .write false with
  | .error x => .bad s x va
  | .ok p =>
    if barrierPlace p then .bad s cBarrierRegion va
    else match s.pathDown hubDie p with
      | some true => .bad s cRemoteUnreachable va
      | some false => .hold
      | none =>
        match s.homeOp c p.pkg p.die p.pa.toNat a with
        | .ok r => .ok r.1 r.2
        | .hold => .hold
        | .refuse x => .bad s x va

/-- Write `n` bytes for the Hearth. -/
def State.hWrite (s : State) (c : BitVec 6) (va : W64) (n v : Nat) : Checked State Nat := s.hAccess c va (.write n v)

/-- An atomic of the Hearth or of a control strand: the state and the old value. -/
def State.hAtomic (s : State) (c : BitVec 6) (va : W64) (a : Atomic) : Checked State Nat := s.hAccess c va (.atomic a)

/-! ## Queue state and STATUS (R282, R284) -/

def State.queue (s : State) (q : BitVec 10) : Queue := s.queues[q.toNat]

/-- Queues of a context may be read, and its launches bound (Table 11-1). -/
def State.ctxLive (s : State) (c : BitVec 6) : Bool := (s.ctx c).phase == .live

def queueCode : QueuePhase → Nat
  | .dead => 0 | .active => 1 | .paused => 2 | .draining => 3

/-- STATUS (Table 12-3). -/
def Queue.status (x : Queue) : Nat :=
  packFields [(2, queueCode x.phase), (6, 0), (8, x.err.toNat), (8, x.cause.toNat), (8, 0), (32, x.pkt.toNat)]

/-- An error of a packet or of an access pauses an ACTIVE queue with ERR, CAUSE and PKT; in another state the event is not listed and leaves
the queue as it is (R284). -/
def Queue.fail (x : Queue) (err cause : Nat) (pkt : W32) : Queue :=
  if x.phase == .active then { x with phase := .paused, err := BitVec.ofNat 8 err, cause := BitVec.ofNat 8 cause, pkt := pkt } else x

/-- The registers of a queue alone. -/
def State.setQueue (s : State) (q : BitVec 10) (x : Queue) : State := { s with queues := s.queues.set q.toNat x }

/-- A write waits. -/
def State.owe (s : State) (w : OwedWrite) : State := { s with owed := s.owed ++ [w] }

/-- Write the copy of STATUS in a control block: later while it is held; where it fails the queue pauses (R278). -/
def State.writeStatus (s : State) (q : Option (BitVec 10)) (c : BitVec 6) (va : W64) (v : Nat) : State :=
  match s.hWrite c va 8 v with
  | .ok s' _ => s'
  | .hold => s.owe (.status q c va v)
  | .bad s' x _ => match q with
    | some q => s'.setQueue q ((s'.queue q).fail 0x07 x (s'.queue q).progIdx)
    | none => s'

/-- Change a queue; a change of STATUS is copied to its control block (R278). -/
def State.putQueue (s : State) (q : BitVec 10) (x : Queue) : State :=
  let old := s.queue q
  let s := s.setQueue q x
  if old.status == x.status || x.qcb == 0 then s
  else
    let mine (w : OwedWrite) : Bool := match w with | .status p _ _ _ => p == some q | _ => false
    ({ s with owed := s.owed.filter fun w => !mine w } : State).writeStatus (some q) x.ctx (x.qcb + 0x20) x.status

def State.modQueue (s : State) (q : BitVec 10) (f : Queue → Queue) : State := s.putQueue q (f (s.queue q))

/-- An access for the packet at index `i` of a queue failed: ERR 0x07. -/
def State.accessFault (s : State) (q : BitVec 10) (cause : Nat) (i : W32) : State := s.modQueue q fun x => x.fail 0x07 cause i

/-- An access for the packet that a queue took last failed (its index is PKT also where no packet is in progress: DESIGN CHOICE, log
entry 89). -/
def State.queueFault (s : State) (q : BitVec 10) (cause : Nat) : State := s.accessFault q cause (s.queue q).progIdx

/-- Put steps before those the agents take next. -/
def State.next (s : State) (is : List Work) : State := { s with agenda := is ++ s.agenda }

/-! ## Signals (R306, R307) -/

/-- INT64_MIN + code. -/
def errorValue (code : Nat) : Nat := 2 ^ 63 + code

/-- A signal that names a word. -/
def sigNamed (v : W64) : Bool := v != 0 && v.toNat % 8 == 0

/-- A signal write that meets SHADOW-EXHAUSTED is discarded; a record goes to the context that owns the range (R378). -/
def State.shadowRecord (s : State) (c : BitVec 6) (va : W64) : State :=
  match s.translate c va .write false with
  | .error _ => s
  | .ok p => match s.rangeAt p.die.toNat p.pa.toNat with
    | some (o, _) => s.asyncRecord o cShadow 0 0 va
    | none => s

/-- A signal's write failed: a record, and the queue pauses. -/
def State.signalFault (s : State) (q : Option (BitVec 10)) (c : BitVec 6) (sig : W64) (cause : Nat) : State :=
  if cause = cShadow then s.shadowRecord c sig
  else
    let s := s.asyncRecord c cause 0 0 sig
    match q with
    | some q => s.queueFault q cause
    | none => s

/-- A write to the signal is still to be made. -/
def State.signalOwed (s : State) (c : BitVec 6) (sig : W64) : Bool :=
  s.owed.any fun w => match w with
    | .store _ d g _ => d == c && g == sig
    | .done _ d g => d == c && g == sig
    | _ => false

/-- Store an error value into a signal, behind the writes to it that wait. -/
def State.signalStore (s : State) (q : Option (BitVec 10)) (c : BitVec 6) (sig : W64) (v : Nat) : State :=
  if !sigNamed sig then s
  else if s.signalOwed c sig then s.owe (.store q c sig v)
  else match s.hWrite c sig 8 v with
    | .ok s' _ => s'
    | .hold => s.owe (.store q c sig v)
    | .bad s' x _ => s'.signalFault q c sig x

/-- Decrement a signal at completion, unless it holds an error value (R306). -/
def State.signalDone (s : State) (q : Option (BitVec 10)) (c : BitVec 6) (sig : W64) : State :=
  if !sigNamed sig then s
  else if s.signalOwed c sig then s.owe (.done q c sig)
  else match s.hRead c sig 8 with
    | .hold => s.owe (.done q c sig)
    | .bad s' x _ => s'.signalFault q c sig x
    | .ok s v =>
      if 2 ^ 63 ≤ v && decide (v < 2 ^ 63 + 256) then s
      else match s.hWrite c sig 8 ((v + 2 ^ 64 - 1) % 2 ^ 64) with
        | .ok s' _ => s'
        | .hold => s.owe (.done q c sig)
        | .bad s' x _ => s'.signalFault q c sig x

/-- The signal's write is held. -/
def State.signalHeld (s : State) (c : BitVec 6) (sig : W64) : Bool :=
  sigNamed sig && match s.hWrite c sig 8 0 with | .hold => true | _ => false

/-- A signal write of a queue's packets waits, or its RESET does: no later packet starts (R281). -/
def State.owes (s : State) (q : BitVec 10) : Bool :=
  s.owed.any fun w => match w with
    | .store p _ _ _ => p == some q
    | .done p _ _ => p == some q
    | .reset r => r == q
    | _ => false

/-- A signal write of a context waits. -/
def State.ctxOwes (s : State) (c : BitVec 6) : Bool :=
  s.owed.any fun w => match w with
    | .store _ d _ _ => d == c
    | .done _ d _ => d == c
    | _ => false

/-! ## Packets -/

def pktType (p : BitVec 512) : Nat := fld p.toNat 0 7
def pktWord (p : BitVec 512) (i : Nat) : W64 := p.extractLsb' (64 * i) 64
def pktSig (p : BitVec 512) : W64 := pktWord p 7

/-- A packet error (R288): the queue pauses with ERR, and SIG receives INT64_MIN + 0x82. -/
def State.packetError (s : State) (q : BitVec 10) (pkt : BitVec 512) (err : Nat) : State :=
  let x := s.queue q
  let s := s.putQueue q { x.fail err 0 x.progIdx with prog := none }
  if pktType pkt == 3 then s else s.signalStore (some q) x.ctx (pktSig pkt) (errorValue 0x82)

/-- The queue takes the packet that the Hearth hands it, or goes on with it where its check waited for memory. -/
def Queue.takes (x : Queue) (pkt : BitVec 512) : Bool := (x.phase == .active && x.prog.isNone) || x.prog == some (.taken pkt)

/-- The check of a packet waits for memory. -/
def State.takeLater (s : State) (q : BitVec 10) (pkt : BitVec 512) : State :=
  { s with queues := s.queues.set q.toNat { s.queue q with prog := some (.taken pkt) } }

/-- Checks in the order of R288: a reserved field or a value out of range, then a misaligned address. -/
def packetBad (reserved misaligned : Bool) : Option Nat := if reserved then some 0x02 else if misaligned then some 0x03 else none

/-! ## Looking at a queue (R280) -/

/-- Read READ and WRITE. -/
def State.indices (s : State) (x : Queue) : Checked State (Nat × Nat) :=
  match s.hRead x.ctx (x.qcb + 8) 8 with
  | .bad s c a => .bad s c a
  | .hold => .hold
  | .ok s r =>
    match s.hRead x.ctx x.qcb 8 with
    | .bad s c a => .bad s c a
    | .hold => .hold
    | .ok s w => .ok s (r, w)

/-- The address of slot `w`. -/
def Queue.slotAt (x : Queue) (w : Nat) : W64 := x.ring + BitVec.ofNat 64 (w % 2 ^ x.log2n * 64)

/-- The step that carries out a packet of a type. -/
def packetStep (q : BitVec 10) (pkt : BitVec 512) : Option Work :=
  match pktType pkt with
  | 1 => some (.dispatch q pkt)
  | 2 => some (.copy q pkt)
  | 3 => some (.layout q pkt)
  | 4 => some (.qfence q pkt)
  | 5 => some (.signalPacket q pkt)
  | 6 => some (.graph q pkt)
  | _ => none

/-- The slot at READ holds a valid packet: consume it. -/
def State.takeSlot (s : State) (q : BitVec 10) (x : Queue) (r : Nat) : State :=
  let i := BitVec.ofNat 32 r
  match s.hRead x.ctx (x.slotAt r) 64 with
  | .hold => s
  | .bad s c _ => s.accessFault q c i
  | .ok s0 body =>
    match s0.hWrite x.ctx (x.slotAt r) 8 0 with
    | .hold => s
    | .bad s c _ => s.accessFault q c i
    | .ok s1 _ =>
      match s1.hWrite x.ctx (x.qcb + 8) 8 ((r + 1) % 2 ^ 64) with
      | .hold => s
      | .bad s c _ => s.accessFault q c i
      | .ok s2 _ =>
        let pkt := BitVec.ofNat 512 body
        let s3 := s2.modQueue q fun y => { y with progIdx := i, prompted := false }
        if x.phase == .draining then
          if pktType pkt == 3 then s3 else s3.signalStore (some q) x.ctx (pktSig pkt) (errorValue 0x80)
        else match packetStep q pkt with
          | some i => s3.next [i]
          | none => s3.packetError q pkt 0x01

/-- HEARTH_POLL: the Hearth looks at the slot at READ, once the signals of earlier packets are written. -/
def execHearthPoll (q : BitVec 10) (s : State) : Out :=
  .next (
    let x := s.queue q
    if (x.phase == .active || x.phase == .draining) && x.prog.isNone && s.ctxLive x.ctx && !s.owes q then
      match s.indices x with
      | .hold => s
      | .bad s c _ => s.queueFault q c
      | .ok s1 (r, w) =>
        if !x.prompted && r == w then s1
        else match s1.hRead x.ctx (x.slotAt r) 8 with
          | .hold => s
          | .bad s c _ => s.accessFault q c (BitVec.ofNat 32 r)
          | .ok s2 h => if fld h 7 1 = 0 then s2.modQueue q fun y => { y with prompted := false } else s2.takeSlot q x r
    else s)

/-- A function reaches a queue's page. -/
def Queue.reachable (x : Queue) : HostFn → Bool
  | .physical => true
  | .virtual c => x.granted && x.ctx == c

/-- The function that makes a posted write. -/
def HostPost.fn : HostPost → HostFn
  | .memory f _ _ => f
  | .page f _ _ => f

/-- An earlier posted write of a function waits (R254). -/
def State.behind (s : State) (f : HostFn) : Bool := s.posted.any fun w => w.fn == f

/-- The Hearth is prompted to look at a queue. -/
def State.notify (s : State) (f : HostFn) (q : BitVec 10) : State :=
  if (s.queue q).reachable f && (s.queue q).phase != .dead then s.modQueue q fun x => { x with prompted := true } else s

/-- NOTIFY: the Hearth is prompted, after every earlier posted write of the function has been performed (R254). -/
def execNotify (f : HostFn) (q : BitVec 10) (s : State) : Out :=
  .next (if s.behind f then { s with posted := s.posted ++ [.page f (BitVec.ofNat 24 (q.toNat * 0x1000)) 0] } else s.notify f q)

/-- A host read of CLAIM returns a value. -/
def State.claimReturns (s : State) (v : W64) : State := { s with claimed := v }

/-- CLAIM: a host read adds 1 to WRITE and returns the old value; all ones from a DRAINING or DEAD queue; zero from a page that the function
does not reach, and where the access fails (DESIGN CHOICE, log entry 89). -/
def State.claim (s : State) (f : HostFn) (q : BitVec 10) : State :=
  let x := s.queue q
  if !x.reachable f then s.claimReturns 0
  else if !(x.phase == .active || x.phase == .paused) then s.claimReturns (BitVec.allOnes 64)
  else match s.hAtomic x.ctx x.qcb { op := 0, wide := true, operand := 1, compare := 0 } with
    | .ok s' w => (s'.claimReturns (BitVec.ofNat 64 w)).modQueue q fun y => { y with prompted := true }
    | .hold => s.owe (.claim f q)
    | .bad s' c _ => (s'.claimReturns 0).queueFault q c

def execClaim (f : HostFn) (q : BitVec 10) (s : State) : Out := .next (s.claim f q)

/-! ## CONTROL (Tables 12-4, 12-7) -/

/-- A page that may hold a control block or a ring (R278). -/
def State.queuePage (s : State) (c : BitVec 6) (va : W64) : Bool :=
  match s.walk c va with
  | .error _ => false
  | .ok (e, size) =>
    pteW e && decide ((pteMode e).toNat ≤ 1) && !pteCmp e && !pteAgg e && !pteBar e && !s.attrBad e size (physOf e size va)

/-- The checks of CREATE on the control block at `a` (R278): the ring's address and LOG2N, or why not. -/
def State.checkCreate (s : State) (c : BitVec 6) (a : W64) : Checked State (W64 × Nat) :=
  if !s.queuePage c a then .bad s 0x0B a
  else match s.hRead c a 64 with
    | .hold => .hold
    | .bad s _ _ => .bad s 0x0B a
    | .ok s b =>
      let ring : W64 := BitVec.ofNat 64 (fld b 128 64)
      let n := fld b 192 5
      let pages := (2 ^ n * 64 + 4095) / 4096
      if fld b 0 64 != fld b 64 64 || fld b 197 59 != 0 || decide (n < 4) || decide (16 < n) || fld b 320 192 != 0
          || ring.toNat % 4096 != 0 || !(List.range pages).all fun i => s.queuePage c (ring + BitVec.ofNat 64 (4096 * i)) then .bad s 0x0B a
      else .ok s (ring, n)

/-- A queue as CREATE makes it. -/
def Queue.created (x : Queue) (c : BitVec 6) (qcb ring : W64) (n : Nat) : Queue :=
  { x with phase := .active, granted := true, ctx := c, err := 0, cause := 0, pkt := 0, qcb := qcb, ring := ring, log2n := n
           sets := Vector.replicate 8 { base := 0, ext := Vector.replicate 5 0 }, prog := none, progIdx := 0, prompted := false }

/-- CONTROL CREATE with the control block at `qcb`: done once the block can be read. -/
def State.createQueue (s : State) (q : BitVec 10) (qcb : W64) : State :=
  let x := s.queue q
  let a := qcb &&& ~~~63#64
  if x.phase != .dead || (s.ctx x.ctxsel).phase != .live then s
  else match s.checkCreate x.ctxsel a with
    | .hold => s.owe (.create q qcb)
    | .bad s _ _ => s.setQueue q { x with err := 0x0B, cause := 0, pkt := 0 }
    | .ok s (ring, n) => s.putQueue q (x.created x.ctxsel a ring n)

/-- QUEUE_CREATE. -/
def execQueueCreate (q : BitVec 10) (qcb : W64) (s : State) : Out := .next (s.createQueue q qcb)

/-- QUEUE_PAUSE. -/
def execQueuePause (q : BitVec 10) (s : State) : Out :=
  .next (let x := s.queue q
         if x.phase == .active then s.putQueue q { x with phase := .paused, err := 0, cause := 0, pkt := 0 } else s)

/-- QUEUE_RESUME. -/
def execQueueResume (q : BitVec 10) (s : State) : Out :=
  .next (let x := s.queue q
         if x.phase == .paused && (s.ctx x.ctx).phase == .live then
           s.putQueue q { x with phase := .active, err := 0, cause := 0, pkt := 0 }
         else s)

/-- A graph of this queue issues nothing more. -/
def State.haltGraph (s : State) (q : BitVec 10) (c : BitVec 6) : State :=
  match s.graphs[c.toNat] with
  | some g => if g.queue == q then { s with graphs := s.graphs.set c.toNat (some { g with stopped := true }) } else s
  | none => s

/-- The packet in progress is complete. -/
def State.packetDone (s : State) (q : BitVec 10) : State := s.modQueue q fun x => { x with prog := none }

/-- The list of a QFENCE. -/
def fenceList (pkt : BitVec 512) : List Nat := (List.range (fld pkt.toNat 32 4)).map fun i => fld pkt.toNat (64 + 16 * i) 16

/-- Two QFENCEs are of one join: the same TAG and the same list. -/
def sameJoin (p q : BitVec 512) : Bool := fld p.toNat 16 16 == fld q.toNat 16 16 && fenceList p == fenceList q

/-- A partner of a QFENCE will not match it now: it holds another QFENCE, or it takes no packet any more. -/
def State.fenceStuck (s : State) (pkt : BitVec 512) : Bool :=
  (fenceList pkt).any fun e =>
    let y := s.queue (BitVec.ofNat 10 e)
    match y.prog with
    | some (.qfence p) => !sameJoin p pkt
    | _ => y.phase == .draining || y.phase == .dead

/-- A DRAINING queue does not wait for a QFENCE that its partners do not match (R291): it ends as cancelled by DRAIN (DESIGN CHOICE, log
entry 90). -/
def State.releaseFence (s : State) (q : BitVec 10) : State :=
  let x := s.queue q
  match x.prog with
  | some (.qfence pkt) =>
    if x.phase == .draining && s.fenceStuck pkt then
      (s.packetDone q).signalStore (some q) x.ctx (pktSig pkt) (errorValue 0x80)
    else s
  | _ => s

/-- QUEUE_DRAIN. -/
def execQueueDrain (q : BitVec 10) (s : State) : Out :=
  .next (let x := s.queue q
         if x.phase == .active || x.phase == .paused then
           ((s.putQueue q { x with phase := .draining }).haltGraph q x.ctx).releaseFence q
         else s)

/-- DRAIN_COMPLETE: nothing is in progress, every signal is written, and READ = WRITE. -/
def execDrainComplete (q : BitVec 10) (s : State) : Out :=
  .next (
    let x := s.queue q
    if x.phase == .draining && x.prog.isNone && !s.owes q then
      match s.indices x with
      | .ok s (r, w) => if r == w then s.putQueue q { x with phase := .dead } else s
      | _ => s
    else s)

/-! ## Slot rings (R344, R345) -/

/-- The oldest reservations that are done are filled. -/
def Ring.fillDone (r : Ring) : Nat → Ring
  | 0 => r
  | n + 1 =>
    match r.order with
    | (_, true) :: rest => Ring.fillDone { r with order := rest, fill := r.fill + 1, res := r.res - 1 } n
    | _ => r

/-- Reserve the next slot for a copy of queue `q`. -/
def Ring.reserve (r : Ring) (q : Nat) : Ring := { r with res := r.res + 1, order := r.order ++ [(q, false)] }

def Ring.nextSlot (r : Ring) : Nat := (r.rp + r.fill + r.res) % r.count

/-- The slot of a copy that faulted is never filled: no ring is advanced for it (R303). -/
def Ring.stuck (r : Ring) (q : Nat) : Ring := { r with order := r.order.map fun e => if e.1 == q && !e.2 then (1024, false) else e }

/-- The slot of the copy of queue `q` is done. -/
def Ring.done (r : Ring) (q : Nat) : Ring :=
  Ring.fillDone { r with order := r.order.map fun e => if e.1 == q then (q, true) else e } r.order.length

/-- Change the rings in which a copy has reserved slots. -/
def State.modRings (s : State) (c : CopyOp) (f : Ring → Ring) : State :=
  match c.slots with
  | none => s
  | some l =>
    l.foldl (fun s e => s.modTile e.1 fun t =>
      let i := BitVec.ofNat 6 (fld c.pkt.toNat 320 4)
      match t.ringOf i with
      | some r => t.setRing i (f r)
      | none => t) s

/-- Every reservation of a copy counts as done (R285, R345). -/
def State.ringsDone (s : State) (q : BitVec 10) (c : CopyOp) : State := s.modRings c fun r => r.done q.toNat

/-! ## Ending launches and packets -/

/-- A launch ends without completing: its tiles go to IDLE, its bind record is freed, and its signal receives an error value. -/
def State.stopLaunch (s : State) (id code : Nat) : State :=
  match s.launch id with
  | none => s
  | some l =>
    if l.phase == .done || l.phase == .failed then s
    else
      let held (x : Tile) : Bool := x.launch == id && (x.phase == .bound || x.phase == .running || x.phase == .trapped || x.phase == .saving)
      let s := s.mapTiles fun _ x => if held x then x.release else x
      let s := { s with
        launches := s.launches.map fun (y : Launch) => if y.id == id then { y with phase := .failed, slot := none } else y
        slots := match l.slot with | some n => s.slots.set n.toNat 0 | none => s.slots }
      s.signalStore (some l.queue) l.ctx l.sig (errorValue code)

/-- Abandon what a queue has in progress: the launch, copy or graph is killed, and its signal receives an error value (R285, R269). -/
def State.abandon (s : State) (q : BitVec 10) (code : Nat) : State :=
  let x := s.queue q
  let s := s.modQueue q fun y => { y with prog := none }
  match x.prog with
  | none => s
  | some (.launch id) => s.stopLaunch id code
  | some (.taken p) => if pktType p == 3 then s else s.signalStore (some q) x.ctx (pktSig p) (errorValue code)
  | some (.copy c) => (s.ringsDone q c).signalStore (some q) x.ctx (pktSig c.pkt) (errorValue code)
  | some (.qfence p) => s.signalStore (some q) x.ctx (pktSig p) (errorValue code)
  | some (.graph p _) =>
    let s := match s.graphs[x.ctx.toNat] with
      | some g =>
        if g.queue == q then
          let s : State := g.launches.foldl (fun (s : State) id => s.stopLaunch id code) s
          { s with
            graphs := s.graphs.set x.ctx.toNat none
            snapOps := s.snapOps.map fun (o : SnapOp) => match o.who with
              | .graph _ _ => if o.ctx == x.ctx then { o with who := .nobody } else o
              | _ => o }
        else s
      | none => s
    s.signalStore (some q) x.ctx (pktSig p) (errorValue code)

/-- The signals of the valid packets in slots `r` on receive an error value; none while a slot cannot be read. -/
def State.cancelFrom (s : State) (q : BitVec 10) (x : Queue) (code r : Nat) : Nat → Option State
  | 0 => some s
  | n + 1 =>
    match s.hRead x.ctx (x.slotAt r) 64 with
    | .hold => none
    | .ok s b =>
      let p := BitVec.ofNat 512 b
      let s := if fld b 7 1 = 1 && pktType p != 3 then s.signalStore (some q) x.ctx (pktSig p) (errorValue code) else s
      s.cancelFrom q x code (r + 1) n
    | .bad s _ _ => s.cancelFrom q x code (r + 1) n

/-- CONTROL RESET, done once the packets can be read. -/
def State.resetQueue (s : State) (q : BitVec 10) : State :=
  let x := s.queue q
  if x.phase == .dead then s
  else
    let s1 := s.abandon q 0x81
    match s1.indices x with
    | .hold => s.owe (.reset q)
    | .bad s _ _ => s.modQueue q fun y => { y with phase := .dead }
    | .ok s2 (r, _) => match s2.cancelFrom q x 0x81 r (2 ^ x.log2n) with
      | none => s.owe (.reset q)
      | some s => s.modQueue q fun y => { y with phase := .dead }

/-- QUEUE_RESET. -/
def execQueueReset (q : BitVec 10) (s : State) : Out := .next (s.resetQueue q)

/-! ## LAYOUT, SIGNAL, QFENCE -/

/-- LAYOUT (R293). -/
def execLayout (q : BitVec 10) (pkt : BitVec 512) (s : State) : Out :=
  .next (
    let x := s.queue q
    let h := pkt.toNat
    if !x.takes pkt then s
    else match packetBad (fld h 8 8 != 0 || fld h 19 5 != 0 || fld h 30 34 != 0 || fld h 288 224 != 0) false with
      | some e => s.packetError q pkt e
      | none =>
        let i := BitVec.ofNat 3 (fld h 16 3)
        let mask := fld h 24 6
        let old := x.sets[i.toNat]
        let new : LayoutSet :=
          { base := if fld mask 0 1 = 1 then pktWord pkt 1 else old.base
            ext := Vector.ofFn fun d : Fin 5 => if fld mask (1 + d.val) 1 = 1 then BitVec.ofNat 32 (fld h (128 + 32 * d.val) 32) else old.ext[d] }
        s.modQueue q fun y => { y with sets := y.sets.set i.toNat new })

/-- Set or clear an event of a context. -/
def State.putEvent (s : State) (c : BitVec 6) (e : Nat) (b : Bool) : State :=
  s.modCtx c fun x => { x with events := setBit x.events (e % 256) b }

/-- An operation of the Hearth on 8 bytes of a COMPRESSED frame, which it decodes and codes as copy engines do (R367). -/
def State.codedOp (s : State) (c : BitVec 6) (p : Phys) (va : W64) (a : HomeOp) : Checked State Nat :=
  match s.canReach hubDie p 8 va with
  | .hold => .hold
  | .bad _ x v => .bad s x v
  | .ok _ _ =>
    match s.snapLines (s.linesOf p 8) with
    | .hold => .hold
    | .refuse => .bad s cShadow va
    | .ok s' =>
      let at_ (i : Nat) : Phys := { p with pa := p.pa + BitVec.ofNat 52 i }
      let m := ofBytes ((List.range 8).map fun i => s'.rdC c (at_ i))
      .ok ((List.range 8).foldl (fun (s : State) i => s.wrC c (at_ i) (BitVec.ofNat 8 (a.result m / 256 ^ i))) s') m

/-- The operation of a SIGNAL packet or record on a target: performed or discarded, held, or a cause. -/
def State.signalOp (s : State) (c : BitVec 6) (op : Nat) (value target : W64) : Checked State Unit :=
  let word (a : HomeOp) : Checked State Unit :=
    match match s.translate c target .write true with
      | .ok p => if p.cmp then s.codedOp c p target a else s.hAccess c target a
      | .error x => .bad s x target with
    | .ok s _ => .ok s ()
    | .hold => .hold
    | .bad s x a => if x = cShadow then .ok (s.shadowRecord c target) () else .bad s x a
  match op with
  | 0 => word (.atomic { op := 0, wide := true, operand := value, compare := 0 })
  | 1 => word (.write 8 value.toNat)
  | 2 => .ok (s.putEvent c (value.toNat % 256) true) ()
  | _ => .ok (s.putEvent c (value.toNat % 256) false) ()

/-- Send an MSI-X message. -/
def State.sendMsix (s : State) (c v : BitVec 6) : State := { s with msix := (c, v) :: s.msix }

/-- The reserved fields and limits that SIGNAL packets and records share: OP, VECTOR and VALUE. -/
def signalBad (op vector : Nat) (value target : W64) : Bool :=
  decide (3 < op) || decide (63 < vector) || (decide (2 ≤ op) && (fld value.toNat 8 56 != 0 || target != 0))

/-- SIGNAL (R290). -/
def execSignalPacket (q : BitVec 10) (pkt : BitVec 512) (s : State) : Out :=
  .next (
    let x := s.queue q
    let h := pkt.toNat
    let op := fld h 16 3
    let vec := fld h 32 11
    if !x.takes pkt then s
    else match packetBad (fld h 8 8 != 0 || fld h 20 12 != 0 || fld h 43 21 != 0 || fld h 128 320 != 0
        || signalBad op vec (pktWord pkt 1) (pktSig pkt)) (decide (op < 2) && (pktSig pkt).toNat % 8 != 0) with
      | some e => s.packetError q pkt e
      | none =>
        match s.signalOp x.ctx op (pktWord pkt 1) (pktSig pkt) with
        | .hold => s.takeLater q pkt
        | .bad s c a => ((s.asyncRecord x.ctx c 0 0 a).queueFault q c).packetDone q
        | .ok s' _ => (if fld h 19 1 = 1 then s'.sendMsix x.ctx (BitVec.ofNat 6 vec) else s').packetDone q)

/-- QFENCE (R291): its queue holds until the join is complete. -/
def execQfence (q : BitVec 10) (pkt : BitVec 512) (s : State) : Out :=
  .next (
    let x := s.queue q
    let h := pkt.toNat
    let n := fld h 32 4
    let l := fenceList pkt
    if !x.takes pkt then s
    else match packetBad (fld h 8 8 != 0 || fld h 36 28 != 0 || fld h 192 256 != 0 || decide (n < 2) || decide (8 < n)
        || l.any (fun e => 1023 < e) || ((List.range 8).drop n).any (fun i => fld h (64 + 16 * i) 16 != 0))
        ((pktSig pkt).toNat % 8 != 0) with
      | some e => s.packetError q pkt e
      | none =>
        if !l.contains q.toNat || !l.Nodup || l.any fun e =>
            let y := s.queue (BitVec.ofNat 10 e)
            !y.granted || y.ctx != x.ctx then s.packetError q pkt 0x06
        else s.modQueue q fun y => { y with prog := some (.qfence pkt) })

/-- QFENCE_JOIN_COMPLETE: every queue of the list holds a QFENCE with this tag and list, and every signal of the packets before them is
written (R245); the join's own signals are written once none of them is held. -/
def execQfenceJoinComplete (q : BitVec 10) (s : State) : Out :=
  .next (
    match (s.queue q).prog with
    | some (.qfence pkt) =>
      let l := fenceList pkt
      let joined := l.all fun e => match (s.queue (BitVec.ofNat 10 e)).prog with
        | some (.qfence p) => sameJoin p pkt && !s.owes (BitVec.ofNat 10 e) && !s.signalHeld (s.queue (BitVec.ofNat 10 e)).ctx (pktSig p)
        | _ => false
      if joined then
        l.foldl (fun s e =>
          let k := BitVec.ofNat 10 e
          let y := s.queue k
          match y.prog with
          | some (.qfence p) => (s.packetDone k).signalDone (some k) y.ctx (pktSig p)
          | _ => s) s
      else s.releaseFence q
    | _ => s)

/-! ## COPY: the packet and its records (R294, R295) -/

def esizeOf (etype : Nat) : Nat := ccBits etype / 8

/-- Decode a layout record; none when it is invalid. -/
def layoutOf (x : Nat) : Option LayoutRec :=
  let e := fld x 0 5
  let rank := fld x 8 3 + 1
  let pad := fld x 11 2
  let swz := fld x 13 3
  let es := esizeOf e
  let strides : List Int := (List.range 4).map fun d => (BitVec.ofNat 64 (fld x (128 + 64 * d) 64)).toInt
  let boxes := (List.range 5).map fun d => fld x (384 + 16 * d) 16
  let codeOk := decide (e ≤ 5) || (decide (10 ≤ e) && decide (e ≤ 16))
  if !codeOk || decide (5 < rank) || decide (1 < pad) || decide (3 < swz) || fld x 5 3 != 0 || fld x 16 48 != 0
      || fld (fld x 64 64) (8 * es) 64 != 0 || (strides.drop (rank - 1)).any (· != 0) || (boxes.drop rank).any (· != 0)
      || fld x 464 48 != 0 || strides.any (fun v => v % es != 0) then none
  else
    some { etype := e, rank := rank, repeatPad := pad == 1, swz := swz, padval := BitVec.ofNat 64 (fld x 64 64)
           stride := (es : Int) :: strides, box := boxes.map (· + 1) }

/-- The source origin of a copy. -/
def copyOrigin (pkt : BitVec 512) (d : Nat) : Int := (BitVec.ofNat 24 (fld pkt.toNat (192 + 24 * d) 24)).toInt

def copyComp (pkt : BitVec 512) : Nat := fld pkt.toNat 22 2
def copyMcast (pkt : BitVec 512) : Bool := fld pkt.toNat 24 1 == 1
def copyFollow (pkt : BitVec 512) : Bool := fld pkt.toNat 25 1 == 1
def copyRecv (pkt : BitVec 512) : Nat := if copyMcast pkt then fld pkt.toNat 384 6 + 1 else 1
def copyOwn (pkt : BitVec 512) : Nat := fld pkt.toNat 390 16 + 1
def copyRstride (pkt : BitVec 512) : Nat := if copyMcast pkt then fld pkt.toNat 406 42 * 64 else 0

/-- The number of elements of a box. -/
def boxCount (b : List Nat) : Nat := b.foldl (· * ·) 1

/-- Fields of a COPY packet against R295. -/
def copyBad (pkt : BitVec 512) : Option Nat :=
  let h := pkt.toNat
  let comp := copyComp pkt
  let tgt := fld h 320 64
  let extra := fld h 384 64
  packetBad (fld h 8 8 != 0 || fld h 26 38 != 0 || comp == 3 || fld h 312 8 != 0 || (comp == 1 && fld tgt 4 60 != 0)
      || (comp == 0 && tgt != 0)
      || (if copyMcast pkt then false
          else if copyFollow pkt then fld extra 38 26 != 0 || fld extra 32 6 == 63 else extra != 0))
    (fld h 64 6 != 0 || fld h 128 6 != 0 || (pktSig pkt).toNat % 8 != 0 || (comp == 2 && tgt % 16 != 0))

/-- Whether two records and the flags of a packet agree (R295, R299). -/
def copyAgrees (pkt : BitVec 512) (a b : LayoutRec) : Bool :=
  let d := a.rank - 1
  let c : Int := (a.box.getD d 1 : Int) - copyRecv pkt * copyOwn pkt
  a.etype == b.etype && a.rank == b.rank && !(copyMcast pkt && copyFollow pkt)
    && (if copyMcast pkt then decide (0 ≤ c) && (List.range 5).all fun i =>
          if i = d then (b.box.getD i 1 : Int) == c + copyOwn pkt else a.box.getD i 1 == b.box.getD i 1
        else a.box == b.box)

/-- A copy fault (R303): a record, the error value, and the queue paused. -/
def State.copyFaultNow (s : State) (q : BitVec 10) (pkt : BitVec 512) (cause : Nat) (addr : W64) : State :=
  let x := s.queue q
  let s := s.asyncRecord x.ctx cCommandFault cause 0 addr
  let s := s.putQueue q { x.fail 0x07 cause x.progIdx with prog := none }
  s.signalStore (some q) x.ctx (pktSig pkt) (errorValue cause)

/-- Copy engines of the package: 16 of each compute die and 8 of the hub (R12). -/
def copyEngines : Nat := 72

/-- A copy still has slots to reserve. -/
def CopyOp.needsSlot (c : CopyOp) : Bool := copyComp c.pkt == 1 && c.slots.isNone

/-- A copy engine is free: one that waits for its slot has not started (R345). -/
def State.engineFree (s : State) : Bool :=
  decide ((s.queues.toList.countP fun x => match x.prog with
    | some (.copy c) => !c.needsSlot
    | _ => false) < copyEngines)

/-- COPY: the Hearth takes the packet, and its records are read and checked; an engine starts it when one is free. -/
def execCopy (q : BitVec 10) (pkt : BitVec 512) (s : State) : Out :=
  .next (
    let x := s.queue q
    if !x.takes pkt then s
    else match copyBad pkt with
    | some e => s.packetError q pkt e
    | none =>
      if copyComp pkt != 1 && !s.engineFree then s.takeLater q pkt
      else match s.span x.ctx .read (pktWord pkt 1) 1 64 with
      | .hold => s.takeLater q pkt
      | .bad s c v => s.copyFaultNow q pkt c v
      | .ok s1 a =>
        match s1.span x.ctx .read (pktWord pkt 2) 1 64 with
        | .hold => s.takeLater q pkt
        | .bad s c v => s.copyFaultNow q pkt c v
        | .ok s2 b =>
          match layoutOf (ofBytes a), layoutOf (ofBytes b) with
          | some ra, some rb =>
            if !copyAgrees pkt ra rb then s2.packetError q pkt 0x04
            else if 1048576 < boxCount rb.box * esizeOf rb.etype * copyRecv pkt then s2.packetError q pkt 0x09
            else
              let c : CopyOp :=
                { pkt := pkt, src := ra, dst := rb, sset := x.sets[fld pkt.toNat 16 3 % 8]'(by omega)
                  dset := x.sets[fld pkt.toNat 19 3 % 8]'(by omega), slots := none }
              s2.modQueue q fun y => { y with prog := some (.copy c) }
          | _, _ => s2.packetError q pkt 0x04)

/-! ## COPY: moving the box (R296-R299) -/

/-- The coordinates of element `k` of a box, dimension 0 fastest. -/
def coordsOf : List Nat → Nat → List Nat
  | [], _ => []
  | n :: rest, k => k % n :: coordsOf rest (k / n)

/-- The swizzle of a byte offset (R298). -/
def swizzle (swz : Nat) (o : W64) : W64 :=
  o ^^^ ((o >>> 4) &&& (match swz with | 1 => 0x60#64 | 2 => 0xE0#64 | 3 => 0x1E0#64 | _ => 0#64))

/-- The swizzled offset of an element from BASE. -/
def elemOffset (r : LayoutRec) (c : List Int) : W64 :=
  swizzle r.swz (BitVec.ofInt 64 ((c.zip r.stride).foldl (fun acc p => acc + p.1 * p.2) 0))

/-- Where an element comes from: an address, or a pad value. -/
def sourceOf (c : CopyOp) (e : List Nat) : W64 ⊕ Nat :=
  let rank := c.src.rank
  let coord := (e.zipIdx.take rank).map fun p => copyOrigin c.pkt p.2 + (p.1 : Int)
  let ext := (c.sset.ext.toList.take rank).map fun v => (v.toNat : Int)
  let inside := (coord.zip ext).all fun p => decide (0 ≤ p.1) && decide (p.1 < p.2)
  if inside then .inl (c.sset.base + elemOffset c.src coord)
  else if c.src.repeatPad && ext.all (fun v => decide (0 < v)) then
    .inl (c.sset.base + elemOffset c.src ((coord.zip ext).map fun p => max 0 (min p.1 (p.2 - 1))))
  else .inr c.src.padval.toNat

/-- The source index of a receiver's destination index (R299). -/
def sourceIndex (c : CopyOp) (r : Nat) (e : List Nat) : List Nat :=
  if !copyMcast c.pkt then e
  else
    let d := c.src.rank - 1
    let common := c.src.box.getD d 1 - copyRecv c.pkt * copyOwn c.pkt
    e.modify d fun i => if i < common then i else i + r * copyOwn c.pkt

/-- A destination element is inside the destination extents. -/
def destInside (c : CopyOp) (e : List Nat) : Bool :=
  ((e.take c.dst.rank).zip c.dset.ext.toList).all fun p => decide (p.1 < p.2.toNat)

/-- A location in a tile's window. -/
def State.windowPhys (s : State) (t : TileNo) (off : Nat) : Phys :=
  physAt s.pkg (BitVec.ofNat 3 (dieOf t)) (windowBase + t.val % 160 * 0x200000 + off)

/-- Translate for the Hearth; a failure names the address. -/
def State.place (s : State) (c : BitVec 6) (va : W64) (k : Want) (copy : Bool) : Checked Unit Phys :=
  match s.translate c va k copy with
  | .error x => .bad () x va
  | .ok p => .ok () p

/-- The location of a receiver's destination offset: from DBASE through the context's pages, or in its reserved slot. -/
def State.copyDest (s : State) (c : BitVec 6) (op : CopyOp) (r : Nat) (slot : Option (TileNo × Nat)) (o : W64) : Checked Unit Phys :=
  match slot with
  | some (t, i) =>
    match (s.tile t).ringOf (BitVec.ofNat 6 (fld op.pkt.toNat 320 4)) with
    | some g => .ok () (s.windowPhys t ((g.base + i * g.slotsz * 32 + o.toNat) % spadSize))
    | none => .bad () cIllegalInsn 0
  | none => s.place c (op.dset.base + BitVec.ofNat 64 (r * copyRstride op.pkt) + o) .write true

/-- An element that a copy writes: where, its value, its address, and where the value was read. -/
structure Move where
  p : Phys
  v : Nat
  va : W64
  src : Option (Phys × W64)

/-- The value of an element at the source, and where it was read. -/
def State.copyValue (s : State) (c : BitVec 6) (op : CopyOp) (es r : Nat) (e : List Nat) : Checked Unit (Nat × Option (Phys × W64)) :=
  match sourceOf op (sourceIndex op r e) with
  | .inr v => .ok () (v, none)
  | .inl va =>
    if va.toNat % es != 0 then .bad () cMisaligned va
    else match s.place c va .read true with
      | .bad _ x a => .bad () x a
      | .hold => .hold
      | .ok _ p =>
        match s.canReach hubDie p es va with
        | .bad _ x a => .bad () x a
        | .hold => .hold
        | .ok _ _ => .ok () (ofBytes ((List.range es).map fun i => s.rdC c { p with pa := p.pa + BitVec.ofNat 52 i }), some (p, va))

/-- Element `k` for receiver `r`: the move, or none where it lies outside the destination. -/
def State.copyMove (s : State) (c : BitVec 6) (op : CopyOp) (es r k : Nat) : Checked Unit (Option Move) :=
  let e := coordsOf op.dst.box k
  match s.copyValue c op es r e with
  | .bad _ x a => .bad () x a
  | .hold => .hold
  | .ok _ v =>
    if !destInside op e then .ok () none
    else
      let o := elemOffset op.dst (e.map fun (i : Nat) => (i : Int))
      let slot := match op.slots with | some sl => sl[r]? | none => none
      let va := op.dset.base + BitVec.ofNat 64 (r * copyRstride op.pkt) + o
      if slot.isNone && va.toNat % es != 0 then .bad () cMisaligned va
      else match s.copyDest c op r slot o with
        | .bad _ x a => .bad () x a
        | .hold => .hold
        | .ok _ p =>
          if barrierPlace p then .bad () cBarrierRegion va
          else match s.canReach hubDie p es va with
            | .bad _ x a => .bad () x a
            | .hold => .hold
            | .ok _ _ => .ok () (some { p := p, v := v.1, va := va, src := v.2 })

/-- What a list of checks finds together: the first cause in order, found even where an earlier one waits; then a wait; then the values. -/
def gather {α : Type} (l : List (Checked Unit α)) : Checked Unit (List α) :=
  l.foldr (fun x acc =>
    match x, acc with
    | .bad _ c a, _ => .bad () c a
    | _, .bad _ c a => .bad () c a
    | .ok _ v, .ok _ vs => .ok () (v :: vs)
    | _, _ => .hold) (.ok () [])

/-- The elements of a copy that are written, in order. -/
def State.copyMoves (s : State) (c : BitVec 6) (op : CopyOp) : Checked Unit (List Move) :=
  let es := esizeOf op.dst.etype
  let all := (List.range (copyRecv op.pkt)).flatMap fun r => (List.range (boxCount op.dst.box)).map fun k => s.copyMove c op es r k
  match gather all with
  | .ok _ l => .ok () (l.filterMap id)
  | .hold => .hold
  | .bad _ x a => .bad () x a

/-- The window of receiver `r`'s destination base. -/
def State.copyTile (s : State) (c : BitVec 6) (op : CopyOp) (r : Nat) : Checked Unit (Option (TileNo × Nat)) :=
  match s.place c (op.dset.base + BitVec.ofNat 64 (r * copyRstride op.pkt)) .write true with
  | .bad _ x a => .bad () x a
  | .hold => .hold
  | .ok _ p => .ok () (s.windowOf p)

/-- What a slot-ring copy finds of its rings before it reserves: each receiver's tile, or a cause (R301). -/
def State.ringTiles (s : State) (c : BitVec 6) (op : CopyOp) : Checked Unit (List TileNo) :=
  gather ((List.range (copyRecv op.pkt)).map fun r =>
    match s.copyTile c op r with
    | .bad _ x a => .bad () x a
    | .hold => .hold
    | .ok _ none => .bad () cIllegalInsn 0
    | .ok _ (some (t, _)) =>
      match (s.tile t).ringOf (BitVec.ofNat 6 (fld op.pkt.toNat 320 4)) with
      | none => .bad () cIllegalInsn 0
      | some g => if g.slotsz * 32 < boxCount op.dst.box * esizeOf op.dst.etype then .bad () cIllegalInsn 0 else .ok () t)

/-- The barrier words of a copy's completion, or a cause. -/
def State.copyWords (s : State) (c : BitVec 6) (op : CopyOp) : Checked Unit (List (Phys × W64)) :=
  gather ((List.range (copyRecv op.pkt)).map fun r =>
    let va := pktWord op.pkt 5 + BitVec.ofNat 64 (r * copyRstride op.pkt)
    match s.place c va .write false with
    | .bad _ x a => .bad () x a
    | .hold => .hold
    | .ok _ p => if barrierPlace p && p.pa.toNat % 16 == 0 then .ok () (p, va) else .bad () cBarrierRegion va)

/-- The tile of a follow-on: every byte written lies in its window. -/
def State.followTile (s : State) (ms : List Move) : Option TileNo :=
  match ms with
  | [] => none
  | m :: _ =>
    match s.windowOf m.p with
    | some (t, _) => if ms.all fun x => (s.windowOf x.p).map (fun w => w.1) == some t then some t else none
    | none => none

/-- Write an element byte by byte. -/
def State.wrElem (s : State) (c : BitVec 6) (p : Phys) (v : Nat) : Nat → Nat → State
  | 0, _ => s
  | n + 1, i => (s.wrC c { p with pa := p.pa + BitVec.ofNat 52 i } (BitVec.ofNat 8 (v / 256 ^ i))).wrElem c p v n (i + 1)

/-- How writes that are judged line by line fare (17_snapshot.md R440): all done; held whole; or one refused, those before it written. -/
inductive Placed where
  | ok (s : State)
  | hold
  | refuse (s : State) (cause : Nat) (addr : W64)

/-- Ready the lines of one write, write it, and go on. -/
def State.placeThen (s : State) (lines : List (Nat × Nat)) (addr : W64) (wr : State → State) (rest : State → Placed) : Placed :=
  match s.snapLines lines with
  | .hold => .hold
  | .refuse => .refuse s cShadow addr
  | .ok s' => rest (wr s')

/-- Write the elements of a copy in order. -/
def State.writeMoves (c : BitVec 6) (es : Nat) : List Move → State → Placed
  | [], s => .ok s
  | m :: rest, s => s.placeThen (s.linesOf m.p es) m.va (fun s => s.wrElem c m.p m.v es 0) (State.writeMoves c es rest)

/-- Accesses that have met tile windows not open to their context make a record for each such tile (R366). -/
def State.closedMet (s : State) (c : BitVec 6) (met : List (Phys × W64)) : State :=
  let closed := met.filterMap fun x => match s.windowOf x.1 with
    | some (t, _) => if (s.tile t).windowOpen c then none else some (t, x.2)
    | none => none
  (closed.foldl (fun (l : List (TileNo × W64)) x => if l.any fun y => y.1 == x.1 then l else l ++ [x]) []).foldl
    (fun s x => s.asyncRecord c cPermission 0 x.1.val x.2) s

/-- What a copy has read and written. -/
def State.closedRecords (s : State) (c : BitVec 6) (ms : List Move) : State := s.closedMet c (ms.flatMap fun m => (m.p, m.va) :: m.src.toList)

/-- A post to a scratchpad word of a tile that is not BOUND, RUNNING or TRAPPED is discarded, with a record (R354). -/
def State.postClosed (s : State) (p : Phys) : Option TileNo :=
  match s.windowOf p with
  | some (t, _) => let k := (s.tile t).phase; if k == .bound || k == .running || k == .trapped then none else some t
  | none => none

/-- Post one arrival and the byte count to each word. -/
def State.postAll (s : State) (c : BitVec 6) (n : Nat) : List (Phys × W64) → Checked State Unit
  | [] => .ok s ()
  | p :: rest =>
    match s.postClosed p.1 with
    | some t => (s.asyncRecord c cCommandFault 0x0C t.val p.2).postAll c n rest
    | none =>
      match s.homeOp c p.1.pkg p.1.die p.1.pa.toNat (.post 1 n) with
      | .ok r => r.1.postAll c n rest
      | .hold => .hold
      | .refuse x => .bad s x p.2

/-- Everything a copy does: its bytes, then its completions in order (R301); or why it waits or faults. -/
def State.copyAll (s : State) (q : BitVec 10) (op : CopyOp) : Checked State Unit :=
  let x := s.queue q
  let es := esizeOf op.dst.etype
  let bytes := boxCount op.dst.box * es
  match if copyComp op.pkt == 2 then s.copyWords x.ctx op else .ok () [] with
  | .bad _ c a => .bad s c a
  | .hold => .hold
  | .ok _ words =>
    match s.copyMoves x.ctx op with
    | .bad _ c a => .bad s c a
    | .hold => .hold
    | .ok _ ms =>
      let ft := s.followTile ms
      if copyFollow op.pkt && ft.isNone then .bad s cPermission 0
      else match State.writeMoves x.ctx es ms s with
        | .hold => .hold
        | .refuse s c a => .bad s c a
        | .ok s =>
          match ((if copyComp op.pkt == 1 then s.ringsDone q op else s).closedRecords x.ctx ms).postAll x.ctx bytes words with
          | .hold => .hold
          | .bad s c a => .bad s c a
          | .ok s _ =>
            let s := match copyFollow op.pkt, ft with
              | true, some t => s.modTile t fun y =>
                  { y with mx := { y.mx with follow := y.mx.follow ++ [(BitVec.ofNat 32 (fld op.pkt.toNat 384 32), BitVec.ofNat 6 (fld op.pkt.toNat 416 6))] } }
              | _, _ => s
            if s.signalHeld x.ctx (pktSig op.pkt) then .hold
            else .ok ((s.packetDone q).signalDone (some q) x.ctx (pktSig op.pkt)) ()

/-- The copy in progress of a queue whose context is LIVE. -/
def State.copyOf? (s : State) (q : BitVec 10) : Option CopyOp :=
  match (s.queue q).prog with
  | some (.copy c) => if s.ctxLive (s.queue q).ctx then some c else none
  | _ => none

/-- SLOT_RESERVE: a slot-ring copy reserves a slot of each receiver's ring once each has one free. -/
def execSlotReserve (q : BitVec 10) (s : State) : Out :=
  .next (
    match s.copyOf? q with
    | none => s
    | some op =>
      if !op.needsSlot || !s.engineFree then s
      else match s.ringTiles (s.queue q).ctx op with
        | .ok _ ts =>
          let i := BitVec.ofNat 6 (fld op.pkt.toNat 320 4)
          let free := ts.all fun t => match (s.tile t).ringOf i with
            | some g => decide (g.fill + g.res + (ts.filter (· == t)).length ≤ g.count)
            | none => false
          if !free then s
          else
            let r := ts.foldl (fun (acc : State × List (TileNo × Nat)) t =>
              match (acc.1.tile t).ringOf i with
              | some g => (acc.1.modTile t fun y => y.setRing i (g.reserve q.toNat), acc.2 ++ [(t, g.nextSlot)])
              | none => acc) (s, [])
            r.1.modQueue q fun y => { y with prog := some (.copy { op with slots := some r.2 }) }
        | _ => s)

/-- COPY_COMPLETE: the bytes of a copy are performed, and its completions in order. -/
def execCopyComplete (q : BitVec 10) (s : State) : Out :=
  .next (
    match s.copyOf? q with
    | none => s
    | some op =>
      if op.needsSlot then s
      else match s.copyAll q op with
        | .ok s' _ => s'
        | _ => s)

/-- The cause with which the copy of a queue fails, if it does, the address, and the state that what it has done leaves. -/
def State.copyFailure (s : State) (q : BitVec 10) : Option (State × Nat × W64) :=
  match s.copyOf? q with
  | none => none
  | some op =>
    if op.needsSlot then (match s.ringTiles (s.queue q).ctx op with | .bad _ c a => some (s, c, a) | _ => none)
    else match s.copyAll q op with
      | .bad s' c a => some (s', c, a)
      | _ => none

def State.copyCause (s : State) (q : BitVec 10) : Option Nat := (s.copyFailure q).map fun x => x.2.1

/-- COPY_FAULT: the copy in progress faults; bytes that it wrote before a refused line stay, and no ring is advanced.  The slots that it has
reserved stay reserved (DESIGN CHOICE, log entry 91). -/
def execCopyFault (q : BitVec 10) (cause : BitVec 8) (s : State) : Out :=
  .next (
    match s.copyOf? q with
    | none => s
    | some op =>
      let (s', addr) := match s.copyFailure q with
        | some (s', c, a) => if c = cause.toNat then (s', a) else (s, 0)
        | none => (s, 0)
      (s'.modRings op fun r => r.stuck q.toNat).copyFaultNow q op.pkt cause.toNat addr)

/-! ## qpost (R128, R286) -/

/-- qpost: reads its packet at issue, and holds the control strand until the packet is posted.  FADDR of its PERMISSION fault is the
packet's offset (DESIGN CHOICE, log entry 73). -/
def execQpost (d a b : BitVec 5) (p : BitVec 3) (n : BitVec 1) (s : State) : Out :=
  .next (s.issue .control fun s =>
    let t := s.cur
    if !t.guard p n then .done s
    else
      let off := t.s a
      let qn := t.s b
      let o := off.toNat % spadSize
      if off.toNat % 64 != 0 then .trap { code := cMisaligned, faddr := off }
      else if t.claimed o 64 then .trap { code := cBankClaim, faddr := off }
      else
        let x := s.queue (BitVec.ofNat 10 qn.toNat)
        if 1023 < qn.toNat || !x.granted || x.ctx != t.ctx then .trap { code := cPermission, faddr := off }
        else
          match if x.phase == .active || x.phase == .paused then s.translate x.ctx x.qcb .write false else .ok (physAt s.pkg 0 0) with
          | .error c => .trap { code := c, faddr := x.qcb }
          | .ok _ =>
            let w : CtlWait := .qpost d qn.toNat (BitVec.ofNat 512 (t.spad.readN o 64)) none s.fcc
            .done (s.modTile s.here (·.setWait (some w))))

/-- Return a value to a waiting qpost. -/
def State.qpostAnswer (s : State) (t : TileNo) (d : BitVec 5) (v : W64) : State :=
  s.modTile t fun x => x.answer x.isSup d v

/-- Write the body, then the header, into a claimed slot, and prompt the Hearth. -/
def State.qpostWrite (s : State) (q : BitVec 10) (x : Queue) (pkt : BitVec 512) (w : Nat) : Checked State Unit :=
  match s.hWrite x.ctx (x.slotAt w + 8) 56 (pkt.toNat / 2 ^ 64) with
  | .hold => .hold
  | .bad s c a => .bad s c a
  | .ok s1 _ =>
    match s1.hWrite x.ctx (x.slotAt w) 8 (fld pkt.toNat 0 64 ||| 0x80) with
    | .hold => .hold
    | .bad s c a => .bad s c a
    | .ok s2 _ => .ok (s2.modQueue q fun y => { y with prompted := true }) ()

/-- A waiting qpost goes on: the claim, room, and the packet; then its result.  A claim that a remap has made impossible since the issue
answers as a DEAD queue does (DESIGN CHOICE, log entry 89). -/
def State.qpostHold (s : State) (t : TileNo) : State :=
  match (s.tile t).waitOf with
  | some (.qpost d qn pkt claimed since) =>
    let q := BitVec.ofNat 10 qn
    let x := s.queue q
    match claimed with
    | none =>
      if x.phase == .dead || x.phase == .draining then s.qpostAnswer t d (BitVec.allOnes 64)
      else match s.hAtomic x.ctx x.qcb { op := 0, wide := true, operand := 1, compare := 0 } with
        | .ok s' w => s'.modTile t fun y => y.setWait (some (.qpost d qn pkt (some (BitVec.ofNat 64 w)) s.fcc))
        | .hold => s
        | .bad s' _ _ => s'.qpostAnswer t d (BitVec.allOnes 64)
    | some w =>
      match s.hRead x.ctx (x.qcb + 8) 8 with
      | .ok s1 r =>
        if w.toNat < r + 2 ^ x.log2n then
          match s1.qpostWrite q x pkt w.toNat with
          | .ok s' _ => s'.qpostAnswer t d w
          | .hold => s
          | .bad s' _ _ => s'.modTile t fun y => y.setWait (some (.qpost d qn pkt (some w) since))
        else s1
      | _ => s
  | _ => s

/-- One millisecond, in FC. -/
def oneMs : Nat := 1250000

/-- A qpost of claimed slot `w` finds no room: READ says so, or it or the slot cannot be reached. -/
def State.qpostFull (s : State) (x : Queue) (q : BitVec 10) (pkt : BitVec 512) (w : W64) : Bool :=
  match s.hRead x.ctx (x.qcb + 8) 8 with
  | .hold => false
  | .bad _ _ _ => true
  | .ok s r => !decide (w.toNat < r + 2 ^ x.log2n) || (match s.qpostWrite q x pkt w.toNat with | .bad _ _ _ => true | _ => false)

/-- QPOST_TIMEOUT: a qpost that has waited for room longer than 1 ms writes nothing and returns 0xFFFF_FFFF_FFFF_FFFE. -/
def execQpostTimeout (t : TileNo) (s : State) : Out :=
  .next (
    match (s.tile t).waitOf with
    | some (.qpost d qn pkt (some w) since) =>
      let q := BitVec.ofNat 10 qn
      if oneMs < (s.fcc - since).toNat && s.qpostFull (s.queue q) q pkt w then s.qpostAnswer t d (BitVec.allOnes 64 - 1) else s
    | _ => s)

end Sys2Proof.Machine
end

