-- ==== Sys2Proof/Machine/Save.lean ====
section
/-!
DEFINITION. The save record of a tile (11_context.md R274, Table 11-9): the words of its parts, its writing, and its loading at resumption.
The order of the words inside a part is the model's (DESIGN CHOICE, log entry 17).
-/
namespace Sys2Proof.Machine
open Sys2Proof

/-- Bytes of a save record. -/
def saveRecordSize : Nat := 0x280000

/-- The first register-space byte of the accumulator window. -/
def accByte : Nat := 512 * 512

/-- A 64-bit word of a save record: its offset, what it holds of a tile, and how a tile is changed to hold another value there. -/
structure SaveWord where
  off : Nat
  get : Tile → W64
  put : W64 → Tile → Tile

/-- A tile that is being saved or loaded, in the mode it was in before. -/
def Tile.asRun (t : Tile) : Tile := { t with phase := if t.savedSup then .trapped else .running }

/-- Words of a part that are told by getters and setters, from an offset on. -/
def wordsFrom (base : Nat) (l : List ((Tile → W64) × (W64 → Tile → Tile))) : List SaveWord :=
  l.zipIdx.map fun x => { off := base + 8 * x.2, get := x.1.1, put := x.1.2 }

/-- A word that a load leaves alone. -/
def fixedWord (f : Tile → W64) : (Tile → W64) × (W64 → Tile → Tile) := (f, fun _ t => t)

def sysWord (f : Sys → W64) (g : W64 → Sys → Sys) : (Tile → W64) × (W64 → Tile → Tile) :=
  (fun t => f t.sys, fun v t => { t with sys := g v t.sys })

/-- Write a window element whatever is stopped: the tile stands. -/
def Tile.windowForce (t : Tile) (wsel v : W64) : Tile :=
  let all : Tile := { t with strand := t.strand.map (fun st => { st with stopped := true }), sys := { t.sys with wsel := wsel } }
  let r := all.windowWrite v
  let back (k : Fin 8) : StrandState :=
    let st : StrandState := r.strand[k]
    { st with stopped := (t.strand[k]).stopped }
  { r with strand := Vector.ofFn back, sys := { r.sys with wsel := t.sys.wsel } }

/-- WSEL for an element. -/
def winSel (cls idx elem : Nat) : W64 := w64 (packFields [(32, elem), (16, 0), (8, idx), (8, cls)])

/-- A word that a window shows. -/
def winWord (cls idx elem : Nat) : (Tile → W64) × (W64 → Tile → Tile) :=
  (fun t => { t with sys := { t.sys with wsel := winSel cls idx elem } }.windowRead, fun v t => t.windowForce (winSel cls idx elem) v)

def winWords (cls idx n : Nat) : List ((Tile → W64) × (W64 → Tile → Tile)) := (List.range n).map (winWord cls idx)

/-- The control block: strand PCs, STOPPED, FETCHPC, loop levels, FPSRs, views and vmode, CAUSE, and the supervisor registers. -/
def controlWords : List SaveWord :=
  wordsFrom 0 (
    ((List.range 8).map fun i => (fun (t : Tile) => t.asRun.userPc (strandAt i), fun v (t : Tile) => t.modStr (strandAt i) fun st => { st with pc := v }))
    ++ [(fun t => w64 (packList 1 (Strand.all.map fun k => if (t.str k).stopped then 1 else 0)),
         fun v t => Strand.all.foldl (fun (t : Tile) k => t.modStr k fun st => { st with stopped := v.getLsbD k.pos }) t),
        (fun t => if t.savedSup then t.sys.fetchpc else t.fetch.addr,
         fun v t => if t.savedSup then { t with sys := { t.sys with fetchpc := v } } else { t with fetch := { t.fetch with addr := v } })]
    ++ (List.finRange 6).flatMap (fun n =>
        [(fun (t : Tile) => let l := t.fetch.level[n]; w64 (packFields [(16, l.ix.toNat), (16, l.count), (1, l.active.toNat)]),
          fun (v : W64) (t : Tile) => { t with fetch := { t.fetch with level := t.fetch.level.set n.val { (t.fetch.level[n]) with
            ix := v.extractLsb' 0 16, count := fld v.toNat 16 16, active := v.getLsbD 32 } } }),
         (fun (t : Tile) => let l := t.fetch.level[n]; w64 (packFields [(16, l.first), (16, l.length)]),
          fun (v : W64) (t : Tile) => { t with fetch := { t.fetch with level := t.fetch.level.set n.val { (t.fetch.level[n]) with
            first := fld v.toNat 0 16, length := fld v.toNat 16 16 } } })])
    ++ ((List.range 8).map fun i => (fun (t : Tile) => zext64 (t.fpsr (strandAt i)), fun v (t : Tile) => t.setFpsr (strandAt i) (v.setWidth 8)))
    ++ winWords 6 0 19
    ++ [fixedWord fun _ => w64 cPreempt]
    ++ (List.finRange 32).map (fun r =>
        (fun (t : Tile) => t.ctl.sup.s[r],
         fun v (t : Tile) => { t with ctl := { t.ctl with sup := { t.ctl.sup with s := t.ctl.sup.s.set r.val v } } }))
    ++ [(fun t => w64 (packFields ((List.range 8).map fun i => (1, (t.ctl.sup.getP (BitVec.ofNat 3 i)).toNat))),
         fun v t => { t with ctl := { t.ctl with sup := { t.ctl.sup with p := Vector.ofFn fun i => v.getLsbD i.val } } }),
        (fun t => { t with phase := .trapped }.pcOf .control, fun _ t => t),
        sysWord (fun y => y.cause) (fun v y => { y with cause := v &&& 0xFFFFFFFF#64 }),
        sysWord (fun y => zext64 y.fstrand) (fun v y => { y with fstrand := v.extractLsb' 0 3 }),
        sysWord (fun y => y.fpc) (fun v y => { y with fpc := v }),
        sysWord (fun y => y.faddr) (fun v y => { y with faddr := v }),
        sysWord (fun y => y.epc) (fun v y => { y with epc := v &&& ~~~3#64 }),
        sysWord (fun y => zext64 y.fpend) (fun v y => { y with fpend := v.setWidth 8 }),
        sysWord (fun y => y.wsel) (fun v y => { y with wsel := v &&& 0xFFFF0000FFFFFFFF#64 })])

/-- The parts of a save record below its codebook planes. -/
def saveWords : List SaveWord :=
  controlWords
    ++ wordsFrom 0x1000 ((List.range 8).flatMap fun i => winWords 0 i 49)
    ++ wordsFrom 0x3000 (winWords 1 0 76 ++ winWords 1 1 76 ++ winWords 2 0 320 ++ winWords 5 0 160
        ++ (List.range 4).flatMap (fun i => winWords 8 i 16) ++ winWords 9 0 340)
    ++ wordsFrom 0x6000 ((List.range 27).flatMap fun i =>
        winWords 3 i (if i < 4 ∨ (8 ≤ i ∧ i < 12) ∨ (14 ≤ i ∧ i < 18) then 513 else 17))
    ++ wordsFrom 0x16000 ((List.range 8).flatMap fun i => winWords 4 i 12)

/-- Those parts of a tile as bytes; `podMode` stands in the last word of the control block. -/
def Tile.saveImage (t : Tile) (podMode : Nat) : Memory :=
  saveWords.foldl (fun (m : Memory) w => m.writeN w.off 8 (w.get t).toNat) (Memory.writeN [] 0xFF8 8 podMode)

/-- Write `n` 64-byte pieces from `va`; none while one of them is held.  A piece that cannot be written is left as it was. -/
def State.putPieces (s : State) (c : BitVec 6) (m : Memory) (off : Nat) (va : W64) : Nat → Option State
  | 0 => some s
  | n + 1 =>
    match s.hWrite c va 64 (m.readN off 64) with
    | .hold => none
    | .ok s' _ => s'.putPieces c m (off + 64) (va + 64) n
    | .bad s' _ _ => s'.putPieces c m (off + 64) (va + 64) n

/-- The codebook planes as bytes: bank × 2 + role, 256 entries of 16 bytes each. -/
def Sync.planes (y : Sync) : Memory :=
  (List.range 8).foldl (fun m i =>
    let b := y.bank[i / 2 % 4]'(by omega)
    let p := if i % 2 = 0 then b.front else b.back
    (List.range 256).foldl (fun (m : Memory) e => m.writeN (4096 * i + 16 * e) 16 (p.entries[e % 256]'(by omega)).toNat) m) []

/-- Write the save record of a tile; none while memory that it needs is held. -/
def State.writeRecord (s : State) (t : TileNo) : Option State :=
  let x := s.tile t
  let c := x.ctx
  let va := x.sys.saverec
  ((((s.putPieces c (x.saveImage (s.pods[podOf t]).mode.toNat) 0 va 1472).bind fun s =>
    s.putPieces c x.sync.planes 0 (va + 0x18000) 512).bind fun s =>
    if s.hasWindow t then s.putPieces c x.rsp accByte (va + 0x20000) 2048 else some s).bind fun s =>
    s.putPieces c x.rsp 0 (va + 0x40000) 4096).bind fun s =>
    s.putPieces c x.spad 0 (va + 0x80000) 32768

/-- What a part of a save record reads as: bytes; nothing where it cannot be read. -/
def State.savedPart (s : State) (x : Tile) (off n : Nat) : Checked Unit (Option (List Byte)) :=
  match s.span x.ctx .read (x.sys.saverec + BitVec.ofNat 64 off) (n / 64 + 1) n with
  | .ok _ b => .ok () (some b)
  | .hold => .hold
  | .bad _ _ _ => .ok () none

/-- A tile with the words that the record holds otherwise than it. -/
def Tile.loadWords (x : Tile) (b : List Byte) : Tile :=
  saveWords.foldl (fun (x : Tile) w =>
    let v := w64 (ofBytes ((b.drop w.off).take 8))
    if w.get x == v then x else w.put v x) x

/-- Load the save record of a tile, which was `x` when it was saved: a part that cannot be read is as it was saved; none while memory that it
needs is held.  What no part of the record shows is as it was saved (log entry 17). -/
def State.readRecord (s : State) (t : TileNo) (x : Tile) : Option Tile :=
  match s.savedPart x 0 0x17000, s.savedPart x 0x18000 0x8000, s.savedPart x 0x20000 0x20000, s.savedPart x 0x40000 0x40000,
      s.savedPart x 0x80000 0x200000 with
  | .ok _ words, .ok _ planes, .ok _ acc, .ok _ sram, .ok _ spad =>
    let merge (m : Memory) (base : Nat) (b : Option (List Byte)) : Memory := match b with | some b => m.writeList base b | none => m
    let x := match words with | some b => x.loadWords b | none => x
    let x := { x with spad := merge x.spad 0 spad, rsp := merge (if s.hasWindow t then merge x.rsp accByte acc else x.rsp) 0 sram }
    match planes with
    | none => some x
    | some b =>
      let fill (p : Plane) (i : Nat) : Plane :=
        { p with entries := Vector.ofFn fun e => BitVec.ofNat 128 (ofBytes ((b.drop (4096 * i + 16 * e.val)).take 16)) }
      some { x with sync := { x.sync with bank := Vector.ofFn fun (k : Fin 4) =>
        let y := x.sync.bank[k]
        { y with front := fill y.front (2 * k.val), back := fill y.back (2 * k.val + 1) } } }
  | _, _, _, _, _ => none

end Sys2Proof.Machine
end

