-- ==== Sys2Proof/Machine/Kernel.lean ====
section
/-!
DEFINITION. The kernel: images and their checks (04_lines.md R105-R107), launches (13_kernel.md R308-R313), bind records and dispatch
(R310-R312), pre-emption and the save record (11_context.md R273, R274), and the graph sequencer (R314-R317).
-/
namespace Sys2Proof.Machine
open Sys2Proof

/-- A part of a byte list as a number. -/
def slice (b : List Byte) (off n : Nat) : Nat := ofBytes ((b.drop off).take n)

/-! ## The image (R105-R107) -/

/-- A kernel image: its bytes, and its header. -/
structure Image where
  bytes : List Byte
  h : Nat
  deriving DecidableEq, Repr

/-- A header field of `n` bytes. -/
def Image.f (x : Image) (off n : Nat) : Nat := fld x.h (8 * off) (8 * n)

def Image.levels (x : Image) : Nat := x.f 0x06 1
def Image.sems (x : Image) : Nat := x.f 0x07 1
def Image.spill (x : Image) : Nat := x.f 0x08 2
def Image.lines (x : Image) : Nat := x.f 0x0A 2
def Image.views (x : Image) : Nat := x.f 0x0C 1
def Image.streams (x : Image) : Nat := x.f 0x0D 1
def Image.rings (x : Image) : Nat := x.f 0x0E 1
def Image.loopOff (x : Image) : Nat := x.f 0x10 4
def Image.viewOff (x : Image) : Nat := x.f 0x14 4
def Image.streamOff (x : Image) : Nat := x.f 0x18 4
def Image.semOff (x : Image) : Nat := x.f 0x1C 4
def Image.ringOff (x : Image) : Nat := x.f 0x20 4
def Image.codeOff (x : Image) : Nat := x.f 0x24 4
def Image.constOff (x : Image) : Nat := x.f 0x28 4
def Image.constBytes (x : Image) : Nat := x.f 0x2C 4
def Image.constDest (x : Image) : Nat := x.f 0x30 4
def Image.streamDest (x : Image) : Nat := x.f 0x34 2
def Image.size (x : Image) : Nat := x.f 0x38 4

/-- Entries of the tables. -/
def Image.loop (x : Image) (i : Nat) : Nat := slice x.bytes (x.loopOff + 8 * i) 8
def Image.view (x : Image) (i : Nat) : Nat := slice x.bytes (x.viewOff + 16 * i) 16
def Image.desc (x : Image) (i : Nat) : BitVec 512 := BitVec.ofNat 512 (slice x.bytes (x.streamOff + 64 * i) 64)
def Image.sem (x : Image) (i : Nat) : Nat := slice x.bytes (x.semOff + 4 * i) 4
def Image.ring (x : Image) (i : Nat) : Nat := slice x.bytes (x.ringOff + 16 * i) 16
def Image.line (x : Image) (i : Nat) : BitVec 256 := BitVec.ofNat 256 (slice x.bytes (x.codeOff + 32 * i) 32)
def Image.consts (x : Image) : List Byte := (x.bytes.drop x.constOff).take x.constBytes

/-- The regions of an image that hold bytes: offset and length. -/
def Image.regions (x : Image) : List (Nat × Nat) :=
  [(0, 64), (x.loopOff, 8 * x.levels), (x.viewOff, 16 * x.views), (x.streamOff, 64 * x.streams), (x.semOff, 4 * x.sems),
   (x.ringOff, 16 * x.rings), (x.codeOff, 32 * x.lines), (x.constOff, x.constBytes)].filter fun r => r.2 != 0

/-- No two regions of a list overlap. -/
def disjointRegions : List (Nat × Nat) → Bool
  | [] => true
  | r :: rest => rest.all (fun q => decide (r.1 + r.2 ≤ q.1) || decide (q.1 + q.2 ≤ r.1)) && disjointRegions rest

/-- The header's own limits and alignments. -/
def Image.headerOk (x : Image) : Bool :=
  x.f 0x00 4 == 0x494B4649 && x.f 0x04 2 == 1 && decide (x.levels ≤ 6) && decide (x.sems ≤ 64) && decide (x.spill ≤ 512)
    && decide (1 ≤ x.lines) && decide (x.lines ≤ 4096) && decide (x.views ≤ 18) && decide (x.streams ≤ 8) && decide (x.rings ≤ 16)
    && x.f 0x0F 1 == 0 && x.f 0x36 2 == 0 && x.f 0x3C 4 == 0
    && x.loopOff % 8 == 0 && x.viewOff % 16 == 0 && x.streamOff % 64 == 0 && x.semOff % 4 == 0 && x.ringOff % 16 == 0
    && x.codeOff % 32 == 0 && x.constOff % 64 == 0 && x.constBytes % 64 == 0 && x.constDest % 64 == 0 && decide (x.constDest < spadSize)
    && x.regions.all (fun r => decide (r.1 + r.2 ≤ x.size)) && disjointRegions x.regions
    && (x.constBytes == 0 || decide (x.constDest + x.constBytes ≤ barrierBase))
    && (x.streams == 0 || decide (64 * x.streamDest + 64 * x.streams ≤ 0x40000))

/-- Kinds and counts of the loop table, in table order. -/
def Image.loops (x : Image) : List (Nat × Nat) :=
  (List.range x.levels).map fun i => (fld (x.loop i) 16 2, fld (x.loop i) 0 16)

/-- A loop-table entry within its limits. -/
def loopEntryOk (w : Nat) : Bool :=
  let n := fld w 0 16
  fld w 18 46 == 0 && match fld w 16 2 with
    | 0 => decide (n ≤ 4096)
    | 1 => decide (1 ≤ n) && decide (n ≤ 16)
    | 2 => decide (1 ≤ n) && decide (n ≤ 4)
    | _ => false

/-- A view entry: selector of vview, reserved bits zero. -/
def viewEntryOk (w : Nat) : Bool :=
  let sel := fld w 64 8
  fld w 72 56 == 0 && decide (sel ≤ 17) &&
    (if sel = 0 then fld w 18 46 == 0 else if sel = 17 then fld w 2 62 == 0 else fld w 23 41 == 0)

/-- A ring entry. -/
def ringEntryOk (w : Nat) : Bool :=
  decide (fld w 0 8 ≤ 15) && decide (2 ≤ fld w 8 8) && decide (fld w 8 8 ≤ 64) && decide (1 ≤ fld w 16 16)
    && fld w 32 32 % 32 == 0 && decide (fld w 32 32 < spadSize) && fld w 64 64 == 0

/-- The fields of a descriptor lie within the limits of Table 7-8: those that no state of a stream decides. -/
def descFieldsOk (d : BitVec 512) : Bool :=
  dctl d 40 24 == 0 && dctl d 0 8 == 0 && fld d.toNat 496 16 == 0 && (dBind d || dStream d == 0) && decide (dMode d ≤ 1)
    && (dMode d != 0 || (d &&& ~~~(BitVec.ofNat 512 ((0xF * 2 ^ 36 + 0xC00) * 2 ^ 64)) == 0))
    && (dMode d != 1 || (dIw d != 3 && decide (dRank d ≤ 4) && (List.range 4).all fun l => decide (l < dRank d) || dDim d l == 0))

/-- A stream descriptor of an image is within its limits, and one that dispatch applies at launch keeps the rules of sset (R192-R194). -/
def bindDescOk (d : BitVec 512) : Bool :=
  descFieldsOk d && (!dBind d || (descOk (dStream d) d && (dMode d != 1 || descAligned d)))

/-- The extent of the `k`-th level of a kind, 1 when absent (R309). -/
def Image.extent (x : Image) (kind k : Nat) : Nat := (((x.loops.filter fun l => l.1 == kind)[k]?).map fun l => l.2).getD 1

/-- The checks of R107 beyond the header. -/
def Image.bodyOk (x : Image) : Bool :=
  (List.range x.levels).all (fun i => loopEntryOk (x.loop i))
    && decide ((x.loops.filter fun l => l.1 == 1).length ≤ 2) && decide ((x.loops.filter fun l => l.1 == 2).length ≤ 1)
    && (List.range x.views).all (fun i => viewEntryOk (x.view i)) && (List.range x.sems).all (fun i => fld (x.sem i) 6 10 == 0)
    && (List.range x.rings).all (fun i => ringEntryOk (x.ring i)) && (List.range x.streams).all (fun i => bindDescOk (x.desc i))
    && (List.range x.lines).all (fun i => lineLast (x.line i) == decide (i + 1 = x.lines))

/-- Read the image at `va`: 64 bytes of header, then all of it when the header stands. -/
def State.readImage (s : State) (c : BitVec 6) (va : W64) : Checked State Image :=
  match s.span c .code va 2 64 with
  | .hold => .hold
  | .bad s x a => .bad s x a
  | .ok s hb =>
    let x : Image := { bytes := hb, h := ofBytes hb }
    if !x.headerOk then .ok s x
    else match s.span c .code va (x.size / 64 + 2) x.size with
      | .hold => .hold
      | .bad s e a => .bad s e a
      | .ok s b => .ok s { x with bytes := b }

/-- The dies that DIEMASK allows. -/
def diesAllowed (mask : Nat) : Nat := if mask = 0 then 4 else ((List.range 4).filter fun d => fld mask d 1 == 1).length

/-- The image and shape of a launch pass dispatch's checks (R107, R309). -/
def Image.ok (x : Image) (dieMask : Nat) : Bool :=
  x.headerOk && x.bodyOk && decide (x.extent 1 1 ≤ 10) && decide (x.extent 2 0 ≤ diesAllowed dieMask)

/-! ## Starting a launch (R289, R308) -/

/-- ARGN, ARGDEST and DIEMASK of an argument word. -/
def argN (w : W64) : Nat := fld w.toNat 0 4
def argDest (w : W64) : Nat := fld w.toNat 4 21
def argMask (w : W64) : Nat := fld w.toNat 32 4

/-- The fields that a DISPATCH packet and a LAUNCH record share, against their limits. -/
def argsBad (arg argw : W64) : Bool :=
  fld argw.toNat 25 7 != 0 || fld argw.toNat 36 28 != 0 || decide (8 < argN argw) || (argN argw == 0 && arg != 0)
    || (argN argw != 0 && decide (barrierBase < argDest argw + 64 * argN argw))

def argsMisaligned (kernel arg argw : W64) : Bool := kernel.toNat % 64 != 0 || arg.toNat % 64 != 0 || argDest argw % 64 != 0

/-- A launch that has been taken: PENDING. -/
def State.newLaunch (s : State) (q : BitVec 10) (c : BitVec 6) (from_ : LaunchFrom) (prio : Nat) (pre : Bool) (kernel arg argw sig start : W64)
    (x : Image) : State :=
  let l : Launch :=
    { id := s.nextLaunch, phase := .pending, ctx := c, queue := q, from_ := from_, prio := BitVec.ofNat 3 prio, pre := pre, kernel := kernel,
      arg := arg, argw := argw, sig := sig, startfcc := start, gx := x.extent 1 0, gy := x.extent 1 1, gd := x.extent 2 0,
      dieMask := BitVec.ofNat 4 (argMask argw), since := s.fcc, age := 0, slot := none, tiles := [], orient := 0, preempting := false,
      saved := [], replies := [], code := 0, image := x.bytes }
  { s with launches := s.launches ++ [l], nextLaunch := s.nextLaunch + 1 }

/-- How the start of a launch fares: taken; waiting for memory; or refused with a queue error.  The image that passes the checks is the one
that dispatch loads (DESIGN CHOICE, log entry 92). -/
def State.startLaunch (s : State) (q : BitVec 10) (c : BitVec 6) (from_ : LaunchFrom) (prio : Nat) (pre : Bool)
    (kernel arg argw sig start : W64) : Checked State Unit :=
  match s.span c .read arg (argN argw + 1) (64 * argN argw) with
  | .hold => .hold
  | .bad s _ a => .bad s 0x02 a
  | .ok s _ =>
    match s.readImage c kernel with
    | .hold => .hold
    | .bad s _ a => .bad s 0x02 a
    | .ok s x =>
      if x.ok (argMask argw) then .ok (s.newLaunch q c from_ prio pre kernel arg argw sig start x) () else .bad s 0x05 kernel

/-- DISPATCH: the Hearth takes the packet and starts a launch. -/
def execDispatch (q : BitVec 10) (pkt : BitVec 512) (s : State) : Out :=
  .next (
    let x := s.queue q
    let h := pkt.toNat
    let arg := pktWord pkt 2
    let argw := pktWord pkt 3
    if !x.takes pkt then s
    else match packetBad (fld h 8 8 != 0 || fld h 20 44 != 0 || fld h 320 128 != 0 || argsBad arg argw)
        (argsMisaligned (pktWord pkt 1) arg argw || (pktSig pkt).toNat % 8 != 0) with
      | some e => s.packetError q pkt e
      | none =>
        match s.startLaunch q x.ctx .packet (fld h 16 3) (fld h 19 1 == 0) (pktWord pkt 1) arg argw (pktSig pkt) (pktWord pkt 4) with
        | .hold => s.takeLater q pkt
        | .ok s' _ => s'.modQueue q fun y => { y with prog := some (.launch s.nextLaunch) }
        | .bad s e _ =>
          if e = 0x05 then
            let s := s.putQueue q { x.fail 0x05 0 x.progIdx with prog := none }
            s.signalStore (some q) x.ctx (pktSig pkt) (errorValue 0x83)
          else s.packetError q pkt e)

/-! ## Placement (R310, R311, R318-R320) -/

def State.modLaunch (s : State) (id : Nat) (f : Launch → Launch) : State :=
  { s with launches := s.launches.map fun (y : Launch) => if y.id == id then f y else y }

/-- The physical tile of a logical tile under a bind record (R311), when it lies on the die. -/
def placeTile (x0 y0 orient gx gy diemap i : Nat) : Option TileNo :=
  let lx := i % gx
  let ly := i / gx % gy
  let ld := i / (gx * gy)
  let t := fld orient 2 1 == 1
  let gxp := if t then gy else gx
  let gyp := if t then gx else gy
  let u := if t then ly else lx
  let v := if t then lx else ly
  let px := if fld orient 0 1 == 1 then x0 + gxp - 1 - u else x0 + u
  let py := if fld orient 1 1 == 1 then y0 + gyp - 1 - v else y0 + v
  if px < 16 ∧ py < 10 then tileOf? (160 * fld diemap (2 * ld) 2 + 16 * py + px) else none

/-- The tiles of a group in logical order, when its rectangle lies on the die. -/
def placeAll (x0 y0 orient gx gy gd diemap : Nat) : Option (List TileNo) :=
  (List.range (gx * gy * gd)).foldr (fun i acc =>
    match placeTile x0 y0 orient gx gy diemap i, acc with
    | some t, some l => some (t :: l)
    | _, _ => none) (some [])

/-- A tile of another bound launch. -/
def State.foreign (s : State) (t : TileNo) : Bool := let x := s.tile t; x.phase != .off && x.phase != .idle

/-- Dispatch accepts a placement (R311): every tile IDLE, dies distinct and allowed, T only on a square, pods not shared in SOLO. -/
def State.placeOk (s : State) (l : Launch) (orient diemap : Nat) (solo : Bool) (tiles : List TileNo) : Bool :=
  let dies := (List.range l.gd).map fun k => fld diemap (2 * k) 2
  decide dies.Nodup && dies.all (fun d => l.dieMask == 0 || l.dieMask.getLsbD d) && (fld orient 2 1 == 0 || l.gx == l.gy)
    && tiles.all (fun t => (s.tile t).phase == .idle)
    && tiles.all (fun t => tiles.contains (podMate t) || !s.foreign (podMate t) || (!solo && (s.pods[podOf t]).mode == 0))

/-- The bind record that carries a launch out at a place (Table 13-3). -/
def bindRecordOf (l : Launch) (x0 y0 orient diemap : Nat) (solo : Bool) : BitVec 512 :=
  let b2n (b : Bool) : Nat := if b then 1 else 0
  let grec := match l.from_ with | .packet => 0 | .record _ _ a => a.toNat
  BitVec.ofNat 512 (packFields [(1, 1), (6, l.ctx.toNat), (3, l.prio.toNat), (1, b2n l.pre), (3, orient), (1, b2n solo),
    (1, b2n (l.phase == .saved)), (4, l.gx - 1), (4, l.gy - 1), (2, l.gd - 1), (4, x0), (4, y0), (8, diemap), (10, l.queue.toNat), (12, 0),
    (64, l.kernel.toNat), (64, l.arg.toNat), (64, l.argw.toNat), (64, l.sig.toNat), (64, l.startfcc.toNat), (64, grec), (64, 0)])

/-- Each save record of a launch maps to present, writable pages that are not COMPRESSED (R276). -/
def State.saveOk (s : State) (c : BitVec 6) : Nat → W64 → Nat → Bool
  | 0, _, _ => true
  | _, _, 0 => true
  | fuel + 1, va, n =>
    match s.walk c va with
    | .error _ => false
    | .ok (e, size) =>
      let unit := size - va.toNat % size
      (match s.checkPte e size va .write false with | .ok p => !p.bar | .error _ => false)
        && s.saveOk c fuel (va + BitVec.ofNat 64 unit) (n - unit)

/-! ## Loading a tile (R312) -/

/-- A tile at its launch values: the scratchpad and the register-space SRAM keep what they held (log entry 15), but for the barrier
region, which dispatch clears (R347), and the accumulators, which are +0 (R199). -/
def Tile.fresh (x : Tile) (id : Nat) (l : Launch) (slot : BitVec 8) : Tile :=
  { Tile.blank with
    phase := .bound, ctx := l.ctx, launch := id, slot := slot, tcc := x.tcc, credit := x.credit
    spad := x.spad.filter fun b => decide (b.1 < barrierBase), rsp := x.rsp.filter fun b => decide (b.1 < accByte) }

/-- LTILE and GSHAPE of logical tile `i`, and the address of its save record (Table 11-3, R274). -/
def Tile.number (x : Tile) (l : Launch) (orient i : Nat) (saveBase : W64) : Tile :=
  let lx := i % l.gx
  let ly := i / l.gx % l.gy
  let ld := i / (l.gx * l.gy)
  { x with sys := { x.sys with
      ltile := w64 (packFields [(12, i), (4, lx), (4, ly), (4, ld)])
      gshape := w64 (packFields [(4, l.gx - 1), (4, l.gy - 1), (2, l.gd - 1), (3, orient)])
      saverec := saveBase + BitVec.ofNat 64 (i * saveRecordSize) } }

/-- The coordinate that spatial loop-table entry `n` reads (R309), or none for a temporal one. -/
def Image.coord (x : Image) (l : Launch) (i n : Nat) : Option Nat :=
  match (x.loops[n]?).map fun e => e.1 with
  | some 1 => if ((x.loops.take n).filter fun e => e.1 == 1).isEmpty then some (i % l.gx) else some (i / l.gx % l.gy)
  | some 2 => some (i / (l.gx * l.gy))
  | _ => none

/-- Load the tables of an image into a tile. -/
def Tile.load (t : Tile) (x : Image) (l : Launch) (i : Nat) (args : List Byte) : Tile :=
  let t := { t with
    ctl := { t.ctl with spillN := x.spill }
    fetch := { t.fetch with
      code := (List.range x.lines).map x.line
      table := x.loops.map fun e => { kind := BitVec.ofNat 2 e.1, count := BitVec.ofNat 16 e.2 }
      level := Vector.ofFn fun n => { active := false, ix := BitVec.ofNat 16 ((x.coord l i n.val).getD 0), count := 0, first := 0, length := 0 } } }
  let t := (List.range x.views).foldl (fun (t : Tile) k =>
    { t with vec := viewWrite t.vec (fld (x.view k) 64 8) (w64 (fld (x.view k) 0 64)) }) t
  let t := (List.range x.sems).foldl (fun (t : Tile) k =>
    { t with sync := { t.sync with sem := t.sync.sem.set (BitVec.ofNat 6 (fld (x.sem k) 0 6)).toNat (BitVec.ofNat 16 (fld (x.sem k) 16 16)) } }) t
  let t := (List.range x.rings).foldl (fun (t : Tile) k =>
    let w := x.ring k
    let r : Ring := { count := fld w 8 8, slotsz := fld w 16 16, base := fld w 32 32, rp := 0, fill := 0, res := 0, order := [] }
    t.setRing (BitVec.ofNat 6 (fld w 0 4)) r) t
  let t := (List.range x.streams).foldl (fun (t : Tile) k =>
    { t with rsp := t.rsp.writeN (64 * x.streamDest + 64 * k) 64 (x.desc k).toNat }) t
  let t := (List.range x.streams).foldl (fun (t : Tile) k =>
    let d := x.desc k
    if dBind d then t.applyDesc (BitVec.ofNat 3 (dStream d)) d 0 else t) t
  { t with spad := (t.spad.writeList x.constDest x.consts).writeList (argDest l.argw) args }

/-- A tile of a group that had completed before the launch was saved: every strand halted. -/
def Tile.finished (x : Tile) (id : Nat) (l : Launch) (slot : BitVec 8) : Tile :=
  let y := x.fresh id l slot
  { y with strand := y.strand.map fun st => { st with halted := true }, fetch := { y.fetch with ended := true } }

/-- A TC of the island a tile left, on the island it goes on in: the same distance from its present TC, or 0 where that lies before the
counter's start. -/
def rebase (old new v : W64) : W64 :=
  if v.ule old then (if (old - v).ule new then new - (old - v) else 0) else new + (v - old)

/-- A queue's entries on another island's counter. -/
def rebaseEnts (old new : W64) (q : List (Ent α)) : List (Ent α) := q.map fun e => { e with born := rebase old new e.born }

/-- A saved tile goes on with another island's counter. -/
def Tile.rebase (x : Tile) (new : W64) : Tile :=
  let r := Machine.rebase x.tcc new
  let f := x.fifo
  let br (b : Option PendingBranch) : Option PendingBranch :=
    b.map fun y => { y with issued := y.issued.map fun e => (r e.1, e.2) }
  { x with
    tcc := new
    fifo := { f with k := f.k.map (rebaseEnts x.tcc new), j := f.j.map (rebaseEnts x.tcc new), e := f.e.map (rebaseEnts x.tcc new),
                     qv := f.qv.map (rebaseEnts x.tcc new), qs := f.qs.map (rebaseEnts x.tcc new), ov := f.ov.map (rebaseEnts x.tcc new),
                     os := f.os.map (rebaseEnts x.tcc new), x := f.x.map (rebaseEnts x.tcc new) }
    fetch := { x.fetch with notBefore := r x.fetch.notBefore, branch := br x.fetch.branch }
    sfetch := { x.sfetch with notBefore := r x.sfetch.notBefore, branch := br x.sfetch.branch }
    strand := x.strand.map fun st => { st with reached := st.reached.map r }
    sync := { x.sync with bank := x.sync.bank.map fun b => { b with swappedAt := b.swappedAt.map r } } }

/-! ## BIND_RECORD -/

/-- The launch that a bind record names: one that is PENDING, or SAVED with RESUME, and whose fields it carries unchanged (R320). -/
def State.namedBy (s : State) (r : Nat) : Option Launch :=
  s.launches.find? fun l =>
    (if fld r 15 1 == 1 then l.phase == .saved else l.phase == .pending)
      && fld r 1 6 == l.ctx.toNat && fld r 7 3 == l.prio.toNat && fld r 10 1 == l.pre.toNat && fld r 42 10 == l.queue.toNat
      && fld r 16 4 + 1 == l.gx && fld r 20 4 + 1 == l.gy && fld r 24 2 + 1 == l.gd
      && fld r 64 64 == l.kernel.toNat && fld r 128 64 == l.arg.toNat && fld r 192 64 == l.argw.toNat && fld r 256 64 == l.sig.toNat
      && fld r 320 64 == l.startfcc.toNat
      && fld r 384 64 == (match l.from_ with | .packet => 0 | .record _ _ a => a.toNat)

/-- The mode that dispatch writes for a pod with a group tile. -/
def podModeFor (tiles : List TileNo) (solo : Bool) (t : TileNo) : BitVec 2 :=
  if !solo then 0 else if tiles.contains (podMate t) || t.val % 2 == 0 then 1 else 2

/-- Bind the tiles of a launch, each loaded by `f` from its logical number; none while one of them cannot be loaded. -/
def State.bindTiles (s : State) (f : Nat → TileNo → Tile → Option Tile) (tiles : List TileNo) : Option State :=
  tiles.zipIdx.foldl (fun (s : Option State) p => s.bind fun s => (f p.2 p.1 (s.tile p.1)).map fun x => s.setTile p.1 x) (some s)

/-- Bind a launch at its tiles (R311, R312). -/
def State.bind (s : State) (slot : BitVec 8) (rec : BitVec 512) (l : Launch) (orient : Nat) (solo : Bool) (tiles : List TileNo) : Option State :=
  let pre := l.pre && s.saveOk l.ctx (saveRecordSize / 4096 * tiles.length + 1) (s.ctx l.ctx).saveBase (saveRecordSize * tiles.length)
  let base := (s.ctx l.ctx).saveBase
  let s1 : State := { s with slots := s.slots.set slot.toNat rec }
  let s1 : State := tiles.foldl (fun (s : State) t =>
    { s with pods := s.pods.set (podOf t) { (s.pods[podOf t]) with mode := podModeFor tiles solo t } }) s1
  let s1 : State := s1.modLaunch l.id fun y =>
    { y with phase := .binding, slot := some slot, tiles := tiles, orient := BitVec.ofNat 3 orient, pre := pre, preempting := false
             since := s.fcc }
  if l.phase == .saved then
    s1.bindTiles (fun i t x =>
      match l.saved.find? fun y => fld y.sys.ltile.toNat 0 12 == i with
      | none => some ((x.finished l.id l slot).number l orient i base)
      | some y =>
        (s.readRecord t { (y.rebase x.tcc) with phase := .bound, slot := slot, credit := x.credit, tlb := [] }).map fun z =>
          let z := z.number l orient i base
          match l.replies.find? fun r => r.1 == i with
          | some r => { z with sys := { z.sys with reply := some r.2 } }
          | none => z) tiles
  else
    match s1.span l.ctx .read l.arg (argN l.argw + 1) (64 * argN l.argw) with
    | .ok s1 args =>
      let x : Image := { bytes := l.image, h := ofBytes (l.image.take 64) }
      s1.bindTiles (fun i _ y => some (((y.fresh l.id l slot).load x l i args).number l orient i base)) tiles
    | _ => none

/-- Carry out a bind record, or nothing where dispatch refuses it (R311). -/
def State.carryOut (s : State) (slot : BitVec 8) (rec : BitVec 512) : Option State :=
  let r := rec.toNat
  if fld r 0 1 == 0 || fld r 52 12 != 0 || fld r 448 64 != 0 || s.slots[slot.toNat] != 0 then none
  else match s.namedBy r with
    | none => none
    | some l =>
      if !s.ctxLive l.ctx then none else
      let orient := fld r 11 3
      let solo := fld r 14 1 == 1
      match placeAll (fld r 26 4) (fld r 30 4) orient l.gx l.gy l.gd (fld r 34 8) with
      | none => none
      | some tiles => if s.placeOk l orient (fld r 34 8) solo tiles then s.bind slot rec l orient solo tiles else none

/-- BIND_RECORD: the firmware writes a bind record, and dispatch carries it out or refuses it and writes nothing. -/
def execBindRecord (slot : BitVec 8) (rec : BitVec 512) (s : State) : Out := .next ((s.carryOut slot rec).getD s)

/-- Effective priority (R318). -/
def Launch.effective (l : Launch) : Nat := min 7 (l.prio.toNat + l.age)

/-- Some placement of a launch would be accepted now. -/
def State.placeable (s : State) (l : Launch) : Bool :=
  (List.range 8).any fun o => (List.range (4 ^ l.gd)).any fun dm =>
    (List.range 16).any fun x0 => (List.range 10).any fun y0 =>
      match placeAll x0 y0 o l.gx l.gy l.gd dm with
      | some ts => s.placeOk l o dm false ts || s.placeOk l o dm true ts
      | none => false

/-- The launch that the firmware places next (R318): of those that can be placed, of highest effective priority, and among those the
queue next in turn. -/
def State.nextPlaced (s : State) : Option Launch :=
  let ls := s.launches.filter fun l => (l.phase == .pending || l.phase == .saved) && s.placeable l
  let top := ls.foldl (fun n (l : Launch) => max n l.effective) 0
  let turn (l : Launch) : Nat := (l.queue - s.served - 1).toNat
  (ls.filter fun l => l.effective == top).foldl (fun (acc : Option Launch) l =>
    match acc with
    | some b => if turn l < turn b then some l else some b
    | none => some l) none

/-- The queue whose launch was placed last. -/
def State.lastServed (s : State) (q : BitVec 10) : State := { s with served := q }

/-- The firmware may set the watchdog's period, 1-1,000 ms, as it places a launch (R268: when it does, and to what, is its choice; DESIGN CHOICE,
log entry 94). -/
def State.firmwareWatchdog (s : State) (n : Nat) : State :=
  match Config.watchdogPeriod n with
  | some ms => { s with manage := { s.manage with watchdogMs := max 1 (min 1000 ms) } }
  | none => s

/-- PLACE_LAUNCH: the firmware chooses a placement for a launch that is PENDING or SAVED, and writes its bind record. -/
def execPlaceLaunch (l : Nat) (slot : BitVec 8) (x0 y0 : BitVec 4) (orient : BitVec 3) (diemap : BitVec 8) (pmode : Bool) (s : State) : Out :=
  .next (
    match s.launch l with
    | some y =>
      if y.phase == .pending || y.phase == .saved then
        match s.carryOut slot (bindRecordOf y x0.toNat y0.toNat orient.toNat diemap.toNat pmode) with
        | some s' => (s'.firmwareWatchdog s.drawn).lastServed y.queue
        | none => s
      else s
    | none => s)

/-- GROUP_START: every tile loaded and the start FC reached: all tiles enter RUNNING in this FC; a tile that was saved TRAPPED goes on
in its handler as its first TC begins (R273; log entry 32). -/
def execGroupStart (slot : BitVec 8) (s : State) : Out :=
  .next (
    match s.launches.find? fun l => l.slot == some slot && l.phase == .binding with
    | none => s
    | some l =>
      if s.fcc.ult l.startfcc then s
      else
        let s := s.mapTiles fun _ x =>
          if x.launch == l.id && x.phase == .bound then { x with phase := .running, quiet := 0 }
          else x
        s.modLaunch l.id fun y => { y with phase := .running, saved := [], replies := [] })

/-! ## Draining and completion (R48, R313) -/

/-- What a tile's strands issued is done: commands raised, accesses performed, packets returned (R48, R273). -/
def State.workDone (s : State) (t : TileNo) : Bool :=
  let x := s.tile t
  (x.mx.cmds.all fun c => c.followOn) && x.xf.cmd.isNone && x.tx.cmd.isNone && x.rx.cmd.isNone && x.ld.pending.isEmpty && x.st.pending.isEmpty
    && x.ld.stream.all (fun y => y.waits.isEmpty) && s.aggClear t && x.st.aggWait.isNone

/-- Reports of a draining tile that its control strand did not take become asynchronous records (R48). -/
def State.recordReached (s : State) (t : TileNo) : State :=
  Strand.all.foldl (fun (s : State) k =>
    let x := s.tile t
    let st := x.str k
    if st.reached.isNone then s
    else
      (s.makeRecord x.ctx st.fault.cause k.pos false false true 0 st.fault.faddr (fld x.sys.ltile.toNat 0 12) t.val
        (x.infoOf { code := 0, tcode := fld st.fault.cause.toNat 16 14 })).modTile t fun y => y.modStr k fun z => { z with reached := none }) s

/-- TILE_DRAIN_COMPLETE: every strand has halted and the tile's work has drained; the tile enters IDLE.  The vector strand's
instructions finish, and a pending sig of it is performed, before that (06_vector.md R162). -/
def execTileDrainComplete (t : TileNo) (s : State) : Out :=
  .next (
    let x := s.tile t
    if x.draining && !x.preempt && s.workDone t && x.vec.recs.isEmpty && x.ld.sigs.isEmpty && x.st.sigs.isEmpty then
      (s.recordReached t).modTile t Tile.release
    else if x.draining then s.recordReached t
    else s)

/-- An element of a launch is in an aggregation buffer, or on its way into one. -/
def State.launchAggregates (s : State) (id : Nat) : Bool :=
  s.remote.bellows.any fun b =>
    b.bufs.any (fun u => u.phase != .free && u.elems.any fun e => e.launch == id)
      || (b.waiting ++ b.arriving).any fun e => e.2.launch == id

/-- The conditions of R313. -/
def State.launchDone (s : State) (l : Launch) : Bool :=
  l.phase == .running && s.ctxLive l.ctx && l.tiles.all (fun t => let x := s.tile t; !(x.launch == l.id && x.phase != .idle && x.phase != .off))
    && !s.launchAggregates l.id
    && s.events.all fun e => match e with
      | .set _ id _ => id != l.id
      | .clear _ id _ => id != l.id
      | .test _ _ _ _ => true

def State.putGraph (s : State) (c : BitVec 6) (g : Option Graph) : State := { s with graphs := s.graphs.set c.toNat g }

/-- Apply a SET mask (R315). -/
def State.setEvents (s : State) (c : BitVec 6) (m : BitVec 256) : State := s.modCtx c fun x => { x with events := x.events ||| m }

/-- A launch leaves its graph. -/
def Graph.leave (g : Graph) (id : Nat) : Graph := { g with launches := g.launches.erase id }

/-- LAUNCH_COMPLETE: SET mask, signal, and the bind record is freed (R313). -/
def execLaunchComplete (l : Nat) (s : State) : Out :=
  .next (
    match s.launch l with
    | none => s
    | some y =>
      if !s.launchDone y || s.signalHeld y.ctx y.sig then s
      else
        let s := match y.from_ with
          | .packet => s
          | .record m _ _ =>
            let s := s.setEvents y.ctx m
            match s.graphs[y.ctx.toNat] with
            | some g => s.putGraph y.ctx (some (g.leave l))
            | none => s
        let s := match y.from_ with
          | .packet => s.packetDone y.queue
          | .record _ _ _ => s
        let s := s.signalDone (some y.queue) y.ctx y.sig
        { s with
          launches := s.launches.map fun (z : Launch) => if z.id == l then { z with phase := .done, slot := none } else z
          slots := match y.slot with | some n => s.slots.set n.toNat 0 | none => s.slots })

/-! ## Pre-emption (R273, R319) -/

/-- A collective of a tile is in progress (R338): a command of its send strand, a promised landing, or a tree's round of which it is a leaf,
until the result has landed. -/
def State.collective (s : State) (t : TileNo) : Bool :=
  let x := s.tile t
  x.tx.cmd.isSome || s.fcc.ult x.tx.promise
    || (s.fabric.rounds ++ s.fabric.sentUp).any (fun r => r.leaves.any fun l => l.1 == t)
    || s.fabric.flits.any fun f => f.src == t.val && f.dstPkg == s.pkg && f.dstDie.toNat * 160 + f.dstTile == t.val && f.srcCtx == x.ctx

/-- A collective of a launch is in progress, of a tile that has halted too. -/
def State.launchCollective (s : State) (l : Launch) : Bool := l.tiles.any fun t => (s.tile t).launch == l.id && s.collective t

/-- The tiles of a launch that it still holds. -/
def State.heldTiles (s : State) (l : Launch) : List TileNo :=
  l.tiles.filter fun t => let x := s.tile t; x.launch == l.id && x.phase != .idle && x.phase != .off

/-- A ratio change is held behind the launch (R17, R20). -/
def State.holdsRatio (s : State) (l : Launch) : Bool :=
  l.from_ == .packet && (s.heldTiles l).any fun t => ((s.manage.islands[islandOf t]).held.isSome && (s.manage.islands[islandOf t]).forced)

/-- The state with the tiles of launches idle. -/
def State.without (s : State) (ids : List Nat) : State :=
  s.mapTiles fun _ x => if ids.contains x.launch && x.phase != .off then { x with phase := .idle } else x

/-- The launches that the firmware pre-empts for a launch that it cannot place otherwise (R319): of the RUNNING launches with PRE = 1 and a
lower PRIO, as few as need be; those already being pre-empted first, then the older (DESIGN CHOICE, log entry 93). -/
def State.victims (s : State) (p : Launch) : List Nat :=
  let may := s.launches.filter fun l => l.phase == .running && l.pre && decide (l.prio.toNat < p.prio.toNat)
  let ids := ((may.filter fun l => !l.preempting).reverse ++ may.filter fun l => l.preempting).map fun l => l.id
  if s.placeable p || !(s.without ids).placeable p then []
  else ids.foldl (fun keep v => if (s.without (keep.erase v)).placeable p then keep.erase v else keep) ids

/-- The cases in which the firmware pre-empts a launch (R319). -/
def State.mayPreempt (s : State) (l : Launch) : Bool :=
  l.phase == .running && l.pre && (s.holdsRatio l ||
    s.launches.any fun p => (p.phase == .pending || p.phase == .saved) && decide (l.prio.toNat < p.prio.toNat) && (s.victims p).contains l.id)

/-- Nothing of a tile is under way: it can be saved. -/
def State.canSave (s : State) (t : TileNo) : Bool :=
  let x := s.tile t
  s.workDone t && x.mx.cmds.isEmpty && x.ctl.wait.isNone && x.ctl.swait.isNone
    && s.events.all fun e => match e with
      | .set _ id _ => id != x.launch
      | .clear _ id _ => id != x.launch
      | .test _ u _ _ => u != t

/-- PREEMPTION: the firmware asks; once no collective is in progress the strands stop; each tile whose work is done enters SAVING. -/
def execPreemption (l : Nat) (s : State) : Out :=
  .next (
    match s.launch l with
    | none => s
    | some y =>
      if y.phase != .running || !(y.preempting || s.mayPreempt y) then s
      else
        let s := s.modLaunch l fun z => { z with preempting := true }
        let held := s.heldTiles y
        let s := if s.launchCollective y then s
          else held.foldl (fun (s : State) t => s.modTile t fun x =>
            if x.phase == .running || x.phase == .trapped then { x with preempt := true } else x) s
        held.foldl (fun (s : State) t =>
          let s := s.leaveOf t
          let x := s.tile t
          if x.preempt && (x.phase == .running || x.phase == .trapped) && s.canSave t then
            s.setTile t { x with savedSup := x.phase == .trapped, phase := .saving, attn := false }
          else s) s)

/-- SAVE_COMPLETE: the tile's save record is written and it enters IDLE; with the last one the launch is SAVED. -/
def execSaveComplete (t : TileNo) (s : State) : Out :=
  .next (
    let x := s.tile t
    if x.phase != .saving then s
    else match s.writeRecord t with
    | none => s
    | some s =>
      let s := s.modLaunch x.launch fun y => { y with saved := y.saved ++ [{ x with preempt := false }] }
      let s := s.setTile t x.release
      match s.launch x.launch with
      | none => s
      | some y =>
        if (s.heldTiles y).isEmpty then
          { s with
            launches := s.launches.map fun (z : Launch) =>
              if z.id == y.id then { z with phase := .saved, slot := none, preempting := false, since := s.fcc, age := 0 } else z
            slots := match y.slot with | some n => s.slots.set n.toNat 0 | none => s.slots }
        else s)

/-- PRIORITY_AGING: each whole millisecond in PENDING or SAVED raises the effective priority by one. -/
def execPriorityAging (l : Nat) (s : State) : Out :=
  .next (s.modLaunch l fun y =>
    if (y.phase == .pending || y.phase == .saved) && decide ((y.age + 1) * oneMs ≤ (s.fcc - y.since).toNat) then { y with age := y.age + 1 } else y)

/-! ## Graphs (R314-R317) -/

/-- GRAPH: the packet hands its graph to its context's sequencer, or holds its queue until that is free. -/
def execGraph (q : BitVec 10) (pkt : BitVec 512) (s : State) : Out :=
  .next (
    let x := s.queue q
    let h := pkt.toNat
    if !(x.takes pkt || x.prog == some (.graph pkt false)) then s
    else match packetBad (fld h 8 56 != 0 || fld h 160 288 != 0) (fld h 64 7 != 0 || (pktSig pkt).toNat % 8 != 0) with
      | some e => s.packetError q pkt e
      | none =>
        if (s.graphs[x.ctx.toNat]).isSome then s.modQueue q fun y => { y with prog := some (.graph pkt false) }
        else
          let g : Graph :=
            { queue := q, addr := pktWord pkt 1, passMax := BitVec.ofNat 32 (fld h 128 32), pass := 0, sig := pktSig pkt, next := 0,
              launches := [], snapops := 0, issued := 0, failed := none, stopped := x.phase == .draining }
          (s.modQueue q fun y => { y with prog := some (.graph pkt true) }).putGraph x.ctx (some g))

/-- The graph takes no further record: an error with STATUS.ERR 0x02 or 0x05 pauses its queue (R317). -/
def State.failGraph (s : State) (c : BitVec 6) (g : Graph) (value err : Nat) : State :=
  let x := s.queue g.queue
  let s := if err = 0 then s
    else s.putQueue g.queue (x.fail err 0 x.progIdx)
  s.putGraph c (some { g with failed := some (g.failed.getD (BitVec.ofNat 64 value, BitVec.ofNat 8 err)) })

/-- The record that a context's sequencer holds at, when its WAIT events are set; a record that cannot be read or that breaks a rule
ends the graph. -/
inductive RecordFate where
  | none
  | bad
  | ready (g : Graph) (r : Nat)

def recType (r : Nat) : Nat := fld r 0 8
def recSet (r : Nat) : BitVec 256 := BitVec.ofNat 256 (fld r 768 256)
def recTest (r : Nat) : BitVec 256 := BitVec.ofNat 256 (fld r 256 256)
def recWait (r : Nat) : BitVec 256 := BitVec.ofNat 256 (fld r 512 256)
def recWord (r i : Nat) : W64 := BitVec.ofNat 64 (fld r (64 * i) 64)

/-- The target of a JUMPIF at record `n`. -/
def jumpTarget (n r : Nat) : Int := n + (BitVec.ofNat 32 (fld r 32 32)).toInt

/-- A record with a reserved type or field, a target outside the graph, or an unaligned address (R317). -/
def recBad (n r : Nat) : Bool :=
  fld r 8 8 != 0 || match recType r with
  | 1 => fld r 20 44 != 0 || fld r 320 192 != 0 || argsBad (recWord r 2) (recWord r 3)
      || argsMisaligned (recWord r 1) (recWord r 2) (recWord r 3) || fld r 256 3 != 0
  | 2 => decide (2 < fld r 16 3) || fld r 19 29 != 0 || fld r 64 448 != 0
  | 3 => fld r 18 14 != 0 || fld r 64 192 != 0 || decide (jumpTarget n r < 0) || decide (65535 < jumpTarget n r)
  | 4 => fld r 20 12 != 0 || fld r 43 21 != 0 || fld r 192 320 != 0
      || signalBad (fld r 16 3) (fld r 32 11) (recWord r 1) (recWord r 2) || (decide (fld r 16 3 < 2) && (recWord r 2).toNat % 8 != 0)
  | 5 => fld r 17 47 != 0 || fld r 64 448 != 0
  | _ => true

/-- The address of record `n`. -/
def Graph.recAt (g : Graph) (n : Nat) : W64 := g.addr + BitVec.ofNat 64 (128 * n)

/-- Read the record that the sequencer of context `c` holds at, and judge it. -/
def State.record (s : State) (c : BitVec 6) : RecordFate :=
  match s.graphs[c.toNat] with
  | none => .none
  | some g =>
    if g.failed.isSome || g.stopped then .none
    else if 65535 < g.next then .bad
    else match s.span c .read (g.recAt g.next) 3 128 with
      | .hold => .none
      | .bad _ _ _ => .bad
      | .ok _ b =>
        let r := ofBytes b
        if recBad g.next r then .bad
        else if (s.ctx c).events &&& recWait r == recWait r then .ready g r else .none

/-- Act on a ready record of one type; a bad record ends the graph whatever step meets it. -/
def State.onRecord (s : State) (c : BitVec 6) (ty : Nat) (f : Graph → Nat → State) : State :=
  match s.record c with
  | .none => s
  | .bad => match s.graphs[c.toNat] with
    | some g => s.failGraph c g (errorValue 0x82) 0x02
    | none => s
  | .ready g r => if recType r == ty then f g r else s

/-- GRAPH_LAUNCH_RECORD: a ready LAUNCH record issues its launch; the 33rd in flight holds.  The sequencer looks at the next record in the same
FC (R315). -/
def execGraphLaunchRecord (c : BitVec 6) (s : State) : Out :=
  .next (s.onRecord c 1 fun g r =>
    if 32 ≤ g.launches.length then s
    else match s.startLaunch g.queue c (.record (recSet r) g.issued (g.recAt g.next)) (fld r 16 3) (fld r 19 1 == 0) (recWord r 1) (recWord r 2)
        (recWord r 3) (recWord r 4) 0 with
      | .hold => s
      | .ok s' _ =>
        (s'.putGraph c (some { g with next := g.next + 1, launches := g.launches ++ [s.nextLaunch], issued := g.issued + 1 })).next
          [.graphLaunchRecord c, .snapop c]
      | .bad s e _ =>
        let s := s.signalStore (some g.queue) c (recWord r 4) (errorValue (if e = 0x05 then 0x83 else 0x82))
        s.failGraph c g (errorValue (if e = 0x05 then 0x83 else 0x82)) e)

/-- SNAPOP: a ready record hands its operation to the snapshot sequencer. -/
def execSnapop (c : BitVec 6) (s : State) : Out :=
  .next (s.onRecord c 2 fun g r =>
    let op : SnapOp :=
      { ctx := c, who := .graph (recSet r) g.issued, form := fld r 16 3, operand := w64 (fld r 48 16), rejecting := none }
    (({ s with snapOps := s.snapOps ++ [op] } : State).putGraph c
      (some { g with next := g.next + 1, snapops := g.snapops + 1, issued := g.issued + 1 })).next [.graphLaunchRecord c, .snapop c])

/-- The condition of a JUMPIF. -/
def jumpTaken (cond : Nat) (e test : BitVec 256) : Bool :=
  match cond with
  | 0 => true
  | 1 => e &&& test != 0
  | 2 => e &&& test == test
  | _ => e &&& test == 0

/-- JUMPIF: taken, SET is applied. -/
def execJumpif (c : BitVec 6) (s : State) : Out :=
  .next (s.onRecord c 3 fun g r =>
    if jumpTaken (fld r 16 2) (s.ctx c).events (recTest r) then
      (s.setEvents c (recSet r)).putGraph c (some { g with next := (jumpTarget g.next r).toNat, issued := g.issued + 1 })
    else s.putGraph c (some { g with next := g.next + 1, issued := g.issued + 1 }))

/-- GRAPH_SIGNAL_RECORD: the operation of a SIGNAL packet on TARGET, then SET; a target that fails translation ends the graph. -/
def execGraphSignalRecord (c : BitVec 6) (s : State) : Out :=
  .next (s.onRecord c 4 fun g r =>
    match s.signalOp c (fld r 16 3) (recWord r 1) (recWord r 2) with
    | .hold => s
    | .bad s x a => ((s.asyncRecord c x 0 0 a).queueFault g.queue x).failGraph c g (errorValue x) 0
    | .ok s' _ =>
      let s' := if fld r 19 1 = 1 then s'.sendMsix c (BitVec.ofNat 6 (fld r 32 11)) else s'
      (s'.setEvents c (recSet r)).putGraph c (some { g with next := g.next + 1, issued := g.issued + 1 }))

/-- The LAUNCH records that a drained graph has not issued, up to its END: their signals (R285, R307); none while a record cannot be read. -/
def State.cancelRecords (s : State) (c : BitVec 6) (g : Graph) : Nat → Nat → Option State
  | 0, _ => some s
  | fuel + 1, n =>
    match s.span c .read (g.recAt n) 3 128 with
    | .ok s b =>
      let r := ofBytes b
      let s := if recType r == 1 then s.signalStore (some g.queue) c (recWord r 4) (errorValue 0x80) else s
      if recType r == 5 || recBad n r then some s else s.cancelRecords c g fuel (n + 1)
    | .hold => none
    | .bad s _ _ => some s

/-- The graph of a context ends: its packet completes. -/
def State.endGraph (s : State) (c : BitVec 6) (g : Graph) : State := (s.putGraph c none).packetDone g.queue

/-- GRAPH_END_RECORD: the pass boundary, once every launch and SNAPOP of the pass has completed; a graph that failed or was drained
ends once nothing of it is in flight. -/
def execGraphEndRecord (c : BitVec 6) (s : State) : Out :=
  .next (
    match s.graphs[c.toNat] with
    | none => s
    | some g0 =>
      let idle := g0.launches.isEmpty && g0.snapops == 0
      match g0.failed with
      | some (v, _) => if idle then (s.endGraph c g0).signalStore (some g0.queue) c g0.sig v.toNat else s
      | none =>
        if g0.stopped then
          if idle then
            match s.cancelRecords c g0 65536 g0.next with
            | some s => (s.endGraph c g0).signalStore (some g0.queue) c g0.sig (errorValue 0x80)
            | none => s
          else s
        else s.onRecord c 5 fun g r =>
          if !idle then s
          else
            let n := g.pass + 1
            if fld r 16 1 == 1 && (g.passMax == 0 || n.ult g.passMax) then
              (s.modCtx c fun x => { x with events := x.events &&& recSet r }).putGraph c (some { g with pass := n, next := 0 })
            else if s.signalHeld c g.sig then s
            else (s.endGraph c { g with pass := n }).signalDone (some g.queue) c g.sig)

end Sys2Proof.Machine
end

