-- ==== Sys2Proof/Machine/Snapshot.lean ====
section
/-!
DEFINITION. Snapshots (17_snapshot.md R372-R388): the range and budget registers, the four forms and the SNAPOP record at the hub's
sequencer, background frees and restores, and the reject's completion.
-/
namespace Sys2Proof.Machine
open Sys2Proof

/-! ## Ranges and entries -/

def State.snap (s : State) (c : BitVec 6) : Snap := s.snaps[c.toNat]

def State.modSnap (s : State) (c : BitVec 6) (f : Snap → Snap) : State := { s with snaps := s.snaps.set c.toNat (f (s.snap c)) }

def Snap.range (x : Snap) (i : Fin 16) : SnapRange := x.ranges[i]

def State.setRange (s : State) (c : BitVec 6) (i : Fin 16) (r : SnapRange) : State :=
  s.modSnap c fun x => { x with ranges := x.ranges.set i r }

/-- D(r). -/
def SnapRange.depth (r : SnapRange) : Nat := r.gens.length

/-- An entry of a range in a phase. -/
def Shadow.isOf (e : Shadow) (c : BitVec 6) (i : Fin 16) : Bool := e.ctx == c && e.range == i

/-- Entries of the range await restore. -/
def State.awaits (s : State) (c : BitVec 6) (i : Fin 16) : Bool :=
  s.store.shadows.any fun e => e.isOf c i && e.phase == ShadowPhase.awaiting

def State.mapShadows (s : State) (f : Shadow → Shadow) : State :=
  { s with store := { s.store with shadows := s.store.shadows.map f } }

/-- The first address of a range, and its size in bytes. -/
def SnapRange.start (r : SnapRange) : Nat := r.base.toNat * 65536
def SnapRange.bytes (r : SnapRange) : Nat := (r.sizem1.toNat + 1) * 65536

/-! ## The registers (R372-R374) -/

/-- Why a range cannot be enabled (R373). -/
def State.rangeRefused (s : State) (c : BitVec 6) (i : Fin 16) (r : SnapRange) : Bool :=
  let stop := r.start + r.bytes
  decide (4 < r.die.toNat) || decide (carveOut r.die < stop)
    || ((List.range 64).any fun d => (List.finRange 16).any fun j =>
        let q := (s.snap (BitVec.ofNat 6 d)).range j
        !(d == c.toNat && j == i) && q.en && q.die == r.die && decide (q.start < stop) && decide (r.start < q.start + q.bytes))
    || (s.store.attr.any fun e =>
        decide (homeKey s.pkg r.die r.start / 65536 ≤ e.1) && decide (e.1 < homeKey s.pkg r.die stop / 65536))

/-- Word 0 of SRANGEn as a write leaves it. -/
def SnapRange.word0 (r : SnapRange) (v : W64) : SnapRange :=
  { r with en := v.getLsbD 0, die := v.extractLsb' 52 3, base := v.extractLsb' 16 36 }

/-- Enable a range as it stands after a write, or refuse (R373). -/
def State.enableRange (s : State) (c : BitVec 6) (i : Fin 16) (new : SnapRange) : State :=
  let old := (s.snap c).range i
  if s.rangeRefused c i new then s.setRange c i { old with err := true } else s.setRange c i { new with en := true, err := false }

/-- SRANGE_WRITE: a write of a word of SRANGEn. -/
def execSrangeWrite (c : BitVec 6) (n : BitVec 4) (hiWord : Bool) (v : W64) (s : State) : Out :=
  .next (
    let i : Fin 16 := n.toFin
    let old := (s.snap c).range i
    let clears := !hiWord && old.en && !v.getLsbD 0
    if s.awaits c i || (old.depth != 0 && !clears) then s
    else if clears then
      let op : SnapOp :=
        { ctx := c, who := .register, form := 4, operand := (v &&& ~~~0xFFFF#64) ||| BitVec.ofNat 64 (4 * i.val), rejecting := none }
      { s with snapOps := s.snapOps ++ [op] }
    else
      let new := if hiWord then { old with sizem1 := v.extractLsb' 0 20 } else old.word0 v
      if new.en then s.enableRange c i new else s.setRange c i new)

/-- SPOOL_WRITE: BUDGET takes effect at once. -/
def execSpoolWrite (c : BitVec 6) (v : W64) (s : State) : Out := .next (s.modSnap c fun x => { x with budget := v.extractLsb' 0 24 })

/-- A word of SRANGEn as it reads. -/
def SnapRange.read (r : SnapRange) (hiWord : Bool) : W64 :=
  if hiWord then w64 r.sizem1.toNat
  else w64 (packFields [(1, if r.en then 1 else 0), (1, if r.err then 1 else 0), (14, 0), (36, r.base.toNat), (3, r.die.toNat)])

/-! ## The forms (R379-R385) -/

/-- A form issues: its operation goes to the sequencer, and the control strand holds until it has been performed. -/
def snapForm (form : Nat) (d a : BitVec 5) (p : BitVec 3) (n : BitVec 1) (s0 : State) : Out :=
  .next (s0.issue .control fun s =>
    let t := s.cur
    if !t.guard p n then .done s
    else
      match t.queueOf .control with
      | [] => .hold
      | e :: _ =>
        let op : SnapOp := { ctx := t.ctx, who := .tile s.here t.isSup d, form := form, operand := t.s a, rejecting := none }
        .done (({ s with snapOps := s.snapOps ++ [op] } : State).modTile s.here (·.setWait (some (.snapshot d e s0.cur.bank (s0.cur.fpsr .control))))))

def execSnap (d a : BitVec 5) (p : BitVec 3) (n : BitVec 1) (s : State) : Out := snapForm 0 d a p n s
def execAccept (d a : BitVec 5) (p : BitVec 3) (n : BitVec 1) (s : State) : Out := snapForm 1 d a p n s
def execReject (d a : BitVec 5) (p : BitVec 3) (n : BitVec 1) (s : State) : Out := snapForm 2 d a p n s
def execSnapq (d a : BitVec 5) (p : BitVec 3) (n : BitVec 1) (s : State) : Out := snapForm 3 d a p n s

/-! ## The sequencer (R380-R385) -/

/-- The ranges a mask names, lowest first. -/
def namedRanges (m : W64) : List (Fin 16) := (List.finRange 16).filter fun i => m.getLsbD i.val

/-- The home counter of a range's home. -/
def State.genOf (s : State) (die : BitVec 3) : Nat := if h : die.toNat < 5 then s.store.gen[die.toNat] else 0

/-- Open a level at a range (R381). -/
def State.openLevel (s : State) (c : BitVec 6) (i : Fin 16) : State :=
  let r := (s.snap c).range i
  let g := s.genOf r.die + 1
  let s := if h : r.die.toNat < 5 then { s with store := { s.store with gen := s.store.gen.set r.die.toNat g } } else s
  s.setRange c i { r with gens := r.gens ++ [g] }

/-- Every entry of a level is freed lazily, but for those that become entries of the level below (R382). -/
def State.dropLevel (s : State) (c : BitVec 6) (i : Fin 16) (k : Nat) : State :=
  let older (e : Shadow) : Bool := s.store.shadows.any fun y =>
    y.isOf c i && y.home == e.home && y.line == e.line && y.level + 1 == k && y.phase == ShadowPhase.held
  s.mapShadows fun e =>
    if e.isOf c i && e.level == k && e.phase == ShadowPhase.held then
      if k ≤ 1 || older e then { e with phase := ShadowPhase.freeing } else { e with level := k - 1 }
    else e

/-- accept at one range. -/
def State.acceptRange (s : State) (c : BitVec 6) (i : Fin 16) : State :=
  let r := (s.snap c).range i
  (s.dropLevel c i r.depth).setRange c i { r with gens := r.gens.dropLast }

/-- reject at one range: the entries of its innermost level await restore, and every CACHED copy in the range is dropped (R383). -/
def State.rejectRange (s : State) (c : BitVec 6) (i : Fin 16) : State :=
  let r := (s.snap c).range i
  let lo := homeKey s.pkg r.die r.start / 128
  let hi := homeKey s.pkg r.die (r.start + r.bytes) / 128
  let s := s.mapShadows fun e =>
    if e.isOf c i && e.level == r.depth && e.phase == ShadowPhase.held then { e with phase := ShadowPhase.awaiting } else e
  let s := s.setRange c i { r with gens := r.gens.dropLast }
  (List.range 4).foldl (fun (s : State) d => s.dropCopies d fun k => decide (lo ≤ k) && decide (k < hi)) s

/-- The cause with which a form fails its checks, before anything is changed (R379). -/
def State.snapCause (s : State) (op : SnapOp) : Option Nat :=
  let rs := namedRanges op.operand
  let x := s.snap op.ctx
  let spent (i : Fin 16) : Bool :=
    decide (2 ^ 48 - 1 < s.genOf (x.range i).die + (rs.filter fun j => (x.range j).die == (x.range i).die).length)
  if op.form == 3 then (if op.operand.toNat < 16 then none else some cSnapRange)
  else if op.form == 4 then none
  else if rs.isEmpty || op.operand.toNat ≥ 65536 || rs.any (fun i => !(x.range i).en) || (op.form == 0 && rs.any spent) then some cSnapRange
  else if rs.any fun i => if op.form == 0 then (x.range i).depth == 4 else (x.range i).depth == 0 then some cSnapNesting
  else none

/-- The word of snapq (Table 17-6). -/
def State.snapWord (s : State) (c : BitVec 6) (i : Fin 16) : W64 :=
  let r := (s.snap c).range i
  let used := (s.store.shadows.filter fun e => e.ctx == c).length
  w64 (packFields [(3, r.depth), (3, 0), (1, if s.awaits c i then 1 else 0), (1, if r.en then 1 else 0), (32, 0), (24, (s.snap c).budget.toNat - used)])

/-- The value that a performed form returns. -/
def State.snapResult (s : State) (op : SnapOp) : W64 :=
  if op.form == 3 then s.snapWord op.ctx (op.operand.extractLsb' 0 4).toFin
  else match (namedRanges op.operand).head? with
    | some i => w64 ((s.snap op.ctx).range i).depth
    | none => 0

/-- Change the first operation of a context in the sequencer. -/
def dropFirst (c : BitVec 6) : List SnapOp → List SnapOp
  | [] => []
  | o :: rest => if o.ctx == c then rest else o :: dropFirst c rest

def State.firstOp (s : State) (c : BitVec 6) : Option SnapOp := s.snapOps.find? fun o => o.ctx == c

/-- An operation has been performed: it leaves the sequencer, and whoever waits goes on. -/
def State.finishSnap (s : State) (op : SnapOp) : State :=
  let v := s.snapResult op
  let s : State := { s with snapOps := dropFirst op.ctx s.snapOps }
  match op.who with
  | .register | .nobody => s
  | .graph m _ =>
    let s := s.setEvents op.ctx m
    match s.graphs[op.ctx.toNat] with
    | some g => s.putGraph op.ctx (some { g with snapops := g.snapops - 1 })
    | none => s
  | .tile t sup d =>
    s.modTile t fun x =>
      match (if sup then x.ctl.swait else x.ctl.wait) with
      | some (.snapshot _ _ _ _) => if x.ctx == op.ctx then x.answer sup d v else x
      | _ => x

/-- The issue cycle of a form that fails has not been used: its count, the landing records and the flags that landed in it are as before
(R379: the fault is precise). -/
def Tile.unissue (x : Tile) (sup : Bool) (bank : Bank) (fpsr : BitVec 8) : Tile :=
  let landed : BitVec 8 := (landAll { bank with recs := [] } 0 bank.recs).2.setWidth 8
  let x := x.setFpsr .control (x.fpsr .control &&& ~~~(landed &&& ~~~fpsr))
  if sup then { x with ctl := { x.ctl with swait := none, sbank := bank } }
  else { x with ctl := { x.ctl with wait := none, ubank := bank } }.modStr .control fun st => { st with count := st.count - 1 }

/-- A form of the user control strand faults while the handler runs: its word stands at the head of its queue again, EPC names it, and
the fault is pending (R259). -/
def Tile.faultBehind (x : Tile) (e : QEntry) (code : Nat) : Tile :=
  let x := x.modStr .control fun st => { st with queue := e :: st.queue, fault := { cause := w64 code, fpc := e.pc, faddr := 0 } }
  { x with sys := { x.sys with epc := e.pc, fpend := x.sys.fpend ||| 1 } }

/-- A form that fails its checks: SNAP-RANGE or SNAP-NESTING, precise; a SNAPOP ends its graph (R387). -/
def State.failSnap (s : State) (op : SnapOp) (code : Nat) : State :=
  let s : State := { s with snapOps := dropFirst op.ctx s.snapOps }
  match op.who with
  | .register | .nobody => s
  | .graph _ _ =>
    match s.graphs[op.ctx.toNat] with
    | some g => s.failGraph op.ctx { g with snapops := g.snapops - 1 } (errorValue code) 0
    | none => s
  | .tile t sup _ =>
    let x := s.tile t
    match (if sup then x.ctl.swait else x.ctl.wait) with
    | some (.snapshot _ e bank fpsr) =>
      if x.ctx != op.ctx then s
      else
        let y := x.unissue sup bank fpsr
        if x.isSup && !sup then s.setTile t (y.faultBehind e code)
        else (s.setTile t (y.setQueue .control (e :: y.queueOf .control))).fault t .control { code := code }
    | _ => s

/-- The dies of other packages to which the hub has a path. -/
def State.otherDies (s : State) : List (BitVec 6 × BitVec 3) :=
  (s.remote.pairs.filter fun e => e.src == hubDie && e.pkg != s.pkg && decide (e.die.toNat < 4) && !e.ports.isEmpty).map fun e => (e.pkg, e.die)

/-- The invalidates of a reject go out to dies, one for each range it names; the operation stays first in the sequencer. -/
def State.resend (s : State) (op : SnapOp) (dies : List (BitVec 6 × BitVec 3)) : State :=
  let s := (namedRanges op.operand).foldl (fun (s : State) i =>
    let r := (s.snap op.ctx).range i
    s.sendInvalidates op.ctx (homeKey 0 r.die r.start) r.bytes dies) s
  { s with snapOps := op :: dropFirst op.ctx s.snapOps }

/-- SNAPSHOT_OPERATION_PERFORM: the sequencer performs the first operation of a context at every range it names. -/
def execSnapshotOperationPerform (c : BitVec 6) (s : State) : Out :=
  .next (
    match s.firstOp c with
    | none => s
    | some op =>
      if op.rejecting.isSome then s
      else match s.snapCause op with
        | some code => s.failSnap op code
        | none =>
          let rs := namedRanges op.operand
          match op.form with
          | 0 => (rs.foldl (fun (s : State) i => s.openLevel c i) s).finishSnap op
          | 1 => (rs.foldl (fun (s : State) i => s.acceptRange c i) s).finishSnap op
          | 2 =>
            let s := rs.foldl (fun (s : State) i => s.rejectRange c i) s
            let dies := s.otherDies
            s.resend { op with rejecting := some s.fcc, unacked := dies } dies
          | 3 => s.finishSnap op
          | _ =>
            let i : Fin 16 := (op.operand.extractLsb' 2 4).toFin
            let r := (s.snap c).range i
            if s.awaits c i then s
            else
              let s := (List.range r.depth).foldl (fun (s : State) _ => s.acceptRange c i) s
              (s.setRange c i { ((s.snap c).range i).word0 op.operand with en := false }).finishSnap op)

/-- REJECT_COMPLETION: the last invalidate acknowledgement has arrived. -/
def execRejectCompletion (c : BitVec 6) (s : State) : Out :=
  .next (
    match s.firstOp c with
    | some op => if op.rejecting.isSome && op.unacked.isEmpty then s.finishSnap op else s
    | none => s)

/-- Fabric cycles after which an invalidate that is not acknowledged is sent again: 10 µs (DESIGN CHOICE, log entry 82). -/
def resendPeriod : Nat := 12500

/-- INVALIDATE_ACK_TIMEOUT: a die has not acknowledged within 10 ms: the context is killed with LINK-FATAL (R383), and the reject waits no
longer; until then the invalidate is sent again (R426). -/
def execInvalidateAckTimeout (c : BitVec 6) (s : State) : Out :=
  .next (
    match s.firstOp c with
    | some op =>
      match op.rejecting with
      | some f =>
        if 10 * oneMs ≤ (s.fcc - f).toNat then
          ({ s with snapOps := { op with unacked := [] } :: dropFirst c s.snapOps } : State).kill c cLinkFatal
        else if (s.fcc - f).toNat % resendPeriod = 0 then s.resend op op.unacked
        else s
      | none => s
    | none => s)

/-! ## Background work (R376, R382, R384) -/

/-- SHADOW_ENTRY_FREE: a background free completes. -/
def execShadowEntryFree (c : BitVec 6) (s : State) : Out :=
  .next { s with store := { s.store with shadows := s.store.shadows.filter fun e => !(e.ctx == c && e.phase == ShadowPhase.freeing) } }

/-- RESTORE_LINE: the restore engine writes back a line that has entries awaiting restore. -/
def execRestoreLine (h : BitVec 3) (line : BitVec 52) (s : State) : Out := .next (s.restore h.toNat line.toNat)

/-- SNAPSHOT_LINE_WRITE: a write that reaches the point of coherence of a line is treated as R376 states; one that is refused makes a
record of the context that owns the range (R378). -/
def execSnapshotLineWrite (h : BitVec 3) (pa : BitVec 52) (c : BitVec 6) (data : List Byte) (s : State) : Out :=
  .next (
    match s.homeOp c s.pkg h pa.toNat (.write data.length (ofBytes data)) with
    | .ok r => r.1
    | .hold => s
    | .refuse x =>
      match s.rangeAt h.toNat pa.toNat with
      | some (owner, _) => if x = cShadow then s.asyncRecord owner cShadow 0 0 (zext64 pa) else s
      | none => s)

/-- Kill and destruction (R388): operations not begun are discarded; destroying a context frees its entries and clears EN. -/
def State.dropSnapOps (s : State) (c : BitVec 6) : State := { s with snapOps := s.snapOps.filter fun o => o.ctx != c || o.rejecting.isSome || o.who == .register }

def State.releaseSnaps (s : State) (c : BitVec 6) : State :=
  let s := s.mapShadows fun e => if e.ctx == c && e.phase == ShadowPhase.held then { e with phase := ShadowPhase.freeing } else e
  s.modSnap c fun x => { x with ranges := x.ranges.map fun r => { r with en := false, gens := [] } }

end Sys2Proof.Machine
end

