-- ==== Sys2Proof/Machine/Context.lean ====
section
/-!
DEFINITION. Contexts (11_context.md R255, R269, R276, R277), the fault queue (R270), replies (R271, 12_queue.md R283), the end of a launch
by its handler (R272), the watchdog (R268), trace records (R275), and the tile's reset and pod mode (02_tile.md R47, R50).
-/
namespace Sys2Proof.Machine
open Sys2Proof

/-! ## The fault queue (R270) -/

/-- The first waiting record of a context leaves without being written. -/
def Context.dropRecord (x : Context) : Context := { x with records := x.records.tail, fqlost := x.fqlost + 1 }

/-- The bytes of a record. -/
def FaultRecord.value (r : FaultRecord) : Nat := packList 64 (r.words.toList.map fun w => w.toNat)

/-- FAULT_RECORD_WRITE: the oldest waiting record of a context is written when the ring has room; it is dropped when its slot cannot be
written. -/
def execFaultRecordWrite (c : BitVec 6) (s : State) : Out :=
  .next (
    let x := s.ctx c
    match x.records with
    | [] => s
    | r :: rest =>
      let size := 2 ^ x.fqLog2
      if (x.fqwp - x.fqrp).toNat == size then s
      else
        let va := x.fqBase + BitVec.ofNat 64 (x.fqwp.toNat % size * 64)
        let drop := (s.modCtx c Context.dropRecord).logEvent .recordDrop [zext64 c, va]
        match s.walk c va with
        | .error _ => drop
        | .ok (e, _) =>
          if pteCmp e || pteBar e then drop
          else match s.hWrite c va 64 r.value with
            | .hold => s
            | .bad _ _ _ => drop
            | .ok s' _ => s'.modCtx c fun y => { y with records := rest, fqwp := y.fqwp + 1 })

/-- FAULT_RECORD_DROP: a record not written within 1 ms of its making is dropped. -/
def execFaultRecordDrop (c : BitVec 6) (s : State) : Out :=
  .next (
    match (s.ctx c).records with
    | [] => s
    | r :: _ => if oneMs < (s.fcc - r.words[4]).toNat then s.modCtx c Context.dropRecord else s)

/-! ## Context commands (R276, Table 11-2) -/

/-- A context command ends: DONE rises, with ERR; one written meanwhile reports 0x03. -/
def State.endCtxCommand (s : State) (err : Nat) : State :=
  let r := s.ctxRegs
  { s with ctxRegs := { r with busy := false, late := false, done := r.done + 1, err := if r.late then 0x03 else BitVec.ofNat 8 err } }

/-- Begin a context command, or note that one was written while busy. -/
def State.ctxCommand (s : State) (op : Nat) (c : BitVec 6) (f : State → State) : State :=
  if s.ctxRegs.busy then { s with ctxRegs := { s.ctxRegs with late := true } }
  else f { s with ctxRegs := { s.ctxRegs with last := c, op := BitVec.ofNat 4 op } }

/-- A CTXCMD with a reserved OP ends at once with ERR 0x01. -/
def State.badCtxCommand (s : State) (op : Nat) (c : BitVec 6) : State := s.ctxCommand op c fun s => s.endCtxCommand 0x01

/-- CTX_CREATE: FREE to LIVE. -/
def execCtxCreate (c : BitVec 6) (s : State) : Out :=
  .next (s.ctxCommand 1 c fun s =>
    let r := s.ctxRegs
    let n := fld r.arg1.toNat 0 5
    if n < 4 ∨ 16 < n then s.endCtxCommand 0x01
    else if r.arg0.toNat % 4096 != 0 || r.arg2.toNat % 65536 != 0 then s.endCtxCommand 0x04
    else if (s.ctx c).phase != .free then s.endCtxCommand 0x02
    else (s.modCtx c fun x =>
      { x with phase := .live, fqBase := r.arg0, fqLog2 := n, saveBase := r.arg2, fqrp := 0, fqwp := 0, fqlost := 0, seq := 0
               records := [], destroying := false, cause := 0 }).endCtxCommand 0)

/-- CTX_KILL: LIVE to KILLING with HOST-KILL. -/
def execCtxKill (c : BitVec 6) (s : State) : Out :=
  .next (s.ctxCommand 2 c fun s =>
    if (s.ctx c).phase != .live then s.endCtxCommand 0x02 else (s.kill c cHostKill).endCtxCommand 0)

/-- CTX_ACK: HALTED to LIVE; the queues stay PAUSED. -/
def execCtxAck (c : BitVec 6) (s : State) : Out :=
  .next (s.ctxCommand 3 c fun s =>
    if (s.ctx c).phase != .halted then s.endCtxCommand 0x02
    else (s.modCtx c fun x => { x with phase := .live }).endCtxCommand 0)

/-- Destroy a LIVE or HALTED context: KILLING, and FREE to follow. -/
def State.destroy (s : State) (c : BitVec 6) : State :=
  let s := if (s.ctx c).phase == .live then s.kill c cHostKill else s.modCtx c fun x => { x with phase := .killing }
  s.modCtx c fun x => { x with destroying := true }

/-- CTX_DESTROY: BUSY until the context is FREE. -/
def execCtxDestroy (c : BitVec 6) (s : State) : Out :=
  .next (s.ctxCommand 4 c fun s =>
    if (s.ctx c).phase == .live || (s.ctx c).phase == .halted then
      ({ s with ctxRegs := { s.ctxRegs with busy := true } } : State).destroy c
    else s.endCtxCommand 0x02)

/-- FUNCTION_LEVEL_RESET: acts as DESTROY of the context (R276). -/
def execFunctionLevelReset (c : BitVec 6) (s : State) : Out :=
  .next (if (s.ctx c).phase == .live || (s.ctx c).phase == .halted then s.destroy c else s)

/-- What the kill of a context does to one of its queues (R269, Table 12-7). -/
def State.killQueue (s : State) (q : BitVec 10) (code : BitVec 8) : State :=
  let s := s.abandon q code.toNat
  let x := s.queue q
  match x.phase with
  | .active => s.putQueue q { x with phase := .paused, err := 0x08, cause := code, pkt := x.progIdx }
  | .paused => s.putQueue q { x with err := 0x08, cause := code, pkt := x.progIdx }
  | .draining => s.putQueue q { x with phase := .dead }
  | .dead => s

/-- The queues granted to a context. -/
def State.queuesOf (s : State) (c : BitVec 6) : List (BitVec 10) :=
  ((List.range 1024).map (BitVec.ofNat 10)).filter fun q => (s.queue q).granted && (s.queue q).ctx == c

/-- Signals of the launches of a context that were not complete. -/
def State.killLaunches (s : State) (c : BitVec 6) (code : Nat) : State :=
  (s.launches.filter fun l => l.ctx == c && l.phase != .done && l.phase != .failed).foldl (fun (s : State) l => s.stopLaunch l.id code) s

/-- A context's work rings of the Ethernet endpoints (19_remote.md R427) pause as queues do. -/
def State.killRings (s : State) (c : BitVec 6) (code : BitVec 8) (destroy : Bool) : State :=
  { s with remote := { s.remote with
      rmas := s.remote.rmas.filter fun m => m.ctx != c
      rings := s.remote.rings.mapIdx fun i x =>
        if i / 4 == c.toNat then
          if destroy then { x with phase := .dead, granted := false }
          else match x.phase with
            | .active | .paused => { x with phase := .paused, err := 0x08, cause := code, prog := none }
            | .draining => { x with phase := .dead }
            | .dead => x
        else x } }

/-- A graph of a context is discarded with its signal. -/
def State.killGraph (s : State) (c : BitVec 6) (code : Nat) : State :=
  match s.graphs[c.toNat] with
  | none => s
  | some g => ((s.putGraph c none).modQueue g.queue fun y => { y with prog := none }).signalStore (some g.queue) c g.sig (errorValue code)

/-- The context is FREE: its queues DEAD and their grants revoked, its page tables, snapshot ranges and fault queue given up. -/
def State.freeContext (s : State) (c : BitVec 6) : State :=
  let s := (s.queuesOf c).foldl (fun (s : State) q => s.putQueue q { s.queue q with phase := .dead, granted := false }) s
  let s := (s.killRings c 0 true).releaseSnaps c
  let s := s.modCtx c fun _ => Context.init
  if s.ctxRegs.busy && s.ctxRegs.op == 4 && s.ctxRegs.last == c then s.endCtxCommand 0 else s

/-- KILLING_COMPLETE: packets purged, queues PAUSED and signals written; once none of those writes waits, MSI-X vector 0 is sent and the context
is HALTED, or FREE when it is destroyed (R269, Table 11-2). -/
def execKillingComplete (c : BitVec 6) (s : State) : Out :=
  .next (
    let x := s.ctx c
    if x.phase != .killing then s
    else
      let code := x.cause
      let s := s.dropSnapOps c
      let s := s.killLaunches c code.toNat
      let s := s.killGraph c code.toNat
      let s := (s.queuesOf c).foldl (fun (s : State) q => s.killQueue q code) s
      let s := s.killRings c code false
      if s.ctxOwes c then s
      else
      let s := s.sendMsix c 0
      let s := s.modCtx c fun y => { y with phase := .halted }
      if x.destroying then s.freeContext c else s)

/-! ## DEBUG-ATTN (R277) -/

/-- A request stands while a tile named by it has neither taken it nor left RUNNING. -/
def State.attnPending (s : State) (c : BitVec 6) : Bool := s.tiles.any fun t => t.ctx == c && t.attn && t.phase == .running

/-- ATTN_REQUEST: every RUNNING tile of the context is to take DEBUG-ATTN at its next boundary. -/
def execAttnRequest (c : BitVec 6) (s : State) : Out :=
  .next (s.mapTiles fun _ t => if t.phase == .running && t.ctx == c then { t with attn := true } else t)

/-! ## Replies (R271, R273, R283) -/

/-- REPLY: to the tile whose last fault record carries SEQ and TILE, wherever its launch has gone on; held with a launch that is SAVED or whose
other tiles are still being saved (R273). -/
def execReply (c : BitVec 6) (v : W64) (s : State) : Out :=
  .next (
    let seq := v.extractLsb' 32 32
    let waits (x : Tile) : Bool := x.ctx == c && x.sys.lastSeq == some seq && x.sys.lastTile == v.extractLsb' 12 10 && x.sys.reply.isNone
    match (List.finRange 640).find? fun t => waits (s.tile t) && (s.tile t).phase != .idle && (s.tile t).phase != .off with
    | some t => s.modTile t fun x => { x with sys := { x.sys with reply := some v } }
    | none => { s with launches := s.launches.map fun (l : Launch) =>
        if l.ctx == c && (l.phase == .saved || l.phase == .running) then
          match l.saved.find? waits with
          | some y => { l with replies := l.replies ++ [(fld y.sys.ltile.toNat 0 12, v)] }
          | none => l
        else l })

/-! ## LAUNCHEND (R272) -/

/-- The launch of a tile ends at its handler's word: buffers leave, tiles go to IDLE, FAILED with the code. -/
def State.endLaunch (s : State) (t : TileNo) (v : W64) : State :=
  let id := (s.tile t).launch
  match s.launchOf t with
  | none => s
  | some l =>
    let c := fld v.toNat 0 8
    let code := if 1 ≤ c ∧ c ≤ 0x40 then c else cSoftwareTrap
    let s := (List.finRange 4).foldl (fun (s : State) d => s.leave d fun b => b.elems.any fun e => e.launch == id) s
    let s := s.stopLaunch id code
    match l.from_ with
    | .packet => s.packetDone l.queue
    | .record _ _ _ =>
      match s.graphs[l.ctx.toNat] with
      | some g => s.failGraph l.ctx (g.leave id) (errorValue code) 0
      | none => s

/-- LAUNCHEND: the handler of a tile ends its launch. -/
def execLaunchend (t : TileNo) (v : W64) (s : State) : Out := .next (if (s.tile t).phase == .trapped then s.endLaunch t v else s)

/-! ## The watchdog (R268) -/

/-- TCs of one watchdog period of a tile. -/
def State.watchdogTcs (s : State) (t : TileNo) : Nat := (s.manage.islands[islandOf t]).ncur * 50000 * s.manage.watchdogMs

/-- WATCHDOG_EXPIRY: a whole period without issue or command while RUNNING, or TRAPPED throughout: the context is killed. -/
def execWatchdogExpiry (t : TileNo) (s : State) : Out :=
  .next (
    let x := s.tile t
    if (x.phase == .running || x.phase == .trapped) && decide (s.watchdogTcs t ≤ x.quiet) then
      s.killWith x.ctx cWatchdog (w64 cWatchdog) 0 false true 0 0 (fld x.sys.ltile.toNat 0 12) t.val 0
    else s)

/-! ## Trace (R275) -/

/-- Write the first waiting trace record of a tile into its ring; one that cannot be written is dropped. -/
def State.traceFlush (s : State) (t : TileNo) : State :=
  let x := s.tile t
  match x.trace.waiting with
  | [] => s
  | r :: rest =>
    let i := x.sys.tracewp.toNat % x.sys.traceSize
    match s.hWrite x.ctx (x.sys.tracebase + BitVec.ofNat 64 (16 * i)) 16 (r.1.toNat + 2 ^ 64 * r.2.toNat) with
    | .hold => s
    | .bad s _ _ => s.modTile t fun y => { y with trace := { y.trace with waiting := rest, dropped := y.trace.dropped + 1 } }
    | .ok s' _ => s'.modTile t fun y =>
        { y with trace := { y.trace with waiting := rest }
                 sys := { y.sys with tracewp := BitVec.ofNat 64 ((i + 1) % x.sys.traceSize) } }

/-- TRACE_SAMPLE: a PC sample of a strand is made when sampling is on for it, and the tile's oldest waiting record is written. -/
def execTraceSample (t : TileNo) (k : Strand) (s : State) : Out :=
  .next (
    let x := s.tile t
    if x.sys.traceOn && x.sys.tracectl.getLsbD (4 + k.pos) && (x.phase == .running || x.phase == .trapped) then
      (s.setTile t (x.traceAdd s.fcc 1 k.pos (if k == .control && x.isSup then x.pcOf k
          else x.userPc k))).traceFlush t
    else s)

/-! ## Tile reset and the pod mode -/

/-- TILE_RESET_COMPLETE: the tile's island is powered: OFF to IDLE. -/
def execTileResetComplete (t : TileNo) (s : State) : Out :=
  .next (if (s.tile t).phase == .off && (s.manage.islands[islandOf t]).powered then s.modTile t fun x => { x with phase := .idle } else s)

/-- No command is in flight in a pod's Anvil. -/
def State.podQuiet (s : State) (t : TileNo) : Bool := (s.tile t).mx.cmds.isEmpty && (s.tile (podMate t)).mx.cmds.isEmpty

/-- Write a pod's mode (R50): the reserved value changes nothing; a change waits for the Anvil. -/
def State.writePodMode (s : State) (t : TileNo) (v : BitVec 2) : State :=
  let p := s.pods[podOf t]
  if v == 3 then s
  else if v == p.mode || s.podQuiet t then { s with pods := s.pods.set (podOf t) { mode := v, want := none } }
  else { s with pods := s.pods.set (podOf t) { p with want := some v } }

/-- POD_MODE_CHANGE: a held write takes effect once no command is in flight. -/
def execPodModeChange (t : TileNo) (s : State) : Out :=
  .next (match (s.pods[podOf t]).want with
    | some v => if s.podQuiet t then s.writePodMode t v else s
    | none => s)

end Sys2Proof.Machine
end

