-- ==== Sys2Proof/Machine/Pages.lean ====
section
/-!
DEFINITION. Page commands (16_page.md R363-R369): SETROOT, SHOOTDOWN, FRAMESET, DIRTYSYNC, MIGCFG and their completion; migration of
pages (R370, R371).
-/
namespace Sys2Proof.Machine
open Sys2Proof

/-! ## The command registers (R363) -/

/-- A page command ends: DONE rises, with ERR; one written meanwhile reports 0x03. -/
def State.endPageCommand (s : State) (err : Nat) : State :=
  let p := s.page
  { s with page := { p with run := none, late := false, done := p.done + 1, err := if p.late then 0x03 else BitVec.ofNat 8 err } }

/-- Start a page command: discarded while one runs; ended at once by the first error in the order 0x01, 0x02, 0x05, 0x04; otherwise it
runs, with its effect. -/
def State.pageCommand (s : State) (op : BitVec 4) (c : BitVec 6) (errs : List (Nat × Bool)) (f : State → State) : State :=
  if s.page.run.isSome then { s with page := { s.page with late := true } }
  else match firstBad errs with
    | some e => s.endPageCommand e
    | none => f { s with page := { s.page with run := some (op, c, s.page.arg0, s.page.arg1) } }

/-- A PGCMD with a reserved OP. -/
def State.badPageCommand (s : State) (op : BitVec 4) (c : BitVec 6) : State := s.pageCommand op c [(0x01, true)] id

/-- A launch of the context is BINDING or RUNNING. -/
def State.launchBound (s : State) (c : BitVec 6) : Bool := s.launches.any fun l => l.ctx == c && (l.phase == .binding || l.phase == .running)

/-- SETROOT: the context's table root. -/
def execSetroot (c : BitVec 6) (s : State) : Out :=
  .next (
    let a := s.page.arg0
    s.pageCommand 1 c
      [(0x01, fld a.toNat 0 12 != 0 || fld a.toNat 55 9 != 0 || decide (4 < (pteDie a).toNat) || s.page.arg1 != 0), (0x02, !tableOk (pteDie a) (4096 * ptePfn a)),
       (0x05, s.launchBound c)]
      (·.modCtx c fun x => { x with root := a }))

/-! ## SHOOTDOWN (R364) -/

/-- A translation maps a byte of the range: `pages` 0 names the whole space. -/
def overlapsPages (va : W64) (size : Nat) (first : W64) (pages : Nat) : Bool :=
  pages == 0 || (decide (va.toNat < first.toNat + 4096 * pages) && decide (first.toNat < va.toNat + size))

/-- Drop the cached translations of a range of a context in every cache of the package. -/
def State.dropTlbs (s : State) (c : BitVec 6) (first : W64) (pages : Nat) : State :=
  s.mapTiles fun _ t =>
    if t.ctx == c then
      { t with
        tlb := t.tlb.filter fun e => !overlapsPages e.va e.size first pages
        ld := { t.ld with stream := t.ld.stream.map fun st =>
          { st with tlb := st.tlb.filter (fun e => !overlapsPages e.va e.size first pages)
                    tlb2 := st.tlb2.filter fun e => !overlapsPages e.va e.size first pages } } }
    else t

/-- SHOOTDOWN. -/
def execShootdown (c : BitVec 6) (s : State) : Out :=
  .next (s.pageCommand 2 c [(0x02, s.page.arg0.toNat % 4096 != 0)] (·.dropTlbs c s.page.arg0 s.page.arg1.toNat))

/-- An access of a tile that may have used a translation of the range is not yet performed: of its strands' accesses in flight, of an
instruction that holds a strand, or of a stream. -/
def Tile.usesRange (t : Tile) (first : W64) (pages : Nat) : Bool :=
  let meets (va : W64) (n : Nat) : Bool := overlapsPages va n first pages
  t.ld.pending.any (fun l => l.pieces.any fun p => meets p.va p.len) || t.st.pending.any (fun l => l.pieces.any fun p => meets p.va p.len)
    || (match t.ld.hold with | some (.barw _ va _) => meets va 16 | _ => false)
    || (match t.st.hold with
      | some (.rel _ _ _ _ _ va _) => meets va 8
      | some (.barr _ _ _ _ va _) => meets va 16
      | _ => false)
    || t.ld.stream.any fun x => !x.waits.isEmpty

/-- Elements of the context stand in a Bellows, whose buffers do not keep their addresses. -/
def Bellows.holds (b : Bellows) (c : BitVec 6) : Bool :=
  b.bufs.any (fun u => u.phase != .free && u.key.ctx == c) || (b.waiting ++ b.arriving).any fun e => e.1.ctx == c

/-- An access of the context that may have used a dropped translation is not yet performed. -/
def State.usesRange (s : State) (c : BitVec 6) (first : W64) (pages : Nat) : Bool :=
  s.tiles.any (fun t => t.ctx == c && t.usesRange first pages) || s.remote.bellows.any (fun b => b.holds c)
    || s.remote.reqs.any fun r => r.ctx == c && r.owner == .prefetch

/-! ## FRAMESET (R368) -/

/-- The home address in an operand of FRAMESET and DIRTYSYNC: a multiple of `unit` in a memory of this package. -/
def State.homeOperandBad (s : State) (a : W64) (unit : Nat) : Bool :=
  fld a.toNat 0 12 != 0 || fld a.toNat 61 3 != 0 || ptePkg a != s.pkg || decide (4 < (pteDie a).toNat)
    || (4096 * ptePfn a) % unit != 0 || decide (carveOut (pteDie a) < 4096 * ptePfn a + unit)

/-- A frame overlaps an enabled snapshot range of any context. -/
def State.frameInRange (s : State) (die : BitVec 3) (pa : Nat) : Bool :=
  (List.range 64).any fun c => (List.finRange 16).any fun i =>
    let r := (s.snap (BitVec.ofNat 6 c)).range i
    r.en && r.die == die && decide (r.start < pa + 65536) && decide (pa < r.start + r.bytes)

/-- Set a frame's attribute: every chunk raw, and its bytes read the same. -/
def State.frameSet (s : State) (die : BitVec 3) (pa : Nat) (cmp : Bool) : State :=
  let key := homeKey s.pkg die pa
  if s.frameCmp s.pkg die pa == cmp then s
  else if cmp then
    { s with store := { s.store with
        attr := s.store.attr.write (key / 65536) 1
        chunk := (List.range 256).foldl (fun (m : Memory) i => m.write (key / 256 + i) 0x0F) s.store.chunk } }
  else
    let s := (List.range 256).foldl (fun (s : State) i => s.wrN 0 s.pkg die (pa + 256 * i) 256 (s.chunkValue s.pkg die (pa + 256 * i))) s
    { s with store := { s.store with
        attr := s.store.attr.write (key / 65536) 0
        chunk := (List.range 256).foldl (fun (m : Memory) i => m.write (key / 256 + i) 0) s.store.chunk } }

/-- FRAMESET: accesses to the frame hold until it completes. -/
def execFrameset (c : BitVec 6) (s : State) : Out :=
  .next (
    let a := s.page.arg0
    let bad := s.homeOperandBad a 65536
    s.pageCommand 3 c [(0x01, fld s.page.arg1.toNat 1 63 != 0), (0x02, bad), (0x04, s.frameInRange (pteDie a) (4096 * ptePfn a))]
      (·.frameSet (pteDie a) (4096 * ptePfn a) (s.page.arg1.getLsbD 0)))

/-! ## DIRTYSYNC (R369) -/

/-- The 512 dirty bits of a region, into PGDATA, and cleared on request. -/
def State.dirtySync (s : State) (die : BitVec 3) (pa : Nat) (clr : Bool) : State :=
  let key := homeKey s.pkg die pa / 4096
  let bit (i : Nat) : Nat := if s.store.dirty.read (key + i) != 0 then 1 else 0
  let data : Vector W64 8 := Vector.ofFn fun w => w64 (packList 1 ((List.range 64).map fun b => bit (64 * w.val + b)))
  let s : State := { s with page := { s.page with data := data } }
  if clr then { s with store := { s.store with dirty := (List.range 512).foldl (fun (m : Memory) i => m.write (key + i) 0) s.store.dirty } } else s

def execDirtysync (c : BitVec 6) (s : State) : Out :=
  .next (
    let a := s.page.arg0
    s.pageCommand 4 c [(0x01, fld s.page.arg1.toNat 1 63 != 0), (0x02, s.homeOperandBad a 0x200000)]
      (·.dirtySync (pteDie a) (4096 * ptePfn a) (s.page.arg1.getLsbD 0)))

/-! ## MIGCFG -/

def execMigcfg (c : BitVec 6) (s : State) : Out :=
  .next (
    let a := s.page.arg0.toNat
    let k := fld a 0 5
    let f := fld a 16 10
    s.pageCommand 5 c
      [(0x01, fld a 5 11 != 0 || fld a 26 38 != 0 || s.page.arg1 != 0 || decide (k < 4) || decide (16 < k) || decide (f < 16) || decide (1000 < f))]
      (·.modCtx c fun x => { x with migK := k, migFreeze := f }))

/-- PAGE_COMMAND_COMPLETE: BUSY clears and DONE rises; a SHOOTDOWN only once every access that used a dropped translation is performed. -/
def execPageCommandComplete (s : State) : Out :=
  .next (
    match s.page.run with
    | none => s
    | some (op, c, a0, a1) => if op == 2 && s.usesRange c a0 a1.toNat then s else s.endPageCommand 0)

/-! ## Migration (R370, R371) -/

/-- Where the leaf entry of an address lies: die, address, and level. -/
def State.leafPlace (s : State) (va : W64) : Nat → BitVec 3 → Nat → Option (BitVec 3 × Nat × Nat)
  | lvl, die, table =>
    let i := fld va.toNat (12 + 9 * lvl) 9
    let e := s.entryAt die table i
    match lvl with
    | 0 => some (die, table + 8 * i, 0)
    | l + 1 => if pteLeaf e then some (die, table + 8 * i, l + 1) else s.leafPlace va l (pteDie e) (4096 * ptePfn e)

/-- The leaf entries that map a page: those of its group, or the one. -/
def State.leavesOf (s : State) (c : BitVec 6) (va : W64) : Option (BitVec 3 × Nat × List W64) :=
  match s.walk c va with
  | .error _ => none
  | .ok (e, _) =>
    let root := (s.ctx c).root
    match s.leafPlace va 4 (pteDie root) (4096 * ptePfn root) with
    | none => none
    | some (die, pa, _) =>
      let first := if pteCont e then pa / 128 * 128 else pa
      let n := if pteCont e then 16 else 1
      some (die, first, (List.range n).map fun i => BitVec.ofNat 64 (s.rdN 0 s.pkg die (first + 8 * i) 8))

/-- Write leaf entries. -/
def State.putLeaves (s : State) (die : BitVec 3) (pa : Nat) (es : List W64) : State :=
  es.zipIdx.foldl (fun (s : State) p => s.wrN 0 s.pkg die (pa + 8 * p.2) 8 p.1.toNat) s

/-- A leaf entry with another MODE, or another frame. -/
def pteSetMode (e : W64) (m : BitVec 3) : W64 := (e &&& ~~~0x1C0#64) ||| (zext64 m <<< 6)
def pteSetFrame (e : W64) (die : BitVec 3) (pa : Nat) : W64 :=
  (e &&& ~~~0x7FFFFFFFFFF000#64) ||| (zext64 die <<< 52) ||| BitVec.ofNat 64 (pa / 4096 % 2 ^ 40 * 4096)

def State.modMig (s : State) (c : BitVec 6) (va : W64) (f : MigPage → MigPage) : State :=
  { s with store := { s.store with migs := s.store.migs.map fun m => if m.ctx == c && m.va == va then f m else m } }

def State.mig? (s : State) (c : BitVec 6) (va : W64) : Option MigPage := s.store.migs.find? fun m => m.ctx == c && m.va == va

def MigPage.zero (m : MigPage) : MigPage := { m with counts := Vector.replicate 4 0 }

/-- Moves of a page within the last 16 ms. -/
def MigPage.recent (m : MigPage) (now : W64) : List W64 := m.moves.filter fun f => (now - f).toNat ≤ 16 * oneMs

/-- Take a frame of `n` bytes from a die's reserve. -/
def takeFrame (n : Nat) : List (Nat × Nat) → Option (Nat × List (Nat × Nat))
  | [] => none
  | (a, k) :: rest =>
    if n ≤ k then some (a, if k = n then rest else (a + n, k - n) :: rest)
    else match takeFrame n rest with
      | some (b, r) => some (b, (a, k) :: r)
      | none => none

/-- MIGRATION_TRIGGER: a die's count reaches 2^K: the page moves there, or freezes after four moves in 16 ms. -/
def execMigrationTrigger (c : BitVec 6) (va : W64) (d : BitVec 2) (s : State) : Out :=
  .next (
    match s.mig? c va with
    | none => s
    | some m =>
      let k := d.toNat
      if m.phase != MigPhase.stable || m.counts[k] < 2 ^ (s.ctx c).migK then s
      else match s.leavesOf c va, s.walk c va with
        | some (die, pa, es), .ok (e, _) =>
          if pteMode e != modeMigrate then s.modMig c va MigPage.zero
          else if 4 ≤ (m.recent s.fcc).length then
            let s := s.putLeaves die pa (es.map fun x => pteSetMode x modeDirect)
            let s := s.dropTlbs c va (m.size / 4096)
            let until_ := s.fcc + BitVec.ofNat 64 ((s.ctx c).migFreeze * oneMs)
            (s.modMig c va fun m => { m with phase := MigPhase.frozen until_ die pa es }).logEvent .freeze [zext64 c, va]
          else match takeFrame m.size (s.store.reserve[k]) with
            | none => s.modMig c va MigPage.zero
            | some (frame, rest) =>
              let s : State := { s with store := { s.store with reserve := s.store.reserve.set k rest } }
              s.modMig c va fun m => { m with phase := MigPhase.moving s.fcc k frame }
        | _, _ => s.modMig c va MigPage.zero)

/-- A location in the old frame of a page is one in the new frame. -/
def Phys.moved (p : Phys) (pkg : BitVec 6) (oldDie : BitVec 3) (old n : Nat) (newDie : BitVec 3) (new : Nat) : Phys :=
  if p.pkg == pkg && p.die == oldDie && decide (old ≤ p.pa.toNat) && decide (p.pa.toNat < old + n) then
    { p with die := newDie, pa := BitVec.ofNat 52 (p.pa.toNat - old + new) }
  else p

def Piece.moved (p : Piece) (f : Phys → Phys) : Piece :=
  match p.loc with
  | .glob q => { p with loc := .glob (f q) }
  | .spad _ => p

/-- Accesses that wait at the old frame go on at the new one (R371). -/
def State.redirect (s : State) (f : Phys → Phys) : State :=
  let s := s.mapTiles fun _ t =>
    { t with
      ld := { t.ld with pending := t.ld.pending.map fun l => { l with pieces := l.pieces.map fun p => p.moved f } }
      st := { t.st with pending := t.st.pending.map fun l => { l with pieces := l.pieces.map fun p => p.moved f } } }
  { s with remote := { s.remote with reqs := s.remote.reqs.map fun r =>
      let q := f (physAt r.pkg r.die r.pa)
      { r with die := q.die, pa := q.pa.toNat } } }

/-- MIGRATION_MOVE_COMPLETE: the bytes are copied, the entries name the new frame, and held accesses go on there. -/
def execMigrationMoveComplete (c : BitVec 6) (va : W64) (s : State) : Out :=
  .next (
    match s.mig? c va with
    | none => s
    | some m =>
      match m.phase with
      | .moving _ k frame =>
        match s.leavesOf c va, s.walk c va with
        | some (die, pa, es), .ok (e, size) =>
          let oldDie := pteDie e
          let old := (physOf e size va).pa.toNat
          let newDie := BitVec.ofNat 3 k
          let s := s.wrN 0 s.pkg newDie frame m.size (s.rdN 0 s.pkg oldDie old m.size)
          let s := s.putLeaves die pa (es.zipIdx.map fun x => pteSetFrame x.1 newDie (frame + 4096 * x.2))
          let s := s.dropTlbs c va (m.size / 4096)
          let s := s.redirect fun p => p.moved s.pkg oldDie old m.size newDie frame
          let s : State := { s with store := { s.store with
            placed := (k, frame, m.size) :: s.store.placed.filter fun f => f != (oldDie.toNat, old, m.size) } }
          let s : State := if h : oldDie.toNat < 4 then
              { s with store := { s.store with reserve := s.store.reserve.set oldDie.toNat (s.store.reserve[oldDie.toNat] ++ [(old, m.size)]) } }
            else s
          s.modMig c va fun m => { m.zero with home := k, moves := s.fcc :: m.recent s.fcc, phase := MigPhase.stable }
        | _, _ =>
          let s : State := if h : k < 4 then
              { s with store := { s.store with reserve := s.store.reserve.set k (s.store.reserve[k] ++ [(frame, m.size)]) } }
            else s
          s.modMig c va fun m => { m.zero with phase := MigPhase.stable }
      | _ => s)

/-- FREEZE_EXPIRY: the page returns to MIGRATE, its entries as they were. -/
def execFreezeExpiry (c : BitVec 6) (va : W64) (s : State) : Out :=
  .next (
    match s.mig? c va with
    | none => s
    | some m =>
      match m.phase with
      | .frozen until_ die pa es =>
        if s.fcc.ult until_ then s
        else ((s.putLeaves die pa es).dropTlbs c va (m.size / 4096)).modMig c va fun m => { m.zero with phase := MigPhase.stable }
      | _ => s)

end Sys2Proof.Machine
end

