-- ==== Sys2Proof/Machine/Links.lean ====
section
/-!
DEFINITION. The optical ports (18_link.md R389-R405): rows and their codes, the stripe map, repair, tuning, port states and bring-up;
and the switch matrices (R406, R407).
-/
namespace Sys2Proof.Machine
open Sys2Proof

/-! ## Codes (R392, R393, R395) -/

/-- CRC-8 with polynomial 0x07 and initial value 0, over bytes. -/
def crc8 (l : List Byte) : Byte :=
  l.foldl (fun (c : Byte) b =>
    (List.range 8).foldl (fun (x : Byte) _ => if x.getLsbD 7 then (x <<< 1) ^^^ 0x07#8 else x <<< 1) (c ^^^ b)) 0

/-- Times α in GF(2^8) with polynomial 0x11D. -/
def gfTwice (a : Byte) : Byte := if a.getLsbD 7 then (a <<< 1) ^^^ 0x1D#8 else a <<< 1

/-- The product in GF(2^8). -/
def gfMul (a b : Byte) : Byte :=
  ((List.range 8).foldl (fun (acc : Byte × Byte) i => (if b.getLsbD i then acc.1 ^^^ acc.2 else acc.1, gfTwice acc.2)) (0, a)).1

/-- α^n. -/
def gfExp (n : Nat) : Byte := (List.range (n % 255)).foldl (fun x _ => gfTwice x) 1

/-- a^n. -/
def gfPow (a : Byte) : Nat → Byte
  | 0 => 1
  | n + 1 => gfMul a (gfPow a n)

/-- The inverse: a^254. -/
def gfInv (a : Byte) : Byte := gfPow a 254

/-- The value of a polynomial, its coefficients from the lowest power, at `x`. -/
def polyAt (p : List Byte) (x : Byte) : Byte := p.foldr (fun c acc => c ^^^ gfMul acc x) 0

/-- Sum and product of polynomials. -/
def polyAdd : List Byte → List Byte → List Byte
  | [], q => q
  | p, [] => p
  | a :: p, b :: q => (a ^^^ b) :: polyAdd p q

def polyScale (a : Byte) (p : List Byte) : List Byte := p.map (gfMul a)

def polyMul : List Byte → List Byte → List Byte
  | [], _ => []
  | a :: p, q => polyAdd (polyScale a q) (0 :: polyMul p q)

/-- The generator with roots α^0 to α^(n-1), coefficients from the highest power, without the leading 1. -/
def generator (n : Nat) : List Byte :=
  (((List.range n).foldl (fun g i => polyMul g [gfExp i, 1]) [1]).reverse).tail

/-- The parity of a message of bytes, the first byte the highest power. -/
def rsParity (n : Nat) (msg : List Byte) : List Byte :=
  let g := generator n
  msg.foldl (fun (r : List Byte) b =>
    let f := b ^^^ r.headD 0
    (List.range n).map fun i => (r.drop (i + 1)).headD 0 ^^^ gfMul f ((g.drop i).headD 0)) (List.replicate n 0)

/-- Syndromes of a codeword. -/
def syndromes (n : Nat) (w : List Byte) : List Byte := (List.range n).map fun j => polyAt w.reverse (gfExp j)

/-- One step of the shortest-register search: the locator so far, the one before, its length, the gap, and the old discrepancy. -/
structure Locator where
  c : List Byte
  b : List Byte
  len : Nat
  gap : Nat
  old : Byte

def Locator.step (s : List Byte) (x : Locator) (n : Nat) : Locator :=
  let d := (List.range (x.len + 1)).foldl (fun (acc : Byte) i => acc ^^^ gfMul ((x.c.drop i).headD 0) ((s.drop (n - i)).headD 0)) 0
  if d = 0 then { x with gap := x.gap + 1 }
  else
    let c := polyAdd x.c (List.replicate x.gap 0 ++ polyScale (gfMul d (gfInv x.old)) x.b)
    if 2 * x.len ≤ n then { c := c, b := x.c, len := n + 1 - x.len, gap := 1, old := d }
    else { x with c := c, gap := x.gap + 1 }

/-- Decode a codeword with `n` parity bytes: the corrected word and the places corrected, at most n/2; none when it does not decode. -/
def rsDecode (n : Nat) (w : List Byte) : Option (List Byte × List Nat) :=
  let s := syndromes n w
  if s.all (· == 0) then some (w, [])
  else
    let loc := (List.range n).foldl (Locator.step s) { c := [1], b := [1], len := 0, gap := 1, old := 1 }
    let places := (List.range w.length).filter fun i => polyAt loc.c (gfInv (gfExp (w.length - 1 - i))) == 0
    if n / 2 < loc.len || places.length != loc.len then none
    else
      let omega := (polyMul s loc.c).take n
      let deriv := (loc.c.tail.zipIdx.map fun p => if p.2 % 2 = 0 then p.1 else 0)
      let fixed := places.foldl (fun (v : List Byte) i =>
        let x := gfExp (w.length - 1 - i)
        let y := gfInv x
        v.modify i fun b => b ^^^ gfMul x (gfMul (polyAt omega y) (gfInv (polyAt deriv y)))) w
      if (syndromes n fixed).all (· == 0) then some (fixed, places) else none

/-! ## Ports -/

def State.port (s : State) (n : BitVec 4) : Port := s.ports[n.toNat]

def State.modPort (s : State) (n : BitVec 4) (f : Port → Port) : State := { s with ports := s.ports.set n.toNat (f (s.port n)) }

/-- Carrying traffic (Table 18-5). -/
def Port.carrying (p : Port) : Bool := p.phase == .active || p.phase == .degraded

/-- A frame boundary (R394). -/
def State.boundary (s : State) : Bool := s.fcc.toNat % 64 == 0

/-- The lane of a position, 7 for the spare, and a map with two of its lanes exchanged. -/
def PortDir.laneOf (d : PortDir) (k : Nat) : Nat := fld d.map.toNat (3 * k) 3

def PortDir.swap (d : PortDir) (k : Nat) : PortDir :=
  { d with map := BitVec.ofNat 24 (packList 3 ((List.range 8).map fun i => d.laneOf (if i = k then 7 else if i = 7 then k else i))) }

/-- Leave and join (R394): a leave is taken only while no position is on the spare, a join only of the one that is. -/
def PortDir.apply (d : PortDir) (join : Bool) (pos : BitVec 3) : PortDir :=
  if pos == 7 then d
  else if join then (if d.onSpare == pos then { d.swap pos.toNat with onSpare := 7, joining := false } else d)
  else if d.onSpare == 7 then { d.swap pos.toNat with onSpare := pos } else d

/-- ACTIVE with both spares free, DEGRADED with a position on one. -/
def Port.settle (p : Port) : Port :=
  if p.carrying then { p with phase := if p.outd.onSpare == 7 && p.ind.onSpare == 7 then .active else .degraded } else p

/-- Flits of the scheduled plane that a port is offered in this FC. -/
def State.offered (s : State) (n : BitVec 4) : List Flit :=
  s.fabric.flits.filter fun f => f.slots.any fun p => p.1 == s.fcc && (p.2.1 == Link.optical n.toNat 0 || p.2.1 == Link.optical n.toNat 1)

/-- A port that carries no traffic discards what it is offered, and kills the contexts of this package that own it with LINK-FATAL
(R403). -/
def State.dropOffered (s : State) (n : BitVec 4) : State :=
  let gone := s.offered n
  let s := { s with fabric := { s.fabric with flits := s.fabric.flits.filter fun f => !gone.contains f } }
  ((gone.filter fun f => f.head.isNone).map fun f => f.srcCtx).eraseDups.foldl (fun (s : State) c => s.kill c cLinkFatal) s

/-- A port stops carrying traffic: the contexts of the flits in flight on it are killed with LINK-FATAL (R403). -/
def State.losePort (s : State) (n : BitVec 4) (phase : PortPhase) : State :=
  let p := s.port n
  let was := p.carrying
  let s := s.modPort n fun p =>
    { p with phase := phase, out := [], lostAt := if was then s.fcc else p.lostAt, badRows := 0, step := 1, fast := !(p.full || p.skipFast)
             repairs := [], sendShare := none, sendSpare := none, waits := [], shares := [], beats := [], mop := [], goingActive := false
             outd := { PortDir.init with near := p.outd.near }, ind := { PortDir.init with near := p.ind.near } }
  if was then (p.out.map fun f => f.2.2.1).eraseDups.foldl (fun (s : State) c => s.kill c cLinkFatal) s else s

/-! ## Bring-up (R402, R404, R405) -/

/-- A journal entry of a bring-up step. -/
def State.portJournal (s : State) (n : BitVec 4) (step : Nat) (ok : Bool) : State :=
  s.logEvent .journal [zext64 n, w64 step, if (s.port n).fast then 1 else 0, if ok then 1 else 0]

/-- A step fails: the fast path hands over to the full one from step 1; the full path fails the port. -/
def State.stepFails (s : State) (n : BitVec 4) (step : Nat) : State :=
  let s := s.portJournal n step false
  s.modPort n fun p =>
    if p.fast then
      { p with lastFail := BitVec.ofNat 3 step, skipFast := true, fast := false, step := 1
               phase := if p.phase == .retraining then .retraining else .locking }
    else { p with lastFail := BitVec.ofNat 3 step, phase := .failed }

/-- The port is in step `n` of a bring-up. -/
def Port.inStep (p : Port) (n : Nat) : Bool :=
  p.step == n && match p.phase with
    | .locking => n == 1
    | .aligning => n == 2
    | .trained => decide (3 ≤ n)
    | .retraining => true
    | _ => false

/-- A step is done. -/
def State.stepDone (s : State) (n : BitVec 4) (step : Nat) (f : Port → Port) : State :=
  let s := s.portJournal n step true
  s.modPort n fun p =>
    let next : PortPhase := if p.phase == .retraining then .retraining else if step = 1 then .aligning else .trained
    f { p with step := step + 1, phase := next }

/-- PORT_ENABLE: DARK to LOCKING. -/
def execPortEnable (n : BitVec 4) (s : State) : Out :=
  .next (s.modPort n fun p =>
    if p.phase == .dark then { p with enable := true, phase := .locking, step := 1, fast := !(p.full || p.skipFast), darkening := false
                                      outd := PortDir.init, ind := PortDir.init, resent := [], sent := [] }
    else { p with enable := true })

/-- PORT_DISABLE: DARK at the next frame boundary. -/
def execPortDisable (n : BitVec 4) (s : State) : Out :=
  .next (s.modPort n fun p => { p with enable := false, darkening := p.phase != .dark })

/-- BRINGUP_LOCK: step 1. -/
def execBringupLock (n : BitVec 4) (ok : Bool) (s : State) : Out :=
  .next (if (s.port n).inStep 1 then (if ok then s.stepDone n 1 id else s.stepFails n 1) else s)

/-- BRINGUP_ALIGN: step 2, with the skew and the FLIGHT it measured. -/
def execBringupAlign (n : BitVec 4) (skew flight : BitVec 8) (s : State) : Out :=
  .next (if (s.port n).inStep 2 then
    (if skew.toNat ≤ 8 ∧ flight.toNat ≤ 100 then s.stepDone n 2 fun p => { p with flight := flight } else s.stepFails n 2) else s)

/-- BRINGUP_TRAIN: step 3. -/
def execBringupTrain (n : BitVec 4) (s : State) : Out := .next (if (s.port n).inStep 3 then s.stepDone n 3 id else s)

/-- BRINGUP_VERIFY: step 4, with the counts of its test rows. -/
def execBringupVerify (n : BitVec 4) (corr uncorr : Nat) (s : State) : Out :=
  .next (if (s.port n).inStep 4 then (if corr ≤ 64 ∧ uncorr = 0 then s.stepDone n 4 id else s.stepFails n 4) else s)

/-- BRINGUP_HANDSHAKE: step 5; the port is ACTIVE at the next frame boundary, and a full path clears SKIPFAST. -/
def execBringupHandshake (n : BitVec 4) (same : Bool) (encl : BitVec 8) (s : State) : Out :=
  .next (if (s.port n).inStep 5 then
    s.stepDone n 5 fun p => { p with same := same, encl := encl, goingActive := true, skipFast := p.skipFast && p.fast }
  else s)

/-! ## Sending rows (R391, R394-R396) -/

/-- A repair packet (Table 18-4). -/
def Repair.packet (r : Repair) : List Byte :=
  let loc := r.row.toNat * 64 + (if r.slot then 0x4000 else 0) + (if r.late then 0x8000 else 0)
  let msg := toBytes 80 r.flit.toNat ++ toBytes 2 loc
  msg ++ rsParity 18 msg

/-- Take the repairs that start in this row: shares in a multiple of 20, the free spare in a multiple of 4. -/
def Port.startRepairs (p : Port) (fcc : Nat) : Port :=
  let p := if fcc % 20 = 0 && p.sendShare.isNone then
      match p.repairs with
      | r :: rest => { p with repairs := rest, sendShare := some (r, 0) }
      | [] => p
    else p
  if fcc % 4 = 0 && p.sendSpare.isNone && p.outd.onSpare == 7 then
    match p.repairs with
    | r :: rest => { p with repairs := rest, sendSpare := some (r, 0) }
    | [] => p
  else p

/-- A packet has sent one more of its parts; after the last it counts as sent again. -/
def advanceRepair (x : Option (Repair × Nat)) (parts : Nat) : Option (Repair × Nat) × Option Repair :=
  match x with
  | none => (none, none)
  | some (r, k) => if k + 1 = parts then (none, some r) else (some (r, k + 1), none)

/-- The map operation that a row announces: a leave at once, a join at a frame boundary; a leave waits while the spare stands in. -/
def Port.nextMop (p : Port) (boundary : Bool) : Option (Bool × BitVec 3 × Bool) :=
  match p.mop with
  | [] => none
  | m :: _ => if m.1 && !boundary then none else if !m.1 && !m.2.2 && p.outd.onSpare != 7 then none else some m

/-- The requests that a row makes: those due for one row of the other direction. -/
def Port.request (p : Port) : Nat × Nat :=
  match p.waits.find? fun w => w.due with
  | none => (0, 0)
  | some w =>
    let has (slot : Bool) : Bool := p.waits.any fun v => v.due && v.row == w.row && v.slot == slot
    ((if has false then 1 else 0) + (if has true then 2 else 0), w.row.toNat)

/-- The control word of a row (Table 18-3). -/
def controlWord (rq : Nat × Nat) (mop : Option (Bool × BitVec 3 × Bool)) : Nat :=
  rq.1 * 2 ^ 14 + rq.2 * 64 + match mop with
    | none => 0
    | some (join, pos, far) => 32 + (if join then 16 else 0) + pos.toNat * 2 + (if far then 1 else 0)

/-- The 175 bytes of a row (Table 18-2). -/
def rowBytes (ctl : Nat) (flit0 flit1 : BitVec 640) (share : List Byte) : List Byte :=
  let c := toBytes 2 ctl
  let copy := c ++ [crc8 c]
  let msg := copy ++ toBytes 80 flit0.toNat ++ toBytes 80 flit1.toNat ++ share ++ copy
  msg ++ rsParity 4 msg

/-- One row leaves a port that carries traffic, with its two flits. -/
def Port.sendRow (p : Port) (fcc : W64) (flit0 flit1 : BitVec 640) : Port :=
  let boundary := fcc.toNat % 64 == 0
  let mop := p.nextMop boundary
  let rq := p.request
  let p := { p with
    waits := p.waits.map fun (w : RepairWait) => if w.due && rq.1 != 0 && w.row.toNat == rq.2 then { w with due := false, asked := w.asked + 1 } else w
    mop := if mop.isSome then p.mop.tail else p.mop }
  let p := match mop with
    | some (false, _, false) =>
      match p.sendSpare with
      | some (r, _) => { p with sendSpare := none, repairs := r :: p.repairs }
      | none => p
    | _ => p
  let p := match mop with
    | some (join, pos, false) => { p with outd := p.outd.apply join pos }
    | _ => p
  let p := p.startRepairs fcc.toNat
  let share := match p.sendShare with
    | some (r, k) => (r.packet.drop (5 * k)).take 5
    | none => List.replicate 5 0
  let row := rowBytes (controlWord rq mop) flit0 flit1 share
  let a := advanceRepair p.sendShare 20
  let b := advanceRepair p.sendSpare 4
  let again := (a.2.toList ++ b.2.toList).map fun r => (r.row, r.slot, fcc)
  ({ p with
    sendShare := a.1, sendSpare := b.1
    resent := again ++ p.resent.filter fun (x : BitVec 8 × Bool × W64) => (fcc - x.2.2).toNat < 256
    sent := (fcc, BitVec.ofNat 1400 (ofBytes row)) :: p.sent.filter fun x => (fcc - x.1).toNat < 256
    out := p.out.filter fun f => !(f.1 + BitVec.ofNat 64 (p.flight.toNat + 8)).ule fcc } : Port).settle

/-- The flit that a slot of this row carries: the scheduled flit that wins the slot, or else one of a message that waits for the port. -/
def State.slotFlit (s : State) (n : BitVec 4) (slot : Bool) : State × BitVec 640 :=
  let port : Fin 16 := ⟨n.toNat, n.isLt⟩
  match s.opticalFlit n.toNat slot.toNat with
  | some f =>
    let b := s.sealFlit port 0 s.fcc slot f.header f.data
    (s.modPort n fun p => { p with out := if f.head.isNone then p.out ++ [(s.fcc, slot, f.srcCtx, b)] else p.out }, b)
  | none =>
    match s.remote.outflits.find? fun o => o.1 == n.toNat with
    | some o =>
      ({ s with remote := { s.remote with outflits := s.remote.outflits.eraseP fun o => o.1 == n.toNat } },
        s.sealFlit port o.2.1 s.fcc slot o.2.2.1 o.2.2.2)
    | none => (s, 0)

/-- ROW_SEND: what a port does in an FC: at a frame boundary it goes DARK or ACTIVE as asked; carrying traffic, it sends one row, else it
discards what it is offered. -/
def execRowSend (n : BitVec 4) (s : State) : Out :=
  .next (
    let s := s.resolveSlots
    let s := if s.boundary && (s.port n).darkening then (s.losePort n .dark).modPort n fun p => { p with darkening := false } else s
    let s := if s.boundary && (s.port n).goingActive then s.modPort n fun p => { p with phase := .active, goingActive := false, step := 0 } else s
    if (s.port n).carrying then
      let a := s.slotFlit n false
      let b := a.1.slotFlit n true
      b.1.modPort n fun p => p.sendRow s.fcc a.2 b.2
    else s.dropOffered n)

/-! ## Flits that arrive (R426, R329) -/

/-- Read a flit that crossed an inward direction in a row: none when it fails its tag, otherwise the header and the payload. -/
def State.openFlit (s : State) (n : BitVec 4) (fc : W64) (slot : Bool) (f : BitVec 640) : Option (W64 × BitVec 512) :=
  let p := s.port n
  let header : W64 := f.extractLsb' 0 64
  let body : BitVec 512 := f.extractLsb' 64 512
  let id := 16 + n.toNat
  if f.extractLsb' 576 64 != Config.integrityTag id fc slot (body ++ header) then none
  else some (header, if p.same && p.gmac.getLsbD (Config.flitChannel header).toNat then body else Config.cipher id fc slot body)

/-- The slots of a scheduled flit that has come in at a port, to a tile of this package: the die-pair lane that the fabric manager's tables
give it when the tile is on another die, and the ejection link (R442; DESIGN CHOICE, log entry 88). -/
def State.inwardSlots (s : State) (n : BitVec 4) (dep : BitVec 18) (t : TileNo) : List (W64 × Link × Nat) :=
  let die := n.toNat / 4
  let fcs (k : Nat) : W64 := s.fcc + BitVec.ofNat 64 k
  if dieOf t == die then [(fcs 1, .eject t.val, 80 + n.toNat)]
  else
    let lane := Config.inwardLane n.toNat dep % 16
    [(fcs 1, .diePair die (dieOf t) lane, 80 + n.toNat), (fcs 27, .eject t.val, 16 + 16 * die + lane)]

/-- A scheduled flit that has crossed its last optical hop: it takes its slots to its tile and lands 3 FC after the last (R329, R442); a late
one reaches it within 32 FC, by the request mesh (R397).  Its transfer is known by the port and slot it comes in by and by what its header
names. -/
def State.arriveFlit (s : State) (n : BitVec 4) (slot : Bool) (late : Bool) (header : W64) (body : BitVec 512) : State :=
  let (dep, block, off, tag, index, count) := Config.readFlitHeader header
  match s.epTileNo dep.toNat with
  | none => s
  | some t =>
    let slots := if late then [] else s.inwardSlots n dep t
    let key := packFields [(21, off.toNat), (16, tag.toNat), (4, block.toNat), (10, t.val), (6, (Config.flitContext header).toNat), (4, n.toNat),
      (1, slot.toNat), (1, 1)]
    let f : Flit :=
      { xfer := 2 ^ 64 + key, index := index, count := count, src := t.val, srcCtx := Config.flitContext header, dstPkg := s.pkg
        dstDie := BitVec.ofNat 3 (dieOf t), dstTile := t.val % 160, block := block, doff := off.toNat, tag := tag, len := 64, data := body
        land := s.fcc + BitVec.ofNat 64 (if late then 32 else if slots.length = 1 then 4 else 30), slots := slots, head := some header }
    { s with fabric := { s.fabric with flits := s.fabric.flits ++ [f] } }

/-- A scheduled flit for another package goes on to the outward port and slot that the fabric manager's tables give it (R332); a late one
takes the first free repair position there, with LATE set (R397). -/
def State.passFlit (s : State) (n : BitVec 4) (fc : W64) (slot : Bool) (late : Bool) (header : W64) (body : BitVec 512) : State :=
  let dep := (Config.readFlitHeader header).1
  match Config.transit n.toNat slot dep with
  | none => s
  | some (port, psub, k) =>
    if late then
      let row := fc + BitVec.ofNat 64 k
      let flit := s.sealFlit ⟨port.toNat, port.isLt⟩ 0 row psub header body
      s.modPort port fun p => { p with repairs := p.repairs ++ [{ flit := flit, late := true, slot := psub, row := row.setWidth 8 }] }
    else
      let dest := dep.toNat
      let f : Flit :=
        { xfer := 2 ^ 64, index := 0, count := 1, src := 0, srcCtx := Config.flitContext header, dstPkg := epPkg dest, dstDie := epDie dest
          dstTile := epTile dest, block := 0, doff := 0, tag := 0, len := 64, data := body, land := s.fcc + BitVec.ofNat 64 (k + 1)
          slots := [(s.fcc + BitVec.ofNat 64 k, .optical port.toNat psub.toNat, 80 + n.toNat)], head := some header }
      { s with fabric := { s.fabric with flits := s.fabric.flits ++ [f] } }

/-- A flit whose tag holds: of the scheduled plane, to a tree node, to a tile, or on to another package; of the dynamic plane likewise. -/
def State.routeFlit (s : State) (n : BitVec 4) (fc : W64) (slot : Bool) (late : Bool) (vc : Nat) (h : W64) (b : BitVec 512) : State :=
  if vc = 0 then
    let dep := (Config.readFlitHeader h).1.toNat
    if epPkg dep != s.pkg then s.passFlit n fc slot late h b
    else if epTile dep = 255 then s.treeFlit h b
    else s.arriveFlit n slot late h b
  else
    let dest : BitVec 18 := BitVec.ofNat 18 (fld h.toNat 58 6 * 4096 + fld h.toNat 55 3 * 256)
    if epPkg dest.toNat == s.pkg then s.dynFlit h b
    else match Config.transit n.toNat slot dest with
      | none => s
      | some (port, _, _) => { s with remote := { s.remote with outflits := s.remote.outflits ++ [(port.toNat, vc, h, b)] } }

/-- INTEGRITY records of the contexts with a request SENT over a port (R426). -/
def State.integrityRecords (s : State) (n : BitVec 4) : State :=
  let uses (r : Request) : Bool := r.phase == .sent && s.remote.pairs.any fun e =>
    e.src == r.sdie && e.pkg == r.pkg && e.die == r.die && e.ports.contains n.toNat
  ((s.remote.reqs.filter uses).map fun r => r.ctx).eraseDups.foldl (fun (s : State) c => s.asyncRecord c cIntegrity 0 0 0) s

/-- Take a flit of a row, or a late one of a repair; true when it is errored and to be repaired. -/
def State.takeFlit (s : State) (n : BitVec 4) (fc : W64) (slot : Bool) (late : Bool) (f : BitVec 640) : State × Bool :=
  if f == 0 then (s, false)
  else
    let vc := Config.flitChannel (f.extractLsb' 0 64)
    match s.openFlit n fc slot f with
    | some (h, b) => (s.routeFlit n fc slot late vc.toNat h b, false)
    | none =>
      let s := (s.modPort n fun p => { p with icnt := satInc p.icnt }).logEvent .integrity [zext64 n, fc, zext64 vc]
      (if vc == 1 || vc == 2 then s.integrityRecords n else s, vc == 0)

/-- A flit of a row is errored: its repair is to be requested (R396). -/
def State.wantRepair (s : State) (n : BitVec 4) (fc : W64) (slot : Bool) : State :=
  s.modPort n fun p => { p with waits := p.waits ++ [{ row := fc.setWidth 8, slot := slot, since := fc, asked := 0, due := true }] }

/-- The repair bound (R397). -/
def Port.bound (p : Port) (both : Bool) : Nat :=
  3 * p.flight.toNat + (if p.ind.onSpare == 7 then (if both then 36 else 32) else if both then 84 else 64)

/-- A repair packet has arrived: its flit is delivered late. -/
def State.takeRepair (s : State) (n : BitVec 4) (pkt : List Byte) : State :=
  if pkt.all (· == 0) then s
  else match rsDecode 18 pkt with
    | none => s
    | some (w, _) =>
      let flit := BitVec.ofNat 640 (ofBytes (w.take 80))
      let loc := ofBytes ((w.drop 80).take 2)
      let row := BitVec.ofNat 8 (fld loc 6 8)
      let slot := fld loc 14 1 == 1
      let p := s.port n
      match p.waits.find? fun v => v.row == row && v.slot == slot with
      | some v =>
        let both := p.waits.any fun u => u.row == row && u.slot != slot
        let late := decide (p.bound both < (s.fcc - v.since).toNat)
        let s := s.modPort n fun p =>
          { p with waits := p.waits.filter fun u => !(u.row == row && u.slot == slot), repaired := satInc p.repaired
                   late := if late then satInc p.late else p.late }
        (s.takeFlit n v.since slot true flit).1
      | none =>
        -- a late flit from an earlier hop: the row in which it was scheduled to cross this one
        if fld loc 15 1 == 1 then (s.takeFlit n (s.fcc - zext64 (s.fcc.setWidth 8 - row)) slot true flit).1 else s

/-- REPAIR_PACKET_RECEIVE. -/
def execRepairPacketReceive (n : BitVec 4) (pkt : BitVec 800) (s : State) : Out :=
  .next (if (s.port n).carrying then s.takeRepair n (toBytes 100 pkt.toNat) else s)

/-! ## Receiving rows (R392) -/

/-- The beat of a data lane. -/
def beatOf (beats : BitVec 1600) (lane : Nat) : List Byte := toBytes 25 (fld beats.toNat (200 * lane) 200)

/-- A control copy when its CRC holds. -/
def controlCopy (b : List Byte) : Option Nat := if b.getD 2 0 == crc8 (b.take 2) then some (ofBytes (b.take 2)) else none

/-- The map of this direction under a control word: an operation with MDIR 0 is applied from its row on. -/
def PortDir.under (d : PortDir) (w : Nat) : PortDir :=
  if fld w 5 1 == 1 && fld w 0 1 == 0 then d.apply (fld w 4 1 == 1) (BitVec.ofNat 3 (fld w 1 3)) else d

/-- A row assembled under a map. -/
def assemble (d : PortDir) (beats : BitVec 1600) : List Byte := (List.range 7).flatMap fun k => beatOf beats (d.laneOf k)

/-- The receiver's reading of a row: the control word acted on, the map, and the decoded bytes with the places corrected. -/
def readRow (d : PortDir) (beats : BitVec 1600) : Option Nat × Option (PortDir × List Byte × List Nat) :=
  let b := controlCopy ((beatOf beats (d.laneOf 6)).drop 18)
  let a := controlCopy (beatOf beats (d.laneOf 0))
  let copies := b.toList ++ a.toList
  let tried := copies.findSome? fun w =>
    match rsDecode 4 (assemble (d.under w) beats) with
    | some (v, e) => some (w, d.under w, v, e)
    | none => none
  match tried with
  | some (w, d', v, e) => (some w, some (d', v, e))
  | none => (copies.head?, none)

/-- Queue the repair of a flit that this port sent (R396): one already queued or sent again is not queued twice. -/
def Port.queueRepair (p : Port) (row : BitVec 8) (slot : Bool) : Port :=
  let same (r : Repair) : Bool := r.row == row && r.slot == slot
  let busy := p.repairs.any same || (p.sendShare.toList ++ p.sendSpare.toList).any (fun x => same x.1)
    || p.resent.any fun x => x.1 == row && x.2.1 == slot
  match p.sent.find? fun x => x.1.setWidth 8 == row with
  | none => p
  | some x =>
    if busy then p
    else
      let f := BitVec.ofNat 640 (fld x.2.toNat (8 * (if slot then 83 else 3)) 640)
      { p with repairs := p.repairs ++ [{ flit := f, late := false, slot := slot, row := row }] }

/-- Act on an inward control word: repair requests, and map operations asked of this port's own rows. -/
def Port.control (p : Port) (w : Nat) : Port :=
  let rq := fld w 14 2
  let row := BitVec.ofNat 8 (fld w 6 8)
  let p := if rq % 2 = 1 then p.queueRepair row false else p
  let p := if 2 ≤ rq then p.queueRepair row true else p
  if fld w 5 1 == 1 && fld w 0 1 == 1 then { p with mop := p.mop ++ [(fld w 4 1 == 1, BitVec.ofNat 3 (fld w 1 3), false)] } else p

/-- Share and spare beats of an inward row: packets are complete after 20 rows and after 4. -/
def Port.gather (p : Port) (fc : Nat) (share spare : List Byte) : Port × List (List Byte) :=
  let sh := (if fc % 20 = 0 then [] else p.shares) ++ share
  let sp := if p.ind.onSpare == 7 then (if fc % 4 = 0 then [] else p.beats) ++ spare else []
  let doneSh := decide (fc % 20 = 19) && sh.length == 100
  let doneSp := decide (fc % 4 = 3) && sp.length == 100
  ({ p with shares := if doneSh then [] else sh, beats := if doneSp then [] else sp },
    (if doneSh then [sh] else []) ++ (if doneSp then [sp] else []))

/-- Corrected bytes by the lane that carried them. -/
def Port.countErrors (p : Port) (d : PortDir) (places : List Nat) : Port :=
  if places.isEmpty then p
  else
    let lanes := (places.map fun i => d.laneOf (i / 25)).eraseDups
    { p with
      corr := satInc p.corr
      laneErr := w64 (packList 8 ((List.range 8).map fun k =>
        let c := fld p.laneErr.toNat (8 * k) 8
        if lanes.contains k then min 255 (c + 1) else c)) }

/-- ROW_RECEIVE: the eight beats of an inward row, FLIGHT + 8 FC after its departure. -/
def execRowReceive (n : BitVec 4) (beats : BitVec 1600) (s : State) : Out :=
  .next (
    let p := s.port n
    if !p.carrying then s
    else
      let fc := s.fcc - BitVec.ofNat 64 (p.flight.toNat + 8)
      let (word, row) := readRow p.ind beats
      let spare := beatOf beats (p.ind.laneOf 7)
      let s := match word with | some w => s.modPort n fun p => p.control w | none => s
      match row with
      | none =>
        let s := s.modPort n fun p => { p with uncorr := satInc p.uncorr, badRows := p.badRows + 1 }
        if 16 ≤ (s.port n).badRows then s.losePort n .retraining
        else
          let s := (s.wantRepair n fc false).wantRepair n fc true
          let (p', pkts) := (s.port n).gather fc.toNat (List.replicate 5 0) spare
          pkts.foldl (fun (s : State) q => s.takeRepair n q) (s.modPort n fun _ => p')
      | some (d, v, places) =>
        let s := s.modPort n fun p => ({ (p.countErrors d places) with ind := d, badRows := 0 } : Port).settle
        let flit (slot : Bool) : BitVec 640 := BitVec.ofNat 640 (ofBytes ((v.drop (if slot then 83 else 3)).take 80))
        let take (s : State) (slot : Bool) : State :=
          let r := s.takeFlit n fc slot false (flit slot)
          if r.2 then r.1.wantRepair n fc slot else r.1
        let s := take (take s false) true
        let (p', pkts) := (s.port n).gather fc.toNat ((v.drop 163).take 5) spare
        pkts.foldl (fun (s : State) q => s.takeRepair n q) (s.modPort n fun _ => p'))

/-- REPAIR_TIMEOUT: a flit not repaired within the bound is requested once more, and then is lost. -/
def execRepairTimeout (n : BitVec 4) (s : State) : Out :=
  .next (s.modPort n fun p =>
    let due (w : RepairWait) : Bool :=
      decide (p.bound (p.waits.any fun u => u.row == w.row && u.slot != w.slot) * (w.asked + 1) < (s.fcc - w.since).toNat) && !w.due
    { p with waits := (p.waits.filter fun w => !(due w && decide (2 ≤ w.asked))).map fun w =>
        if due w then { w with due := true } else w })

/-! ## Tuning (R399-R401) -/

/-- The position that a lane carries. -/
def PortDir.posOf (d : PortDir) (lane : BitVec 3) : Option (BitVec 3) :=
  ((List.range 7).find? fun k => d.laneOf k == lane.toNat).map (BitVec.ofNat 3)

def Port.dir (p : Port) (out : Bool) : PortDir := if out then p.outd else p.ind

def Port.setDir (p : Port) (out : Bool) (d : PortDir) : Port := if out then { p with outd := d } else { p with ind := d }

/-- A lane is to leave: the port announces it for its own rows, and asks it of the far end for a drop ring; the lane retrains. -/
def Port.leave (p : Port) (out : Bool) (lane : BitVec 3) (fcc : W64) : Port :=
  let d := p.dir out
  let p := p.setDir out { d with retrain := some (lane, fcc) }
  let p := { p with wraps := satInc p.wraps }
  match d.posOf lane with
  | some k => { p with mop := p.mop ++ [(false, k, !out)] }
  | none => p

/-- RING_NEAR_WRAP: a NEAR ring is wrapped where the spare of its direction is free, and waits while it is not. -/
def execRingNearWrap (n : BitVec 4) (out : Bool) (lane : BitVec 3) (s : State) : Out :=
  .next (s.modPort n fun p =>
    let d := p.dir out
    let bit : BitVec 8 := BitVec.ofNat 8 (2 ^ lane.toNat)
    if !p.carrying then p
    else if d.onSpare != 7 || d.retrain.isSome then p.setDir out { d with near := d.near ||| bit }
    else (p.setDir out { d with near := d.near &&& ~~~bit }).leave out lane s.fcc)

/-- RING_END_OF_RANGE: a ring reaches the end of its range; a second one in a direction that stands in loses the port. -/
def execRingEndOfRange (n : BitVec 4) (out : Bool) (lane : BitVec 3) (s : State) : Out :=
  .next (
    let p := s.port n
    if !p.carrying then s
    else if (p.dir out).onSpare != 7 || (p.dir out).retrain.isSome then
      (s.modPort n fun p => { p with wraps := satInc p.wraps }).losePort n .retraining
    else s.modPort n fun p =>
      let p := p.leave out lane s.fcc
      match out, p.sent with
      | true, x :: _ => (p.queueRepair (x.1.setWidth 8) false).queueRepair (x.1.setWidth 8) true
      | _, _ => p)

/-- LANE_RETRAIN_COMPLETE: a trained lane joins at a frame boundary; a failed one is tried again. -/
def execLaneRetrainComplete (n : BitVec 4) (out : Bool) (ok : Bool) (s : State) : Out :=
  .next (s.modPort n fun p =>
    let d := p.dir out
    match d.retrain with
    | none => p
    | some (lane, _) =>
      if !p.carrying then p
      else if !ok then p.setDir out { d with retrain := some (lane, s.fcc) }
      else
        let p := p.setDir out { d with retrain := none, joining := d.onSpare != 7 }
        if d.onSpare != 7 then { p with mop := p.mop ++ [(true, d.onSpare, !out)] } else p)

/-- LANE_RETRAIN_RETRY: a failed lane retrain is tried again every 1 ms. -/
def execLaneRetrainRetry (n : BitVec 4) (out : Bool) (s : State) : Out :=
  .next (s.modPort n fun p =>
    let d := p.dir out
    match d.retrain with
    | some (lane, f) => if oneMs ≤ (s.fcc - f).toNat then p.setDir out { d with retrain := some (lane, s.fcc) } else p
    | none => p)

/-- CLOCK_LANE_LOST: ACTIVE or DEGRADED to RETRAINING. -/
def execClockLaneLost (n : BitVec 4) (_out : Bool) (s : State) : Out :=
  .next (if (s.port n).carrying then s.losePort n .retraining else s)

/-! ## The switch matrix (R406, R407) -/

def State.modSwitch (s : State) (e : BitVec 2) (f : Switch → Switch) : State :=
  { s with switches := s.switches.set e.toNat (f s.switches[e.toNat]) }

/-- The wear counter of a cell: logical row and column. -/
def Switch.wearIdx (x : Switch) (row : BitVec 3) (col : BitVec 3) : Fin 80 :=
  ⟨(x.phys[row.toNat].toNat % 10) * 8 + col.toNat, by omega⟩

/-- A column that is a port which is not DARK. -/
def State.litColumn (s : State) (e : BitVec 2) (col : BitVec 3) : Bool :=
  if h : col.toNat < 4 then (s.ports[4 * e.toNat + col.toNat]'(by omega)).phase != .dark else false

/-- The logical row of a cell holds the asked state already. -/
def Switch.holds (x : Switch) (v : Bool) (col row : BitVec 3) : Bool := (x.row[row.toNat] == some col) == v

/-- SWCMD: a cell write starts, or is refused. -/
def execSwcmd (e : BitVec 2) (v : W64) (s : State) : Out :=
  .next (
    let x := s.switches[e.toNat]
    let row : BitVec 3 := v.extractLsb' 0 3
    let col : BitVec 3 := v.extractLsb' 4 3
    let set := v.getLsbD 7
    let cur := x.row[row.toNat]
    let lit := s.litColumn e col || (match cur with | some c => s.litColumn e c | none => false)
    let second := set && ((cur.isSome && cur != some col) || ((List.finRange 8).any fun r => r.val != row.toNat && x.row[r] == some col))
    let worn := decide (8000000 ≤ x.wear[x.wearIdx row col].toNat)
    match firstBad [(0x01, v.toNat / 256 != 0 || v.getLsbD 3), (0x02, x.busy.isSome), (0x03, lit), (0x04, second),
        (0x05, !x.holds set col row && worn && x.spares == 0)] with
    | some err => s.modSwitch e fun y => { y with err := BitVec.ofNat 8 err }
    | none =>
      if x.holds set col row then s.modSwitch e fun y => { y with err := 0 }
      else s.modSwitch e fun y => { y with err := 0, busy := some (set, col, row, worn) })

/-- A cell is written: its wear counts. -/
def Switch.wearOut (x : Switch) (row col : BitVec 3) : Switch :=
  let i := x.wearIdx row col
  { x with wear := x.wear.set i (x.wear[i] + 1) }

/-- SWITCH_CELL_WRITE_DONE: a cell write completes; a worn row is copied to a spare row first. -/
def execSwitchCellWriteDone (e : BitVec 2) (s : State) : Out :=
  .next (
    let x := s.switches[e.toNat]
    match x.busy with
    | none => s
    | some (set, col, row, true) =>
      let y := { x with phys := x.phys.set row.toNat (BitVec.ofNat 4 (10 - x.spares)), spares := x.spares - 1, busy := some (set, col, row, false) }
      let y := match x.row[row.toNat] with | some c => y.wearOut row c | none => y
      (s.modSwitch e fun _ => y).logEvent .retirement [zext64 e, zext64 row]
    | some (set, col, row, false) =>
      s.modSwitch e fun _ => { (x.wearOut row col) with row := x.row.set row.toNat (if set then some col else none), busy := none })

end Sys2Proof.Machine
end

