-- ==== Sys2Proof/Machine/Ether.lean ====
section
/-!
DEFINITION. The Ultra Ethernet endpoints (19_remote.md R427-R430): work rings and their descriptors, incoming and outgoing remote memory
accesses, and the statistics of entropy sets.  Packets on the wire are data of the events.
-/
namespace Sys2Proof.Machine
open Sys2Proof

/-! ## Work rings (R428): they follow R278-R280 -/

/-- The number of ring `r` of a context. -/
def ringIndex (c : BitVec 6) (r : BitVec 2) : Fin 256 := ⟨c.toNat * 4 + r.toNat, by omega⟩

def State.workRing (s : State) (c : BitVec 6) (r : BitVec 2) : Queue := s.remote.rings[ringIndex c r]

def State.setRing (s : State) (c : BitVec 6) (r : BitVec 2) (x : Queue) : State :=
  { s with remote := { s.remote with rings := s.remote.rings.set (ringIndex c r) x } }

/-- Change a work ring; a change of STATUS is copied to its control block, and the ring pauses where that fails (R278). -/
def State.putRing (s : State) (c : BitVec 6) (r : BitVec 2) (x : Queue) : State :=
  let old := s.workRing c r
  let s := s.setRing c r x
  if old.status == x.status || x.qcb == 0 then s
  else
    let va := x.qcb + 0x20
    let mine (w : OwedWrite) : Bool := match w with | .status _ d a _ => d == c && a == va | _ => false
    let s : State := { s with owed := s.owed.filter fun w => !mine w }
    match s.hWrite c va 8 x.status with
    | .ok s' _ => s'
    | .hold => s.owe (.status none c va x.status)
    | .bad s' e _ => s'.setRing c r (x.fail 0x07 e x.progIdx)

/-- The Hearth's access to the control block or the ring failed, for the descriptor at index `i`. -/
def State.ringFault (s : State) (c : BitVec 6) (r : BitVec 2) (cause : Nat) (i : W32) : State :=
  s.putRing c r ((s.workRing c r).fail 0x07 cause i)

/-- The signals of the descriptors not yet read, and of those in flight, receive an error value; none while a slot cannot be read. -/
def State.cancelRing (s : State) (x : Queue) (r code : Nat) : Nat → Option State
  | 0 => some s
  | n + 1 =>
    match s.hRead x.ctx (x.slotAt r) 64 with
    | .hold => none
    | .ok s b =>
      let s := if fld b 7 1 = 1 then s.signalStore none x.ctx (pktSig (BitVec.ofNat 512 b)) (errorValue code) else s
      s.cancelRing x (r + 1) code n
    | .bad s _ _ => s.cancelRing x (r + 1) code n

/-- Outgoing accesses that satisfy `f` end with an error value. -/
def State.failRmas (s : State) (f : Rma → Bool) (code : Nat) : State :=
  let gone := s.remote.rmas.filter f
  let s : State := { s with remote := { s.remote with rmas := s.remote.rmas.filter fun m => !f m } }
  gone.foldl (fun (s : State) m => s.signalStore none m.ctx (pktSig m.desc) (errorValue code)) s

/-- CONTROL of a work ring: the commands of Table 12-4 with the transitions of Table 12-7. -/
def State.ringControl (s : State) (c : BitVec 6) (r : BitVec 2) (v : W64) : State :=
  let x := s.workRing c r
  match fld v.toNat 0 3, x.phase with
  | 1, .dead =>
    let a := v &&& ~~~63#64
    if (s.ctx c).phase != .live then s
    else match s.checkCreate c a with
      | .hold => s.owe (.ringControl c r v)
      | .bad s _ _ => s.setRing c r { x with err := 0x0B, cause := 0, pkt := 0 }
      | .ok s (ring, n) => s.putRing c r (x.created c a ring n)
  | 2, .active => s.putRing c r { x with phase := .paused, err := 0, cause := 0, pkt := 0 }
  | 3, .paused =>
    if (s.ctx c).phase == .live then s.putRing c r { x with phase := .active, err := 0, cause := 0, pkt := 0 } else s
  | 4, .active => s.putRing c r { x with phase := .draining }
  | 4, .paused => s.putRing c r { x with phase := .draining }
  | 5, .dead => s
  | 5, _ =>
    let s1 := s.failRmas (fun m => m.ctx == c && m.ring == r) 0x81
    let dead (s : State) : State := s.putRing c r { s.workRing c r with phase := .dead }
    match s1.indices x with
    | .hold => s.owe (.ringControl c r v)
    | .bad s2 _ _ => dead s2
    | .ok s2 (i, _) => match s2.cancelRing x i 0x81 (2 ^ x.log2n) with
      | none => s.owe (.ringControl c r v)
      | some s3 => dead s3
  | _, _ => s

/-! ## Bytes of an endpoint's access (R429) -/

/-- The parts of an access: location, first byte and length; or the cause of its refusal; or a wait. -/
def State.rmaParts (s : State) (c : BitVec 6) (va : W64) (want : Want) (l : List (Nat × Nat × Nat)) : Checked Unit (List (Phys × Nat × Nat)) :=
  gather (l.map fun x =>
    let a := va + BitVec.ofNat 64 x.1
    match s.place c a want true with
    | .bad _ e v => .bad () e v
    | .hold => .hold
    | .ok _ p =>
      if want == .write && (barrierPlace p || ((s.windowOf p).isSome && barrierWindow p.die (p.pa.toNat + x.2.2 - 1))) then .bad () cBarrierRegion a
      else match s.canReach hubDie p x.2.2 a with
        | .bad _ e v => .bad () e v
        | .hold => .hold
        | .ok _ _ => .ok () (p, x.1, x.2.2))

/-- The parts of `n` bytes from an address, one per line of 128 bytes. -/
def State.rmaSpan (s : State) (c : BitVec 6) (va : W64) (n : Nat) (want : Want) : Checked Unit (List (Phys × Nat × Nat)) :=
  s.rmaParts c va want (cutAt 128 (n / 128 + 2) 0 va.toNat n)

/-- Write bytes one after another from a location. -/
def State.wrBytes (s : State) (c : BitVec 6) (p : Phys) : List Byte → State
  | [] => s
  | b :: rest => (s.wrC c p b).wrBytes c { p with pa := p.pa + 1 } rest

/-- Place the parts of a packet in order. -/
def State.placeParts (c : BitVec 6) (data : List Byte) : List (Phys × Nat × Nat) → State → Placed
  | [], s => .ok s
  | x :: rest, s =>
    s.placeThen (s.linesOf x.1 x.2.2) 0 (fun s => s.wrBytes c x.1 ((data.drop x.2.1).take x.2.2)) (State.placeParts c data rest)

/-- Accesses of a placement or a read that met closed tile windows. -/
def State.rmaMet (s : State) (c : BitVec 6) (va : W64) (ps : List (Phys × Nat × Nat)) : State :=
  s.closedMet c (ps.map fun x => (x.1, va + BitVec.ofNat 64 x.2.1))

/-- Place bytes at an address of a context. -/
def State.rmaPlace (s : State) (c : BitVec 6) (va : W64) (data : List Byte) : Placed :=
  match s.rmaSpan c va data.length .write with
  | .bad _ x a => .refuse s x a
  | .hold => .hold
  | .ok _ ps => State.placeParts c data ps (s.rmaMet c va ps)

/-! ## Descriptors (Table 19-8) -/

/-- A descriptor that breaks a rule: a reserved field, OP, or a length above 1 GiB. -/
def descBad (d : BitVec 512) : Bool :=
  let h := d.toNat
  let op := fld h 8 2
  fld h 0 7 != 0 || fld h 10 2 != 0 || fld h 40 24 != 0 || op == 0 || op == 3 || decide (2 ^ 30 ≤ fld h 192 32) || fld h 236 20 != 0
    || fld h 256 192 != 0

/-- Bytes of a descriptor's message. -/
def descLen (d : BitVec 512) : Nat := fld d.toNat 192 32 + 1

/-- A descriptor starts: it breaks a rule, its local bytes cannot be read, or it is in flight. -/
def State.startDesc (s : State) (c : BitVec 6) (r : BitVec 2) (d : BitVec 512) : State :=
  if descBad d then s.signalStore none c (pktSig d) (errorValue 0x82)
  else
    let go : State := { s with remote := { s.remote with
      rmas := s.remote.rmas ++ [{ id := s.remote.nextRma, ctx := c, ring := r, desc := d, done := 0 }]
      nextRma := s.remote.nextRma + 1 } }
    if fld d.toNat 8 2 = 1 then
      match s.rmaSpan c (pktWord d 1) (descLen d) .read with
      | .bad _ x _ => s.signalStore none c (pktSig d) (errorValue x)
      | .hold => go
      | .ok _ ps => go.rmaMet c (pktWord d 1) ps
    else go

/-- UE_WORK_DESCRIPTOR: the endpoint takes the descriptor at READ of a work ring and sends its message; at most 4,096 messages of a
context are outstanding (Table 19-7). -/
def execUeWorkDescriptor (c : BitVec 6) (r : BitVec 2) (s : State) : Out :=
  .next (
    let x := s.workRing c r
    if !(x.phase == .active || x.phase == .draining) || decide (4096 ≤ (s.remote.rmas.filter fun m => m.ctx == c).length) then s
    else match s.indices x with
      | .hold => s
      | .bad s e _ => s.ringFault c r e x.progIdx
      | .ok s0 (i, w) =>
        if i == w then
          if x.phase == .draining && !(s.remote.rmas.any fun m => m.ctx == c && m.ring == r) then s0.putRing c r { x with phase := .dead }
          else if !x.prompted then s0
          else s0.putRing c r { x with prompted := false }
        else match s0.hRead c (x.slotAt i) 64 with
          | .hold => s
          | .bad s e _ => s.ringFault c r e (BitVec.ofNat 32 i)
          | .ok s0 body =>
            if fld body 7 1 = 0 then s0.putRing c r { x with prompted := false }
            else match s0.hWrite c (x.slotAt i) 8 0 with
              | .hold => s
              | .bad s e _ => s.ringFault c r e (BitVec.ofNat 32 i)
              | .ok s1 _ =>
                match s1.hWrite c (x.qcb + 8) 8 ((i + 1) % 2 ^ 64) with
                | .hold => s
                | .bad s e _ => s.ringFault c r e (BitVec.ofNat 32 i)
                | .ok s2 _ =>
                  let d := BitVec.ofNat 512 body
                  let s3 := s2.putRing c r { x with progIdx := BitVec.ofNat 32 i, prompted := false }
                  if x.phase == .draining then s3.signalStore none c (pktSig d) (errorValue 0x80) else s3.startDesc c r d)

/-! ## Packets -/

/-- UE_RMA_PACKET: an incoming packet of a remote access to `data.length` bytes at an offset of a key: a write is placed, a read
leaves the state as it is; one that memory holds is not acknowledged, and its sender sends it again; of a packet refused with a NACK, lines before the refused one stay written (R429, R440). -/
def execUeRmaPacket (c : BitVec 6) (wr : Bool) (rkey : BitVec 12) (off : W64) (data : List Byte) (s : State) : Out :=
  .next (
    match Config.remoteKey c.toNat rkey.toNat with
    | none => s
    | some (base, len, w) =>
      if !wr || !w || decide (len < off.toNat + data.length) then s
      else match s.rmaPlace c (base + off) data with
        | .ok s' => s'
        | .hold => s
        | .refuse s' _ _ => s')

/-- An outgoing access is over. -/
def State.endRma (s : State) (m : Rma) : State :=
  { s with remote := { s.remote with rmas := s.remote.rmas.filter fun x => x.id != m.id } }

/-- UE_RESPONSE_PACKET for the outgoing access `m`: kind 0 acknowledges the last byte of a write, 1 is a NACK with its cause, 2 brings
the next bytes of a read, which complete it when they are its last; other kinds are none (R428, R429). -/
def execUeResponsePacket (m : Nat) (kind : BitVec 2) (cause : BitVec 8) (data : List Byte) (s : State) : Out :=
  .next (
    match s.remote.rmas.find? fun x => x.id == m with
    | none => s
    | some x =>
      let sig := pktSig x.desc
      let op := fld x.desc.toNat 8 2
      match kind.toNat with
      | 0 => if op = 1 && !s.signalHeld x.ctx sig then (s.endRma x).signalDone none x.ctx sig else s
      | 1 => (s.endRma x).signalStore none x.ctx sig (errorValue cause.toNat)
      | 2 =>
        if op != 2 || decide (descLen x.desc < x.done + data.length) || s.signalHeld x.ctx sig then s
        else match s.rmaPlace x.ctx (pktWord x.desc 1 + BitVec.ofNat 64 x.done) data with
          | .hold => s
          | .refuse s e _ => (s.endRma x).signalStore none x.ctx sig (errorValue e)
          | .ok s =>
            if x.done + data.length = descLen x.desc then (s.endRma x).signalDone none x.ctx sig
            else { s with remote := { s.remote with
              rmas := s.remote.rmas.map fun y => if y.id == m then { y with done := y.done + data.length } else y } }
      | _ => s)

/-! ## Entropy sets (R430) -/

/-- ENTROPY_STATS_UPDATE: SENT, ECN and RTT of an entry are rewritten. -/
def execEntropyStatsUpdate (_c : BitVec 6) (eset : BitVec 12) (ent : BitVec 8) (sent : W32) (ecn rtt : BitVec 16) (s : State) : Out :=
  .next (
    let b := Config.entropySetBase eset.toNat
    s.wrN 0 s.pkg (BitVec.ofNat 3 (b.1 % 5)) (b.2 / 4096 * 4096 + 16 * ent.toNat + 8) 8
      (sent.toNat + 2 ^ 32 * ecn.toNat + 2 ^ 48 * rtt.toNat))

end Sys2Proof.Machine
end

