-- ==== Sys2Proof/Machine/Management.lean ====
section
/-!
DEFINITION. The management subsystem (25_management.md R431-R439): island points and ratio changes (01_device.md R16-R18, R20), power
order, start-up, the limit loop, the mailbox; host writes to device memory (10_order.md R254) and to the registers of BAR0 (00_scope.md
R10, R11).
-/
namespace Sys2Proof.Machine
open Sys2Proof

/-! ## Islands (R16, R17, R432) -/

def State.island (s : State) (i : Fin 16) : Island := s.manage.islands[i]

def State.modIsland (s : State) (i : Fin 16) (f : Island → Island) : State :=
  { s with manage := { s.manage with islands := s.manage.islands.set i (f (s.island i)) } }

/-- The largest n that a supply setting supports. -/
def ratioLimit (vset : Nat) : Nat := min 40 (22 + vset / 5)

/-- The tiles of an island. -/
def tilesOf (i : Fin 16) : List TileNo := if tileIsland i.val then (List.finRange 640).filter fun t => islandOf t == i else []

/-- A launch holds the tile. -/
def Tile.holdsLaunch (t : Tile) : Bool := t.phase == .bound || t.phase == .running || t.phase == .trapped || t.phase == .saving

/-- Tiles that the transfers of a tile's command, or the tree of its round, reach in this package. -/
def State.reached (s : State) (t : TileNo) : List TileNo :=
  match (s.tile t).tx.cmd with
  | none => []
  | some c => (c.transfers.filterMap fun x => if x.dstPkg == s.pkg then tileOf? (x.dstDie.toNat * 160 + x.dstTile) else none)
      ++ (match c.tree with | some x => s.treeLeaves x.1 | none => [])

/-- A collective that involves a tile of the island is in progress: one of its tiles sends, or one that it sends to or that a flit is on its way
to lies in the island, or it is a leaf of a tree's round. -/
def State.collectiveIn (s : State) (i : Fin 16) : Bool :=
  let inside (t : TileNo) : Bool := tileIsland i.val && islandOf t == i
  (tilesOf i).any s.collective
    || (tileIsland i.val && (List.finRange 640).any fun t => (s.reached t).any inside)
    || (s.fabric.flits.any fun f => f.dstPkg == s.pkg && ((tileOf? (f.dstDie.toNat * 160 + f.dstTile)).any inside))
    || (s.fabric.rounds ++ s.fabric.sentUp).any fun r => (s.treeLeaves r.tree).any inside

/-- This instant is the binding or the resumption of the launch that holds a tile, a boundary of a launch from a DISPATCH packet (R17). -/
def State.bindsNow (s : State) (t : TileNo) : Bool :=
  match s.launchOf t with
  | some l => l.phase == .binding && l.from_ == .packet && l.since == s.fcc
  | none => false

/-- The instant is a boundary of every launch with tiles bound in the island (R17): a launch of a DISPATCH packet lies between two of its
boundaries from its binding to its completion or save, and a graph's launch from the start of its pass to the end. -/
def State.atRatioBoundary (s : State) (i : Fin 16) : Bool :=
  !s.collectiveIn i && !(tilesOf i).any fun t => (s.tile t).holdsLaunch && !s.bindsNow t

/-- A lower supply setting that waits is applied once every island's n fits it. -/
def State.settleSupply (s : State) : State :=
  let fits (v : Nat) : Bool := (List.finRange 16).all fun j => !tileIsland j.val || decide ((s.island j).ncur ≤ ratioLimit v)
  (List.finRange 16).foldl (fun (s : State) i =>
    match (s.island i).vwant with
    | some v => if fits v then s.modIsland i fun x => { x with vset := v, vwant := none } else s
    | none => s) s

/-- An island's ratio changes now; NCUR shows it, and a change by the limit loop or for the supply is logged. -/
def State.applyRatio (s : State) (i : Fin 16) (n : Nat) : State :=
  let s := s.modIsland i fun x => { x with ncur := n, held := none, forced := false }
  (s.logEvent .limit [BitVec.ofNat 64 i.val, BitVec.ofNat 64 n]).settleSupply

/-- Ask for a ratio: it takes effect at once at a boundary, and is held otherwise; the latest request stands. -/
def State.askRatio (s : State) (i : Fin 16) (n : Nat) (forced : Bool) : State :=
  if (s.island i).ncur = n then s.modIsland i fun x => { x with held := none, forced := false }
  else if s.atRatioBoundary i then s.applyRatio i n
  else s.modIsland i fun x => { x with held := some n, forced := forced }

/-- ISLAND_RATIO_CHANGE: a held change takes effect at a boundary, outside collectives. -/
def execIslandRatioChange (i : BitVec 4) (s : State) : Out :=
  .next (
    let k := i.toFin
    match (s.island k).held with
    | some n => if s.atRatioBoundary k then s.applyRatio k n else s
    | none => s)

/-- NREQ_WRITE: islands 12-15 and values outside 16-40 are discarded; a value above the limit of the supply is applied at the limit. -/
def execNreqWrite (i : BitVec 4) (n : BitVec 8) (s : State) : Out :=
  .next (
    let k := i.toFin
    if 12 ≤ k.val ∨ n.toNat < 16 ∨ 40 < n.toNat then s
    else
      let s := s.modIsland k fun x => { x with nreq := n.toNat }
      if tileIsland k.val then s.askRatio k (min n.toNat (ratioLimit (s.island k).vset)) false else s)

/-- VSET_WRITE: a higher setting is applied at once, a lower one after every island's n fits it; values above 125 are discarded. -/
def execVsetWrite (i : BitVec 4) (v : BitVec 8) (s : State) : Out :=
  .next (
    let k := i.toFin
    let v := v.toNat
    if 125 < v then s
    else if (s.island k).vset ≤ v then s.modIsland k fun x => { x with vset := v, vwant := none }
    else
      let s := s.modIsland k fun x => { x with vwant := some v }
      let s := (List.finRange 16).foldl (fun (s : State) j =>
        if tileIsland j.val && decide (ratioLimit v < (s.island j).ncur) then s.askRatio j (ratioLimit v) false else s) s
      s.settleSupply)

/-! ## Power order (R434) and module power (R18) -/

/-- Islands in the order of power-up. -/
def powerOrder : List (Fin 16) := [12, 13, 2, 5, 8, 11, 14, 15, 0, 1, 3, 4, 6, 7, 9, 10]

/-- The islands before one in the order, and those behind it. -/
def islandsBefore (i : Fin 16) : List (Fin 16) := powerOrder.takeWhile (· != i)
def islandsBehind (i : Fin 16) : List (Fin 16) := (powerOrder.dropWhile (· != i)).drop 1

/-- ISLAND_POWER_UP: once every island before it has power, tile islands in any order among themselves; the tiles of a tile island go through their reset. -/
def execIslandPowerUp (i : BitVec 4) (s : State) : Out :=
  .next (
    let k := i.toFin
    let peer (j : Fin 16) : Bool := tileIsland j.val && tileIsland k.val
    if s.manage.on && !(s.island k).powered && (islandsBefore k).all fun j => peer j || (s.island j).powered then
      s.modIsland k fun x => { x with powered := true }
    else s)

/-- ISLAND_POWER_DOWN: once no island behind it has power, and, for a tile island, only while all its tiles are IDLE.  What an island that is
no tile island covers (R18) keeps its state and works on: the specification does not say what the lack of power does to it
(DESIGN CHOICE, log entry 96). -/
def execIslandPowerDown (i : BitVec 4) (s : State) : Out :=
  .next (
    let k := i.toFin
    let peer (j : Fin 16) : Bool := tileIsland j.val && tileIsland k.val
    if (s.island k).powered && ((islandsBehind k).all fun j => peer j || !(s.island j).powered)
        && (tilesOf k).all fun t => (s.tile t).phase == .idle then
      let s := s.modIsland k fun x => { x with powered := false }
      (tilesOf k).foldl (fun (s : State) t => s.modTile t fun x => { x with phase := .off }) s
    else s)

/-- What stays when the module has no power: management flash with the log, the journal, the firmware slots and the failure marks; each
port's SKIPFAST; and the switch matrices. -/
def State.unpowered (s : State) : State :=
  let m := s.manage
  { State.reset with
    manage := { State.reset.manage with
      log := m.log, logSeq := m.logSeq, boots := m.boots, failMarks := m.failMarks, slots := m.slots, running := m.running, pending := m.pending }
    ports := s.ports.map fun p => { Port.init with skipFast := p.skipFast }
    switches := s.switches.map fun x => { x with busy := none, err := 0 }
    drawn := s.drawn }

/-- MODULE_POWER_OFF. -/
def execModulePowerOff (s : State) : Out := .next s.unpowered

/-! ## Start-up (R435, R436, R438) -/

/-- A step that has an alternative path after a failure (Table 25-2). -/
def hasAlternative (step : Nat) : Bool := step == 1 || step == 3 || step == 4 || step == 5 || step == 7 || step == 8

/-- A journal entry: boot count, step, path (1 the alternative) and result. -/
def State.journal (s : State) (step : Nat) (alt ok : Bool) : State :=
  s.logEvent .journal [s.manage.boots, BitVec.ofNat 64 step, if alt then 1 else 0, if ok then 1 else 0]

/-- The slot that step 1 takes: the pending one; after a failure with a pending slot the running one; after another failure of step 1
the slot that does not run; otherwise the running one. -/
def Manage.startSlot (m : Manage) : Fin 2 :=
  match m.pending with
  | some p => p
  | none => if m.failMarks[1] && !m.failMarks[0] then 1 - m.running else m.running

/-- The work of a start-up step, with the slot that step 1 has taken. -/
def State.startStep (s : State) (k : Fin 2) (step : Nat) (alt : Bool) : State :=
  match step with
  | 2 => { s with manage := { s.manage with islands := s.manage.islands.map fun x => { x with powered := true } } }
  | 6 => { s with store := { s.store with
      gen := Vector.replicate 5 0, stamp := [], shadows := [], attr := [], chunk := [], dirty := [], migs := []
      reserve := Vector.ofFn fun d => [(carveOut (BitVec.ofNat 3 d.val), 64 * 65536)] } }
  | 7 =>
    { s with supCode := (Config.handlerOf (s.manage.slots[if alt then 1 - k else k]).image).take 512 }
  | 8 => (List.range 16).foldl (fun (s : State) n =>
      match execPortEnable (BitVec.ofNat 4 n) s with
      | .next s' => s'
      | _ => s) s
  | 9 =>
    { s with
      pkg := Config.bootPackage
      fabric := { s.fabric with routes := Config.bootRoutes, trees := Config.bootTrees }
      remote := { s.remote with pairs := Config.bootPairs.map fun e =>
        { src := e.1, pkg := e.2.1, die := e.2.2.1, ports := e.2.2.2.1, smask := e.2.2.2.2.1, rtt := e.2.2.2.2.2, last := 0 } } }
  | _ => s

/-- The steps from `step` on, with slot `k`; `fails` names those that fail.  A failing step fails the start: the module stays as step 1
left it, with the failure logged and marked, and the pending slot is given up. -/
def State.startFrom (base : State) (k : Fin 2) (fails : BitVec 10) : List Nat → State → State
  | [], s => { s with manage := { s.manage with running := k, pending := none } }
  | step :: rest, s =>
    let alt := hasAlternative step && s.manage.failMarks.toList.getD step false && !(step == 1 && s.manage.pending.isSome)
    if fails.getLsbD step then
      let s := s.journal step alt false
      { base with manage := { base.manage with
          log := s.manage.log, logSeq := s.manage.logSeq, pending := none
          failMarks := Vector.ofFn fun n => if n.val = 0 then base.manage.pending.isSome else n.val == step || s.manage.failMarks[n] } }
    else
      let s := (s.startStep k step alt).journal step alt true
      State.startFrom base k fails rest
        { s with manage := { s.manage with failMarks := Vector.ofFn fun n => n.val != 0 && n.val != step && s.manage.failMarks[n] } }

/-- MODULE_POWER_ON: start-up runs its steps in order; `fails` has a bit for each step that fails on the path it is taken. -/
def execModulePowerOn (fails : BitVec 10) (s : State) : Out :=
  .next (
    if s.manage.on then s
    else
      let s := s.unpowered
      let base : State := { s with manage := { s.manage with on := true, boots := s.manage.boots + 1 } }
      let base := base.modIsland 12 fun x => { x with powered := true }
      State.startFrom base base.manage.startSlot fails [1, 2, 3, 4, 5, 6, 7, 8, 9] base)

/-! ## The limit loop (R433, R20) -/

/-- The launches that a held change of an island waits for can all be pre-empted. -/
def State.onlyPreemptible (s : State) (i : Fin 16) : Bool :=
  !s.collectiveIn i && (tilesOf i).all fun t => !(s.tile t).holdsLaunch || (match s.launchOf t with
    | some l => l.pre && l.from_ == .packet
    | none => false)

/-- The n that an island is to have: of a change that is held, or in effect. -/
def Island.target (x : Island) : Nat := min x.ncur (x.held.getD x.ncur)

/-- Lower the islands of a list by one step under R17; an island with a step left that stays held behind what cannot be pre-empted is logged,
and those at a boundary are lowered by one further step for it (R20). -/
def State.lowerIslands (s : State) (is : List (Fin 16)) : State :=
  let stuck := is.filter fun i => !s.atRatioBoundary i && !s.onlyPreemptible i && decide (16 < (s.island i).target)
  let further := stuck.length
  let s := stuck.foldl (fun (s : State) i => s.logEvent .held [BitVec.ofNat 64 i.val]) s
  is.foldl (fun (s : State) i =>
    let by_ := if s.atRatioBoundary i then 1 + further else 1
    s.askRatio i (max 16 ((s.island i).target - by_)) true) s

/-- Restore the islands of a list by one step towards NREQ. -/
def State.raiseIslands (s : State) (is : List (Fin 16)) : State :=
  is.foldl (fun (s : State) i =>
    let x := s.island i
    let goal := min x.nreq (ratioLimit x.vset)
    let n := x.held.getD x.ncur
    if n < goal then s.askRatio i (n + 1) false else s) s

/-- LIMIT_LOOP: every 1 ms, with the module power and the hotspot of each compute die as sampled; the sensors' values are new. -/
def execLimitLoop (watts : Nat) (hot : Vector Nat 4) (s : State) : Out :=
  .next (
    let s : State := { s with
      drawn := s.drawn + 256
      manage := { s.manage with sensors := Vector.ofFn fun n => (Config.freeValue (s.drawn + n.val)) &&& 0xFFFFFF#64 } }
    let tiles := (List.finRange 16).filter fun i => tileIsland i.val && (s.island i).powered
    let hotDie (i : Fin 16) : Bool := decide (105 ≤ hot.toList.getD (i.val / 3) 0)
    if hot.any fun h => decide (115 ≤ h) then (s.logEvent .shutdown [BitVec.ofNat 64 watts]).unpowered
    else if 3000 ≤ watts then s.lowerIslands tiles
    else
      let s := s.lowerIslands (tiles.filter hotDie)
      if watts < 2900 then s.raiseIslands (tiles.filter fun i => !hotDie i) else s)

/-! ## The mailbox (R437-R439) -/

/-- A device address: home in [54:52] and physical address, 64-byte aligned, of `n` bytes within the home below its carve-out. -/
def bufferOk (a : W64) (n : Nat) : Bool :=
  a.toNat % 64 == 0 && fld a.toNat 55 9 == 0 && decide (fld a.toNat 52 3 ≤ 4)
    && decide (fld a.toNat 0 52 + n ≤ carveOut (BitVec.ofNat 3 (fld a.toNat 52 3)))

/-- Bytes of device memory at a device address. -/
def State.readDevice (s : State) (a : W64) (n : Nat) : List Byte :=
  toBytes n (s.rdN 0 s.pkg (BitVec.ofNat 3 (fld a.toNat 52 3)) (fld a.toNat 0 52) n)

def State.writeDevice (s : State) (a : W64) (bs : List Byte) : State :=
  s.wrN 0 s.pkg (BitVec.ofNat 3 (fld a.toNat 52 3)) (fld a.toNat 0 52) bs.length (ofBytes bs)

/-- A mailbox command ends. -/
def State.endMailbox (s : State) (err : Nat) : State :=
  { s with manage := { s.manage with cmd := none, err := BitVec.ofNat 8 err } }

/-- A write of the mailbox's CMD: discarded while a command runs; a value that names none ends with ERR 0x01. -/
def State.mailbox (s : State) (v : W64) : State :=
  let op : BitVec 4 := v.extractLsb' 0 4
  if s.manage.cmd.isSome then s
  else if 1 ≤ op.toNat ∧ op.toNat ≤ 3 then { s with manage := { s.manage with cmd := some op } }
  else s.endMailbox 1

/-- UPDATE: the image goes to the inactive slot, and the slot is marked pending once it verifies. -/
def execUpdate (s : State) : Out :=
  .next (
    let m := s.manage
    let n := m.arg1.toNat
    if m.cmd != some 1 then s
    else if !bufferOk m.arg0 n then s.endMailbox 1
    else
      let image := s.readDevice m.arg0 n
      let k : Fin 2 := 1 - m.running
      let slot : Slot := { image := image, digest := Config.sha512 image, signature := Config.slotSignature image }
      let ok := Config.signatureOk image
      let s : State := { s with manage := { m with
        slots := m.slots.set k slot, pending := if ok then some k else none } }
      s.endMailbox (if ok then 0 else 2))

/-- What ATTEST signs over: the nonce, the digests of both slots, the handler's digest and the fuse version. -/
def State.attestMessage (s : State) (nonce : List Byte) : List Byte :=
  let code := s.supCode.flatMap fun l => toBytes 32 l.toNat
  nonce ++ toBytes 64 (s.manage.slots[0]).digest.toNat ++ toBytes 64 (s.manage.slots[1]).digest.toNat
    ++ toBytes 64 (Config.sha512 code).toNat ++ toBytes 4 Config.fuseVersion.toNat

/-- ATTEST: the signature over the digest of the nonce at ARG0 and the device's state is written back there. -/
def execAttest (s : State) : Out :=
  .next (
    let a := s.manage.arg0
    if s.manage.cmd != some 2 then s
    else if !bufferOk a 64 then s.endMailbox 1
    else
      let digest := Config.sha512 (s.attestMessage (s.readDevice a 32))
      (s.writeDevice a (toBytes 64 (Config.identitySign (toBytes 64 digest.toNat)).toNat)).endMailbox 0)

def logKindCode : LogKind → Nat
  | .journal => 0 | .limit => 1 | .held => 2 | .shutdown => 3 | .freeze => 4 | .integrity => 5 | .retirement => 6 | .fatalFree => 7
  | .recordDrop => 8

/-- LOGREAD: the records of the event log from the sequence in ARG1 on are copied to the buffer. -/
def execLogread (s : State) : Out :=
  .next (
    let m := s.manage
    if m.cmd != some 3 then s
    else
      let rs := m.log.filter fun r => decide (m.arg1.toNat ≤ r.seq.toNat)
      let bytes := rs.flatMap fun r => toBytes 64 (Config.logBytes r.seq r.fcc (logKindCode r.kind) r.detail).toNat
      if !bufferOk m.arg0 bytes.length then s.endMailbox 1 else (s.writeDevice m.arg0 bytes).endMailbox 0)

/-! ## Host writes to device memory (R254) -/

/-- The location of a host address: of a virtual function, an address of its context; of the physical function, a home of the package and
a physical address (DESIGN CHOICE, log entry 18). -/
def State.hostPhys (s : State) (f : HostFn) (addr : W64) : Option Phys :=
  match f with
  | .virtual c => match s.translate c addr .write false with
    | .ok p => some p
    | .error _ => none
  | .physical =>
    let p := physAt s.pkg (BitVec.ofNat 3 (fld addr.toNat 52 3)) (fld addr.toNat 0 52)
    if s.inMemory p.pkg p.die p.pa.toNat 1 then some p else none

/-- Write a part of a host's write: discarded where the specification says so, with a record to the owner of a range that has no
shadow entry left (17_snapshot.md R378); none when it is held. -/
def State.hostPart (s : State) (f : HostFn) (addr : W64) (bs : List Byte) : Option State :=
  let c : BitVec 6 := match f with | .virtual c => c | .physical => 0
  match s.hostPhys f addr with
  | none => some s
  | some p =>
    if barrierPlace p then some s
    else match s.canReach hubDie p bs.length addr with
    | .hold => none
    | .bad _ _ _ => some s
    | .ok _ _ => match s.homeOp c p.pkg p.die p.pa.toNat (.write bs.length (ofBytes bs)) with
      | .ok r => some r.1
      | .hold => none
      | .refuse x =>
        match if x == cShadow then s.rangeAt p.die.toNat p.pa.toNat else none with
        | some (o, _) => some (s.asyncRecord o cShadow 0 0 addr)
        | none => some s

/-- The parts of a host's write in address order; held whole while a part is. -/
def State.hostParts (f : HostFn) (data : List Byte) : List (Nat × Nat × Nat) → State → Option State
  | [], s => some s
  | (pos, a, n) :: rest, s =>
    match s.hostPart f (BitVec.ofNat 64 a) ((data.drop pos).take n) with
    | none => none
    | some s' => State.hostParts f data rest s'

/-- The lines of a host's write. -/
def State.hostStore (s : State) (f : HostFn) (addr : W64) (data : List Byte) : Option State :=
  State.hostParts f data (cutAt 128 (data.length / 128 + 2) 0 addr.toNat data.length) s

/-! ## Register writes (R10, R11) -/

/-- The state that an event leaves. -/
def stateAfter (s : State) : Out → State
  | .next s' => s'
  | _ => s

/-- A write to a queue page (12_queue.md R282). -/
def State.writeQueuePage (s : State) (f : HostFn) (q : BitVec 10) (off : Nat) (v : W64) : State :=
  if !(s.queue q).reachable f then s
  else match off, f with
    | 0x000, _ => s.notify f q
    | 0x020, .physical =>
      (match fld v.toNat 0 3 with
      | 1 => stateAfter s (execQueueCreate q v s)
      | 2 => stateAfter s (execQueuePause q s)
      | 3 => stateAfter s (execQueueResume q s)
      | 4 => stateAfter s (execQueueDrain q s)
      | 5 => stateAfter s (execQueueReset q s)
      | _ => s)
    | 0x028, .physical => { s with queues := s.queues.set q.toNat { s.queue q with ctxsel := v.extractLsb' 0 6 } }
    | _, _ => s

/-- A write to a page of function n at 0x40_0000, 0x40_2000 or 0x40_5000 (11_context.md R276, 12_queue.md R283, 17_snapshot.md R372,
19_remote.md R424). -/
def State.writeFunctionReg (s : State) (c : BitVec 6) (off : Nat) (v : W64) : State :=
  let rfl_ (g : FaultLog → FaultLog) : State := { s with remote := { s.remote with rfl := s.remote.rfl.set c.toNat (g s.remote.rfl[c.toNat]) } }
  match off with
  | 0x400000 => stateAfter s (execReply c v s)
  | 0x400010 => if v.getLsbD 0 then stateAfter s (execAttnRequest c s) else s
  | 0x400018 => s.modCtx c fun x => { x with fqrp := v }
  | 0x400028 => s.modCtx c fun x => { x with fqlost := v }
  | 0x402100 => stateAfter s (execSpoolWrite c v s)
  | 0x405000 => rfl_ fun l => { l with base := v }
  | 0x405008 => rfl_ fun l => { l with lost := v.extractLsb' 32 32, log2n := v.extractLsb' 0 5 }
  | 0x405018 => rfl_ fun l => { l with rp := v }
  | _ =>
    if 0x402000 ≤ off ∧ off < 0x402100 ∧ off % 8 = 0 then
      stateAfter s (execSrangeWrite c (BitVec.ofNat 4 ((off - 0x402000) / 16)) (decide ((off - 0x402000) / 8 % 2 = 1)) v s)
    else s

/-- A write to the context registers (11_context.md Table 11-10) or the page command registers (16_page.md Table 16-6). -/
def State.writeDriverReg (s : State) (off : Nat) (v : W64) : State :=
  let c : BitVec 6 := v.extractLsb' 8 6
  match off with
  | 0x401000 => { s with page := { s.page with arg0 := v } }
  | 0x401008 => { s with page := { s.page with arg1 := v } }
  | 0x401010 =>
    (match fld v.toNat 0 4 with
    | 1 => stateAfter s (execSetroot c s)
    | 2 => stateAfter s (execShootdown c s)
    | 3 => stateAfter s (execFrameset c s)
    | 4 => stateAfter s (execDirtysync c s)
    | 5 => stateAfter s (execMigcfg c s)
    | op => s.badPageCommand (BitVec.ofNat 4 op) c)
  | 0x401800 => { s with ctxRegs := { s.ctxRegs with arg0 := v } }
  | 0x401808 => { s with ctxRegs := { s.ctxRegs with arg1 := v &&& 31#64 } }
  | 0x401810 => { s with ctxRegs := { s.ctxRegs with arg2 := v } }
  | 0x401818 =>
    (match fld v.toNat 0 4 with
    | 1 => stateAfter s (execCtxCreate c s)
    | 2 => stateAfter s (execCtxKill c s)
    | 3 => stateAfter s (execCtxAck c s)
    | 4 => stateAfter s (execCtxDestroy c s)
    | op => s.badCtxCommand op c)
  | _ => s

/-- A write to the registers of port `n` (18_link.md Table 18-8, 19_remote.md Table 19-6). -/
def State.writePortReg (s : State) (n : BitVec 4) (off : Nat) (v : W64) : State :=
  match off with
  | 0x10 =>
    let was := (s.port n).enable
    let s := s.modPort n fun p => { p with full := v.getLsbD 1 }
    if v.getLsbD 0 && !was then stateAfter s (execPortEnable n s)
    else if !v.getLsbD 0 && was then stateAfter s (execPortDisable n s)
    else s
  | 0x18 => s.modPort n fun p => { p with uncorr := v.extractLsb' 32 32, corr := v.extractLsb' 0 32 }
  | 0x20 => s.modPort n fun p => { p with wraps := v.extractLsb' 48 16, late := v.extractLsb' 32 16, repaired := v.extractLsb' 0 32 }
  | 0x28 => s.modPort n fun p => { p with laneErr := v }
  | 0x30 => s.modPort n fun p => { p with gmac := v.extractLsb' 0 4 }
  | 0x38 => s.modPort n fun p => { p with icnt := v }
  | _ => s

/-- A write to the physical function's registers from 0x40_3000 on.  Of one write to ISLi that carries both, NREQ is taken first, at the limit
of the supply in effect before the write, and then VSET (DESIGN CHOICE, log entry 95). -/
def State.writeDeviceReg (s : State) (off : Nat) (v : W64) : State :=
  if off < 0x403400 then s.writePortReg (BitVec.ofNat 4 (off / 0x40)) (off % 0x40) v
  else if off < 0x403500 then
    if off % 0x40 = 0 then stateAfter s (execSwcmd (BitVec.ofNat 2 (off / 0x40)) v s) else s
  else if 0x404000 ≤ off ∧ off < 0x404100 then
    let d := BitVec.ofNat 2 (off / 0x40)
    if off % 0x40 = 0 then stateAfter s (execAggctlWrite d v s)
    else if off % 0x40 = 8 then
      s.setBellows d.toFin { s.bellows d.toFin with packets := v.extractLsb' 32 32, evictions := v.extractLsb' 0 32 }
    else s
  else if 0x407800 ≤ off ∧ off < 0x407880 ∧ off % 8 = 0 then
    let i := BitVec.ofNat 4 (off / 8)
    let s := stateAfter s (execNreqWrite i (v.extractLsb' 8 8) s)
    stateAfter s (execVsetWrite i (v.extractLsb' 0 8) s)
  else if off = 0x408000 then s.mailbox v
  else if off = 0x408008 then { s with manage := { s.manage with arg0 := v } }
  else if off = 0x408010 then { s with manage := { s.manage with arg1 := v.extractLsb' 0 32 } }
  else s

/-- A write to a page of a work ring (19_remote.md R428). -/
def State.writeRingPage (s : State) (c : BitVec 6) (r : BitVec 2) (off : Nat) (v : W64) : State :=
  match off with
  | 0x000 => if (s.workRing c r).phase != .dead then s.putRing c r { s.workRing c r with prompted := true } else s
  | 0x020 => s.ringControl c r v
  | _ => s

/-! ## Posted writes (R254) -/

/-- A posted write reaches its point of coherence; none while it is held.  The write of a page is one to a queue's page or to a work
ring's. -/
def State.hostPostNow (s : State) : HostPost → Option State
  | .memory f a d => s.hostStore f a d
  | .page f off v =>
    let o := off.toNat
    if o < 0x400000 then some (s.writeQueuePage f (BitVec.ofNat 10 (o / 0x1000)) (o % 0x1000) v)
    else match f with
      | .virtual c => some (s.writeRingPage c (BitVec.ofNat 2 ((o - 0x40A000) / 0x1000)) (o % 0x1000) v)
      | .physical => some s

/-- A posted write is performed, or waits: one that is held, and every later one of its function behind it. -/
def State.hostPost (s : State) (w : HostPost) : State :=
  let waits : State := { s with posted := s.posted ++ [w] }
  if s.behind w.fn then waits else (s.hostPostNow w).getD waits

/-- Try the posted writes that wait, in order. -/
def State.payPosted (s : State) : State := s.posted.foldl State.hostPost { s with posted := [] }

/-- HOST_WRITE: a host write through BAR2 reaches its point of coherence, in posted-write order. -/
def execHostWrite (f : HostFn) (addr : W64) (data : List Byte) (s : State) : Out := .next (s.hostPost (.memory f addr data))

/-- REGISTER_WRITE: a 64-bit write to BAR0 of a function.  Where a register's write has a step of its own, it is that step; a write to an
offset that is not listed, or not reached by the function, is discarded. -/
def execRegisterWrite (f : HostFn) (off : BitVec 24) (v : W64) (s : State) : Out :=
  .next (
    let o := off.toNat
    if o < 0x400000 then s.hostPost (.page f off v)
    else match f with
      | .virtual c =>
        if 0x40A000 ≤ o ∧ o < 0x40E000 then s.hostPost (.page f off v)
        else s.writeFunctionReg c o v
      | .physical => if o < 0x403000 then s.writeDriverReg o v else s.writeDeviceReg o v)

/-! ## Writes that wait -/

/-- Try a write that waited. -/
def State.pay (s : State) (w : OwedWrite) : State :=
  match w with
  | .store q c sig v => s.signalStore q c sig v
  | .done q c sig => s.signalDone q c sig
  | .status q c va v => s.writeStatus q c va v
  | .claim f q => s.claim f q
  | .create q qcb => s.createQueue q qcb
  | .reset q => s.resetQueue q
  | .ringControl c r v => s.ringControl c r v

/-- Try the writes that wait, in order: those still held wait on. -/
def State.payOwed (s : State) : State := s.owed.foldl State.pay { s with owed := [] }

end Sys2Proof.Machine
end

