-- ==== Sys2Proof/Machine/System.lean ====
section
/-!
DEFINITION. The system registers (11_context.md R266, 05_control.md R130, 03_numbers.md R65-R67): mfs, mts, and the read of FREPLY that
holds until the driver's reply arrives (R270, R271).
-/
namespace Sys2Proof.Machine
open Sys2Proof

/-! ## The map (Table 11-3) -/

/-- Addresses that user mode reads. -/
def sysUser (a : Nat) : Bool := decide (a ≤ 8) || a == 0x10 || a == 0x11 || (decide (0x18 ≤ a) && decide (a ≤ 0x1F))

/-- Addresses from 0x100 on that the map lists. -/
def sysListed (a : Nat) : Bool :=
  (decide (0x100 ≤ a) && decide (a ≤ 0x109)) || (decide (0x110 ≤ a) && decide (a ≤ 0x118)) || a == 0x120 || a == 0x121 || a == 0x190
    || (decide (0x1A0 ≤ a) && decide (a ≤ 0x1A3)) || a == 0x1B0

/-- The fault of an access to a system register, if any. -/
def Tile.sysFault (t : Tile) (a : Nat) : Option Trap :=
  if sysUser a then none
  else if !t.isSup && decide (0x100 ≤ a) then some { code := cPrivileged }
  else if t.isSup && sysListed a then none
  else some { code := cIllegalInsn }

/-- TILEID (Table 11-4). -/
def State.tileId (s : State) (t : TileNo) : W64 :=
  w64 (packFields [(10, t.val), (4, t.val % 16), (4, t.val % 160 / 16), (2, t.val / 160), (6, s.pkg.toNat)])

/-- STOPPED: bit k for a stopped strand, bit 8 for user control while the handler runs. -/
def Tile.stoppedWord (t : Tile) : W64 :=
  w64 (packList 1 (Strand.all.map fun k => if (t.str k).stopped then 1 else 0) + (if t.isSup then 256 else 0))

/-- PCk: where strand k resumes; for user control that is EPC while the handler runs. -/
def Tile.pcReg (t : Tile) (k : Strand) : W64 := if k == .control && t.isSup then t.sys.epc else t.userPc k

/-- The value of a system register of a tile, but FREPLY and WDATA; write-only registers read zero. -/
def State.sysValue (s : State) (n : TileNo) (t : Tile) (a : Nat) : W64 :=
  match a with
  | 0x000 => s.tileId n
  | 0x001 => t.sys.ltile
  | 0x002 => t.sys.gshape
  | 0x010 => s.fcc
  | 0x011 => t.tcc
  | 0x100 => t.sys.cause
  | 0x101 => zext64 t.sys.fstrand
  | 0x102 => t.sys.fpc
  | 0x103 => t.sys.faddr
  | 0x104 => t.sys.epc
  | 0x105 => t.sys.fetchpc
  | 0x106 => zext64 t.sys.fpend
  | 0x108 => zext64 t.ctx
  | 0x118 => t.stoppedWord
  | 0x120 => t.sys.wsel
  | 0x190 => zext64 (s.pods[podOf n]).mode
  | 0x1A0 => t.sys.tracectl
  | 0x1A1 => t.sys.tracebase
  | 0x1A2 => t.sys.tracewp
  | 0x1A3 => t.sys.tracerp
  | 0x1B0 => t.sys.saverec
  | _ =>
    if 3 ≤ a ∧ a ≤ 8 then t.ixOf .control (BitVec.ofNat 3 (a - 3))
    else if 0x18 ≤ a ∧ a ≤ 0x1F then zext64 (t.fpsr (strandAt (a - 0x18)))
    else if 0x110 ≤ a ∧ a ≤ 0x117 then t.pcReg (strandAt (a - 0x110))
    else 0

/-! ## FREPLY (R266, R270, R271) -/

/-- INFO of a tile's record: TCODE, or the ordinal of the halted stream that TCODE names. -/
def Tile.recordInfo (t : Tile) : W64 :=
  let tc := fld t.sys.cause.toNat 16 14
  if fld t.sys.cause.toNat 0 8 != cSoftwareTrap then t.infoOf { code := 0, tcode := tc } else w64 tc

/-- The handler of a tile writes the fault record of the fault that CAUSE, FSTRAND, FPC and FADDR report. -/
def State.writeRecordOf (s : State) (n : TileNo) : State :=
  let t := s.tile n
  let y := t.sys
  let seq := (s.ctx t.ctx).seq
  let s := s.makeRecord t.ctx y.cause y.fstrand.toNat false false (y.cause.getLsbD 30) y.fpc y.faddr (fld y.ltile.toNat 0 12) n.val t.recordInfo
  s.setTile n { t with sys := { y with lastSeq := some seq, lastTile := BitVec.ofNat 10 n.val, reply := none } }

/-- The tile's record is still waiting to be written. -/
def State.recordWaits (s : State) (t : Tile) (seq : BitVec 32) : Bool :=
  (s.ctx t.ctx).records.any fun r => fld r.words[0].toNat 32 32 == seq.toNat

/-- The reply that a read of FREPLY returns, once it may. -/
def State.replyReady (s : State) (t : Tile) : Option W64 :=
  match t.sys.lastSeq, t.sys.reply with
  | some q, some v => if s.recordWaits t q then none else some v
  | _, _ => none

/-- The reply is taken: the next read writes a record anew. -/
def Tile.takeReply (t : Tile) : Tile := { t with sys := { t.sys with lastSeq := none, reply := none } }

/-- A read of FREPLY: writes the record if none is outstanding, and holds until the reply. -/
def State.readFreply (s : State) (d : BitVec 5) : State :=
  let n := s.here
  let x := s.cur
  s.issue .control fun s =>
    match x.sys.lastSeq, s.replyReady x with
    | none, _ => .stay fun s => s.writeRecordOf n
    | _, some v => .done (s.modTile n fun t => t.takeReply.setS d v)
    | _, none => .hold

/-- FREPLY_READ: a held read of FREPLY by the handler of a tile completes. -/
def execFreplyRead (t : TileNo) (s : State) : Out :=
  .next (
    let x := s.tile t
    match x.isSup, x.queueOf .control with
    | true, e :: _ =>
      if e.kind == .insn && e.word.extractLsb' 26 6 == 0x30#6 && e.word.extractLsb' 9 12 == 0x107#12 && (s.replyReady x).isSome then
        let turn := s.turn
        { ({ s with turn := { turn with tile := t } } : State).readFreply (e.word.extractLsb' 21 5) with turn := turn }
      else s
    | _, _ => s)

/-! ## mfs and mts (R130, R266) -/

/-- mfs: the values are those before this issue cycle's landings, so an FPSR shows the flags of earlier TCs (R67). -/
def execMfs (d : BitVec 5) (a : BitVec 12) (s : State) : Out :=
  .next (
    let x := s.cur
    let n := a.toNat
    match x.sysFault n with
    | some f => s.fault s.here .control f
    | none =>
      if n = 0x107 then s.readFreply d
      else if n = 0x121 then s.issueT .control fun t => .done (t.windowNext.setS d t.windowRead)
      else s.issueT .control fun t => .done (t.setS d (s.sysValue s.here x n)))

/-- A write to a system register of the map in supervisor mode: read-only registers discard it. -/
def State.sysWrite (s : State) (n : TileNo) (a : Nat) (v : W64) : State :=
  let y (f : Sys → Sys) : State := s.modTile n fun t => { t with sys := f t.sys }
  match a with
  | 0x100 => y fun r => { r with cause := v &&& 0xFFFFFFFF#64 }
  | 0x101 => y fun r => { r with fstrand := v.extractLsb' 0 3 }
  | 0x102 => y fun r => { r with fpc := v }
  | 0x103 => y fun r => { r with faddr := v }
  | 0x104 => y fun r => { r with epc := v &&& ~~~3#64 }
  | 0x105 => y fun r => { r with fetchpc := v &&& ~~~31#64 }
  | 0x106 => y fun r => { r with fpend := r.fpend &&& ~~~(v.setWidth 8) }
  | 0x109 => s.endLaunch n v
  | 0x110 => y fun r => { r with epc := v &&& ~~~3#64 }
  | 0x120 => y fun r => { r with wsel := v &&& 0xFFFF0000FFFFFFFF#64 }
  | 0x121 => s.modTile n fun t => (t.windowWrite v).windowNext
  | 0x190 => s.writePodMode n (v.extractLsb' 0 2)
  | 0x1A0 => y fun r => { r with tracectl := v &&& 0x1FFFF#64 }
  | 0x1A1 => y fun r => { r with tracebase := v &&& ~~~63#64 }
  | 0x1A3 => y fun r => { r with tracerp := v }
  | _ =>
    if 0x111 ≤ a ∧ a ≤ 0x117 then
      s.modTile n fun t => t.modStr (strandAt (a - 0x110)) fun st => { st with pc := if st.stopped then v &&& ~~~3#64 else st.pc }
    else s

/-- The flags that the control strand's landings of this issue cycle raise. -/
def Tile.landingFlags (t : Tile) : BitVec 8 := (landAll { t.bank with recs := [] } 0 t.bank.recs).2.setWidth 8

/-- mts: an FPSR write acts on the flags of earlier TCs, and a flag raised in this one stays (R67). -/
def execMts (a : BitVec 5) (r : BitVec 12) (s : State) : Out :=
  .next (
    let x := s.cur
    let n := r.toNat
    match x.sysFault n with
    | some f => s.fault s.here .control f
    | none =>
      s.issue .control fun s =>
        let v := s.cur.s a
        if 0x18 ≤ n ∧ n ≤ 0x1F then
          let k := strandAt (n - 0x18)
          let raised : BitVec 8 := if k == .control then x.landingFlags else 0
          .done (s.modTile s.here fun t => t.setFpsr k (fpsrWrite k (x.fpsr k) v ||| raised))
        else if x.isSup then .done (s.sysWrite s.here n v)
        else .done s)

end Sys2Proof.Machine
end

