-- ==== Sys2Proof/Machine/Dispatch.lean ====
section
/-!
DEFINITION. The dispatch: one arm per constructor of Instr, each a call of its meaning.
-/
namespace Sys2Proof.Machine
open Sys2Proof

def exec (i : Instr) (s : State) : Host.Outcome State Fault Refusal :=
  match i with
  | .add d a b p n => Sys2Proof.Machine.execAdd d a b p n s
  | .sub d a b p n => Sys2Proof.Machine.execSub d a b p n s
  | .and d a b p n => Sys2Proof.Machine.execAnd d a b p n s
  | .or d a b p n => Sys2Proof.Machine.execOr d a b p n s
  | .xor d a b p n => Sys2Proof.Machine.execXor d a b p n s
  | .andn d a b p n => Sys2Proof.Machine.execAndn d a b p n s
  | .shl d a b p n => Sys2Proof.Machine.execShl d a b p n s
  | .shr d a b p n => Sys2Proof.Machine.execShr d a b p n s
  | .sra d a b p n => Sys2Proof.Machine.execSra d a b p n s
  | .min d a b p n => Sys2Proof.Machine.execMin d a b p n s
  | .max d a b p n => Sys2Proof.Machine.execMax d a b p n s
  | .minu d a b p n => Sys2Proof.Machine.execMinu d a b p n s
  | .maxu d a b p n => Sys2Proof.Machine.execMaxu d a b p n s
  | .clz d a p n => Sys2Proof.Machine.execClz d a p n s
  | .ctz d a p n => Sys2Proof.Machine.execCtz d a p n s
  | .popc d a p n => Sys2Proof.Machine.execPopc d a p n s
  | .sel d a b p n => Sys2Proof.Machine.execSel d a b p n s
  | .addW d a b p n => Sys2Proof.Machine.execAddW d a b p n s
  | .subW d a b p n => Sys2Proof.Machine.execSubW d a b p n s
  | .shlW d a b p n => Sys2Proof.Machine.execShlW d a b p n s
  | .shrW d a b p n => Sys2Proof.Machine.execShrW d a b p n s
  | .sraW d a b p n => Sys2Proof.Machine.execSraW d a b p n s
  | .clzW d a p n => Sys2Proof.Machine.execClzW d a p n s
  | .ctzW d a p n => Sys2Proof.Machine.execCtzW d a p n s
  | .popcW d a p n => Sys2Proof.Machine.execPopcW d a p n s
  | .addi d a p i1 x => Sys2Proof.Machine.execAddi d a p i1 x s
  | .andi d a p i1 x => Sys2Proof.Machine.execAndi d a p i1 x s
  | .ori d a p i1 x => Sys2Proof.Machine.execOri d a p i1 x s
  | .xori d a p i1 x => Sys2Proof.Machine.execXori d a p i1 x s
  | .shli d a p n => Sys2Proof.Machine.execShli d a p n s
  | .shri d a p n => Sys2Proof.Machine.execShri d a p n s
  | .srai d a p n => Sys2Proof.Machine.execSrai d a p n s
  | .li d p i1 x => Sys2Proof.Machine.execLi d p i1 x s
  | .lea d p i1 => Sys2Proof.Machine.execLea d p i1 s
  | .cmp d c a b p n k => Sys2Proof.Machine.execCmp d c a b p n k s
  | .cmpi d c a k i1 => Sys2Proof.Machine.execCmpi d c a k i1 s
  | .pand d a b => Sys2Proof.Machine.execPand d a b s
  | .por d a b => Sys2Proof.Machine.execPor d a b s
  | .pxor d a b => Sys2Proof.Machine.execPxor d a b s
  | .pandn d a b => Sys2Proof.Machine.execPandn d a b s
  | .pnot d a => Sys2Proof.Machine.execPnot d a s
  | .mul a b p n l => Sys2Proof.Machine.execMul a b p n l s
  | .mulh a b p n l => Sys2Proof.Machine.execMulh a b p n l s
  | .mulhu a b p n l => Sys2Proof.Machine.execMulhu a b p n l s
  | .mulW a b p n l => Sys2Proof.Machine.execMulW a b p n l s
  | .faddS a b p n l => Sys2Proof.Machine.execFaddS a b p n l s
  | .fsubS a b p n l => Sys2Proof.Machine.execFsubS a b p n l s
  | .fmulS a b p n l => Sys2Proof.Machine.execFmulS a b p n l s
  | .fmaS c a b p n l => Sys2Proof.Machine.execFmaS c a b p n l s
  | .fminS a b p n l => Sys2Proof.Machine.execFminS a b p n l s
  | .fmaxS a b p n l => Sys2Proof.Machine.execFmaxS a b p n l s
  | .faddD a b p n l => Sys2Proof.Machine.execFaddD a b p n l s
  | .fsubD a b p n l => Sys2Proof.Machine.execFsubD a b p n l s
  | .fmulD a b p n l => Sys2Proof.Machine.execFmulD a b p n l s
  | .fmaD c a b p n l => Sys2Proof.Machine.execFmaD c a b p n l s
  | .fminD a b p n l => Sys2Proof.Machine.execFminD a b p n l s
  | .fmaxD a b p n l => Sys2Proof.Machine.execFmaxD a b p n l s
  | .cvtSD a p n l => Sys2Proof.Machine.execCvtSD a p n l s
  | .cvtDS a p n l => Sys2Proof.Machine.execCvtDS a p n l s
  | .cvtSI a p n l => Sys2Proof.Machine.execCvtSI a p n l s
  | .cvtIS a p n l => Sys2Proof.Machine.execCvtIS a p n l s
  | .cvtDI a p n l => Sys2Proof.Machine.execCvtDI a p n l s
  | .cvtID a p n l => Sys2Proof.Machine.execCvtID a p n l s
  | .div a b p n l => Sys2Proof.Machine.execDiv a b p n l s
  | .divu a b p n l => Sys2Proof.Machine.execDivu a b p n l s
  | .rem a b p n l => Sys2Proof.Machine.execRem a b p n l s
  | .remu a b p n l => Sys2Proof.Machine.execRemu a b p n l s
  | .fdivS a b p n l => Sys2Proof.Machine.execFdivS a b p n l s
  | .fsqrtS a p n l => Sys2Proof.Machine.execFsqrtS a p n l s
  | .fdivD a b p n l => Sys2Proof.Machine.execFdivD a b p n l s
  | .fsqrtD a p n l => Sys2Proof.Machine.execFsqrtD a p n l s
  | .movM d l p n => Sys2Proof.Machine.execMovM d l p n s
  | .movD d l p n => Sys2Proof.Machine.execMovD d l p n s
  | .movL d l p n => Sys2Proof.Machine.execMovL d l p n s
  | .spl d p s1 => Sys2Proof.Machine.execSpl d p s1 s
  | .sps a p s1 => Sys2Proof.Machine.execSps a p s1 s
  | .lsp k l a p i1 x => Sys2Proof.Machine.execLsp k l a p i1 x s
  | .ssp b a p z i1 => Sys2Proof.Machine.execSsp b a p z i1 s
  | .popStream d b p n => Sys2Proof.Machine.execPopStream d b p n s
  | .popChannel d b p n => Sys2Proof.Machine.execPopChannel d b p n s
  | .pushK a b p n => Sys2Proof.Machine.execPushK a b p n s
  | .pushO a b p n => Sys2Proof.Machine.execPushO a b p n s
  | .pushJ a b p n => Sys2Proof.Machine.execPushJ a b p n s
  | .br p n d => Sys2Proof.Machine.execBr p n d s
  | .call p n d => Sys2Proof.Machine.execCall p n d s
  | .jr a p n => Sys2Proof.Machine.execJr a p n s
  | .jrl d a p n => Sys2Proof.Machine.execJrl d a p n s
  | .snap d a p n => Sys2Proof.Machine.execSnap d a p n s
  | .accept d a p n => Sys2Proof.Machine.execAccept d a p n s
  | .reject d a p n => Sys2Proof.Machine.execReject d a p n s
  | .snapq d a p n => Sys2Proof.Machine.execSnapq d a p n s
  | .evset e => Sys2Proof.Machine.execEvset e s
  | .evclr e => Sys2Proof.Machine.execEvclr e s
  | .evtst d e => Sys2Proof.Machine.execEvtst d e s
  | .qpost d a b p n => Sys2Proof.Machine.execQpost d a b p n s
  | .mfs d s1 => Sys2Proof.Machine.execMfs d s1 s
  | .mts a s1 => Sys2Proof.Machine.execMts a s1 s
  | .trap p i1 => Sys2Proof.Machine.execTrap p i1 s
  | .eret => Sys2Proof.Machine.execEret s
  | .tstop a => Sys2Proof.Machine.execTstop a s
  | .tgo a => Sys2Proof.Machine.execTgo a s
  | .rawait i1 c => Sys2Proof.Machine.execRawait i1 c s
  | .rrel i1 c => Sys2Proof.Machine.execRrel i1 c s
  | .halt => Sys2Proof.Machine.execHalt s
  | .wait i1 c => Sys2Proof.Machine.execWait i1 c s
  | .sig i1 c => Sys2Proof.Machine.execSig i1 c s
  | .fwait i1 c => Sys2Proof.Machine.execFwait i1 c s
  | .vadd d a b m t => Sys2Proof.Machine.execVadd d a b m t s
  | .vsub d a b m t => Sys2Proof.Machine.execVsub d a b m t s
  | .vmul d a b m t => Sys2Proof.Machine.execVmul d a b m t s
  | .vmin d a b m t => Sys2Proof.Machine.execVmin d a b m t s
  | .vmax d a b m t => Sys2Proof.Machine.execVmax d a b m t s
  | .vabs d a m t => Sys2Proof.Machine.execVabs d a m t s
  | .vneg d a m t => Sys2Proof.Machine.execVneg d a m t s
  | .vmov d a m t => Sys2Proof.Machine.execVmov d a m t s
  | .vfma d a b m t => Sys2Proof.Machine.execVfma d a b m t s
  | .vfms d a b m t => Sys2Proof.Machine.execVfms d a b m t s
  | .vfnma d a b m t => Sys2Proof.Machine.execVfnma d a b m t s
  | .vdot2 d a b m => Sys2Proof.Machine.execVdot2 d a b m s
  | .vand d a b m t => Sys2Proof.Machine.execVand d a b m t s
  | .vor d a b m t => Sys2Proof.Machine.execVor d a b m t s
  | .vxor d a b m t => Sys2Proof.Machine.execVxor d a b m t s
  | .vandn d a b m t => Sys2Proof.Machine.execVandn d a b m t s
  | .vshl d a b m t => Sys2Proof.Machine.execVshl d a b m t s
  | .vshr d a b m t => Sys2Proof.Machine.execVshr d a b m t s
  | .vsra d a b m t => Sys2Proof.Machine.execVsra d a b m t s
  | .vnot d a m t => Sys2Proof.Machine.execVnot d a m t s
  | .vcmp d c a b m t k => Sys2Proof.Machine.execVcmp d c a b m t k s
  | .vsel d a b m t => Sys2Proof.Machine.execVsel d a b m t s
  | .vcvt d a f t r s1 c => Sys2Proof.Machine.execVcvt d a f t r s1 c s
  | .vrcp d a m t => Sys2Proof.Machine.execVrcp d a m t s
  | .vrsq d a m t => Sys2Proof.Machine.execVrsq d a m t s
  | .vexp2 d a m t => Sys2Proof.Machine.execVexp2 d a m t s
  | .vlog2 d a m t => Sys2Proof.Machine.execVlog2 d a m t s
  | .vsinp d a m t => Sys2Proof.Machine.execVsinp d a m t s
  | .vcosp d a m t => Sys2Proof.Machine.execVcosp d a m t s
  | .vtanh d a m t => Sys2Proof.Machine.execVtanh d a m t s
  | .vsqrt d a m t => Sys2Proof.Machine.execVsqrt d a m t s
  | .vsum d a m t => Sys2Proof.Machine.execVsum d a m t s
  | .vrmax d a m t => Sys2Proof.Machine.execVrmax d a m t s
  | .vrmin d a m t => Sys2Proof.Machine.execVrmin d a m t s
  | .vramax d a m t => Sys2Proof.Machine.execVramax d a m t s
  | .vrot d a m r k => Sys2Proof.Machine.execVrot d a m r k s
  | .vshuf d a m x => Sys2Proof.Machine.execVshuf d a m x s
  | .vtapw v l => Sys2Proof.Machine.execVtapw v l s
  | .vtapr v l => Sys2Proof.Machine.execVtapr v l s
  | .vins v c e a => Sys2Proof.Machine.execVins v c e a s
  | .vinsB c b => Sys2Proof.Machine.execVinsB c b s
  | .vext v c e => Sys2Proof.Machine.execVext v c e s
  | .vacr v c r => Sys2Proof.Machine.execVacr v c r s
  | .vacw v c r => Sys2Proof.Machine.execVacw v c r s
  | .cbld d a k n => Sys2Proof.Machine.execCbld d a k n s
  | .cbswap k => Sys2Proof.Machine.execCbswap k s
  | .vcbx d a k w g => Sys2Proof.Machine.execVcbx d a k w g s
  | .vmode w b c f r => Sys2Proof.Machine.execVmode w b c f r s
  | .vview d x => Sys2Proof.Machine.execVview d x s
  | .vbamax d a m => Sys2Proof.Machine.execVbamax d a m s
  | .vbscMx a => Sys2Proof.Machine.execVbscMx a s
  | .vbscSb8 a => Sys2Proof.Machine.execVbscSb8 a s
  | .vbscSb4 a => Sys2Proof.Machine.execVbscSb4 a s
  | .mand d a b => Sys2Proof.Machine.execMand d a b s
  | .mor d a b => Sys2Proof.Machine.execMor d a b s
  | .mxor d a b => Sys2Proof.Machine.execMxor d a b s
  | .mnot d a => Sys2Proof.Machine.execMnot d a s
  | .mpopc a => Sys2Proof.Machine.execMpopc a s
  | .ld q a s1 c i1 x => Sys2Proof.Machine.execLd q a s1 c i1 x s
  | .ldw q a k s1 c i1 x => Sys2Proof.Machine.execLdw q a k s1 c i1 x s
  | .ldg q a k s1 c j x => Sys2Proof.Machine.execLdg q a k s1 c j x s
  | .sset q a d => Sys2Proof.Machine.execSset q a d s
  | .sclr q => Sys2Proof.Machine.execSclr q s
  | .markL i1 => Sys2Proof.Machine.execMarkL i1 s
  | .atr q a k s1 w i1 => Sys2Proof.Machine.execAtr q a k s1 w i1 s
  | .fenceL s1 => Sys2Proof.Machine.execFenceL s1 s
  | .acq q a k i1 => Sys2Proof.Machine.execAcq q a k i1 s
  | .pref a i1 => Sys2Proof.Machine.execPref a i1 s
  | .laAdd d a b => Sys2Proof.Machine.execLaAdd d a b s
  | .laAddi d a i1 x => Sys2Proof.Machine.execLaAddi d a i1 x s
  | .laShli d a n => Sys2Proof.Machine.execLaShli d a n s
  | .laLi d i1 x => Sys2Proof.Machine.execLaLi d i1 x s
  | .laTake d c => Sys2Proof.Machine.execLaTake d c s
  | .laIx d n => Sys2Proof.Machine.execLaIx d n s
  | .barw a s1 i1 => Sys2Proof.Machine.execBarw a s1 i1 s
  | .st o w s1 i1 => Sys2Proof.Machine.execSt o w s1 i1 s
  | .stw o w k s1 i1 => Sys2Proof.Machine.execStw o w k s1 i1 s
  | .stx o w k s1 j => Sys2Proof.Machine.execStx o w k s1 j s
  | .atn o w k s1 w_part2 i1 => Sys2Proof.Machine.execAtn o w k s1 w_part2 i1 s
  | .markS i1 => Sys2Proof.Machine.execMarkS i1 s
  | .fenceS s1 => Sys2Proof.Machine.execFenceS s1 s
  | .rel o w k i1 => Sys2Proof.Machine.execRel o w k i1 s
  | .aflush => Sys2Proof.Machine.execAflush s
  | .saAdd d a b => Sys2Proof.Machine.execSaAdd d a b s
  | .saAddi d a i1 x => Sys2Proof.Machine.execSaAddi d a i1 x s
  | .saShli d a n => Sys2Proof.Machine.execSaShli d a n s
  | .saLi d i1 x => Sys2Proof.Machine.execSaLi d i1 x s
  | .saTake d c => Sys2Proof.Machine.execSaTake d c s
  | .saIx d n => Sys2Proof.Machine.execSaIx d n s
  | .barm f w s1 i1 => Sys2Proof.Machine.execBarm f w s1 i1 s
  | .barr f w s1 i1 => Sys2Proof.Machine.execBarr f w s1 i1 s
  | .mpar r i1 x => Sys2Proof.Machine.execMpar r i1 x s
  | .mparq r => Sys2Proof.Machine.execMparq r s
  | .mma w r c l a b f g => Sys2Proof.Machine.execMma w r c l a b f g s
  | .mmas w r c l a f g => Sys2Proof.Machine.execMmas w r c l a f g s
  | .mzero w r c => Sys2Proof.Machine.execMzero w r c s
  | .mout w r c f => Sys2Proof.Machine.execMout w r c f s
  | .tpar r i1 x => Sys2Proof.Machine.execTpar r i1 x s
  | .fft w r d q e t => Sys2Proof.Machine.execFft w r d q e t s
  | .leg w r d t => Sys2Proof.Machine.execLeg w r d t s
  | .xpar r i1 x => Sys2Proof.Machine.execXpar r i1 x s
  | .send w r dx => Sys2Proof.Machine.execSend w r dx s
  | .swg w r dx => Sys2Proof.Machine.execSwg w r dx s
  | .rtree w r dx => Sys2Proof.Machine.execRtree w r dx s
  | .ypar r i1 x => Sys2Proof.Machine.execYpar r i1 x s
  | .recv w r y => Sys2Proof.Machine.execRecv w r y s
  | .yclr w r n => Sys2Proof.Machine.execYclr w r n s
  | .loop l s1 n c => Sys2Proof.Machine.execLoop l s1 n c s
  | .nopl => Sys2Proof.Machine.execNopl s
  | .fetchLine t => Sys2Proof.Machine.execFetchLine t s
  | .branchResolve t => Sys2Proof.Machine.execBranchResolve t s
  | .fetchEndHalt t k => Sys2Proof.Machine.execFetchEndHalt t k s
  | .resultLanding t k => Sys2Proof.Machine.execResultLanding t k s
  | .trapEntry t => Sys2Proof.Machine.execTrapEntry t s
  | .freplyRead t => Sys2Proof.Machine.execFreplyRead t s
  | .wdataAccess t wr v => Sys2Proof.Machine.execWdataAccess t wr v s
  | .launchend t v => Sys2Proof.Machine.execLaunchend t v s
  | .pendingSigPerform t k => Sys2Proof.Machine.execPendingSigPerform t k s
  | .eventPerform => Sys2Proof.Machine.execEventPerform s
  | .qpostTimeout t => Sys2Proof.Machine.execQpostTimeout t s
  | .loadDeliver t => Sys2Proof.Machine.execLoadDeliver t s
  | .storePerform t i1 => Sys2Proof.Machine.execStorePerform t i1 s
  | .tlbWalk t k => Sys2Proof.Machine.execTlbWalk t k s
  | .streamElement t n => Sys2Proof.Machine.execStreamElement t n s
  | .anvilPrescan t => Sys2Proof.Machine.execAnvilPrescan t s
  | .anvilStep t => Sys2Proof.Machine.execAnvilStep t s
  | .commandRaise t k => Sys2Proof.Machine.execCommandRaise t k s
  | .transformStep t => Sys2Proof.Machine.execTransformStep t s
  | .followOnStart t => Sys2Proof.Machine.execFollowOnStart t s
  | .podModeChange t => Sys2Proof.Machine.execPodModeChange t s
  | .islandRatioChange i1 => Sys2Proof.Machine.execIslandRatioChange i1 s
  | .watchdogExpiry t => Sys2Proof.Machine.execWatchdogExpiry t s
  | .traceSample t k => Sys2Proof.Machine.execTraceSample t k s
  | .tileResetComplete t => Sys2Proof.Machine.execTileResetComplete t s
  | .bindRecord slot rec => Sys2Proof.Machine.execBindRecord slot rec s
  | .groupStart slot => Sys2Proof.Machine.execGroupStart slot s
  | .tileDrainComplete t => Sys2Proof.Machine.execTileDrainComplete t s
  | .launchComplete l => Sys2Proof.Machine.execLaunchComplete l s
  | .preemption l => Sys2Proof.Machine.execPreemption l s
  | .saveComplete t => Sys2Proof.Machine.execSaveComplete t s
  | .placeLaunch l slot x0 y0 orient diemap pmode => Sys2Proof.Machine.execPlaceLaunch l slot x0 y0 orient diemap pmode s
  | .priorityAging l => Sys2Proof.Machine.execPriorityAging l s
  | .faultRecordWrite c => Sys2Proof.Machine.execFaultRecordWrite c s
  | .faultRecordDrop c => Sys2Proof.Machine.execFaultRecordDrop c s
  | .ctxCreate c => Sys2Proof.Machine.execCtxCreate c s
  | .ctxKill c => Sys2Proof.Machine.execCtxKill c s
  | .ctxAck c => Sys2Proof.Machine.execCtxAck c s
  | .ctxDestroy c => Sys2Proof.Machine.execCtxDestroy c s
  | .functionLevelReset c => Sys2Proof.Machine.execFunctionLevelReset c s
  | .killingComplete c => Sys2Proof.Machine.execKillingComplete c s
  | .attnRequest c => Sys2Proof.Machine.execAttnRequest c s
  | .reply c v => Sys2Proof.Machine.execReply c v s
  | .notify f q => Sys2Proof.Machine.execNotify f q s
  | .claim f q => Sys2Proof.Machine.execClaim f q s
  | .queueCreate q qcb => Sys2Proof.Machine.execQueueCreate q qcb s
  | .queuePause q => Sys2Proof.Machine.execQueuePause q s
  | .queueResume q => Sys2Proof.Machine.execQueueResume q s
  | .queueDrain q => Sys2Proof.Machine.execQueueDrain q s
  | .queueReset q => Sys2Proof.Machine.execQueueReset q s
  | .drainComplete q => Sys2Proof.Machine.execDrainComplete q s
  | .hearthPoll q => Sys2Proof.Machine.execHearthPoll q s
  | .dispatch q pkt => Sys2Proof.Machine.execDispatch q pkt s
  | .copy q pkt => Sys2Proof.Machine.execCopy q pkt s
  | .layout q pkt => Sys2Proof.Machine.execLayout q pkt s
  | .qfence q pkt => Sys2Proof.Machine.execQfence q pkt s
  | .qfenceJoinComplete q => Sys2Proof.Machine.execQfenceJoinComplete q s
  | .signalPacket q pkt => Sys2Proof.Machine.execSignalPacket q pkt s
  | .graph q pkt => Sys2Proof.Machine.execGraph q pkt s
  | .slotReserve q => Sys2Proof.Machine.execSlotReserve q s
  | .copyComplete q => Sys2Proof.Machine.execCopyComplete q s
  | .copyFault q cause => Sys2Proof.Machine.execCopyFault q cause s
  | .barrierPost h pa n b => Sys2Proof.Machine.execBarrierPost h pa n b s
  | .barwPoll t => Sys2Proof.Machine.execBarwPoll t s
  | .graphLaunchRecord c => Sys2Proof.Machine.execGraphLaunchRecord c s
  | .snapop c => Sys2Proof.Machine.execSnapop c s
  | .jumpif c => Sys2Proof.Machine.execJumpif c s
  | .graphSignalRecord c => Sys2Proof.Machine.execGraphSignalRecord c s
  | .graphEndRecord c => Sys2Proof.Machine.execGraphEndRecord c s
  | .flitDepart t => Sys2Proof.Machine.execFlitDepart t s
  | .flitLanding i1 => Sys2Proof.Machine.execFlitLanding i1 s
  | .treeNodeCombine tree d => Sys2Proof.Machine.execTreeNodeCombine tree d s
  | .portEnable n => Sys2Proof.Machine.execPortEnable n s
  | .portDisable n => Sys2Proof.Machine.execPortDisable n s
  | .bringupLock n ok => Sys2Proof.Machine.execBringupLock n ok s
  | .bringupAlign n skew flight => Sys2Proof.Machine.execBringupAlign n skew flight s
  | .bringupTrain n => Sys2Proof.Machine.execBringupTrain n s
  | .bringupVerify n corr uncorr => Sys2Proof.Machine.execBringupVerify n corr uncorr s
  | .bringupHandshake n same encl => Sys2Proof.Machine.execBringupHandshake n same encl s
  | .rowSend n => Sys2Proof.Machine.execRowSend n s
  | .rowReceive n beats => Sys2Proof.Machine.execRowReceive n beats s
  | .repairPacketReceive n pkt => Sys2Proof.Machine.execRepairPacketReceive n pkt s
  | .repairTimeout n => Sys2Proof.Machine.execRepairTimeout n s
  | .ringNearWrap n out lane => Sys2Proof.Machine.execRingNearWrap n out lane s
  | .ringEndOfRange n out lane => Sys2Proof.Machine.execRingEndOfRange n out lane s
  | .laneRetrainComplete n out ok => Sys2Proof.Machine.execLaneRetrainComplete n out ok s
  | .laneRetrainRetry n out => Sys2Proof.Machine.execLaneRetrainRetry n out s
  | .swcmd e v => Sys2Proof.Machine.execSwcmd e v s
  | .switchCellWriteDone e => Sys2Proof.Machine.execSwitchCellWriteDone e s
  | .requestAccept r => Sys2Proof.Machine.execRequestAccept r s
  | .requestDepart r => Sys2Proof.Machine.execRequestDepart r s
  | .targetService r => Sys2Proof.Machine.execTargetService r s
  | .replyArrive r kind stat aux data => Sys2Proof.Machine.execReplyArrive r kind stat aux data s
  | .remoteTimeout r => Sys2Proof.Machine.execRemoteTimeout r s
  | .waitLimitTimeout r => Sys2Proof.Machine.execWaitLimitTimeout r s
  | .heldRequestTimeout r => Sys2Proof.Machine.execHeldRequestTimeout r s
  | .aggElementEnter d => Sys2Proof.Machine.execAggElementEnter d s
  | .aggAgeExpiry d b => Sys2Proof.Machine.execAggAgeExpiry d b s
  | .aggPacketAccept d b => Sys2Proof.Machine.execAggPacketAccept d b s
  | .aggStatusArrive d b failed causes => Sys2Proof.Machine.execAggStatusArrive d b failed causes s
  | .aggctlWrite d v => Sys2Proof.Machine.execAggctlWrite d v s
  | .ueWorkDescriptor c r => Sys2Proof.Machine.execUeWorkDescriptor c r s
  | .ueRmaPacket c wr rkey off data => Sys2Proof.Machine.execUeRmaPacket c wr rkey off data s
  | .entropyStatsUpdate c eset ent sent ecn rtt => Sys2Proof.Machine.execEntropyStatsUpdate c eset ent sent ecn rtt s
  | .setroot c => Sys2Proof.Machine.execSetroot c s
  | .shootdown c => Sys2Proof.Machine.execShootdown c s
  | .frameset c => Sys2Proof.Machine.execFrameset c s
  | .dirtysync c => Sys2Proof.Machine.execDirtysync c s
  | .migcfg c => Sys2Proof.Machine.execMigcfg c s
  | .migrationTrigger c va d => Sys2Proof.Machine.execMigrationTrigger c va d s
  | .migrationMoveComplete c va => Sys2Proof.Machine.execMigrationMoveComplete c va s
  | .freezeExpiry c va => Sys2Proof.Machine.execFreezeExpiry c va s
  | .srangeWrite c n hiWord v => Sys2Proof.Machine.execSrangeWrite c n hiWord v s
  | .spoolWrite c v => Sys2Proof.Machine.execSpoolWrite c v s
  | .snapshotOperationPerform c => Sys2Proof.Machine.execSnapshotOperationPerform c s
  | .snapshotLineWrite h pa c data => Sys2Proof.Machine.execSnapshotLineWrite h pa c data s
  | .rejectCompletion c => Sys2Proof.Machine.execRejectCompletion c s
  | .invalidateAckTimeout c => Sys2Proof.Machine.execInvalidateAckTimeout c s
  | .restoreLine h line => Sys2Proof.Machine.execRestoreLine h line s
  | .hostWrite f addr data => Sys2Proof.Machine.execHostWrite f addr data s
  | .modulePowerOn fails => Sys2Proof.Machine.execModulePowerOn fails s
  | .islandPowerUp i1 => Sys2Proof.Machine.execIslandPowerUp i1 s
  | .islandPowerDown i1 => Sys2Proof.Machine.execIslandPowerDown i1 s
  | .limitLoop watts hot => Sys2Proof.Machine.execLimitLoop watts hot s
  | .nreqWrite i1 n => Sys2Proof.Machine.execNreqWrite i1 n s
  | .vsetWrite i1 v => Sys2Proof.Machine.execVsetWrite i1 v s
  | .update => Sys2Proof.Machine.execUpdate s
  | .attest => Sys2Proof.Machine.execAttest s
  | .logread => Sys2Proof.Machine.execLogread s
  | .registerWrite f off v => Sys2Proof.Machine.execRegisterWrite f off v s
  | .clockLaneLost n out => Sys2Proof.Machine.execClockLaneLost n out s
  | .modulePowerOff => Sys2Proof.Machine.execModulePowerOff s
  | .shadowEntryFree c => Sys2Proof.Machine.execShadowEntryFree c s
  | .ueResponsePacket m kind cause data => Sys2Proof.Machine.execUeResponsePacket m kind cause data s
  | .pageCommandComplete => Sys2Proof.Machine.execPageCommandComplete s

end Sys2Proof.Machine
end

