-- ==== Sys2Proof/Machine/HostRead.lean ====
section
/-!
DEFINITION. What a host read returns: of a register in BAR0 of a function (00_scope.md R10, R11), and of device memory through BAR2
(10_order.md R254).  A read of CLAIM adds to the queue's WRITE and is the step CLAIM; every other read leaves the state as it is.  A write-only
field, a reserved one and an offset that is not listed read zero, and so does a register that the function does not reach.
-/
namespace Sys2Proof.Machine
open Sys2Proof

/-! ## Queue pages (12_queue.md R282, 19_remote.md R428) -/

/-- The read index of a queue, from its control block; zero while it is DEAD or its control block cannot be read (DESIGN CHOICE,
log entry 89). -/
def State.readIndex (s : State) (x : Queue) : W64 :=
  if x.phase == .dead then 0
  else match s.hRead x.ctx (x.qcb + 8) 8 with
    | .ok _ v => w64 v
    | _ => 0

/-- A read of a queue page. -/
def State.readQueuePage (s : State) (f : HostFn) (q : BitVec 10) (off : Nat) : W64 :=
  let x := s.queue q
  if !x.reachable f then 0
  else match off, f with
    | 0x010, _ => s.readIndex x
    | 0x018, _ => w64 x.status
    | 0x028, .physical => zext64 x.ctxsel
    | _, _ => 0

/-- A read of a work ring's page. -/
def State.readRingPage (s : State) (c : BitVec 6) (r : BitVec 2) (off : Nat) : W64 :=
  match off with
  | 0x010 => s.readIndex (s.workRing c r)
  | 0x018 => w64 (s.workRing c r).status
  | _ => 0

/-! ## Registers of a virtual function (R276, R372, R424) -/

/-- A read of function n's registers of its context. -/
def State.readFunctionReg (s : State) (c : BitVec 6) (off : Nat) : W64 :=
  let x := s.ctx c
  let g := s.remote.rfl[c.toNat]
  match off with
  | 0x400010 => if s.attnPending c then 2 else 0
  | 0x400018 => x.fqrp
  | 0x400020 => x.fqwp
  | 0x400028 => x.fqlost
  | 0x402100 => zext64 (s.snap c).budget
  | 0x405000 => g.base
  | 0x405008 => w64 (packFields [(5, g.log2n.toNat), (27, 0), (32, g.lost.toNat)])
  | 0x405010 => g.wp
  | 0x405018 => g.rp
  | _ =>
    if 0x402000 ≤ off ∧ off < 0x402100 ∧ off % 8 = 0 then
      ((s.snap c).range (BitVec.ofNat 4 ((off - 0x402000) / 16)).toFin).read (decide ((off - 0x402000) / 8 % 2 = 1))
    else 0

/-! ## Registers of the physical function (R276, R363, R408, R424, R431) -/

/-- STATE of CTXSTAT (Table 11-10). -/
def ctxCode : CtxPhase → Nat
  | .free => 0 | .live => 1 | .killing => 2 | .halted => 3

/-- A read of the page command registers or the context registers. -/
def State.readDriverReg (s : State) (off : Nat) : W64 :=
  let p := s.page
  let r := s.ctxRegs
  match off with
  | 0x401000 => p.arg0
  | 0x401008 => p.arg1
  | 0x401018 => w64 (packFields [(1, p.run.isSome.toNat), (7, 0), (8, p.err.toNat), (16, 0), (32, p.done.toNat)])
  | 0x401800 => r.arg0
  | 0x401808 => r.arg1
  | 0x401810 => r.arg2
  | 0x401820 =>
    w64 (packFields [(1, r.busy.toNat), (7, 0), (8, r.err.toNat), (2, ctxCode (s.ctx r.last).phase), (14, 0), (32, r.done.toNat)])
  | _ => if 0x401040 ≤ off ∧ off < 0x401080 ∧ off % 8 = 0 then p.data[(off - 0x401040) / 8 % 8]'(Nat.mod_lt _ (by decide)) else 0

/-- STATE of LSTAT (Table 18-8). -/
def portCode : PortPhase → Nat
  | .dark => 0 | .locking => 1 | .aligning => 2 | .trained => 3 | .active => 4 | .degraded => 5 | .retraining => 6 | .failed => 7

/-- A read of the registers of a port (Tables 18-8 and 19-6). -/
def Port.read (p : Port) (off : Nat) : W64 :=
  match off with
  | 0x00 => w64 (packFields [(3, portCode p.phase), (3, p.outd.onSpare.toNat), (3, p.ind.onSpare.toNat), (3, p.lastFail.toNat),
      (1, p.skipFast.toNat), (3, 0), (8, p.ind.near.toNat), (8, p.outd.near.toNat), (8, p.flight.toNat)])
  | 0x08 => w64 (packFields [(24, p.outd.map.toNat), (24, p.ind.map.toNat)])
  | 0x10 => w64 (packFields [(1, p.enable.toNat), (1, p.full.toNat)])
  | 0x18 => w64 (packFields [(32, p.corr.toNat), (32, p.uncorr.toNat)])
  | 0x20 => w64 (packFields [(32, p.repaired.toNat), (16, p.late.toNat), (16, p.wraps.toNat)])
  | 0x28 => p.laneErr
  | 0x30 => w64 (packFields [(4, p.gmac.toNat), (8, p.encl.toNat), (1, p.same.toNat), (1, p.keyIdx.toNat)])
  | 0x38 => p.icnt
  | _ => 0

/-- A read of the registers of a switch matrix (Table 18-9). -/
def Switch.read (x : Switch) (off : Nat) : W64 :=
  match off with
  | 0x08 => w64 (packFields [(1, x.busy.isSome.toNat), (7, 0), (8, x.err.toNat), (2, x.spares)])
  | 0x10 => w64 (packList 4 (x.row.toList.map fun c => match c with | some c => 8 + c.toNat | none => 0))
  | 0x18 => w64 (packList 4 (x.phys.toList.map fun r => r.toNat))
  | _ => 0

/-- ISLi as it reads (Table 25-1): NCUR and NREQ are zero for the islands without TC. -/
def State.readIsland (s : State) (i : Fin 16) : W64 :=
  let x := s.island i
  w64 (packFields [(8, x.vset), (8, if i.val < 12 then x.nreq else 0), (8, if tileIsland i.val then x.ncur else 0)])

/-- A read of the physical function's registers from 0x40_3000 on. -/
def State.readDeviceReg (s : State) (off : Nat) : W64 :=
  if off < 0x403400 then (s.port (BitVec.ofNat 4 (off / 0x40))).read (off % 0x40)
  else if off < 0x403500 then (s.switches[(BitVec.ofNat 2 (off / 0x40)).toNat]).read (off % 0x40)
  else if 0x404000 ≤ off ∧ off < 0x404100 then
    let b := s.bellows (BitVec.ofNat 2 (off / 0x40)).toFin
    if off % 0x40 = 0 then w64 b.age
    else if off % 0x40 = 8 then w64 (packFields [(32, b.evictions.toNat), (32, b.packets.toNat)])
    else 0
  else if 0x407000 ≤ off ∧ off < 0x407800 ∧ off % 8 = 0 then s.manage.sensors[(off - 0x407000) / 8 % 256]'(Nat.mod_lt _ (by decide))
  else if 0x407800 ≤ off ∧ off < 0x407880 ∧ off % 8 = 0 then s.readIsland (BitVec.ofNat 4 (off / 8)).toFin
  else if off = 0x408008 then s.manage.arg0
  else if off = 0x408010 then zext64 s.manage.arg1
  else if off = 0x408018 then w64 (packFields [(8, s.manage.err.toNat), (1, s.manage.cmd.isSome.toNat)])
  else 0

/-! ## Host reads -/

/-- What a 64-bit host read of BAR0 of a function returns. -/
def State.hostRead (s : State) (f : HostFn) (off : BitVec 24) : W64 :=
  let o := off.toNat
  if o < 0x400000 then s.readQueuePage f (BitVec.ofNat 10 (o / 0x1000)) (o % 0x1000)
  else match f with
    | .virtual c =>
      if 0x40A000 ≤ o ∧ o < 0x40E000 then s.readRingPage c (BitVec.ofNat 2 ((o - 0x40A000) / 0x1000)) (o % 0x1000) else s.readFunctionReg c o
    | .physical => if o < 0x403000 then s.readDriverReg o else s.readDeviceReg o

/-- What a host read of `n` bytes of one 128-byte line of device memory returns: the value at the point of coherence (R254); none while it is
held, or where the address names no memory that the function reads. -/
def State.hostLoad (s : State) (f : HostFn) (addr : W64) (n : Nat) : Option (List Byte) :=
  let c : BitVec 6 := match f with | .virtual c => c | .physical => 0
  let place : Option Phys := match f with
    | .virtual c => (match s.translate c addr .read false with | .ok p => some p | .error _ => none)
    | .physical => s.hostPhys f addr
  match place with
  | none => none
  | some p => match s.canReach hubDie p n addr with
    | .ok _ _ => (match s.homeOp c p.pkg p.die p.pa.toNat (.read n) with
      | .ok r => some (toBytes n r.2)
      | _ => none)
    | _ => none

end Sys2Proof.Machine
end

