-- ==== Sys2Proof/Machine/Events.lean ====
section
/-!
DEFINITION. The steps that the agents beside the strands take of themselves: which of them are enabled, in the order they are taken in one
fabric cycle (DESIGN CHOICE, log entry 3).  A step that is named here and turns out not to be enabled leaves the state unchanged, as its
meaning says.
-/
namespace Sys2Proof.Machine
open Sys2Proof

/-- The members of a list with an index that satisfy `f`, as indices. -/
def indicesOf (f : α → Bool) (l : List α) : List Nat := (l.zipIdx.filter fun x => f x.1).map fun x => x.2

/-! ## Tiles -/

/-- The tile has a turn in a fabric cycle: its strands or a send command run. -/
def Tile.live (t : Tile) : Bool := t.phase == .running || t.phase == .trapped || t.tx.cmd.isSome

/-- What the agents of one tile can do. -/
def State.tileWork (s : State) (t : TileNo) : List Work :=
  let x := s.tile t
  match x.phase with
  | .off => if (s.manage.islands[islandOf t]).powered then [.tileResetComplete t] else []
  | .saving => [.saveComplete t]
  | .idle | .bound => []
  | .running | .trapped =>
    (if x.ld.pending.isEmpty then [] else [.loadDeliver t])
      ++ (x.st.pending.map fun l => .storePerform t l.seq)
      ++ (if x.ld.walk.isSome then [.tlbWalk t .load] else [])
      ++ (if x.st.walk.isSome then [.tlbWalk t .store] else [])
      ++ (if x.preempt then [] else
          ((List.finRange 8).filter fun n => (x.ld.stream[n]).phase == .active).map fun n => .streamElement t (BitVec.ofNat 3 n.val))
      ++ (match x.ld.hold with | some (.barw _ _ _) => [.barwPoll t] | _ => [])
      ++ (match x.waitOf with | some (.qpost _ _ _ _ _) => [.qpostTimeout t] | _ => [])
      ++ (if s.watchdogTcs t ≤ x.quiet then [.watchdogExpiry t] else [])
      ++ (if x.draining then [.tileDrainComplete t] else [])

def State.tilesWork (s : State) : List Work :=
  ((List.finRange 640).flatMap s.tileWork)
    ++ ((List.finRange 320).filter fun p => (s.pods[p]).want.isSome).filterMap fun p => (tileOf? (2 * p.val)).map fun t => .podModeChange t

/-! ## Launches and graphs -/

/-- The firmware's choice of a placement for the launch that is next: a free value. -/
def State.placementWork (s : State) : List Work :=
  match s.nextPlaced with
  | none => []
  | some l =>
    let v := Config.placement s.drawn
    [.placeLaunch l.id (v.extractLsb' 0 8) (v.extractLsb' 8 4) (v.extractLsb' 12 4) (v.extractLsb' 16 3) (v.extractLsb' 19 8) (v.getLsbD 27)]

def State.launchWork (s : State) : List Work :=
  s.launches.flatMap fun l => match l.phase with
    | .pending | .saved => [.priorityAging l.id]
    | .binding => (match l.slot with | some n => [.groupStart n] | none => [])
    | .running => (match l.from_ with | .packet => [.launchComplete l.id] | .record _ _ _ => []) ++ (if l.preempting || s.mayPreempt l then [.preemption l.id] else [])
    | .done | .failed => []

/-- The step that ends or performs the first snapshot operation of a context. -/
def SnapOp.work (op : SnapOp) (fcc : W64) : List Work :=
  match op.rejecting with
  | none => [.snapshotOperationPerform op.ctx]
  | some f => if !f.ult fcc then [] else if op.unacked.isEmpty then [.rejectCompletion op.ctx] else [.invalidateAckTimeout op.ctx]

/-- Steps by the order of the records that they end, the lowest first. -/
def insertByOrder (x : Nat × Work) : List (Nat × Work) → List (Nat × Work)
  | [] => [x]
  | y :: rest => if x.1 < y.1 then x :: y :: rest else y :: insertByOrder x rest

/-- The steps that apply the SET masks of LAUNCH and SNAPOP records, in the order in which their records were issued (R315). -/
def State.setsWork (s : State) : List Work :=
  let launches := s.launches.filterMap fun l => match l.phase, l.from_ with
    | .running, .record _ order _ => some (order, Work.launchComplete l.id)
    | _, _ => none
  let ops := ((List.range 64).map (BitVec.ofNat 6)).flatMap fun c => match s.firstOp c with
    | some op => (match op.who with
      | .graph _ order => (op.work s.fcc).map fun w => (order, w)
      | _ => [])
    | none => []
  ((launches ++ ops).foldl (fun l x => insertByOrder x l) []).map fun x => x.2

/-- A graph's sequencer looks at its record. -/
def State.graphWork (s : State) : List Work :=
  ((List.range 64).map (BitVec.ofNat 6)).flatMap fun c =>
    if (s.graphs[c.toNat]).isSome then [.graphLaunchRecord c, .snapop c, .jumpif c, .graphSignalRecord c, .graphEndRecord c] else []

/-! ## Queues -/

def State.queueWork (s : State) (q : BitVec 10) : List Work :=
  let x := s.queue q
  match x.phase, x.prog with
  | .dead, _ => []
  | _, none => (if x.phase == .draining then [.drainComplete q] else []) ++ (if x.phase == .paused then [] else [.hearthPoll q])
  | _, some (.taken pkt) => (packetStep q pkt).toList
  | _, some (.graph pkt false) => [.graph q pkt]
  | _, some (.qfence _) => [.qfenceJoinComplete q]
  | _, some (.copy c) =>
    if c.needsSlot then [.slotReserve q]
    else match s.copyCause q with
      | some e => [.copyFault q (BitVec.ofNat 8 e)]
      | none => [.copyComplete q]
  | _, some _ => []

/-- The fault of a copy that cannot reserve its slots. -/
def State.slotFault (s : State) (q : BitVec 10) : List Work :=
  match s.copyOf? q with
  | some c => if c.needsSlot then (s.copyCause q).toList.map fun e => .copyFault q (BitVec.ofNat 8 e) else []
  | none => []

def State.queuesWork (s : State) : List Work :=
  ((List.range 1024).map (BitVec.ofNat 10)).flatMap fun q => s.queueWork q ++ s.slotFault q

/-! ## Contexts, snapshots and pages -/

def State.ctxWork (s : State) (c : BitVec 6) : List Work :=
  (if (s.ctx c).records.isEmpty then [] else [.faultRecordWrite c, .faultRecordDrop c])
    ++ (match s.firstOp c with
        | none => []
        | some op => match op.who with
          | .graph _ _ => []
          | _ => op.work s.fcc)
    ++ (if s.store.shadows.any fun e => e.ctx == c && e.phase == ShadowPhase.freeing then [.shadowEntryFree c] else [])
    ++ ((List.range 4).map (BitVec.ofNat 2)).filterMap fun r =>
        let x := s.workRing c r
        if x.phase == .active || x.phase == .draining then some (.ueWorkDescriptor c r) else none

def State.ctxsWork (s : State) : List Work := ((List.range 64).map (BitVec.ofNat 6)).flatMap s.ctxWork

def MigPage.work (m : MigPage) (s : State) : List Work :=
  match m.phase with
  | .stable => ((List.finRange 4).filter fun d => decide (2 ^ (s.ctx m.ctx).migK ≤ m.counts[d])).map fun d =>
      .migrationTrigger m.ctx m.va (BitVec.ofNat 2 d.val)
  | .moving _ _ _ => [.migrationMoveComplete m.ctx m.va]
  | .frozen u _ _ _ => if u.ule s.fcc then [.freezeExpiry m.ctx m.va] else []

def State.storeWork (s : State) : List Work :=
  (if s.page.run.isSome then [.pageCommandComplete] else [])
    ++ (s.store.migs.flatMap fun m => m.work s)
    ++ (match s.store.shadows.find? fun e => e.phase == ShadowPhase.awaiting with
        | some e => [.restoreLine (BitVec.ofNat 3 e.home) (BitVec.ofNat 52 e.line)]
        | none => [])

/-! ## Fabric and remote requests -/

def State.fabricWork (s : State) : List Work :=
  ((s.fabric.flits.filter fun f => f.land.ule s.fcc).map fun f => .flitLanding f.key)
    ++ (s.fabric.rounds.map fun r => .treeNodeCombine r.tree (BitVec.ofNat 3 r.node))

def Request.work (q : Request) : List Work :=
  match q.phase with
  | .held => [.requestAccept q.id, .heldRequestTimeout q.id]
  | .queued => [.requestDepart q.id]
  | .sent | .waiting =>
    (if q.reply.isSome then [.replyArrive q.id 0 0 0 0] else [.targetService q.id]) ++ [.remoteTimeout q.id, .waitLimitTimeout q.id]

def State.bellowsWork (s : State) (d : BitVec 2) : List Work :=
  let b := s.remote.bellows[d.toNat]
  (if b.waiting.isEmpty && b.arriving.isEmpty && b.flush.isEmpty then [] else [.aggElementEnter d])
    ++ ((List.range 64).map (BitVec.ofNat 6)).flatMap fun (n : BitVec 6) => match (b.bufs[n.toNat]).phase with
      | .free => []
      | .open_ => [.aggAgeExpiry d n]
      | .leaving => [.aggPacketAccept d n]
      | .sent => (match (s.bufReq d n).bind fun q => q.reply with
        | some r => [.aggStatusArrive d n r.aux (r.data.setWidth 128)]
        | none => [])

def State.remoteWork (s : State) : List Work :=
  (s.remote.reqs.flatMap fun q => q.work) ++ ((List.range 4).map (BitVec.ofNat 2)).flatMap s.bellowsWork

/-! ## Ports and islands -/

def State.portWork (s : State) (n : BitVec 4) : List Work :=
  let p := s.port n
  (if p.phase == .dark && (s.offered n).isEmpty then [] else [.rowSend n])
    ++ (if p.waits.isEmpty then [] else [.repairTimeout n])
    ++ (if p.outd.retrain.isSome then [.laneRetrainRetry n true] else [])
    ++ (if p.ind.retrain.isSome then [.laneRetrainRetry n false] else [])

def State.linkWork (s : State) : List Work :=
  ((List.range 16).map (BitVec.ofNat 4)).flatMap s.portWork
    ++ (((List.range 4).map (BitVec.ofNat 2)).filter fun (e : BitVec 2) => (s.switches[e.toNat]).busy.isSome).map fun e => .switchCellWriteDone e

def State.islandWork (s : State) : List Work :=
  ((List.finRange 16).filter fun i => (s.island i).held.isSome).map fun i => .islandRatioChange (BitVec.ofNat 4 i.val)

/-- The mailbox command that runs. -/
def State.mailboxWork (s : State) : List Work :=
  match s.manage.cmd with
  | some 1 => [.update]
  | some 2 => [.attest]
  | some 3 => [.logread]
  | _ => []

/-- The contexts that are being killed. -/
def State.killWork (s : State) : List Work :=
  (((List.range 64).map (BitVec.ofNat 6)).filter fun c => (s.ctx c).phase == .killing).map fun c => .killingComplete c

/-! ## One fabric cycle -/

/-- The steps of the agents in one fabric cycle.  Stores are performed before the arrivals and copies of the cycle (R33); ratios change once
tiles have been freed and before others are bound (R17); events of tiles, SET masks, SIGNAL packets, and then the records that they make
ready (R315). -/
def State.work (s : State) : List Work :=
  s.killWork ++ (s.events.map fun _ => .eventPerform) ++ s.tilesWork ++ s.fabricWork ++ s.remoteWork ++ s.setsWork ++ s.launchWork ++ s.islandWork
    ++ s.placementWork ++ s.queuesWork ++ s.graphWork ++ s.ctxsWork ++ s.storeWork ++ s.linkWork ++ s.mailboxWork

end Sys2Proof.Machine
end

