-- ==== Sys2Proof/Machine/Step.lean ====
section
/-!
DEFINITION. One step of the machine (DESIGN CHOICE, log entry 3): a step of the agenda where another agent has one to take, else the next
phase of the turn of a tile; and where the next instruction is fetched from.
-/
namespace Sys2Proof.Machine
open Sys2Proof

/-- A step of the agenda: the meaning of its row. -/
def perform (w : Work) (s : State) : Out :=
  match w with
  | .eventPerform => execEventPerform s
  | .loadDeliver t => execLoadDeliver t s
  | .storePerform t i => execStorePerform t i s
  | .tlbWalk t k => execTlbWalk t k s
  | .streamElement t n => execStreamElement t n s
  | .podModeChange t => execPodModeChange t s
  | .islandRatioChange i => execIslandRatioChange i s
  | .watchdogExpiry t => execWatchdogExpiry t s
  | .tileResetComplete t => execTileResetComplete t s
  | .tileDrainComplete t => execTileDrainComplete t s
  | .groupStart slot => execGroupStart slot s
  | .placeLaunch l slot x0 y0 orient diemap pmode => execPlaceLaunch l slot x0 y0 orient diemap pmode s
  | .launchComplete l => execLaunchComplete l s
  | .preemption l => execPreemption l s
  | .saveComplete t => execSaveComplete t s
  | .priorityAging l => execPriorityAging l s
  | .faultRecordWrite c => execFaultRecordWrite c s
  | .faultRecordDrop c => execFaultRecordDrop c s
  | .killingComplete c => execKillingComplete c s
  | .hearthPoll q => execHearthPoll q s
  | .dispatch q pkt => execDispatch q pkt s
  | .copy q pkt => execCopy q pkt s
  | .layout q pkt => execLayout q pkt s
  | .qfence q pkt => execQfence q pkt s
  | .signalPacket q pkt => execSignalPacket q pkt s
  | .graph q pkt => execGraph q pkt s
  | .qfenceJoinComplete q => execQfenceJoinComplete q s
  | .drainComplete q => execDrainComplete q s
  | .slotReserve q => execSlotReserve q s
  | .copyComplete q => execCopyComplete q s
  | .copyFault q cause => execCopyFault q cause s
  | .qpostTimeout t => execQpostTimeout t s
  | .barwPoll t => execBarwPoll t s
  | .graphLaunchRecord c => execGraphLaunchRecord c s
  | .snapop c => execSnapop c s
  | .jumpif c => execJumpif c s
  | .graphSignalRecord c => execGraphSignalRecord c s
  | .graphEndRecord c => execGraphEndRecord c s
  | .flitLanding i => execFlitLanding i s
  | .treeNodeCombine tree d => execTreeNodeCombine tree d s
  | .requestAccept r => execRequestAccept r s
  | .requestDepart r => execRequestDepart r s
  | .targetService r => execTargetService r s
  | .replyArrive r kind stat aux data => execReplyArrive r kind stat aux data s
  | .remoteTimeout r => execRemoteTimeout r s
  | .waitLimitTimeout r => execWaitLimitTimeout r s
  | .heldRequestTimeout r => execHeldRequestTimeout r s
  | .aggElementEnter d => execAggElementEnter d s
  | .aggAgeExpiry d b => execAggAgeExpiry d b s
  | .aggPacketAccept d b => execAggPacketAccept d b s
  | .aggStatusArrive d b failed causes => execAggStatusArrive d b failed causes s
  | .ueWorkDescriptor c r => execUeWorkDescriptor c r s
  | .migrationTrigger c va d => execMigrationTrigger c va d s
  | .migrationMoveComplete c va => execMigrationMoveComplete c va s
  | .freezeExpiry c va => execFreezeExpiry c va s
  | .snapshotOperationPerform c => execSnapshotOperationPerform c s
  | .rejectCompletion c => execRejectCompletion c s
  | .shadowEntryFree c => execShadowEntryFree c s
  | .restoreLine h line => execRestoreLine h line s
  | .invalidateAckTimeout c => execInvalidateAckTimeout c s
  | .pageCommandComplete => execPageCommandComplete s
  | .update => execUpdate s
  | .attest => execAttest s
  | .logread => execLogread s
  | .rowSend n => execRowSend n s
  | .repairTimeout n => execRepairTimeout n s
  | .laneRetrainRetry n out => execLaneRetrainRetry n out s
  | .switchCellWriteDone e => execSwitchCellWriteDone e s


/-! ## Turns -/

/-- Apply a function to the state that an outcome answers. -/
def andThen (o : Out) (f : State → Out) : Out :=
  match o with
  | .next s => f s
  | .fault r => .fault r
  | .refused r => .refused r

/-- The clocks of a fabric cycle (R15, R16): each powered tile gains n of the 25 parts of a TC; the TCs of a tile that has no turn pass. -/
def State.clock (s : State) : State :=
  s.mapTiles fun t x =>
    if x.phase == .off then x
    else
      let credit := (if x.live then x.credit else x.credit % 25) + (s.manage.islands[islandOf t]).ncur
      { x with credit := credit, tcc := if x.live then x.tcc else x.tcc + BitVec.ofNat 64 (x.credit / 25) }

/-- The next fabric cycle begins: FCC counts, what waited to be written is tried again, and the agents take their steps. -/
def State.nextCycle (s : State) : State :=
  let s := ({ s with fcc := s.fcc + 1, turn := { tile := 0, phase := 0 } } : State).clock.resolveSlots.payOwed.payPosted
  { s with agenda := s.agenda ++ s.work, drawn := if s.nextPlaced.isSome then s.drawn + 1 else s.drawn }

/-- The turn passes to the next tile that has one. -/
def State.nextTurn (s : State) : State :=
  match (List.finRange 640).find? fun t => decide (s.turn.tile < t) && (s.tile t).live with
  | some t => { s with turn := { tile := t, phase := 0 } }
  | none => s.nextCycle

def State.setPhase (s : State) (n : Nat) : State := { s with turn := { s.turn with phase := n } }

/-- The phase that follows. -/
def State.advance (s : State) : State := s.setPhase (s.turn.phase + 1)

/-! ## A strand's turn in a TC (R23, R99) -/

/-- An instruction that a semaphore, flag or ring may hold: it is judged after the additions of the TC (R343). -/
def Instr.judged : Instr → Bool
  | .wait _ _ => true
  | .fwait _ _ => true
  | .rawait _ _ => true
  | .mma w _ _ _ _ _ _ _ => w != 63
  | .mmas w _ _ _ _ _ _ => w != 63
  | .mzero w _ _ => w != 63
  | .mout w _ _ _ => w != 63
  | .fft w _ _ _ _ _ => w != 63
  | .leg w _ _ _ => w != 63
  | .send w _ _ => w != 63
  | .swg w _ _ => w != 63
  | .rtree w _ _ => w != 63
  | .recv w _ _ => w != 63
  | .yclr w _ _ => w != 63
  | _ => false

/-- An instruction of strand `k` that reaches memory: it is taken once the claims of the TC stand (R34, R217).  On the load and store strands
that is every instruction but the common operations. -/
def Instr.accesses (k : Strand) (i : Instr) : Bool :=
  match k with
  | .control => (match i with
    | .lsp _ _ _ _ _ _ => true
    | .ssp _ _ _ _ _ => true
    | .qpost _ _ _ _ _ => true
    | _ => false)
  | .load | .store => (match i with
    | .sig _ _ => false
    | .rrel _ _ => false
    | .halt => false
    | _ => !Instr.judged i)
  | _ => false

/-- What a strand does in a TC. -/
inductive Play where
  /-- nothing: it has issued, is stopped or halted, or an earlier instruction holds it -/
  | rest
  /-- an empty queue -/
  | empty
  /-- an empty queue behind the last line -/
  | finish
  /-- the place of an ILLEGAL-EXT without a target, or of an ILLEGAL-LINE -/
  | badExt (pc : W64)
  | badLine (faddr : W64)
  /-- a word that is no instruction, with its cause -/
  | bad (code : Nat)
  | run (i : Instr)
  deriving DecidableEq, Repr

/-- What the entry at the head of a queue is. -/
def QEntry.play (e : QEntry) (k : Strand) : Play :=
  match e.kind with
  | .badExt => .badExt e.pc
  | .badLine a => .badLine a
  | .insn =>
    match decodeWord k e.word e.exts e.misplaced with
    | .ok i => .run i
    | .error .illegalInsn => .bad cIllegalInsn
    | .error .illegalExt => .bad cIllegalExt

/-- An issued instruction still holds the strand. -/
def Tile.heldBefore (t : Tile) : Strand → Bool
  | .control => t.waitOf.isSome
  | .load => t.ld.hold.isSome
  | .store => t.st.hold.isSome || t.st.aggWait.isSome
  | _ => false

/-- What strand `k` of a tile does in this TC. -/
def Tile.play (t : Tile) (k : Strand) : Play :=
  let st := t.str k
  let sup := k == .control && t.isSup
  if st.used || t.preempt || !(t.phase == .running || t.phase == .trapped) then .rest
  else if !sup && st.halted then (if k == .vector && !(t.vec.wave.isEmpty && t.vec.recs.isEmpty) then .empty else .rest)
  else if (!sup && st.stopped) || t.heldBefore k then .rest
  else match t.queueOf k with
    | e :: _ => e.play k
    | [] => if (if sup then t.sfetch.ended else t.fetch.ended) then .finish else .empty

/-- A fault of an entry that leaves the queue as it faults (R76). -/
def State.faultPast (s : State) (k : Strand) (f : Trap) (pc : W64) : State :=
  let x := s.cur.setQueue k (s.cur.queueOf k).tail
  let s' := s.setTile s.here x
  if k == .control then
    if x.isSup then s'.fault s.here .control f else s.setTile s.here (((x.faultAt .control f pc).traceEntry s.fcc).trapEntry .control)
  else s.setTile s.here (x.faultAt k f pc)

/-- An issue in this TC starts the watchdog's period anew while the tile runs in user mode (R268). -/
def State.noteIssue (s : State) (t : TileNo) : State :=
  s.modTile t fun x => if x.phase == .running then { x with quiet := 0 } else x

/-- What an outcome of a strand's instruction leaves: the watchdog's count starts anew where it issued. -/
def issued (t : TileNo) (k : Strand) (o : Out) : Out :=
  andThen o fun s => .next (if ((s.tile t).str k).used then s.noteIssue t else s)

/-- Carry out what a strand does. -/
def playStrand (p : Play) (k : Strand) (s : State) : Out :=
  match p with
  | .rest => .next s
  | .empty => execResultLanding s.here k s
  | .finish => execFetchEndHalt s.here k s
  | .badExt pc => .next (s.faultPast k { code := cIllegalExt } pc)
  | .badLine a => .next (s.fault s.here k { code := cIllegalLine, faddr := a })
  | .bad c => .next (s.fault s.here k { code := c })
  | .run i => issued s.here k (exec i s)

/-- An issued instruction that holds its strand goes on. -/
def State.holdOn (s : State) (k : Strand) : State :=
  match k with
  | .control => (match s.cur.waitOf with
    | some (.qpost _ _ _ _ _) => s.qpostHold s.here
    | _ => s)
  | .load => s.loadHold s.here
  | .store => s.storeHold s.here
  | _ => s

/-- A fault that reached the control strand in an earlier TC, or a pending attention request, is taken at this boundary. -/
def Tile.atBoundary (t : Tile) : Bool :=
  t.phase == .running && !t.preempt && !t.draining && !(t.str .control).used
    && (t.attn || Strand.all.any fun k => match (t.str k).reached with
      | some n => n.ult t.tcc
      | none => false)

/-- Phases 1-8: the strand at this position, unless its instruction is judged or reaches memory. -/
def earlyStrand (s : State) : Out :=
  let k := s.strandHere
  let t := s.cur
  if k == .control && t.atBoundary then execTrapEntry s.here s
  else
    match t.play k with
    | .run i => if Instr.judged i || Instr.accesses k i then .next s else playStrand (.run i) k s
    | .rest => .next s
    | p => playStrand p k s

/-- Phases 10-17: a strand whose instruction is judged. -/
def lateStrand (s : State) : Out :=
  match s.cur.play s.strandHere with
  | .run i => if Instr.judged i then playStrand (.run i) s.strandHere s else .next s
  | _ => .next s

/-- Phases 18-20: a strand whose instruction reaches memory, or goes on doing so. -/
def accessStrand (s : State) : Out :=
  match s.cur.play s.strandHere with
  | .run i => if Instr.accesses s.strandHere i then playStrand (.run i) s.strandHere s else .next s
  | .rest => .next (if s.cur.phase == .running || s.cur.phase == .trapped then s.holdOn s.strandHere else s)
  | _ => .next s

/-- The additions that the vector strand's sigs make in its next issue cycle, made now; none where there are none. -/
def Tile.landSems (t : Tile) : Option Tile :=
  let due (r : VRec) : Bool := r.valid && decide (r.rem ≤ 1) && match r.act with | .sem _ _ => true | _ => false
  let now := t.vec.recs.filter due
  if now.isEmpty then none
  else some (now.foldl (fun (x : Tile) r => x.vact r.act) { t with vec := { t.vec with recs := t.vec.recs.filter fun r => !due r } })

/-- Phase 10: control is judged.  Where the vector strand waits too, its issue cycle is one of this TC only if its own wait is satisfied: then
the additions of its sigs that come with that cycle are made before control is judged (R343). -/
def controlJudged (s : State) : Out :=
  match s.cur.play .vector, s.cur.landSems with
  | .run i, some x =>
    if !Instr.judged i then lateStrand s
    else
      let first := lateStrand (s.setTile s.here x)
      match andThen first fun a => lateStrand (a.setPhase 11) with
      | .next b => if (b.cur.str .vector).used then first else lateStrand s
      | _ => lateStrand s
  | _, _ => lateStrand s

/-- Phase 9: the additions that come from outside the strands' issue: prescans, the transform unit's step, raises, and the pending sigs whose
conditions are met. -/
def engines (s : State) : Out :=
  let t := s.here
  andThen (execAnvilPrescan t s) fun s =>
  andThen (execTransformStep t s) fun s =>
  andThen (execCommandRaise t .matrix s) fun s =>
  andThen (execCommandRaise t .transform s) fun s =>
  andThen (execCommandRaise t .send s) fun s =>
  andThen (execCommandRaise t .receive s) fun s =>
  Strand.all.foldl (fun o k => andThen o (execPendingSigPerform t k)) (.next s)

/-- Phase 21: the Anvil lands and takes its step, and a branch resolves. -/
def closing (s : State) : Out := andThen (execAnvilStep s.here s) (execBranchResolve s.here)

/-- Phase 22: the line that fetch takes, and the directive it carries. -/
def fetchPhase (s : State) : Out :=
  match if s.cur.isSup then none else s.cur.nextDirective with
  | some (.loop l src n c) => exec (.loop l src n c) s
  | some .nopl => exec .nopl s
  | _ => execFetchLine s.here s

/-- A command of the tile is in flight. -/
def Tile.commandsInFlight (t : Tile) : Bool := !t.mx.cmds.isEmpty || t.xf.cmd.isSome || t.tx.cmd.isSome || t.rx.cmd.isSome

/-- The end of a TC of a tile: claims end, raised commands leave, the strands are ready for the next TC, and TCC counts. -/
def Tile.endTc (t : Tile) : Tile :=
  let t := t.endClaims.dropRaised
  { t with
    strand := t.strand.map fun st => { st with used := false }
    tcc := t.tcc + 1
    credit := t.credit - 25
    quiet := if t.phase == .running && t.commandsInFlight then 0 else t.quiet + 1
    trace := { t.trace with since := t.trace.since + 1 } }

/-- PC samples of the strands in the mask, once a sample period has passed; then the oldest waiting record is written (R275). -/
def traceTc (s : State) : Out :=
  let t := s.here
  let x := s.cur
  if x.sys.traceOn && decide (x.sys.tracePeriod ≤ x.trace.since) then
    let s := s.modTile t fun y => { y with trace := { y.trace with since := 0 } }
    Strand.all.foldl (fun o k => andThen o fun s => execTraceSample t k s) (.next s)
  else .next (s.traceFlush t)

/-- A TC of a tile begins: its reads will find the scratchpad as it stands now (R33), and a tile that was saved TRAPPED and enters RUNNING goes
on in its handler (log entry 32). -/
def Tile.beginTc (t : Tile) : Tile :=
  { t with
    spad0 := t.spad
    phase := if t.savedSup && t.phase == .running then .trapped else t.phase
    savedSup := t.savedSup && t.phase != .running }

/-- A TC of the tile whose turn it is begins where its clock has one left in this fabric cycle; else the turn passes on. -/
def State.nextTc (s : State) : State :=
  if s.cur.live && decide (25 ≤ s.cur.credit) then (s.modTile s.here Tile.beginTc).setPhase 1 else s.nextTurn

/-- One phase of the turn of a tile. -/
def turnStep (s : State) : Out :=
  match s.turn.phase with
  | 0 => andThen (if s.cur.tx.cmd.isSome then execFlitDepart s.here s else .next s) fun s => .next s.nextTc
  | 9 => andThen (engines s) fun s => .next s.advance
  | 10 => andThen (controlJudged s) fun s => .next s.advance
  | 21 => andThen (closing s) fun s => .next s.advance
  | 22 => andThen (fetchPhase s) fun s => .next s.advance
  | n =>
    if n < 9 then andThen (earlyStrand s) fun s => .next s.advance
    else if n < 18 then
      let k := s.strandHere
      andThen (lateStrand s) fun s =>
      andThen (if k == .matrix then execFollowOnStart s.here s else .next s) fun s => .next s.advance
    else if n < 21 then andThen (accessStrand s) fun s => .next s.advance
    else andThen (traceTc (s.modTile s.here Tile.endTc)) fun s => .next s.nextTc

/-- One step of the machine. -/
def step (s : State) : Host.Outcome State Fault Refusal :=
  match s.agenda with
  | w :: rest => perform w { s with agenda := rest }
  | [] => turnStep s

/-! ## Placing an instruction (the host's question) -/

/-- Sequencing state of a tile that runs in user mode, at the start of a launch. -/
def Tile.ready (t : Tile) : Tile :=
  { t with
    phase := .running, preempt := false, attn := false, credit := 25, spad0 := t.spad, savedSup := false
    strand := t.strand.map fun st => { st with reached := none }
    ctl := { t.ctl with wait := none }, ld := { t.ld with hold := none }, st := { t.st with hold := none } }

/-- The phase in which strand `k` takes an instruction. -/
def turnPhase (k : Strand) (i : Instr) : Nat :=
  if Instr.judged i then 10 + k.pos
  else if Instr.accesses k i then (match k with | .control => 18 | .load => 19 | _ => 20)
  else 1 + k.pos

/-- A state in which the very next step issues or fetches the instruction whose words are given: tile 0 runs, the word stands at the head of
the queue of the strand that `decodeAnyStrand` reads it for, and it is that strand's turn; a directive stands on the first line of the code
store, before lines enough for the body of a LOOP and under a loop table of temporal levels, and it is fetch's turn. -/
def State.withFetchWord (s : State) (nbits w : Nat) : State :=
  let p := tableWords nbits w
  let x := (s.tile 0).ready
  match decodeAnyStrand p.1 p.2 with
  | some (some k, i, exts) =>
    let e : QEntry := { kind := .insn, word := p.1, exts := exts, misplaced := false, pc := 4, ix := Vector.replicate 6 0 }
    { s.setTile 0 (x.modStr k fun st => { st with queue := [e], stopped := false, halted := false, used := false }) with
      turn := { tile := 0, phase := turnPhase k i }, agenda := [] }
  | _ =>
    let line : BitVec 256 := BitVec.ofNat 256 (0xF0 + 2 ^ 32 * p.1.toNat)
    let body := match decodeDirective p.1 with
      | some (.loop _ _ n _) => n.toNat
      | _ => 0
    let f := { x.fetch with
      code := line :: List.replicate (body + 1) 0, addr := 0, ended := false, stopped := false, branch := none, notBefore := x.tcc
      level := x.fetch.level.map fun l => { l with active := false }, table := List.replicate 6 { kind := 0, count := 1 } }
    { s.setTile 0 { x with fetch := f } with turn := { tile := 0, phase := 22 }, agenda := [] }

end Sys2Proof.Machine
end

