-- ==== Sys2Proof/Safety.lean ====
section
/-!
DEFINITION. What counts as a safe step and a safe run, in the terms that claims use: the machine goes on, and the memories keep their
canonical form; and the words that claims about an issued instruction use.
-/
namespace Sys2Proof.Machine
open Sys2Proof

/-! ## Words that claims use -/

/-- The tile whose turn it is, as an instruction of strand `k` finds it: the results that are due in this issue cycle are visible
(02_tile.md R24). -/
def State.seen (s : State) (k : Strand) : Tile := s.cur.tick k

/-- The state after an instruction of strand `k` has issued and left its tile as `x`: it has left the queue, the issue count has risen, and
the strand has used this TC (02_tile.md R23). -/
def State.leaves (s : State) (k : Strand) (x : Tile) : State := s.setTile s.here (x.retire k)

/-- The answer to an instruction of strand `k` with the effect `x` on its tile. -/
def State.yields (s : State) (k : Strand) (x : Tile) : Out := .next (s.leaves k x)

end Sys2Proof.Machine

namespace Sys2Proof.Safety
open Sys2Proof.Machine

/-- A step is safe when the machine goes on from it: it neither faults nor refuses. -/
def StepSafe (s : State) : Prop := ∃ t, step s = .next t

/-- A run of `n` steps is safe when every step of it is. -/
def RunSafe : Nat → State → Prop
  | 0, _ => True
  | n + 1, s => ∃ t, step s = .next t ∧ RunSafe n t

/-- The memories of a tile are in canonical form. -/
def TileOk (t : Tile) : Prop := t.spad.wf = true ∧ t.spad0.wf = true ∧ t.rsp.wf = true

/-- The memories that the homes keep are in canonical form: device memory, and the stamps, attributes, chunk metadata and dirty bits. -/
def StoreOk (x : Store) : Prop :=
  x.mem.wf = true ∧ x.stamp.wf = true ∧ x.attr.wf = true ∧ x.chunk.wf = true ∧ x.dirty.wf = true

/-- Every memory of the machine is in canonical form. -/
def MemoryOk (s : State) : Prop :=
  StoreOk s.store ∧ (∀ t : Fin 640, TileOk (s.tile t)) ∧ ∀ l ∈ s.launches, ∀ t ∈ l.saved, TileOk t

end Sys2Proof.Safety
end

