-- ==== Sys2Proof/Certificates/Slice0/Obligations.lean ====
section
/-!
DEFINITION. The statements for the provers: what decoding, the step, every instruction and every event do, rule by rule of spec/.
A statement about an instruction says that `exec` answers a next state and which one; `State.seen`, `State.leaves` and `State.yields`
(Safety.lean) name the tile that an instruction finds and the state that it leaves.
-/
namespace Sys2Proof.Claims
open Sys2Proof Sys2Proof.Machine

/-! ## The control strand -/

/-- A two-operand ALU form delivers `f` of its operands to s[d]. -/
def AluRegister (mk : BitVec 5 → BitVec 5 → BitVec 5 → BitVec 3 → BitVec 1 → Instr) (f : W64 → W64 → W64) : Prop :=
  ∀ s d a b p n, (s.seen .control).guard p n = true →
    exec (mk d a b p n) s = s.yields .control ((s.seen .control).setS d (f (s.cur.s a) (s.cur.s b)))

/-- A one-operand ALU form delivers the result that `R` describes to s[d]. -/
def AluCount (mk : BitVec 5 → BitVec 5 → BitVec 3 → BitVec 1 → Instr) (R : W64 → Nat → Prop) : Prop :=
  ∀ s d a p n, (s.seen .control).guard p n = true →
    ∃ c : Nat, R (s.cur.s a) c ∧ exec (mk d a p n) s = s.yields .control ((s.seen .control).setS d (BitVec.ofNat 64 c))

/-- `c` counts the leading zeros of bits [w-1:0] of x. -/
def LeadingZeros (w : Nat) (x : W64) (c : Nat) : Prop :=
  c ≤ w ∧ (∀ i, w - c ≤ i → i < w → x.getLsbD i = false) ∧ (c < w → x.getLsbD (w - 1 - c) = true)

/-- `c` counts the trailing zeros of bits [w-1:0] of x. -/
def TrailingZeros (w : Nat) (x : W64) (c : Nat) : Prop :=
  c ≤ w ∧ (∀ i < c, x.getLsbD i = false) ∧ (c < w → x.getLsbD c = true)

/-- `c` counts the 1 bits among bits [w-1:0] of x. -/
def OneBits (w : Nat) (x : W64) (c : Nat) : Prop := c = ((List.range w).filter fun i => x.getLsbD i).length

/-- A form with an immediate delivers `f` of its operand and the immediate to s[d]. -/
def AluImmediate (mk : BitVec 5 → BitVec 5 → BitVec 3 → BitVec 13 → List W32 → Instr) (f : W64 → W64 → W64) : Prop :=
  ∀ s d a p i x, (s.seen .control).guard p 0 = true →
    exec (mk d a p i x) s = s.yields .control ((s.seen .control).setS d (f (s.cur.s a) (imm13 i x)))

/-- A long-latency form puts the pending result `f` of its operands, due `lat` counts later, on its latch. -/
def LatchForm (mk : BitVec 5 → BitVec 5 → BitVec 3 → BitVec 1 → BitVec 2 → Instr) (lat : Nat) (dest : BitVec 2 → Latch)
    (f : W64 → W64 → W64 × Num.Flags) : Prop :=
  ∀ s a b p n l, (s.seen .control).guard p n = true →
    exec (mk a b p n l) s = s.yields .control
      ((s.seen .control).pend lat (dest l) (f (s.cur.s a) (s.cur.s b)).1 (f (s.cur.s a) (s.cur.s b)).2)

/-- A floating-point form of two operands; `rm` is the control FPSR's rounding mode as it stands at issue. -/
def FloatForm (mk : BitVec 5 → BitVec 5 → BitVec 3 → BitVec 1 → BitVec 2 → Instr) (lat : Nat) (dest : BitVec 2 → Latch)
    (f : Num.Rm → W64 → W64 → W64 × Num.Flags) : Prop :=
  ∀ s a b p n l, (s.seen .control).guard p n = true →
    exec (mk a b p n l) s = s.yields .control
      ((s.seen .control).pend lat (dest l) (f ((s.seen .control).rm .control) (s.cur.s a) (s.cur.s b)).1
        (f ((s.seen .control).rm .control) (s.cur.s a) (s.cur.s b)).2)

/-- A floating-point form of one operand. -/
def FloatUnary (mk : BitVec 5 → BitVec 3 → BitVec 1 → BitVec 2 → Instr) (lat : Nat) (dest : BitVec 2 → Latch)
    (f : Num.Rm → W64 → W64 × Num.Flags) : Prop :=
  ∀ s a p n l, (s.seen .control).guard p n = true →
    exec (mk a p n l) s = s.yields .control
      ((s.seen .control).pend lat (dest l) (f ((s.seen .control).rm .control) (s.cur.s a)).1
        (f ((s.seen .control).rm .control) (s.cur.s a)).2)

/-- A fused form: s[a] × s[b] + s[c] with one rounding. -/
def FusedForm (mk : BitVec 5 → BitVec 5 → BitVec 5 → BitVec 3 → BitVec 1 → BitVec 2 → Instr) (fmt : Num.Fmt) : Prop :=
  ∀ s c a b p n l, (s.seen .control).guard p n = true →
    let rm := (s.seen .control).rm .control
    let v := Num.fma rm (fpVal fmt (s.cur.s a)) (fpVal fmt (s.cur.s b)) (fpVal fmt (s.cur.s c))
    let r := Num.round fmt rm false v.1
    exec (mk c a b p n l) s = s.yields .control ((s.seen .control).pend 4 (.m l) (BitVec.ofNat 64 r.1) (r.2 ||| v.2))

/-- A value rounded into a format, with the flags of its formation and of the rounding. -/
def rounded (fmt : Num.Fmt) (rm : Num.Rm) (v : Num.Val × Num.Flags) : W64 × Num.Flags :=
  (BitVec.ofNat 64 (Num.round fmt rm false v.1).1, (Num.round fmt rm false v.1).2 ||| v.2)

/-- A control instruction that delivers to one s-register, a predicate or a latch, or to nothing: its destination s-register. -/
def sDest : Instr → Option (Option (BitVec 5))
  | .add d .. | .sub d .. | .and d .. | .or d .. | .xor d .. | .andn d .. | .shl d .. | .shr d .. | .sra d .. | .min d .. | .max d ..
  | .minu d .. | .maxu d .. | .clz d .. | .ctz d .. | .popc d .. | .sel d .. | .addW d .. | .subW d .. | .shlW d .. | .shrW d ..
  | .sraW d .. | .clzW d .. | .ctzW d .. | .popcW d .. | .addi d .. | .andi d .. | .ori d .. | .xori d .. | .shli d .. | .shri d ..
  | .srai d .. | .li d .. | .lea d .. | .movM d .. | .movD d .. | .movL d .. => some (some d)
  | .cmp .. | .cmpi .. | .pand .. | .por .. | .pxor .. | .pandn .. | .pnot .. | .mul .. | .mulh .. | .mulhu .. | .mulW .. | .faddS ..
  | .fsubS .. | .fmulS .. | .fmaS .. | .fminS .. | .fmaxS .. | .faddD .. | .fsubD .. | .fmulD .. | .fmaD .. | .fminD .. | .fmaxD ..
  | .cvtSD .. | .cvtDS .. | .cvtSI .. | .cvtIS .. | .cvtDI .. | .cvtID .. | .div .. | .divu .. | .rem .. | .remu .. | .fdivS ..
  | .fsqrtS .. | .fdivD .. | .fsqrtD .. => some none
  | _ => none

/-- The destination predicate of such an instruction. -/
def pDest : Instr → Option (BitVec 3)
  | .cmp d .. | .cmpi d .. | .pand d .. | .por d .. | .pxor d .. | .pandn d .. | .pnot d .. => some d
  | _ => none

/-- The guard of a guarded control form that is no branch; none for the other instructions. -/
def guardOf : Instr → Option (BitVec 3 × BitVec 1)
  | .add _ _ _ p n | .sub _ _ _ p n | .and _ _ _ p n | .or _ _ _ p n | .xor _ _ _ p n | .andn _ _ _ p n | .shl _ _ _ p n
  | .shr _ _ _ p n | .sra _ _ _ p n | .min _ _ _ p n | .max _ _ _ p n | .minu _ _ _ p n | .maxu _ _ _ p n
  | .addW _ _ _ p n | .subW _ _ _ p n | .shlW _ _ _ p n | .shrW _ _ _ p n | .sraW _ _ _ p n
  | .clz _ _ p n | .ctz _ _ p n | .popc _ _ p n | .clzW _ _ p n | .ctzW _ _ p n | .popcW _ _ p n
  | .movM _ _ p n | .movD _ _ p n | .movL _ _ p n | .cmp _ _ _ _ p n _
  | .mul _ _ p n _ | .mulh _ _ p n _ | .mulhu _ _ p n _ | .mulW _ _ p n _ | .faddS _ _ p n _ | .fsubS _ _ p n _ | .fmulS _ _ p n _
  | .fmaS _ _ _ p n _ | .fminS _ _ p n _ | .fmaxS _ _ p n _ | .faddD _ _ p n _ | .fsubD _ _ p n _ | .fmulD _ _ p n _
  | .fmaD _ _ _ p n _ | .fminD _ _ p n _ | .fmaxD _ _ p n _ | .cvtSD _ p n _ | .cvtDS _ p n _ | .cvtSI _ p n _ | .cvtIS _ p n _
  | .cvtDI _ p n _ | .cvtID _ p n _ | .div _ _ p n _ | .divu _ _ p n _ | .rem _ _ p n _ | .remu _ _ p n _ | .fdivS _ _ p n _
  | .fsqrtS _ p n _ | .fdivD _ _ p n _ | .fsqrtD _ p n _
  | .popStream _ _ p n | .popChannel _ _ p n | .pushK _ _ p n | .pushO _ _ p n | .pushJ _ _ p n | .snap _ _ p n | .accept _ _ p n
  | .reject _ _ p n | .snapq _ _ p n | .qpost _ _ _ p n => some (p, n)
  | .addi _ _ p _ _ | .andi _ _ p _ _ | .ori _ _ p _ _ | .xori _ _ p _ _ | .shli _ _ p _ | .shri _ _ p _ | .srai _ _ p _
  | .li _ p _ _ | .lea _ p _ | .spl _ p _ | .sps _ p _ | .lsp _ _ _ p _ _ | .ssp _ _ p _ _ | .trap p _ => some (p, 0)
  | _ => none

end Sys2Proof.Claims

open Sys2Proof Sys2Proof.Machine
/-! ## Control: the integer ALU, predicates and latches (05_control.md) -/

/-- R110 and Table 5-2, the forms of two operands: the result wraps modulo 2^64 and is in s[d]; a word form computes on bits [31:0] and delivers
the sign extension of its low word. -/
def Sys2Proof.Claims.AluDeliversTableResult : Prop :=
  Claims.AluRegister .add (fun x y => BitVec.ofNat 64 (x.toNat + y.toNat)) ∧
  Claims.AluRegister .sub (fun x y => BitVec.ofInt 64 ((x.toNat : Int) - y.toNat)) ∧
  Claims.AluRegister .and (fun x y => x &&& y) ∧
  Claims.AluRegister .or (fun x y => x ||| y) ∧
  Claims.AluRegister .xor (fun x y => x ^^^ y) ∧
  Claims.AluRegister .andn (fun x y => x &&& ~~~y) ∧
  Claims.AluRegister .shl (fun x y => BitVec.ofNat 64 (x.toNat * 2 ^ (y.toNat % 64))) ∧
  Claims.AluRegister .shr (fun x y => BitVec.ofNat 64 (x.toNat / 2 ^ (y.toNat % 64))) ∧
  Claims.AluRegister .sra (fun x y => BitVec.ofInt 64 (x.toInt / 2 ^ (y.toNat % 64))) ∧
  Claims.AluRegister .min (fun x y => if x.toInt ≤ y.toInt then x else y) ∧
  Claims.AluRegister .max (fun x y => if x.toInt ≤ y.toInt then y else x) ∧
  Claims.AluRegister .minu (fun x y => if x.toNat ≤ y.toNat then x else y) ∧
  Claims.AluRegister .maxu (fun x y => if x.toNat ≤ y.toNat then y else x) ∧
  Claims.AluRegister .addW (fun x y => (BitVec.ofNat 32 (x.toNat + y.toNat)).signExtend 64) ∧
  Claims.AluRegister .subW (fun x y => (BitVec.ofInt 32 ((x.toNat : Int) - y.toNat)).signExtend 64) ∧
  Claims.AluRegister .shlW (fun x y => (BitVec.ofNat 32 (x.toNat * 2 ^ (y.toNat % 32))).signExtend 64) ∧
  Claims.AluRegister .shrW (fun x y => (BitVec.ofNat 32 (x.toNat % 2 ^ 32 / 2 ^ (y.toNat % 32))).signExtend 64) ∧
  Claims.AluRegister .sraW (fun x y => (BitVec.ofInt 32 ((x.setWidth 32).toInt / 2 ^ (y.toNat % 32))).signExtend 64)

/-- R110 and Table 5-2, the counting forms and sel: clz, ctz and popc count over 64 bits and the word forms over bits [31:0]; sel executes
unconditionally, with p and pn as its condition. -/
def Sys2Proof.Claims.CountsAndSelectDeliver : Prop :=
  Claims.AluCount .clz (Claims.LeadingZeros 64) ∧ Claims.AluCount .ctz (Claims.TrailingZeros 64) ∧
  Claims.AluCount .popc (Claims.OneBits 64) ∧ Claims.AluCount .clzW (Claims.LeadingZeros 32) ∧
  Claims.AluCount .ctzW (Claims.TrailingZeros 32) ∧ Claims.AluCount .popcW (Claims.OneBits 32) ∧
  ∀ s d a b p n, exec (.sel d a b p n) s =
    s.yields .control ((s.seen .control).setS d (if (s.seen .control).guard p n then s.cur.s a else s.cur.s b))

/-- R111 and Table 5-3: the immediate forms. -/
def Sys2Proof.Claims.ImmediateFormsDeliver : Prop :=
  Claims.AluImmediate .addi (fun x y => BitVec.ofNat 64 (x.toNat + y.toNat)) ∧
  Claims.AluImmediate .andi (fun x y => x &&& y) ∧
  Claims.AluImmediate .ori (fun x y => x ||| y) ∧
  Claims.AluImmediate .xori (fun x y => x ^^^ y) ∧
  (∀ s d a p (i : BitVec 6), (s.seen .control).guard p 0 = true →
    exec (.shli d a p i) s = s.yields .control ((s.seen .control).setS d (BitVec.ofNat 64 ((s.cur.s a).toNat * 2 ^ i.toNat))) ∧
    exec (.shri d a p i) s = s.yields .control ((s.seen .control).setS d (BitVec.ofNat 64 ((s.cur.s a).toNat / 2 ^ i.toNat))) ∧
    exec (.srai d a p i) s = s.yields .control ((s.seen .control).setS d (BitVec.ofInt 64 ((s.cur.s a).toInt / 2 ^ i.toNat)))) ∧
  (∀ s d p i x, (s.seen .control).guard p 0 = true →
    exec (.li d p i x) s = s.yields .control ((s.seen .control).setS d (imm13 i x))) ∧
  (∀ s d p (i : BitVec 13), (s.seen .control).guard p 0 = true →
    exec (.lea d p i) s = s.yields .control ((s.seen .control).setS d
      (BitVec.ofInt 64 (((s.cur.pcOf .control).toNat / 32 * 32 : Nat) + i.toInt * 32))))

/-- R112, R113, R114 and Table 5-4: cmp and cmpi combine their outcome into p[pd], and plog, which has no guard, writes p[pd]; its fn values
5 to 7 decode to nothing but ILLEGAL-INSN. -/
def Sys2Proof.Claims.ComparesWritePredicate : Prop :=
  (∀ s d (c : BitVec 2) a b p n k, (s.seen .control).guard p n = true →
    let r := cmpCond k (s.cur.s a) (s.cur.s b)
    exec (.cmp d c a b p n k) s = s.yields .control ((s.seen .control).setP d
      (if c = 0 then r else if c = 1 then s.cur.p d && r else s.cur.p d || r))) ∧
  (∀ s d (c : BitVec 2) a k (i : BitVec 13),
    let r := cmpCond (k.setWidth 7) (s.cur.s a) (i.signExtend 64)
    exec (.cmpi d c a k i) s = s.yields .control ((s.seen .control).setP d
      (if c = 0 then r else if c = 1 then s.cur.p d && r else s.cur.p d || r))) ∧
  (∀ s d a b,
    exec (.pand d a b) s = s.yields .control ((s.seen .control).setP d (s.cur.p a && s.cur.p b)) ∧
    exec (.por d a b) s = s.yields .control ((s.seen .control).setP d (s.cur.p a || s.cur.p b)) ∧
    exec (.pxor d a b) s = s.yields .control ((s.seen .control).setP d (s.cur.p a ^^ s.cur.p b)) ∧
    exec (.pandn d a b) s = s.yields .control ((s.seen .control).setP d (s.cur.p a && !s.cur.p b)) ∧
    exec (.pnot d a) s = s.yields .control ((s.seen .control).setP d (!s.cur.p a))) ∧
  (∀ d a b : BitVec 3,
    decodeWord .control (0x0C#6 ++ d ++ a ++ b ++ 0#17) [] false = .ok (.pand d a b) ∧
    decodeWord .control (0x0C#6 ++ d ++ a ++ b ++ 1#3 ++ 0#14) [] false = .ok (.por d a b) ∧
    decodeWord .control (0x0C#6 ++ d ++ a ++ b ++ 2#3 ++ 0#14) [] false = .ok (.pxor d a b) ∧
    decodeWord .control (0x0C#6 ++ d ++ a ++ b ++ 3#3 ++ 0#14) [] false = .ok (.pandn d a b) ∧
    decodeWord .control (0x0C#6 ++ d ++ a ++ 0#3 ++ 4#3 ++ 0#14) [] false = .ok (.pnot d a)) ∧
  (∀ (w : W32) x m, w.extractLsb' 26 6 = 0x0C → 5 ≤ (w.extractLsb' 14 3).toNat → decodeWord .control w x m = .error .illegalInsn) ∧
  (∀ x y : W64,
    (cmpCond 0x00 x y = true ↔ x = y) ∧ (cmpCond 0x01 x y = true ↔ x ≠ y) ∧
    (cmpCond 0x02 x y = true ↔ x.toInt < y.toInt) ∧ (cmpCond 0x03 x y = true ↔ y.toInt ≤ x.toInt) ∧
    (cmpCond 0x04 x y = true ↔ x.toNat < y.toNat) ∧ (cmpCond 0x05 x y = true ↔ y.toNat ≤ x.toNat))

/-- R110, R111, R112, R113, R114: every ALU form, count, select, immediate form, compare and predicate form delivers the result of its table to its
destination, and nothing else of the tile changes but the queue and the counts. -/
def Obligations.AluFormsDeliver : Prop :=
  Claims.AluDeliversTableResult ∧ Claims.CountsAndSelectDeliver ∧ Claims.ImmediateFormsDeliver ∧ Claims.ComparesWritePredicate

/-- R115, Table 5-5 and Table 5-6, the integer forms: the result is due 4 counts later in $m[lat], or 22 counts later in $d[lat], and raises no flag;
division by zero delivers all ones and the dividend. -/
def Sys2Proof.Claims.IntegerLatchResults : Prop :=
  Claims.LatchForm .mul 4 .m (fun x y => (BitVec.ofNat 64 (x.toNat * y.toNat), 0)) ∧
  Claims.LatchForm .mulh 4 .m (fun x y => (BitVec.ofInt 64 (x.toInt * y.toInt / 2 ^ 64), 0)) ∧
  Claims.LatchForm .mulhu 4 .m (fun x y => (BitVec.ofNat 64 (x.toNat * y.toNat / 2 ^ 64), 0)) ∧
  Claims.LatchForm .mulW 4 .m (fun x y => ((BitVec.ofNat 32 (x.toNat * y.toNat)).signExtend 64, 0)) ∧
  Claims.LatchForm .div 22 .d (fun x y => (if y = 0 then BitVec.allOnes 64 else BitVec.ofInt 64 (x.toInt.tdiv y.toInt), 0)) ∧
  Claims.LatchForm .divu 22 .d (fun x y => (if y = 0 then BitVec.allOnes 64 else BitVec.ofNat 64 (x.toNat / y.toNat), 0)) ∧
  Claims.LatchForm .rem 22 .d (fun x y => (if y = 0 then x else BitVec.ofInt 64 (x.toInt.tmod y.toInt), 0)) ∧
  Claims.LatchForm .remu 22 .d (fun x y => (if y = 0 then x else BitVec.ofNat 64 (x.toNat % y.toNat), 0))

/-- R115, R116, Table 5-5 and Table 5-6, the floating-point forms, over the number functions of Numbers.lean: an operand is bits [31:0] in FP32
and all 64 bits in FP64; the result is rounded once by the control FPSR's RM and is due 4, 14 or 22 counts later with its flags; conversions to
integers round towards zero and saturate. -/
def Sys2Proof.Claims.FloatLatchResults : Prop :=
  (∀ fmt : Num.Fmt, ∀ rm x, fmt = Num.fp32 ∨ fmt = Num.fp64 →
    fpVal fmt x = Num.decode fmt (if fmt = Num.fp32 then x.toNat % 2 ^ 32 else x.toNat) ∧
    fpOut fmt rm (fpVal fmt x, 0) = Claims.rounded fmt rm (fpVal fmt x, 0)) ∧
  Claims.FloatForm .faddS 4 .m (fun rm x y => Claims.rounded Num.fp32 rm (Sys2Proof.Num.add rm (fpVal Num.fp32 x) (fpVal Num.fp32 y))) ∧
  Claims.FloatForm .fsubS 4 .m (fun rm x y => Claims.rounded Num.fp32 rm (Sys2Proof.Num.add rm (fpVal Num.fp32 x) (fpVal Num.fp32 y).flip)) ∧
  Claims.FloatForm .fmulS 4 .m (fun rm x y => Claims.rounded Num.fp32 rm (Sys2Proof.Num.mul (fpVal Num.fp32 x) (fpVal Num.fp32 y))) ∧
  Claims.FloatForm .fminS 4 .m (fun rm x y => Claims.rounded Num.fp32 rm (Num.minNum (fpVal Num.fp32 x) (fpVal Num.fp32 y), 0)) ∧
  Claims.FloatForm .fmaxS 4 .m (fun rm x y => Claims.rounded Num.fp32 rm (Num.maxNum (fpVal Num.fp32 x) (fpVal Num.fp32 y), 0)) ∧
  Claims.FloatForm .faddD 4 .m (fun rm x y => Claims.rounded Num.fp64 rm (Sys2Proof.Num.add rm (fpVal Num.fp64 x) (fpVal Num.fp64 y))) ∧
  Claims.FloatForm .fsubD 4 .m (fun rm x y => Claims.rounded Num.fp64 rm (Sys2Proof.Num.add rm (fpVal Num.fp64 x) (fpVal Num.fp64 y).flip)) ∧
  Claims.FloatForm .fmulD 4 .m (fun rm x y => Claims.rounded Num.fp64 rm (Sys2Proof.Num.mul (fpVal Num.fp64 x) (fpVal Num.fp64 y))) ∧
  Claims.FloatForm .fminD 4 .m (fun rm x y => Claims.rounded Num.fp64 rm (Num.minNum (fpVal Num.fp64 x) (fpVal Num.fp64 y), 0)) ∧
  Claims.FloatForm .fmaxD 4 .m (fun rm x y => Claims.rounded Num.fp64 rm (Num.maxNum (fpVal Num.fp64 x) (fpVal Num.fp64 y), 0)) ∧
  Claims.FusedForm .fmaS Num.fp32 ∧ Claims.FusedForm .fmaD Num.fp64 ∧
  Claims.FloatForm .fdivS 14 .d (fun rm x y =>
    let r := Num.divRound Num.fp32 rm false (fpVal Num.fp32 x) (fpVal Num.fp32 y); (BitVec.ofNat 64 r.1, r.2)) ∧
  Claims.FloatForm .fdivD 22 .d (fun rm x y =>
    let r := Num.divRound Num.fp64 rm false (fpVal Num.fp64 x) (fpVal Num.fp64 y); (BitVec.ofNat 64 r.1, r.2)) ∧
  Claims.FloatUnary .fsqrtS 14 .d (fun rm x => let r := Num.sqrtRound Num.fp32 rm (fpVal Num.fp32 x); (BitVec.ofNat 64 r.1, r.2)) ∧
  Claims.FloatUnary .fsqrtD 22 .d (fun rm x => let r := Num.sqrtRound Num.fp64 rm (fpVal Num.fp64 x); (BitVec.ofNat 64 r.1, r.2)) ∧
  Claims.FloatUnary .cvtSD 4 .m (fun rm x => Claims.rounded Num.fp32 rm (fpVal Num.fp64 x, 0)) ∧
  Claims.FloatUnary .cvtDS 4 .m (fun rm x => Claims.rounded Num.fp64 rm (fpVal Num.fp32 x, 0)) ∧
  Claims.FloatUnary .cvtSI 4 .m (fun rm x => Claims.rounded Num.fp32 rm (Num.ofInt (x.setWidth 32).toInt, 0)) ∧
  Claims.FloatUnary .cvtDI 4 .m (fun rm x => Claims.rounded Num.fp64 rm (Num.ofInt x.toInt, 0)) ∧
  Claims.FloatUnary .cvtIS 4 .m (fun _ x =>
    let r := Num.toIntClamp .rtz (-2 ^ 31) (2 ^ 31 - 1) (fpVal Num.fp32 x); (BitVec.ofInt 64 r.1, r.2)) ∧
  Claims.FloatUnary .cvtID 4 .m (fun _ x =>
    let r := Num.toIntClamp .rtz (-2 ^ 63) (2 ^ 63 - 1) (fpVal Num.fp64 x); (BitVec.ofInt 64 r.1, r.2))

/-- R115, R116: every long-latency form puts its result on its latch, due as Table 5-5 and Table 5-6 give it, with the flags it raises. -/
def Obligations.LatchResults : Prop :=
  Claims.IntegerLatchResults ∧ Claims.FloatLatchResults

/-- R24, R26, R115, R117: landing.  In an issue cycle every pending result counts down (a record that a handler left not valid is gone); those that are due are put into their latches oldest first, so
the youngest wins, and their flags are ORed into the control FPSR; mov then reads the latch. -/
def Obligations.LatchesLandOldestFirst : Prop :=
  (∀ s d l p n, (s.seen .control).guard p n = true →
    exec (.movM d l p n) s = s.yields .control ((s.seen .control).setS d (s.seen .control).bank.m[l.toNat]) ∧
    exec (.movD d l p n) s = s.yields .control ((s.seen .control).setS d (s.seen .control).bank.d[l.toNat]) ∧
    exec (.movL d l p n) s = s.yields .control ((s.seen .control).setS d (s.seen .control).bank.l[l.toNat])) ∧
  ∀ t : Tile,
    let live := t.bank.recs.filter fun r => r.valid
    let due := live.filter fun r => decide (r.rem ≤ 1)
    t.tickControl.bank.recs = (live.filter fun r => decide (1 < r.rem)).map (fun r => { r with rem := r.rem - 1 }) ∧
    (∀ l : Latch, t.tickControl.bank.get l =
      match (due.filter fun r => r.dest == l).getLast? with
      | some r => r.value
      | none => t.bank.get l) ∧
    t.tickControl.fpsr .control = due.foldl (fun f r => f ||| r.flags.setWidth 8) (t.fpsr .control) ∧
    (∀ k, k ≠ .control → t.tickControl.fpsr k = t.fpsr k) ∧
    ∀ n l v f, (t.pend n l v f).bank.recs = t.bank.recs ++ [{ rem := n, dest := l, value := v, flags := f }]

/-- R39, R87, R108: s0 reads zero and p0 reads true, a write to either is discarded, and a write reaches no other register. -/
def Obligations.HardwiredRegistersStay : Prop :=
  ∀ t : Tile, t.s 0 = 0 ∧ t.p 0 = true ∧
    (∀ d i v, (t.setS d v).s i = if i = d ∧ d ≠ 0 then v else t.s i) ∧
    (∀ d i v, (t.setP d v).p i = if i = d ∧ d ≠ 0 then v else t.p i) ∧
    (∀ d i v, (t.setS d v).p i = t.p i) ∧ (∀ d i v, (t.setP d v).s i = t.s i) ∧
    (∀ p n, t.guard p n = (t.p p ^^ n.getLsbD 0))

/-- R109, R85: an instruction whose guard is false reads nothing, writes nothing, creates no pending result, never holds and raises no fault: it leaves
the queue and is counted, and results that are due in its issue cycle become visible. -/
def Obligations.FalseGuardDoesNothing : Prop :=
  ∀ i p n s, Claims.guardOf i = some (p, n) → (s.seen .control).guard p n = false →
    exec i s = s.yields .control (s.seen .control)

/-- The frame of the ALU, predicate and latch forms (R109, R110, R111, R114, R116): whatever the guard, they change no register but the destination, no
predicate but the destination, no byte of any memory, no FPSR but the control strand's sticky flags, no other state of the machine. -/
def Obligations.AluFrame : Prop :=
  ∀ i s s' dest, Claims.sDest i = some dest → exec i s = .next s' →
    s' = s.setTile s.here s'.cur ∧
    (∀ n, n ≠ s.here → s'.tile n = s.tile n) ∧
    (∀ r, dest ≠ some r → s'.cur.s r = s.cur.s r) ∧
    (∀ r, Claims.pDest i ≠ some r → s'.cur.p r = s.cur.p r) ∧
    (∀ a, s'.cur.spad.read a = s.cur.spad.read a ∧ s'.cur.rsp.read a = s.cur.rsp.read a ∧ s'.store.mem.read a = s.store.mem.read a) ∧
    (∀ k, k ≠ .control → s'.cur.fpsr k = s.cur.fpsr k) ∧
    (s'.cur.fpsr .control).extractLsb' 5 3 = (s.cur.fpsr .control).extractLsb' 5 3 ∧
    s'.cur = { s.cur with ctl := s'.cur.ctl, strand := s'.cur.strand, sys := { s.cur.sys with fpsr := s'.cur.sys.fpsr } } ∧
    (∀ k, k ≠ .control → s'.cur.str k = s.cur.str k) ∧
    s'.cur.ctl.spill = s.cur.ctl.spill ∧ s'.cur.ctl.sspill = s.cur.ctl.sspill
namespace Sys2Proof.Claims
open Sys2Proof Sys2Proof.Machine

/-- The bytes of a load of kind code 0-6, extended to 64 bits: unsigned for 0, 2, 4 and signed for 1, 3, 5 (Table 4-11). -/
def extended (kind v : Nat) : W64 :=
  let n := kindSize kind
  if kind = 1 ∨ kind = 3 ∨ kind = 5 then BitVec.ofInt 64 ((BitVec.ofNat (8 * n) v).toInt) else BitVec.ofNat 64 v

/-- The tile after a branch at the head of the queue has issued with a target inside the code store, or not taken. -/
def branched (t : Tile) (tgt : Option W64) : Tile :=
  let skip := match t.fetch.branch with | some b => b.skip | none => 0
  let b : PendingBranch := { line := t.pcOf .control &&& ~~~31, skip := skip, issued := some (t.tcc, tgt) }
  if t.isSup then { t with sfetch := { t.sfetch with branch := some b } } else { t with fetch := { t.fetch with branch := some b } }

/-- The line address of the instruction at the head of the control queue, moved by a number of lines. -/
def lineAfter (t : Tile) (n : Int) : W64 := BitVec.ofInt 64 (((t.pcOf .control).toNat / 32 * 32 : Nat) + n * 32)

/-- The registers that user mode reads, with their values (Table 11-3). -/
def userRegs (s : State) : List (BitVec 12 × W64) :=
  let t := s.cur
  [(0x000, s.tileId s.here), (0x001, t.sys.ltile), (0x002, t.sys.gshape), (0x010, s.fcc), (0x011, t.tcc),
   (0x018, (t.fpsr .control).setWidth 64), (0x019, (t.fpsr .vector).setWidth 64), (0x01A, (t.fpsr .load).setWidth 64),
   (0x01B, (t.fpsr .store).setWidth 64), (0x01C, (t.fpsr .matrix).setWidth 64), (0x01D, (t.fpsr .transform).setWidth 64),
   (0x01E, (t.fpsr .send).setWidth 64), (0x01F, (t.fpsr .receive).setWidth 64), (0x003, t.ixOf .control 0), (0x004, t.ixOf .control 1),
   (0x005, t.ixOf .control 2), (0x006, t.ixOf .control 3), (0x007, t.ixOf .control 4), (0x008, t.ixOf .control 5)]

/-- The registers that supervisor mode reads besides, with their values, but FREPLY and WDATA (Table 11-3). -/
def supRegs (s : State) : List (BitVec 12 × W64) :=
  let t := s.cur
  [(0x100, t.sys.cause), (0x101, t.sys.fstrand.setWidth 64), (0x102, t.sys.fpc), (0x103, t.sys.faddr), (0x104, t.sys.epc),
   (0x105, t.sys.fetchpc), (0x106, t.sys.fpend.setWidth 64), (0x108, t.ctx.setWidth 64), (0x110, t.sys.epc), (0x118, t.stoppedWord),
   (0x120, t.sys.wsel), (0x190, (s.pods[podOf s.here]).mode.setWidth 64), (0x1A0, t.sys.tracectl), (0x1A1, t.sys.tracebase),
   (0x1A2, t.sys.tracewp), (0x1A3, t.sys.tracerp), (0x1B0, t.sys.saverec), (0x109, 0), (0x111, t.userPc .vector), (0x112, t.userPc .load),
   (0x113, t.userPc .store), (0x114, t.userPc .matrix), (0x115, t.userPc .transform), (0x116, t.userPc .send),
   (0x117, t.userPc .receive)]

/-- The registers of Sys that supervisor mode writes, each with what a write of v leaves (Table 11-3). -/
def sysWrites (v : W64) : List (BitVec 12 × (Sys → Sys)) :=
  [(0x100, fun y => { y with cause := v &&& 0xFFFFFFFF }), (0x101, fun y => { y with fstrand := v.setWidth 3 }),
   (0x102, fun y => { y with fpc := v }), (0x103, fun y => { y with faddr := v }), (0x104, fun y => { y with epc := v &&& ~~~3 }),
   (0x105, fun y => { y with fetchpc := v &&& ~~~31 }), (0x106, fun y => { y with fpend := y.fpend &&& ~~~(v.setWidth 8) }),
   (0x110, fun y => { y with epc := v &&& ~~~3 }), (0x120, fun y => { y with wsel := v &&& 0xFFFF0000FFFFFFFF }), (0x1A0, fun y => { y with tracectl := v &&& 0x1FFFF }),
   (0x1A1, fun y => { y with tracebase := v &&& ~~~63 }), (0x1A3, fun y => { y with tracerp := v })]

/-- Registers that no mode writes, and those that are read-only in supervisor mode: their writes are discarded. -/
def userReadOnly : List (BitVec 12) := [0x000, 0x001, 0x002, 0x003, 0x004, 0x005, 0x006, 0x007, 0x008, 0x010, 0x011]
def supReadOnly : List (BitVec 12) := [0x108, 0x118, 0x1A2, 0x1B0]

end Sys2Proof.Claims

/-! ## Control: spill, scratchpad, channels, branches, events and system forms (05_control.md, 11_context.md) -/

/-- R118, R41: spl and sps reach the spill slots of the mode; a slot beyond the bank raises SPILL-RANGE and is not accessed. -/
def Sys2Proof.Claims.SpillSlotsReadAndWrite : Prop :=
  ∀ s r p (i : BitVec 9), (s.seen .control).guard p 0 = true →
    let t := s.seen .control
    (s.cur.isSup = false → i.toNat < s.cur.ctl.spillN →
      exec (.spl r p i) s = s.yields .control (t.setS r s.cur.ctl.spill[i.toNat]) ∧
      exec (.sps r p i) s = s.yields .control { t with ctl := { t.ctl with spill := t.ctl.spill.set i.toNat (s.cur.s r) } }) ∧
    (∀ h : i.toNat < 64, s.cur.isSup = true →
      exec (.spl r p i) s = s.yields .control (t.setS r s.cur.ctl.sspill[i.toNat]) ∧
      exec (.sps r p i) s = s.yields .control { t with ctl := { t.ctl with sspill := t.ctl.sspill.set i.toNat (s.cur.s r) } }) ∧
    ((s.cur.isSup = false ∧ s.cur.ctl.spillN ≤ i.toNat) ∨ (s.cur.isSup = true ∧ 64 ≤ i.toNat) →
      exec (.spl r p i) s = .next (s.fault s.here .control { code := 0x06 }) ∧
      exec (.sps r p i) s = .next (s.fault s.here .control { code := 0x06 }))

/-- R33, R119, R120: lsp delivers the bytes as they stand before the TC's writes, extended, to $l four counts later; ssp writes the low bytes of s[b] and no other byte; a misaligned offset, a
claimed bank group and, for ssp, the barrier region fault and leave memory alone. -/
def Sys2Proof.Claims.ScratchpadScalarAccess : Prop :=
  (∀ s (k : BitVec 3) l a p i x, (s.seen .control).guard p 0 = true → k.toNat < 7 →
    let off := (s.cur.s a + imm13 i x).toNat % 2 ^ 21
    let n := kindSize k.toNat
    (off % n = 0 → s.cur.claimed off n = false →
      exec (.lsp k l a p i x) s =
        s.yields .control ((s.seen .control).pend 4 (.l l) (Claims.extended k.toNat (s.cur.spad0.readN off n)) 0)) ∧
    (off % n ≠ 0 →
      exec (.lsp k l a p i x) s = .next (s.fault s.here .control { code := 0x05, faddr := BitVec.ofNat 64 off })) ∧
    (off % n = 0 → s.cur.claimed off n = true →
      exec (.lsp k l a p i x) s = .next (s.fault s.here .control { code := 0x08, faddr := BitVec.ofNat 64 off }))) ∧
  (∀ s b a p (z : BitVec 2) (i : BitVec 11), (s.seen .control).guard p 0 = true →
    let off := (s.cur.s a + i.signExtend 64).toNat % 2 ^ 21
    let n := 2 ^ z.toNat
    (off % n = 0 → off < 0x1FF000 → s.cur.claimed off n = false → s.cur.spad.wf = true →
      ∃ m : Memory, exec (.ssp b a p z i) s = s.yields .control { (s.seen .control) with spad := m } ∧ m.wf = true ∧
        (∀ y, off ≤ y → y < off + n → m.read y = BitVec.ofNat 8 ((s.cur.s b).toNat / 256 ^ (y - off))) ∧
        ∀ y, y < off ∨ off + n ≤ y → m.read y = s.cur.spad.read y) ∧
    (off % n ≠ 0 →
      exec (.ssp b a p z i) s = .next (s.fault s.here .control { code := 0x05, faddr := BitVec.ofNat 64 off })) ∧
    (off % n = 0 → 0x1FF000 ≤ off →
      exec (.ssp b a p z i) s = .next (s.fault s.here .control { code := 0x0C, faddr := BitVec.ofNat 64 off })) ∧
    (off % n = 0 → off < 0x1FF000 → s.cur.claimed off n = true →
      exec (.ssp b a p z i) s = .next (s.fault s.here .control { code := 0x08, faddr := BitVec.ofNat 64 off })))

/-- R122, R123, R43: pop takes the head of a FIFO that was there before this TC, or the next word of a control-bound vector stream; push appends while
there are fewer than 16 entries. -/
def Sys2Proof.Claims.ChannelsPopAndPush : Prop :=
  (∀ s d (q : Fin 4) p n e rest, (s.seen .control).guard p n = true → s.cur.fifo.qs[q] = e :: rest → e.ready = true → e.born ≠ s.cur.tcc →
    exec (.popStream d (BitVec.ofNat 5 (4 + q.val)) p n) s = s.yields .control
      (({ (s.seen .control) with fifo := { s.cur.fifo with qs := s.cur.fifo.qs.set q rest } } : Tile).setS d e.val)) ∧
  (∀ s d (q : Fin 4) p n e rest, (s.seen .control).guard p n = true → s.cur.fifo.qv[q] = e :: rest → e.ready = true →
    e.born ≠ s.cur.tcc → (s.cur.ld.stream[q.val]).control = true →
    let i := s.cur.fifo.qpos[q]
    exec (.popStream d (BitVec.ofNat 5 q.val) p n) s = s.yields .control
      (({ (s.seen .control) with fifo :=
          if i + 1 < 64 then { s.cur.fifo with qpos := s.cur.fifo.qpos.set q (i + 1) }
          else { s.cur.fifo with qpos := s.cur.fifo.qpos.set q 0, qv := s.cur.fifo.qv.set q rest } } : Tile).setS d
        (e.val.extractLsb' (64 * i) 64))) ∧
  (∀ s d (q : Fin 4) p n, (s.seen .control).guard p n = true → (s.cur.ld.stream[q.val]).control = false →
    exec (.popStream d (BitVec.ofNat 5 q.val) p n) s = .next (s.fault s.here .control { code := 0x07 })) ∧
  (∀ s d (c : Fin 2) p n e rest, (s.seen .control).guard p n = true → s.cur.fifo.e[c] = e :: rest → e.ready = true → e.born ≠ s.cur.tcc →
    exec (.popChannel d (BitVec.ofNat 5 c.val) p n) s = s.yields .control
      (({ (s.seen .control) with fifo := { s.cur.fifo with e := s.cur.fifo.e.set c rest } } : Tile).setS d e.val)) ∧
  (∀ s d (q : Fin 4) (c : Fin 2) p n, (s.seen .control).guard p n = true →
    (s.cur.fifo.qs[q] = [] → exec (.popStream d (BitVec.ofNat 5 (4 + q.val)) p n) s = .next s) ∧
    (s.cur.fifo.e[c] = [] → exec (.popChannel d (BitVec.ofNat 5 c.val) p n) s = .next s)) ∧
  (∀ s a p n, (s.seen .control).guard p n = true →
    let ent : Ent W64 := { val := s.cur.s a, ready := true, born := s.cur.tcc, tag := 0 }
    (∀ c : Fin 5, (s.cur.fifo.k[c].length < 16 → exec (.pushK a (BitVec.ofNat 5 c.val) p n) s = s.yields .control
        { (s.seen .control) with fifo := { s.cur.fifo with k := s.cur.fifo.k.set c (s.cur.fifo.k[c] ++ [ent]) } }) ∧
      (16 ≤ s.cur.fifo.k[c].length → exec (.pushK a (BitVec.ofNat 5 c.val) p n) s = .next s)) ∧
    (∀ c : Fin 2, (s.cur.fifo.os[c].length < 16 → exec (.pushO a (BitVec.ofNat 5 (4 + c.val)) p n) s = s.yields .control
        { (s.seen .control) with fifo := { s.cur.fifo with os := s.cur.fifo.os.set c (s.cur.fifo.os[c] ++ [ent]) } }) ∧
      (16 ≤ s.cur.fifo.os[c].length → exec (.pushO a (BitVec.ofNat 5 (4 + c.val)) p n) s = .next s)) ∧
    (∀ c : Fin 2, (s.cur.fifo.j[c].length < 16 → exec (.pushJ a (BitVec.ofNat 5 c.val) p n) s = s.yields .control
        { (s.seen .control) with fifo := { s.cur.fifo with j := s.cur.fifo.j.set c (s.cur.fifo.j[c] ++ [ent]) } }) ∧
      (16 ≤ s.cur.fifo.j[c].length → exec (.pushJ a (BitVec.ofNat 5 c.val) p n) s = .next s)))

/-- R41, R43, R118, R119, R120, R122, R123: the control strand's spill slots, its scalar accesses of the scratchpad, and its pops and pushes
of FIFOs. -/
def Obligations.SlotsScratchpadAndChannels : Prop :=
  Claims.SpillSlotsReadAndWrite ∧ Claims.ScratchpadScalarAccess ∧ Claims.ChannelsPopAndPush

/-- R78, R79, R124: a branch issues with its target, or not taken under a false guard; call and jrl write the return line address; a misaligned register
target raises MISALIGNED without branching; three TCs later the branch resolves, and fetch goes on at the target or at the next line. -/
def Obligations.BranchesRedirectFetch : Prop :=
  (∀ s p n (d : BitVec 22), (s.seen .control).guard p n = true →
    (Claims.lineAfter s.cur d.toInt).toNat / 32 < s.codeLines s.cur →
    exec (.br p n d) s = s.yields .control (Claims.branched (s.seen .control) (some (Claims.lineAfter s.cur d.toInt))) ∧
    exec (.call p n d) s = s.yields .control
      ((Claims.branched (s.seen .control) (some (Claims.lineAfter s.cur d.toInt))).setS 31 (Claims.lineAfter s.cur 1))) ∧
  (∀ s p n d a, (s.seen .control).guard p n = true → (s.cur.s a).toNat % 32 = 0 → (s.cur.s a).toNat / 32 < s.codeLines s.cur →
    exec (.jr a p n) s = s.yields .control (Claims.branched (s.seen .control) (some (s.cur.s a))) ∧
    exec (.jrl d a p n) s = s.yields .control
      ((Claims.branched (s.seen .control) (some (s.cur.s a))).setS d (Claims.lineAfter s.cur 1))) ∧
  (∀ s p n d a, (s.seen .control).guard p n = true → (s.cur.s a).toNat % 32 ≠ 0 →
    exec (.jr a p n) s = .next (s.fault s.here .control { code := 0x05, faddr := s.cur.s a }) ∧
    exec (.jrl d a p n) s = .next (s.fault s.here .control { code := 0x05, faddr := s.cur.s a })) ∧
  (∀ s p n d a (disp : BitVec 22), (s.seen .control).guard p n = false →
    exec (.br p n disp) s = s.yields .control (Claims.branched (s.seen .control) none) ∧
    exec (.call p n disp) s = s.yields .control (Claims.branched (s.seen .control) none) ∧
    exec (.jr a p n) s = s.yields .control (Claims.branched (s.seen .control) none) ∧
    exec (.jrl d a p n) s = s.yields .control (Claims.branched (s.seen .control) none)) ∧
  (∀ s t b c tgt, (s.tile t).isSup = false → (s.tile t).fetch.branch = some b → b.issued = some (c, some tgt) →
    3 ≤ ((s.tile t).tcc - c).toNat →
    ∃ s', exec (.branchResolve t) s = .next s' ∧ (s'.tile t).fetch.branch = none ∧ (s'.tile t).fetch.addr = tgt ∧
      (s'.tile t).fetch.notBefore = (s.tile t).tcc + 1) ∧
  (∀ s t b c, (s.tile t).isSup = false → (s.tile t).fetch.branch = some b → b.issued = some (c, none) →
    3 ≤ ((s.tile t).tcc - c).toNat → (∀ l ∈ (s.tile t).fetch.level, l.active = false) →
    ∃ s', exec (.branchResolve t) s = .next s' ∧ (s'.tile t).fetch.branch = none ∧
      (s'.tile t).fetch.addr = BitVec.ofNat 64 (32 * (b.line.toNat / 32 + b.skip + 1)) ∧
      (s'.tile t).fetch.notBefore = (s.tile t).tcc + 1)

/-- R126, R127: evset, evclr and evtst send an operation to the Hearth, which performs the oldest: a bit is set, cleared, or returned to the register that evtst
named, whose strand then goes on. -/
def Obligations.EventsReachTheHearth : Prop :=
  (∀ s e, exec (.evset e) s =
    .next (({ s with events := s.events ++ [.set s.cur.ctx s.cur.launch e] } : State).leaves .control (s.seen .control))) ∧
  (∀ s e, exec (.evclr e) s =
    .next (({ s with events := s.events ++ [.clear s.cur.ctx s.cur.launch e] } : State).leaves .control (s.seen .control))) ∧
  (∀ s d e, exec (.evtst d e) s =
    .next (({ s with events := s.events ++ [.test s.cur.ctx s.here s.cur.isSup e] } : State).leaves .control
      ((s.seen .control).setWait (some (.event d))))) ∧
  (∀ s c l e rest, s.events = .set c l e :: rest →
    ∃ s', exec .eventPerform s = .next s' ∧ s'.events = rest ∧
      (∀ i, i < 256 → (s'.ctx c).events.getLsbD i = ((s.ctx c).events.getLsbD i || decide (i = e.toNat))) ∧
      (∀ c', c' ≠ c → s'.ctx c' = s.ctx c') ∧ s'.tiles = s.tiles) ∧
  (∀ s c l e rest, s.events = .clear c l e :: rest →
    ∃ s', exec .eventPerform s = .next s' ∧ s'.events = rest ∧
      (∀ i, i < 256 → (s'.ctx c).events.getLsbD i = ((s.ctx c).events.getLsbD i && decide (i ≠ e.toNat))) ∧
      (∀ c', c' ≠ c → s'.ctx c' = s.ctx c') ∧ s'.tiles = s.tiles) ∧
  (∀ s c t e d rest, s.events = .test c t false e :: rest → (s.tile t).ctl.wait = some (.event d) →
    ∃ s', exec .eventPerform s = .next s' ∧ s'.events = rest ∧ s'.ctxs = s.ctxs ∧ (s'.tile t).ctl.wait = none ∧
      (s'.tile t).ctl.user = (s.tile t).ctl.user.put d (if (s.ctx c).events.getLsbD e.toNat then 1 else 0))

/-- R379, R128: a snapshot form sends its operation, with the operand read at issue, to the sequencer and holds the strand; qpost reads its 64-byte packet
at issue, faults where its queue is not granted to the context, and otherwise holds the strand until it is posted. -/
def Obligations.SequencedFormsHoldTheStrand : Prop :=
  (∀ s d a p n e rest, (s.seen .control).guard p n = true → s.cur.queueOf .control = e :: rest →
    let sent (form : Nat) : Out :=
      .next (({ s with snapOps := s.snapOps ++
          [{ ctx := s.cur.ctx, who := .tile s.here s.cur.isSup d, form := form, operand := s.cur.s a, rejecting := none }] } : State).leaves
        .control ((s.seen .control).setWait (some (.snapshot d e s.cur.bank (s.cur.fpsr .control)))))
    exec (.snap d a p n) s = sent 0 ∧ exec (.accept d a p n) s = sent 1 ∧ exec (.reject d a p n) s = sent 2 ∧
    exec (.snapq d a p n) s = sent 3) ∧
  (∀ s d a b p n, (s.seen .control).guard p n = true → (s.cur.s a).toNat % 64 = 0 →
    let o := (s.cur.s a).toNat % 2 ^ 21
    let x := s.queue (BitVec.ofNat 10 (s.cur.s b).toNat)
    s.cur.claimed o 64 = false →
    ((s.cur.s b).toNat < 1024 → x.granted = true → x.ctx = s.cur.ctx → (x.phase = .dead ∨ x.phase = .draining) →
      exec (.qpost d a b p n) s = s.yields .control ((s.seen .control).setWait
        (some (.qpost d (s.cur.s b).toNat (BitVec.ofNat 512 (s.cur.spad.readN o 64)) none s.fcc)))) ∧
    ((s.cur.s b).toNat < 1024 → x.granted = true → x.ctx = s.cur.ctx → (x.phase = .active ∨ x.phase = .paused) →
      (∃ y, s.translate x.ctx x.qcb .write false = .ok y) →
      exec (.qpost d a b p n) s = s.yields .control ((s.seen .control).setWait
        (some (.qpost d (s.cur.s b).toNat (BitVec.ofNat 512 (s.cur.spad.readN o 64)) none s.fcc)))) ∧
    (1024 ≤ (s.cur.s b).toNat ∨ x.granted = false ∨ x.ctx ≠ s.cur.ctx →
      exec (.qpost d a b p n) s = .next (s.fault s.here .control { code := 0x11, faddr := s.cur.s a })))

/-- R130, R265, R266 and Table 11-3: mfs reads every listed register as it stands, mts writes each as the table says, and a write to a read-only register is
discarded. -/
def Obligations.SystemRegistersReadAndWrite : Prop :=
  (∀ s d, ∀ r ∈ Claims.userRegs s, exec (.mfs d r.1) s = s.yields .control ((s.seen .control).setS d r.2)) ∧
  (∀ s d, s.cur.isSup = true → ∀ r ∈ Claims.supRegs s, exec (.mfs d r.1) s = s.yields .control ((s.seen .control).setS d r.2)) ∧
  (∀ s d, s.cur.isSup = true →
    exec (.mfs d 0x121) s = s.yields .control ((s.seen .control).windowNext.setS d (s.seen .control).windowRead)) ∧
  (∀ s a, s.cur.isSup = true → ∀ r ∈ Claims.sysWrites (s.cur.s a),
    exec (.mts a r.1) s = s.yields .control { (s.seen .control) with sys := r.2 (s.seen .control).sys }) ∧
  (∀ s a, ∀ r ∈ Claims.userReadOnly, exec (.mts a r) s = s.yields .control (s.seen .control)) ∧
  (∀ s a, s.cur.isSup = true → ∀ r ∈ Claims.supReadOnly, exec (.mts a r) s = s.yields .control (s.seen .control)) ∧
  (∀ s a k, s.cur.isSup = true → k ≠ .control →
    exec (.mts a (BitVec.ofNat 12 (0x110 + k.pos))) s = s.yields .control ((s.seen .control).modStr k fun st =>
      { st with pc := if st.stopped then s.cur.s a &&& ~~~3#64 else st.pc })) ∧
  (∀ s a k, k ≠ .control →
    exec (.mts a (BitVec.ofNat 12 (0x18 + k.pos))) s = s.yields .control ((s.seen .control).setFpsr k
      ((s.cur.fpsr k &&& 0xE0) ||| (s.cur.fpsr k &&& 0x1F &&& ~~~((s.cur.s a).setWidth 8))))) ∧
  (∀ s a, s.cur.bank.recs = [] →
    exec (.mts a 0x18) s = s.yields .control ((s.seen .control).setFpsr .control
      (((s.cur.s a).setWidth 8 &&& 0xC0) ||| (s.cur.fpsr .control &&& 0x20) |||
        (s.cur.fpsr .control &&& 0x1F &&& ~~~((s.cur.s a).setWidth 8)))))

/-- R130, R131, R132, R263, R264, R265: what the mode forbids.  In user mode eret, tstop, tgo and a register at 0x100 or above raise PRIVILEGED; a user
register address that is not listed, and in supervisor mode an address of 0x100 to 0xFFF that the map does not list, raise ILLEGAL-INSN. -/
def Obligations.PrivilegeIsChecked : Prop :=
  (∀ s, s.cur.isSup = false →
    exec .eret s = .next (s.fault s.here .control { code := 0x04 }) ∧
    (∀ a, exec (.tstop a) s = .next (s.fault s.here .control { code := 0x04 }) ∧
      exec (.tgo a) s = .next (s.fault s.here .control { code := 0x04 })) ∧
    ∀ d (r : BitVec 12), 0x100 ≤ r.toNat →
      exec (.mfs d r) s = .next (s.fault s.here .control { code := 0x04 }) ∧
      exec (.mts d r) s = .next (s.fault s.here .control { code := 0x04 })) ∧
  (∀ s d (r : BitVec 12), (8 < r.toNat ∧ r.toNat < 0x10) ∨ (0x11 < r.toNat ∧ r.toNat < 0x18) ∨ (0x1F < r.toNat ∧ r.toNat < 0x100) →
    exec (.mfs d r) s = .next (s.fault s.here .control { code := 0x01 }) ∧
    exec (.mts d r) s = .next (s.fault s.here .control { code := 0x01 })) ∧
  (∀ s d (r : BitVec 12), s.cur.isSup = true →
    r.toNat ∈ [0x10A, 0x10F, 0x119, 0x11F, 0x122, 0x18F, 0x191, 0x19F, 0x1A4, 0x1AF, 0x1B1, 0xFFF] →
    exec (.mfs d r) s = .next (s.fault s.here .control { code := 0x01 }) ∧
    exec (.mts d r) s = .next (s.fault s.here .control { code := 0x01 }))
namespace Sys2Proof.Claims
open Sys2Proof Sys2Proof.Machine

/-- The CAUSE word of a fault: code [7:0], sub-code [15:8], TCODE [29:16] (Table 11-4). -/
def causeWord (code sub tcode : Nat) : W64 := BitVec.ofNat 64 (code + sub * 0x100 + tcode * 0x10000)

/-- What trap entry from tile t, reporting strand k with the fault w, leaves in u: R257's saved registers and where the handler starts. -/
def Entered (t u : Tile) (k : Strand) (w : FaultWin) : Prop :=
  u.phase = .trapped ∧ u.sys.cause = w.cause ∧ u.sys.fstrand = BitVec.ofNat 3 k.pos ∧ u.sys.fpc = w.fpc ∧ u.sys.faddr = w.faddr ∧
  u.sfetch.addr = 0 ∧ u.sfetch.ended = false ∧ u.sfetch.notBefore = t.tcc + 7 ∧ u.ctl.squeue = [] ∧
  u.ctl.user = t.ctl.user ∧ u.ctl.ubank = t.ctl.ubank ∧ u.regs = t.ctl.sup ∧ u.bank = t.ctl.sbank ∧
  u.spad = t.spad ∧ u.rsp = t.rsp ∧ u.fifo = t.fifo ∧ u.sync = t.sync ∧ u.sys.fpsr = t.sys.fpsr

end Sys2Proof.Claims

/-! ## Traps, returns and strand control (11_context.md) -/

/-- R257, R258, R259, R40: trap entry saves CAUSE, FSTRAND, FPC, FADDR, EPC and FETCHPC, moves the tile to TRAPPED with the supervisor's registers and latch
bank, sends the handler to supervisor line 0 eight TCs later, and records the other faults that reached the boundary in FPEND; a boundary reports the
lowest strand. -/
def Obligations.TrapEntrySavesAndRedirects : Prop :=
  (∀ (t : Tile) (k : Strand), t.isSup = false →
    Claims.Entered t (t.trapEntry k) k (t.str k).fault ∧
    ((t.str .control).halted = true → (t.trapEntry k).sys.epc = (t.str .control).pc) ∧
    (∀ e rest, (t.str .control).halted = false → (t.str .control).queue = e :: rest → (t.trapEntry k).sys.epc = e.pc) ∧
    ((t.fetch.branch = none ∨ ∃ b, t.fetch.branch = some b ∧ b.issued = none) → (t.trapEntry k).sys.fetchpc = t.fetch.addr) ∧
    (∀ b c tgt, t.fetch.branch = some b → b.issued = some (c, some tgt) → (t.trapEntry k).sys.fetchpc = tgt) ∧
    (∀ j, (t.trapEntry k).sys.fpend.getLsbD j.pos = (t.sys.fpend.getLsbD j.pos || (j != k && (t.str j).reached.isSome))) ∧
    (∀ j, ((t.trapEntry k).str j).reached = none ∧ ((t.trapEntry k).str j).queue = (t.str j).queue ∧
      ((t.trapEntry k).str j).count = (t.str j).count ∧ ((t.trapEntry k).str j).stopped = (t.str j).stopped)) ∧
  (∀ (s : State) n (k : Strand), (s.tile n).phase = .running → ((s.tile n).str k).reached.isSome = true →
    (∀ j, ((s.tile n).str j).reached.isSome = true → k.pos ≤ j.pos) →
    exec (.trapEntry n) s = .next (s.setTile n (((s.tile n).traceEntry s.fcc).trapEntry k)))

/-- R99, R257, R259, R260: a fault leaves its instruction unexecuted and in its queue.  A strand other than control stops there with its fault window
written, and the fault waits for the control strand, or sets FPEND while the handler runs; a fault of user control is taken (at once: DEDUCED, log
entry 5), with EPC naming the faulting instruction; one of the supervisor kills a LIVE context with NESTED. -/
def Obligations.FaultStopsTheStrand : Prop :=
  (∀ (s : State) (k : Strand) f e rest, k ≠ .control → ((s.cur).str k).queue = e :: rest →
    let s' := s.fault s.here k f
    (∀ n, n ≠ s.here → s'.tile n = s.tile n) ∧ s'.store = s.store ∧ s'.ctxs = s.ctxs ∧
    (s'.cur.str k).queue = e :: rest ∧ (s'.cur.str k).stopped = true ∧ (s'.cur.str k).pc = e.pc ∧
    (s'.cur.str k).fault = { cause := f.word, fpc := e.pc, faddr := f.faddr } ∧
    (s'.cur.str k).count = (s.cur.str k).count ∧ s'.cur.spad = s.cur.spad ∧ s'.cur.rsp = s.cur.rsp ∧ s'.cur.phase = s.cur.phase ∧
    (s.cur.isSup = false → (s'.cur.str k).reached = some s.cur.tcc ∧ s'.cur.sys.fpend = s.cur.sys.fpend) ∧
    (s.cur.isSup = true → s'.cur.sys.fpend.getLsbD k.pos = true)) ∧
  (∀ (s : State) f e rest, s.cur.isSup = false → (s.cur.str .control).queue = e :: rest → (s.cur.str .control).halted = false →
    let s' := s.fault s.here .control f
    Claims.Entered s.cur s'.cur .control { cause := f.word, fpc := e.pc, faddr := f.faddr } ∧ s'.cur.sys.epc = e.pc ∧
    (s'.cur.str .control).queue = e :: rest ∧ (s'.cur.str .control).count = (s.cur.str .control).count ∧
    (∀ n, n ≠ s.here → s'.tile n = s.tile n) ∧ s'.store = s.store) ∧
  (∀ (s : State) f, s.cur.isSup = true → (s.ctx s.cur.ctx).phase = .live →
    let s' := s.fault s.here .control f
    (s'.ctx s.cur.ctx).phase = .killing ∧ (s'.ctx s.cur.ctx).cause = 0xF4) ∧
  (∀ code sub tcode faddr, code < 256 → sub < 256 → tcode < 0x4000 →
    Trap.word { code := code, sub := sub, tcode := tcode, faddr := faddr } = Claims.causeWord code sub tcode)

/-- R262, R131: trap raises SOFTWARE-TRAP with its code in TCODE and the next instruction in EPC; the trap itself has retired. -/
def Sys2Proof.Claims.SoftwareTrapEnters : Prop :=
  ∀ (s : State) p (i : BitVec 13) e1 e2 rest, s.cur.isSup = false → (s.seen .control).guard p 0 = true →
    (s.cur.str .control).queue = e1 :: e2 :: rest → (s.cur.str .control).halted = false →
    ∃ s', exec (.trap p i) s = .next s' ∧ s' = s.setTile s.here s'.cur ∧
      Claims.Entered (s.seen .control) s'.cur .control { cause := Claims.causeWord 0x30 0 i.toNat, fpc := e1.pc, faddr := 0 } ∧
      s'.cur.sys.epc = e2.pc ∧ (s'.cur.str .control).queue = e2 :: rest ∧
      (s'.cur.str .control).count = (s.cur.str .control).count + 1

/-- R131: the encoding of trap, which takes no extension; with its guard false it does nothing; in supervisor mode its fault is nested (R260). -/
def Sys2Proof.Claims.SoftwareTrapForm : Prop :=
  (∀ (w : W32) p (i : BitVec 13), decodeWord .control w [] false = .ok (.trap p i) ↔ w = 0x32#6 ++ 0#10 ++ p ++ i) ∧
  decodeWord .control 0xC8000015#32 [] false = .ok (.trap 0 21) ∧
  (∀ (p : BitVec 3) (i : BitVec 13) x rest, decodeWord .control (0x32#6 ++ 0#10 ++ p ++ i) (x :: rest) false = .error .illegalExt) ∧
  (∀ (s : State) p i, (s.seen .control).guard p 0 = false → exec (.trap p i) s = s.yields .control (s.seen .control)) ∧
  (∀ (s : State) p i, s.cur.isSup = true → (s.seen .control).guard p 0 = true →
    exec (.trap p i) s = .next (s.fault s.here .control { code := 0x30, tcode := i.toNat }))

/-- R263: eret returns the tile to RUNNING with the user's registers and latch bank, user control at EPC and user fetch at FETCHPC; with a fault pending
in FPEND it enters the handler again for the lowest pending strand, and EPC is unchanged;
it is encoded by one word, and user mode may not run it. -/
def Sys2Proof.Claims.EretResumesUserMode : Prop :=
  (∀ w : W32, decodeWord .control w [] false = .ok .eret ↔ w = 0xCC000000) ∧
  (∀ s : State, s.cur.isSup = false → exec .eret s = .next (s.fault s.here .control { code := 0x04 })) ∧
  ∀ s : State, s.cur.isSup = true →
    ∃ s', exec .eret s = .next s' ∧ s' = s.setTile s.here s'.cur ∧ s'.cur.ctl.user = s.cur.ctl.user ∧ s'.cur.ctl.ubank = s.cur.ctl.ubank ∧
      s'.cur.spad = s.cur.spad ∧ s'.cur.rsp = s.cur.rsp ∧ s'.cur.sys.epc = s.cur.sys.epc ∧
      (∀ k, k ≠ .control → (s'.cur.str k).stopped = (s.cur.str k).stopped ∧ (s'.cur.str k).queue = (s.cur.str k).queue) ∧
      (s.cur.sys.fpend = 0 →
        s'.cur.phase = .running ∧ s'.cur.fetch.addr = s.cur.sys.fetchpc ∧ s'.cur.fetch.level = s.cur.fetch.level ∧
        s'.cur.regs = s.cur.ctl.user ∧ s'.cur.bank = s.cur.ctl.ubank ∧
        ((s.cur.str .control).halted = false →
          (s'.cur.str .control).queue = (s.cur.str .control).queue.dropWhile fun e => e.pc != s.cur.sys.epc)) ∧
      (∀ k : Strand, s.cur.sys.fpend.getLsbD k.pos = true → (∀ j : Strand, s.cur.sys.fpend.getLsbD j.pos = true → k.pos ≤ j.pos) →
        s'.cur.phase = .trapped ∧ s'.cur.sys.fstrand = BitVec.ofNat 3 k.pos ∧ s'.cur.sys.cause = (s.cur.str k).fault.cause ∧
        s'.cur.sfetch.addr = 0)

/-- R131, R262, R263: trap enters the handler with its code, and eret returns to user mode, or enters the handler again for a pending fault. -/
def Obligations.SoftwareTrapAndReturn : Prop :=
  Claims.SoftwareTrapEnters ∧ Claims.SoftwareTrapForm ∧ Claims.EretResumesUserMode

/-- R132, R264: eret, tstop and tgo are encoded with every other field zero and are PRIVILEGED in user mode; tstop stops the strands that
s[a][7:0] names, bit k naming position k, tgo lets those that are stopped and not halted go on from their PC registers, and bit 0 raises
ILLEGAL-INSN; other strands are as before. -/
def Obligations.TstopAndTgoActOnNamedStrands : Prop :=
  (∀ w : W32, decodeWord .control w [] false = .ok .eret ↔ w = 0x33#6 ++ 0#26) ∧
  (∀ (w : W32) a, (decodeWord .control w [] false = .ok (.tstop a) ↔ w = 0x34#6 ++ 0#5 ++ a ++ 0#16) ∧
    (decodeWord .control w [] false = .ok (.tgo a) ↔ w = 0x35#6 ++ 0#5 ++ a ++ 0#16)) ∧
  Strand.all.map Strand.pos = [0, 1, 2, 3, 4, 5, 6, 7] ∧
  Strand.all = [.control, .vector, .load, .store, .matrix, .transform, .send, .receive] ∧
  (∀ (s : State) a, s.cur.isSup = false →
    exec .eret s = .next (s.fault s.here .control { code := 0x04 }) ∧
    exec (.tstop a) s = .next (s.fault s.here .control { code := 0x04 }) ∧
    exec (.tgo a) s = .next (s.fault s.here .control { code := 0x04 })) ∧
  ∀ (s : State) a, s.cur.isSup = true →
    ((s.cur.s a).getLsbD 0 = true →
      exec (.tstop a) s = .next (s.fault s.here .control { code := 0x01 }) ∧
      exec (.tgo a) s = .next (s.fault s.here .control { code := 0x01 })) ∧
    ((s.cur.s a).getLsbD 0 = false →
      (((s.cur.s a).getLsbD 3 = false ∨ s.cur.storeBusy = false) →
        ∃ u, exec (.tstop a) s = s.yields .control u ∧
          u = { (s.seen .control) with strand := u.strand } ∧
          ∀ k : Strand, u.str k =
            if (s.cur.s a).getLsbD k.pos ∧ (s.cur.str k).halted = false ∧ (s.cur.str k).stopped = false
            then { s.cur.str k with stopped := true, pc := s.cur.pcOf k } else s.cur.str k) ∧
      ((s.cur.s a).getLsbD 3 = true → s.cur.storeBusy = true →
        ∃ u, exec (.tstop a) s = .next (s.setTile s.here u) ∧ (u.str .control).queue = (s.cur.str .control).queue ∧
          ∀ k : Strand, k ≠ .store → k ≠ .control → (s.cur.s a).getLsbD k.pos = true → (s.cur.str k).halted = false →
            (u.str k).stopped = true) ∧
      ∃ u, exec (.tgo a) s = s.yields .control u ∧
        u = { (s.seen .control) with strand := u.strand } ∧
        ∀ k : Strand, u.str k =
          if (s.cur.s a).getLsbD k.pos ∧ (s.cur.str k).stopped = true ∧ (s.cur.str k).halted = false
          then { s.cur.str k with stopped := false, reached := none,
                                  queue := (s.cur.str k).queue.dropWhile fun e => e.pc != (s.cur.str k).pc }
          else s.cur.str k)

/-- R342, R330, R346, R355, R133: the common operations.  wait takes its count from the semaphore or holds; sig of the control and command strands adds,
saturating; fwait and rawait hold until their count is there and change nothing; rrel of the control strand releases slots; an unconfigured ring raises
ILLEGAL-INSN; halt ends its strand. -/
def Sys2Proof.Claims.CommonSyncOperations : Prop :=
  (∀ (s : State) (i : BitVec 6) (c : BitVec 16),
    let k := s.strandHere
    let t := s.seen k
    (c.toNat ≤ t.sync.sem[i.toNat].toNat →
      exec (.wait i c) s = s.yields k { t with sync := { t.sync with sem := t.sync.sem.set i.toNat (t.sync.sem[i.toNat] - c) } }) ∧
    (t.sync.sem[i.toNat].toNat < c.toNat → exec (.wait i c) s = .next s) ∧
    (k ≠ .vector → k ≠ .load → k ≠ .store →
      exec (.sig i c) s = s.yields k
        { t with sync := { t.sync with
            sem := t.sync.sem.set i.toNat (BitVec.ofNat 16 (min (t.sync.sem[i.toNat].toNat + c.toNat) 65535)) } })) ∧
  (∀ (s : State) (i : BitVec 6) (c : BitVec 16) (h : i.toNat < 16),
    let k := s.strandHere
    let t := s.seen k
    (c.toNat ≤ t.sync.flag[i.toNat].toNat → exec (.fwait i c) s = s.yields k t) ∧
    (t.sync.flag[i.toNat].toNat < c.toNat → exec (.fwait i c) s = .next s) ∧
    (t.sync.ring[i.toNat] = none →
      exec (.rawait i c) s = .next (s.fault s.here k { code := 0x01 }) ∧ exec (.rrel i c) s = .next (s.fault s.here k { code := 0x01 })) ∧
    (∀ r, t.sync.ring[i.toNat] = some r →
      (c.toNat ≤ r.count → c.toNat ≤ r.fill → exec (.rawait i c) s = s.yields k t) ∧
      (c.toNat ≤ r.count → r.fill < c.toNat → exec (.rawait i c) s = .next s) ∧
      (r.count < c.toNat → exec (.rawait i c) s = .next (s.fault s.here k { code := 0x01 })) ∧
      (r.count < c.toNat ∨ r.fill < c.toNat → exec (.rrel i c) s = .next (s.fault s.here k { code := 0x01 })) ∧
      (c.toNat ≤ r.count → c.toNat ≤ r.fill → (k = .control ∨ k = .vector) →
        exec (.rrel i c) s = s.yields k { t with sync := { t.sync with
          ring := t.sync.ring.set i.toNat (some { r with rp := (r.rp + c.toNat) % r.count, fill := r.fill - c.toNat }) } }))) ∧
  (∀ s : State, (s.strandHere ≠ .store ∨ (s.cur.st.pending = [] ∧ s.cur.st.hold = none)) →
    (s.cur.isSup = true → s.strandHere ≠ .control) →
    ∃ s', exec .halt s = .next s' ∧ (s'.cur.str s.strandHere).halted = true ∧ (s'.cur.str s.strandHere).queue = [] ∧
      (s'.cur.str s.strandHere).count = (s.cur.str s.strandHere).count + 1 ∧
      (s.strandHere = .control → s'.cur.bank.recs = []) ∧
      ∀ k, k ≠ s.strandHere → (s'.cur.str k).queue = (s.cur.str k).queue) ∧
  (∀ (s : State) t (k : Strand), (s.tile t).phase = .running → (s.tile t).fetch.ended = true → ((s.tile t).str k).queue = [] →
    ((s.tile t).str k).halted = false → ((s.tile t).str k).stopped = false → (s.tile t).ctl.wait = none →
    (k ≠ .store ∨ ((s.tile t).st.pending = [] ∧ (s.tile t).st.hold = none)) →
    ∃ s', exec (.fetchEndHalt t k) s = .next s' ∧ ((s'.tile t).str k).halted = true)

/-- R198, R162, R346: a sig of an access strand waits until the accesses issued before it are done and is then performed in order; a sig of the vector strand
waits until every older result is visible at every slice. -/
def Sys2Proof.Claims.DeferredSigsWaitForTheirWork : Prop :=
  (∀ (s : State) (i : BitVec 6) (c : BitVec 16), s.strandHere = .load → s.cur.ld.sigs = [] →
    (s.cur.ld.pending = [] → exec (.sig i c) s = s.yields .load (s.cur.semAdd i c)) ∧
    (∀ p rest, s.cur.ld.pending = p :: rest → p.seq < s.cur.ld.seq →
      exec (.sig i c) s = s.yields .load
        { s.cur with ld := { s.cur.ld with sigs := [{ rel := false, id := i, count := c, before := s.cur.ld.seq }] } })) ∧
  (∀ (s : State) (i : BitVec 6) (c : BitVec 16), s.strandHere = .vector →
    ((s.seen .vector).vec.recs = [] → (s.seen .vector).vec.late = [] →
      exec (.sig i c) s = s.yields .vector ((s.seen .vector).semAdd i c)) ∧
    (0 < (s.seen .vector).vec.settle →
      exec (.sig i c) s = s.yields .vector { (s.seen .vector) with vec := { (s.seen .vector).vec with
        recs := (s.seen .vector).vec.recs ++ [{ rem := (s.seen .vector).vec.settle, act := .sem i c }] } })) ∧
  (∀ (s : State) t g rest, (s.tile t).ld.sigs = g :: rest → g.rel = false → g.before ≤ (s.tile t).ld.oldest →
    (∀ h ∈ rest, (s.tile t).ld.oldest < h.before) →
    exec (.pendingSigPerform t .load) s =
      .next (s.setTile t { ((s.tile t).semAdd g.id g.count) with ld := { (s.tile t).ld with sigs := rest } }))

/-- R133, R162, R198, R330, R342, R346, R355: the common operations on semaphores, flags and rings, halt, and the sigs that wait for older
work. -/
def Obligations.CommonSyncForms : Prop :=
  Claims.CommonSyncOperations ∧ Claims.DeferredSigsWaitForTheirWork
namespace Sys2Proof.Claims
open Sys2Proof Sys2Proof.Machine

/-! ## The vector strand -/

/-- What an operation answers when it is done. -/
def gives {α : Type} : Res α → Option α
  | .done a => some a
  | _ => none

/-- The answer to a vector instruction with the effect `x` on its tile: its word also enters the wave (R29), and it has drawn free values. -/
def vIssue (s : State) (x : Tile) (draws : Nat := 0) : Out :=
  let t := s.seen .vector
  let word := match (t.str .vector).queue with | e :: _ => e.word | [] => 0
  .next (({ s with drawn := s.drawn + draws } : State).leaves .vector
    { x with vec := { x.vec with wave := x.vec.wave ++ [(word, (t.str .vector).count)] } })

/-- Element `i` of width `w` of a vector. -/
def elem (w i : Nat) (v : Vec) : Nat := v.toNat / 2 ^ (w * i) % 2 ^ w

/-- The operands of a vector form can be read, as va and vb: no code faults, the streams have their entries, and the destination has room. `bcast`
and `iota` are what a broadcast register and iota read. -/
def VReady (s : State) (cbx two : Bool) (iota : Vec) (bcast : W64 → Vec) (d a b : BitVec 6) (va vb : Vec) : Prop :=
  let t := s.seen .vector
  let win := s.hasWindow s.here
  gives (t.vcheck win (if two then [a, b] else [a]) [d]) = some () ∧ gives (t.vroom d) = some () ∧
  (two = true → gives (t.vread win iota bcast (nthB a b) b) = some vb) ∧
  gives (if cbx then t.vreadA win iota bcast a else t.vread win iota bcast 0 a) = some va

/-- V holds `f i` in every element that the mask includes and zero in the others, and F the flags of the included elements (R137, R67). -/
def Elementwise (ty : Ty) (mask : BitVec 128) (f : Nat → Nat × Num.Flags) (V : Vec) (F : Num.Flags) : Prop :=
  (∀ i < ty.num, elem ty.width i V = if mask.getLsbD (ty.maskBit i) then (f i).1 % 2 ^ ty.width else 0) ∧
  F = (List.range ty.num).foldl (fun acc i => acc ||| if mask.getLsbD (ty.maskBit i) then (f i).2 else 0) 0

/-- A typed form of two operands delivers `f` of its elements with latency `lat`. -/
def VectorBinary (mk : BitVec 6 → BitVec 6 → BitVec 6 → BitVec 3 → BitVec 2 → Instr) (cbx : Bool) (lat : Ty → Nat)
    (f : Tile → Ty → Nat → Nat → Nat × Num.Flags) : Prop :=
  ∀ (s : State) d a b m tyb va vb,
    let t := s.seen .vector
    let ty := Ty.ofBits tyb
    VReady s cbx true (iotaOf ty) (bcastOf (ty == .f64)) d a b va vb →
    ∃ V F, Elementwise ty (t.maskReg m) (fun i => f t ty (elem ty.width i va) (elem ty.width i vb)) V F ∧
      exec (mk d a b m tyb) s = vIssue s (((t.vpop a).vpop b).vdeliver (s.hasWindow s.here) d (lat ty) (laneEn ty (t.maskReg m)) V F)

/-- A typed form of one operand. -/
def VectorUnary (mk : BitVec 6 → BitVec 6 → BitVec 3 → BitVec 2 → Instr) (cbx : Bool) (lat : Ty → Nat)
    (f : Tile → Ty → Nat → Nat × Num.Flags) : Prop :=
  ∀ (s : State) d a m tyb va,
    let t := s.seen .vector
    let ty := Ty.ofBits tyb
    VReady s cbx false (iotaOf ty) (bcastOf (ty == .f64)) d a 0 va 0 →
    ∃ V F, Elementwise ty (t.maskReg m) (fun i => f t ty (elem ty.width i va)) V F ∧
      exec (mk d a m tyb) s = vIssue s ((t.vpop a).vdeliver (s.hasWindow s.here) d (lat ty) (laneEn ty (t.maskReg m)) V F)

/-- A fused form of two operands and the destination's prior value. -/
def VectorFused (mk : BitVec 6 → BitVec 6 → BitVec 6 → BitVec 3 → BitVec 2 → Instr)
    (fp : Num.Rm → Num.Val → Num.Val → Num.Val → Num.Val × Num.Flags) (int : W32 → W32 → W32 → W32) : Prop :=
  ∀ (s : State) d a b m tyb va vb r,
    let t := s.seen .vector
    let ty := Ty.ofBits tyb
    let rm := t.rm .vector
    VReady s true true (iotaOf ty) (bcastOf (ty == .f64)) d a b va vb → t.viewRow (s.hasWindow s.here) d.toNat = some r →
    ∃ V F, Elementwise ty (t.maskReg m) (fun i =>
        let x := elem ty.width i va
        let y := elem ty.width i vb
        let z := elem ty.width i (t.rowOf r)
        if ty = .i32 then ((int (BitVec.ofNat 32 x) (BitVec.ofNat 32 y) (BitVec.ofNat 32 z)).toNat, 0)
        else fout t.ftz ty.fmt rm (fp rm (fin t.ftz ty.fmt x) (fin t.ftz ty.fmt y) (fin t.ftz ty.fmt z))) V F ∧
      exec (mk d a b m tyb) s = vIssue s (((t.vpop a).vpop b).vdeliver (s.hasWindow s.here) d (latArith ty) (laneEn ty (t.maskReg m)) V F)

/-- varith: an FP operation with the strand's RM and FTZ, or 32-bit integers. -/
def arith (fp : Num.Rm → Num.Val → Num.Val → Num.Val × Num.Flags) (int : W32 → W32 → W32) (t : Tile) (ty : Ty) (x y : Nat) :
    Nat × Num.Flags :=
  if ty = .i32 then ((int (BitVec.ofNat 32 x) (BitVec.ofNat 32 y)).toNat, 0)
  else fout t.ftz ty.fmt (t.rm .vector) (fp (t.rm .vector) (fin t.ftz ty.fmt x) (fin t.ftz ty.fmt y))

/-- A function of R149: correctly rounded, flushed when the mode says so. -/
def func (g : Num.Fmt → Num.Rm → Num.Val → Nat × Num.Flags) (t : Tile) (ty : Ty) (x : Nat) : Nat × Num.Flags :=
  let r := g ty.fmt (t.rm .vector) (fin t.ftz ty.fmt x)
  if t.ftz then Num.flushOut ty.fmt r else r

/-- A form on whole vectors without flags. -/
def VectorBits (mk : BitVec 6 → BitVec 6 → BitVec 6 → BitVec 3 → BitVec 2 → Instr) (f : Vec → Vec → Vec) : Prop :=
  ∀ (s : State) d a b m tyb va vb,
    let t := s.seen .vector
    let ty := Ty.ofBits tyb
    VReady s false true (iotaOf ty) (bcastOf (ty == .f64)) d a b va vb →
    exec (mk d a b m tyb) s =
      vIssue s (((t.vpop a).vpop b).vdeliver (s.hasWindow s.here) d 2 (laneEn ty (t.maskReg m)) (f va vb) 0)

/-- A reduction: `op` combines neighbours level by level, the lower-numbered on the left (Table 3-11), an excluded element counting as `ident`; the
total goes to every element, whatever the mask. -/
def VectorReduction (mk : BitVec 6 → BitVec 6 → BitVec 3 → BitVec 2 → Instr) (el : Tile → Ty → Nat → Nat) (ident : Ty → Nat)
    (op : Tile → Ty → Nat → Nat → Nat × Num.Flags) : Prop :=
  ∀ (s : State) d a m tyb va,
    let t := s.seen .vector
    let ty := Ty.ofBits tyb
    VReady s false false (iotaOf ty) (bcastOf (ty == .f64)) d a 0 va 0 →
    let xs := (List.range ty.num).map fun i => if (t.maskReg m).getLsbD i then el t ty (elem ty.width i va) else ident ty
    let r := treeReduce (op t ty) (if ty = .f64 then 6 else 7) xs 0
    ∃ V, (∀ i < ty.num, elem ty.width i V = r.1 % 2 ^ ty.width) ∧
      exec (mk d a m tyb) s = vIssue s ((t.vpop a).vdeliver (s.hasWindow s.here) d 24 (BitVec.allOnes 128) V r.2)

/-- A vector-strand instruction that is no common operation. -/
def isVector : Instr → Bool
  | .vadd .. | .vsub .. | .vmul .. | .vmin .. | .vmax .. | .vabs .. | .vneg .. | .vmov .. | .vfma .. | .vfms .. | .vfnma .. | .vdot2 ..
  | .vand .. | .vor .. | .vxor .. | .vandn .. | .vshl .. | .vshr .. | .vsra .. | .vnot .. | .vcmp .. | .vsel .. | .vcvt .. | .vrcp ..
  | .vrsq .. | .vexp2 .. | .vlog2 .. | .vsinp .. | .vcosp .. | .vtanh .. | .vsqrt .. | .vsum .. | .vrmax .. | .vrmin .. | .vramax ..
  | .vrot .. | .vshuf .. | .vtapw .. | .vtapr .. | .vins .. | .vinsB .. | .vext .. | .vacr .. | .vacw .. | .cbld .. | .cbswap ..
  | .vcbx .. | .vmode .. | .vview .. | .vbamax .. | .vbscMx .. | .vbscSb8 .. | .vbscSb4 .. | .mand .. | .mor .. | .mxor .. | .mnot ..
  | .mpopc .. => true
  | _ => false

end Sys2Proof.Claims

/-! ## The vector strand (06_vector.md) -/

/-- R140, R141, R137: the arithmetic forms compute element by element on the included elements, with one rounding by the strand's RM and FTZ, or modulo
2^32; vmov copies bits.  The latency is 4, and 6 for FP64. -/
def Obligations.VectorArithmeticDelivers : Prop :=
  Claims.VectorBinary .vadd true latArith (Claims.arith Sys2Proof.Num.add fun x y => x + y) ∧
  Claims.VectorBinary .vsub true latArith (Claims.arith (fun rm x y => Sys2Proof.Num.add rm x y.flip) fun x y => x - y) ∧
  Claims.VectorBinary .vmul true latArith (Claims.arith (fun _ x y => Sys2Proof.Num.mul x y) fun x y => x * y) ∧
  Claims.VectorBinary .vmin true latArith
    (Claims.arith (fun _ x y => (Num.minNum x y, 0)) fun x y => if x.toInt < y.toInt then x else y) ∧
  Claims.VectorBinary .vmax true latArith
    (Claims.arith (fun _ x y => (Num.maxNum x y, 0)) fun x y => if x.toInt < y.toInt then y else x) ∧
  Claims.VectorUnary .vabs true latArith
    (fun t ty x => Claims.arith (fun _ x _ => (x.abs, 0)) (fun x _ => if x.toInt < 0 then 0 - x else x) t ty x 0) ∧
  Claims.VectorUnary .vneg true latArith (fun t ty x => Claims.arith (fun _ x _ => (x.flip, 0)) (fun x _ => 0 - x) t ty x 0) ∧
  Claims.VectorFused .vfma Num.fma (fun x y z => x * y + z) ∧
  Claims.VectorFused .vfms (fun rm x y z => Num.fma rm x y z.flip) (fun x y z => x * y - z) ∧
  Claims.VectorFused .vfnma (fun rm x y z => Num.fma rm x.flip y z) (fun x y z => z - x * y) ∧
  (∀ (s : State) d a m tyb va,
    let t := s.seen .vector
    let ty := Ty.ofBits tyb
    Claims.VReady s true false (iotaOf ty) (bcastOf (ty == .f64)) d a 0 va 0 →
    exec (.vmov d a m tyb) s =
      Claims.vIssue s ((t.vpop a).vdeliver (s.hasWindow s.here) d (latArith ty) (laneEn ty (t.maskReg m)) va 0)) ∧
  (∀ (s : State) d a b m va vb r,
    let t := s.seen .vector
    Claims.VReady s true true (iotaOf .bf16) (bcastOf false) d a b va vb → t.viewRow (s.hasWindow s.here) d.toNat = some r →
    ∃ V F, Claims.Elementwise .f32 (t.maskReg m) (fun i =>
        dot2 t.ftz (t.rm .vector) (Claims.elem 32 i va) (Claims.elem 32 i vb) (Claims.elem 32 i (t.rowOf r))) V F ∧
      exec (.vdot2 d a b m) s = Claims.vIssue s (((t.vpop a).vpop b).vdeliver (s.hasWindow s.here) d 4 (t.maskReg m) V F))

/-- R142, R143, R144, R161: bitwise forms, shifts by the count in the same element, compares into a mask, select by a mask, and the mask operations. -/
def Sys2Proof.Claims.VectorLogicAndMasksDeliver : Prop :=
  Claims.VectorBits .vand (fun x y => x &&& y) ∧ Claims.VectorBits .vor (fun x y => x ||| y) ∧
  Claims.VectorBits .vxor (fun x y => x ^^^ y) ∧ Claims.VectorBits .vandn (fun x y => x &&& ~~~y) ∧
  Claims.VectorBinary .vshl false (fun _ => 2) (fun _ ty x y => (x * 2 ^ (y % ty.width) % 2 ^ ty.width, 0)) ∧
  Claims.VectorBinary .vshr false (fun _ => 2) (fun _ ty x y => (x / 2 ^ (y % ty.width), 0)) ∧
  Claims.VectorBinary .vsra false (fun _ => 2)
    (fun _ ty x y => ((BitVec.ofInt ty.width ((BitVec.ofNat ty.width x).toInt / 2 ^ (y % ty.width))).toNat, 0)) ∧
  (∀ (s : State) d a m tyb va,
    let t := s.seen .vector
    let ty := Ty.ofBits tyb
    Claims.VReady s false false (iotaOf ty) (bcastOf (ty == .f64)) d a 0 va 0 →
    exec (.vnot d a m tyb) s =
      Claims.vIssue s ((t.vpop a).vdeliver (s.hasWindow s.here) d 2 (laneEn ty (t.maskReg m)) (~~~va) 0)) ∧
  (∀ (s : State) d a b m tyb va vb,
    let t := s.seen .vector
    let ty := Ty.ofBits tyb
    Claims.VReady s true true (iotaOf ty) (bcastOf (ty == .f64)) d a b va vb →
    exec (.vsel d a b m tyb) s = Claims.vIssue s (((t.vpop a).vpop b).vdeliver (s.hasWindow s.here) d 2 (BitVec.allOnes 128)
      (blend (laneEn ty (t.maskReg m)) va vb) 0)) ∧
  (∀ (s : State) md comb a b m tyb k va vb,
    let t := s.seen .vector
    let win := s.hasWindow s.here
    let ty := Ty.ofBits tyb
    let bc := bcastOf (ty == .f64)
    Claims.gives (t.vcheck win [a, b] []) = some () → Claims.gives (t.vread win (iotaOf ty) bc (nthB a b) b) = some vb →
    Claims.gives (t.vread win (iotaOf ty) bc 0 a) = some va →
    ∃ en v : BitVec 128,
      (∀ i < 128, en.getLsbD i = (decide (i < ty.num) && (t.maskReg m).getLsbD i)) ∧
      (∀ i < 128, v.getLsbD i =
        combine comb ((t.maskReg md).getLsbD i) (vcmpAt ty k (Claims.elem ty.width i va) (Claims.elem ty.width i vb))) ∧
      exec (.vcmp md comb a b m tyb k) s = Claims.vIssue s { ((t.vpop a).vpop b) with vec := { t.vec with
        recs := t.vec.recs ++ [{ rem := 2, act := .mask md en v }] } }) ∧
  (∀ (s : State) d a b,
    let t := s.seen .vector
    let res (v : BitVec 128) : Out := Claims.vIssue s { t with vec := { t.vec with
      recs := t.vec.recs ++ [{ rem := 1, act := .mask d (BitVec.allOnes 128) v }] } }
    exec (.mand d a b) s = res (t.maskReg a &&& t.maskReg b) ∧ exec (.mor d a b) s = res (t.maskReg a ||| t.maskReg b) ∧
    exec (.mxor d a b) s = res (t.maskReg a ^^^ t.maskReg b) ∧ exec (.mnot d a) s = res (~~~(t.maskReg a))) ∧
  (∀ (s : State) a,
    let t := s.seen .vector
    let tag := (t.str .vector).count
    let n := ((List.range 128).filter fun i => (t.maskReg a).getLsbD i).length
    (16 ≤ t.fifo.e[0].length → exec (.mpopc a) s = .next s) ∧
    (t.fifo.e[0].length < 16 → exec (.mpopc a) s = Claims.vIssue s { t with
      fifo := { t.fifo with e := t.fifo.e.set 0 (t.fifo.e[0] ++ [{ val := 0, ready := false, born := 0, tag := tag }]) },
      vec := { t.vec with recs := t.vec.recs ++ [{ rem := 16, act := .pushE 0 tag (BitVec.ofNat 64 n) }] } }))

/-- R145, R147, R148, R149, R150: conversions, block scales, functions and reductions, over the number functions of Numbers.lean.  (A block scale
of a negative amax under vbsc.mx is a free value: log entry 10.) -/
def Obligations.VectorFunctionsDeliver : Prop :=
  Claims.VectorUnary .vrcp false (fun ty => if ty = .f64 then 10 else 8)
    (Claims.func fun f _ x => Num.divRound f .rne false (Num.ofInt 1) x) ∧
  Claims.VectorUnary .vrsq false (fun _ => 8) (Claims.func fun f _ x => Num.rsqrtRound f x) ∧
  Claims.VectorUnary .vexp2 false (fun _ => 8) (Claims.func fun f _ x => Num.exp2Round f x) ∧
  Claims.VectorUnary .vlog2 false (fun _ => 8) (Claims.func fun f _ x => Num.log2Round f x) ∧
  Claims.VectorUnary .vsinp false (fun _ => 8) (Claims.func fun f _ x => Num.sinPiRound f x) ∧
  Claims.VectorUnary .vcosp false (fun _ => 8) (Claims.func fun f _ x => Num.cosPiRound f x) ∧
  Claims.VectorUnary .vtanh false (fun _ => 8) (Claims.func fun f _ x => Num.tanhRound f x) ∧
  Claims.VectorUnary .vsqrt false (fun ty => if ty = .f64 then 16 else 12) (Claims.func fun f rm x => Num.sqrtRound f rm x) ∧
  Claims.VectorReduction .vsum redIn (fun ty => if ty = .i32 then 0 else Num.signBit ty.fmt true)
    (fun t ty x y => if ty = .i32 then ((x + y) % 2 ^ 32, 0)
      else fout t.ftz ty.fmt (t.rm .vector) (Sys2Proof.Num.add (t.rm .vector) (fin t.ftz ty.fmt x) (fin t.ftz ty.fmt y))) ∧
  Claims.VectorReduction .vrmax redIn (fun ty => if ty = .i32 then 0x80000000 else ty.fmt.nan)
    (redPick Num.maxNum fun x y => decide (y.toInt ≤ x.toInt)) ∧
  Claims.VectorReduction .vrmin redIn (fun ty => if ty = .i32 then 0x7FFFFFFF else ty.fmt.nan)
    (redPick Num.minNum fun x y => decide (x.toInt ≤ y.toInt)) ∧
  Claims.VectorReduction .vramax
    (fun t ty x => if ty = .i32 then (if x < 2 ^ 31 then x else 2 ^ 32 - x) else redIn t ty x % 2 ^ (ty.width - 1)) (fun _ => 0)
    (redPick Num.maxNum fun x y => decide (y.toNat ≤ x.toNat)) ∧
  (∀ (s : State) d a (f ty : BitVec 5) r sat scl va,
    let t := s.seen .vector
    let n := if ccBits f.toNat = 64 ∨ ccBits ty.toNat = 64 then 64 else 128
    Claims.VReady s false false (ccIota f.toNat n) (bcastOf (ccBits f.toNat == 64)) d a 0 va 0 →
    ∃ V F, (∀ i < n, Claims.elem (ccBits ty.toNat) i V =
        (cvtElem f.toNat ty.toNat (Num.Rm.ofBits r) (sat == 1) (scl == 1) t.ftz
          (t.vec.b[if ccBlock f.toNat || ccBlock ty.toNat then i / 32 % 4 else 0]'(by split <;> omega))[0]
          (Claims.elem (ccBits f.toNat) i va)).1 % 2 ^ ccBits ty.toNat) ∧
      exec (.vcvt d a f ty r sat scl) s = Claims.vIssue s ((t.vpop a).vdeliver (s.hasWindow s.here) d
        (if ccBits f.toNat = ccBits ty.toNat then 4 else 20) (BitVec.allOnes 128) V F)) ∧
  (∀ (s : State) d a m va,
    let t := s.seen .vector
    Claims.VReady s false false (iotaOf .f32) (bcastOf false) d a 0 va 0 →
    ∃ V, (∀ i < 128, lane V i = BitVec.ofNat 32 (blockMax (t.maskReg m) va (i / 32))) ∧
      exec (.vbamax d a m) s = Claims.vIssue s ((t.vpop a).vdeliver (s.hasWindow s.here) d 8 (BitVec.allOnes 128) V 0)) ∧
  (∀ (s : State) a va,
    let t := s.seen .vector
    let win := s.hasWindow s.here
    Claims.gives (t.vcheck win [a] []) = some () → Claims.gives (t.vread win (iotaOf .f32) (bcastOf false) 0 a) = some va →
    let res (g : Nat → Nat → Nat) (draws : Nat) : Out := Claims.vIssue s { (t.vpop a) with vec := { t.vec with
      recs := t.vec.recs ++ (List.range 4).map fun k =>
        { rem := 20, act := .bcast (BitVec.ofNat 2 k) (BitVec.ofNat 64 (g k (lane va (32 * k)).toNat)) } } } draws
    exec (.vbscMx a) s = res (fun k x => scaleMx (Config.freeValue (s.drawn + k)) x) 4 ∧
    exec (.vbscSb8 a) s = res (fun _ x => scaleFor 448 x) 0 ∧ exec (.vbscSb4 a) s = res (fun _ x => scaleFor 6 x) 0)

/-- R151-R157, R159, R160: ring lanes, rotation, shuffle, inserts and extracts between the clusters, accumulator rows, views and the mode. -/
def Sys2Proof.Claims.VectorMovesDeliver : Prop :=
  (∀ (s : State) v (l : BitVec 4) x,
    let t := s.seen .vector
    let win := s.hasWindow s.here
    Claims.gives (t.vcheck win [v] []) = some () → Claims.gives (t.vread win 0 (bcastOf false) 0 v) = some x →
    exec (.vtapw v l) s = Claims.vIssue s { t with vec := { t.vec with
      taps := t.vec.taps ++ [{ lane := l, count := (t.str .vector).count, val := some x }] } }) ∧
  (∀ (s : State) v (l : BitVec 4) row,
    let t := s.seen .vector
    let now := (t.str .vector).count
    Claims.gives (t.vcheck (s.hasWindow s.here) [] [v]) = some () → t.viewRow (s.hasWindow s.here) v.toNat = some row →
    exec (.vtapr v l) s = Claims.vIssue s { t with vec := { t.vec with
      recs := t.vec.recs ++ [{ rem := 1, act := .tap row l now (tapRead t.vec.taps l now) }] } }) ∧
  (∀ (t : Tile) l,
    let now := (t.str .vector).count
    let u := t.takeLane l
    let lost (e : TapRead) : Prop := e.lane = l ∧ (now - e.count).toNat ≤ 31
    let blank (a : VAct) : VAct := match a with
      | .tap r k n v => .tap r k n (if k = l ∧ (now - n).toNat ≤ 31 then 0 else v)
      | _ => a
    u.vec.taps = t.vec.taps ++ [{ lane := l, count := now, val := none }] ∧ (∀ e, e ∈ u.vec.reads ↔ e ∈ t.vec.reads ∧ ¬ lost e) ∧
    u.vec.late = t.vec.late.map (fun x => { x with act := blank x.act }) ∧ u.vec.recs = t.vec.recs.map (fun x => { x with act := blank x.act }) ∧
    (t.rsp.wf = true →
      (∀ e ∈ t.vec.reads, lost e → ∀ i < 128, (t.reachedBy e).getLsbD i = true → lane (u.rsp.row e.row) i = 0) ∧
      (∀ q, ∀ i < 128, (∀ e ∈ t.vec.reads, lost e → e.row = q → (t.reachedBy e).getLsbD i = false) →
        lane (u.rsp.row q) i = lane (t.rsp.row q) i))) ∧
  (∀ (s : State) d a m r (k : BitVec 4) va, 48 ≤ d.toNat →
    let t := s.seen .vector
    let win := s.hasWindow s.here
    let u := t.takeLane (if r = 1 then 15 else 7)
    Claims.gives (t.vcheck win [a] [d]) = some () → Claims.gives (t.vroom d) = some () →
    Claims.gives (u.vread win Config.untypedIota (bcastOf false) 0 a) = some va →
    ∃ V : Vec, (∀ x < 16, Claims.elem 256 x V = Claims.elem 256 (if r = 1 then (x + k.toNat) % 16 else (x + 16 - k.toNat) % 16) va) ∧
      exec (.vrot d a m r k) s = Claims.vIssue s ((u.vpop a).vdeliver win d (rotLat (r == 1) k.toNat 15) (t.maskReg m) V 0)) ∧
  (∀ (s : State) (d a : BitVec 6) m r (k : BitVec 4) va, d.toNat < 48 →
    let t := s.seen .vector
    let win := s.hasWindow s.here
    let u := t.takeLane (if r = 1 then 15 else 7)
    Claims.gives (t.vcheck win [a] [d]) = some () → Claims.gives (t.vroom d) = some () →
    Claims.gives (u.vread win Config.untypedIota (bcastOf false) 0 a) = some va →
    ∃ (V : Vec) (en : Nat → BitVec 128),
      (∀ x < 16, Claims.elem 256 x V = Claims.elem 256 (if r = 1 then (x + k.toNat) % 16 else (x + 16 - k.toNat) % 16) va) ∧
      (∀ l, ∀ i < 128, (en l).getLsbD i = ((t.maskReg m).getLsbD i && decide (rotLat (r == 1) k.toNat (i / 8) = l))) ∧
      exec (.vrot d a m r k) s = Claims.vIssue s (((List.range 16).map (rotLat (r == 1) k.toNat)).eraseDups.foldl
        (fun x l => x.vdeliver win d l (en l) V 0) (u.vpop a))) ∧
  (∀ (s : State) d a m pat va,
    let t := s.seen .vector
    Claims.VReady s false false Config.untypedIota (bcastOf false) d a 0 va 0 →
    ∃ V : Vec, (∀ i < 128, lane V i = lane va (i / 8 * 8 + (pat : W32).toNat / 2 ^ (3 * (i % 8)) % 8)) ∧
      exec (.vshuf d a m [pat]) s = Claims.vIssue s ((t.vpop a).vdeliver (s.hasWindow s.here) d 2 (t.maskReg m) V 0)) ∧
  (∀ (s : State) v (c : BitVec 1) (e : BitVec 7) ent rest,
    let t := s.seen .vector
    let win := s.hasWindow s.here
    t.fifo.j[c.toNat] = ent :: rest → ent.ready = true → ent.born ≠ t.tcc →
    let u : Tile := { t with fifo := { t.fifo with j := t.fifo.j.set c.toNat rest } }
    (∀ b, exec (.vinsB c b) s =
      Claims.vIssue s { u with vec := { t.vec with recs := t.vec.recs ++ [{ rem := 1, act := .bcast b ent.val }] } }) ∧
    (Claims.gives (t.vcheck win [] [v]) = some () →
      exec (.vins v c e 1) s = Claims.vIssue s (u.vdeliver win v 1 (BitVec.allOnes 128) (bcastOf false ent.val) 0) ∧
      ∃ en : BitVec 128, (∀ i < 128, en.getLsbD i = decide (i = e.toNat)) ∧
        exec (.vins v c e 0) s = Claims.vIssue s (u.vdeliver win v 1 en (bcastOf false ent.val) 0))) ∧
  (∀ (s : State) v (c : BitVec 1) (e : BitVec 7) x,
    let t := s.seen .vector
    let win := s.hasWindow s.here
    let n := (e.toNat + 1) % 128
    Claims.gives (t.vcheck win [v] []) = some () → Claims.gives (t.vread win 0 (bcastOf false) 0 v) = some x →
    t.fifo.e[c.toNat].length < 16 →
    exec (.vext v c e) s = Claims.vIssue s (t.pushAfter c (max (e.toNat / 8) (n / 8)) (lane x n ++ lane x e.toNat))) ∧
  (∀ (s : State) v (c : BitVec 1) (r : BitVec 7) x, s.hasWindow s.here = true →
    let t := s.seen .vector
    let row := 512 + 128 * c.toNat + r.toNat
    (Claims.gives (t.vcheck true [] [v]) = some () →
      exec (.vacr v c r) s = Claims.vIssue s (t.vdeliver true v 4 (BitVec.allOnes 128) (t.rowOf row) 0)) ∧
    (Claims.gives (t.vcheck true [v] []) = some () → Claims.gives (t.vread true 0 (bcastOf false) 0 v) = some x → t.rsp.wf = true →
      ∃ u : Tile, exec (.vacw v c r) s = Claims.vIssue s u ∧ u.rowOf row = x ∧
        (∀ i < 128, lane (u.rsp.row row) i = if i < 8 then lane x i else lane (t.rsp.row row) i) ∧
        ∀ q, q ≠ row → u.rsp.row q = t.rsp.row q ∧ u.rowOf q = t.rowOf q)) ∧
  (∀ (s : State) v c r, s.hasWindow s.here = false →
    exec (.vacr v c r) s = .next (s.fault s.here .vector { code := 0x0D }) ∧
    exec (.vacw v c r) s = .next (s.fault s.here .vector { code := 0x0D })) ∧
  (∀ (s : State) (w b : BitVec 2) (c f : BitVec 1) (r : BitVec 2),
    let t := s.seen .vector
    exec (.vmode w b c f r) s = Claims.vIssue s (({ t with vec := { t.vec with
        mode := BitVec.ofNat 11 (r.toNat + 4 * f.toNat + 8 * c.toNat + 16 * b.toNat + 64 * w.toNat) } } : Tile).setFpsr .vector
      (BitVec.ofNat 8 ((t.fpsr .vector).toNat % 32 + 32 * f.toNat + 64 * r.toNat)))) ∧
  (∀ (s : State) (d : BitVec 6) (x : W32),
    let t := s.seen .vector
    exec (.vview d [x]) s = Claims.vIssue s { t with vec := viewWrite t.vec d.toNat (x.setWidth 64) })

/-- R142-R144, R151-R157, R159-R161: bitwise forms, shifts, compares, select and mask operations; and the moves between lanes, clusters and
accumulator rows, with views and the mode. -/
def Obligations.VectorLogicAndMoves : Prop :=
  Claims.VectorLogicAndMasksDeliver ∧ Claims.VectorMovesDeliver

/-- R163-R168: cbld loads the back plane of its bank, cbswap exchanges the planes, and vcbx expands its indices through the front plane; an index at or
beyond COUNT raises CODEBOOK-INDEX; a back plane that a command has captured holds cbld. -/
def Obligations.CodebookBanksLoadSwapExpand : Prop :=
  (∀ (s : State) (kind a : BitVec 6) (k : BitVec 2) (n : BitVec 8) src,
    let t := s.seen .vector
    let win := s.hasWindow s.here
    let count := n.toNat + 1
    let old := t.sync.bank[k.toNat]
    Claims.gives (t.vcheck win [a] []) = some () → Claims.gives (t.codeSource win a ((count + 31) / 32)) = some src →
    (old.back.captures = 0 → ∃ p : Plane, p.kind = kind ∧ p.count = count ∧ p.captures = old.back.captures ∧
      (∀ e : Fin 256, p.entries[e] = if e.val < count then (src.getD (e.val / 32) 0).extractLsb' (128 * (e.val % 32)) 128
        else old.back.entries[e]) ∧
      exec (.cbld kind a k n) s = Claims.vIssue s { (t.vpopN a ((count + 31) / 32)) with
        sync := { t.sync with bank := t.sync.bank.set k.toNat { old with back := p } } }) ∧
    (0 < old.back.captures → exec (.cbld kind a k n) s = .next s)) ∧
  (∀ (s : State) (k : BitVec 2),
    let t := s.seen .vector
    let b := t.sync.bank[k.toNat]
    let new : CodeBank := { front := b.back, back := b.front, swapped := !b.swapped, swappedAt := some t.tcc }
    exec (.cbswap k) s = Claims.vIssue s { t with sync := { t.sync with bank := t.sync.bank.set k.toNat new } }) ∧
  (∀ (s : State) (d a : BitVec 6) (k w : BitVec 2) (g : BitVec 8) va,
    let t := s.seen .vector
    let win := s.hasWindow s.here
    Claims.gives (t.vcheck win [a] [d]) = some () → Claims.gives (t.vroom d) = some () →
    Claims.gives (t.vreadIx win Config.untypedIota a) = some va →
    (∀ v, expandVec (t.sync.bank[k.toNat]).front w g.toNat va = some v →
      exec (.vcbx d a k w g) s = Claims.vIssue s ((t.vpop a).vdeliver win d 4 (BitVec.allOnes 128) v 0)) ∧
    (expandVec (t.sync.bank[k.toNat]).front w g.toNat va = none →
      exec (.vcbx d a k w g) s = .next (s.fault s.here .vector { code := 0x0A })))

/-- R134, R136, R137, R67: how vector results land.  A result for a register is a record that, when its count runs out, writes the enabled
lanes of its row at slice 0, and at slice s in the s-th issue cycle after (an instruction that issues meanwhile reads all of it); one for o or x
reserves an entry at issue, which is filled 15 counts later, excluded lanes zero; and the flags that a result raises, whatever its destination, are
a record 15 counts later.  In an issue cycle every record counts down, and those that are due act oldest first. -/
def Obligations.VectorResultsLandInOrder : Prop :=
  (∀ (t : Tile) win (d : BitVec 6) lat en v r, t.viewRow win d.toNat = some r → d.toNat < 48 →
    t.vdeliver win d lat en v 0 = { t with vec := { t.vec with recs := t.vec.recs ++ [{ rem := lat, act := .row r en v }] } } ∧
    ∀ f, f ≠ 0 → t.vdeliver win d lat en v f = { t with vec := { t.vec with
      recs := t.vec.recs ++ [{ rem := lat, act := .row r en v }, { rem := 15 + lat, act := .flags f }] } }) ∧
  (∀ (t : Tile) win lat en v (i : BitVec 2),
    let tag := (t.str .vector).count
    t.vdeliver win (0b1100#4 ++ i) lat en v 0 = { t with
      fifo := { t.fifo with ov := t.fifo.ov.set i.toNat (t.fifo.ov[i.toNat] ++ [{ val := 0, ready := false, born := 0, tag := tag }]) },
      vec := { t.vec with recs := t.vec.recs ++ [{ rem := 15 + lat, act := .pushO i tag (blend en v 0) }] } }) ∧
  (∀ (t : Tile) win lat en v (i : BitVec 2),
    let tag := (t.str .vector).count
    t.vdeliver win (0b1101#4 ++ i) lat en v 0 = { t with
      fifo := { t.fifo with x := t.fifo.x.set i.toNat (t.fifo.x[i.toNat] ++ [{ val := 0, ready := false, born := 0, tag := tag }]) },
      vec := { t.vec with recs := t.vec.recs ++ [{ rem := 15 + lat, act := .pushX i tag (blend en v 0) }] } }) ∧
  (∀ (t : Tile) win d lat en v f, f ≠ 0 →
    let u := t.vdeliver win d lat en v 0
    t.vdeliver win d lat en v f = { u with vec := { u.vec with recs := u.vec.recs ++ [{ rem := 15 + lat, act := .flags f }] } }) ∧
  (∀ (t : Tile) (r : VRec) rest, r.valid = true → r.rem ≤ 1 →
    t.landVec (r :: rest) = (t.vact r.act).landVec rest) ∧
  (∀ (t : Tile) (r : VRec) rest, r.valid = true → 1 < r.rem →
    (t.landVec (r :: rest)).vec.recs = { r with rem := r.rem - 1 } :: (t.landVec rest).vec.recs) ∧
  (∀ (t : Tile) r en v, t.rsp.wf = true →
    let u := t.vact (.row r en v)
    u.rowOf r = blend en v (t.rowOf r) ∧ (∀ q, q ≠ r → u.rowOf q = t.rowOf q ∧ u.rsp.row q = t.rsp.row q) ∧
    (∀ i < 128, lane (u.rsp.row r) i = if i < 8 ∧ en.getLsbD i = true then lane v i else lane (t.rsp.row r) i)) ∧
  (∀ (t : Tile) l rest, t.passLate (l :: rest) = (t.passLate [l]).passLate rest) ∧
  (∀ (t : Tile) a r en v, a < 15 → t.rsp.wf = true →
    let u := t.passLate [{ age := a, act := .row r en v }]
    (∀ i < 128, lane (u.rsp.row r) i = if i / 8 = a + 1 ∧ en.getLsbD i = true then lane v i else lane (t.rsp.row r) i) ∧
    (∀ q, q ≠ r → u.rsp.row q = t.rsp.row q) ∧
    u.vec.late = t.vec.late ++ (if a = 14 then [] else [{ age := a + 1, act := .row r en v }])) ∧
  (∀ (t : Tile) r l n v, t.rsp.wf = true →
    let u := t.vact (.tap r l n v)
    u.rowOf r = v ∧ (∀ q, q ≠ r → u.rowOf q = t.rowOf q) ∧
      { lane := l, count := n, row := r, en := BitVec.allOnes 128 } ∈ u.vec.reads) ∧
  (∀ (t : Tile) r en v, ∀ e ∈ (t.vact (.row r en v)).vec.reads, e.row = r → e.en &&& en = 0) ∧
  (∀ (en : BitVec 128) v old, ∀ i < 128, lane (blend en v old) i = if en.getLsbD i then lane v i else lane old i)

/-- The frame of the vector strand's own instructions (R21, R28): they change no byte of the scratchpad or of memory, no other tile, no register of the
control, load, store, matrix, transform, send or receive strands, and no other strand's queue. -/
def Obligations.VectorFrame : Prop :=
  ∀ i (s s' : State), Claims.isVector i = true → exec i s = .next s' →
    (∀ n, n ≠ s.here → s'.tile n = s.tile n) ∧
    (∀ a, s'.cur.spad.read a = s.cur.spad.read a ∧ s'.store.mem.read a = s.store.mem.read a) ∧
    s'.cur.ctl = s.cur.ctl ∧ s'.cur.ld = s.cur.ld ∧ s'.cur.st = s.cur.st ∧ s'.cur.mx = s.cur.mx ∧ s'.cur.xf = s.cur.xf ∧
    s'.cur.tx = s.cur.tx ∧ s'.cur.rx = s.cur.rx ∧ s'.cur.phase = s.cur.phase ∧
    (∀ k, k ≠ .vector → s'.cur.str k = s.cur.str k ∧ s'.cur.fpsr k = s.cur.fpsr k) ∧ s'.ctxs = s.ctxs ∧ s'.queues = s.queues
namespace Sys2Proof.Claims
open Sys2Proof Sys2Proof.Machine

/-! ## The access strands -/

/-- The answer to a load or store that is in flight: its tile is left as `x`, its pieces are counted (R370), and its word has left the queue. -/
def entered (s : State) (k : Strand) (x : Tile) (ps : List Piece) : Out :=
  .next (((s.setTile s.here x).countPieces s.here ps).modTile s.here fun t => t.retire k)

/-- The instruction faults with this cause and FADDR. -/
def faults (s : State) (k : Strand) (code : Nat) (faddr : W64) : Out := .next (s.fault s.here k { code := code, faddr := faddr })

/-- What a load asks: `n`-byte alignment and, with SQ set, the tag of the block that holds it (R177). -/
def readAsk (t : Tile) (sp sq : BitVec 1) (n : Nat) (x : List W32) : Ask :=
  { sp := sp == 1, want := .read, align := n, barrier := false, seqOk := fun e => sq == 0 || t.seqTag (spadOff e.va) x, unit := 128 }

/-- What a store asks. -/
def writeAsk (sp : BitVec 1) (n : Nat) : Ask :=
  { sp := sp == 1, want := .write, align := n, barrier := false, seqOk := fun _ => true, unit := 64 }

/-- What a barrier operation asks. -/
def barAsk (sp : BitVec 1) (want : Want) (unit : Nat) : Ask :=
  { sp := sp == 1, want := want, align := 16, barrier := true, seqOk := fun _ => true, unit := unit }

/-- The tile after another load has entered its load strand: one of scratchpad alone has been performed, if every older load has been (R33,
R242); another is still to be performed. -/
def loading (t : Tile) (kind : LoadKind) (q : BitVec 3) (ps : List Piece) (va : W64) : Tile :=
  let now := allSpad ps && t.ld.pending.all fun l => l.sent && l.waits.isEmpty
  let r := if now then t.spadLoads kind ps 0 else (t, 0)
  { r.1 with ld := { t.ld with
    pending := t.ld.pending ++
      [{ seq := t.ld.seq, kind := kind, q := q, tag := BitVec.ofNat 64 t.ld.seq, pieces := ps, data := r.2, sent := now, waits := [],
         pc := t.pcOf .load, va := va }]
    seq := t.ld.seq + 1 } }

/-- A load into a vector stream: it reserves an entry there and is in flight. -/
def vectorLoad (t : Tile) (kind : LoadKind) (q : Fin 4) (ps : List Piece) (va : W64) : Tile :=
  loading { t with fifo := { t.fifo with
      qv := t.fifo.qv.set q (t.fifo.qv[q] ++ [{ val := 0, ready := false, born := 0, tag := BitVec.ofNat 64 t.ld.seq }]) } }
    kind (BitVec.ofNat 3 q.val) ps va

/-- A load into scalar stream 4 + q. -/
def scalarLoad (t : Tile) (kind : LoadKind) (q : Fin 4) (ps : List Piece) (va : W64) : Tile :=
  loading { t with fifo := { t.fifo with
      qs := t.fifo.qs.set q (t.fifo.qs[q] ++ [{ val := 0, ready := false, born := 0, tag := BitVec.ofNat 64 t.ld.seq }]) } }
    kind (BitVec.ofNat 3 (4 + q.val)) ps va

/-- The tile after another store has entered its store strand: one of scratchpad alone has been performed, if every older store has been (R33,
R242); another is still to be performed. -/
def storing (t : Tile) (kind : StoreKind) (ps : List Piece) (d : Vec) (va : W64) : Tile :=
  if allSpad ps = true ∧ t.st.pending = [] then
    { (t.spadStores kind d ps) with st := { t.st with seq := t.st.seq + 1 } }
  else { t with st := { t.st with
    pending := t.st.pending ++
      [{ seq := t.st.seq, kind := kind, pieces := ps, data := d, waits := [], sent := false, pc := t.pcOf .store, va := va }]
    seq := t.st.seq + 1 } }

/-- A vector store: it has popped o[o] and is in flight, or performed. -/
def vectorStore (t : Tile) (o : Fin 4) (ps : List Piece) (d : Vec) (va : W64) : Tile :=
  storing { t with fifo := { t.fifo with ov := t.fifo.ov.set o t.fifo.ov[o].tail } } .plain ps d va

/-- A scalar store, atomic or barrier operation: it has popped o[4 + o] and is in flight, or performed. -/
def scalarStore (t : Tile) (kind : StoreKind) (o : Fin 2) (ps : List Piece) (d : Vec) (va : W64) : Tile :=
  storing { t with fifo := { t.fifo with os := t.fifo.os.set o t.fifo.os[o].tail } } kind ps d va

/-- The tile with an address register of the load strand written. -/
def setA (t : Tile) (d : BitVec 4) (v : W64) : Tile := { t with ld := { t.ld with a := t.ld.a.set d.toNat v } }

/-- The tile with an address register of the store strand written. -/
def setW (t : Tile) (d : BitVec 4) (v : W64) : Tile := { t with st := { t.st with w := t.st.w.set d.toNat v } }

/-- The elements of a gather or scatter (R176, R180): element i lies at base + index × size; a null index makes none. -/
def gathered (base : W64) (n : Nat) (ix : Vec) : List Elem :=
  (List.range (512 / n)).filterMap fun i =>
    if lane ix i = 0x80000000 then none
    else some { pos := i * n, len := n, va := base + BitVec.ofInt 64 ((lane ix i).toInt * n) }

/-- A store of the oldest kind in a tile, alone and not yet performed. -/
def lone (t : Tile) (l : PendingStore) : Prop := t.st.pending = [l] ∧ l.sent = false ∧ t.st.sigs = []

/-- The instructions of the load strand. -/
def isLoad : Instr → Bool
  | .ld .. | .ldw .. | .ldg .. | .sset .. | .sclr .. | .markL .. | .atr .. | .fenceL .. | .acq .. | .pref .. | .laAdd .. | .laAddi ..
  | .laShli .. | .laLi .. | .laTake .. | .laIx .. | .barw .. => true
  | _ => false

/-- The instructions of the store strand that send no access out of the tile themselves. -/
def isStoreLocal : Instr → Bool
  | .markS .. | .saAdd .. | .saAddi .. | .saShli .. | .saLi .. | .saTake .. | .saIx .. => true
  | _ => false

end Sys2Proof.Claims

/-! ## Access strands (07_streams.md, 15_barrier.md) -/

/-- R172, R82: the address registers of the two access strands; a take pops its channel or holds, and an index form reads the loop index at which
its line was fetched. -/
def Obligations.AddressRegistersCompute : Prop :=
  (∀ (s : State) (d a b : BitVec 4) (i : BitVec 13) x (n : BitVec 6),
    exec (.laAdd d a b) s = s.yields .load (Claims.setA s.cur d (s.cur.ld.a[a.toNat] + s.cur.ld.a[b.toNat])) ∧
    exec (.laAddi d a i x) s = s.yields .load (Claims.setA s.cur d (s.cur.ld.a[a.toNat] + imm13 i x)) ∧
    exec (.laShli d a n) s = s.yields .load (Claims.setA s.cur d (BitVec.ofNat 64 ((s.cur.ld.a[a.toNat]).toNat * 2 ^ n.toNat))) ∧
    exec (.laLi d i x) s = s.yields .load (Claims.setA s.cur d (imm13 i x)) ∧
    exec (.saAdd d a b) s = s.yields .store (Claims.setW s.cur d (s.cur.st.w[a.toNat] + s.cur.st.w[b.toNat])) ∧
    exec (.saAddi d a i x) s = s.yields .store (Claims.setW s.cur d (s.cur.st.w[a.toNat] + imm13 i x)) ∧
    exec (.saShli d a n) s = s.yields .store (Claims.setW s.cur d (BitVec.ofNat 64 ((s.cur.st.w[a.toNat]).toNat * 2 ^ n.toNat))) ∧
    exec (.saLi d i x) s = s.yields .store (Claims.setW s.cur d (imm13 i x))) ∧
  (∀ (s : State) (d : BitVec 4) (c : Fin 2) e rest,
    let load : Fin 5 := ⟨c.val, by omega⟩
    let store : Fin 5 := ⟨2 + c.val, by omega⟩
    (s.cur.fifo.k[load] = e :: rest → e.ready = true → e.born ≠ s.cur.tcc →
      exec (.laTake d (BitVec.ofNat 2 c.val)) s = s.yields .load
        (Claims.setA { s.cur with fifo := { s.cur.fifo with k := s.cur.fifo.k.set load rest } } d e.val)) ∧
    (s.cur.fifo.k[store] = e :: rest → e.ready = true → e.born ≠ s.cur.tcc →
      exec (.saTake d (BitVec.ofNat 2 c.val)) s = s.yields .store
        (Claims.setW { s.cur with fifo := { s.cur.fifo with k := s.cur.fifo.k.set store rest } } d e.val)) ∧
    (s.cur.fifo.k[load] = [] → exec (.laTake d (BitVec.ofNat 2 c.val)) s = .next s) ∧
    (s.cur.fifo.k[store] = [] → exec (.saTake d (BitVec.ofNat 2 c.val)) s = .next s)) ∧
  (∀ (s : State) (d : BitVec 4) (n : Fin 6) e rest,
    ((s.cur.str .load).queue = e :: rest →
      exec (.laIx d (BitVec.ofNat 3 n.val)) s = s.yields .load (Claims.setA s.cur d ((e.ix[n]).setWidth 64))) ∧
    ((s.cur.str .store).queue = e :: rest →
      exec (.saIx d (BitVec.ofNat 3 n.val)) s = s.yields .store (Claims.setW s.cur d ((e.ix[n]).setWidth 64))))

/-- R441, R174, R177, R363: what is judged of one element of an access, in order: MISALIGNED, SCHEDULE, then in the scratchpad BARRIER-REGION and
BANK-CLAIM; in global memory a missing translation is asked for while the strand holds, and a walk that failed gives its cause with the address.  The
walk, once complete, is kept. -/
def Obligations.AccessesAreJudgedInOrder : Prop :=
  (∀ (s : State) (k : Strand) (ask : Ask) (e : Elem), ask.sp = true →
    let off := e.va.toNat % 2 ^ 21
    (off % ask.align ≠ 0 → s.pieces k ask [e] = .trap { code := 0x05, faddr := BitVec.ofNat 64 off }) ∧
    (off % ask.align = 0 → ask.seqOk e = false → s.pieces k ask [e] = .trap { code := 0x0B, faddr := BitVec.ofNat 64 off }) ∧
    (off % ask.align = 0 → ask.seqOk e = true → off + e.len ≤ 2 ^ 21 → 0 < e.len →
      (ask.want = .write → ask.barrier = false → 0x1FF000 ≤ off →
        s.pieces k ask [e] = .trap { code := 0x0C, faddr := BitVec.ofNat 64 off }) ∧
      (ask.barrier = true → off < 0x1FF000 → s.pieces k ask [e] = .trap { code := 0x0C, faddr := BitVec.ofNat 64 off }) ∧
      (ask.barrier = false → (ask.want = .read ∨ off + e.len ≤ 0x1FF000) → s.cur.claims.contains (bankGroup off) = true →
        s.pieces k ask [e] = .trap { code := 0x08, faddr := BitVec.ofNat 64 off }) ∧
      (ask.barrier = false → (ask.want = .read ∨ off + e.len ≤ 0x1FF000) → s.cur.claims = [] →
        s.pieces k ask [e] = .done [{ pos := e.pos, len := e.len, loc := .spad off, va := e.va }]))) ∧
  (∀ (s : State) (k : Strand) (ask : Ask) (e : Elem), ask.sp = false →
    (e.va.toNat % ask.align ≠ 0 → s.pieces k ask [e] = .trap { code := 0x05, faddr := e.va }) ∧
    (e.va.toNat % ask.align = 0 → ask.seqOk e = true → 0 < e.len → e.va.toNat % 4096 + e.len ≤ 4096 →
      (∀ c w, tlbFind s.cur.tlb e.va = some w → w.result = .error c → s.pieces k ask [e] = .trap { code := c, faddr := e.va }) ∧
      (∀ c w pte, tlbFind s.cur.tlb e.va = some w → w.result = .ok pte → s.checkPte pte w.size e.va ask.want false = .error c →
        s.pieces k ask [e] = .trap { code := c, faddr := e.va }) ∧
      (∀ w pte g, tlbFind s.cur.tlb e.va = some w → w.result = .ok pte → s.checkPte pte w.size e.va ask.want false = .ok g →
        ask.barrier = false → ask.want = .read → g.pa.toNat % ask.unit + e.len ≤ ask.unit →
        s.pieces k ask [e] = .done [{ pos := e.pos, len := e.len, loc := .glob g, va := e.va }]))) ∧
  (∀ (s : State) (q : BitVec 2) (a : BitVec 4) (sq : BitVec 1) (i : BitVec 13) x (o : BitVec 3),
    let va := s.cur.ld.a[a.toNat] + i.signExtend 64
    let vs := s.cur.st.w[a.toNat] + i.signExtend 64
    ((s.cur.ld.stream[(q.setWidth 3).toNat]).phase = .explicit → va.toNat % 32 = 0 → (sq = 0 ∨ s.cur.seqTag (spadOff va) x = true) →
      tlbFind s.cur.tlb va = none →
      exec (.ld q a 0 sq i x) s = .next (s.setTile s.here { s.cur with ld := { s.cur.ld with walk := some va } })) ∧
    (vs.toNat % 32 = 0 → tlbFind s.cur.tlb vs = none →
      exec (.st o a 0 i) s = .next (s.setTile s.here { s.cur with st := { s.cur.st with walk := some vs } }))) ∧
  (∀ (s : State) t va pte size, s.walk (s.tile t).ctx va = .ok (pte, size) →
    let kept : List TlbEntry := ({ va := BitVec.ofNat 64 (va.toNat / size * size), size := size, result := .ok pte } ::
      (s.tile t).tlb).take 1024
    ((s.tile t).ld.walk = some va →
      exec (.tlbWalk t .load) s = .next (s.setTile t { (s.tile t) with tlb := kept, ld := { (s.tile t).ld with walk := none } })) ∧
    ((s.tile t).st.walk = some va →
      exec (.tlbWalk t .store) s = .next (s.setTile t { (s.tile t) with tlb := kept, st := { (s.tile t).st with walk := none } })))

/-- R173-R178, R182, R187: a load whose pieces can be had reserves an entry of its stream and is in flight; the stream must be EXPLICIT, and a full
stream holds it.  A gather takes its index vector, an atomic its operands; fence.l takes its place among the loads.  pref asks for the lines of
CACHED pages that its die's L2 lacks, and a failed check makes it a no-operation. -/
def Obligations.LoadsReserveAnEntry : Prop :=
  (∀ (s : State) (q : Fin 4) (a : BitVec 4) (sp sq : BitVec 1) (i : BitVec 13) x ps,
    let va := s.cur.ld.a[a.toNat] + i.signExtend 64
    let i := Instr.ld (BitVec.ofNat 2 q.val) a sp sq i x
    ((s.cur.ld.stream[q.val]).phase ≠ .explicit → exec i s = Claims.faults s .load 0x07 0) ∧
    ((s.cur.ld.stream[q.val]).phase = .explicit →
      Claims.gives (s.pieces .load (Claims.readAsk s.cur sp sq 32 x) [{ pos := 0, len := 512, va := va }]) = some ps →
      (s.cur.fifo.qv[q].length < 8 → exec i s = Claims.entered s .load (Claims.vectorLoad s.cur .vector q ps va) ps) ∧
      (8 ≤ s.cur.fifo.qv[q].length → exec i s = .next s))) ∧
  (∀ (s : State) (q : Fin 4) (a k : BitVec 4) (sp sq : BitVec 1) (i : BitVec 13) x ps,
    let va := s.cur.ld.a[a.toNat] + i.signExtend 64
    let n := kindSize k.toNat
    let i := Instr.ldw (BitVec.ofNat 2 q.val) a k sp sq i x
    ((s.cur.ld.stream[4 + q.val]).phase ≠ .explicit → exec i s = Claims.faults s .load 0x07 0) ∧
    ((s.cur.ld.stream[4 + q.val]).phase = .explicit →
      Claims.gives (s.pieces .load (Claims.readAsk s.cur sp sq n x) [{ pos := 0, len := n, va := va }]) = some ps →
      (s.cur.fifo.qs[q].length < 16 → exec i s = Claims.entered s .load (Claims.scalarLoad s.cur (.scalar k.toNat) q ps va) ps) ∧
      (16 ≤ s.cur.fifo.qs[q].length → exec i s = .next s))) ∧
  (∀ (s : State) (q : Fin 4) (a k : BitVec 4) (sp sq : BitVec 1) (j : Fin 2) x ps e rest,
    let xi : Fin 4 := ⟨j.val, by omega⟩
    let base := s.cur.ld.a[a.toNat]
    (s.cur.ld.stream[q.val]).phase = .explicit → s.cur.fifo.x[xi] = e :: rest → e.ready = true → e.born ≠ s.cur.tcc →
    let es := Claims.gathered base (kindSize k.toNat) e.val
    let ask : Ask := { Claims.readAsk s.cur sp 0 (kindSize k.toNat) x with seqOk := fun e => sq == 0 || s.cur.gatherSeq base x e }
    Claims.gives (s.pieces .load ask es) = some ps → (sq = 1 → es = [] → s.cur.seqTag (spadOff base) x = true) →
    s.cur.fifo.qv[q].length < 8 →
    let t : Tile := { s.cur with fifo := { s.cur.fifo with x := s.cur.fifo.x.set xi rest } }
    exec (.ldg (BitVec.ofNat 2 q.val) a k sp sq (BitVec.ofNat 1 j.val) x) s =
      Claims.entered s .load (Claims.vectorLoad t .vector q ps base) ps) ∧
  (∀ (s : State) (q : Fin 4) (a k : BitVec 4) (sp w : BitVec 1) (i : BitVec 13) ps e rest,
    let va := s.cur.ld.a[a.toNat] + i.signExtend 64
    let n := if w = 1 then 8 else 4
    let i := Instr.atr (BitVec.ofNat 2 q.val) a k sp w i
    (s.cur.ld.stream[4 + q.val]).phase = .explicit →
    Claims.gives (s.pieces .load (Claims.writeAsk sp n) [{ pos := 0, len := n, va := va }]) = some ps →
    s.cur.fifo.qs[q].length < 16 → s.anyRange ps = false → s.cur.fifo.k[0] = e :: rest → e.ready = true → e.born ≠ s.cur.tcc →
    (k ≠ 11 →
      let t : Tile := { s.cur with fifo := { s.cur.fifo with k := s.cur.fifo.k.set 0 rest } }
      exec i s = Claims.entered s .load
        (Claims.scalarLoad t (.atomic { op := k, wide := w == 1, operand := e.val, compare := 0 }) q ps va) ps) ∧
    (∀ e2 rest2, k = 11 → rest = e2 :: rest2 → e2.ready = true → e2.born ≠ s.cur.tcc →
      let t : Tile := { s.cur with fifo := { s.cur.fifo with k := s.cur.fifo.k.set 0 rest2 } }
      exec i s = Claims.entered s .load
        (Claims.scalarLoad t (.atomic { op := k, wide := w == 1, operand := e2.val, compare := e.val }) q ps va) ps)) ∧
  (∀ (s : State) (q : Fin 4) (a k : BitVec 4) (i : BitVec 13) ps,
    let va := s.cur.ld.a[a.toNat] + i.signExtend 64
    let flag : Elem := { pos := 0, len := 8, va := va }
    let i := Instr.acq (BitVec.ofNat 2 q.val) a k i
    (s.cur.ld.stream[4 + q.val]).phase = .explicit → s.cur.fifo.qs[q].length < 16 →
    (k.toNat < 2 → Claims.gives (s.pieces .load (Claims.readAsk s.cur 0 0 8 []) [flag]) = some ps →
      exec i s = Claims.entered s .load (Claims.scalarLoad s.cur (.acquire (k.setWidth 3)) q ps va) ps) ∧
    (∀ sg, 2 ≤ k.toNat → Claims.gives (s.pieces .load (Claims.readAsk s.cur 0 0 256 []) [flag]) = some ps →
      Claims.gives (s.pieces .load (Claims.readAsk s.cur 0 0 128 []) [{ pos := 128, len := 128, va := va + 128 }]) = some sg →
      exec i s = s.yields .load (Claims.scalarLoad s.cur (.acquire (k.setWidth 3)) q (ps ++ sg) va))) ∧
  (∀ (s : State) (sc : BitVec 3) (a : BitVec 4) (i : BitVec 13),
    let ask := Claims.readAsk s.cur 0 0 32 []
    let es : List Elem := [{ pos := 0, len := 512, va := s.cur.ld.a[a.toNat] + i.signExtend 64 }]
    exec (.fenceL sc) s = s.yields .load (Claims.loading s.cur (.fence sc) 0 [] 0) ∧
    (∀ ps, s.judgeAll s.here ask es = .ok ps →
      exec (.pref a i) s = .next ((s.prefLines s.here ps).modTile s.here fun t => t.retire .load)) ∧
    (∀ b c ps, s.judgeAll s.here ask es = .bad b c ps → exec (.pref a i) s = s.yields .load s.cur.dropErrors) ∧
    (∀ v, s.judgeAll s.here ask es = .miss v →
      exec (.pref a i) s = .next (s.setTile s.here { s.cur with ld := { s.cur.ld with walk := some v } }))) ∧
  (∀ (s : State) t (p : Piece) g rest, p.loc = .glob g →
    s.prefLines t (p :: rest) = (s.prefLines t [p]).prefLines t rest ∧
    (g.mode ≠ modeCached ∨ s.atHome t g = true ∨ (s.copyOf (dieOf t) g.line).isSome = true → s.prefLines t [p] = s) ∧
    (g.mode = modeCached → s.atHome t g = false → s.copyOf (dieOf t) g.line = none →
      ∃ r : Request, (s.prefLines t [p]).remote.reqs = s.remote.reqs ++ [r] ∧ r.kind = .load ∧ r.owner = .prefetch ∧ r.fill = true ∧
        r.pkg = g.pkg ∧ r.die = g.die ∧ r.pa = g.pa.toNat / 128 * 128 ∧ r.len = 128 ∧ (s.prefLines t [p]).store = s.store ∧
        (s.prefLines t [p]).tiles = s.tiles))

/-- R33, R34, R173, R174, R182, R196: a load of scratchpad reads the bytes as its TC found them, or waits for a claim that began since its issue.  The oldest load of
a tile reads its bytes where they are and is delivered: its reserved entry holds the data, extended by its kind,
and is ready; a load that finds its bytes in another die asks for them; an atomic leaves its new value and delivers the old one. -/
def Obligations.LoadsDeliverInOrder : Prop :=
  (∀ (s : State) t l rest off (q : Fin 4), (s.tile t).ld.pending = l :: rest → (s.tile t).ld.sigs = [] → l.sent = false → l.data = 0 →
    l.kind = .vector → l.q = BitVec.ofNat 3 q.val → l.pieces = [{ pos := 0, len := 512, loc := .spad off, va := l.va }] →
    let u := s.tile t
    (u.claimed off 512 = true → exec (.loadDeliver t) s = .next s) ∧
    (u.claimed off 512 = false → exec (.loadDeliver t) s = .next (s.setTile t { u with
      ld := { u.ld with pending := rest }
      fifo := { u.fifo with qv := u.fifo.qv.set q (u.fifo.qv[q].map fun e =>
        if e.ready = false ∧ e.tag = l.tag then { e with val := BitVec.ofNat 4096 (u.spad0.readN off 512), ready := true, born := u.tcc - 1 }
        else e) } }))) ∧
  (∀ (s : State) t l rest (q : Fin 4), (s.tile t).ld.pending = l :: rest → (s.tile t).ld.sigs = [] → l.sent = true → l.waits = [] →
    l.kind = .vector → l.q = BitVec.ofNat 3 q.val →
    let u := s.tile t
    exec (.loadDeliver t) s = .next (s.setTile t { u with
      ld := { u.ld with pending := rest }
      fifo := { u.fifo with qv := u.fifo.qv.set q (u.fifo.qv[q].map fun e =>
        if e.ready = false ∧ e.tag = l.tag then { e with val := l.data, ready := true, born := u.tcc - 1 } else e) } })) ∧
  (∀ (t : Tile) (kind : LoadKind) off n va, n ≤ 512 → (∀ a, kind ≠ .atomic a) →
    t.spadLoads kind [{ pos := 0, len := n, loc := .spad off, va := va }] 0 = (t, BitVec.ofNat 4096 (t.spad0.readN off n))) ∧
  (∀ (t : Tile) (a : Atomic) off va,
    let old := t.spad.readN off a.size
    t.spadLoads (.atomic a) [{ pos := 0, len := a.size, loc := .spad off, va := va }] 0 =
      ({ t with spad := t.spad.writeN off a.size (a.apply old) }, BitVec.ofNat 4096 old)) ∧
  (∀ (t : Tile) kind p rest d, t.spadLoads kind (p :: rest) d =
    (t.spadLoads kind [p] d).1.spadLoads kind rest (t.spadLoads kind [p] d).2) ∧
  (∀ (s : State) t l rest kind (p : Piece) g (q : Fin 4), (s.tile t).ld.pending = l :: rest → (s.tile t).ld.sigs = [] → l.sent = false →
    l.data = 0 → l.kind = .scalar kind → kind < 7 → l.q = BitVec.ofNat 3 (4 + q.val) → l.pieces = [p] → p.pos = 0 →
    p.len = kindSize kind → p.loc = .glob g → g.mode ≠ modeCached →
    let u := s.tile t
    (g.pkg = s.pkg → g.die.toNat = dieOf t → windowTile g.die g.pa.toNat = none → s.inMemory g.pkg g.die g.pa.toNat p.len = true →
      s.frameCmp g.pkg g.die g.pa.toNat = false → s.frameHeld (physAt g.pkg g.die g.pa.toNat) = false →
      exec (.loadDeliver t) s = .next (s.setTile t { u with
        ld := { u.ld with pending := rest }
        fifo := { u.fifo with qs := u.fifo.qs.set q (u.fifo.qs[q].map fun e =>
          if e.ready = false ∧ e.tag = l.tag then
            { e with val := Claims.extended kind (s.rdN u.ctx g.pkg g.die g.pa.toNat p.len), ready := true, born := u.tcc - 1 }
          else e) } })) ∧
    (g.pkg ≠ s.pkg ∨ g.die.toNat ≠ dieOf t →
      ∃ s', exec (.loadDeliver t) s = .next s' ∧ s'.remote.nextId = s.remote.nextId + 1 ∧
        (∃ r : Request, s'.remote.reqs = s.remote.reqs ++ [r] ∧ r.id = s.remote.nextId ∧ r.kind = .load ∧ r.phase = .held ∧
          r.owner = .loadPiece t l.seq 0 ∧ r.ctx = u.ctx ∧ r.pkg = g.pkg ∧ r.die = g.die ∧ r.pa = g.pa.toNat / 128 * 128 ∧ r.len = 128) ∧
        (s'.tile t).ld.pending = { l with sent := true, waits := [s.remote.nextId] } :: rest ∧ (s'.tile t).fifo = u.fifo)) ∧
  (∀ (s : State) t l rest (a : Atomic) off (q : Fin 4), (s.tile t).ld.pending = l :: rest → (s.tile t).ld.sigs = [] → l.sent = false →
    l.data = 0 → l.kind = .atomic a → l.q = BitVec.ofNat 3 (4 + q.val) →
    l.pieces = [{ pos := 0, len := a.size, loc := .spad off, va := l.va }] →
    let u := s.tile t
    let old := u.spad.readN off a.size
    u.claimed off a.size = false → exec (.loadDeliver t) s = .next (s.setTile t { u with
      ld := { u.ld with pending := rest }
      spad := u.spad.writeN off a.size (a.apply old)
      fifo := { u.fifo with qs := u.fifo.qs.set q (u.fifo.qs[q].map fun e =>
        if e.ready = false ∧ e.tag = l.tag then { e with val := BitVec.ofNat 64 old, ready := true, born := u.tcc - 1 } else e) } })) ∧
  (∀ (a : Atomic) m, a.wide = true →
    let x := BitVec.ofNat 64 m
    let v := a.operand
    (a.op = 0 → a.apply m = (x + v).toNat) ∧ (a.op = 1 → a.apply m = max x.toNat v.toNat) ∧ (a.op = 4 → a.apply m = min x.toNat v.toNat) ∧
    (a.op = 2 → a.apply m = if x.toInt ≤ v.toInt then v.toNat else x.toNat) ∧
    (a.op = 5 → a.apply m = if x.toInt ≤ v.toInt then x.toNat else v.toNat) ∧
    (a.op = 7 → a.apply m = (x &&& v).toNat) ∧ (a.op = 8 → a.apply m = (x ||| v).toNat) ∧ (a.op = 9 → a.apply m = (x ^^^ v).toNat) ∧
    (a.op = 10 → a.apply m = v.toNat) ∧ (a.op = 11 → a.apply m = if x = a.compare then v.toNat else x.toNat))

/-- R173, R179, R180, R182, R189, R190, R350: a store takes its data from its output queue and is in flight, or holds while the queue has none; an aggregated
store goes to the Bellows of its die instead; barm takes its operand. -/
def Obligations.StoresTakeTheirData : Prop :=
  (∀ (s : State) (o : Fin 4) (w : BitVec 4) (sp : BitVec 1) (i : BitVec 13) ps,
    let va := s.cur.st.w[w.toNat] + i.signExtend 64
    let i := Instr.st (BitVec.ofNat 3 o.val) w sp i
    Claims.gives (s.pieces .store (Claims.writeAsk sp 32) [{ pos := 0, len := 512, va := va }]) = some ps →
    (s.cur.fifo.ov[o] = [] → exec i s = .next s) ∧
    (∀ e rest, s.cur.fifo.ov[o] = e :: rest → e.ready = true → e.born ≠ s.cur.tcc →
      (s.anyRange ps = false → exec i s = Claims.entered s .store (Claims.vectorStore s.cur o ps e.val va) ps) ∧
      (s.anyRange ps = true → s.cur.st.pending = [] → s.anyHeld ps = false →
        (s.snapLines (s.pieceLines ps) = .refuse → exec i s = Claims.faults s .store 0x14 (BitVec.ofNat 64 ((s.firstShadow ps).getD va.toNat))) ∧
        ∀ s1 s2, s.snapLines (s.pieceLines ps) = .ok s1 →
          (s1.modTile s.here fun t => { t with fifo := { t.fifo with ov := t.fifo.ov.set o rest } }).storeNow s.here .plain e.val ps =
            some s2 →
          exec i s = .next (((s2.modTile s.here fun t => { t with st := { t.st with seq := t.st.seq + 1 } }).countPieces s.here ps).modTile
            s.here fun t => t.retire .store)))) ∧
  (∀ (s : State) (o : Fin 2) (w k : BitVec 4) (sp : BitVec 1) (i : BitVec 13) ps e rest,
    let va := s.cur.st.w[w.toNat] + i.signExtend 64
    let n := kindSize k.toNat
    let i := Instr.stw (BitVec.ofNat 3 (4 + o.val)) w k sp i
    Claims.gives (s.pieces .store (Claims.writeAsk sp n) [{ pos := 0, len := n, va := va }]) = some ps →
    s.cur.fifo.os[o] = e :: rest → e.ready = true → e.born ≠ s.cur.tcc →
    ((k.toNat < 4 ∨ ∀ p rest, ps = p :: rest → aggKey s s.here p none (n == 8) = none) → s.anyRange ps = false →
      exec i s = Claims.entered s .store (Claims.scalarStore s.cur .plain o ps (e.val.setWidth 4096) va) ps) ∧
    (∀ p key pa, 4 ≤ k.toNat → ps = [p] → aggKey s s.here p none (n == 8) = some (key, pa) → s.aggQueued s.here = false →
      ∃ s', exec i s = .next s' ∧ s'.cur.fifo.os = s.cur.fifo.os.set o rest ∧ s'.cur.st = s.cur.st ∧
        (s'.bellows (dieFin s.here)).arriving = (s.bellows (dieFin s.here)).arriving ++
          [(key, { pa := pa, value := e.val, tile := s.here, launch := s.cur.launch })])) ∧
  (∀ (s : State) (o : Fin 4) (w k : BitVec 4) (sp : BitVec 1) (j : Fin 2) ps e rest x xs,
    let xi : Fin 4 := ⟨2 + j.val, by omega⟩
    let base := s.cur.st.w[w.toNat]
    s.cur.fifo.x[xi] = x :: xs → x.ready = true → x.born ≠ s.cur.tcc → s.cur.fifo.ov[o] = e :: rest → e.ready = true → e.born ≠ s.cur.tcc →
    Claims.gives (s.pieces .store (Claims.writeAsk sp (kindSize k.toNat)) (Claims.gathered base (kindSize k.toNat) x.val)) = some ps →
    s.anyRange ps = false →
    let t : Tile := { s.cur with fifo := { s.cur.fifo with x := s.cur.fifo.x.set xi xs } }
    exec (.stx (BitVec.ofNat 3 o.val) w k sp (BitVec.ofNat 1 j.val)) s =
      Claims.entered s .store (Claims.vectorStore t o ps e.val base) ps) ∧
  (∀ (s : State) (o : Fin 2) (w k : BitVec 4) (sp wd : BitVec 1) (i : BitVec 13) ps e rest,
    let va := s.cur.st.w[w.toNat] + i.signExtend 64
    let n := if wd = 1 then 8 else 4
    Claims.gives (s.pieces .store (Claims.writeAsk sp n) [{ pos := 0, len := n, va := va }]) = some ps →
    s.cur.fifo.os[o] = e :: rest → e.ready = true → e.born ≠ s.cur.tcc → s.anyRange ps = false →
    (∀ p rest, ps = p :: rest → aggKey s s.here p (some k) (wd == 1) = none) →
    exec (.atn (BitVec.ofNat 3 (4 + o.val)) w k sp wd i) s = Claims.entered s .store
      (Claims.scalarStore s.cur (.atomic { op := k, wide := wd == 1, operand := e.val, compare := 0 }) o ps (e.val.setWidth 4096) va) ps) ∧
  (∀ (s : State) (f : Fin 2) (w : BitVec 4) (sp : BitVec 1) (i : BitVec 9) ps e rest,
    let va := s.cur.st.w[w.toNat] + i.setWidth 64 * 16
    Claims.gives (s.pieces .store (Claims.barAsk sp .write 64) [{ pos := 0, len := 16, va := va }]) = some ps →
    s.cur.fifo.os[f] = e :: rest → e.ready = true → e.born ≠ s.cur.tcc → s.anyRange ps = false →
    exec (.barm (BitVec.ofNat 3 (4 + f.val)) w sp i) s =
      Claims.entered s .store (Claims.scalarStore s.cur (.arm e.val) f ps 0 va) ps)

/-- R33, R34, R179, R182, R348, R350: a store is performed where its pieces lie: the bytes of its data, the atomic's new value or the armed barrier word, and no other byte;
in the scratchpad it waits for a claim that began since its issue; at another die it is asked for. -/
def Obligations.StoresPerformAtTheirPlace : Prop :=
  (∀ (s : State) t l off n, Claims.lone (s.tile t) l → l.pieces = [{ pos := 0, len := n, loc := .spad off, va := l.va }] →
    let u := s.tile t
    let res (op : Nat → Nat) (m : Nat) : Out := .next (s.setTile t { u with
      st := { u.st with pending := [] }, spad := u.spad.writeN off m (op (u.spad.readN off m)) })
    (u.claimed off n = true → exec (.storePerform t l.seq) s = .next s) ∧
    (u.claimed off n = false → (l.kind = .plain → exec (.storePerform t l.seq) s = res (fun _ => l.data.toNat % 2 ^ (8 * n)) n) ∧
    (∀ a, l.kind = .atomic a → exec (.storePerform t l.seq) s = res a.apply a.size) ∧
    (∀ v, l.kind = .arm v → exec (.storePerform t l.seq) s = res (fun w => (barArm (BitVec.ofNat 128 w) v).toNat) 16) ∧
    (∀ a b, l.kind = .post a b → exec (.storePerform t l.seq) s =
      res (fun w => (barPost (BitVec.ofNat 128 w) a.toNat b.toNat).toNat) 16))) ∧
  (∀ (t : Tile) (d : Vec) off n va,
    let one (k : StoreKind) : Tile := t.spadStores k d [{ pos := 0, len := n, loc := .spad off, va := va }]
    one .plain = { t with spad := t.spad.writeN off n (d.toNat % 2 ^ (8 * n)) } ∧
    (∀ a, one (.atomic a) = { t with spad := t.spad.writeN off a.size (a.apply (t.spad.readN off a.size)) }) ∧
    (∀ v, one (.arm v) = { t with spad := t.spad.writeN off 16 (barArm (BitVec.ofNat 128 (t.spad.readN off 16)) v).toNat })) ∧
  (∀ (t : Tile) k d p rest, t.spadStores k d (p :: rest) = (t.spadStores k d [p]).spadStores k d rest) ∧
  (∀ (m : Memory) off n v, m.wf = true →
    (∀ y, off ≤ y → y < off + n → (m.writeN off n v).read y = BitVec.ofNat 8 (v / 256 ^ (y - off))) ∧
    (∀ y, y < off ∨ off + n ≤ y → (m.writeN off n v).read y = m.read y)) ∧
  (∀ (s : State) t l g n, Claims.lone (s.tile t) l → l.kind = .plain → l.pieces = [{ pos := 0, len := n, loc := .glob g, va := l.va }] →
    g.mode ≠ modeCached →
    (g.pkg = s.pkg → g.die.toNat = dieOf t → windowTile g.die g.pa.toNat = none → s.inMemory g.pkg g.die g.pa.toNat n = true →
      s.frameCmp g.pkg g.die g.pa.toNat = false → s.frameHeld (physAt g.pkg g.die g.pa.toNat) = false →
      (∀ l ∈ s.linesOf g n, s.rangeAt l.1 (128 * l.2) = none ∧ awaitingOf s.store.shadows l.1 l.2 = none) →
      (∀ y, y < n → windowTile g.die (g.pa.toNat + y) = none) → s.store.mem.wf = true →
      ∃ s', exec (.storePerform t l.seq) s = .next s' ∧ (s'.tile t).st.pending = [] ∧
        (∀ y, y < n → s'.store.mem.read (homeKey g.pkg g.die g.pa.toNat + y) = BitVec.ofNat 8 (l.data.toNat / 256 ^ y)) ∧
        ∀ a, a < homeKey g.pkg g.die g.pa.toNat ∨ homeKey g.pkg g.die g.pa.toNat + n ≤ a → s'.store.mem.read a = s.store.mem.read a) ∧
    (g.pkg ≠ s.pkg ∨ g.die.toNat ≠ dieOf t →
      ∃ s' r, exec (.storePerform t l.seq) s = .next s' ∧ s'.remote.reqs = s.remote.reqs ++ [r] ∧ r.kind = .store ∧ r.phase = .held ∧
        r.owner = .storePiece t l.seq 0 ∧ r.pkg = g.pkg ∧ r.die = g.die ∧ r.pa = g.pa.toNat ∧ r.len = n ∧
        r.data = BitVec.ofNat 1024 (l.data.toNat % 2 ^ (8 * n)) ∧ s'.store = s.store))

/-- R185-R188, R191, R349-R352: the ordering forms.  The marks of a pair hold each its strand until the other has issued; fence.s, aflush, rel and barr hold the
store strand, barw the load strand until its word is not ARMED; what each waits for, and when the strand goes on. -/
def Obligations.OrderingFormsHoldTheirStrand : Prop :=
  (∀ (s : State) (id : BitVec 8),
    let t := s.cur
    let nl := t.ld.marks[id.toNat] + 1
    let ns := t.st.marks[id.toNat] + 1
    (t.st.marks[id.toNat] < nl →
      exec (.markL id) s = s.yields .load { t with ld := { t.ld with marks := t.ld.marks.set id.toNat nl, hold := some (.mark id nl none) } }) ∧
    (t.ld.marks[id.toNat] < ns →
      exec (.markS id) s = s.yields .store { t with st := { t.st with marks := t.st.marks.set id.toNat ns, hold := some (.mark id ns none) } }) ∧
    (nl ≤ t.st.marks[id.toNat] → t.st.hold = some (.mark id nl none) →
      exec (.markL id) s = s.yields .load { t with
        ld := { t.ld with marks := t.ld.marks.set id.toNat nl, hold := some (.mark id nl (some t.st.seq)) }
        st := { t.st with hold := some (.mark id nl (some t.ld.seq)) } }) ∧
    (ns ≤ t.ld.marks[id.toNat] → t.ld.hold = some (.mark id ns none) →
      exec (.markS id) s = s.yields .store { t with
        st := { t.st with marks := t.st.marks.set id.toNat ns, hold := some (.mark id ns (some t.ld.seq)) }
        ld := { t.ld with hold := some (.mark id ns (some t.st.seq)) } })) ∧
  (∀ (s : State) (sc : BitVec 3),
    let held (h : StoreHold) : State := s.setTile s.here { s.cur with st := { s.cur.st with hold := some h } }
    exec (.fenceS 0) s = .next ((held (.fence 0 s.cur.st.seq)).modTile s.here fun t => t.retire .store) ∧
    (sc ≠ 0 → exec (.fenceS sc) s =
      .next (((held (.fence sc s.cur.st.seq)).leaveOf s.here).modTile s.here fun t => t.retire .store)) ∧
    exec .aflush s = .next (((held .aflush).leaveOf s.here).modTile s.here fun t => t.retire .store)) ∧
  (∀ (s : State) (o : Fin 2) (w k : BitVec 4) (i : BitVec 13) g e rest,
    let va := s.cur.st.w[w.toNat] + i.signExtend 64
    let n := if 2 ≤ k.toNat then 256 else 8
    Claims.gives (s.pieces .store (Claims.writeAsk 0 n) [{ pos := 0, len := 8, va := va }]) =
      some [{ pos := 0, len := 8, loc := .glob g, va := va }] →
    s.cur.fifo.os[o] = e :: rest → e.ready = true → e.born ≠ s.cur.tcc →
    let s1 := s.setTile s.here { s.cur with
      fifo := { s.cur.fifo with os := s.cur.fifo.os.set o rest }
      st := { s.cur.st with hold := some (.rel (k.setWidth 3) s.cur.st.seq 1 g e.val va (s.cur.pcOf .store)) } }
    exec (.rel (BitVec.ofNat 3 (4 + o.val)) w k i) s =
      .next ((if k = 0 then s1 else s1.leaveOf s.here).modTile s.here fun t => t.retire .store)) ∧
  (∀ (s : State) (f : Fin 2) (w : BitVec 4) (sp : BitVec 1) (i : BitVec 9) p e rest,
    let va := s.cur.st.w[w.toNat] + i.setWidth 64 * 16
    Claims.gives (s.pieces .store (Claims.barAsk sp .write 64) [{ pos := 0, len := 16, va := va }]) = some [p] →
    s.cur.fifo.os[f] = e :: rest → e.ready = true → e.born ≠ s.cur.tcc →
    let s1 := s.setTile s.here { s.cur with
      fifo := { s.cur.fifo with os := s.cur.fifo.os.set f rest }
      st := { s.cur.st with hold := some (.barr s.cur.st.seq 0 p.loc e.val va (s.cur.pcOf .store)) } }
    exec (.barr (BitVec.ofNat 3 (4 + f.val)) w sp i) s =
      .next ((if sp = 1 then s1 else s1.leaveOf s.here).modTile s.here fun t => t.retire .store)) ∧
  (∀ (s : State) (a : BitVec 4) (i : BitVec 13) off g,
    let va := s.cur.ld.a[a.toNat] + i.signExtend 64
    (Claims.gives (s.pieces .load (Claims.barAsk 1 .read 128) [{ pos := 0, len := 16, va := va }]) =
        some [{ pos := 0, len := 16, loc := .spad off, va := va }] →
      (s.cur.ld.pending = [] → barState (BitVec.ofNat 128 (s.cur.spad0.readN off 16)) ≠ 1 → exec (.barw a 1 i) s = s.yields .load s.cur) ∧
      (s.cur.ld.pending ≠ [] ∨ barState (BitVec.ofNat 128 (s.cur.spad0.readN off 16)) = 1 → exec (.barw a 1 i) s = .next s)) ∧
    (Claims.gives (s.pieces .load (Claims.barAsk 0 .read 128) [{ pos := 0, len := 16, va := va }]) =
        some [{ pos := 0, len := 16, loc := .glob g, va := va }] → s.cur.ld.pending = [] →
      exec (.barw a 0 i) s = s.yields .load { s.cur with ld := { s.cur.ld with hold := some (.barw g va (s.cur.pcOf .load)) } })) ∧
  (∀ (s : State) t g va pc, (s.tile t).ld.hold = some (.barw g va pc) → g.pkg = s.pkg → g.die.toNat = dieOf t →
    windowTile g.die g.pa.toNat = none → s.inMemory g.pkg g.die g.pa.toNat 16 = true → s.frameCmp g.pkg g.die g.pa.toNat = false →
    s.frameHeld (physAt g.pkg g.die g.pa.toNat) = false →
    let w : BarWord := BitVec.ofNat 128 (s.rdN (s.tile t).ctx g.pkg g.die g.pa.toNat 16)
    (barState w ≠ 1 →
      exec (.barwPoll t) s = .next (s.setTile t { (s.tile t) with ld := { (s.tile t).ld with hold := none } })) ∧
    (barState w = 1 → exec (.barwPoll t) s = .next s)) ∧
  (∀ (s : State) t,
    (∀ id k n, (s.tile t).st.hold = some (.mark id k (some n)) → (s.tile t).ld.oldest < n → s.storeHold t = s) ∧
    (∀ id k n, (s.tile t).st.hold = some (.mark id k (some n)) → n ≤ (s.tile t).ld.oldest → ((s.storeHold t).tile t).st.hold = none) ∧
    (∀ id k n, (s.tile t).ld.hold = some (.mark id k (some n)) → n ≤ (s.tile t).st.oldest → ((s.loadHold t).tile t).ld.hold = none) ∧
    (∀ sc q, (s.tile t).st.hold = some (.fence sc q) → q ≤ (s.tile t).st.oldest → (sc = 0 ∨ s.aggClear t = true) →
      ((s.storeHold t).tile t).st.hold = none) ∧
    ((s.tile t).st.hold = some .aflush → s.aggAccepted t = true → ((s.storeHold t).tile t).st.hold = none) ∧
    (∀ sc q g v va pc, (s.tile t).st.hold = some (.rel sc q 2 g v va pc) → q ≤ (s.tile t).st.oldest → sc.toNat < 2 →
      ((s.storeHold t).tile t).st.pending = (s.tile t).st.pending ++
        [{ seq := (s.tile t).st.seq, kind := .flag, pieces := [{ pos := 0, len := 8, loc := .glob g, va := va }], data := v.setWidth 4096,
           waits := [], sent := false, pc := pc, va := va }]))

/-- R192-R197: sset applies a valid descriptor to a stream that is not running, and refuses another; sclr empties a stream with nothing in flight; an ACTIVE stream
reads its next element into the entry in assembly, and an element that faults halts it there. -/
def Obligations.StreamsRunTheirPattern : Prop :=
  (∀ (s : State) (q : BitVec 3) (a : BitVec 4) (d : BitVec 10),
    let t := s.cur
    let x := t.ld.stream[q.toNat]
    let desc := BitVec.ofNat 512 (t.rsp.readN (64 * d.toNat) 64)
    let off := t.ld.a[a.toNat]
    let i := Instr.sset q a d
    ((x.phase = .active ∨ x.phase = .halted ∨ descOk q.toNat desc = false) → exec i s = Claims.faults s .load 0x07 0) ∧
    ((x.phase = .explicit ∨ x.phase = .drained) → descOk q.toNat desc = true → (dCons desc = x.control ∨ t.qEmpty q = true) →
      (dMode desc = 1 → descAligned desc = false → exec i s = Claims.faults s .load 0x05 (dBase desc + off)) ∧
      ((dMode desc = 0 ∨ descAligned desc = true) →
        ∃ y, exec i s = s.yields .load { t with ld := { t.ld with stream := t.ld.stream.set q.toNat y } } ∧
          y.phase = (if dMode desc = 0 then .explicit else .active) ∧ y.desc = desc ∧ y.base = dBase desc + off ∧ y.next = 0 ∧ y.filled = 0 ∧
          y.acc = 0 ∧ y.control = dCons desc ∧ y.after = t.ld.seq))) ∧
  (∀ (s : State) (q : Fin 4),
    let t := s.cur
    (t.ld.stream[q.val]).waits = [] → (∀ l ∈ t.ld.pending, l.q ≠ BitVec.ofNat 3 q.val) →
    ∃ u, exec (.sclr (BitVec.ofNat 3 q.val)) s = s.yields .load u ∧ u.fifo.qv = t.fifo.qv.set q [] ∧ u.fifo.qpos = t.fifo.qpos.set q 0 ∧
      (u.ld.stream[q.val]).phase = .explicit ∧ (u.ld.stream[q.val]).filled = 0 ∧ u.spad = t.spad) ∧
  (∀ (s : State) t (n : Fin 4),
    let u := s.tile t
    let x := u.ld.stream[n.val]
    let d := x.desc
    let at_ := elemAddr d x.base x.next
    let off := at_.1.toNat % 2 ^ 21
    let bytes := dWidth d / 8
    x.phase = .active → x.clearing = false → u.streamOrdered x = true → x.reserved = true → dSp d = true → dCbx d = false → dScale d = false →
    dCvt d = false → dWidth d % 8 = 0 → 0 < bytes → (dPad d = false ∨ levelIndex d x.next 0 < dLimit d) → off + bytes ≤ 2 ^ 21 →
    (u.claims = [] →
      exec (.streamElement t (BitVec.ofNat 3 n.val)) s = .next (s.setTile t (u.streamPut ⟨n.val, by omega⟩ [u.spad.readN off bytes] 0))) ∧
    (u.claims.contains (bankGroup off) = true → u.canReport .load = true →
      ∃ s', exec (.streamElement t (BitVec.ofNat 3 n.val)) s = .next s' ∧ ((s'.tile t).ld.stream[n.val]).phase = .halted ∧
        ((s'.tile t).ld.stream[n.val]).faultOrd = x.next ∧ (s'.tile t).spad = u.spad)) ∧
  (∀ (t : Tile) (n : Fin 4) v,
    let i : Fin 8 := ⟨n.val, by omega⟩
    let x := t.ld.stream[n.val]
    let d := x.desc
    let cap := if dCbx d then 128 else 4096 / ccBits (dDst d)
    let w := if dCbx d then 32 else ccBits (dDst d)
    let acc := x.acc ||| BitVec.ofNat 4096 (v * 2 ^ (w * x.filled))
    let u := t.streamPut i [v] 0
    (u.ld.stream[n.val]).next = x.next + 1 ∧
    (x.filled + 1 < cap → x.next + 1 < dTotal d →
      u.fifo = t.fifo ∧ (u.ld.stream[n.val]).filled = x.filled + 1 ∧ (v < 2 ^ w → (u.ld.stream[n.val]).acc = acc)) ∧
    (cap ≤ x.filled + 1 ∨ dTotal d ≤ x.next + 1 →
      (u.ld.stream[n.val]).filled = 0 ∧ (u.ld.stream[n.val]).acc = 0 ∧
      (u.ld.stream[n.val]).phase = (if dTotal d ≤ x.next + 1 then .drained else .active) ∧
      (v < 2 ^ w → u.fifo.qv[n] = t.fifo.qv[n].map fun e =>
        if e.ready = false ∧ e.tag = BitVec.ofNat 64 (2 ^ 63 + x.tags) then { e with val := acc, ready := true, born := t.tcc - 1 } else e)))

/-- The frame of the load strand's instructions and of the store strand's marks and address registers (R21, R28): they change no byte of the scratchpad
but those an atr.sp names, no other tile, no register of the other strands but the mark they meet, and no context or queue.  A load changes no byte of memory, but for atr, whose line may be readied for a
snapshot. -/
def Obligations.AccessFrame : Prop :=
  ∀ i (s s' : State), (Claims.isLoad i = true ∨ Claims.isStoreLocal i = true) → exec i s = .next s' →
    (∀ n, n ≠ s.here → s'.tile n = s.tile n) ∧
    ((∀ q a k w d, i ≠ .atr q a k 1 w d) → s'.cur.spad = s.cur.spad) ∧
    (∀ q a k (w : BitVec 1) (d : BitVec 13), i = .atr q a k 1 w d → s.cur.spad.wf = true →
      let off := (s.cur.ld.a[a.toNat] + d.signExtend 64).toNat % 2 ^ 21
      ∀ y, (y < off ∨ off + (if w = 1 then 8 else 4) ≤ y) → s'.cur.spad.read y = s.cur.spad.read y) ∧
    s'.cur.ctl = s.cur.ctl ∧ s'.cur.vec = s.cur.vec ∧ s'.cur.mx = s.cur.mx ∧ s'.cur.xf = s.cur.xf ∧ s'.cur.tx = s.cur.tx ∧
    s'.cur.rx = s.cur.rx ∧ s'.cur.sync = s.cur.sync ∧ s'.cur.rsp = s.cur.rsp ∧ s'.cur.phase = s.cur.phase ∧
    (∀ k, k ≠ .load → k ≠ .store → s'.cur.str k = s.cur.str k ∧ s'.cur.fpsr k = s.cur.fpsr k) ∧ s'.ctxs = s.ctxs ∧ s'.queues = s.queues ∧
    ((∀ q a k sp w d, i ≠ .atr q a k sp w d) → ∀ a, s'.store.mem.read a = s.store.mem.read a) ∧
    (Claims.isLoad i = true → s'.cur.st.w = s.cur.st.w ∧ s'.cur.st.pending = s.cur.st.pending) ∧
    (Claims.isStoreLocal i = true → s'.cur.ld.a = s.cur.ld.a ∧ s'.cur.ld.pending = s.cur.ld.pending)
namespace Sys2Proof.Claims
open Sys2Proof Sys2Proof.Machine

/-! ## Commands -/

/-- Sem[w] lets a command with this await start; 63 awaits nothing. -/
def mayStart (t : Tile) (w : BitVec 6) : Prop := w = 63 ∨ 1 ≤ (t.sync.sem[w.toNat]).toNat

/-- The semaphores after an await has been taken. -/
def awaited (t : Tile) (w : BitVec 6) : Vector (BitVec 16) 64 :=
  if w = 63 then t.sync.sem else t.sync.sem.set w.toNat (t.sync.sem[w.toNat] - 1)

/-- The semaphores after a raise. -/
def raised (t : Tile) (r : BitVec 6) : Vector (BitVec 16) 64 :=
  if r = 63 then t.sync.sem else t.sync.sem.set r.toNat (BitVec.ofNat 16 (min ((t.sync.sem[r.toNat]).toNat + 1) 65535))

/-- A matrix command's fields. -/
def mc (op : Nat) (w r : BitVec 6) (c l a b : BitVec 1) (f g : BitVec 4) : McWord :=
  { op := op, await := w, rise := r, c := c, clr := l == 1, ta := a == 1, tb := b == 1, fa := f.toNat, fb := g.toNat }

/-- What a matrix instruction with the fields `w` does on a tile that owns Anvil windows: it holds until it may start; a failed check raises
COMMAND-FAULT; else its command is in flight with its parameters captured, its await taken and its groups claimed. -/
def McStarts (i : Instr) (w : McWord) : Prop :=
  ∀ s : State, s.hasWindow s.here = true →
    let t := s.cur
    (t.anvilFree w = false ∨ ¬ mayStart t w.await → exec i s = .next s) ∧
    (∀ sub, t.anvilFree w = true → mayStart t w.await → t.checkMc true w = .error sub →
      exec i s = .next (s.fault s.here .matrix { code := 0x40, sub := sub })) ∧
    (∀ st, t.anvilFree w = true → mayStart t w.await → t.checkMc true w = .ok st →
      t.xfClaims st.claims = true ∨ t.outDue st.claims (operandOf t.mx.mp[0]).view = true → exec i s = .next s) ∧
    (∀ st, t.anvilFree w = true → mayStart t w.await → t.checkMc true w = .ok st → t.xfClaims st.claims = false →
      t.outDue st.claims (operandOf t.mx.mp[0]).view = false →
      ∃ u cs cmd, exec i s = s.yields .matrix u ∧ u.mx.cmds = cs ++ [cmd] ∧ mcOf cmd.word = w ∧ cmd.mp = t.mx.mp ∧
        cmd.cview = t.vec.cview ∧ cmd.t0 = t.tcc ∧ cmd.prescan = st.prescan ∧ cmd.steps = st.steps ∧ cmd.claims = st.claims ∧
        cmd.taken = 0 ∧ cmd.landings = [] ∧ cmd.raised = false ∧ u.mx.mp = t.mx.mp ∧ u.mx.seq = t.mx.seq + 1 ∧
        u.sync.sem = awaited t w.await ∧ u.spad = t.spad ∧ u.vec = t.vec ∧ u.fifo = t.fifo ∧
        (cs.map fun c => { c with landings := [] }) = (t.mx.cmds.map fun c => { c with landings := [] }) ∧
        (w.clr = false → cs = t.mx.cmds ∧ u.rsp = t.rsp))

/-- What a transform instruction does: its command is in flight, with its groups claimed and its await taken, or it holds. -/
def TcStarts (i : Instr) (word : W32) : Prop :=
  ∀ s : State,
    let t := s.cur
    let w := tcOf word
    let tp : Vector W64 4 := #v[t.xf.tp[0], t.xf.tp[1], t.xf.tp[2], t.xf.tp[3]]
    (w.plan < 4 → exec i s = .next (s.fault s.here .transform { code := 0x01 })) ∧
    (∀ plan groups, 4 ≤ w.plan → (w.op = 2 → w.wide = true ∧ w.real = false) → t.xf.tp[w.plan]? = some plan →
      groups = xfGroups w tp plan t.spad0 →
      (t.xf.cmd.isSome = true ∨ (∃ c ∈ t.mx.cmds, ∃ g ∈ c.claims, g ∈ groups) ∨ ¬ mayStart t w.await → exec i s = .next s) ∧
      (t.xf.cmd = none → (∀ c ∈ t.mx.cmds, ∀ g ∈ c.claims, g ∉ groups) → mayStart t w.await →
        exec i s = .next (s.setTile s.here { t with
          sync := { t.sync with sem := awaited t w.await }
          xf := { t.xf with
            cmd := some { word := word, pc := t.pcOf .transform, tp := tp, plan := plan, t0 := t.tcc, started := false, steps := 0,
                          taken := 0, claims := groups, raised := false }
            seq := t.xf.seq + 1 } })))

/-- The 64-byte descriptor that a parameter register names, as the TC found it. -/
def descriptor (t : Tile) (v : W64) : BitVec 512 := BitVec.ofNat 512 (t.spad0.readN (v.toNat % 2 ^ 21) 64)

/-- What a send-strand instruction does: its command is in flight with its descriptor read, or it holds. -/
def XcStarts (i : Instr) (word : W32) (isTree : Bool) : Prop :=
  ∀ s : State,
    let t := s.cur
    let w := xcOf word
    let desc := descriptor t t.tx.xp[w.desc.toNat]
    let full := isTree && s.treeFull s.here (desc.extractLsb' 0 4) (desc.extractLsb' 128 16)
    (t.tx.cmd.isSome = true ∨ full = true ∨ ¬ mayStart t w.await → exec i s = .next s) ∧
    (t.tx.cmd = none → full = false → mayStart t w.await →
      exec i s = .next (s.setTile s.here { t with
        sync := { t.sync with sem := awaited t w.await }
        tx := { t.tx with
          cmd := some { word := word, pc := t.pcOf .send, t0 := t.tcc, started := false, desc := desc, transfers := [], tree := none,
                        soff := 0, promise := 0, lastFc := none, raised := false }
          seq := t.tx.seq + 1 } }))

/-- What a receive-strand instruction does. -/
def YcStarts (i : Instr) (word : W32) : Prop :=
  ∀ s : State,
    let t := s.cur
    let w := xcOf word
    (t.rx.cmd.isSome = true ∨ ¬ mayStart t w.await → exec i s = .next s) ∧
    (t.rx.cmd = none → mayStart t w.await →
      exec i s = .next (s.setTile s.here { t with
        sync := { t.sync with sem := awaited t w.await }
        rx := { t.rx with
          cmd := some { word := word, pc := t.pcOf .receive, t0 := t.tcc, started := false, desc := descriptor t t.rx.yp[w.desc.toNat],
                        raised := false }
          seq := t.rx.seq + 1 } }))

/-- The start check of a send-strand command, by its op. -/
def sendCheck (s : State) (t : TileNo) (c : SendCmd) : Checked State SendCmd :=
  if (xcOf c.word).op = 1 then s.checkSend t c else if (xcOf c.word).op = 2 then s.checkSwg t c else s.checkRtree t c

/-- No flit of the fabric has a slot behind it that is still to be resolved. -/
def slotsResolved (s : State) : Prop := ∀ f ∈ s.fabric.flits, ∀ p ∈ f.slots, s.fcc.toNat ≤ p.1.toNat

/-- Body line `n` is the last of the active level `i`. -/
def endsAt (f : Fetch) (n : Nat) (i : Fin 6) : Prop := (f.level[i]).active = true ∧ (f.level[i]).first + (f.level[i]).length = n + 1

/-- Line `n` with the lanes `ls` has been delivered to the tile `x`, which has become `u`: each strand that has not halted has its lanes behind
what its queue held, the control strand also the place of ILLEGAL-EXT of an extension without a target. -/
def delivered (x u : Tile) (ls : Lanes) : Prop :=
  (∀ k, (u.str k).queue = if (x.str k).halted then (x.str k).queue
    else (x.str k).queue ++ (if k = .control then ls.orphans.take 1 else []) ++
      (ls.insns.filter fun e => e.1 == k).map fun e => e.2) ∧
  u.spad = x.spad ∧ u.rsp = x.rsp ∧ u.ctl = x.ctl ∧ u.fifo = x.fifo

/-- Fetch after line `n`, delivered with the lanes `ls`: it holds for a branch that the control strand received, or goes on from `f` behind the
`skip` lines that it passes over. -/
def fetchAfter (x u : Tile) (ls : Lanes) (f : Fetch) (n skip : Nat) : Prop :=
  let branch := (x.str .control).halted = false ∧ ∃ e ∈ ls.insns, e.1 = .control ∧ isBranchWord e.2.word = true
  (branch → u.fetch = { f with addr := BitVec.ofNat 64 (32 * (n + skip + 1)),
                               branch := some { line := BitVec.ofNat 64 (32 * n), skip := skip, issued := none } }) ∧
  (¬ branch → u.fetch = f.next (n + skip))

/-- A strand other than control of a RUNNING tile that does not drain, on which a fault may be reported. -/
def reportable (t : Tile) : Prop := t.phase = .running ∧ t.draining = false

/-- The fault is reported on strand `k` of a tile. -/
def reported (u : Tile) (k : Strand) (code sub : Nat) (pc faddr : W64) : Prop :=
  (u.str k).stopped = true ∧ (u.str k).reached.isSome = true ∧ (u.str k).fault = { cause := causeWord code sub 0, fpc := pc, faddr := faddr }

end Sys2Proof.Claims

/-! ## Commands (08_array.md, 09_transform.md, 14_group.md) and fetch (04_lines.md) -/

/-- R50, R199-R202, R221, Table 8-9: the matrix strand's parameters and the start of its commands; the strand of a tile that owns no Anvil window takes
ILLEGAL-INSN; a follow-on word starts in the same way and has its semaphore raised (in the TC after, the model's choice: log entry 85), or waits, or is
refused with an asynchronous record. -/
def Obligations.MatrixCommandsStart : Prop :=
  (∀ (s : State) (r : Fin 8) i x, s.hasWindow s.here = true →
    exec (.mpar (BitVec.ofNat 4 r.val) i x) s = s.yields .matrix { s.cur with mx := { s.cur.mx with mp := s.cur.mx.mp.set r (imm22 i x) } }) ∧
  (∀ (s : State) (r : Fin 8) e rest, s.hasWindow s.here = true →
    (s.cur.fifo.k[4] = e :: rest → e.ready = true → e.born ≠ s.cur.tcc →
      exec (.mparq (BitVec.ofNat 4 r.val)) s = s.yields .matrix { s.cur with
        fifo := { s.cur.fifo with k := s.cur.fifo.k.set 4 rest }, mx := { s.cur.mx with mp := s.cur.mx.mp.set r e.val } }) ∧
    (s.cur.fifo.k[4] = [] → exec (.mparq (BitVec.ofNat 4 r.val)) s = .next s)) ∧
  (∀ (s : State) r i x w rr (c l a b : BitVec 1) f g, s.hasWindow s.here = false →
    ∀ j ∈ [Instr.mpar r i x, .mparq r, .mma w rr c l a b f g, .mmas w rr c l a f g, .mzero w rr c, .mout w rr c f],
      exec j s = .next (s.fault s.here .matrix { code := 0x01 })) ∧
  (∀ w r c l a b f g, Claims.McStarts (.mma w r c l a b f g) (Claims.mc 2 w r c l a b f g)) ∧
  (∀ w r c l a f g, Claims.McStarts (.mmas w r c l a f g) (Claims.mc 3 w r c l a 0 f g)) ∧
  (∀ w r c, Claims.McStarts (.mzero w r c) (Claims.mc 4 w r c 0 0 0 0 0)) ∧
  (∀ w r c f, Claims.McStarts (.mout w r c f) (Claims.mc 5 w r c 0 0 0 f 0)) ∧
  (∀ (t : Tile) win w r c, t.checkMc win (Claims.mc 4 w r c 0 0 0 0 0) = .ok { claims := [], prescan := 0, steps := 8 }) ∧
  (∀ (s : State) t word sem rest, (s.tile t).mx.follow = (word, sem) :: rest →
    let x := s.tile t
    let w := mcOf word
    let refused (s' : State) : Prop := s'.tile t = { x with mx := { x.mx with follow := rest } } ∧
      (s'.ctx x.ctx).records.length = (s.ctx x.ctx).records.length + 1
    (w.op ≠ 2 → w.op ≠ 3 → ∃ s', exec (.followOnStart t) s = .next s' ∧ refused s') ∧
    (∀ i, (w.op = 2 ∨ w.op = 3) → decodeMatrix word [] = some i → i.fieldsOk = true →
      (x.preempt = true ∨ x.anvilFree w = false ∨ ¬ Claims.mayStart x w.await → exec (.followOnStart t) s = .next s) ∧
      (∀ sub, x.preempt = false → x.anvilFree w = true → Claims.mayStart x w.await → x.checkMc (s.hasWindow t) w = .error sub →
        ∃ s', exec (.followOnStart t) s = .next s' ∧ refused s') ∧
      (∀ st, x.preempt = false → x.anvilFree w = true → Claims.mayStart x w.await → x.checkMc (s.hasWindow t) w = .ok st →
        x.xfClaims st.claims = false → x.outDue st.claims (operandOf x.mx.mp[0]).view = false →
        ∃ s' cs cmd, exec (.followOnStart t) s = .next s' ∧ (s'.tile t).mx.follow = rest ∧ (s'.tile t).mx.cmds = cs ++ [cmd] ∧
          cmd.followOn = true ∧ cmd.word = word ∧ cmd.mp = x.mx.mp ∧ cmd.claims = st.claims ∧ cmd.steps = st.steps ∧
          (s'.tile t).mx.seq = x.mx.seq ∧ (s'.tile t).sync.sem = Claims.awaited x w.await ∧
          (cs.map fun c => { c with landings := [] }) = (x.mx.cmds.map fun c => { c with landings := [] }) ∧
          (s'.tile t).mx.sigs = (if sem = 63 then x.mx.sigs else { rel := false, id := sem, count := 1, before := 0 } :: x.mx.sigs))))

/-- R200, R212-R222, R68: the Anvil.  In every TC what is due lands, and in a TC that belongs to the tile its command takes a step, whose landing
is due 8 TCs later; a landing clears rows, adds its contributions to each element, or writes a row's bytes; a prescan that passes lets
the steps begin, one that fails removes the command and reports COMMAND-FAULT, for a follow-on word as a record; nine TCs after the last
step the semaphore rises. -/
def Obligations.AnvilRunsItsCommands : Prop :=
  (∀ (s : State) t, s.ownsTc t = false → exec (.anvilStep t) s = .next (s.setTile t (s.tile t).landDue)) ∧
  (∀ (s : State) t cs c rest,
    let x := (s.tile t).landDue
    let w := mcOf c.word
    let sh := shapeOf c.mp[2]
    let runs (d : AnvilCmd) : Prop := d.scanned = true ∧ d.taken < d.steps ∧ (d.t0 + BitVec.ofNat 64 d.prescan).toNat < x.tcc.toNat
    let after (l : AnvilLanding) (u : Tile) : Prop := u.mx.cmds = cs ++ { c with
        taken := c.taken + 1, landings := c.landings ++ [l], lastStep := if c.steps ≤ c.taken + 1 then some x.tcc else none } :: rest ∧
      u.rsp = x.rsp ∧ u.spad = x.spad
    s.ownsTc t = true → x.mx.cmds = cs ++ c :: rest → (∀ d ∈ cs, ¬ runs d) → runs c →
    (w.op = 4 → ∃ s', exec (.anvilStep t) s = .next s' ∧
      after (.zero (x.tcc + 8) (512 + 128 * w.c.toNat + 16 * c.taken)) (s'.tile t)) ∧
    (w.op = 5 → ∃ s' bytes, exec (.anvilStep t) s = .next s' ∧ bytes = (x.moutRow c w c.taken).1 ∧
      let d := operandOf c.mp[6]
      after (.out (x.tcc + 8) d.view ((if d.view then 512 * fld c.tview.toNat 0 10 + d.off else d.off) + c.taken * d.pitch * 32) bytes)
        (s'.tile t)) ∧
    (w.op = 2 →
      let ks := pairKS w.fa w.fb
      let n := (sh.k + ks - 1) / ks
      ∃ s' cols, exec (.anvilStep t) s = .next s' ∧ cols.length = sh.n ∧
        (∀ j (_ : j < sh.n), cols[j]? = some (x.chunks c w [] (c.taken / n) j (c.taken % n * ks) (min sh.k (c.taken % n * ks + ks)))) ∧
        after (.update (x.tcc + 8) (512 + 128 * w.c.toNat + (sh.row0 + c.taken / n)) cols) (s'.tile t)) ∧
    (∀ q, w.op = 3 →
      let ks := pairKS w.fa w.fb
      let segs := liveSegs x.spad0 (fld c.mp[4].toNat 21 21) sh.k sh.n
      let slabs := liveSlabs segs ks sh.k
      slabs[c.taken % slabs.length]? = some q →
      ∃ s' cols, exec (.anvilStep t) s = .next s' ∧ cols.length = sh.n ∧
        (∀ j (_ : j < sh.n),
          cols[j]? = some (x.chunks c w segs (c.taken / slabs.length) j (q * (2 * ks)) (min sh.k (q * (2 * ks) + 2 * ks)))) ∧
        after (.update (x.tcc + 8) (512 + 128 * w.c.toNat + (sh.row0 + c.taken / slabs.length)) cols) (s'.tile t))) ∧
  (∀ (s : State) t c l, (s.tile t).mx.cmds = [c] → c.landings = [l] → s.ownsTc t = false → l.due.toNat ≤ (s.tile t).tcc.toNat →
    (s.tile t).rsp.wf = true → (s.tile t).spad.wf = true →
    let x := s.tile t
    ∃ s', exec (.anvilStep t) s = .next s' ∧ (s'.tile t).mx.cmds = [{ c with landings := [] }] ∧
      (∀ d row, l = .zero d row → ∀ q, (s'.tile t).rsp.row q = if row ≤ q ∧ q < row + 16 then 0 else x.rsp.row q) ∧
      (∀ d row cols, l = .update d row cols →
        (∀ j (h : j < cols.length), (s'.tile t).rsp.readN (512 * row + 4 * j) 4 =
          (accumulate (x.rsp.readN (512 * row + 4 * j) 4) cols[j]).1 % 2 ^ 32) ∧
        ∀ a, a < 512 * row ∨ 512 * row + 4 * cols.length ≤ a → (s'.tile t).rsp.read a = x.rsp.read a) ∧
      (∀ d first bytes, l = .out d false first bytes → (s'.tile t).rsp = x.rsp ∧
        (∀ i (h : i < bytes.length), (s'.tile t).spad.read (first + i) = bytes[i]) ∧
        ∀ a, a < first ∨ first + bytes.length ≤ a → (s'.tile t).spad.read a = x.spad.read a) ∧
      (∀ d first bytes, l = .out d true first bytes → (s'.tile t).spad = x.spad ∧
        (∀ i (h : i < bytes.length), (s'.tile t).rsp.read (first + i) = bytes[i]) ∧
        ∀ a, a < first ∨ first + bytes.length ≤ a → (s'.tile t).rsp.read a = x.rsp.read a)) ∧
  (∀ (s : State) t cs c rest,
    let x := s.tile t
    let w := mcOf c.word
    let sh := shapeOf c.mp[2]
    let ends (d : AnvilCmd) : Prop := d.scanned = false ∧ (d.t0 + BitVec.ofNat 64 d.prescan).toNat ≤ x.tcc.toNat
    let n := if w.op = 3 then
        sh.m * (liveSlabs (liveSegs x.spad0 (fld c.mp[4].toNat 21 21) sh.k sh.n) (pairKS w.fa w.fb) sh.k).length
      else c.steps
    x.mx.cmds = cs ++ c :: rest → (∀ d ∈ cs, ¬ ends d) → ends c →
    (x.prescanBad c = none →
      exec (.anvilPrescan t) s = .next (s.setTile t { x with mx := { x.mx with cmds := cs ++ { c with
        scanned := true, steps := n, lastStep := if n = 0 then some x.tcc else none } :: rest } })) ∧
    (∀ sub addr, x.prescanBad c = some (sub, addr) → c.followOn = false → Claims.reportable x → sub < 256 →
      ∃ s', exec (.anvilPrescan t) s = .next s' ∧ (s'.tile t).mx.cmds = cs ++ rest ∧ (s'.tile t).sync.sem = Claims.raised x w.await ∧
        Claims.reported (s'.tile t) .matrix 0x40 sub c.pc (BitVec.ofNat 64 addr)) ∧
    (∀ sub addr, x.prescanBad c = some (sub, addr) → c.followOn = true →
      ∃ s', exec (.anvilPrescan t) s = .next s' ∧ (s'.tile t).mx.cmds = cs ++ rest ∧ (s'.tile t).sync.sem = Claims.raised x w.await ∧
        (s'.ctx x.ctx).records.length = (s.ctx x.ctx).records.length + 1)) ∧
  (∀ (s : State) t cs c rest l, (s.tile t).mx.cmds = cs ++ c :: rest → c.lastStep = some l → c.raised = false →
    (∀ d ∈ cs ++ rest, d.raised = true ∨ ∀ m, d.lastStep = some m → (s.tile t).tcc.toNat < (m + 9).toNat) → (s.tile t).mx.sigs = [] →
    let x := s.tile t
    ((l + 9).toNat ≤ x.tcc.toNat →
      ∃ s', exec (.commandRaise t .matrix) s = .next s' ∧ (s'.tile t).mx.cmds = cs ++ { c with raised := true } :: rest ∧
        (s'.tile t).sync.sem = Claims.raised x (mcOf c.word).rise ∧ (s'.tile t).rsp = x.rsp ∧ (s'.tile t).spad = x.spad) ∧
    (x.tcc.toNat < (l + 9).toNat → exec (.commandRaise t .matrix) s = .next s))

/-- R224-R236: the transform strand: its parameters, the start of its commands, the checks in the next TC, one step in each TC after that with its
writes, and the raise eighteen TCs later. -/
def Obligations.TransformCommandsRun : Prop :=
  (∀ (s : State) (r : BitVec 4) i x,
    exec (.tpar r i x) s = s.yields .transform { s.cur with xf := { s.cur.xf with tp := s.cur.xf.tp.set r.toNat (imm22 i x) } }) ∧
  (∀ w r d q e t, Claims.TcStarts (.fft w r d q e t) (tcWord 1 w r d q e t)) ∧
  (∀ w r d t, Claims.TcStarts (.leg w r d t) (tcWord 2 w r d 1 0 t)) ∧
  (∀ w r (d q e : BitVec 1) (t : BitVec 4), tcOf (tcWord 1 w r d q e t) =
    { op := 1, await := w, rise := r, dir := d == 1, wide := q == 1, real := e == 1, plan := t.toNat }) ∧
  (∀ (s : State) t c, (s.tile t).xf.cmd = some c →
    let x := s.tile t
    let w := tcOf c.word
    (c.started = false → x.tcc.toNat ≤ c.t0.toNat → exec (.transformStep t) s = .next s) ∧
    (∀ sub, c.started = false → c.t0.toNat < x.tcc.toNat → x.checkTc c = .error sub → Claims.reportable x → sub < 256 →
      ∃ s', exec (.transformStep t) s = .next s' ∧ (s'.tile t).xf.cmd = none ∧ (s'.tile t).sync.sem = Claims.raised x w.await ∧
        Claims.reported (s'.tile t) .transform 0x40 sub c.pc 0 ∧ (s'.tile t).spad = x.spad) ∧
    (∀ n, c.started = false → c.t0.toNat < x.tcc.toNat → x.checkTc c = .ok n →
      ∃ s', exec (.transformStep t) s = .next s' ∧ (s'.tile t).xf.cmd = some { c with started := true, steps := n } ∧
        (s'.tile t).spad = x.spad ∧ ((s'.tile t).str .transform).queue = (x.str .transform).queue.tail ∧
        ((s'.tile t).str .transform).count = (x.str .transform).count + 1) ∧
    (c.started = true → c.taken < c.steps →
      ∃ s', exec (.transformStep t) s = .next s' ∧ (s'.tile t).xf.cmd = some { c with taken := c.taken + 1 } ∧
        (s'.tile t).spad = (if w.op = 1 then (fftStep w (fftRun w c.tp c.plan x.spad0) c.taken x.spad0 x.spad).1
          else (legStep w c.tp (legPlan c.tp c.plan x.spad0) c.taken x.spad0 x.spad).1) ∧ (s'.tile t).rsp = x.rsp) ∧
    (c.started = true → c.steps ≤ c.taken → exec (.transformStep t) s = .next s) ∧
    (c.started = true → c.raised = false → x.xf.sigs = [] → (c.t0 + BitVec.ofNat 64 (c.steps + 18)).toNat ≤ x.tcc.toNat →
      exec (.commandRaise t .transform) s = .next (s.setTile t { x with
        xf := { x.xf with cmd := some { c with raised := true } }, sync := { x.sync with sem := Claims.raised x w.rise } })))

/-- R322-R341: the send and receive strands, the scheduled plane and the trees: parameters and starts; checks in the next TC; a flit reads its bytes as it departs and
lands after its path's latency in a registered block, whose flag rises with the last of its transfer; a refused one leaves a record and no byte; a round of a
tree with every contribution sends its result. -/
def Obligations.SendReceiveCommandsRun : Prop :=
  (∀ (s : State) (r : BitVec 4) i x,
    exec (.xpar r i x) s = s.yields .send { s.cur with tx := { s.cur.tx with xp := s.cur.tx.xp.set r.toNat (imm22 i x) } } ∧
    exec (.ypar r i x) s = s.yields .receive { s.cur with rx := { s.cur.rx with yp := s.cur.rx.yp.set r.toNat (imm22 i x) } }) ∧
  (∀ w r d, Claims.XcStarts (.send w r d) (xcWord 1 w r d) false ∧ Claims.XcStarts (.swg w r d) (xcWord 2 w r d) false ∧
    Claims.XcStarts (.rtree w r d) (xcWord 3 w r d) true ∧ Claims.YcStarts (.recv w r d) (xcWord 1 w r d) ∧
    Claims.YcStarts (.yclr w r d) (xcWord 2 w r d)) ∧
  (∀ (s : State) t c, (s.tile t).rx.cmd = some c → c.started = false → c.t0.toNat < (s.tile t).tcc.toNat →
    let x := s.tile t
    let w := xcOf c.word
    (∀ y sub a, w.op = 1 → x.checkRecv c = .bad y sub a → Claims.reportable x → sub < 256 →
      ∃ s', exec (.commandRaise t .receive) s = .next s' ∧ (s'.tile t).rx.cmd = none ∧ (s'.tile t).sync.block = x.sync.block ∧
        (s'.tile t).sync.sem = Claims.raised x w.await ∧ Claims.reported (s'.tile t) .receive 0x40 sub c.pc 0) ∧
    (∀ x' u, w.op = 1 → x.checkRecv c = .ok x' u →
      let n := fld c.desc.toNat 0 4
      ∃ s', exec (.commandRaise t .receive) s = .next s' ∧ (s'.tile t).rx.cmd = some { c with started := true } ∧
        (s'.tile t).sync.block[n]? = some { registered := true, base := fld c.desc.toNat 21 21, len := fld c.desc.toNat 64 22,
                                            expect := fld c.desc.toNat 96 16, tag := 0 } ∧
        (s'.tile t).sync.flag[n]? = some 0 ∧ (s'.tile t).spad = x.spad) ∧
    (w.op = 2 →
      ∃ s', exec (.commandRaise t .receive) s = .next s' ∧ (s'.tile t).rx.cmd = some { c with started := true } ∧
        ((s'.tile t).sync.block[w.desc.toNat]).registered = false ∧
        (s'.tile t).sync.flag[w.desc.toNat] = if (x.sync.block[w.desc.toNat]).registered then 0 else x.sync.flag[w.desc.toNat])) ∧
  (∀ (s : State) t c, (s.tile t).rx.cmd = some c → c.started = true → c.raised = false → (c.t0 + 2).toNat ≤ (s.tile t).tcc.toNat →
    (s.tile t).rx.sigs = [] →
    let x := s.tile t
    exec (.commandRaise t .receive) s = .next (s.setTile t { x with
      rx := { x.rx with cmd := some { c with raised := true } }, sync := { x.sync with sem := Claims.raised x (xcOf c.word).rise } })) ∧
  (∀ (s : State) t c, (s.tile t).tx.cmd = some c →
    let x := s.tile t
    let w := xcOf c.word
    let c1 := { c with checkAt := some (c.checkAt.getD s.fcc) }
    (c.started = false → c.t0.toNat < x.tcc.toNat →
      (∀ s1 c', Claims.sendCheck s t c1 = .ok s1 c' →
        ∃ s', exec (.commandRaise t .send) s = .next s' ∧ (s'.tile t).tx.cmd = some c' ∧
          s'.fabric.nextXfer = s1.fabric.nextXfer + c'.transfers.length ∧ s'.fabric.flits = s1.fabric.flits ∧
          ((s'.tile t).str .send).queue = (x.str .send).queue.tail) ∧
      (∀ s1 sub a, Claims.sendCheck s t c1 = .bad s1 sub a → Claims.reportable (s1.tile t) → sub < 256 →
        ∃ s', exec (.commandRaise t .send) s = .next s' ∧ (s'.tile t).tx.cmd = none ∧
          (s'.tile t).sync.sem = Claims.raised (s1.tile t) w.await ∧ Claims.reported (s'.tile t) .send 0x40 sub c.pc a ∧ s'.fabric = s1.fabric) ∧
      (Claims.sendCheck s t c1 = .hold →
        exec (.commandRaise t .send) s = .next (s.setTile t { x with tx := { x.tx with cmd := some c1 } }))) ∧
    (∀ l, c.started = true → c.raised = false → c.lastFc = some l → l.toNat < s.fcc.toNat → x.tx.sigs = [] →
      ∃ s', exec (.commandRaise t .send) s = .next s' ∧ (s'.tile t).tx.cmd = some { c with raised := true } ∧
        (s'.tile t).sync.sem = Claims.raised x w.rise ∧
        (s'.tile t).tx.promise = if x.tx.promise.toNat < c.promise.toNat then c.promise else x.tx.promise) ∧
    (∀ y : Transfer, Claims.slotsResolved s → c.started = true → c.raised = false → c.lastFc = none → c.tree = none →
      c.transfers = [y] → y.sent < y.flits → (y.depart + BitVec.ofNat 64 y.sent).toNat ≤ s.fcc.toNat →
      ∃ s' f, exec (.flitDepart t) s = .next s' ∧ s'.fabric.flits = s.fabric.flits ++ [f] ∧ f.xfer = y.id ∧ f.index = y.sent ∧
        f.count = y.flits ∧ f.src = t.val ∧ f.dstPkg = y.dstPkg ∧ f.dstDie = y.dstDie ∧ f.dstTile = y.dstTile ∧ f.block = y.block ∧
        f.doff = y.doff ∧ f.tag = y.tag ∧ f.len = 64 ∧ f.land = s.fcc + BitVec.ofNat 64 y.lat ∧ f.slots = s.slotsOf t y s.fcc ∧
        f.data = BitVec.ofNat 512 (x.spad.readN (y.soff + y.sent / y.runLen * y.sstride + y.sent % y.runLen * 64) 64) ∧
        (s'.tile t).tx.cmd = some { c with transfers := [{ y with sent := y.sent + 1 }],
                                           lastFc := if y.flits ≤ y.sent + 1 then some s.fcc else none }) ∧
    (∀ tree count blk doff tag dep node e child, Claims.slotsResolved s → c.started = true → c.raised = false → c.lastFc = none →
      c.tree = some (tree, count, blk, doff, tag, dep) → dep.toNat ≤ s.fcc.toNat → s.leafNode t tree = some (node, e, child) →
      s.fabric.brokenRounds = [] →
      ((∀ r ∈ s.fabric.rounds, ¬ (r.tree = tree ∧ r.node = node ∧ r.tag = tag)) →
        ∃ s', exec (.flitDepart t) s = .next s' ∧ (s'.tile t).tx.cmd = some { c with lastFc := some s.fcc } ∧
          s'.fabric.rounds = s.fabric.rounds ++ [{
            tree := tree, node := node, tag := tag, count := count, parts := [(child, widenTree (fld e 4 2) x.spad c.soff count)]
            leaves := [(t, blk, doff, x.ctx)], last := s.fcc, nodes := [] }]) ∧
      ((∃ r ∈ s.fabric.rounds, r.tree = tree ∧ r.node = node ∧ r.tag = tag ∧ (∀ p ∈ r.parts, p.1 ≠ child) ∧ r.count ≠ count) →
        ∃ s', exec (.flitDepart t) s = .next s' ∧ ∀ q ∈ s'.fabric.rounds, ¬ (q.tree = tree ∧ q.tag = tag)))) ∧
  (∀ (s : State) t (f : Flit), s.fabric.flits = [f] → s.fabric.arrivals = [] → f.land.toNat ≤ s.fcc.toNat → f.count = 1 →
    let x := s.tile t
    let b := x.sync.block[f.block.toNat]
    let first := b.base + f.doff + 64 * f.index
    (f.dstPkg ≠ s.pkg → ∃ s', exec (.flitLanding f.key) s = .next s' ∧ s'.fabric.flits = [] ∧ s'.tiles = s.tiles) ∧
    (f.dstPkg = s.pkg → tileOf? (f.dstDie.toNat * 160 + f.dstTile) = some t → (x.phase = .running ∨ x.phase = .trapped) →
      (b.registered = true → f.doff + 64 * f.index + f.len ≤ b.len → x.claimed first f.len = false →
        ∃ s', exec (.flitLanding f.key) s = .next s' ∧ s'.fabric.flits = [] ∧ s'.fabric.arrivals = [] ∧
          s'.tile t = { x with
            spad := x.spad.writeN first f.len f.data.toNat
            sync := { x.sync with
              flag := x.sync.flag.set f.block.toNat (BitVec.ofNat 16 (min ((x.sync.flag[f.block.toNat]).toNat + 1) 65535))
              block := x.sync.block.set f.block.toNat { b with tag := f.tag } } }) ∧
      (b.registered = true → f.doff + 64 * f.index + f.len ≤ b.len → x.claimed first f.len = true →
        exec (.flitLanding f.key) s = .next s) ∧
      ((b.registered = false ∨ b.len < f.doff + 64 * f.index + f.len) →
        ∃ s', exec (.flitLanding f.key) s = .next s' ∧ s'.fabric.flits = [] ∧ s'.tiles = s.tiles ∧
          (s'.ctx x.ctx).records.length = (s.ctx x.ctx).records.length + 1))) ∧
  (∀ (s : State) (tree : BitVec 4) (d : BitVec 3) e before r rest, s.treeEntry d.toNat tree = some e →
    let ready (q : TreeRound) : Prop := q.tree = tree ∧ q.node = d.toNat ∧ treeKids e ≤ q.parts.length
    let op := fld e 4 2
    s.fabric.rounds = before ++ r :: rest → (∀ q ∈ before, ¬ ready q) → ready r →
    (fld e 6 1 = 1 → r.nodes = [] →
      let due := r.last + BitVec.ofNat 64 (fld e 64 16)
      ∃ s' fl, exec (.treeNodeCombine tree d) s = .next s' ∧ s'.fabric.rounds = before ++ rest ∧
        s'.fabric.flits = s.fabric.flits ++ fl ∧
        fl.length = r.leaves.length * ((r.count * (if op = 1 then 2 else 4) + 63) / 64) ∧
        ∀ f ∈ fl, f.land = (if due.toNat < s.fcc.toNat then s.fcc else due) ∧ f.tag = r.tag ∧ f.dstPkg = s.pkg ∧
          ∃ l ∈ r.leaves, f.block = l.2.1 ∧ f.doff = l.2.2.1 ∧ f.dstDie.toNat = dieOf l.1 ∧ f.dstTile = l.1.val % 160) ∧
    (∀ pe child, fld e 6 1 ≠ 1 → epPkg (fld e 24 18) = s.pkg → s.treeEntry (nodeOfEp (fld e 24 18)) tree = some pe →
      ((List.range (treeKids pe)).find? fun i => treeChild pe i == s.nodeEp d.toNat) = some child →
      s.nodeFull (nodeOfEp (fld e 24 18)) tree r.tag = false → s.fabric.brokenRounds = [] →
      (∀ q ∈ before ++ rest, ¬ (q.tree = tree ∧ q.node = nodeOfEp (fld e 24 18) ∧ q.tag = r.tag)) →
      ∃ s', exec (.treeNodeCombine tree d) s = .next s' ∧ s'.fabric.rounds = before ++ rest ++ [{
        tree := tree, node := nodeOfEp (fld e 24 18), tag := r.tag, count := r.count
        parts := [(child, treeValue op (treeKids e) r.count r.parts)], leaves := r.leaves, last := r.last, nodes := r.nodes }])) ∧
  (∀ op count (a b : List W32), 0 < count →
    (treeValue op 2 count [(0, a), (1, b)])[0]? = some (treeCombine op (a.getD 0 0) (b.getD 0 0)) ∧
    (op ≤ 1 → ∀ v x : W32, treeCombine op v x = BitVec.ofNat 32
      (Num.round Num.fp32 .rne false (Sys2Proof.Num.add .rne (Num.decode Num.fp32 v.toNat) (Num.decode Num.fp32 x.toNat)).1).1))

/-- R22, R23, R72-R84, R100, R256: fetch takes one line in a TC, appends its lanes to the queues of their strands, and goes on to the next line,
to the first line of a loop whose last line it was, or, after the last, ends; a line that breaks a rule delivers ILLEGAL-LINE, and an
extension without a target ILLEGAL-EXT; LOOP opens its level over the lines that follow and NOPL delivers nothing; the handler's lines go
to its queue; an empty strand's issue cycle counts. -/
def Obligations.FetchTakesLines : Prop :=
  (∀ (s : State) t line, (s.tile t).isSup = false → (s.tile t).canFetch = true → (s.tile t).nextLine = some line → lineOk line = true →
    let x := s.tile t
    let n := x.fetch.addr.toNat / 32
    let ls := lanesOf line (BitVec.ofNat 64 (32 * n)) (x.fetch.level.map fun l => l.ix)
    x.roomFor ls = true → (ls.orphans = [] ∨ (x.str .control).halted = false) →
    (∀ l src len c, ls.dirs.head?.bind decodeDirective ≠ some (.loop l src len c)) →
    ∃ s', exec (.fetchLine t) s = .next s' ∧ Claims.delivered x (s'.tile t) ls ∧ Claims.fetchAfter x (s'.tile t) ls x.fetch n 0 ∧
      (∀ m, m ≠ t → s'.tile m = s.tile m)) ∧
  (∀ (s : State) (l : BitVec 3) src (len c : BitVec 12) count line, s.cur.nextDirective = some (.loop l src len c) → s.cur.isSup = false →
    s.cur.canFetch = true → s.cur.nextLine = some line → lineOk line = true →
    let x := s.cur
    let n := x.fetch.addr.toNat / 32
    let ls := lanesOf line (BitVec.ofNat 64 (32 * n)) (x.fetch.level.map fun l => l.ix)
    x.fetch.loopCount l src c = some count → x.fetch.loopOk n l len.toNat = true → x.roomFor ls = true →
    (ls.orphans = [] ∨ (x.str .control).halted = false) →
    ∃ s', exec (.loop l src len c) s = .next s' ∧ exec (.fetchLine s.here) s = .next s' ∧ Claims.delivered x s'.cur ls ∧
      Claims.fetchAfter x s'.cur ls (x.fetch.openLoop n l len.toNat count) n (if count = 0 then len.toNat else 0)) ∧
  (∀ (s : State) line, s.cur.nextDirective = some .nopl → s.cur.isSup = false → s.cur.canFetch = true → s.cur.nextLine = some line →
    lineOk line = true →
    ∃ s', exec .nopl s = .next s' ∧ (∀ k, (s'.cur.str k).queue = (s.cur.str k).queue) ∧
      s'.cur.fetch = s.cur.fetch.next (s.cur.fetch.addr.toNat / 32)) ∧
  (∀ (s : State) t, (s.tile t).isSup = false → (s.tile t).canFetch = true →
    let x := s.tile t
    let n := x.fetch.addr.toNat / 32
    (x.nextLine = none ∨ (∃ l, x.nextLine = some l ∧ lineOk l = false) ∨
      ∃ y l src len c, x.nextLine = some y ∧ lineOk y = true ∧ x.nextDirective = some (.loop l src len c) ∧
        (x.fetch.loopCount l src c = none ∨ x.fetch.loopOk n l len.toNat = false)) →
    ∃ s', exec (.fetchLine t) s = .next s' ∧ (s'.tile t).fetch.stopped = true ∧
      ((x.str .control).halted = false →
        ∃ e, ((s'.tile t).str .control).queue = (x.str .control).queue ++ [e] ∧ e.kind = .badLine x.fetch.addr) ∧
      ((x.str .control).halted = true → ((s'.tile t).str .control).reached.isSome = true ∧
        ((s'.tile t).str .control).fault = { cause := Claims.causeWord 0x03 0 0, fpc := x.fetch.addr + 4, faddr := x.fetch.addr })) ∧
  (∀ (s : State) t, (s.tile t).isSup = false → (s.tile t).canFetch = false → exec (.fetchLine t) s = .next s) ∧
  (∀ (s : State) t line, (s.tile t).isSup = true →
    let x := s.tile t
    let n := x.sfetch.addr.toNat / 32
    let ls := lanesOf line (BitVec.ofNat 64 (32 * n)) (x.fetch.level.map fun l => l.ix)
    x.sfetch.ended = false → x.sfetch.stopped = false → x.sfetch.branch = none → x.sfetch.notBefore.toNat ≤ x.tcc.toNat →
    (s.supCode.take 512)[n]? = some line → supLineOk line = true → entriesIn x.ctl.squeue + ls.insns.length ≤ 16 →
    ∃ s', exec (.fetchLine t) s = .next s' ∧ (s'.tile t).fetch = x.fetch ∧
      (s'.tile t).ctl.squeue = x.ctl.squeue ++ (ls.orphans.take 1 ++ ls.insns.map fun e => e.2) ∧
      ((∀ e ∈ ls.insns, isBranchWord e.2.word = false) →
        (s'.tile t).sfetch.addr = BitVec.ofNat 64 (32 * (n + 1)) ∧ (s'.tile t).sfetch.ended = lineLast line)) ∧
  (∀ (f : Fetch) (n : Nat), (∀ i, ¬ Claims.endsAt f n i) →
    f.next n = { f with addr := BitVec.ofNat 64 (32 * (n + 1)), ended := f.ended || f.lastAt n }) ∧
  (∀ (f : Fetch) (n : Nat) (i : Fin 6), Claims.endsAt f n i → (∀ j, i < j → ¬ Claims.endsAt f n j) →
    ((f.level[i]).ix.toNat + 1 < (f.level[i]).count →
      f.next n = { f with addr := BitVec.ofNat 64 (32 * (f.level[i]).first), level := f.level.set i { f.level[i] with ix := (f.level[i]).ix + 1 } }) ∧
    ((f.level[i]).count ≤ (f.level[i]).ix.toNat + 1 →
      f.next n = { f with level := f.level.set i { f.level[i] with active := false } }.next n)) ∧
  (∀ (f : Fetch) (n : Nat) (l : BitVec 3) (len count : Nat) (h : l.toNat < 6), 0 < count →
    f.openLoop n l len count =
      { f with level := f.level.set l.toNat { active := true, ix := 0, count := count, first := n + 1, length := len } }) ∧
  (∀ (f : Fetch) (n : Nat) (l : BitVec 3) (len : Nat), f.loopOk n l len = true ↔
    l.toNat < 6 ∧ len ≠ 0 ∧ n + len < f.code.length ∧
      ∀ i : Fin 6, (f.level[i]).active = true → i.val < l.toNat ∧ n + len < (f.level[i]).first + (f.level[i]).length) ∧
  (∀ (f : Fetch) (l : BitVec 3) (c : BitVec 12) e, f.table[l.toNat]? = some e → e.kind = 0 →
    f.loopCount l 0 c = some (c.toNat + 1) ∧ f.loopCount l 1 0 = some e.count.toNat) ∧
  (∀ (s : State) t (k : Strand), ((s.tile t).phase = .running ∨ (s.tile t).phase = .trapped) → ((s.tile t).queueOf k) = [] →
    (((s.tile t).str k).halted = false ∨ k = .vector ∨ (k = .control ∧ (s.tile t).isSup = true)) → ((s.tile t).str k).stopped = false →
    ((s.tile t).str k).used = false →
    exec (.resultLanding t k) s = .next (s.setTile t (((s.tile t).tick k).countUp k)))
namespace Sys2Proof.Claims
open Sys2Proof Sys2Proof.Machine

/-- The state in which dispatch reads the arguments of the launch `l` that it binds at `tiles`: its bind record, the modes of its pods and its
own registers are written. -/
def placing (s : State) (slot : BitVec 8) (w : BitVec 512) (l : Launch) (orient : Nat) (solo : Bool) (tiles : List TileNo) : State :=
  let pre := l.pre && s.saveOk l.ctx (saveRecordSize / 4096 * tiles.length + 1) (s.ctx l.ctx).saveBase (saveRecordSize * tiles.length)
  let s1 : State := { s with slots := s.slots.set slot.toNat w }
  let s1 : State := tiles.foldl (fun (s : State) t =>
    { s with pods := s.pods.set (podOf t) { (s.pods[podOf t]) with mode := podModeFor tiles solo t } }) s1
  s1.modLaunch l.id fun y =>
    { y with phase := .binding, slot := some slot, tiles := tiles, orient := BitVec.ofNat 3 orient, pre := pre, preempting := false
             since := s.fcc }

/-- What stands once the launch `l` is bound at `tiles`, from the state `s1` in which its arguments have been read: every tile of the group is
BOUND to it, loaded from its image, and no other tile has changed. -/
def bound (s1 s' : State) (slot : BitVec 8) (l : Launch) (tiles : List TileNo) : Prop :=
  let img : Image := { bytes := l.image, h := ofBytes (l.image.take 64) }
  s'.slots = s1.slots ∧ s'.launches = s1.launches ∧ s'.pods = s1.pods ∧
  (∀ t ∈ tiles, (s'.tile t).phase = .bound ∧ (s'.tile t).ctx = l.ctx ∧ (s'.tile t).launch = l.id ∧ (s'.tile t).slot = slot ∧
    (s'.tile t).ctl.spillN = img.spill ∧ (s'.tile t).fetch.code = (List.range img.lines).map img.line) ∧
  ∀ t, t ∉ tiles → s'.tile t = s1.tile t

/-- What the kill of a context does before its completion: its queues, launches, graph, snapshot operations and rings (R269). -/
def killed (s : State) (c : BitVec 6) : State :=
  let code := (s.ctx c).cause
  let s := s.dropSnapOps c
  let s := s.killLaunches c code.toNat
  let s := s.killGraph c code.toNat
  let s := (s.queuesOf c).foldl (fun (s : State) q => s.killQueue q code) s
  s.killRings c code false

/-- A tile waits for the reply `v` of its context (R271). -/
def awaits (x : Tile) (c : BitVec 6) (v : W64) : Prop :=
  x.ctx = c ∧ x.sys.lastSeq = some (v.extractLsb' 32 32) ∧ x.sys.lastTile = v.extractLsb' 12 10 ∧ x.sys.reply = none

end Sys2Proof.Claims

/-! ## Tiles, launches and the firmware (02_tile.md, 11_context.md, 13_kernel.md) -/

/-- R47, R48, R50, R268, R271, R275, R267: what happens to a tile outside its instructions: the end of its reset and of its draining, its pod's mode, a held read of
FREPLY, an access of a window, a PC sample, the watchdog, and the end of its launch by its handler. -/
def Obligations.TileEventsAct : Prop :=
  (∀ (s : State) t, (s.tile t).phase = .off →
    ((s.manage.islands[islandOf t]).powered = true →
      exec (.tileResetComplete t) s = .next (s.setTile t { (s.tile t) with phase := .idle })) ∧
    ((s.manage.islands[islandOf t]).powered = false → exec (.tileResetComplete t) s = .next s)) ∧
  (∀ (s : State) t,
    let x := s.tile t
    (x.draining = true → x.preempt = false → s.workDone t = true → x.vec.recs = [] → x.ld.sigs = [] → x.st.sigs = [] →
      ∃ s', exec (.tileDrainComplete t) s = .next s' ∧ (s'.tile t).phase = .idle ∧ (s'.tile t).spad = x.spad ∧ (s'.tile t).rsp = x.rsp ∧
        (s'.tile t).mx.cmds = [] ∧ ∀ n, n ≠ t → s'.tile n = s.tile n) ∧
    (x.draining = true → s.workDone t = false →
      ∃ s', exec (.tileDrainComplete t) s = .next s' ∧ (s'.tile t).phase = x.phase ∧ (s'.tile t).spad = x.spad ∧ (s'.tile t).rsp = x.rsp ∧
        (∀ k, ((s'.tile t).str k).reached = none) ∧ ∀ n, n ≠ t → s'.tile n = s.tile n) ∧
    (x.draining = false → exec (.tileDrainComplete t) s = .next s)) ∧
  (∀ (s : State) t v, (s.pods[podOf t]).want = some v → v ≠ 3 →
    ((s.tile t).mx.cmds = [] → (s.tile (podMate t)).mx.cmds = [] →
      exec (.podModeChange t) s = .next { s with pods := s.pods.set (podOf t) { mode := v, want := none } }) ∧
    (((s.tile t).mx.cmds ≠ [] ∨ (s.tile (podMate t)).mx.cmds ≠ []) → exec (.podModeChange t) s = .next s)) ∧
  (∀ (s : State) d, s.cur.isSup = true → s.cur.sys.lastSeq = none →
    ∃ s', exec (.mfs d 0x107) s = .next s' ∧ s'.cur.sys.lastSeq = some (s.ctx s.cur.ctx).seq ∧
      (s'.ctx s.cur.ctx).records.length = (s.ctx s.cur.ctx).records.length + 1 ∧ (s'.ctx s.cur.ctx).seq = (s.ctx s.cur.ctx).seq + 1 ∧
      s'.cur.queueOf .control = s.cur.queueOf .control) ∧
  (∀ (s : State) t e rest v, (s.tile t).isSup = true → (s.tile t).ctl.squeue = e :: rest → e.kind = .insn →
    e.word.extractLsb' 26 6 = 0x30#6 → e.word.extractLsb' 9 12 = 0x107#12 → s.replyReady (s.tile t) = some v →
    let d := e.word.extractLsb' 21 5
    let u := (s.tile t).tick .control
    exec (.freplyRead t) s = .next (s.setTile t
      ((({ u with sys := { u.sys with lastSeq := none, reply := none } } : Tile).setS d v).retire .control))) ∧
  (∀ (s : State) t v, (s.tile t).isSup = true →
    let w := (s.tile t).sys.wsel
    let next : W64 := (w &&& 0xFFFFFFFF00000000#64) ||| ((w.setWidth 32 + 1#32).setWidth 64)
    exec (.wdataAccess t false v) s = .next (s.setTile t { (s.tile t) with sys := { (s.tile t).sys with wsel := next } }) ∧
    ∃ s', exec (.wdataAccess t true v) s = .next s' ∧ (s'.tile t).sys.wsel = next ∧
      (s'.tile t).phase = (s.tile t).phase ∧ (∀ n, n ≠ t → s'.tile n = s.tile n) ∧ s'.store = s.store) ∧
  (∀ (s : State) t v, (s.tile t).isSup = false → ∀ b, exec (.wdataAccess t b v) s = .next s) ∧
  (∀ (s : State) t v l, (s.tile t).phase = .trapped → s.launchOf t = some l → l.phase = .running →
    ∃ s', exec (.launchend t v) s = .next s' ∧ ∀ z ∈ s'.launches, z.id = l.id → z.phase = .failed) ∧
  (∀ (s : State) t v l, (s.tile t).phase = .trapped → s.launchOf t = some l → l.phase = .running → l.from_ = .packet →
    sigNamed l.sig = false →
    ∃ s', exec (.launchend t v) s = .next s' ∧ (∀ z ∈ s'.launches, z.id = l.id → z.phase = .failed) ∧
      (∀ n, (s.tile n).launch = l.id → ((s.tile n).phase = .running ∨ (s.tile n).phase = .trapped) → (s'.tile n).phase = .idle) ∧
      (s'.queue l.queue).prog = none) ∧
  (∀ (s : State) t v, (s.tile t).phase ≠ .trapped → exec (.launchend t v) s = .next s) ∧
  (∀ (s : State) t k,
    let x := s.tile t
    let pc := if k = .control ∧ x.isSup = true then x.pcOf k
      else if (x.str k).stopped || (x.str k).halted then (x.str k).pc else x.pcOf k
    (x.sys.traceOn = true → x.sys.tracectl.getLsbD (4 + k.pos) = true → (x.phase = .running ∨ x.phase = .trapped) →
      exec (.traceSample t k) s = .next ((s.setTile t (x.traceAdd s.fcc 1 k.pos pc)).traceFlush t)) ∧
    (x.sys.traceOn = false → exec (.traceSample t k) s = .next s)) ∧
  (∀ (x : Tile) fcc type strand word, x.trace.dropped = 0 →
    let used := (x.sys.tracewp - x.sys.tracerp).toNat % x.sys.traceSize
    (x.trace.waiting.length < 16 → used + x.trace.waiting.length + 1 < x.sys.traceSize →
      x.traceAdd fcc type strand word = { x with trace := { x.trace with
        waiting := x.trace.waiting ++ [(BitVec.ofNat 64 (type + 16 * strand + 256 * (fcc.toNat % 2 ^ 56)), word)], dropped := 0 } }) ∧
    (x.sys.traceSize ≤ used + x.trace.waiting.length + 1 →
      x.traceAdd fcc type strand word = { x with trace := { x.trace with dropped := 1 } })) ∧
  (∀ (s : State) t,
    let x := s.tile t
    ((x.phase = .running ∨ x.phase = .trapped) → s.watchdogTcs t ≤ x.quiet → (s.ctx x.ctx).phase = .live →
      ∃ s', exec (.watchdogExpiry t) s = .next s' ∧ (s'.ctx x.ctx).phase = .killing ∧ (s'.ctx x.ctx).cause = 0xF2 ∧
        (s'.tile t).phase = .idle ∧ (s'.ctx x.ctx).records.length = (s.ctx x.ctx).records.length + 1) ∧
    (x.quiet < s.watchdogTcs t → exec (.watchdogExpiry t) s = .next s))

/-- R308-R313, R318-R320, R273: the life of a launch: the placement and bind record that dispatch carries out or refuses, the start of its group, its completion,
its pre-emption and save, and its ageing. -/
def Obligations.LaunchEventsAct : Prop :=
  (∀ (s : State) slot w,
    (s.carryOut slot w = none → exec (.bindRecord slot w) s = .next s) ∧
    (∀ s', s.carryOut slot w = some s' → exec (.bindRecord slot w) s = .next s') ∧
    (w.getLsbD 0 = false ∨ s.slots[slot.toNat] ≠ 0 → s.carryOut slot w = none)) ∧
  (∀ (s : State) slot w l tiles s1 args, s.slots[slot.toNat] = 0 → w.getLsbD 0 = true → fld w.toNat 52 12 = 0 →
    fld w.toNat 448 64 = 0 → s.namedBy w.toNat = some l → l.phase = .pending → (s.ctx l.ctx).phase = .live →
    placeAll (fld w.toNat 26 4) (fld w.toNat 30 4) (fld w.toNat 11 3) l.gx l.gy l.gd (fld w.toNat 34 8) = some tiles →
    s.placeOk l (fld w.toNat 11 3) (fld w.toNat 34 8) (fld w.toNat 14 1 == 1) tiles = true →
    (Claims.placing s slot w l (fld w.toNat 11 3) (fld w.toNat 14 1 == 1) tiles).span l.ctx .read l.arg (argN l.argw + 1)
      (64 * argN l.argw) = .ok s1 args →
    ∃ s', exec (.bindRecord slot w) s = .next s' ∧ Claims.bound s1 s' slot l tiles) ∧
  (∀ (s : State) l slot x0 y0 orient diemap pm y, s.launch l = some y →
    let w := bindRecordOf y x0.toNat y0.toNat orient.toNat diemap.toNat pm
    (y.phase ≠ .pending → y.phase ≠ .saved → exec (.placeLaunch l slot x0 y0 orient diemap pm) s = .next s) ∧
    (s.carryOut slot w = none → exec (.placeLaunch l slot x0 y0 orient diemap pm) s = .next s) ∧
    (∀ s', (y.phase = .pending ∨ y.phase = .saved) → s.carryOut slot w = some s' →
      exec (.placeLaunch l slot x0 y0 orient diemap pm) s = .next { s'.firmwareWatchdog s.drawn with served := y.queue })) ∧
  (∀ (s : State) l slot (x0 y0 : BitVec 4) (orient : BitVec 3) (diemap : BitVec 8) pm y tiles s1 args, s.launch l = some y → y.phase = .pending →
    let w := bindRecordOf y x0.toNat y0.toNat orient.toNat diemap.toNat pm
    s.slots[slot.toNat] = 0 → s.namedBy w.toNat = some y → (s.ctx y.ctx).phase = .live →
    placeAll x0.toNat y0.toNat orient.toNat y.gx y.gy y.gd diemap.toNat = some tiles →
    s.placeOk y orient.toNat diemap.toNat pm tiles = true →
    (Claims.placing s slot w y orient.toNat pm tiles).span y.ctx .read y.arg (argN y.argw + 1) (64 * argN y.argw) = .ok s1 args →
    ∃ s', exec (.placeLaunch l slot x0 y0 orient diemap pm) s = .next s' ∧ Claims.bound s1 s' slot y tiles ∧ s'.served = y.queue) ∧
  (∀ (s : State) slot, (s.launches.find? fun z => z.slot == some slot && z.phase == .binding) = none → exec (.groupStart slot) s = .next s) ∧
  (∀ (s : State) slot l, (s.launches.find? fun z => z.slot == some slot && z.phase == .binding) = some l →
    (s.fcc.toNat < l.startfcc.toNat → exec (.groupStart slot) s = .next s) ∧
    (l.startfcc.toNat ≤ s.fcc.toNat →
      ∃ s', exec (.groupStart slot) s = .next s' ∧ (∀ z ∈ s'.launches, z.id = l.id → z.phase = .running ∧ z.saved = []) ∧
        ∀ t, s'.tile t = if (s.tile t).launch = l.id ∧ (s.tile t).phase = .bound
          then { (s.tile t) with phase := .running, quiet := 0 } else s.tile t)) ∧
  (∀ (s : State) l y, s.launch l = some y →
    (s.launchDone y = false ∨ s.signalHeld y.ctx y.sig = true → exec (.launchComplete l) s = .next s) ∧
    (s.launchDone y = true → s.signalHeld y.ctx y.sig = false →
      ∃ s', exec (.launchComplete l) s = .next s' ∧ ∀ z ∈ s'.launches, z.id = l → z.phase = .done ∧ z.slot = none) ∧
    (s.launchDone y = true → sigNamed y.sig = false → y.from_ = .packet →
      ∃ s', exec (.launchComplete l) s = .next s' ∧ (∀ z ∈ s'.launches, z.id = l → z.phase = .done ∧ z.slot = none) ∧
        (s'.queue y.queue).prog = none ∧ (∀ n, y.slot = some n → s'.slots = s.slots.set n.toNat 0) ∧ s'.tiles = s.tiles)) ∧
  (∀ (s : State) l y, s.launch l = some y →
    (y.phase ≠ .running ∨ (y.preempting = false ∧ s.mayPreempt y = false) → exec (.preemption l) s = .next s) ∧
    (y.phase = .running → (y.preempting = true ∨ s.mayPreempt y = true) →
      ∃ s', exec (.preemption l) s = .next s' ∧ (∀ z ∈ s'.launches, z.id = l → z.preempting = true) ∧
        (∀ t, t ∉ s.heldTiles y → s'.tile t = s.tile t) ∧
        (s.launchCollective y = true → ∀ t, (s'.tile t).preempt = (s.tile t).preempt) ∧
        (s.launchCollective y = false → ∀ t ∈ s.heldTiles y, ((s.tile t).phase = .running ∨ (s.tile t).phase = .trapped) →
          (s'.tile t).preempt = true)) ∧
    (∀ t, y.phase = .running → (y.preempting = true ∨ s.mayPreempt y = true) → s.heldTiles y = [t] → s.launchCollective y = false →
      ((s.tile t).phase = .running ∨ (s.tile t).phase = .trapped) →
      let u := ((s.modLaunch l fun z => { z with preempting := true }).setTile t { (s.tile t) with preempt := true }).leaveOf t
      u.canSave t = true →
      ∃ s', exec (.preemption l) s = .next s' ∧ (s'.tile t).phase = .saving ∧ (s'.tile t).preempt = true ∧
        ((s'.tile t).savedSup = true ↔ (s.tile t).phase = .trapped))) ∧
  (∀ (s : State) t,
    let x := s.tile t
    (x.phase ≠ .saving ∨ s.writeRecord t = none → exec (.saveComplete t) s = .next s) ∧
    (∀ s1, x.phase = .saving → s.writeRecord t = some s1 →
      ∃ s', exec (.saveComplete t) s = .next s' ∧ (s'.tile t).phase = .idle ∧ (∀ n, n ≠ t → s'.tile n = s1.tile n) ∧
        (∀ z ∈ s'.launches, z.id = x.launch → ∃ y, z.saved = y ++ [{ x with preempt := false }]) ∧
        ∀ y, s1.launch x.launch = some y →
          (∀ n ∈ y.tiles, n ≠ t → ¬ ((s1.tile n).launch = y.id ∧ (s1.tile n).phase ≠ .idle ∧ (s1.tile n).phase ≠ .off)) →
          ∀ z ∈ s'.launches, z.id = x.launch → z.phase = .saved ∧ z.slot = none ∧ z.preempting = false ∧ z.age = 0)) ∧
  (∀ (s : State) l, exec (.priorityAging l) s = .next { s with launches := s.launches.map fun (y : Launch) =>
    if y.id = l ∧ (y.phase = .pending ∨ y.phase = .saved) ∧ (y.age + 1) * 1250000 ≤ (s.fcc - y.since).toNat
    then { y with age := y.age + 1 } else y }) ∧
  (∀ l : Launch, l.effective = min 7 (l.prio.toNat + l.age))

/-- R255, R269, R270, R271, R276, R277, R280: contexts, the fault queue, replies and the queue page's prompts. -/
def Obligations.ContextEventsAct : Prop :=
  (∀ (s : State) c r rest,
    let x := s.ctx c
    let size := 2 ^ x.fqLog2
    let va := x.fqBase + BitVec.ofNat 64 (x.fqwp.toNat % size * 64)
    x.records = r :: rest →
    ((x.fqwp - x.fqrp).toNat = size → exec (.faultRecordWrite c) s = .next s) ∧
    (∀ e m n s1, (x.fqwp - x.fqrp).toNat ≠ size → s.walk c va = .ok (e, m) → pteCmp e = false → pteBar e = false →
      s.hWrite c va 64 r.value = .ok s1 n →
      exec (.faultRecordWrite c) s = .next (s1.modCtx c fun y => { y with records := rest, fqwp := y.fqwp + 1 })) ∧
    (∀ cause, (x.fqwp - x.fqrp).toNat ≠ size → s.walk c va = .error cause →
      ∃ s', exec (.faultRecordWrite c) s = .next s' ∧ s'.ctx c = { x with records := rest, fqlost := x.fqlost + 1 } ∧ s'.tiles = s.tiles) ∧
    (1250000 < (s.fcc - r.words[4]).toNat →
      exec (.faultRecordDrop c) s = .next (s.modCtx c fun x => { x with records := rest, fqlost := x.fqlost + 1 })) ∧
    ((s.fcc - r.words[4]).toNat ≤ 1250000 → exec (.faultRecordDrop c) s = .next s)) ∧
  (∀ (s : State) c, s.ctxRegs.busy = true →
    let s' : State := { s with ctxRegs := { s.ctxRegs with late := true } }
    exec (.ctxCreate c) s = .next s' ∧ exec (.ctxKill c) s = .next s' ∧ exec (.ctxAck c) s = .next s' ∧ exec (.ctxDestroy c) s = .next s') ∧
  (∀ (s : State) c, s.ctxRegs.busy = false → s.ctxRegs.late = false →
    let r := s.ctxRegs
    let ended (s' : State) (err : Nat) : Prop := s'.ctxRegs.done = r.done + 1 ∧ s'.ctxRegs.err = BitVec.ofNat 8 err ∧ s'.ctxRegs.busy = false ∧
      s'.ctxRegs.last = c
    let refused (i : Instr) (err : Nat) : Prop := ∃ s', exec i s = .next s' ∧ ended s' err ∧ s'.ctxs = s.ctxs ∧ s'.tiles = s.tiles
    let n := r.arg1.toNat % 32
    let x := s.ctx c
    ((n < 4 ∨ 16 < n) → refused (.ctxCreate c) 0x01) ∧
    (4 ≤ n → n ≤ 16 → (r.arg0.toNat % 4096 ≠ 0 ∨ r.arg2.toNat % 65536 ≠ 0) → refused (.ctxCreate c) 0x04) ∧
    (4 ≤ n → n ≤ 16 → r.arg0.toNat % 4096 = 0 → r.arg2.toNat % 65536 = 0 →
      (x.phase ≠ .free → refused (.ctxCreate c) 0x02) ∧
      (x.phase = .free →
        ∃ s', exec (.ctxCreate c) s = .next s' ∧ ended s' 0 ∧ (s'.ctx c).phase = .live ∧ (s'.ctx c).fqBase = r.arg0 ∧ (s'.ctx c).fqLog2 = n ∧
          (s'.ctx c).saveBase = r.arg2 ∧ (s'.ctx c).fqwp = 0 ∧ (s'.ctx c).fqrp = 0 ∧ (s'.ctx c).seq = 0 ∧ (s'.ctx c).records = [] ∧
          ∀ d, d ≠ c → s'.ctx d = s.ctx d)) ∧
    (x.phase ≠ .live → refused (.ctxKill c) 0x02) ∧
    (x.phase = .live →
      ∃ s', exec (.ctxKill c) s = .next s' ∧ ended s' 0 ∧ (s'.ctx c).phase = .killing ∧ (s'.ctx c).cause = 0xF3 ∧
        ∀ t, (s.tile t).ctx = c → ((s.tile t).phase = .running ∨ (s.tile t).phase = .trapped) → (s'.tile t).phase = .idle) ∧
    (x.phase ≠ .halted → refused (.ctxAck c) 0x02) ∧
    (x.phase = .halted → ∃ s', exec (.ctxAck c) s = .next s' ∧ ended s' 0 ∧ s'.ctx c = { x with phase := .live } ∧ s'.queues = s.queues) ∧
    (x.phase ≠ .live → x.phase ≠ .halted → refused (.ctxDestroy c) 0x02) ∧
    ((x.phase = .live ∨ x.phase = .halted) →
      ∃ s', exec (.ctxDestroy c) s = .next s' ∧ s'.ctxRegs.busy = true ∧ s'.ctxRegs.done = r.done ∧ (s'.ctx c).phase = .killing ∧
        (s'.ctx c).destroying = true)) ∧
  (∀ (s : State) c,
    (((s.ctx c).phase = .live ∨ (s.ctx c).phase = .halted) →
      ∃ s', exec (.functionLevelReset c) s = .next s' ∧ (s'.ctx c).phase = .killing ∧ (s'.ctx c).destroying = true) ∧
    (((s.ctx c).phase = .free ∨ (s.ctx c).phase = .killing) → exec (.functionLevelReset c) s = .next s)) ∧
  (∀ (s : State) c,
    ((s.ctx c).phase = .killing → (Claims.killed s c).ctxOwes c = true → exec (.killingComplete c) s = .next (Claims.killed s c)) ∧
    ((s.ctx c).phase = .killing → (Claims.killed s c).ctxOwes c = false → (s.ctx c).destroying = false →
      ∃ s', exec (.killingComplete c) s = .next s' ∧ (s'.ctx c).phase = .halted ∧ s'.msix.head? = some (c, 0)) ∧
    ((s.ctx c).phase = .killing → (Claims.killed s c).ctxOwes c = false → (s.ctx c).destroying = true →
      ∃ s', exec (.killingComplete c) s = .next s' ∧ (s'.ctx c).phase = .free ∧ (s'.ctx c).records = []) ∧
    ((s.ctx c).phase ≠ .killing → exec (.killingComplete c) s = .next s)) ∧
  (∀ (s : State) c,
    ∃ s', exec (.attnRequest c) s = .next s' ∧ s'.ctxs = s.ctxs ∧
      ∀ t, s'.tile t = if (s.tile t).phase = .running ∧ (s.tile t).ctx = c then { (s.tile t) with attn := true } else s.tile t) ∧
  (∀ (s : State) c (v : W64) t, Claims.awaits (s.tile t) c v → (s.tile t).phase ≠ .idle → (s.tile t).phase ≠ .off →
    (∀ n, n < t → ¬ (Claims.awaits (s.tile n) c v ∧ (s.tile n).phase ≠ .idle ∧ (s.tile n).phase ≠ .off)) →
    exec (.reply c v) s = .next (s.setTile t { (s.tile t) with sys := { (s.tile t).sys with reply := some v } })) ∧
  (∀ (s : State) c (v : W64), (∀ n, ¬ (Claims.awaits (s.tile n) c v ∧ (s.tile n).phase ≠ .idle ∧ (s.tile n).phase ≠ .off)) →
    ∃ s', exec (.reply c v) s = .next s' ∧ s'.tiles = s.tiles ∧
      ∀ l ∈ s.launches, ∀ y, l.ctx = c → l.phase = .saved → l.saved = [y] → Claims.awaits y c v →
        { l with replies := l.replies ++ [(fld y.sys.ltile.toNat 0 12, v)] } ∈ s'.launches) ∧
  (∀ (s : State) f q,
    let x := s.queue q
    (s.behind f = true → exec (.notify f q) s = .next { s with posted := s.posted ++ [.page f (BitVec.ofNat 24 (q.toNat * 0x1000)) 0] }) ∧
    (s.behind f = false → x.reachable f = true → x.phase ≠ .dead →
      exec (.notify f q) s = .next { s with queues := s.queues.set q.toNat { x with prompted := true } }) ∧
    (s.behind f = false → (x.reachable f = false ∨ x.phase = .dead) → exec (.notify f q) s = .next s) ∧
    (x.reachable f = true → (x.phase = .draining ∨ x.phase = .dead) →
      exec (.claim f q) s = .next { s with claimed := BitVec.allOnes 64 }) ∧
    (x.reachable f = false → exec (.claim f q) s = .next { s with claimed := 0 }) ∧
    (∀ s1 old, x.reachable f = true → (x.phase = .active ∨ x.phase = .paused) →
      s.hAtomic x.ctx x.qcb { op := 0, wide := true, operand := 1, compare := 0 } = .ok s1 old →
      ∃ s', exec (.claim f q) s = .next s' ∧ (s'.queue q).prompted = true ∧ s'.claimed = BitVec.ofNat 64 old ∧ s'.store = s1.store)) ∧
  (∀ (x : Queue) c, x.reachable .physical = true ∧ (x.reachable (.virtual c) = true ↔ x.granted = true ∧ x.ctx = c))
/-! ## Queues, copies and graphs (12_queue.md, 13_kernel.md) -/

namespace Sys2Proof.Claims
open Sys2Proof Sys2Proof.Machine

/-- The queue refuses a packet: it pauses with `err`, and SIG receives INT64_MIN + 0x82 (R288). -/
def PacketRefused (i : Instr) (s : State) (q : BitVec 10) (pkt : BitVec 512) (err : Nat) : Prop :=
  exec i s = .next (s.packetError q pkt err)

/-- A queue of a context whose copy `op` is in progress. -/
def copies (s : State) (q : BitVec 10) (op : CopyOp) : Prop := s.copyOf? q = some op

/-- What the sequencer of context `c` finds: graph `g`, which goes on, holding at record `r`. -/
def holds (s : State) (c : BitVec 6) (g : Graph) (r : Nat) : Prop :=
  s.graphs[c.toNat] = some g ∧ s.record c = .ready g r

end Sys2Proof.Claims

open Sys2Proof Sys2Proof.Machine Sys2Proof.Claims

/-- R280, R282, R284, R285: the queue page's commands change the phase of a queue, and the Hearth consumes the slot at READ and carries
its packet out. -/
def Obligations.QueueCommandsAct : Prop :=
  (∀ (s : State) q qcb,
    let x := s.queue q
    let a := qcb &&& ~~~63#64
    ((x.phase ≠ .dead ∨ (s.ctx x.ctxsel).phase ≠ .live) → exec (.queueCreate q qcb) s = .next s) ∧
    (x.phase = .dead → (s.ctx x.ctxsel).phase = .live →
      (∀ s1 c v, s.checkCreate x.ctxsel a = .bad s1 c v →
        exec (.queueCreate q qcb) s = .next { s1 with queues := s1.queues.set q.toNat { x with err := 0x0B, cause := 0, pkt := 0 } }) ∧
      (s.checkCreate x.ctxsel a = .hold → exec (.queueCreate q qcb) s = .next { s with owed := s.owed ++ [.create q qcb] }) ∧
      (∀ s1 ring n, s.checkCreate x.ctxsel a = .ok s1 (ring, n) →
        exec (.queueCreate q qcb) s = .next (s1.putQueue q { x with
          phase := .active, granted := true, ctx := x.ctxsel, err := 0, cause := 0, pkt := 0, qcb := a, ring := ring, log2n := n
          sets := Vector.replicate 8 { base := 0, ext := Vector.replicate 5 0 }, prog := none, progIdx := 0, prompted := false })))) ∧
  (∀ (s : State) q (y : Queue),
    let s1 : State := { s with queues := s.queues.set q.toNat y, owed := s.owed.filter fun w => match w with
      | .status p _ _ _ => !(p == some q)
      | _ => true }
    (((s.queue q).status = y.status ∨ y.qcb = 0) → s.putQueue q y = { s with queues := s.queues.set q.toNat y }) ∧
    ((s.queue q).status ≠ y.status → y.qcb ≠ 0 →
      (∀ s2 n, s1.hWrite y.ctx (y.qcb + 0x20) 8 y.status = .ok s2 n → s.putQueue q y = s2) ∧
      (s1.hWrite y.ctx (y.qcb + 0x20) 8 y.status = .hold →
        s.putQueue q y = { s1 with owed := s1.owed ++ [.status (some q) y.ctx (y.qcb + 0x20) y.status] }) ∧
      (∀ s2 c v, s1.hWrite y.ctx (y.qcb + 0x20) 8 y.status = .bad s2 c v → s2.queue q = y → y.phase = .active → c < 256 →
        ((s.putQueue q y).queue q).phase = .paused ∧ ((s.putQueue q y).queue q).err = 0x07 ∧
          ((s.putQueue q y).queue q).cause.toNat = c))) ∧
  (∀ (s : State) q,
    let x := s.queue q
    ((s.queue q).phase = .active → exec (.queuePause q) s = .next (s.putQueue q { x with phase := .paused, err := 0, cause := 0, pkt := 0 })) ∧
    ((s.queue q).phase ≠ .active → exec (.queuePause q) s = .next s) ∧
    (x.phase = .paused → (s.ctx x.ctx).phase = .live →
      exec (.queueResume q) s = .next (s.putQueue q { x with phase := .active, err := 0, cause := 0, pkt := 0 })) ∧
    ((x.phase ≠ .paused ∨ (s.ctx x.ctx).phase ≠ .live) → exec (.queueResume q) s = .next s) ∧
    ((x.phase = .active ∨ x.phase = .paused) → (∀ p, x.prog ≠ some (.qfence p)) →
      ∃ s', exec (.queueDrain q) s = .next s' ∧ (s'.queue q).phase = .draining ∧ (s'.queue q).prog = x.prog ∧
        ∀ g, s.graphs[x.ctx.toNat] = some g → g.queue = q → s'.graphs[x.ctx.toNat] = some { g with stopped := true }) ∧
    (∀ p, (x.phase = .active ∨ x.phase = .paused) → x.prog = some (.qfence p) →
      let u := (s.putQueue q { x with phase := .draining }).haltGraph q x.ctx
      (u.fenceStuck p = false → exec (.queueDrain q) s = .next u) ∧
      (u.fenceStuck p = true →
        ∃ s', exec (.queueDrain q) s = .next s' ∧ (s'.queue q).phase = .draining ∧ (s'.queue q).prog = none)) ∧
    ((x.phase = .dead ∨ x.phase = .draining) → exec (.queueDrain q) s = .next s) ∧
    (∀ s1 r w, x.phase = .draining → x.prog = none → s.owes q = false → s.indices x = .ok s1 (r, w) →
      (r = w → exec (.drainComplete q) s = .next (s1.putQueue q { x with phase := .dead })) ∧
      (r ≠ w → exec (.drainComplete q) s = .next s1)) ∧
    ((x.phase ≠ .draining ∨ x.prog ≠ none ∨ s.owes q = true) → exec (.drainComplete q) s = .next s) ∧
    (x.phase = .dead → exec (.queueReset q) s = .next s) ∧
    (x.phase ≠ .dead →
      let u := s.abandon q 0x81
      (∀ s1 c v, u.indices x = .bad s1 c v → ∃ s', exec (.queueReset q) s = .next s' ∧ (s'.queue q).phase = .dead) ∧
      (∀ s1 r w s2, u.indices x = .ok s1 (r, w) → s1.cancelFrom q x 0x81 r (2 ^ x.log2n) = some s2 →
        ∃ s', exec (.queueReset q) s = .next s' ∧ (s'.queue q).phase = .dead) ∧
      (u.indices x = .hold → exec (.queueReset q) s = .next { u with owed := u.owed ++ [.reset q] }))) ∧
  (∀ (s : State) q s1 r w s2 h,
    let x := s.queue q
    (x.phase = .active ∨ x.phase = .draining) → x.prog = none → (s.ctx x.ctx).phase = .live → s.owes q = false →
    s.indices x = .ok s1 (r, w) → (x.prompted = true ∨ r ≠ w) → s1.hRead x.ctx (x.slotAt r) 8 = .ok s2 h →
    (fld h 7 1 = 0 → ∃ s', exec (.hearthPoll q) s = .next s' ∧ s'.agenda = s2.agenda ∧ (s'.queue q).prompted = false) ∧
    (∀ s3 body s4 m s5 n i, fld h 7 1 = 1 → s2.hRead x.ctx (x.slotAt r) 64 = .ok s3 body →
      s3.hWrite x.ctx (x.slotAt r) 8 0 = .ok s4 m → s4.hWrite x.ctx (x.qcb + 8) 8 ((r + 1) % 2 ^ 64) = .ok s5 n →
      (x.phase = .active → packetStep q (BitVec.ofNat 512 body) = some i →
        ∃ s', exec (.hearthPoll q) s = .next s' ∧ s'.agenda = i :: s5.agenda ∧ (s'.queue q).progIdx = BitVec.ofNat 32 r ∧
          (s'.queue q).prompted = false) ∧
      (x.phase = .active → packetStep q (BitVec.ofNat 512 body) = none →
        exec (.hearthPoll q) s = .next ((s5.modQueue q fun y => { y with progIdx := BitVec.ofNat 32 r, prompted := false }).packetError q
          (BitVec.ofNat 512 body) 0x01)) ∧
      (x.phase = .draining → pktType (BitVec.ofNat 512 body) ≠ 3 →
        exec (.hearthPoll q) s = .next ((s5.modQueue q fun y => { y with progIdx := BitVec.ofNat 32 r, prompted := false }).signalStore (some q)
          x.ctx (pktSig (BitVec.ofNat 512 body)) (errorValue 0x80))))) ∧
  (∀ (s : State) q, ((s.queue q).prog ≠ none ∨ (s.queue q).phase = .paused ∨ (s.queue q).phase = .dead ∨ s.owes q = true) →
    exec (.hearthPoll q) s = .next s) ∧
  (∀ (s : State) t d qn pkt w since, (s.tile t).waitOf = some (.qpost d qn pkt (some w) since) →
    let q := BitVec.ofNat 10 qn
    (1250000 < (s.fcc - since).toNat → s.qpostFull (s.queue q) q pkt w = true →
      exec (.qpostTimeout t) s = .next (s.modTile t fun x => x.answer x.isSup d 0xFFFFFFFFFFFFFFFE#64)) ∧
    (((s.fcc - since).toNat ≤ 1250000 ∨ s.qpostFull (s.queue q) q pkt w = false) → exec (.qpostTimeout t) s = .next s))

/-- R281, R288-R293, R306: DISPATCH, LAYOUT, SIGNAL and QFENCE packets, their checks and their effects. -/
def Obligations.PacketsAreCarriedOut : Prop :=
  (∀ (s : State) q pkt, (s.queue q).takes pkt = false →
    exec (.dispatch q pkt) s = .next s ∧ exec (.layout q pkt) s = .next s ∧ exec (.signalPacket q pkt) s = .next s ∧
    exec (.qfence q pkt) s = .next s ∧ exec (.copy q pkt) s = .next s) ∧
  (∀ (s : State) q pkt, (s.queue q).takes pkt = true → fld pkt.toNat 8 8 ≠ 0 →
    PacketRefused (.dispatch q pkt) s q pkt 0x02 ∧ PacketRefused (.layout q pkt) s q pkt 0x02 ∧ PacketRefused (.signalPacket q pkt) s q pkt 0x02 ∧
    PacketRefused (.qfence q pkt) s q pkt 0x02 ∧ PacketRefused (.copy q pkt) s q pkt 0x02) ∧
  (∀ (s : State) q pkt s1 args s2 img,
    let x := s.queue q
    let h := pkt.toNat
    let kernel := pktWord pkt 1
    let arg := pktWord pkt 2
    let argw := pktWord pkt 3
    x.takes pkt = true → fld h 8 8 = 0 → fld h 20 44 = 0 → fld h 320 128 = 0 → argsBad arg argw = false →
    argsMisaligned kernel arg argw = false → (pktSig pkt).toNat % 8 = 0 →
    s.span x.ctx .read arg (argN argw + 1) (64 * argN argw) = .ok s1 args → s1.readImage x.ctx kernel = .ok s2 img →
    (img.ok (argMask argw) = true →
      ∃ s' l, exec (.dispatch q pkt) s = .next s' ∧ s'.launches = s2.launches ++ [l] ∧ l.id = s2.nextLaunch ∧ l.phase = .pending ∧
        l.ctx = x.ctx ∧ l.queue = q ∧ l.prio.toNat = fld h 16 3 ∧ (l.pre = true ↔ fld h 19 1 = 0) ∧ l.kernel = kernel ∧ l.arg = arg ∧
        l.argw = argw ∧ l.sig = pktSig pkt ∧ l.startfcc = pktWord pkt 4 ∧ l.image = img.bytes ∧
        (s'.queue q).prog = some (.launch s.nextLaunch)) ∧
    (img.ok (argMask argw) = false →
      exec (.dispatch q pkt) s = .next ((s2.putQueue q { x.fail 0x05 0 x.progIdx with prog := none }).signalStore (some q) x.ctx (pktSig pkt)
        (errorValue 0x83)))) ∧
  (∀ (s : State) q pkt,
    let h := pkt.toNat
    (s.queue q).takes pkt = true → fld h 8 8 = 0 → fld h 19 5 = 0 → fld h 30 34 = 0 → fld h 288 224 = 0 →
    exec (.layout q pkt) s = .next (s.modQueue q fun y => { y with sets := y.sets.set (fld h 16 3 % 8) {
      base := if fld h 24 1 = 1 then pktWord pkt 1 else (s.queue q).sets[fld h 16 3 % 8].base
      ext := Vector.ofFn fun d : Fin 5 =>
        if fld h (25 + d.val) 1 = 1 then BitVec.ofNat 32 (fld h (128 + 32 * d.val) 32) else (s.queue q).sets[fld h 16 3 % 8].ext[d] } })) ∧
  (∀ (s : State) q pkt,
    let x := s.queue q
    let h := pkt.toNat
    let op := fld h 16 3
    x.takes pkt = true → fld h 8 8 = 0 → fld h 20 12 = 0 → fld h 43 21 = 0 → fld h 128 320 = 0 →
    signalBad op (fld h 32 11) (pktWord pkt 1) (pktSig pkt) = false →
    (op < 2 → (pktSig pkt).toNat % 8 ≠ 0 → PacketRefused (.signalPacket q pkt) s q pkt 0x03) ∧
    ((2 ≤ op ∨ (pktSig pkt).toNat % 8 = 0) → ∀ s1, s.signalOp x.ctx op (pktWord pkt 1) (pktSig pkt) = .ok s1 () →
      exec (.signalPacket q pkt) s = .next
        ((if fld h 19 1 = 1 then s1.sendMsix x.ctx (BitVec.ofNat 6 (fld h 32 11)) else s1).packetDone q))) ∧
  (∀ (s : State) c value target,
    (∀ p s1 old, s.translate c target .write true = .ok p → p.cmp = false →
      (s.hAccess c target (.atomic { op := 0, wide := true, operand := value, compare := 0 }) = .ok s1 old →
        s.signalOp c 0 value target = .ok s1 ()) ∧
      (s.hAccess c target (.write 8 value.toNat) = .ok s1 old → s.signalOp c 1 value target = .ok s1 ())) ∧
    s.signalOp c 2 value target = .ok (s.modCtx c fun x => { x with events := setBit x.events (value.toNat % 256) true }) () ∧
    s.signalOp c 3 value target = .ok (s.modCtx c fun x => { x with events := setBit x.events (value.toNat % 256) false }) ()) ∧
  (∀ (s : State) q pkt,
    let x := s.queue q
    let h := pkt.toNat
    let n := fld h 32 4
    x.takes pkt = true → fld h 8 8 = 0 → fld h 36 28 = 0 → fld h 192 256 = 0 → 2 ≤ n → n ≤ 8 → (∀ e ∈ fenceList pkt, e ≤ 1023) →
    (∀ i, n ≤ i → i < 8 → fld h (64 + 16 * i) 16 = 0) → (pktSig pkt).toNat % 8 = 0 →
    (q.toNat ∈ fenceList pkt → (fenceList pkt).Nodup →
      (∀ e ∈ fenceList pkt, (s.queue (BitVec.ofNat 10 e)).granted = true ∧ (s.queue (BitVec.ofNat 10 e)).ctx = x.ctx) →
      exec (.qfence q pkt) s = .next (s.modQueue q fun y => { y with prog := some (.qfence pkt) })) ∧
    ((q.toNat ∉ fenceList pkt ∨ ¬ (fenceList pkt).Nodup) → PacketRefused (.qfence q pkt) s q pkt 0x06)) ∧
  (∀ (s : State) q pkt, (s.queue q).prog = some (.qfence pkt) →
    let joined := ∀ e ∈ fenceList pkt, ∃ p, (s.queue (BitVec.ofNat 10 e)).prog = some (.qfence p) ∧
      fld p.toNat 16 16 = fld pkt.toNat 16 16 ∧ fenceList p = fenceList pkt ∧ s.owes (BitVec.ofNat 10 e) = false ∧
      s.signalHeld (s.queue (BitVec.ofNat 10 e)).ctx (pktSig p) = false
    (joined → ∃ s', exec (.qfenceJoinComplete q) s = .next s' ∧ ∀ e ∈ fenceList pkt, (s'.queue (BitVec.ofNat 10 e)).prog = none) ∧
    (joined → (∀ e ∈ fenceList pkt, ∀ p, (s.queue (BitVec.ofNat 10 e)).prog = some (.qfence p) → sigNamed (pktSig p) = false) →
      ∃ s', exec (.qfenceJoinComplete q) s = .next s' ∧
        ∀ k, k.toNat ∉ fenceList pkt → (∀ e ∈ fenceList pkt, e < 1024) → s'.queue k = s.queue k) ∧
    (¬ joined → ((s.queue q).phase ≠ .draining ∨ s.fenceStuck pkt = false) → exec (.qfenceJoinComplete q) s = .next s) ∧
    (¬ joined → (s.queue q).phase = .draining → s.fenceStuck pkt = true →
      exec (.qfenceJoinComplete q) s = .next ((s.packetDone q).signalStore (some q) (s.queue q).ctx (pktSig pkt) (errorValue 0x80))))

/-- R294-R303, R344-R348: a copy is taken, reserves its slots, moves its box whole and completes, or faults; a post reaches its barrier word. -/
def Obligations.CopiesMoveTheirBox : Prop :=
  (∀ (s : State) q pkt s1 a s2 b ra rb,
    let x := s.queue q
    x.takes pkt = true → copyBad pkt = none → (copyComp pkt = 1 ∨ s.engineFree = true) →
    s.span x.ctx .read (pktWord pkt 1) 1 64 = .ok s1 a → s1.span x.ctx .read (pktWord pkt 2) 1 64 = .ok s2 b →
    ((layoutOf (ofBytes a) = none ∨ layoutOf (ofBytes b) = none) → exec (.copy q pkt) s = .next (s2.packetError q pkt 0x04)) ∧
    (layoutOf (ofBytes a) = some ra → layoutOf (ofBytes b) = some rb →
      (copyAgrees pkt ra rb = false → exec (.copy q pkt) s = .next (s2.packetError q pkt 0x04)) ∧
      (copyAgrees pkt ra rb = true →
        let bytes := boxCount rb.box * esizeOf rb.etype * copyRecv pkt
        (1048576 < bytes → exec (.copy q pkt) s = .next (s2.packetError q pkt 0x09)) ∧
        (bytes ≤ 1048576 →
          ∃ s' op, exec (.copy q pkt) s = .next s' ∧ (s'.queue q).prog = some (.copy op) ∧ op.pkt = pkt ∧ op.src = ra ∧ op.dst = rb ∧
            op.sset = x.sets[fld pkt.toNat 16 3 % 8] ∧ op.dset = x.sets[fld pkt.toNat 19 3 % 8] ∧ op.slots = none ∧
            s'.tiles = s2.tiles)))) ∧
  (∀ (s : State) q pkt,
    let x := s.queue q
    x.takes pkt = true → copyBad pkt = none →
    (∀ s1 c v, (copyComp pkt = 1 ∨ s.engineFree = true) → s.span x.ctx .read (pktWord pkt 1) 1 64 = .bad s1 c v →
      exec (.copy q pkt) s = .next (s1.copyFaultNow q pkt c v)) ∧
    (copyComp pkt ≠ 1 → s.engineFree = false → exec (.copy q pkt) s = .next (s.takeLater q pkt))) ∧
  (∀ (s : State) q op t g,
    let i := BitVec.ofNat 6 (fld op.pkt.toNat 320 4)
    copies s q op → copyComp op.pkt = 1 → op.slots = none → s.engineFree = true → s.ringTiles (s.queue q).ctx op = .ok () [t] → (s.tile t).ringOf i = some g →
    (g.count ≤ g.fill + g.res → exec (.slotReserve q) s = .next s) ∧
    (g.fill + g.res < g.count →
      ∃ s', exec (.slotReserve q) s = .next s' ∧ (s'.queue q).prog = some (.copy { op with slots := some [(t, (g.rp + g.fill + g.res) % g.count)] }) ∧
        (s'.tile t).ringOf i = some { g with res := g.res + 1, order := g.order ++ [(q.toNat, false)] })) ∧
  (∀ (s : State) q op, copies s q op → op.needsSlot = false →
    (∀ s1, s.copyAll q op = .ok s1 () → exec (.copyComplete q) s = .next s1) ∧
    (s.copyAll q op = .hold → exec (.copyComplete q) s = .next s)) ∧
  (∀ (s : State) q op ms s1,
    let x := s.queue q
    let es := esizeOf op.dst.etype
    let s2 := s1.closedRecords x.ctx ms
    copyComp op.pkt = 0 → copyFollow op.pkt = false → s.copyMoves x.ctx op = .ok () ms → State.writeMoves x.ctx es ms s = .ok s1 →
    s2.signalHeld x.ctx (pktSig op.pkt) = false →
    s.copyAll q op = .ok ((s2.packetDone q).signalDone (some q) x.ctx (pktSig op.pkt)) ()) ∧
  (∀ (s : State) q, s.copyOf? q = none →
    exec (.slotReserve q) s = .next s ∧ exec (.copyComplete q) s = .next s ∧ ∀ cause, exec (.copyFault q cause) s = .next s) ∧
  (∀ (s : State) q op cause s1 v, copies s q op → s.copyFailure q = some (s1, cause.toNat, v) →
    exec (.copyFault q cause) s = .next ((s1.modRings op fun r => r.stuck q.toNat).copyFaultNow q op.pkt cause.toNat v)) ∧
  (∀ (r : Ring) q, (r.stuck q).fill = r.fill ∧ (r.stuck q).rp = r.rp ∧ (r.stuck q).res = r.res) ∧
  (∀ (s : State) q pkt cause v, (s.queue q).phase = .active → sigNamed (pktSig pkt) = false → cause < 256 →
    let s' := s.copyFaultNow q pkt cause v
    (s'.queue q).phase = .paused ∧ (s'.queue q).err = 0x07 ∧ (s'.queue q).cause.toNat = cause ∧ (s'.queue q).prog = none ∧
      (s.ctx (s.queue q).ctx).records.length < (s'.ctx (s.queue q).ctx).records.length) ∧
  (∀ (s : State) h pa n b,
    let a := pa.toNat / 16 * 16
    (∀ t off, windowTile h a = some (t, off) →
      let x := s.tile t
      ((x.phase = .bound ∨ x.phase = .running ∨ x.phase = .trapped) →
        exec (.barrierPost h pa n b) s = .next (s.setTile t { x with
          spad := x.spad.writeN off 16 (barPost (BitVec.ofNat 128 (x.spad.readN off 16)) n.toNat b.toNat).toNat })) ∧
      (¬ (x.phase = .bound ∨ x.phase = .running ∨ x.phase = .trapped) → exec (.barrierPost h pa n b) s = .next s)) ∧
    (windowTile h a = none → (s.inMemory s.pkg h a 16 = false ∨ (n = 0 ∧ b = 0)) → exec (.barrierPost h pa n b) s = .next s) ∧
    (windowTile h a = none → s.inMemory s.pkg h a 16 = true → (n ≠ 0 ∨ b ≠ 0) →
      exec (.barrierPost h pa n b) s = .next (s.barWrite 0 s.pkg h a (barPost (s.barRead 0 s.pkg h a) n.toNat b.toNat)))) ∧
  (∀ (w : BarWord) n b, (n ≠ 0 ∨ b ≠ 0) →
    let x := w.toNat
    let acnt := min (fld x 16 16 + n) 65535
    let bcnt := min (fld x 64 32 + b) 4294967295
    (barState w = 1 →
      (barAexp w < acnt → barState (barPost w n b) = 3) ∧
      (acnt = barAexp w → (fld x 58 1 = 1 ∨ bcnt = fld x 96 32) → barState (barPost w n b) = 2) ∧
      (acnt < barAexp w → (fld x 58 1 = 1 ∨ bcnt ≤ fld x 96 32) → barState (barPost w n b) = 1)) ∧
    ((barState w = 0 ∨ barState w = 2) → barState (barPost w n b) = 3) ∧ (barState w = 3 → barState (barPost w n b) = 3) ∧
    fld (barPost w n b).toNat 16 16 = acnt ∧ fld (barPost w n b).toNat 64 32 = bcnt)

/-- R314-R317: the sequencer takes a graph and carries out its records: LAUNCH, SNAPOP, JUMPIF, SIGNAL and END. -/
def Obligations.GraphRecordsAreCarriedOut : Prop :=
  (∀ (s : State) q pkt,
    let x := s.queue q
    let h := pkt.toNat
    (x.takes pkt = true ∨ x.prog = some (.graph pkt false)) → fld h 8 56 = 0 → fld h 160 288 = 0 → fld h 64 7 = 0 → (pktSig pkt).toNat % 8 = 0 →
    ((s.graphs[x.ctx.toNat]).isSome = true →
      exec (.graph q pkt) s = .next (s.modQueue q fun y => { y with prog := some (.graph pkt false) })) ∧
    (s.graphs[x.ctx.toNat] = none →
      ∃ s' g, exec (.graph q pkt) s = .next s' ∧ s'.graphs[x.ctx.toNat] = some g ∧ g.queue = q ∧ g.addr = pktWord pkt 1 ∧
        g.passMax.toNat = fld h 128 32 ∧ g.pass = 0 ∧ g.next = 0 ∧ g.launches = [] ∧ g.failed = none ∧
        g.stopped = (x.phase == .draining) ∧
        (s'.queue q).prog = some (.graph pkt true))) ∧
  (∀ (s : State) c, s.record c = .none → exec (.graphLaunchRecord c) s = .next s ∧ exec (.snapop c) s = .next s ∧
    exec (.jumpif c) s = .next s ∧ exec (.graphSignalRecord c) s = .next s) ∧
  (∀ (s : State) c g, s.graphs[c.toNat] = some g → s.record c = .bad →
    let t := s.failGraph c g (errorValue 0x82) 0x02
    exec (.graphLaunchRecord c) s = .next t ∧ exec (.snapop c) s = .next t ∧ exec (.jumpif c) s = .next t ∧
    exec (.graphSignalRecord c) s = .next t) ∧
  (∀ (s : State) c g r, holds s c g r → recType r = 1 →
    (32 ≤ g.launches.length → exec (.graphLaunchRecord c) s = .next s) ∧
    (∀ s1 args s2 img, g.launches.length < 32 →
      s.span c .read (recWord r 2) (argN (recWord r 3) + 1) (64 * argN (recWord r 3)) = .ok s1 args →
      s1.readImage c (recWord r 1) = .ok s2 img → img.ok (argMask (recWord r 3)) = true →
      ∃ s' l, exec (.graphLaunchRecord c) s = .next s' ∧ s'.launches = s2.launches ++ [l] ∧ l.id = s2.nextLaunch ∧ l.phase = .pending ∧
        l.ctx = c ∧ l.queue = g.queue ∧ l.kernel = recWord r 1 ∧ l.arg = recWord r 2 ∧ l.sig = recWord r 4 ∧ l.startfcc = 0 ∧
        l.image = img.bytes ∧ s'.agenda = [.graphLaunchRecord c, .snapop c] ++ s2.agenda ∧
        s'.graphs[c.toNat] = some { g with next := g.next + 1, launches := g.launches ++ [s.nextLaunch], issued := g.issued + 1 })) ∧
  (∀ (s : State) c g r, holds s c g r → recType r = 2 →
    ∃ s' op, exec (.snapop c) s = .next s' ∧ s'.snapOps = s.snapOps ++ [op] ∧ op.ctx = c ∧ op.form = fld r 16 3 ∧
      op.operand.toNat = fld r 48 16 ∧ op.rejecting = none ∧
      s'.graphs[c.toNat] = some { g with next := g.next + 1, snapops := g.snapops + 1, issued := g.issued + 1 }) ∧
  (∀ (s : State) c g r, holds s c g r → recType r = 3 →
    let e := (s.ctx c).events
    let taken := fld r 16 2 = 0 ∨ (fld r 16 2 = 1 ∧ e &&& recTest r ≠ 0) ∨ (fld r 16 2 = 2 ∧ e &&& recTest r = recTest r) ∨
      (fld r 16 2 = 3 ∧ e &&& recTest r = 0)
    (taken → ∃ s', exec (.jumpif c) s = .next s' ∧ (s'.ctx c).events = e ||| recSet r ∧
      s'.graphs[c.toNat] = some { g with next := (jumpTarget g.next r).toNat, issued := g.issued + 1 }) ∧
    (¬ taken → ∃ s', exec (.jumpif c) s = .next s' ∧ (s'.ctx c).events = e ∧
      s'.graphs[c.toNat] = some { g with next := g.next + 1, issued := g.issued + 1 })) ∧
  (∀ (s : State) c g r s1, holds s c g r → recType r = 4 → s.signalOp c (fld r 16 3) (recWord r 1) (recWord r 2) = .ok s1 () →
    ∃ s', exec (.graphSignalRecord c) s = .next s' ∧ (s'.ctx c).events = (s1.ctx c).events ||| recSet r ∧
      (fld r 19 1 = 1 → s'.msix = (c, BitVec.ofNat 6 (fld r 32 11)) :: s1.msix) ∧
      s'.graphs[c.toNat] = some { g with next := g.next + 1, issued := g.issued + 1 }) ∧
  (∀ (s : State) c g r, holds s c g r → recType r = 4 → 2 ≤ fld r 16 3 → fld r 16 3 ≤ 3 → fld r 19 1 = 0 →
    ∃ s', exec (.graphSignalRecord c) s = .next s' ∧
      (s'.ctx c).events = setBit (s.ctx c).events ((recWord r 1).toNat % 256) (fld r 16 3 == 2) ||| recSet r ∧
      s'.graphs[c.toNat] = some { g with next := g.next + 1, issued := g.issued + 1 }) ∧
  (∀ (s : State) c, s.graphs[c.toNat] = none → exec (.graphEndRecord c) s = .next s) ∧
  (∀ (s : State) c g r, holds s c g r → recType r = 5 →
    (g.launches ≠ [] ∨ g.snapops ≠ 0 → exec (.graphEndRecord c) s = .next s) ∧
    (g.launches = [] → g.snapops = 0 →
      (fld r 16 1 = 1 → (g.passMax = 0 ∨ (g.pass + 1).toNat < g.passMax.toNat) →
        ∃ s', exec (.graphEndRecord c) s = .next s' ∧ (s'.ctx c).events = (s.ctx c).events &&& recSet r ∧
          s'.graphs[c.toNat] = some { g with pass := g.pass + 1, next := 0 }) ∧
      ((fld r 16 1 = 0 ∨ (g.passMax ≠ 0 ∧ g.passMax.toNat ≤ (g.pass + 1).toNat)) → s.signalHeld c g.sig = false →
        ∃ s', exec (.graphEndRecord c) s = .next s' ∧ s'.graphs[c.toNat] = none ∧ (s'.queue g.queue).prog = none))) ∧
  (∀ (s : State) c g, s.graphs[c.toNat] = some g → g.launches = [] → g.snapops = 0 →
    (∀ v e, g.failed = some (v, e) →
      exec (.graphEndRecord c) s = .next ((s.endGraph c g).signalStore (some g.queue) c g.sig v.toNat)) ∧
    (∀ s1, g.failed = none → g.stopped = true → s.cancelRecords c g 65536 g.next = some s1 →
      exec (.graphEndRecord c) s = .next ((s1.endGraph c g).signalStore (some g.queue) c g.sig (errorValue 0x80))))
/-! ## Pages, migration and snapshots (16_page.md, 17_snapshot.md) -/

namespace Sys2Proof.Claims
open Sys2Proof Sys2Proof.Machine

/-- A page command ends with `err`: BUSY is clear and DONE has risen (R363). -/
def PageEnded (s s' : State) (err : BitVec 8) : Prop := s'.page.run = none ∧ s'.page.done = s.page.done + 1 ∧ s'.page.err = err

/-- A page command runs (R363). -/
def PageRuns (s s' : State) (op : BitVec 4) (c : BitVec 6) : Prop :=
  s'.page.run = some (op, c, s.page.arg0, s.page.arg1) ∧ s'.page.done = s.page.done

/-- The operation at the sequencer, and the form it has. -/
def performs (s : State) (c : BitVec 6) (op : SnapOp) (form : Nat) : Prop :=
  s.firstOp c = some op ∧ op.ctx = c ∧ op.rejecting = none ∧ op.form = form ∧ s.snapCause op = none

end Sys2Proof.Claims

open Sys2Proof Sys2Proof.Machine Sys2Proof.Claims

/-- R363-R371: the page commands judge their operands, have their effects and complete; migration moves a page, or freezes it for a time. -/
def Obligations.PageCommandsAct : Prop :=
  (∀ (s : State) c, s.page.run.isSome = true →
    let t : State := { s with page := { s.page with late := true } }
    exec (.setroot c) s = .next t ∧ exec (.shootdown c) s = .next t ∧ exec (.frameset c) s = .next t ∧ exec (.dirtysync c) s = .next t ∧
    exec (.migcfg c) s = .next t) ∧
  (∀ (s : State) c, s.page.run = none → s.page.late = false →
    let a := s.page.arg0
    let formed := fld a.toNat 0 12 = 0 ∧ fld a.toNat 55 9 = 0 ∧ (pteDie a).toNat ≤ 4 ∧ s.page.arg1 = 0
    (¬ formed → ∃ s', exec (.setroot c) s = .next s' ∧ PageEnded s s' 0x01 ∧ s'.ctxs = s.ctxs) ∧
    (formed → tableOk (pteDie a) (4096 * ptePfn a) = false → ∃ s', exec (.setroot c) s = .next s' ∧ PageEnded s s' 0x02 ∧ s'.ctxs = s.ctxs) ∧
    (formed → tableOk (pteDie a) (4096 * ptePfn a) = true →
      (s.launchBound c = true → ∃ s', exec (.setroot c) s = .next s' ∧ PageEnded s s' 0x05 ∧ s'.ctxs = s.ctxs) ∧
      (s.launchBound c = false → ∃ s', exec (.setroot c) s = .next s' ∧ PageRuns s s' 1 c ∧ (s'.ctx c).root = a ∧
        ∀ d, d ≠ c → s'.ctx d = s.ctx d))) ∧
  (∀ (s : State) c, s.page.run = none → s.page.late = false →
    let first := s.page.arg0
    let pages := s.page.arg1.toNat
    (first.toNat % 4096 ≠ 0 → ∃ s', exec (.shootdown c) s = .next s' ∧ PageEnded s s' 0x02 ∧ s'.tiles = s.tiles) ∧
    (first.toNat % 4096 = 0 → ∃ s', exec (.shootdown c) s = .next s' ∧ PageRuns s s' 2 c ∧
      (∀ t, (s.tile t).ctx = c → ∀ e ∈ (s'.tile t).tlb, overlapsPages e.va e.size first pages = false) ∧
      (∀ t, (s.tile t).ctx ≠ c → s'.tile t = s.tile t))) ∧
  (∀ (s : State) c, s.page.run = none → s.page.late = false →
    let a := s.page.arg0
    let die := pteDie a
    let pa := 4096 * ptePfn a
    (s.page.arg1.toNat < 2 → s.homeOperandBad a 65536 = false →
      (s.frameInRange die pa = true → ∃ s', exec (.frameset c) s = .next s' ∧ PageEnded s s' 0x04 ∧ s'.store = s.store) ∧
      (s.frameInRange die pa = false →
        ∃ s', exec (.frameset c) s = .next s' ∧ PageRuns s s' 3 c ∧ (s.store.attr.wf = true → s'.frameCmp s.pkg die pa = s.page.arg1.getLsbD 0) ∧
          (s.frameCmp s.pkg die pa = s.page.arg1.getLsbD 0 → s'.store = s.store))) ∧
    (s.page.arg1.toNat < 2 → s.homeOperandBad a 65536 = true → ∃ s', exec (.frameset c) s = .next s' ∧ PageEnded s s' 0x02 ∧ s'.store = s.store) ∧
    (s.page.arg1.toNat < 2 → s.homeOperandBad a 0x200000 = false →
      ∃ s', exec (.dirtysync c) s = .next s' ∧ PageRuns s s' 4 c ∧
        (∀ (w : Fin 8) (b : Fin 64), s'.page.data[w].getLsbD b =
          decide (s.store.dirty.read (homeKey s.pkg die pa / 4096 + (64 * w.val + b.val)) ≠ 0)) ∧
        (s.page.arg1 = 0 → s'.store = s.store)) ∧
    (2 ≤ s.page.arg1.toNat → (∃ s', exec (.frameset c) s = .next s' ∧ PageEnded s s' 0x01 ∧ s'.store = s.store) ∧
      ∃ s', exec (.dirtysync c) s = .next s' ∧ PageEnded s s' 0x01 ∧ s'.store = s.store)) ∧
  (∀ (s : State) c, s.page.run = none → s.page.late = false →
    let k := fld s.page.arg0.toNat 0 5
    let f := fld s.page.arg0.toNat 16 10
    let ok := fld s.page.arg0.toNat 5 11 = 0 ∧ fld s.page.arg0.toNat 26 38 = 0 ∧ s.page.arg1 = 0 ∧ 4 ≤ k ∧ k ≤ 16 ∧ 16 ≤ f ∧ f ≤ 1000
    (ok → ∃ s', exec (.migcfg c) s = .next s' ∧ PageRuns s s' 5 c ∧ (s'.ctx c).migK = k ∧ (s'.ctx c).migFreeze = f) ∧
    (¬ ok → ∃ s', exec (.migcfg c) s = .next s' ∧ PageEnded s s' 0x01 ∧ s'.ctxs = s.ctxs)) ∧
  (∀ (s : State),
    (s.page.run = none → exec .pageCommandComplete s = .next s) ∧
    ∀ op c a0 a1, s.page.run = some (op, c, a0, a1) → s.page.late = false →
      ((op ≠ 2 ∨ s.usesRange c a0 a1.toNat = false) → ∃ s', exec .pageCommandComplete s = .next s' ∧ PageEnded s s' 0) ∧
      (op = 2 → s.usesRange c a0 a1.toNat = true → exec .pageCommandComplete s = .next s)) ∧
  (∀ (s : State) c va d, s.mig? c va = none →
    exec (.migrationTrigger c va d) s = .next s ∧ exec (.migrationMoveComplete c va) s = .next s ∧ exec (.freezeExpiry c va) s = .next s) ∧
  (∀ (s : State) c va (d : BitVec 2) m die pa es e size, s.mig? c va = some m →
    (m.counts[d.toNat] < 2 ^ (s.ctx c).migK → exec (.migrationTrigger c va d) s = .next s) ∧
    (m.phase = .stable → 2 ^ (s.ctx c).migK ≤ m.counts[d.toNat] → s.leavesOf c va = some (die, pa, es) → s.walk c va = .ok (e, size) →
      pteMode e = modeMigrate →
      (4 ≤ (m.recent s.fcc).length → ∃ s' until_, exec (.migrationTrigger c va d) s = .next s' ∧
        until_ = s.fcc + BitVec.ofNat 64 ((s.ctx c).migFreeze * 1250000) ∧
        ∃ n, s'.mig? c va = some n ∧ n.phase = MigPhase.frozen until_ die pa es) ∧
      (∀ frame rest, (m.recent s.fcc).length < 4 → takeFrame m.size (s.store.reserve[d.toNat]) = some (frame, rest) →
        ∃ s', exec (.migrationTrigger c va d) s = .next s' ∧ s'.store.reserve = s.store.reserve.set d.toNat rest ∧
          ∃ n, s'.mig? c va = some n ∧ n.phase = MigPhase.moving s.fcc d.toNat frame))) ∧
  (∀ (s : State) c va m f k frame die pa es e size, s.mig? c va = some m → m.phase = .moving f k frame →
    s.leavesOf c va = some (die, pa, es) → s.walk c va = .ok (e, size) →
    ∃ s', exec (.migrationMoveComplete c va) s = .next s' ∧
      ∃ n, s'.mig? c va = some n ∧ n.phase = MigPhase.stable ∧ n.home = k ∧ n.counts = Vector.replicate 4 0 ∧ s.fcc ∈ n.moves) ∧
  (∀ (s : State) c va m u die pa es, s.mig? c va = some m → m.phase = .frozen u die pa es →
    (s.fcc.toNat < u.toNat → exec (.freezeExpiry c va) s = .next s) ∧
    (u.toNat ≤ s.fcc.toNat → ∃ s', exec (.freezeExpiry c va) s = .next s' ∧
      ∃ n, s'.mig? c va = some n ∧ n.phase = MigPhase.stable ∧ n.counts = Vector.replicate 4 0))

/-- R372-R388: the range and budget registers, the sequencer's operations, the reject's completion, and the background work. -/
def Obligations.SnapshotsAct : Prop :=
  (∀ (s : State) c v, exec (.spoolWrite c v) s = .next (s.modSnap c fun x => { x with budget := v.extractLsb' 0 24 })) ∧
  (∀ (s : State) c n hi v,
    let i : Fin 16 := n.toFin
    let old := (s.snap c).range i
    (s.awaits c i = true → exec (.srangeWrite c n hi v) s = .next s) ∧
    (s.awaits c i = false → old.depth ≠ 0 → (hi = true ∨ v.getLsbD 0 = true) → exec (.srangeWrite c n hi v) s = .next s) ∧
    (s.awaits c i = false → hi = false → old.en = true → v.getLsbD 0 = false →
      ∃ s' op, exec (.srangeWrite c n hi v) s = .next s' ∧ s'.snapOps = s.snapOps ++ [op] ∧ op.ctx = c ∧ op.who = .register ∧ op.form = 4 ∧
        s'.snaps = s.snaps) ∧
    (s.awaits c i = false → old.depth = 0 → hi = true → old.en = false →
      exec (.srangeWrite c n hi v) s = .next (s.setRange c i { old with sizem1 := v.extractLsb' 0 20 })) ∧
    (s.awaits c i = false → old.depth = 0 → hi = true → old.en = true →
      let new : SnapRange := { old with sizem1 := v.extractLsb' 0 20 }
      (s.rangeRefused c i new = true → exec (.srangeWrite c n hi v) s = .next (s.setRange c i { old with err := true })) ∧
      (s.rangeRefused c i new = false → exec (.srangeWrite c n hi v) s = .next (s.setRange c i { new with err := false }))) ∧
    (s.awaits c i = false → old.depth = 0 → hi = false → old.en = false → v.getLsbD 0 = false →
      exec (.srangeWrite c n hi v) s = .next (s.setRange c i { old with die := v.extractLsb' 52 3, base := v.extractLsb' 16 36 })) ∧
    (s.awaits c i = false → old.depth = 0 → hi = false → v.getLsbD 0 = true →
      let new : SnapRange := { old with en := true, die := v.extractLsb' 52 3, base := v.extractLsb' 16 36 }
      (s.rangeRefused c i new = true → exec (.srangeWrite c n hi v) s = .next (s.setRange c i { old with err := true })) ∧
      (s.rangeRefused c i new = false → exec (.srangeWrite c n hi v) s = .next (s.setRange c i { new with err := false })))) ∧
  (∀ (s : State) c, (s.firstOp c = none ∨ ∃ op, s.firstOp c = some op ∧ op.rejecting ≠ none) →
    exec (.snapshotOperationPerform c) s = .next s) ∧
  (∀ (s : State) c op code, s.firstOp c = some op → op.rejecting = none → s.snapCause op = some code →
    exec (.snapshotOperationPerform c) s = .next (s.failSnap op code)) ∧
  (∀ (s : State) c op (i : Fin 16), namedRanges op.operand = [i] →
    let r := (s.snap c).range i
    (performs s c op 0 →
      let s1 : State := { s with store := { s.store with gen := s.store.gen.set (r.die.toNat % 5) (s.genOf r.die + 1) } }
      r.die.toNat < 5 → exec (.snapshotOperationPerform c) s =
        .next ((s1.setRange c i { r with gens := r.gens ++ [s.genOf r.die + 1] }).finishSnap op)) ∧
    (performs s c op 1 → ∃ s', exec (.snapshotOperationPerform c) s = .next s' ∧ (s'.snap c).range i = { r with gens := r.gens.dropLast } ∧
      s'.snapOps = dropFirst c s.snapOps ∧ ∀ e ∈ s'.store.shadows, e.isOf c i = true → e.level = r.depth → e.phase ≠ .held) ∧
    (performs s c op 2 → ∃ s', exec (.snapshotOperationPerform c) s = .next s' ∧ (s'.snap c).range i = { r with gens := r.gens.dropLast } ∧
      s'.firstOp c = some { op with rejecting := some s.fcc, unacked := s.otherDies } ∧
      ∀ e ∈ s'.store.shadows, e.isOf c i = true → e.level = r.depth → e.phase ≠ .held)) ∧
  (∀ (s : State) c op, performs s c op 3 → exec (.snapshotOperationPerform c) s = .next (s.finishSnap op)) ∧
  (∀ (s : State) c op, performs s c op 4 →
    let i : Fin 16 := (op.operand.extractLsb' 2 4).toFin
    (s.awaits c i = true → exec (.snapshotOperationPerform c) s = .next s) ∧
    (s.awaits c i = false →
      ∃ s', exec (.snapshotOperationPerform c) s = .next s' ∧ ((s'.snap c).range i).en = false ∧ ((s'.snap c).range i).gens = [] ∧
        s'.snapOps = dropFirst c s.snapOps)) ∧
  (∀ (s : State) c op,
    (s.firstOp c = some op → op.rejecting ≠ none → op.unacked = [] → exec (.rejectCompletion c) s = .next (s.finishSnap op)) ∧
    (s.firstOp c = some op → op.unacked ≠ [] → exec (.rejectCompletion c) s = .next s) ∧
    (s.firstOp c = some op → op.rejecting = none → exec (.rejectCompletion c) s = .next s) ∧
    (s.firstOp c = none → exec (.rejectCompletion c) s = .next s)) ∧
  (∀ (s : State) op t sup d e bank fpsr, op.who = .tile t sup d → (s.tile t).ctx = op.ctx →
    (if sup then (s.tile t).ctl.swait else (s.tile t).ctl.wait) = some (.snapshot d e bank fpsr) →
    s.finishSnap op = ({ s with snapOps := dropFirst op.ctx s.snapOps } : State).modTile t fun x => x.answer sup d (s.snapResult op)) ∧
  (∀ (s : State) c op f, s.firstOp c = some op → op.rejecting = some f →
    ((s.fcc - f).toNat < 12500000 → (s.fcc - f).toNat % 12500 ≠ 0 → exec (.invalidateAckTimeout c) s = .next s) ∧
    ((s.fcc - f).toNat < 12500000 → (s.fcc - f).toNat % 12500 = 0 → exec (.invalidateAckTimeout c) s = .next (s.resend op op.unacked)) ∧
    (12500000 ≤ (s.fcc - f).toNat → (s.ctx c).phase = .live →
      ∃ s', exec (.invalidateAckTimeout c) s = .next s' ∧ (s'.ctx c).phase = .killing ∧ (s'.ctx c).cause = BitVec.ofNat 8 cLinkFatal)) ∧
  (∀ (s : State) c, ∃ s', exec (.shadowEntryFree c) s = .next s' ∧
    ∀ e, e ∈ s'.store.shadows ↔ e ∈ s.store.shadows ∧ ¬ (e.ctx = c ∧ e.phase = .freeing)) ∧
  (∀ (s : State) h line, exec (.restoreLine h line) s = .next (s.restore h.toNat line.toNat)) ∧
  (∀ (s : State) h pa c data,
    let p := s.homeOp c s.pkg h pa.toNat (.write data.length (ofBytes data))
    (∀ s1 old, p = .ok (s1, old) → exec (.snapshotLineWrite h pa c data) s = .next s1) ∧
    (p = .hold → exec (.snapshotLineWrite h pa c data) s = .next s) ∧
    (∀ owner i, p = .refuse 0x14 → s.rangeAt h.toNat pa.toNat = some (owner, i) →
      ∃ s', exec (.snapshotLineWrite h pa c data) s = .next s' ∧ s'.store = s.store ∧
        (s'.ctx owner).records.length = (s.ctx owner).records.length + 1))
/-! ## Ports and switches (18_link.md) -/

namespace Sys2Proof.Claims
open Sys2Proof Sys2Proof.Machine

/-- A step of a bring-up succeeds: it is journalled, and port `n` is left as `p`. -/
def StepDone (i : Instr) (s : State) (n : BitVec 4) (p : Port) : Prop :=
  ∃ s', exec i s = .next s' ∧ s'.port n = p ∧ s'.manage.logSeq = s.manage.logSeq + 1 ∧ ∀ m, m ≠ n → s'.port m = s.port m

/-- A step of a bring-up fails: from the fast path it goes on at step 1 of the full path, and on the full path the port fails (R404). -/
def StepFails (i : Instr) (s : State) (n : BitVec 4) (step : Nat) : Prop :=
  let p := s.port n
  StepDone i s n (if p.fast
    then { p with lastFail := BitVec.ofNat 3 step, skipFast := true, fast := false, step := 1,
                  phase := if p.phase = .retraining then .retraining else .locking }
    else { p with lastFail := BitVec.ofNat 3 step, phase := .failed })

end Sys2Proof.Claims

open Sys2Proof Sys2Proof.Machine Sys2Proof.Claims

/-- R402, R404, R405, R406, R407: a port is enabled and disabled, runs the five steps of its bring-up, and fails over; a switch matrix takes a cell write,
refuses one, and completes it. -/
def Obligations.PortsComeUp : Prop :=
  (∀ (s : State) n,
    let p := s.port n
    (p.phase = .dark → ∃ s', exec (.portEnable n) s = .next s' ∧ (s'.port n).phase = .locking ∧ (s'.port n).step = 1 ∧ (s'.port n).enable = true ∧
      ((s'.port n).fast = true ↔ p.full = false ∧ p.skipFast = false) ∧ ∀ m, m ≠ n → s'.port m = s.port m) ∧
    (p.phase ≠ .dark → exec (.portEnable n) s = .next (s.modPort n fun p => { p with enable := true })) ∧
    exec (.portDisable n) s = .next (s.modPort n fun p => { p with enable := false, darkening := p.phase != .dark })) ∧
  (∀ (s : State) n,
    let p := s.port n
    (p.inStep 1 = true →
      StepDone (.bringupLock n true) s n { p with step := 2, phase := if p.phase = .retraining then .retraining else .aligning } ∧
      StepFails (.bringupLock n false) s n 1) ∧
    (p.inStep 1 = false → ∀ ok, exec (.bringupLock n ok) s = .next s)) ∧
  (∀ (s : State) n skew flight,
    let p := s.port n
    let up (k : Nat) : Port := { p with step := k, phase := if p.phase = .retraining then .retraining else .trained }
    (p.inStep 2 = true →
      (skew.toNat ≤ 8 → flight.toNat ≤ 100 → StepDone (.bringupAlign n skew flight) s n { up 3 with flight := flight }) ∧
      (¬ (skew.toNat ≤ 8 ∧ flight.toNat ≤ 100) → StepFails (.bringupAlign n skew flight) s n 2)) ∧
    (p.inStep 2 = false → exec (.bringupAlign n skew flight) s = .next s) ∧
    (p.inStep 3 = true → StepDone (.bringupTrain n) s n (up 4)) ∧ (p.inStep 3 = false → exec (.bringupTrain n) s = .next s)) ∧
  (∀ (s : State) n corr uncorr same encl,
    let p := s.port n
    let up (k : Nat) : Port := { p with step := k, phase := if p.phase = .retraining then .retraining else .trained }
    (p.inStep 4 = true →
      (corr ≤ 64 → uncorr = 0 → StepDone (.bringupVerify n corr uncorr) s n (up 5)) ∧
      (¬ (corr ≤ 64 ∧ uncorr = 0) → StepFails (.bringupVerify n corr uncorr) s n 4)) ∧
    (p.inStep 4 = false → exec (.bringupVerify n corr uncorr) s = .next s) ∧
    (p.inStep 5 = true → StepDone (.bringupHandshake n same encl) s n
      { up 6 with same := same, encl := encl, goingActive := true, skipFast := p.skipFast && p.fast }) ∧
    (p.inStep 5 = false → exec (.bringupHandshake n same encl) s = .next s)) ∧
  (∀ (s : State) (e : BitVec 2) (v : W64),
    let x := s.switches[e.toNat]
    let row : BitVec 3 := v.extractLsb' 0 3
    let col : BitVec 3 := v.extractLsb' 4 3
    let set := v.getLsbD 7
    let refused (code : BitVec 8) : Prop := exec (.swcmd e v) s = .next (s.modSwitch e fun y => { y with err := code })
    let formed := v.toNat < 256 ∧ v.getLsbD 3 = false
    (¬ formed → refused 0x01) ∧
    (formed → x.busy ≠ none → refused 0x02) ∧
    (formed → x.busy = none → s.litColumn e col = true → refused 0x03) ∧
    (formed → x.busy = none → s.litColumn e col = false → x.row[row.toNat] = none → (∀ r : Fin 8, x.row[r] ≠ some col) →
      (set = false → refused 0x00) ∧
      (set = true → x.wear[x.wearIdx row col].toNat < 8000000 →
        exec (.swcmd e v) s = .next (s.modSwitch e fun y => { y with err := 0, busy := some (true, col, row, false) })) ∧
      (set = true → 8000000 ≤ x.wear[x.wearIdx row col].toNat → x.spares = 0 → refused 0x05) ∧
      (set = true → 8000000 ≤ x.wear[x.wearIdx row col].toNat → x.spares ≠ 0 →
        exec (.swcmd e v) s = .next (s.modSwitch e fun y => { y with err := 0, busy := some (true, col, row, true) }))) ∧
    (formed → x.busy = none → s.litColumn e col = false → x.row[row.toNat] = some col →
      (set = false → x.wear[x.wearIdx row col].toNat < 8000000 →
        exec (.swcmd e v) s = .next (s.modSwitch e fun y => { y with err := 0, busy := some (false, col, row, false) })) ∧
      (set = true → (∀ r : Fin 8, r.val ≠ row.toNat → x.row[r] ≠ some col) → refused 0x00)) ∧
    (∀ c, formed → x.busy = none → s.litColumn e col = false → x.row[row.toNat] = some c → c ≠ col →
      (s.litColumn e c = true → refused 0x03) ∧ (s.litColumn e c = false → set = true → refused 0x04))) ∧
  (∀ (s : State) (e : BitVec 2),
    let x := s.switches[e.toNat]
    (x.busy = none → exec (.switchCellWriteDone e) s = .next s) ∧
    (∀ set col row, x.busy = some (set, col, row, false) →
      let i := x.wearIdx row col
      exec (.switchCellWriteDone e) s = .next (s.modSwitch e fun _ =>
        { x with wear := x.wear.set i (x.wear[i] + 1), row := x.row.set row.toNat (if set then some col else none), busy := none })) ∧
    (∀ set col row, x.busy = some (set, col, row, true) →
      ∃ s', exec (.switchCellWriteDone e) s = .next s' ∧ (s'.switches[e.toNat]).spares = x.spares - 1 ∧
        (s'.switches[e.toNat]).busy = some (set, col, row, false) ∧ s'.manage.logSeq = s.manage.logSeq + 1))

/-- R391-R401, R403: rows leave and arrive, errored flits are repaired or time out, lanes are wrapped and retrained, and a port that loses
its clock lane loses its traffic. -/
def Obligations.RowsAndLanes : Prop :=
  (∀ (s : State) n,
    let p := s.port n
    let s0 := s.resolveSlots
    let boundary := s.fcc.toNat % 64 = 0
    (boundary → p.darkening = true → ∃ s', exec (.rowSend n) s = .next s' ∧ (s'.port n).phase = .dark ∧ (s'.port n).darkening = false) ∧
    (boundary → p.darkening = false → p.goingActive = true →
      ∃ s', exec (.rowSend n) s = .next s' ∧ (s'.port n).carrying = true ∧ (s'.port n).goingActive = false ∧ (s'.port n).step = 0 ∧
        ∃ row rest, (s'.port n).sent = (s.fcc, row) :: rest) ∧
    (¬ boundary → p.carrying = true →
      let a := s0.slotFlit n false
      let b := a.1.slotFlit n true
      exec (.rowSend n) s = .next (b.1.modPort n fun p => p.sendRow s.fcc a.2 b.2)) ∧
    (¬ boundary → p.carrying = false →
      (s0.offered n = [] → exec (.rowSend n) s = .next s0) ∧
      ∃ s', exec (.rowSend n) s = .next s' ∧ ∀ f ∈ s0.offered n, f ∉ s'.fabric.flits ∧
        (f.head = none → (s.ctx f.srcCtx).phase = .live → (s'.ctx f.srcCtx).phase = .killing ∧ (s'.ctx f.srcCtx).cause = 0xF1))) ∧
  (∀ (s : State) (n : BitVec 4) slot,
    (∀ f, s.opticalFlit n.toNat slot.toNat = some f →
      let b := s.sealFlit ⟨n.toNat, n.isLt⟩ 0 s.fcc slot f.header f.data
      (s.slotFlit n slot).2 = b ∧
      (f.head = none → (s.slotFlit n slot).1 = s.modPort n fun p => { p with out := p.out ++ [(s.fcc, slot, f.srcCtx, b)] })) ∧
    (s.opticalFlit n.toNat slot.toNat = none →
      ((∀ o ∈ s.remote.outflits, o.1 ≠ n.toNat) → s.slotFlit n slot = (s, 0)) ∧
      (∀ vc h b rest, s.remote.outflits = (n.toNat, vc, h, b) :: rest →
        s.slotFlit n slot = ({ s with remote := { s.remote with outflits := rest } }, s.sealFlit ⟨n.toNat, n.isLt⟩ vc s.fcc slot h b)))) ∧
  (∀ ctl f0 f1 share, share.length = 5 →
    let row := rowBytes ctl f0 f1 share
    row.length = 175 ∧ row.take 171 = toBytes 2 ctl ++ [crc8 (toBytes 2 ctl)] ++ toBytes 80 f0.toNat ++ toBytes 80 f1.toNat ++ share ++
      toBytes 2 ctl ++ [crc8 (toBytes 2 ctl)]) ∧
  (∀ (s : State) n beats,
    let p := s.port n
    (p.carrying = false → exec (.rowReceive n beats) s = .next s) ∧
    (p.carrying = true → (readRow p.ind beats).2 = none → (readRow p.ind beats).1 = none → 15 ≤ p.badRows →
      ∃ s', exec (.rowReceive n beats) s = .next s' ∧ (s'.port n).phase = .retraining ∧ (s'.port n).out = []) ∧
    (p.carrying = true → (readRow p.ind beats).2 = none → (readRow p.ind beats).1 = none → p.badRows < 15 →
      ∃ s', exec (.rowReceive n beats) s = .next s' ∧ (s'.port n).carrying = true ∧ (s'.port n).badRows = p.badRows + 1) ∧
    (∀ w d v places, p.carrying = true → readRow p.ind beats = (w, some (d, v, places)) →
      ∃ s', exec (.rowReceive n beats) s = .next s' ∧ (s'.port n).carrying = true ∧ (s'.port n).badRows = 0 ∧ (s'.port n).ind = d ∧
        (s'.port n).corr = if places = [] then p.corr else satInc p.corr)) ∧
  (∀ (s : State) n pkt,
    ((s.port n).carrying = false → exec (.repairPacketReceive n pkt) s = .next s) ∧
    ((s.port n).carrying = true → (pkt = 0 ∨ rsDecode 18 (toBytes 100 pkt.toNat) = none) → exec (.repairPacketReceive n pkt) s = .next s) ∧
    (∀ w places v, (s.port n).carrying = true → pkt ≠ 0 → rsDecode 18 (toBytes 100 pkt.toNat) = some (w, places) →
      let loc := ofBytes ((w.drop 80).take 2)
      let fits (u : RepairWait) : Bool := u.row == BitVec.ofNat 8 (fld loc 6 8) && u.slot == (fld loc 14 1 == 1)
      (s.port n).waits.find? fits = some v →
      ∃ s', exec (.repairPacketReceive n pkt) s = .next s' ∧ (s'.port n).repaired = satInc (s.port n).repaired ∧
        (s'.port n).waits = (s.port n).waits.filter fun u => !fits u)) ∧
  (∀ (s : State) n,
    let p := s.port n
    let late (w : RepairWait) : Bool := !w.due &&
      decide (p.bound (p.waits.any fun u => u.row == w.row && u.slot != w.slot) * (w.asked + 1) < (s.fcc - w.since).toNat)
    exec (.repairTimeout n) s = .next (s.modPort n fun p => { p with
      waits := (p.waits.filter fun w => !(late w && decide (2 ≤ w.asked))).map fun w => if late w then { w with due := true } else w })) ∧
  (∀ (p : Port), p.bound true = 3 * p.flight.toNat + if p.ind.onSpare = 7 then 36 else 84) ∧
  (∀ (s : State) n w, (s.port n).waits = [w] → w.due = false →
    let p := s.port n
    let bound := 3 * p.flight.toNat + (if p.ind.onSpare = 7 then 32 else 64)
    let late := bound * (w.asked + 1) < (s.fcc - w.since).toNat
    (¬ late → exec (.repairTimeout n) s = .next s) ∧
    (late → w.asked < 2 → exec (.repairTimeout n) s = .next (s.modPort n fun p => { p with waits := [{ w with due := true }] })) ∧
    (late → 2 ≤ w.asked → exec (.repairTimeout n) s = .next (s.modPort n fun p => { p with waits := [] }))) ∧
  (∀ (s : State) n out lane,
    let p := s.port n
    let d := p.dir out
    (p.carrying = false → exec (.ringNearWrap n out lane) s = .next s ∧ exec (.ringEndOfRange n out lane) s = .next s) ∧
    (p.carrying = true → (d.onSpare ≠ 7 ∨ d.retrain ≠ none) →
      exec (.ringNearWrap n out lane) s = .next (s.modPort n fun p => p.setDir out { d with near := d.near ||| BitVec.ofNat 8 (2 ^ lane.toNat) }) ∧
      ∃ s', exec (.ringEndOfRange n out lane) s = .next s' ∧ (s'.port n).phase = .retraining) ∧
    (p.carrying = true → d.onSpare = 7 → d.retrain = none →
      (∃ s', exec (.ringNearWrap n out lane) s = .next s' ∧ ((s'.port n).dir out).retrain = some (lane, s.fcc) ∧
        ((s'.port n).dir out).near = d.near &&& ~~~(BitVec.ofNat 8 (2 ^ lane.toNat)) ∧
        (s'.port n).phase = p.phase ∧ ∀ k, d.posOf lane = some k → (s'.port n).mop = p.mop ++ [(false, k, !out)]) ∧
      (∃ s', exec (.ringEndOfRange n out lane) s = .next s' ∧ ((s'.port n).dir out).retrain = some (lane, s.fcc) ∧
        (s'.port n).phase = p.phase ∧ ∀ k, d.posOf lane = some k → (s'.port n).mop = p.mop ++ [(false, k, !out)]))) ∧
  (∀ (s : State) n out,
    let p := s.port n
    let d := p.dir out
    (d.retrain = none → (∀ ok, exec (.laneRetrainComplete n out ok) s = .next s) ∧ exec (.laneRetrainRetry n out) s = .next s) ∧
    (∀ lane f, d.retrain = some (lane, f) →
      ((s.fcc - f).toNat < 1250000 → exec (.laneRetrainRetry n out) s = .next s) ∧
      (1250000 ≤ (s.fcc - f).toNat →
        exec (.laneRetrainRetry n out) s = .next (s.modPort n fun p => p.setDir out { d with retrain := some (lane, s.fcc) })) ∧
      (p.carrying = false → ∀ ok, exec (.laneRetrainComplete n out ok) s = .next s) ∧
      (p.carrying = true →
        exec (.laneRetrainComplete n out false) s = .next (s.modPort n fun p => p.setDir out { d with retrain := some (lane, s.fcc) }) ∧
        ∃ s', exec (.laneRetrainComplete n out true) s = .next s' ∧ ((s'.port n).dir out).retrain = none ∧
          (d.onSpare ≠ 7 → (s'.port n).mop = p.mop ++ [(true, d.onSpare, !out)]) ∧ (d.onSpare = 7 → (s'.port n).mop = p.mop)))) ∧
  (∀ (s : State) n out,
    ((s.port n).carrying = false → exec (.clockLaneLost n out) s = .next s) ∧
    ((s.port n).carrying = true →
      ∃ s', exec (.clockLaneLost n out) s = .next s' ∧ (s'.port n).phase = .retraining ∧ (s'.port n).out = [] ∧ (s'.port n).lostAt = s.fcc ∧
        ∀ f ∈ (s.port n).out, (s.ctx f.2.2.1).phase = .live → (s'.ctx f.2.2.1).phase = .killing ∧ (s'.ctx f.2.2.1).cause = 0xF1))
/-! ## Remote requests, the Bellows and the Ethernet endpoints (19_remote.md) -/

/-- R411-R418, R403: a remote request is accepted, departs, is served at its target, is answered, and is sent again or fails when it waits too long. -/
def Obligations.RemoteRequestsAct : Prop :=
  (∀ (s : State) r, s.req r = none →
    exec (.requestAccept r) s = .next s ∧ exec (.requestDepart r) s = .next s ∧ exec (.targetService r) s = .next s ∧
    exec (.remoteTimeout r) s = .next s ∧ exec (.waitLimitTimeout r) s = .next s ∧ exec (.heldRequestTimeout r) s = .next s ∧
    ∀ kind stat aux data, exec (.replyArrive r kind stat aux data) s = .next s) ∧
  (∀ (s : State) r q, s.req r = some q →
    (s.acceptable q = true → q.ofBuffer = false →
      ∃ s' tag, exec (.requestAccept r) s = .next s' ∧ s.freeTag q.sdie = some tag ∧
        s'.req r = some { q with phase := .queued, tag := tag, since := s.fcc }) ∧
    (s.acceptable q = false → exec (.requestAccept r) s = .next s)) ∧
  (∀ (s : State) q, s.acceptable q = true → q.phase = .held ∧ (∀ p ∈ (s.pair q.sdie q.pkg q.die).ports, s.carries p = true) ∧
    ∀ x ∈ s.remote.reqs, x.phase = .held → x.id < q.id → x.owner.strand = q.owner.strand → x.owner.strand = none) ∧
  (∀ (s : State) r q, s.req r = some q →
    let e := s.pair q.sdie q.pkg q.die
    let first := ∀ x ∈ s.remote.reqs, x.phase = .queued → x.samePair q = true →
      ¬ (x.since.toNat < q.since.toNat ∨ (x.since = q.since ∧ x.id < q.id))
    let slot := e.smask.getLsbD (s.fcc.toNat % 64) = true ∧ e.last.toNat < s.fcc.toNat
    let last := if q.kind = .aggregate then nextSlot e.smask s.fcc else s.fcc
    (q.phase = .queued → first → slot →
      ∃ s', exec (.requestDepart r) s = .next s' ∧ s'.req r = some { q with phase := .sent, departed := last } ∧
        (s'.pair q.sdie q.pkg q.die).last = last ∧
        s'.remote.outflits = s.remote.outflits ++ if q.pkg = s.pkg then [] else match e.ports with
          | [] => []
          | n :: _ => q.flits.map fun f => (n, 1, f.1, f.2)) ∧
    (¬ (q.phase = .queued ∧ first ∧ slot) → exec (.requestDepart r) s = .next s)) ∧
  (∀ (s : State) r q, s.req r = some q → (q.phase = .sent ∨ q.phase = .waiting) → q.reply = none →
    (∀ s1 rep, (q.kind.once = false ∨ q.pkg ≠ s.pkg) → s.serve q = .ok (s1, rep) →
      exec (.targetService r) s = .next ((s1.modReq r fun x => { x with reply := some rep }).meetServed q rep)) ∧
    (∀ e, q.pkg = s.pkg → q.kind.once = true → s.cached q = some e →
      exec (.targetService r) s = .next ((s.modReq r fun x => { x with reply := some e.reply }).keepReply q e.reply)) ∧
    (∀ s1 rep, q.pkg = s.pkg → q.kind.once = true → s.cached q = none → s.cacheRoom q.die.toNat = true → s.serve q = .ok (s1, rep) →
      exec (.targetService r) s = .next (((s1.modReq r fun x => { x with reply := some rep }).meetServed q rep).keepReply q rep)) ∧
    (s.cached q = none → (s.serve q = .hold ∨ (q.pkg = s.pkg ∧ q.kind.once = true ∧ s.cacheRoom q.die.toNat = false)) →
      exec (.targetService r) s = .next (s.waitFor q))) ∧
  (∀ (s : State) q rep,
    (rep.stat ≠ 0 ∨ q.spkg ≠ s.pkg → s.meetServed q rep = s) ∧
    (rep.stat = 0 → q.spkg = s.pkg →
      (q.kind = .load → q.fill = true → s.meetServed q rep = s.putCopy q.sdie (homeKey q.pkg q.die q.pa / 128) rep.data) ∧
      (q.kind = .store → s.meetServed q rep = s.patchCopy q.sdie (homeKey q.pkg q.die q.pa / 128) (q.pa % 128) q.len q.data.toNat) ∧
      (∀ a, q.kind = .atomic a → s.meetServed q rep = s.dropCopies q.sdie (· == homeKey q.pkg q.die q.pa / 128)))) ∧
  (∀ (s : State) q, q.cmp = false →
    let op : Option HomeOp := match q.kind with
      | .load => some (.read q.len)
      | .store => some (.write q.len q.data.toNat)
      | .atomic a => some (.atomic a)
      | .arm v => some (.arm v)
      | .post n b => some (.post n.toNat b.toNat)
      | .aggregate => none
    ∀ o, op = some o →
      (∀ s1 m, s.homeOp q.ctx q.pkg q.die q.pa o = .ok (s1, m) →
        s.serve q = .ok (s1, { stat := 0, aux := 0, data := BitVec.ofNat 1024 m })) ∧
      (s.homeOp q.ctx q.pkg q.die q.pa o = .hold → s.serve q = .hold) ∧
      (∀ c, s.homeOp q.ctx q.pkg q.die q.pa o = .refuse c →
        s.serve q = .ok (s, { stat := BitVec.ofNat 6 c, aux := 0, data := 0 }))) ∧
  (∀ (s : State) r q, s.req r = some q → (q.reply ≠ none ∨ ¬ (q.phase = .sent ∨ q.phase = .waiting)) →
    exec (.targetService r) s = .next s) ∧
  (∀ (s : State) r q kind stat aux data, s.req r = some q →
    (¬ (q.phase = .sent ∨ q.phase = .waiting) → exec (.replyArrive r kind stat aux data) s = .next s) ∧
    ((q.phase = .sent ∨ q.phase = .waiting) →
      (∀ rep, q.reply = some rep → exec (.replyArrive r kind stat aux data) s = .next (s.deliverReply q rep)) ∧
      (q.reply = none → kind = 12 → exec (.replyArrive r kind stat aux data) s = .next (s.modReq r fun x => x.wait s.fcc)) ∧
      (q.reply = none → kind ≠ 12 →
        exec (.replyArrive r kind stat aux data) s = .next (s.deliverReply q { stat := stat, aux := aux, data := data })))) ∧
  (∀ (s : State) r q, s.req r = some q →
    let limit := (s.pair q.sdie q.pkg q.die).bound + 64
    let expired := (q.phase = .sent ∨ q.phase = .waiting) ∧ q.owner ≠ .other ∧ limit ≤ (s.fcc - q.since).toNat
    (¬ expired → exec (.remoteTimeout r) s = .next s) ∧
    (expired → q.reiss < 3 → ∃ s', exec (.remoteTimeout r) s = .next s' ∧
      s'.req r = some { q with phase := .queued, reiss := q.reiss + 1, since := s.fcc }) ∧
    (expired → 3 ≤ q.reiss → (s.ctx q.ctx).phase = .live →
      ∃ s', exec (.remoteTimeout r) s = .next s' ∧ (s'.ctx q.ctx).phase = .killing ∧ (s'.ctx q.ctx).cause = 0x20)) ∧
  (∀ (s : State) r q, s.req r = some q →
    let total := q.waited + (s.fcc - q.since).toNat
    ((q.phase ≠ .waiting ∨ q.owner = .other ∨ total < 12500000) → exec (.waitLimitTimeout r) s = .next s) ∧
    (q.phase = .waiting → q.owner ≠ .other → 12500000 ≤ total → (s.ctx q.ctx).phase = .live →
      ∃ s', exec (.waitLimitTimeout r) s = .next s' ∧ (s'.ctx q.ctx).phase = .killing ∧ (s'.ctx q.ctx).cause = 0x20)) ∧
  (∀ (s : State) r q, s.req r = some q →
    let dead := ∃ p ∈ (s.pair q.sdie q.pkg q.die).ports, s.carries p = false ∧ 12500000 ≤ (s.fcc - q.since).toNat ∧
      12500000 ≤ (s.fcc - s.lostAt p).toNat
    (¬ (q.phase = .held ∧ dead) → exec (.heldRequestTimeout r) s = .next s) ∧
    (q.phase = .held → dead → q.ofBuffer = false →
      exec (.heldRequestTimeout r) s = .next (s.deliverReply q { stat := 0x21, aux := 0, data := 0 })) ∧
    (∀ d n, q.phase = .held → dead → q.owner = .buffer d n →
      exec (.heldRequestTimeout r) s = .next (s.aggStatus d n (BitVec.allOnes 16) (BitVec.ofNat 128 (packList 8 (List.replicate 16 0x21))))))

/-- R420-R424, R428-R430: the Bellows gathers elements into buffers, sends them and takes their status; the Ethernet endpoints take
descriptors, serve incoming accesses and complete their own. -/
def Obligations.BellowsAndEndpointsAct : Prop :=
  (∀ (s : State) d v, ∃ s', exec (.aggctlWrite d v) s = .next s' ∧
    (s'.bellows ⟨d.toNat, d.isLt⟩).age = min 4096 (max 64 (fld v.toNat 0 13)) ∧ ∀ e, e ≠ ⟨d.toNat, d.isLt⟩ → s'.bellows e = s.bellows e) ∧
  (∀ (s : State) (d : BitVec 2) k e,
    let i : Fin 4 := ⟨d.toNat, d.isLt⟩
    let b := s.bellows i
    b.waiting = [] → b.flush = [] → b.arriving = [(k, e)] → dieOf e.tile = i.val → (∀ n : Fin 64, b.bufs[n].phase = .free) →
    ∃ s', ∃ n : Fin 64, exec (.aggElementEnter d) s = .next s' ∧ (s'.bellows i).bufs = b.bufs.set n { phase := .open_, key := k, elems := [e], first := s.fcc } ∧
      (s'.bellows i).arriving = [] ∧ (s'.bellows i).waiting = []) ∧
  (∀ (b : Bellows) now k e (n : Fin 64), (b.find fun x => x.phase == .open_ && x.key == k && decide (x.elems.length < 16)) = some n →
    b.enter now k e = some { b with bufs := b.bufs.set n { b.bufs[n] with
      elems := b.bufs[n].elems ++ [e], phase := if 15 ≤ b.bufs[n].elems.length then .leaving else b.bufs[n].phase } }) ∧
  (∀ (s : State) (d : BitVec 2) (n : BitVec 6),
    let i : Fin 4 := ⟨d.toNat, d.isLt⟩
    let b := s.bellows i
    let x := b.bufs[n.toNat]
    (x.phase = .open_ → b.age ≤ (s.fcc - x.first).toNat →
      exec (.aggAgeExpiry d n) s = .next (s.setBellows i { b with bufs := b.bufs.set n.toNat { x with phase := .leaving } })) ∧
    ((x.phase ≠ .open_ ∨ (s.fcc - x.first).toNat < b.age) → exec (.aggAgeExpiry d n) s = .next s) ∧
    (x.phase ≠ .leaving → exec (.aggPacketAccept d n) s = .next s) ∧
    (∀ q, x.phase = .leaving → s.bufReq d n = some q → s.acceptable q = true →
      ∃ s', exec (.aggPacketAccept d n) s = .next s' ∧ ((s'.bellows i).bufs[n.toNat]).phase = .sent ∧
        (∀ y ∈ s'.remote.reqs, y.id = q.id → y.phase = .queued) ∧
        ∀ t, dieOf t = d.toNat → (s.tile t).st.aggWait = some n → (s'.tile t).st.aggWait = none) ∧
    (x.phase = .leaving → s.bufReq d n = none →
      ∃ s', exec (.aggPacketAccept d n) s = .next s' ∧ (s'.bufReq d n).isSome = true) ∧
    (∀ failed causes, x.phase ≠ .sent → exec (.aggStatusArrive d n failed causes) s = .next s) ∧
    (∀ failed causes r s1, x.phase = .sent → ((s.bufReq d n).bind fun q => q.reply) = some r →
      s.aggFailed x.key x.elems r.aux (r.data.setWidth 128) = some s1 →
      ∃ s', exec (.aggStatusArrive d n failed causes) s = .next s' ∧ ((s'.bellows i).bufs[n.toNat]).phase = .free ∧
        ((s'.bellows i).bufs[n.toNat]).elems = [] ∧ s'.remote.rfl = s1.remote.rfl) ∧
    (∀ failed causes s1, x.phase = .sent → ((s.bufReq d n).bind fun q => q.reply) = none → s.aggFailed x.key x.elems failed causes = some s1 →
      ∃ s', exec (.aggStatusArrive d n failed causes) s = .next s' ∧ ((s'.bellows i).bufs[n.toNat]).phase = .free ∧
        ((s'.bellows i).bufs[n.toNat]).elems = [] ∧ s'.remote.rfl = s1.remote.rfl) ∧
    (∀ causes, x.phase = .sent → ((s.bufReq d n).bind fun q => q.reply) = none →
      ∃ s', exec (.aggStatusArrive d n 0 causes) s = .next s' ∧ ((s'.bellows i).bufs[n.toNat]).phase = .free ∧
        ((s'.bellows i).bufs[n.toNat]).elems = [])) ∧
  (∀ (s : State) c r body i w sa sb s1 s2 m n,
    let x := s.workRing c r
    (x.phase = .active ∨ x.phase = .draining → (s.remote.rmas.filter fun m => m.ctx == c).length < 4096 → s.indices x = .ok sa (i, w) →
      i ≠ w → sa.hRead c (x.slotAt i) 64 = .ok sb body → fld body 7 1 = 1 → sb.hWrite c (x.slotAt i) 8 0 = .ok s1 m →
      s1.hWrite c (x.qcb + 8) 8 ((i + 1) % 2 ^ 64) = .ok s2 n →
      let d := BitVec.ofNat 512 body
      let t := s2.putRing c r { x with progIdx := BitVec.ofNat 32 i, prompted := false }
      exec (.ueWorkDescriptor c r) s =
        .next (if x.phase = .draining then t.signalStore none c (pktSig d) (errorValue 0x80) else t.startDesc c r d)) ∧
    (x.phase ≠ .active → x.phase ≠ .draining → exec (.ueWorkDescriptor c r) s = .next s)) ∧
  (∀ (s : State) c r d,
    (descBad d = true → s.startDesc c r d = s.signalStore none c (pktSig d) (errorValue 0x82)) ∧
    (∀ l, descBad d = false → (fld d.toNat 8 2 = 1 → s.rmaSpan c (pktWord d 1) (descLen d) .read = .ok () l) →
      ∃ m : Rma, (s.startDesc c r d).remote.rmas = s.remote.rmas ++ [m] ∧ m.ctx = c ∧ m.ring = r ∧ m.desc = d ∧ m.done = 0) ∧
    (∀ cause a, descBad d = false → fld d.toNat 8 2 = 1 → s.rmaSpan c (pktWord d 1) (descLen d) .read = .bad () cause a →
      s.startDesc c r d = s.signalStore none c (pktSig d) (errorValue cause))) ∧
  (∀ (s : State) c wr rkey off data,
    (Config.remoteKey c.toNat rkey.toNat = none → exec (.ueRmaPacket c wr rkey off data) s = .next s) ∧
    (∀ base len w, Config.remoteKey c.toNat rkey.toNat = some (base, len, w) →
      ((wr = false ∨ w = false ∨ len < off.toNat + data.length) → exec (.ueRmaPacket c wr rkey off data) s = .next s) ∧
      (∀ s1, wr = true → w = true → off.toNat + data.length ≤ len → s.rmaPlace c (base + off) data = .ok s1 →
        exec (.ueRmaPacket c wr rkey off data) s = .next s1) ∧
      (wr = true → w = true → off.toNat + data.length ≤ len → s.rmaPlace c (base + off) data = .hold →
        exec (.ueRmaPacket c wr rkey off data) s = .next s))) ∧
  (∀ (s : State) m kind cause data, (s.remote.rmas.find? fun x => x.id == m) = none →
    exec (.ueResponsePacket m kind cause data) s = .next s) ∧
  (∀ (s : State) m x cause data, (s.remote.rmas.find? fun x => x.id == m) = some x →
    let sig := pktSig x.desc
    exec (.ueResponsePacket m 1 cause data) s = .next ((s.endRma x).signalStore none x.ctx sig (errorValue cause.toNat)) ∧
    (fld x.desc.toNat 8 2 = 1 → s.signalHeld x.ctx sig = false →
      exec (.ueResponsePacket m 0 cause data) s = .next ((s.endRma x).signalDone none x.ctx sig)) ∧
    (∀ s1, fld x.desc.toNat 8 2 = 2 → s.signalHeld x.ctx sig = false → x.done + data.length = descLen x.desc →
      s.rmaPlace x.ctx (pktWord x.desc 1 + BitVec.ofNat 64 x.done) data = .ok s1 →
      exec (.ueResponsePacket m 2 cause data) s = .next ((s1.endRma x).signalDone none x.ctx sig)) ∧
    (∀ s1, fld x.desc.toNat 8 2 = 2 → s.signalHeld x.ctx sig = false → x.done + data.length < descLen x.desc →
      s.rmaPlace x.ctx (pktWord x.desc 1 + BitVec.ofNat 64 x.done) data = .ok s1 →
      exec (.ueResponsePacket m 2 cause data) s = .next { s1 with remote := { s1.remote with
        rmas := s1.remote.rmas.map fun y => if y.id == m then { y with done := y.done + data.length } else y } }) ∧
    (∀ s1 e a, fld x.desc.toNat 8 2 = 2 → s.signalHeld x.ctx sig = false → x.done + data.length ≤ descLen x.desc →
      s.rmaPlace x.ctx (pktWord x.desc 1 + BitVec.ofNat 64 x.done) data = .refuse s1 e a →
      exec (.ueResponsePacket m 2 cause data) s = .next ((s1.endRma x).signalStore none x.ctx sig (errorValue e)))) ∧
  (∀ (s : State) c eset ent (sent : W32) (ecn rtt : BitVec 16),
    let b := Config.entropySetBase eset.toNat
    exec (.entropyStatsUpdate c eset ent sent ecn rtt) s = .next (s.wrN 0 s.pkg (BitVec.ofNat 3 (b.1 % 5)) (b.2 / 4096 * 4096 + 16 * ent.toNat + 8) 8
      (sent.toNat + 2 ^ 32 * ecn.toNat + 2 ^ 48 * rtt.toNat)))
/-! ## The module and its registers (25_management.md, 00_scope.md, 10_order.md) -/

/-- R16-R20, R431-R434: the islands' points, supply and power, and the limit loop. -/
def Sys2Proof.Claims.IslandsAct : Prop :=
  (∀ (s : State) (i : BitVec 4),
    let x := s.island i.toFin
    (x.held = none → exec (.islandRatioChange i) s = .next s) ∧
    (∀ n, x.held = some n →
      (s.atRatioBoundary i.toFin = false → exec (.islandRatioChange i) s = .next s) ∧
      (s.atRatioBoundary i.toFin = true → ∃ s', exec (.islandRatioChange i) s = .next s' ∧ (s'.island i.toFin).ncur = n ∧
        (s'.island i.toFin).held = none ∧ ∀ j, j ≠ i.toFin → (s'.island j).ncur = (s.island j).ncur))) ∧
  (∀ (s : State) i, s.atRatioBoundary i = true ↔
    s.collectiveIn i = false ∧ ∀ t ∈ tilesOf i, (s.tile t).holdsLaunch = false ∨ s.bindsNow t = true) ∧
  (∀ (s : State) t, s.bindsNow t = true ↔ ∃ l, s.launchOf t = some l ∧ l.phase = .binding ∧ l.from_ = .packet ∧ l.since = s.fcc) ∧
  (∀ (s : State) i t, tileIsland i.val = true → islandOf t = i → (s.collective t = true ∨ ∃ u, t ∈ s.reached u) → s.collectiveIn i = true) ∧
  (∀ (s : State) (i : BitVec 4) (v : BitVec 8),
    let x := s.island i.toFin
    ((12 ≤ i.toNat ∨ v.toNat < 16 ∨ 40 < v.toNat) → exec (.nreqWrite i v) s = .next s) ∧
    (tileIsland i.toNat = true → 16 ≤ v.toNat → v.toNat ≤ 40 →
      let goal := min v.toNat (ratioLimit x.vset)
      (s.atRatioBoundary i.toFin = true →
        ∃ s', exec (.nreqWrite i v) s = .next s' ∧ (s'.island i.toFin).nreq = v.toNat ∧ (s'.island i.toFin).ncur = goal ∧
          (s'.island i.toFin).held = none) ∧
      (s.atRatioBoundary i.toFin = false → goal ≠ x.ncur →
        ∃ s', exec (.nreqWrite i v) s = .next s' ∧ (s'.island i.toFin).nreq = v.toNat ∧ (s'.island i.toFin).ncur = x.ncur ∧
          (s'.island i.toFin).held = some goal))) ∧
  (∀ (s : State) (i : BitVec 4) (v : BitVec 8),
    let x := s.island i.toFin
    (125 < v.toNat → exec (.vsetWrite i v) s = .next s) ∧
    (v.toNat ≤ 125 → x.vset ≤ v.toNat → ∃ s', exec (.vsetWrite i v) s = .next s' ∧ (s'.island i.toFin).vset = v.toNat ∧
      (s'.island i.toFin).vwant = none ∧ (s'.island i.toFin).ncur = x.ncur) ∧
    (v.toNat < x.vset → (∀ j, (s.island j).ncur ≤ ratioLimit v.toNat) → (∀ j, (s.island j).vwant = none) →
      v.toNat ≤ 125 → ∃ s', exec (.vsetWrite i v) s = .next s' ∧ (s'.island i.toFin).vset = v.toNat ∧ (s'.island i.toFin).vwant = none)) ∧
  (∀ v, ratioLimit v = min 40 (22 + v / 5)) ∧
  (∀ i : Fin 16,
    islandsBefore i = ([12, 13, 2, 5, 8, 11, 14, 15, 0, 1, 3, 4, 6, 7, 9, 10] : List (Fin 16)).takeWhile (· != i) ∧
    islandsBehind i = (([12, 13, 2, 5, 8, 11, 14, 15, 0, 1, 3, 4, 6, 7, 9, 10] : List (Fin 16)).dropWhile (· != i)).drop 1) ∧
  (∀ (s : State) (i : BitVec 4),
    let k := i.toFin
    let peer (j : Fin 16) : Prop := tileIsland j.val = true ∧ tileIsland k.val = true
    let up := s.manage.on = true ∧ (s.island k).powered = false ∧ ∀ j ∈ islandsBefore k, peer j ∨ (s.island j).powered = true
    let down := (s.island k).powered = true ∧ (∀ j ∈ islandsBehind k, peer j ∨ (s.island j).powered = false) ∧
      ∀ t ∈ tilesOf k, (s.tile t).phase = .idle
    (up → exec (.islandPowerUp i) s = .next (s.modIsland k fun x => { x with powered := true })) ∧
    (¬ up → exec (.islandPowerUp i) s = .next s) ∧
    (down → ∃ s', exec (.islandPowerDown i) s = .next s' ∧ (s'.island k).powered = false ∧
      (∀ t ∈ tilesOf k, s'.tile t = { (s.tile t) with phase := .off }) ∧ ∀ t, t ∉ tilesOf k → s'.tile t = s.tile t) ∧
    (¬ down → exec (.islandPowerDown i) s = .next s)) ∧
  (∀ (s : State) watts (hot : Vector Nat 4),
    ((∃ d : Fin 4, 115 ≤ hot[d]) → ∃ s', exec (.limitLoop watts hot) s = .next s' ∧ s'.manage.on = false ∧
      s'.manage.logSeq = s.manage.logSeq + 1) ∧
    ((∀ d : Fin 4, hot[d] < 105) → 2900 ≤ watts → watts < 3000 → ∃ s', exec (.limitLoop watts hot) s = .next s' ∧
      s'.manage.islands = s.manage.islands ∧ s'.tiles = s.tiles) ∧
    ((∀ j, tileIsland j.val = true → s.atRatioBoundary j = true ∧ (s.island j).held = none ∧ (s.island j).vwant = none) →
      ((∀ d : Fin 4, hot[d] < 115) → 3000 ≤ watts → ∃ s', exec (.limitLoop watts hot) s = .next s' ∧
        ∀ i, tileIsland i.val = true → (s.island i).powered = true → (s'.island i).ncur = max 16 ((s.island i).ncur - 1)) ∧
      ((∀ d : Fin 4, hot[d] < 105) → watts < 2900 → ∃ s', exec (.limitLoop watts hot) s = .next s' ∧
        ∀ i, tileIsland i.val = true → (s.island i).powered = true →
          (s'.island i).ncur = if (s.island i).ncur < min (s.island i).nreq (ratioLimit (s.island i).vset) then (s.island i).ncur + 1
            else (s.island i).ncur)))

/-- R18, R431, R435-R439: the module is powered on and off, and the mailbox carries out UPDATE, ATTEST and LOGREAD. -/
def Sys2Proof.Claims.ModuleCommandsAct : Prop :=
  (∀ (s : State), ∃ s', exec .modulePowerOff s = .next s' ∧ s'.manage.on = false ∧ s'.manage.log = s.manage.log ∧
    s'.manage.slots = s.manage.slots ∧ s'.manage.running = s.manage.running ∧ s'.manage.pending = s.manage.pending ∧
    s'.manage.failMarks = s.manage.failMarks ∧ s'.tiles = State.reset.tiles ∧ s'.store = State.reset.store ∧ s'.ctxs = State.reset.ctxs ∧
    ∀ n, (s'.port n).skipFast = (s.port n).skipFast ∧ (s'.port n).phase = .dark) ∧
  (∀ (s : State) fails, s.manage.on = true → exec (.modulePowerOn fails) s = .next s) ∧
  (∀ (s : State) fails, s.manage.on = false →
    ((∀ k, 1 ≤ k → k ≤ 9 → fails.getLsbD k = false) →
      ∃ s', exec (.modulePowerOn fails) s = .next s' ∧ s'.manage.on = true ∧ (∀ j, (s'.island j).powered = true) ∧
        s'.manage.running = s.manage.startSlot ∧ s'.manage.pending = none ∧ s'.manage.boots = s.manage.boots + 1) ∧
    (fails.getLsbD 1 = true →
      ∃ s', exec (.modulePowerOn fails) s = .next s' ∧ s'.manage.on = true ∧ (∀ j, (s'.island j).powered = true ↔ j = 12) ∧
        s'.manage.failMarks[1] = true ∧ s'.manage.pending = none ∧ s'.manage.logSeq = s.manage.logSeq + 1)) ∧
  (∀ (s : State),
    let m := s.manage
    let a := m.arg0
    let image := s.readDevice a m.arg1.toNat
    (m.cmd ≠ some 1 → exec .update s = .next s) ∧
    (m.cmd = some 1 → bufferOk a m.arg1.toNat = false → exec .update s = .next (s.endMailbox 1)) ∧
    (m.cmd = some 1 → bufferOk a m.arg1.toNat = true →
      ∃ s', exec .update s = .next s' ∧ s'.manage.cmd = none ∧ s'.manage.slots[(1 - m.running : Fin 2)].image = image ∧
        s'.manage.slots[m.running] = m.slots[m.running] ∧ s'.manage.running = m.running ∧
        (Config.signatureOk image = true → s'.manage.err = 0 ∧ s'.manage.pending = some (1 - m.running)) ∧
        (Config.signatureOk image = false → s'.manage.err = 2 ∧ s'.manage.pending = none)) ∧
    (m.cmd ≠ some 2 → exec .attest s = .next s) ∧
    (m.cmd = some 2 → bufferOk a 64 = false → exec .attest s = .next (s.endMailbox 1)) ∧
    (m.cmd = some 2 → bufferOk a 64 = true →
      let digest := Config.sha512 (s.attestMessage (s.readDevice a 32))
      exec .attest s = .next ((s.writeDevice a (toBytes 64 (Config.identitySign (toBytes 64 digest.toNat)).toNat)).endMailbox 0)) ∧
    (m.cmd ≠ some 3 → exec .logread s = .next s) ∧
    (m.cmd = some 3 →
      let bytes := (m.log.filter fun r => decide (m.arg1.toNat ≤ r.seq.toNat)).flatMap fun r =>
        toBytes 64 (Config.logBytes r.seq r.fcc (logKindCode r.kind) r.detail).toNat
      (bufferOk a bytes.length = true → exec .logread s = .next ((s.writeDevice a bytes).endMailbox 0)) ∧
      (bufferOk a bytes.length = false → exec .logread s = .next (s.endMailbox 1))))

/-- R16-R20, R431-R439: the islands' points, supply and power, the limit loop, the module's power, and the mailbox. -/
def Obligations.IslandsAndModule : Prop :=
  Claims.IslandsAct ∧ Claims.ModuleCommandsAct

/-- R10, R11, R254: a host's writes to device memory are performed in posted order, each line of one as R254 says, and a held one makes the
function's later ones wait; a register write is the step of its register, or is discarded; and what reads of registers and of device memory
return.  That a write held at one line waits as a whole is the model's choice (log entry 18). -/
def Obligations.HostAccessesAct : Prop :=
  (∀ (s : State) f addr (data : List Byte),
    let w : HostPost := .memory f addr data
    let waits : State := { s with posted := s.posted ++ [w] }
    (s.behind f = true → exec (.hostWrite f addr data) s = .next waits) ∧
    (s.behind f = false →
      (∀ s1, s.hostStore f addr data = some s1 → exec (.hostWrite f addr data) s = .next s1) ∧
      (s.hostStore f addr data = none → exec (.hostWrite f addr data) s = .next waits))) ∧
  (∀ (s : State) f, s.behind f = true ↔ ∃ w ∈ s.posted, w.fn = f) ∧
  (∀ (s : State) f addr (data : List Byte), data ≠ [] →
    (addr.toNat % 128 + data.length ≤ 128 → s.hostStore f addr data = s.hostPart f addr data) ∧
    (128 < addr.toNat % 128 + data.length → addr.toNat + data.length ≤ 2 ^ 64 →
      let n := 128 - addr.toNat % 128
      s.hostStore f addr data = (s.hostPart f addr (data.take n)).bind fun s1 => s1.hostStore f (addr + BitVec.ofNat 64 n) (data.drop n))) ∧
  (∀ (s : State) f addr (data : List Byte) p,
    let c : BitVec 6 := match f with | .virtual c => c | .physical => 0
    let op : HomeOp := .write data.length (ofBytes data)
    (s.hostPhys f addr = none → s.hostPart f addr data = some s) ∧
    (s.hostPhys f addr = some p → barrierPlace p = true → s.hostPart f addr data = some s) ∧
    (s.hostPhys f addr = some p → barrierPlace p = false →
      (s.canReach hubDie p data.length addr = .hold → s.hostPart f addr data = none) ∧
      (∀ x a, s.canReach hubDie p data.length addr = .bad () x a → s.hostPart f addr data = some s) ∧
      (s.canReach hubDie p data.length addr = .ok () () →
        (∀ s1 v, s.homeOp c p.pkg p.die p.pa.toNat op = .ok (s1, v) → s.hostPart f addr data = some s1) ∧
        (s.homeOp c p.pkg p.die p.pa.toNat op = .hold → s.hostPart f addr data = none) ∧
        (∀ o i, s.homeOp c p.pkg p.die p.pa.toNat op = .refuse 0x14 → s.rangeAt p.die.toNat p.pa.toNat = some (o, i) →
          s.hostPart f addr data = some (s.asyncRecord o 0x14 0 0 addr))))) ∧
  (∀ (s : State) w, s.posted = [w] →
    (∀ s1, ({ s with posted := [] } : State).hostPostNow w = some s1 → s.payPosted = s1) ∧
    (({ s with posted := [] } : State).hostPostNow w = none → s.payPosted = s)) ∧
  (∀ (s : State) f (off : BitVec 24) v, off.toNat < 0x400000 → s.behind f = true →
    exec (.registerWrite f off v) s = .next { s with posted := s.posted ++ [.page f off v] }) ∧
  (∀ (s : State) (q : BitVec 10) (v : W64),
    let page : BitVec 24 := BitVec.ofNat 24 (q.toNat * 4096)
    (∀ f, s.behind f = false → exec (.registerWrite f page v) s = exec (.notify f q) s) ∧
    (s.behind .physical = false →
      (fld v.toNat 0 3 = 1 → exec (.registerWrite .physical (page + 0x20) v) s = exec (.queueCreate q v) s) ∧
      (fld v.toNat 0 3 = 2 → exec (.registerWrite .physical (page + 0x20) v) s = exec (.queuePause q) s) ∧
      (fld v.toNat 0 3 = 3 → exec (.registerWrite .physical (page + 0x20) v) s = exec (.queueResume q) s) ∧
      (fld v.toNat 0 3 = 4 → exec (.registerWrite .physical (page + 0x20) v) s = exec (.queueDrain q) s) ∧
      (fld v.toNat 0 3 = 5 → exec (.registerWrite .physical (page + 0x20) v) s = exec (.queueReset q) s)) ∧
    (∀ c, s.behind (.virtual c) = false → exec (.registerWrite (.virtual c) (page + 0x20) v) s = .next s)) ∧
  (∀ (s : State) (q : BitVec 10) f,
    let page : BitVec 24 := BitVec.ofNat 24 (q.toNat * 4096)
    (s.hostRead f page = 0 ∧ s.hostRead f (page + 0x20) = 0) ∧
    ((s.queue q).reachable f = true → s.hostRead f (page + 0x18) = BitVec.ofNat 64 (s.queue q).status) ∧
    ((s.queue q).reachable f = false → ∀ off : BitVec 12, s.hostRead f (page + off.setWidth 24) = 0) ∧
    s.hostRead .physical (page + 0x28) = (s.queue q).ctxsel.setWidth 64) ∧
  (∀ (s : State) c,
    s.hostRead .physical 0x401000 = s.page.arg0 ∧ s.hostRead .physical 0x401008 = s.page.arg1 ∧ s.hostRead .physical 0x401010 = 0 ∧
    (s.hostRead .physical 0x401018).getLsbD 0 = s.page.run.isSome ∧ fld (s.hostRead .physical 0x401018).toNat 8 8 = s.page.err.toNat ∧
    s.hostRead (.virtual c) 0x401018 = 0 ∧ s.hostRead (.virtual c) 0x408018 = 0 ∧
    s.hostRead (.virtual c) 0x400018 = (s.ctx c).fqrp ∧ s.hostRead (.virtual c) 0x400020 = (s.ctx c).fqwp ∧
    fld (s.hostRead .physical 0x408018).toNat 0 8 = s.manage.err.toNat ∧ (s.hostRead .physical 0x408018).getLsbD 8 = s.manage.cmd.isSome) ∧
  (∀ (s : State) c addr n p, s.translate c addr .read false = .ok p → s.canReach hubDie p n addr = .ok () () →
    ∀ s1 v, s.homeOp c p.pkg p.die p.pa.toNat (.read n) = .ok (s1, v) → s.hostLoad (.virtual c) addr n = some (toBytes n v)) ∧
  (∀ (s : State) (v : W64),
    let c : BitVec 6 := v.extractLsb' 8 6
    let op := fld v.toNat 0 4
    (op = 1 → exec (.registerWrite .physical 0x401010 v) s = exec (.setroot c) s ∧
      exec (.registerWrite .physical 0x401818 v) s = exec (.ctxCreate c) s) ∧
    (op = 2 → exec (.registerWrite .physical 0x401010 v) s = exec (.shootdown c) s ∧
      exec (.registerWrite .physical 0x401818 v) s = exec (.ctxKill c) s) ∧
    (op = 3 → exec (.registerWrite .physical 0x401010 v) s = exec (.frameset c) s ∧
      exec (.registerWrite .physical 0x401818 v) s = exec (.ctxAck c) s) ∧
    (op = 4 → exec (.registerWrite .physical 0x401010 v) s = exec (.dirtysync c) s ∧
      exec (.registerWrite .physical 0x401818 v) s = exec (.ctxDestroy c) s) ∧
    (op = 5 → exec (.registerWrite .physical 0x401010 v) s = exec (.migcfg c) s)) ∧
  (∀ (s : State) c v,
    exec (.registerWrite (.virtual c) 0x400000 v) s = exec (.reply c v) s ∧
    exec (.registerWrite (.virtual c) 0x402100 v) s = exec (.spoolWrite c v) s ∧
    exec (.registerWrite (.virtual c) 0x401010 v) s = .next s ∧ exec (.registerWrite (.virtual c) 0x408000 v) s = .next s) ∧
  (∀ (s : State) v,
    (s.manage.cmd.isSome = true → exec (.registerWrite .physical 0x408000 v) s = .next s) ∧
    (s.manage.cmd = none → 1 ≤ fld v.toNat 0 4 → fld v.toNat 0 4 ≤ 3 →
      ∃ s', exec (.registerWrite .physical 0x408000 v) s = .next s' ∧ s'.manage.cmd = some (BitVec.ofNat 4 (fld v.toNat 0 4))) ∧
    exec (.registerWrite .physical 0x408008 v) s = .next { s with manage := { s.manage with arg0 := v } })
/-! ## Decoding, the step, reset and the invariant (04_lines.md, 02_tile.md) -/

namespace Sys2Proof.Claims
open Sys2Proof Sys2Proof.Machine

/-- The strand may issue in this TC: its tile runs and is not being saved, the strand has not issued yet, and neither a stop, a halt nor an
earlier instruction holds it (R23, R99). -/
def mayIssue (x : Tile) (k : Strand) : Prop :=
  (x.phase = .running ∨ x.phase = .trapped) ∧ x.preempt = false ∧ (x.str k).used = false ∧ x.heldBefore k = false ∧
    ((k = .control ∧ x.isSup = true) ∨ ((x.str k).stopped = false ∧ (x.str k).halted = false))

/-- The entry at the head of the strand's queue is the words of instruction `i`. -/
def headIs (x : Tile) (k : Strand) (i : Instr) : Prop :=
  ∃ e rest, x.queueOf k = e :: rest ∧ e.kind = .insn ∧ decodeWord k e.word e.exts e.misplaced = .ok i

/-- The state after an instruction has answered `t`: a strand that issued starts the watchdog's count anew, and the turn goes on. -/
def goesOn (t : State) (n : TileNo) (k : Strand) : State := (if ((t.tile n).str k).used = true then t.noteIssue n else t).advance

end Sys2Proof.Claims

open Sys2Proof Sys2Proof.Machine Sys2Proof.Claims Sys2Proof.Safety

/-- R90-R98: words of every strand decode to the instructions they stand for; a sanity statement. -/
def Obligations.WordsDecode : Prop :=
  decodeWord .control 0x00221900#32 [] false = .ok (.add 1 2 3 1 0) ∧
  decodeWord .control 0x30010000#32 [] false = .ok (.pnot 0 0) ∧
  decodeWord .control 0x20800345#32 [0x9#32] false = .ok (.li 4 0 0x345 [0x9]) ∧
  decodeWord .control 0xA0410001#32 [] false = .ok (.accept 2 1 0 0) ∧
  decodeWord .control 0xF0300020#32 [] false = .ok (.wait 3 2) ∧
  decodeWord .vector 0x00108300#32 [] false = .ok (.vadd 1 2 3 0 0) ∧
  decodeWord .vector 0x08108301#32 [] false = .ok (.vor 1 2 3 0 0) ∧
  decodeWord .control 0xF4500010#32 [] false = .ok (.sig 5 1) ∧
  decodeWord .load 0x1B88A003#32 [] false = .ok (.atr 3 1 1 0 1 3) ∧
  decodeWord .load 0x28C18001#32 [0x5#32] false = .ok (.laLi 3 1 [5]) ∧
  decodeWord .store 0x0093C001#32 [] false = .ok (.st 1 2 1 1) ∧
  decodeWord .store 0x1A990006#32 [] false = .ok (.rel 5 3 2 6) ∧
  decodeWord .matrix 0x081070C8#32 [] false = .ok (.mma 1 1 1 1 0 0 3 2) ∧
  decodeWord .transform 0x0471DB80#32 [] false = .ok (.fft 7 7 0 1 1 7) ∧
  decodeWord .send 0x0C20CC00#32 [] false = .ok (.rtree 2 3 3) ∧
  decodeWord .receive 0x04308C00#32 [] false = .ok (.recv 3 2 3) ∧
  decodeDirective 0x01001000#32 = some (.loop 0 1 1 0) ∧ decodeDirective 0x10000000#32 = some .nopl ∧
  (∀ k : Strand, decodeWord k 0xFFFFFFFF#32 [] false = .error .illegalInsn)

/-- R90-R99: decoding the words of a well-formed instruction, on a strand that executes it, gives the instruction back, with every operand at every
value that the encoding admits; and a directive's word gives its directive back. -/
def Obligations.DecodeInvertsEncode : Prop :=
  (∀ i k, i.wf = true → i.onStrand k = true → decodeWord k (encodeWord i) i.exts false = .ok i) ∧
  (∀ l src n c, (Instr.loop l src n c).wf = true → decodeDirective (encodeWord (.loop l src n c)) = some (.loop l src n c)) ∧
  decodeDirective (encodeWord .nopl) = some .nopl

/-- R90-R99: a word has one meaning: what decodes on a strand is well formed, belongs to that strand, and is encoded by exactly those words; a word with a
misplaced or surplus extension decodes to nothing (R76). -/
def Obligations.EncodeInvertsDecode : Prop :=
  (∀ k w x i, decodeWord k w x false = .ok i → i.wf = true ∧ i.onStrand k = true ∧ encodeWord i = w ∧ i.exts = x) ∧
  (∀ k w x i, decodeWord k w x true ≠ .ok i)

/-- R23, R34, R99, R343: a step runs the decoded instruction at the head of the queue of the strand whose turn it is: before the engines; behind
them where a semaphore, flag or ring may hold it, the control strand's with the additions that the vector strand's issue cycle of this TC brings;
and behind the matrix strand's start where it reaches memory.  A word that is no instruction raises ILLEGAL-INSN or ILLEGAL-EXT; fetch takes the
directive on its line; and a step of the agenda is the meaning of its row. -/
def Obligations.StepRunsTheDecodedInstruction : Prop :=
  (∀ (s : State) i,
    let k := s.strandHere
    s.agenda = [] → 1 ≤ s.turn.phase → s.turn.phase ≤ 8 → Machine.Instr.judged i = false → Machine.Instr.accesses k i = false →
    (k = .control → s.cur.atBoundary = false) → mayIssue s.cur k → headIs s.cur k i →
    ∃ t, exec i s = .next t ∧ step s = .next (goesOn t s.here k)) ∧
  (∀ (s : State) i,
    let k := s.strandHere
    s.agenda = [] → 10 ≤ s.turn.phase → s.turn.phase ≤ 17 → Machine.Instr.judged i = true → mayIssue s.cur k → headIs s.cur k i →
    (k ≠ .control → k ≠ .matrix → ∃ t, exec i s = .next t ∧ step s = .next (goesOn t s.here k)) ∧
    (k = .matrix → ∃ t u, exec i s = .next t ∧
      exec (.followOnStart s.here) (if ((t.tile s.here).str k).used = true then t.noteIssue s.here else t) = .next u ∧
      step s = .next u.advance) ∧
    (k = .control → s.cur.landSems = none → ∃ t, exec i s = .next t ∧ step s = .next (goesOn t s.here k)) ∧
    (∀ x, k = .control → s.cur.landSems = some x →
      ∃ s0 t, (s0 = s ∨ s0 = s.setTile s.here x) ∧ exec i s0 = .next t ∧ step s = .next (goesOn t s.here k))) ∧
  (∀ (s : State) i,
    let k := s.strandHere
    s.agenda = [] → 18 ≤ s.turn.phase → s.turn.phase ≤ 20 → Machine.Instr.accesses k i = true → mayIssue s.cur k → headIs s.cur k i →
    ∃ t, exec i s = .next t ∧ step s = .next (goesOn t s.here k)) ∧
  (∀ (s : State) e rest,
    let k := s.strandHere
    s.agenda = [] → 1 ≤ s.turn.phase → s.turn.phase ≤ 8 → (k = .control → s.cur.atBoundary = false) → mayIssue s.cur k →
    s.cur.queueOf k = e :: rest → e.kind = .insn →
    (decodeWord k e.word e.exts e.misplaced = .error .illegalInsn → step s = .next (s.fault s.here k { code := 0x01 }).advance) ∧
    (decodeWord k e.word e.exts e.misplaced = .error .illegalExt → step s = .next (s.fault s.here k { code := 0x02 }).advance)) ∧
  (∀ (s : State), s.agenda = [] → s.turn.phase = 22 → s.cur.isSup = false →
    (∀ l src n c, s.cur.nextDirective = some (.loop l src n c) →
      ∃ t, exec (.loop l src n c) s = .next t ∧ step s = .next t.advance) ∧
    (s.cur.nextDirective = some .nopl → ∃ t, exec .nopl s = .next t ∧ step s = .next t.advance) ∧
    (s.cur.nextDirective = none → ∃ t, exec (.fetchLine s.here) s = .next t ∧ step s = .next t.advance)) ∧
  (∃ f : Work → Instr, ∀ w rest (s : State), s.agenda = w :: rest → step s = exec (f w) { s with agenda := rest })

/-- Every step answers a next state: this model neither faults nor refuses anywhere (the model's own form: the specification gives every
instruction and event an effect). -/
def Obligations.EveryStepGoesOn : Prop := (∀ i s, ∃ t, exec i s = .next t) ∧ ∀ s, StepSafe s

/-- R50, R255, R276, R284, R363, R370, R372, R408, R409, R424, R437: what reset leaves, where the specification gives the value. -/
def Obligations.ResetHoldsTheValuesGiven : Prop :=
  let s := State.reset
  (∀ p : Fin 320, s.pods[p].mode = 0) ∧
  (∀ c, (s.ctx c).phase = .free ∧ (s.ctx c).migK = 12 ∧ (s.ctx c).migFreeze = 256 ∧ (s.ctx c).fqrp = 0 ∧ (s.ctx c).fqwp = 0 ∧
    (s.ctx c).fqlost = 0) ∧
  (∀ q, (s.queue q).phase = .dead ∧ (s.queue q).status = 0) ∧
  (s.page.arg0 = 0 ∧ s.page.arg1 = 0 ∧ s.page.run = none ∧ s.page.done = 0 ∧ s.page.err = 0) ∧
  (∀ c i, (s.snap c).range i = { en := false, err := false, die := 0, base := 0, sizem1 := 0, gens := [] } ∧ (s.snap c).budget = 0) ∧
  (∀ n, (s.port n).phase = .dark ∧ (s.port n).outd.map = 0xFAC688 ∧ (s.port n).ind.map = 0xFAC688 ∧ (s.port n).outd.onSpare = 7 ∧
    (s.port n).ind.onSpare = 7 ∧ (s.port n).full = false ∧ (s.port n).corr = 0 ∧ (s.port n).uncorr = 0 ∧
    (s.port n).laneErr = 0) ∧
  (∀ e : Fin 4, s.switches[e].busy = none ∧ s.switches[e].err = 0) ∧
  (∀ d, (s.bellows d).age = 512 ∧ (s.bellows d).packets = 0 ∧ (s.bellows d).evictions = 0) ∧
  (s.manage.cmd = none ∧ s.manage.err = 0 ∧ s.manage.arg0 = 0 ∧ s.manage.arg1 = 0) ∧
  s.manage.watchdogMs = 100

/-- Every memory of the machine after reset is in canonical form (the model's own form of memory, log entry 2). -/
def Obligations.ResetMemoryOk : Prop := MemoryOk State.reset

/-- Every step keeps the memories in canonical form (the model's own form of memory, log entry 2): device memory, the stamps, attributes,
chunk metadata and dirty bits of the homes, every tile's scratchpad and register space, and the tiles of saved launches. -/
def Obligations.StepKeepsMemoryOk : Prop := ∀ s t, MemoryOk s → step s = .next t → MemoryOk t
end

