-- ==== Sys2Proof/Laws/Memory.lean ====
section
/-!
SUPPORT. The laws of memory: a read after a write, and that every memory operation keeps the canonical form.
-/
namespace Sys2Proof.Machine
open Sys2Proof

/-! ## The canonical form -/

theorem Memory.wfFrom_mono {m : Memory} {lo lo' : Nat} (h : Memory.wfFrom lo m = true) (hl : lo' ≤ lo) :
    Memory.wfFrom lo' m = true := by
  cases m with
  | nil => rfl
  | cons c m =>
    simp only [Memory.wfFrom, Bool.and_eq_true, decide_eq_true_eq] at h ⊢
    exact ⟨⟨by omega, h.1.2⟩, h.2⟩

theorem Memory.wfFrom_cons {m : Memory} {lo x : Nat} {v : Byte} (hx : lo ≤ x) (h : Memory.wfFrom (x + 1) m = true) :
    Memory.wfFrom lo (Memory.cons x v m) = true := by
  unfold Memory.cons
  split
  · exact Memory.wfFrom_mono h (by omega)
  · simp only [Memory.wfFrom, Bool.and_eq_true, decide_eq_true_eq, bne_iff_ne, ne_eq]
    exact ⟨⟨hx, ‹_›⟩, h⟩

theorem Memory.wfFrom_write {m : Memory} {lo x : Nat} {v : Byte} (hx : lo ≤ x) (h : Memory.wfFrom lo m = true) :
    Memory.wfFrom lo (m.write x v) = true := by
  induction m generalizing lo with
  | nil => exact Memory.wfFrom_cons hx rfl
  | cons c m ih =>
    obtain ⟨a, b⟩ := c
    simp only [Memory.wfFrom, Bool.and_eq_true, decide_eq_true_eq, bne_iff_ne, ne_eq] at h
    unfold Memory.write
    split
    · apply Memory.wfFrom_cons hx
      simp only [Memory.wfFrom, Bool.and_eq_true, decide_eq_true_eq, bne_iff_ne, ne_eq]
      exact ⟨⟨by omega, h.1.2⟩, h.2⟩
    · split
      · subst_vars
        exact Memory.wfFrom_cons hx h.2
      · simp only [Memory.wfFrom, Bool.and_eq_true, decide_eq_true_eq, bne_iff_ne, ne_eq]
        exact ⟨⟨h.1.1, h.1.2⟩, ih (by omega) h.2⟩

/-- A write of a byte keeps the canonical form. -/
theorem Memory.wf_write {m : Memory} {x : Nat} {v : Byte} (h : m.wf = true) : (m.write x v).wf = true :=
  Memory.wfFrom_write (Nat.zero_le x) h

/-- A write of a number keeps the canonical form. -/
theorem Memory.wf_writeN {m : Memory} {a n v : Nat} (h : m.wf = true) : (m.writeN a n v).wf = true := by
  induction n generalizing m a v with
  | zero => exact h
  | succ n ih => exact ih (Memory.wf_write h)

/-- A write of a list of bytes keeps the canonical form. -/
theorem Memory.wf_writeList {m : Memory} {a : Nat} {l : List Byte} (h : m.wf = true) : (m.writeList a l).wf = true := by
  induction l generalizing m a with
  | nil => exact h
  | cons b l ih => exact ih (Memory.wf_write h)

/-- A write of a register-space row keeps the canonical form. -/
theorem Memory.wf_setRow {m : Memory} {r : Nat} {v : Vec} (h : m.wf = true) : (m.setRow r v).wf = true :=
  Memory.wf_writeN h

/-- Leaving cells out keeps the canonical form. -/
theorem Memory.wfFrom_filter {m : Memory} {lo : Nat} (f : Host.Cell → Bool) (h : Memory.wfFrom lo m = true) :
    Memory.wfFrom lo (m.filter f) = true := by
  induction m generalizing lo with
  | nil => rfl
  | cons c m ih =>
    simp only [Memory.wfFrom, Bool.and_eq_true, decide_eq_true_eq] at h
    rw [List.filter_cons]
    split
    · simp only [Memory.wfFrom, Bool.and_eq_true, decide_eq_true_eq]
      exact ⟨h.1, ih h.2⟩
    · exact Memory.wfFrom_mono (ih h.2) (by omega)

theorem Memory.wf_filter {m : Memory} (f : Host.Cell → Bool) (h : m.wf = true) : Memory.wf (m.filter f) = true :=
  Memory.wfFrom_filter f h

/-! ## Reading after writing -/

theorem Memory.read_below {m : Memory} {lo x : Nat} (h : Memory.wfFrom lo m = true) (hx : x < lo) : m.read x = 0 := by
  cases m with
  | nil => rfl
  | cons c m =>
    obtain ⟨a, b⟩ := c
    simp only [Memory.wfFrom, Bool.and_eq_true, decide_eq_true_eq] at h
    simp only [Memory.read]
    rw [if_pos (by omega)]

theorem Memory.read_cons {m : Memory} {x y : Nat} {v : Byte} (h : Memory.wfFrom (x + 1) m = true) :
    (Memory.cons x v m).read y = if y = x then v else m.read y := by
  unfold Memory.cons
  split
  · split
    · subst_vars; exact Memory.read_below h (by omega)
    · rfl
  · simp only [Memory.read]
    split
    · rw [if_neg (by omega), Memory.read_below h (by omega)]
    · rfl

theorem Memory.read_write_from {m : Memory} {lo x y : Nat} {v : Byte} (h : Memory.wfFrom lo m = true) :
    (m.write x v).read y = if y = x then v else m.read y := by
  induction m generalizing lo with
  | nil => exact Memory.read_cons rfl
  | cons c m ih =>
    obtain ⟨a, b⟩ := c
    simp only [Memory.wfFrom, Bool.and_eq_true, decide_eq_true_eq, bne_iff_ne, ne_eq] at h
    unfold Memory.write
    split
    · rw [Memory.read_cons]
      simp only [Memory.wfFrom, Bool.and_eq_true, decide_eq_true_eq, bne_iff_ne, ne_eq]
      exact ⟨⟨by omega, h.1.2⟩, h.2⟩
    · split
      · subst_vars
        rw [Memory.read_cons h.2]
        split
        · rfl
        · simp only [Memory.read]
          split
          · exact Memory.read_below h.2 (by omega)
          · rfl
      · simp only [Memory.read]
        rw [ih h.2]
        split
        · rw [if_neg (by omega)]
        · split
          · rw [if_neg (by omega)]
          · rfl

/-- A byte read after a byte was written. -/
theorem Memory.read_write {m : Memory} {x y : Nat} {v : Byte} (h : m.wf = true) :
    (m.write x v).read y = if y = x then v else m.read y :=
  Memory.read_write_from h

/-- The byte of a number written little-endian, and every other byte as before. -/
theorem Memory.read_writeN {m : Memory} {a n v y : Nat} (h : m.wf = true) :
    (m.writeN a n v).read y = if a ≤ y ∧ y < a + n then BitVec.ofNat 8 (v / 256 ^ (y - a)) else m.read y := by
  induction n generalizing m a v with
  | zero => rw [if_neg (by omega)]; rfl
  | succ n ih =>
    rw [Memory.writeN, ih (Memory.wf_write h), Memory.read_write h]
    by_cases hy : y = a
    · subst hy
      rw [if_neg (by omega), if_pos rfl, if_pos (by omega)]
      simp
    · by_cases hr : a + 1 ≤ y ∧ y < a + 1 + n
      · rw [if_pos hr, if_pos (by omega)]
        rw [Nat.div_div_eq_div_mul, ← Nat.pow_succ']
        congr 3
        omega
      · rw [if_neg hr, if_neg hy, if_neg (by omega)]

/-- A byte outside a written list of bytes is as before. -/
theorem Memory.read_writeList_other {m : Memory} {a y : Nat} {l : List Byte} (h : m.wf = true) (hy : y < a ∨ a + l.length ≤ y) :
    (m.writeList a l).read y = m.read y := by
  induction l generalizing m a with
  | nil => rfl
  | cons b l ih =>
    simp only [List.length_cons] at hy
    rw [Memory.writeList, ih (Memory.wf_write h) (by omega), Memory.read_write h, if_neg (by omega)]

/-- A number read where one was written: its low bytes. -/
theorem Memory.readN_writeN {m : Memory} {a n v : Nat} (h : m.wf = true) : (m.writeN a n v).readN a n = v % 256 ^ n := by
  suffices H : ∀ k w : Nat, ∀ m' : Memory, (∀ y, a + (n - k) ≤ y → y < a + n → m'.read y = BitVec.ofNat 8 (w / 256 ^ (y - (a + (n - k))))) →
      k ≤ n → m'.readN (a + (n - k)) k = w % 256 ^ k by
    have := H n v (m.writeN a n v) (fun y h1 h2 => by
      rw [Memory.read_writeN h, if_pos (by omega)]; simp) (Nat.le_refl n)
    simpa using this
  intro k
  induction k with
  | zero => intro w m' _ _; simp [Memory.readN, Nat.mod_one]
  | succ k ih =>
    intro w m' hm hk
    rw [Memory.readN]
    have e : a + (n - (k + 1)) + 1 = a + (n - k) := by omega
    rw [e, ih (w / 256) m' (fun y h1 h2 => by
      rw [hm y (by omega) h2, Nat.div_div_eq_div_mul, ← Nat.pow_succ']
      congr 3; omega) (by omega)]
    rw [hm _ (Nat.le_refl _) (by omega)]
    simp only [Nat.sub_self, Nat.pow_zero, Nat.div_one, BitVec.toNat_ofNat, Nat.reducePow]
    rw [Nat.pow_succ', Nat.mod_mul]

/-- A read of a number depends on its bytes alone. -/
theorem Memory.readN_congr {m m' : Memory} {a n : Nat} (h : ∀ y, a ≤ y → y < a + n → m'.read y = m.read y) :
    m'.readN a n = m.readN a n := by
  induction n generalizing a with
  | zero => rfl
  | succ n ih =>
    rw [Memory.readN, Memory.readN, h a (Nat.le_refl a) (by omega), ih fun y h1 h2 => h y (by omega) (by omega)]

theorem Memory.readN_lt (m : Memory) (a n : Nat) : m.readN a n < 256 ^ n := by
  induction n generalizing a with
  | zero => simp [Memory.readN]
  | succ n ih =>
    rw [Memory.readN, Nat.pow_succ']
    have := ih (a + 1)
    have := (m.read a).isLt
    omega

/-- A row read where one was written. -/
theorem Memory.row_setRow_same {m : Memory} {r : Nat} {v : Vec} (h : m.wf = true) : (m.setRow r v).row r = v := by
  apply BitVec.eq_of_toNat_eq
  rw [Memory.row, Memory.setRow, Memory.readN_writeN h, BitVec.toNat_ofNat]
  have : (256 : Nat) ^ 512 = 2 ^ 4096 := by rw [show (256 : Nat) = 2 ^ 8 from rfl, ← Nat.pow_mul]
  rw [this, Nat.mod_mod, Nat.mod_eq_of_lt v.isLt]

/-- Another row is as before. -/
theorem Memory.row_setRow_other {m : Memory} {r q : Nat} {v : Vec} (h : m.wf = true) (hq : q ≠ r) : (m.setRow r v).row q = m.row q := by
  unfold Memory.row Memory.setRow
  rw [Memory.readN_congr (m := m) fun y h1 h2 => by
    rw [Memory.read_writeN h, if_neg]
    rintro ⟨h3, h4⟩
    apply hq
    omega]

end Sys2Proof.Machine
end

