-- ==== Sys2Proof/Laws/State.lean ====
section
/-!
SUPPORT. One lemma for each field of the state under each named update, so that no proof unfolds a record update.
-/
namespace Sys2Proof.Machine
open Sys2Proof

/-! ## The machine's fields under the updates of Ops.lean -/

@[simp] theorem State.setTile_pods (s : State) (t : TileNo) (x : Tile) : (s.setTile t x).pods = s.pods := rfl
@[simp] theorem State.setTile_turn (s : State) (t : TileNo) (x : Tile) : (s.setTile t x).turn = s.turn := rfl
@[simp] theorem State.setTile_agenda (s : State) (t : TileNo) (x : Tile) : (s.setTile t x).agenda = s.agenda := rfl
@[simp] theorem State.setTile_drawn (s : State) (t : TileNo) (x : Tile) : (s.setTile t x).drawn = s.drawn := rfl
@[simp] theorem State.setTile_fcc (s : State) (t : TileNo) (x : Tile) : (s.setTile t x).fcc = s.fcc := rfl
@[simp] theorem State.setTile_pkg (s : State) (t : TileNo) (x : Tile) : (s.setTile t x).pkg = s.pkg := rfl
@[simp] theorem State.setTile_store (s : State) (t : TileNo) (x : Tile) : (s.setTile t x).store = s.store := rfl
@[simp] theorem State.setTile_ctxs (s : State) (t : TileNo) (x : Tile) : (s.setTile t x).ctxs = s.ctxs := rfl
@[simp] theorem State.setTile_ctxRegs (s : State) (t : TileNo) (x : Tile) : (s.setTile t x).ctxRegs = s.ctxRegs := rfl
@[simp] theorem State.setTile_events (s : State) (t : TileNo) (x : Tile) : (s.setTile t x).events = s.events := rfl
@[simp] theorem State.setTile_supCode (s : State) (t : TileNo) (x : Tile) : (s.setTile t x).supCode = s.supCode := rfl
@[simp] theorem State.setTile_fabric (s : State) (t : TileNo) (x : Tile) : (s.setTile t x).fabric = s.fabric := rfl
@[simp] theorem State.setTile_l2 (s : State) (t : TileNo) (x : Tile) : (s.setTile t x).l2 = s.l2 := rfl
@[simp] theorem State.setTile_queues (s : State) (t : TileNo) (x : Tile) : (s.setTile t x).queues = s.queues := rfl
@[simp] theorem State.setTile_launches (s : State) (t : TileNo) (x : Tile) : (s.setTile t x).launches = s.launches := rfl
@[simp] theorem State.setTile_nextLaunch (s : State) (t : TileNo) (x : Tile) : (s.setTile t x).nextLaunch = s.nextLaunch := rfl
@[simp] theorem State.setTile_served (s : State) (t : TileNo) (x : Tile) : (s.setTile t x).served = s.served := rfl
@[simp] theorem State.setTile_slots (s : State) (t : TileNo) (x : Tile) : (s.setTile t x).slots = s.slots := rfl
@[simp] theorem State.setTile_graphs (s : State) (t : TileNo) (x : Tile) : (s.setTile t x).graphs = s.graphs := rfl
@[simp] theorem State.setTile_snaps (s : State) (t : TileNo) (x : Tile) : (s.setTile t x).snaps = s.snaps := rfl
@[simp] theorem State.setTile_snapOps (s : State) (t : TileNo) (x : Tile) : (s.setTile t x).snapOps = s.snapOps := rfl
@[simp] theorem State.setTile_page (s : State) (t : TileNo) (x : Tile) : (s.setTile t x).page = s.page := rfl
@[simp] theorem State.setTile_msix (s : State) (t : TileNo) (x : Tile) : (s.setTile t x).msix = s.msix := rfl
@[simp] theorem State.setTile_ports (s : State) (t : TileNo) (x : Tile) : (s.setTile t x).ports = s.ports := rfl
@[simp] theorem State.setTile_switches (s : State) (t : TileNo) (x : Tile) : (s.setTile t x).switches = s.switches := rfl
@[simp] theorem State.setTile_remote (s : State) (t : TileNo) (x : Tile) : (s.setTile t x).remote = s.remote := rfl
@[simp] theorem State.setTile_manage (s : State) (t : TileNo) (x : Tile) : (s.setTile t x).manage = s.manage := rfl
@[simp] theorem State.setTile_owed (s : State) (t : TileNo) (x : Tile) : (s.setTile t x).owed = s.owed := rfl
@[simp] theorem State.setTile_posted (s : State) (t : TileNo) (x : Tile) : (s.setTile t x).posted = s.posted := rfl
@[simp] theorem State.setTile_claimed (s : State) (t : TileNo) (x : Tile) : (s.setTile t x).claimed = s.claimed := rfl

@[simp] theorem State.modTile_pods (s : State) (t : TileNo) (f : Tile → Tile) : (s.modTile t f).pods = s.pods := rfl
@[simp] theorem State.modTile_turn (s : State) (t : TileNo) (f : Tile → Tile) : (s.modTile t f).turn = s.turn := rfl
@[simp] theorem State.modTile_agenda (s : State) (t : TileNo) (f : Tile → Tile) : (s.modTile t f).agenda = s.agenda := rfl
@[simp] theorem State.modTile_drawn (s : State) (t : TileNo) (f : Tile → Tile) : (s.modTile t f).drawn = s.drawn := rfl
@[simp] theorem State.modTile_fcc (s : State) (t : TileNo) (f : Tile → Tile) : (s.modTile t f).fcc = s.fcc := rfl
@[simp] theorem State.modTile_pkg (s : State) (t : TileNo) (f : Tile → Tile) : (s.modTile t f).pkg = s.pkg := rfl
@[simp] theorem State.modTile_store (s : State) (t : TileNo) (f : Tile → Tile) : (s.modTile t f).store = s.store := rfl
@[simp] theorem State.modTile_ctxs (s : State) (t : TileNo) (f : Tile → Tile) : (s.modTile t f).ctxs = s.ctxs := rfl
@[simp] theorem State.modTile_ctxRegs (s : State) (t : TileNo) (f : Tile → Tile) : (s.modTile t f).ctxRegs = s.ctxRegs := rfl
@[simp] theorem State.modTile_events (s : State) (t : TileNo) (f : Tile → Tile) : (s.modTile t f).events = s.events := rfl
@[simp] theorem State.modTile_supCode (s : State) (t : TileNo) (f : Tile → Tile) : (s.modTile t f).supCode = s.supCode := rfl
@[simp] theorem State.modTile_fabric (s : State) (t : TileNo) (f : Tile → Tile) : (s.modTile t f).fabric = s.fabric := rfl
@[simp] theorem State.modTile_l2 (s : State) (t : TileNo) (f : Tile → Tile) : (s.modTile t f).l2 = s.l2 := rfl
@[simp] theorem State.modTile_queues (s : State) (t : TileNo) (f : Tile → Tile) : (s.modTile t f).queues = s.queues := rfl
@[simp] theorem State.modTile_launches (s : State) (t : TileNo) (f : Tile → Tile) : (s.modTile t f).launches = s.launches := rfl
@[simp] theorem State.modTile_nextLaunch (s : State) (t : TileNo) (f : Tile → Tile) : (s.modTile t f).nextLaunch = s.nextLaunch := rfl
@[simp] theorem State.modTile_served (s : State) (t : TileNo) (f : Tile → Tile) : (s.modTile t f).served = s.served := rfl
@[simp] theorem State.modTile_slots (s : State) (t : TileNo) (f : Tile → Tile) : (s.modTile t f).slots = s.slots := rfl
@[simp] theorem State.modTile_graphs (s : State) (t : TileNo) (f : Tile → Tile) : (s.modTile t f).graphs = s.graphs := rfl
@[simp] theorem State.modTile_snaps (s : State) (t : TileNo) (f : Tile → Tile) : (s.modTile t f).snaps = s.snaps := rfl
@[simp] theorem State.modTile_snapOps (s : State) (t : TileNo) (f : Tile → Tile) : (s.modTile t f).snapOps = s.snapOps := rfl
@[simp] theorem State.modTile_page (s : State) (t : TileNo) (f : Tile → Tile) : (s.modTile t f).page = s.page := rfl
@[simp] theorem State.modTile_msix (s : State) (t : TileNo) (f : Tile → Tile) : (s.modTile t f).msix = s.msix := rfl
@[simp] theorem State.modTile_ports (s : State) (t : TileNo) (f : Tile → Tile) : (s.modTile t f).ports = s.ports := rfl
@[simp] theorem State.modTile_switches (s : State) (t : TileNo) (f : Tile → Tile) : (s.modTile t f).switches = s.switches := rfl
@[simp] theorem State.modTile_remote (s : State) (t : TileNo) (f : Tile → Tile) : (s.modTile t f).remote = s.remote := rfl
@[simp] theorem State.modTile_manage (s : State) (t : TileNo) (f : Tile → Tile) : (s.modTile t f).manage = s.manage := rfl
@[simp] theorem State.modTile_owed (s : State) (t : TileNo) (f : Tile → Tile) : (s.modTile t f).owed = s.owed := rfl
@[simp] theorem State.modTile_posted (s : State) (t : TileNo) (f : Tile → Tile) : (s.modTile t f).posted = s.posted := rfl
@[simp] theorem State.modTile_claimed (s : State) (t : TileNo) (f : Tile → Tile) : (s.modTile t f).claimed = s.claimed := rfl

@[simp] theorem State.mapTiles_pods (s : State) (f : TileNo → Tile → Tile) : (s.mapTiles f).pods = s.pods := by simp only [State.mapTiles]
@[simp] theorem State.mapTiles_turn (s : State) (f : TileNo → Tile → Tile) : (s.mapTiles f).turn = s.turn := by simp only [State.mapTiles]
@[simp] theorem State.mapTiles_agenda (s : State) (f : TileNo → Tile → Tile) : (s.mapTiles f).agenda = s.agenda := by simp only [State.mapTiles]
@[simp] theorem State.mapTiles_drawn (s : State) (f : TileNo → Tile → Tile) : (s.mapTiles f).drawn = s.drawn := by simp only [State.mapTiles]
@[simp] theorem State.mapTiles_fcc (s : State) (f : TileNo → Tile → Tile) : (s.mapTiles f).fcc = s.fcc := by simp only [State.mapTiles]
@[simp] theorem State.mapTiles_pkg (s : State) (f : TileNo → Tile → Tile) : (s.mapTiles f).pkg = s.pkg := by simp only [State.mapTiles]
@[simp] theorem State.mapTiles_store (s : State) (f : TileNo → Tile → Tile) : (s.mapTiles f).store = s.store := by simp only [State.mapTiles]
@[simp] theorem State.mapTiles_ctxs (s : State) (f : TileNo → Tile → Tile) : (s.mapTiles f).ctxs = s.ctxs := by simp only [State.mapTiles]
@[simp] theorem State.mapTiles_ctxRegs (s : State) (f : TileNo → Tile → Tile) : (s.mapTiles f).ctxRegs = s.ctxRegs := by simp only [State.mapTiles]
@[simp] theorem State.mapTiles_events (s : State) (f : TileNo → Tile → Tile) : (s.mapTiles f).events = s.events := by simp only [State.mapTiles]
@[simp] theorem State.mapTiles_supCode (s : State) (f : TileNo → Tile → Tile) : (s.mapTiles f).supCode = s.supCode := by simp only [State.mapTiles]
@[simp] theorem State.mapTiles_fabric (s : State) (f : TileNo → Tile → Tile) : (s.mapTiles f).fabric = s.fabric := by simp only [State.mapTiles]
@[simp] theorem State.mapTiles_l2 (s : State) (f : TileNo → Tile → Tile) : (s.mapTiles f).l2 = s.l2 := by simp only [State.mapTiles]
@[simp] theorem State.mapTiles_queues (s : State) (f : TileNo → Tile → Tile) : (s.mapTiles f).queues = s.queues := by simp only [State.mapTiles]
@[simp] theorem State.mapTiles_launches (s : State) (f : TileNo → Tile → Tile) : (s.mapTiles f).launches = s.launches := by simp only [State.mapTiles]
@[simp] theorem State.mapTiles_nextLaunch (s : State) (f : TileNo → Tile → Tile) : (s.mapTiles f).nextLaunch = s.nextLaunch := by simp only [State.mapTiles]
@[simp] theorem State.mapTiles_served (s : State) (f : TileNo → Tile → Tile) : (s.mapTiles f).served = s.served := by simp only [State.mapTiles]
@[simp] theorem State.mapTiles_slots (s : State) (f : TileNo → Tile → Tile) : (s.mapTiles f).slots = s.slots := by simp only [State.mapTiles]
@[simp] theorem State.mapTiles_graphs (s : State) (f : TileNo → Tile → Tile) : (s.mapTiles f).graphs = s.graphs := by simp only [State.mapTiles]
@[simp] theorem State.mapTiles_snaps (s : State) (f : TileNo → Tile → Tile) : (s.mapTiles f).snaps = s.snaps := by simp only [State.mapTiles]
@[simp] theorem State.mapTiles_snapOps (s : State) (f : TileNo → Tile → Tile) : (s.mapTiles f).snapOps = s.snapOps := by simp only [State.mapTiles]
@[simp] theorem State.mapTiles_page (s : State) (f : TileNo → Tile → Tile) : (s.mapTiles f).page = s.page := by simp only [State.mapTiles]
@[simp] theorem State.mapTiles_msix (s : State) (f : TileNo → Tile → Tile) : (s.mapTiles f).msix = s.msix := by simp only [State.mapTiles]
@[simp] theorem State.mapTiles_ports (s : State) (f : TileNo → Tile → Tile) : (s.mapTiles f).ports = s.ports := by simp only [State.mapTiles]
@[simp] theorem State.mapTiles_switches (s : State) (f : TileNo → Tile → Tile) : (s.mapTiles f).switches = s.switches := by simp only [State.mapTiles]
@[simp] theorem State.mapTiles_remote (s : State) (f : TileNo → Tile → Tile) : (s.mapTiles f).remote = s.remote := by simp only [State.mapTiles]
@[simp] theorem State.mapTiles_manage (s : State) (f : TileNo → Tile → Tile) : (s.mapTiles f).manage = s.manage := by simp only [State.mapTiles]
@[simp] theorem State.mapTiles_owed (s : State) (f : TileNo → Tile → Tile) : (s.mapTiles f).owed = s.owed := by simp only [State.mapTiles]
@[simp] theorem State.mapTiles_posted (s : State) (f : TileNo → Tile → Tile) : (s.mapTiles f).posted = s.posted := by simp only [State.mapTiles]
@[simp] theorem State.mapTiles_claimed (s : State) (f : TileNo → Tile → Tile) : (s.mapTiles f).claimed = s.claimed := by simp only [State.mapTiles]

@[simp] theorem State.post_tiles (s : State) (l : List Work) : (s.post l).tiles = s.tiles := rfl
@[simp] theorem State.post_pods (s : State) (l : List Work) : (s.post l).pods = s.pods := rfl
@[simp] theorem State.post_turn (s : State) (l : List Work) : (s.post l).turn = s.turn := rfl
@[simp] theorem State.post_drawn (s : State) (l : List Work) : (s.post l).drawn = s.drawn := rfl
@[simp] theorem State.post_fcc (s : State) (l : List Work) : (s.post l).fcc = s.fcc := rfl
@[simp] theorem State.post_pkg (s : State) (l : List Work) : (s.post l).pkg = s.pkg := rfl
@[simp] theorem State.post_store (s : State) (l : List Work) : (s.post l).store = s.store := rfl
@[simp] theorem State.post_ctxs (s : State) (l : List Work) : (s.post l).ctxs = s.ctxs := rfl
@[simp] theorem State.post_ctxRegs (s : State) (l : List Work) : (s.post l).ctxRegs = s.ctxRegs := rfl
@[simp] theorem State.post_events (s : State) (l : List Work) : (s.post l).events = s.events := rfl
@[simp] theorem State.post_supCode (s : State) (l : List Work) : (s.post l).supCode = s.supCode := rfl
@[simp] theorem State.post_fabric (s : State) (l : List Work) : (s.post l).fabric = s.fabric := rfl
@[simp] theorem State.post_l2 (s : State) (l : List Work) : (s.post l).l2 = s.l2 := rfl
@[simp] theorem State.post_queues (s : State) (l : List Work) : (s.post l).queues = s.queues := rfl
@[simp] theorem State.post_launches (s : State) (l : List Work) : (s.post l).launches = s.launches := rfl
@[simp] theorem State.post_nextLaunch (s : State) (l : List Work) : (s.post l).nextLaunch = s.nextLaunch := rfl
@[simp] theorem State.post_served (s : State) (l : List Work) : (s.post l).served = s.served := rfl
@[simp] theorem State.post_slots (s : State) (l : List Work) : (s.post l).slots = s.slots := rfl
@[simp] theorem State.post_graphs (s : State) (l : List Work) : (s.post l).graphs = s.graphs := rfl
@[simp] theorem State.post_snaps (s : State) (l : List Work) : (s.post l).snaps = s.snaps := rfl
@[simp] theorem State.post_snapOps (s : State) (l : List Work) : (s.post l).snapOps = s.snapOps := rfl
@[simp] theorem State.post_page (s : State) (l : List Work) : (s.post l).page = s.page := rfl
@[simp] theorem State.post_msix (s : State) (l : List Work) : (s.post l).msix = s.msix := rfl
@[simp] theorem State.post_ports (s : State) (l : List Work) : (s.post l).ports = s.ports := rfl
@[simp] theorem State.post_switches (s : State) (l : List Work) : (s.post l).switches = s.switches := rfl
@[simp] theorem State.post_remote (s : State) (l : List Work) : (s.post l).remote = s.remote := rfl
@[simp] theorem State.post_manage (s : State) (l : List Work) : (s.post l).manage = s.manage := rfl
@[simp] theorem State.post_owed (s : State) (l : List Work) : (s.post l).owed = s.owed := rfl
@[simp] theorem State.post_posted (s : State) (l : List Work) : (s.post l).posted = s.posted := rfl
@[simp] theorem State.post_claimed (s : State) (l : List Work) : (s.post l).claimed = s.claimed := rfl

@[simp] theorem State.modCtx_tiles (s : State) (c : BitVec 6) (f : Context → Context) : (s.modCtx c f).tiles = s.tiles := rfl
@[simp] theorem State.modCtx_pods (s : State) (c : BitVec 6) (f : Context → Context) : (s.modCtx c f).pods = s.pods := rfl
@[simp] theorem State.modCtx_turn (s : State) (c : BitVec 6) (f : Context → Context) : (s.modCtx c f).turn = s.turn := rfl
@[simp] theorem State.modCtx_agenda (s : State) (c : BitVec 6) (f : Context → Context) : (s.modCtx c f).agenda = s.agenda := rfl
@[simp] theorem State.modCtx_drawn (s : State) (c : BitVec 6) (f : Context → Context) : (s.modCtx c f).drawn = s.drawn := rfl
@[simp] theorem State.modCtx_fcc (s : State) (c : BitVec 6) (f : Context → Context) : (s.modCtx c f).fcc = s.fcc := rfl
@[simp] theorem State.modCtx_pkg (s : State) (c : BitVec 6) (f : Context → Context) : (s.modCtx c f).pkg = s.pkg := rfl
@[simp] theorem State.modCtx_store (s : State) (c : BitVec 6) (f : Context → Context) : (s.modCtx c f).store = s.store := rfl
@[simp] theorem State.modCtx_ctxRegs (s : State) (c : BitVec 6) (f : Context → Context) : (s.modCtx c f).ctxRegs = s.ctxRegs := rfl
@[simp] theorem State.modCtx_events (s : State) (c : BitVec 6) (f : Context → Context) : (s.modCtx c f).events = s.events := rfl
@[simp] theorem State.modCtx_supCode (s : State) (c : BitVec 6) (f : Context → Context) : (s.modCtx c f).supCode = s.supCode := rfl
@[simp] theorem State.modCtx_fabric (s : State) (c : BitVec 6) (f : Context → Context) : (s.modCtx c f).fabric = s.fabric := rfl
@[simp] theorem State.modCtx_l2 (s : State) (c : BitVec 6) (f : Context → Context) : (s.modCtx c f).l2 = s.l2 := rfl
@[simp] theorem State.modCtx_queues (s : State) (c : BitVec 6) (f : Context → Context) : (s.modCtx c f).queues = s.queues := rfl
@[simp] theorem State.modCtx_launches (s : State) (c : BitVec 6) (f : Context → Context) : (s.modCtx c f).launches = s.launches := rfl
@[simp] theorem State.modCtx_nextLaunch (s : State) (c : BitVec 6) (f : Context → Context) : (s.modCtx c f).nextLaunch = s.nextLaunch := rfl
@[simp] theorem State.modCtx_served (s : State) (c : BitVec 6) (f : Context → Context) : (s.modCtx c f).served = s.served := rfl
@[simp] theorem State.modCtx_slots (s : State) (c : BitVec 6) (f : Context → Context) : (s.modCtx c f).slots = s.slots := rfl
@[simp] theorem State.modCtx_graphs (s : State) (c : BitVec 6) (f : Context → Context) : (s.modCtx c f).graphs = s.graphs := rfl
@[simp] theorem State.modCtx_snaps (s : State) (c : BitVec 6) (f : Context → Context) : (s.modCtx c f).snaps = s.snaps := rfl
@[simp] theorem State.modCtx_snapOps (s : State) (c : BitVec 6) (f : Context → Context) : (s.modCtx c f).snapOps = s.snapOps := rfl
@[simp] theorem State.modCtx_page (s : State) (c : BitVec 6) (f : Context → Context) : (s.modCtx c f).page = s.page := rfl
@[simp] theorem State.modCtx_msix (s : State) (c : BitVec 6) (f : Context → Context) : (s.modCtx c f).msix = s.msix := rfl
@[simp] theorem State.modCtx_ports (s : State) (c : BitVec 6) (f : Context → Context) : (s.modCtx c f).ports = s.ports := rfl
@[simp] theorem State.modCtx_switches (s : State) (c : BitVec 6) (f : Context → Context) : (s.modCtx c f).switches = s.switches := rfl
@[simp] theorem State.modCtx_remote (s : State) (c : BitVec 6) (f : Context → Context) : (s.modCtx c f).remote = s.remote := rfl
@[simp] theorem State.modCtx_manage (s : State) (c : BitVec 6) (f : Context → Context) : (s.modCtx c f).manage = s.manage := rfl
@[simp] theorem State.modCtx_owed (s : State) (c : BitVec 6) (f : Context → Context) : (s.modCtx c f).owed = s.owed := rfl
@[simp] theorem State.modCtx_posted (s : State) (c : BitVec 6) (f : Context → Context) : (s.modCtx c f).posted = s.posted := rfl
@[simp] theorem State.modCtx_claimed (s : State) (c : BitVec 6) (f : Context → Context) : (s.modCtx c f).claimed = s.claimed := rfl

@[simp] theorem State.setPhase_tiles (s : State) (n : Nat) : (s.setPhase n).tiles = s.tiles := rfl
@[simp] theorem State.setPhase_pods (s : State) (n : Nat) : (s.setPhase n).pods = s.pods := rfl
@[simp] theorem State.setPhase_agenda (s : State) (n : Nat) : (s.setPhase n).agenda = s.agenda := rfl
@[simp] theorem State.setPhase_drawn (s : State) (n : Nat) : (s.setPhase n).drawn = s.drawn := rfl
@[simp] theorem State.setPhase_fcc (s : State) (n : Nat) : (s.setPhase n).fcc = s.fcc := rfl
@[simp] theorem State.setPhase_pkg (s : State) (n : Nat) : (s.setPhase n).pkg = s.pkg := rfl
@[simp] theorem State.setPhase_store (s : State) (n : Nat) : (s.setPhase n).store = s.store := rfl
@[simp] theorem State.setPhase_ctxs (s : State) (n : Nat) : (s.setPhase n).ctxs = s.ctxs := rfl
@[simp] theorem State.setPhase_ctxRegs (s : State) (n : Nat) : (s.setPhase n).ctxRegs = s.ctxRegs := rfl
@[simp] theorem State.setPhase_events (s : State) (n : Nat) : (s.setPhase n).events = s.events := rfl
@[simp] theorem State.setPhase_supCode (s : State) (n : Nat) : (s.setPhase n).supCode = s.supCode := rfl
@[simp] theorem State.setPhase_fabric (s : State) (n : Nat) : (s.setPhase n).fabric = s.fabric := rfl
@[simp] theorem State.setPhase_l2 (s : State) (n : Nat) : (s.setPhase n).l2 = s.l2 := rfl
@[simp] theorem State.setPhase_queues (s : State) (n : Nat) : (s.setPhase n).queues = s.queues := rfl
@[simp] theorem State.setPhase_launches (s : State) (n : Nat) : (s.setPhase n).launches = s.launches := rfl
@[simp] theorem State.setPhase_nextLaunch (s : State) (n : Nat) : (s.setPhase n).nextLaunch = s.nextLaunch := rfl
@[simp] theorem State.setPhase_served (s : State) (n : Nat) : (s.setPhase n).served = s.served := rfl
@[simp] theorem State.setPhase_slots (s : State) (n : Nat) : (s.setPhase n).slots = s.slots := rfl
@[simp] theorem State.setPhase_graphs (s : State) (n : Nat) : (s.setPhase n).graphs = s.graphs := rfl
@[simp] theorem State.setPhase_snaps (s : State) (n : Nat) : (s.setPhase n).snaps = s.snaps := rfl
@[simp] theorem State.setPhase_snapOps (s : State) (n : Nat) : (s.setPhase n).snapOps = s.snapOps := rfl
@[simp] theorem State.setPhase_page (s : State) (n : Nat) : (s.setPhase n).page = s.page := rfl
@[simp] theorem State.setPhase_msix (s : State) (n : Nat) : (s.setPhase n).msix = s.msix := rfl
@[simp] theorem State.setPhase_ports (s : State) (n : Nat) : (s.setPhase n).ports = s.ports := rfl
@[simp] theorem State.setPhase_switches (s : State) (n : Nat) : (s.setPhase n).switches = s.switches := rfl
@[simp] theorem State.setPhase_remote (s : State) (n : Nat) : (s.setPhase n).remote = s.remote := rfl
@[simp] theorem State.setPhase_manage (s : State) (n : Nat) : (s.setPhase n).manage = s.manage := rfl
@[simp] theorem State.setPhase_owed (s : State) (n : Nat) : (s.setPhase n).owed = s.owed := rfl
@[simp] theorem State.setPhase_posted (s : State) (n : Nat) : (s.setPhase n).posted = s.posted := rfl
@[simp] theorem State.setPhase_claimed (s : State) (n : Nat) : (s.setPhase n).claimed = s.claimed := rfl

/-! ## A tile's fields under the updates of Ops.lean -/

@[simp] theorem Tile.modStr_phase (t : Tile) (k : Strand) (f : StrandState → StrandState) : (t.modStr k f).phase = t.phase := rfl
@[simp] theorem Tile.modStr_ctx (t : Tile) (k : Strand) (f : StrandState → StrandState) : (t.modStr k f).ctx = t.ctx := rfl
@[simp] theorem Tile.modStr_launch (t : Tile) (k : Strand) (f : StrandState → StrandState) : (t.modStr k f).launch = t.launch := rfl
@[simp] theorem Tile.modStr_slot (t : Tile) (k : Strand) (f : StrandState → StrandState) : (t.modStr k f).slot = t.slot := rfl
@[simp] theorem Tile.modStr_tcc (t : Tile) (k : Strand) (f : StrandState → StrandState) : (t.modStr k f).tcc = t.tcc := rfl
@[simp] theorem Tile.modStr_credit (t : Tile) (k : Strand) (f : StrandState → StrandState) : (t.modStr k f).credit = t.credit := rfl
@[simp] theorem Tile.modStr_ctl (t : Tile) (k : Strand) (f : StrandState → StrandState) : (t.modStr k f).ctl = t.ctl := rfl
@[simp] theorem Tile.modStr_fifo (t : Tile) (k : Strand) (f : StrandState → StrandState) : (t.modStr k f).fifo = t.fifo := rfl
@[simp] theorem Tile.modStr_sync (t : Tile) (k : Strand) (f : StrandState → StrandState) : (t.modStr k f).sync = t.sync := rfl
@[simp] theorem Tile.modStr_fetch (t : Tile) (k : Strand) (f : StrandState → StrandState) : (t.modStr k f).fetch = t.fetch := rfl
@[simp] theorem Tile.modStr_sfetch (t : Tile) (k : Strand) (f : StrandState → StrandState) : (t.modStr k f).sfetch = t.sfetch := rfl
@[simp] theorem Tile.modStr_sys (t : Tile) (k : Strand) (f : StrandState → StrandState) : (t.modStr k f).sys = t.sys := rfl
@[simp] theorem Tile.modStr_trace (t : Tile) (k : Strand) (f : StrandState → StrandState) : (t.modStr k f).trace = t.trace := rfl
@[simp] theorem Tile.modStr_vec (t : Tile) (k : Strand) (f : StrandState → StrandState) : (t.modStr k f).vec = t.vec := rfl
@[simp] theorem Tile.modStr_ld (t : Tile) (k : Strand) (f : StrandState → StrandState) : (t.modStr k f).ld = t.ld := rfl
@[simp] theorem Tile.modStr_st (t : Tile) (k : Strand) (f : StrandState → StrandState) : (t.modStr k f).st = t.st := rfl
@[simp] theorem Tile.modStr_mx (t : Tile) (k : Strand) (f : StrandState → StrandState) : (t.modStr k f).mx = t.mx := rfl
@[simp] theorem Tile.modStr_xf (t : Tile) (k : Strand) (f : StrandState → StrandState) : (t.modStr k f).xf = t.xf := rfl
@[simp] theorem Tile.modStr_tx (t : Tile) (k : Strand) (f : StrandState → StrandState) : (t.modStr k f).tx = t.tx := rfl
@[simp] theorem Tile.modStr_rx (t : Tile) (k : Strand) (f : StrandState → StrandState) : (t.modStr k f).rx = t.rx := rfl
@[simp] theorem Tile.modStr_spad (t : Tile) (k : Strand) (f : StrandState → StrandState) : (t.modStr k f).spad = t.spad := rfl
@[simp] theorem Tile.modStr_spad0 (t : Tile) (k : Strand) (f : StrandState → StrandState) : (t.modStr k f).spad0 = t.spad0 := rfl
@[simp] theorem Tile.modStr_rsp (t : Tile) (k : Strand) (f : StrandState → StrandState) : (t.modStr k f).rsp = t.rsp := rfl
@[simp] theorem Tile.modStr_tlb (t : Tile) (k : Strand) (f : StrandState → StrandState) : (t.modStr k f).tlb = t.tlb := rfl
@[simp] theorem Tile.modStr_preempt (t : Tile) (k : Strand) (f : StrandState → StrandState) : (t.modStr k f).preempt = t.preempt := rfl
@[simp] theorem Tile.modStr_savedSup (t : Tile) (k : Strand) (f : StrandState → StrandState) : (t.modStr k f).savedSup = t.savedSup := rfl
@[simp] theorem Tile.modStr_attn (t : Tile) (k : Strand) (f : StrandState → StrandState) : (t.modStr k f).attn = t.attn := rfl
@[simp] theorem Tile.modStr_quiet (t : Tile) (k : Strand) (f : StrandState → StrandState) : (t.modStr k f).quiet = t.quiet := rfl

@[simp] theorem Tile.setRegs_phase (t : Tile) (r : Regs) : (t.setRegs r).phase = t.phase := rfl
@[simp] theorem Tile.setRegs_ctx (t : Tile) (r : Regs) : (t.setRegs r).ctx = t.ctx := rfl
@[simp] theorem Tile.setRegs_launch (t : Tile) (r : Regs) : (t.setRegs r).launch = t.launch := rfl
@[simp] theorem Tile.setRegs_slot (t : Tile) (r : Regs) : (t.setRegs r).slot = t.slot := rfl
@[simp] theorem Tile.setRegs_tcc (t : Tile) (r : Regs) : (t.setRegs r).tcc = t.tcc := rfl
@[simp] theorem Tile.setRegs_credit (t : Tile) (r : Regs) : (t.setRegs r).credit = t.credit := rfl
@[simp] theorem Tile.setRegs_strand (t : Tile) (r : Regs) : (t.setRegs r).strand = t.strand := rfl
@[simp] theorem Tile.setRegs_fifo (t : Tile) (r : Regs) : (t.setRegs r).fifo = t.fifo := rfl
@[simp] theorem Tile.setRegs_sync (t : Tile) (r : Regs) : (t.setRegs r).sync = t.sync := rfl
@[simp] theorem Tile.setRegs_fetch (t : Tile) (r : Regs) : (t.setRegs r).fetch = t.fetch := rfl
@[simp] theorem Tile.setRegs_sfetch (t : Tile) (r : Regs) : (t.setRegs r).sfetch = t.sfetch := rfl
@[simp] theorem Tile.setRegs_sys (t : Tile) (r : Regs) : (t.setRegs r).sys = t.sys := rfl
@[simp] theorem Tile.setRegs_trace (t : Tile) (r : Regs) : (t.setRegs r).trace = t.trace := rfl
@[simp] theorem Tile.setRegs_vec (t : Tile) (r : Regs) : (t.setRegs r).vec = t.vec := rfl
@[simp] theorem Tile.setRegs_ld (t : Tile) (r : Regs) : (t.setRegs r).ld = t.ld := rfl
@[simp] theorem Tile.setRegs_st (t : Tile) (r : Regs) : (t.setRegs r).st = t.st := rfl
@[simp] theorem Tile.setRegs_mx (t : Tile) (r : Regs) : (t.setRegs r).mx = t.mx := rfl
@[simp] theorem Tile.setRegs_xf (t : Tile) (r : Regs) : (t.setRegs r).xf = t.xf := rfl
@[simp] theorem Tile.setRegs_tx (t : Tile) (r : Regs) : (t.setRegs r).tx = t.tx := rfl
@[simp] theorem Tile.setRegs_rx (t : Tile) (r : Regs) : (t.setRegs r).rx = t.rx := rfl
@[simp] theorem Tile.setRegs_spad (t : Tile) (r : Regs) : (t.setRegs r).spad = t.spad := rfl
@[simp] theorem Tile.setRegs_spad0 (t : Tile) (r : Regs) : (t.setRegs r).spad0 = t.spad0 := rfl
@[simp] theorem Tile.setRegs_rsp (t : Tile) (r : Regs) : (t.setRegs r).rsp = t.rsp := rfl
@[simp] theorem Tile.setRegs_tlb (t : Tile) (r : Regs) : (t.setRegs r).tlb = t.tlb := rfl
@[simp] theorem Tile.setRegs_preempt (t : Tile) (r : Regs) : (t.setRegs r).preempt = t.preempt := rfl
@[simp] theorem Tile.setRegs_savedSup (t : Tile) (r : Regs) : (t.setRegs r).savedSup = t.savedSup := rfl
@[simp] theorem Tile.setRegs_attn (t : Tile) (r : Regs) : (t.setRegs r).attn = t.attn := rfl
@[simp] theorem Tile.setRegs_quiet (t : Tile) (r : Regs) : (t.setRegs r).quiet = t.quiet := rfl

@[simp] theorem Tile.setS_phase (t : Tile) (i : BitVec 5) (v : W64) : (t.setS i v).phase = t.phase := rfl
@[simp] theorem Tile.setS_ctx (t : Tile) (i : BitVec 5) (v : W64) : (t.setS i v).ctx = t.ctx := rfl
@[simp] theorem Tile.setS_launch (t : Tile) (i : BitVec 5) (v : W64) : (t.setS i v).launch = t.launch := rfl
@[simp] theorem Tile.setS_slot (t : Tile) (i : BitVec 5) (v : W64) : (t.setS i v).slot = t.slot := rfl
@[simp] theorem Tile.setS_tcc (t : Tile) (i : BitVec 5) (v : W64) : (t.setS i v).tcc = t.tcc := rfl
@[simp] theorem Tile.setS_credit (t : Tile) (i : BitVec 5) (v : W64) : (t.setS i v).credit = t.credit := rfl
@[simp] theorem Tile.setS_strand (t : Tile) (i : BitVec 5) (v : W64) : (t.setS i v).strand = t.strand := rfl
@[simp] theorem Tile.setS_fifo (t : Tile) (i : BitVec 5) (v : W64) : (t.setS i v).fifo = t.fifo := rfl
@[simp] theorem Tile.setS_sync (t : Tile) (i : BitVec 5) (v : W64) : (t.setS i v).sync = t.sync := rfl
@[simp] theorem Tile.setS_fetch (t : Tile) (i : BitVec 5) (v : W64) : (t.setS i v).fetch = t.fetch := rfl
@[simp] theorem Tile.setS_sfetch (t : Tile) (i : BitVec 5) (v : W64) : (t.setS i v).sfetch = t.sfetch := rfl
@[simp] theorem Tile.setS_sys (t : Tile) (i : BitVec 5) (v : W64) : (t.setS i v).sys = t.sys := rfl
@[simp] theorem Tile.setS_trace (t : Tile) (i : BitVec 5) (v : W64) : (t.setS i v).trace = t.trace := rfl
@[simp] theorem Tile.setS_vec (t : Tile) (i : BitVec 5) (v : W64) : (t.setS i v).vec = t.vec := rfl
@[simp] theorem Tile.setS_ld (t : Tile) (i : BitVec 5) (v : W64) : (t.setS i v).ld = t.ld := rfl
@[simp] theorem Tile.setS_st (t : Tile) (i : BitVec 5) (v : W64) : (t.setS i v).st = t.st := rfl
@[simp] theorem Tile.setS_mx (t : Tile) (i : BitVec 5) (v : W64) : (t.setS i v).mx = t.mx := rfl
@[simp] theorem Tile.setS_xf (t : Tile) (i : BitVec 5) (v : W64) : (t.setS i v).xf = t.xf := rfl
@[simp] theorem Tile.setS_tx (t : Tile) (i : BitVec 5) (v : W64) : (t.setS i v).tx = t.tx := rfl
@[simp] theorem Tile.setS_rx (t : Tile) (i : BitVec 5) (v : W64) : (t.setS i v).rx = t.rx := rfl
@[simp] theorem Tile.setS_spad (t : Tile) (i : BitVec 5) (v : W64) : (t.setS i v).spad = t.spad := rfl
@[simp] theorem Tile.setS_spad0 (t : Tile) (i : BitVec 5) (v : W64) : (t.setS i v).spad0 = t.spad0 := rfl
@[simp] theorem Tile.setS_rsp (t : Tile) (i : BitVec 5) (v : W64) : (t.setS i v).rsp = t.rsp := rfl
@[simp] theorem Tile.setS_tlb (t : Tile) (i : BitVec 5) (v : W64) : (t.setS i v).tlb = t.tlb := rfl
@[simp] theorem Tile.setS_preempt (t : Tile) (i : BitVec 5) (v : W64) : (t.setS i v).preempt = t.preempt := rfl
@[simp] theorem Tile.setS_savedSup (t : Tile) (i : BitVec 5) (v : W64) : (t.setS i v).savedSup = t.savedSup := rfl
@[simp] theorem Tile.setS_attn (t : Tile) (i : BitVec 5) (v : W64) : (t.setS i v).attn = t.attn := rfl
@[simp] theorem Tile.setS_quiet (t : Tile) (i : BitVec 5) (v : W64) : (t.setS i v).quiet = t.quiet := rfl

@[simp] theorem Tile.setP_phase (t : Tile) (i : BitVec 3) (v : Bool) : (t.setP i v).phase = t.phase := rfl
@[simp] theorem Tile.setP_ctx (t : Tile) (i : BitVec 3) (v : Bool) : (t.setP i v).ctx = t.ctx := rfl
@[simp] theorem Tile.setP_launch (t : Tile) (i : BitVec 3) (v : Bool) : (t.setP i v).launch = t.launch := rfl
@[simp] theorem Tile.setP_slot (t : Tile) (i : BitVec 3) (v : Bool) : (t.setP i v).slot = t.slot := rfl
@[simp] theorem Tile.setP_tcc (t : Tile) (i : BitVec 3) (v : Bool) : (t.setP i v).tcc = t.tcc := rfl
@[simp] theorem Tile.setP_credit (t : Tile) (i : BitVec 3) (v : Bool) : (t.setP i v).credit = t.credit := rfl
@[simp] theorem Tile.setP_strand (t : Tile) (i : BitVec 3) (v : Bool) : (t.setP i v).strand = t.strand := rfl
@[simp] theorem Tile.setP_fifo (t : Tile) (i : BitVec 3) (v : Bool) : (t.setP i v).fifo = t.fifo := rfl
@[simp] theorem Tile.setP_sync (t : Tile) (i : BitVec 3) (v : Bool) : (t.setP i v).sync = t.sync := rfl
@[simp] theorem Tile.setP_fetch (t : Tile) (i : BitVec 3) (v : Bool) : (t.setP i v).fetch = t.fetch := rfl
@[simp] theorem Tile.setP_sfetch (t : Tile) (i : BitVec 3) (v : Bool) : (t.setP i v).sfetch = t.sfetch := rfl
@[simp] theorem Tile.setP_sys (t : Tile) (i : BitVec 3) (v : Bool) : (t.setP i v).sys = t.sys := rfl
@[simp] theorem Tile.setP_trace (t : Tile) (i : BitVec 3) (v : Bool) : (t.setP i v).trace = t.trace := rfl
@[simp] theorem Tile.setP_vec (t : Tile) (i : BitVec 3) (v : Bool) : (t.setP i v).vec = t.vec := rfl
@[simp] theorem Tile.setP_ld (t : Tile) (i : BitVec 3) (v : Bool) : (t.setP i v).ld = t.ld := rfl
@[simp] theorem Tile.setP_st (t : Tile) (i : BitVec 3) (v : Bool) : (t.setP i v).st = t.st := rfl
@[simp] theorem Tile.setP_mx (t : Tile) (i : BitVec 3) (v : Bool) : (t.setP i v).mx = t.mx := rfl
@[simp] theorem Tile.setP_xf (t : Tile) (i : BitVec 3) (v : Bool) : (t.setP i v).xf = t.xf := rfl
@[simp] theorem Tile.setP_tx (t : Tile) (i : BitVec 3) (v : Bool) : (t.setP i v).tx = t.tx := rfl
@[simp] theorem Tile.setP_rx (t : Tile) (i : BitVec 3) (v : Bool) : (t.setP i v).rx = t.rx := rfl
@[simp] theorem Tile.setP_spad (t : Tile) (i : BitVec 3) (v : Bool) : (t.setP i v).spad = t.spad := rfl
@[simp] theorem Tile.setP_spad0 (t : Tile) (i : BitVec 3) (v : Bool) : (t.setP i v).spad0 = t.spad0 := rfl
@[simp] theorem Tile.setP_rsp (t : Tile) (i : BitVec 3) (v : Bool) : (t.setP i v).rsp = t.rsp := rfl
@[simp] theorem Tile.setP_tlb (t : Tile) (i : BitVec 3) (v : Bool) : (t.setP i v).tlb = t.tlb := rfl
@[simp] theorem Tile.setP_preempt (t : Tile) (i : BitVec 3) (v : Bool) : (t.setP i v).preempt = t.preempt := rfl
@[simp] theorem Tile.setP_savedSup (t : Tile) (i : BitVec 3) (v : Bool) : (t.setP i v).savedSup = t.savedSup := rfl
@[simp] theorem Tile.setP_attn (t : Tile) (i : BitVec 3) (v : Bool) : (t.setP i v).attn = t.attn := rfl
@[simp] theorem Tile.setP_quiet (t : Tile) (i : BitVec 3) (v : Bool) : (t.setP i v).quiet = t.quiet := rfl

@[simp] theorem Tile.setBank_phase (t : Tile) (b : Bank) : (t.setBank b).phase = t.phase := rfl
@[simp] theorem Tile.setBank_ctx (t : Tile) (b : Bank) : (t.setBank b).ctx = t.ctx := rfl
@[simp] theorem Tile.setBank_launch (t : Tile) (b : Bank) : (t.setBank b).launch = t.launch := rfl
@[simp] theorem Tile.setBank_slot (t : Tile) (b : Bank) : (t.setBank b).slot = t.slot := rfl
@[simp] theorem Tile.setBank_tcc (t : Tile) (b : Bank) : (t.setBank b).tcc = t.tcc := rfl
@[simp] theorem Tile.setBank_credit (t : Tile) (b : Bank) : (t.setBank b).credit = t.credit := rfl
@[simp] theorem Tile.setBank_strand (t : Tile) (b : Bank) : (t.setBank b).strand = t.strand := rfl
@[simp] theorem Tile.setBank_fifo (t : Tile) (b : Bank) : (t.setBank b).fifo = t.fifo := rfl
@[simp] theorem Tile.setBank_sync (t : Tile) (b : Bank) : (t.setBank b).sync = t.sync := rfl
@[simp] theorem Tile.setBank_fetch (t : Tile) (b : Bank) : (t.setBank b).fetch = t.fetch := rfl
@[simp] theorem Tile.setBank_sfetch (t : Tile) (b : Bank) : (t.setBank b).sfetch = t.sfetch := rfl
@[simp] theorem Tile.setBank_sys (t : Tile) (b : Bank) : (t.setBank b).sys = t.sys := rfl
@[simp] theorem Tile.setBank_trace (t : Tile) (b : Bank) : (t.setBank b).trace = t.trace := rfl
@[simp] theorem Tile.setBank_vec (t : Tile) (b : Bank) : (t.setBank b).vec = t.vec := rfl
@[simp] theorem Tile.setBank_ld (t : Tile) (b : Bank) : (t.setBank b).ld = t.ld := rfl
@[simp] theorem Tile.setBank_st (t : Tile) (b : Bank) : (t.setBank b).st = t.st := rfl
@[simp] theorem Tile.setBank_mx (t : Tile) (b : Bank) : (t.setBank b).mx = t.mx := rfl
@[simp] theorem Tile.setBank_xf (t : Tile) (b : Bank) : (t.setBank b).xf = t.xf := rfl
@[simp] theorem Tile.setBank_tx (t : Tile) (b : Bank) : (t.setBank b).tx = t.tx := rfl
@[simp] theorem Tile.setBank_rx (t : Tile) (b : Bank) : (t.setBank b).rx = t.rx := rfl
@[simp] theorem Tile.setBank_spad (t : Tile) (b : Bank) : (t.setBank b).spad = t.spad := rfl
@[simp] theorem Tile.setBank_spad0 (t : Tile) (b : Bank) : (t.setBank b).spad0 = t.spad0 := rfl
@[simp] theorem Tile.setBank_rsp (t : Tile) (b : Bank) : (t.setBank b).rsp = t.rsp := rfl
@[simp] theorem Tile.setBank_tlb (t : Tile) (b : Bank) : (t.setBank b).tlb = t.tlb := rfl
@[simp] theorem Tile.setBank_preempt (t : Tile) (b : Bank) : (t.setBank b).preempt = t.preempt := rfl
@[simp] theorem Tile.setBank_savedSup (t : Tile) (b : Bank) : (t.setBank b).savedSup = t.savedSup := rfl
@[simp] theorem Tile.setBank_attn (t : Tile) (b : Bank) : (t.setBank b).attn = t.attn := rfl
@[simp] theorem Tile.setBank_quiet (t : Tile) (b : Bank) : (t.setBank b).quiet = t.quiet := rfl

@[simp] theorem Tile.setFpsr_phase (t : Tile) (k : Strand) (v : BitVec 8) : (t.setFpsr k v).phase = t.phase := rfl
@[simp] theorem Tile.setFpsr_ctx (t : Tile) (k : Strand) (v : BitVec 8) : (t.setFpsr k v).ctx = t.ctx := rfl
@[simp] theorem Tile.setFpsr_launch (t : Tile) (k : Strand) (v : BitVec 8) : (t.setFpsr k v).launch = t.launch := rfl
@[simp] theorem Tile.setFpsr_slot (t : Tile) (k : Strand) (v : BitVec 8) : (t.setFpsr k v).slot = t.slot := rfl
@[simp] theorem Tile.setFpsr_tcc (t : Tile) (k : Strand) (v : BitVec 8) : (t.setFpsr k v).tcc = t.tcc := rfl
@[simp] theorem Tile.setFpsr_credit (t : Tile) (k : Strand) (v : BitVec 8) : (t.setFpsr k v).credit = t.credit := rfl
@[simp] theorem Tile.setFpsr_strand (t : Tile) (k : Strand) (v : BitVec 8) : (t.setFpsr k v).strand = t.strand := rfl
@[simp] theorem Tile.setFpsr_ctl (t : Tile) (k : Strand) (v : BitVec 8) : (t.setFpsr k v).ctl = t.ctl := rfl
@[simp] theorem Tile.setFpsr_fifo (t : Tile) (k : Strand) (v : BitVec 8) : (t.setFpsr k v).fifo = t.fifo := rfl
@[simp] theorem Tile.setFpsr_sync (t : Tile) (k : Strand) (v : BitVec 8) : (t.setFpsr k v).sync = t.sync := rfl
@[simp] theorem Tile.setFpsr_fetch (t : Tile) (k : Strand) (v : BitVec 8) : (t.setFpsr k v).fetch = t.fetch := rfl
@[simp] theorem Tile.setFpsr_sfetch (t : Tile) (k : Strand) (v : BitVec 8) : (t.setFpsr k v).sfetch = t.sfetch := rfl
@[simp] theorem Tile.setFpsr_trace (t : Tile) (k : Strand) (v : BitVec 8) : (t.setFpsr k v).trace = t.trace := rfl
@[simp] theorem Tile.setFpsr_vec (t : Tile) (k : Strand) (v : BitVec 8) : (t.setFpsr k v).vec = t.vec := rfl
@[simp] theorem Tile.setFpsr_ld (t : Tile) (k : Strand) (v : BitVec 8) : (t.setFpsr k v).ld = t.ld := rfl
@[simp] theorem Tile.setFpsr_st (t : Tile) (k : Strand) (v : BitVec 8) : (t.setFpsr k v).st = t.st := rfl
@[simp] theorem Tile.setFpsr_mx (t : Tile) (k : Strand) (v : BitVec 8) : (t.setFpsr k v).mx = t.mx := rfl
@[simp] theorem Tile.setFpsr_xf (t : Tile) (k : Strand) (v : BitVec 8) : (t.setFpsr k v).xf = t.xf := rfl
@[simp] theorem Tile.setFpsr_tx (t : Tile) (k : Strand) (v : BitVec 8) : (t.setFpsr k v).tx = t.tx := rfl
@[simp] theorem Tile.setFpsr_rx (t : Tile) (k : Strand) (v : BitVec 8) : (t.setFpsr k v).rx = t.rx := rfl
@[simp] theorem Tile.setFpsr_spad (t : Tile) (k : Strand) (v : BitVec 8) : (t.setFpsr k v).spad = t.spad := rfl
@[simp] theorem Tile.setFpsr_spad0 (t : Tile) (k : Strand) (v : BitVec 8) : (t.setFpsr k v).spad0 = t.spad0 := rfl
@[simp] theorem Tile.setFpsr_rsp (t : Tile) (k : Strand) (v : BitVec 8) : (t.setFpsr k v).rsp = t.rsp := rfl
@[simp] theorem Tile.setFpsr_tlb (t : Tile) (k : Strand) (v : BitVec 8) : (t.setFpsr k v).tlb = t.tlb := rfl
@[simp] theorem Tile.setFpsr_preempt (t : Tile) (k : Strand) (v : BitVec 8) : (t.setFpsr k v).preempt = t.preempt := rfl
@[simp] theorem Tile.setFpsr_savedSup (t : Tile) (k : Strand) (v : BitVec 8) : (t.setFpsr k v).savedSup = t.savedSup := rfl
@[simp] theorem Tile.setFpsr_attn (t : Tile) (k : Strand) (v : BitVec 8) : (t.setFpsr k v).attn = t.attn := rfl
@[simp] theorem Tile.setFpsr_quiet (t : Tile) (k : Strand) (v : BitVec 8) : (t.setFpsr k v).quiet = t.quiet := rfl

@[simp] theorem Tile.raiseFlags_phase (t : Tile) (k : Strand) (f : Num.Flags) : (t.raiseFlags k f).phase = t.phase := rfl
@[simp] theorem Tile.raiseFlags_ctx (t : Tile) (k : Strand) (f : Num.Flags) : (t.raiseFlags k f).ctx = t.ctx := rfl
@[simp] theorem Tile.raiseFlags_launch (t : Tile) (k : Strand) (f : Num.Flags) : (t.raiseFlags k f).launch = t.launch := rfl
@[simp] theorem Tile.raiseFlags_slot (t : Tile) (k : Strand) (f : Num.Flags) : (t.raiseFlags k f).slot = t.slot := rfl
@[simp] theorem Tile.raiseFlags_tcc (t : Tile) (k : Strand) (f : Num.Flags) : (t.raiseFlags k f).tcc = t.tcc := rfl
@[simp] theorem Tile.raiseFlags_credit (t : Tile) (k : Strand) (f : Num.Flags) : (t.raiseFlags k f).credit = t.credit := rfl
@[simp] theorem Tile.raiseFlags_strand (t : Tile) (k : Strand) (f : Num.Flags) : (t.raiseFlags k f).strand = t.strand := rfl
@[simp] theorem Tile.raiseFlags_ctl (t : Tile) (k : Strand) (f : Num.Flags) : (t.raiseFlags k f).ctl = t.ctl := rfl
@[simp] theorem Tile.raiseFlags_fifo (t : Tile) (k : Strand) (f : Num.Flags) : (t.raiseFlags k f).fifo = t.fifo := rfl
@[simp] theorem Tile.raiseFlags_sync (t : Tile) (k : Strand) (f : Num.Flags) : (t.raiseFlags k f).sync = t.sync := rfl
@[simp] theorem Tile.raiseFlags_fetch (t : Tile) (k : Strand) (f : Num.Flags) : (t.raiseFlags k f).fetch = t.fetch := rfl
@[simp] theorem Tile.raiseFlags_sfetch (t : Tile) (k : Strand) (f : Num.Flags) : (t.raiseFlags k f).sfetch = t.sfetch := rfl
@[simp] theorem Tile.raiseFlags_trace (t : Tile) (k : Strand) (f : Num.Flags) : (t.raiseFlags k f).trace = t.trace := rfl
@[simp] theorem Tile.raiseFlags_vec (t : Tile) (k : Strand) (f : Num.Flags) : (t.raiseFlags k f).vec = t.vec := rfl
@[simp] theorem Tile.raiseFlags_ld (t : Tile) (k : Strand) (f : Num.Flags) : (t.raiseFlags k f).ld = t.ld := rfl
@[simp] theorem Tile.raiseFlags_st (t : Tile) (k : Strand) (f : Num.Flags) : (t.raiseFlags k f).st = t.st := rfl
@[simp] theorem Tile.raiseFlags_mx (t : Tile) (k : Strand) (f : Num.Flags) : (t.raiseFlags k f).mx = t.mx := rfl
@[simp] theorem Tile.raiseFlags_xf (t : Tile) (k : Strand) (f : Num.Flags) : (t.raiseFlags k f).xf = t.xf := rfl
@[simp] theorem Tile.raiseFlags_tx (t : Tile) (k : Strand) (f : Num.Flags) : (t.raiseFlags k f).tx = t.tx := rfl
@[simp] theorem Tile.raiseFlags_rx (t : Tile) (k : Strand) (f : Num.Flags) : (t.raiseFlags k f).rx = t.rx := rfl
@[simp] theorem Tile.raiseFlags_spad (t : Tile) (k : Strand) (f : Num.Flags) : (t.raiseFlags k f).spad = t.spad := rfl
@[simp] theorem Tile.raiseFlags_spad0 (t : Tile) (k : Strand) (f : Num.Flags) : (t.raiseFlags k f).spad0 = t.spad0 := rfl
@[simp] theorem Tile.raiseFlags_rsp (t : Tile) (k : Strand) (f : Num.Flags) : (t.raiseFlags k f).rsp = t.rsp := rfl
@[simp] theorem Tile.raiseFlags_tlb (t : Tile) (k : Strand) (f : Num.Flags) : (t.raiseFlags k f).tlb = t.tlb := rfl
@[simp] theorem Tile.raiseFlags_preempt (t : Tile) (k : Strand) (f : Num.Flags) : (t.raiseFlags k f).preempt = t.preempt := rfl
@[simp] theorem Tile.raiseFlags_savedSup (t : Tile) (k : Strand) (f : Num.Flags) : (t.raiseFlags k f).savedSup = t.savedSup := rfl
@[simp] theorem Tile.raiseFlags_attn (t : Tile) (k : Strand) (f : Num.Flags) : (t.raiseFlags k f).attn = t.attn := rfl
@[simp] theorem Tile.raiseFlags_quiet (t : Tile) (k : Strand) (f : Num.Flags) : (t.raiseFlags k f).quiet = t.quiet := rfl

@[simp] theorem Tile.pend_phase (t : Tile) (n : Nat) (l : Latch) (v : W64) (f : Num.Flags) : (t.pend n l v f).phase = t.phase := rfl
@[simp] theorem Tile.pend_ctx (t : Tile) (n : Nat) (l : Latch) (v : W64) (f : Num.Flags) : (t.pend n l v f).ctx = t.ctx := rfl
@[simp] theorem Tile.pend_launch (t : Tile) (n : Nat) (l : Latch) (v : W64) (f : Num.Flags) : (t.pend n l v f).launch = t.launch := rfl
@[simp] theorem Tile.pend_slot (t : Tile) (n : Nat) (l : Latch) (v : W64) (f : Num.Flags) : (t.pend n l v f).slot = t.slot := rfl
@[simp] theorem Tile.pend_tcc (t : Tile) (n : Nat) (l : Latch) (v : W64) (f : Num.Flags) : (t.pend n l v f).tcc = t.tcc := rfl
@[simp] theorem Tile.pend_credit (t : Tile) (n : Nat) (l : Latch) (v : W64) (f : Num.Flags) : (t.pend n l v f).credit = t.credit := rfl
@[simp] theorem Tile.pend_strand (t : Tile) (n : Nat) (l : Latch) (v : W64) (f : Num.Flags) : (t.pend n l v f).strand = t.strand := rfl
@[simp] theorem Tile.pend_fifo (t : Tile) (n : Nat) (l : Latch) (v : W64) (f : Num.Flags) : (t.pend n l v f).fifo = t.fifo := rfl
@[simp] theorem Tile.pend_sync (t : Tile) (n : Nat) (l : Latch) (v : W64) (f : Num.Flags) : (t.pend n l v f).sync = t.sync := rfl
@[simp] theorem Tile.pend_fetch (t : Tile) (n : Nat) (l : Latch) (v : W64) (f : Num.Flags) : (t.pend n l v f).fetch = t.fetch := rfl
@[simp] theorem Tile.pend_sfetch (t : Tile) (n : Nat) (l : Latch) (v : W64) (f : Num.Flags) : (t.pend n l v f).sfetch = t.sfetch := rfl
@[simp] theorem Tile.pend_sys (t : Tile) (n : Nat) (l : Latch) (v : W64) (f : Num.Flags) : (t.pend n l v f).sys = t.sys := rfl
@[simp] theorem Tile.pend_trace (t : Tile) (n : Nat) (l : Latch) (v : W64) (f : Num.Flags) : (t.pend n l v f).trace = t.trace := rfl
@[simp] theorem Tile.pend_vec (t : Tile) (n : Nat) (l : Latch) (v : W64) (f : Num.Flags) : (t.pend n l v f).vec = t.vec := rfl
@[simp] theorem Tile.pend_ld (t : Tile) (n : Nat) (l : Latch) (v : W64) (f : Num.Flags) : (t.pend n l v f).ld = t.ld := rfl
@[simp] theorem Tile.pend_st (t : Tile) (n : Nat) (l : Latch) (v : W64) (f : Num.Flags) : (t.pend n l v f).st = t.st := rfl
@[simp] theorem Tile.pend_mx (t : Tile) (n : Nat) (l : Latch) (v : W64) (f : Num.Flags) : (t.pend n l v f).mx = t.mx := rfl
@[simp] theorem Tile.pend_xf (t : Tile) (n : Nat) (l : Latch) (v : W64) (f : Num.Flags) : (t.pend n l v f).xf = t.xf := rfl
@[simp] theorem Tile.pend_tx (t : Tile) (n : Nat) (l : Latch) (v : W64) (f : Num.Flags) : (t.pend n l v f).tx = t.tx := rfl
@[simp] theorem Tile.pend_rx (t : Tile) (n : Nat) (l : Latch) (v : W64) (f : Num.Flags) : (t.pend n l v f).rx = t.rx := rfl
@[simp] theorem Tile.pend_spad (t : Tile) (n : Nat) (l : Latch) (v : W64) (f : Num.Flags) : (t.pend n l v f).spad = t.spad := rfl
@[simp] theorem Tile.pend_spad0 (t : Tile) (n : Nat) (l : Latch) (v : W64) (f : Num.Flags) : (t.pend n l v f).spad0 = t.spad0 := rfl
@[simp] theorem Tile.pend_rsp (t : Tile) (n : Nat) (l : Latch) (v : W64) (f : Num.Flags) : (t.pend n l v f).rsp = t.rsp := rfl
@[simp] theorem Tile.pend_tlb (t : Tile) (n : Nat) (l : Latch) (v : W64) (f : Num.Flags) : (t.pend n l v f).tlb = t.tlb := rfl
@[simp] theorem Tile.pend_preempt (t : Tile) (n : Nat) (l : Latch) (v : W64) (f : Num.Flags) : (t.pend n l v f).preempt = t.preempt := rfl
@[simp] theorem Tile.pend_savedSup (t : Tile) (n : Nat) (l : Latch) (v : W64) (f : Num.Flags) : (t.pend n l v f).savedSup = t.savedSup := rfl
@[simp] theorem Tile.pend_attn (t : Tile) (n : Nat) (l : Latch) (v : W64) (f : Num.Flags) : (t.pend n l v f).attn = t.attn := rfl
@[simp] theorem Tile.pend_quiet (t : Tile) (n : Nat) (l : Latch) (v : W64) (f : Num.Flags) : (t.pend n l v f).quiet = t.quiet := rfl

@[simp] theorem Tile.semAdd_phase (t : Tile) (i : BitVec 6) (c : BitVec 16) : (t.semAdd i c).phase = t.phase := rfl
@[simp] theorem Tile.semAdd_ctx (t : Tile) (i : BitVec 6) (c : BitVec 16) : (t.semAdd i c).ctx = t.ctx := rfl
@[simp] theorem Tile.semAdd_launch (t : Tile) (i : BitVec 6) (c : BitVec 16) : (t.semAdd i c).launch = t.launch := rfl
@[simp] theorem Tile.semAdd_slot (t : Tile) (i : BitVec 6) (c : BitVec 16) : (t.semAdd i c).slot = t.slot := rfl
@[simp] theorem Tile.semAdd_tcc (t : Tile) (i : BitVec 6) (c : BitVec 16) : (t.semAdd i c).tcc = t.tcc := rfl
@[simp] theorem Tile.semAdd_credit (t : Tile) (i : BitVec 6) (c : BitVec 16) : (t.semAdd i c).credit = t.credit := rfl
@[simp] theorem Tile.semAdd_strand (t : Tile) (i : BitVec 6) (c : BitVec 16) : (t.semAdd i c).strand = t.strand := rfl
@[simp] theorem Tile.semAdd_ctl (t : Tile) (i : BitVec 6) (c : BitVec 16) : (t.semAdd i c).ctl = t.ctl := rfl
@[simp] theorem Tile.semAdd_fifo (t : Tile) (i : BitVec 6) (c : BitVec 16) : (t.semAdd i c).fifo = t.fifo := rfl
@[simp] theorem Tile.semAdd_fetch (t : Tile) (i : BitVec 6) (c : BitVec 16) : (t.semAdd i c).fetch = t.fetch := rfl
@[simp] theorem Tile.semAdd_sfetch (t : Tile) (i : BitVec 6) (c : BitVec 16) : (t.semAdd i c).sfetch = t.sfetch := rfl
@[simp] theorem Tile.semAdd_sys (t : Tile) (i : BitVec 6) (c : BitVec 16) : (t.semAdd i c).sys = t.sys := rfl
@[simp] theorem Tile.semAdd_trace (t : Tile) (i : BitVec 6) (c : BitVec 16) : (t.semAdd i c).trace = t.trace := rfl
@[simp] theorem Tile.semAdd_vec (t : Tile) (i : BitVec 6) (c : BitVec 16) : (t.semAdd i c).vec = t.vec := rfl
@[simp] theorem Tile.semAdd_ld (t : Tile) (i : BitVec 6) (c : BitVec 16) : (t.semAdd i c).ld = t.ld := rfl
@[simp] theorem Tile.semAdd_st (t : Tile) (i : BitVec 6) (c : BitVec 16) : (t.semAdd i c).st = t.st := rfl
@[simp] theorem Tile.semAdd_mx (t : Tile) (i : BitVec 6) (c : BitVec 16) : (t.semAdd i c).mx = t.mx := rfl
@[simp] theorem Tile.semAdd_xf (t : Tile) (i : BitVec 6) (c : BitVec 16) : (t.semAdd i c).xf = t.xf := rfl
@[simp] theorem Tile.semAdd_tx (t : Tile) (i : BitVec 6) (c : BitVec 16) : (t.semAdd i c).tx = t.tx := rfl
@[simp] theorem Tile.semAdd_rx (t : Tile) (i : BitVec 6) (c : BitVec 16) : (t.semAdd i c).rx = t.rx := rfl
@[simp] theorem Tile.semAdd_spad (t : Tile) (i : BitVec 6) (c : BitVec 16) : (t.semAdd i c).spad = t.spad := rfl
@[simp] theorem Tile.semAdd_spad0 (t : Tile) (i : BitVec 6) (c : BitVec 16) : (t.semAdd i c).spad0 = t.spad0 := rfl
@[simp] theorem Tile.semAdd_rsp (t : Tile) (i : BitVec 6) (c : BitVec 16) : (t.semAdd i c).rsp = t.rsp := rfl
@[simp] theorem Tile.semAdd_tlb (t : Tile) (i : BitVec 6) (c : BitVec 16) : (t.semAdd i c).tlb = t.tlb := rfl
@[simp] theorem Tile.semAdd_preempt (t : Tile) (i : BitVec 6) (c : BitVec 16) : (t.semAdd i c).preempt = t.preempt := rfl
@[simp] theorem Tile.semAdd_savedSup (t : Tile) (i : BitVec 6) (c : BitVec 16) : (t.semAdd i c).savedSup = t.savedSup := rfl
@[simp] theorem Tile.semAdd_attn (t : Tile) (i : BitVec 6) (c : BitVec 16) : (t.semAdd i c).attn = t.attn := rfl
@[simp] theorem Tile.semAdd_quiet (t : Tile) (i : BitVec 6) (c : BitVec 16) : (t.semAdd i c).quiet = t.quiet := rfl

@[simp] theorem Tile.countUp_phase (t : Tile) (k : Strand) : (t.countUp k).phase = t.phase := rfl
@[simp] theorem Tile.countUp_ctx (t : Tile) (k : Strand) : (t.countUp k).ctx = t.ctx := rfl
@[simp] theorem Tile.countUp_launch (t : Tile) (k : Strand) : (t.countUp k).launch = t.launch := rfl
@[simp] theorem Tile.countUp_slot (t : Tile) (k : Strand) : (t.countUp k).slot = t.slot := rfl
@[simp] theorem Tile.countUp_tcc (t : Tile) (k : Strand) : (t.countUp k).tcc = t.tcc := rfl
@[simp] theorem Tile.countUp_credit (t : Tile) (k : Strand) : (t.countUp k).credit = t.credit := rfl
@[simp] theorem Tile.countUp_ctl (t : Tile) (k : Strand) : (t.countUp k).ctl = t.ctl := rfl
@[simp] theorem Tile.countUp_fifo (t : Tile) (k : Strand) : (t.countUp k).fifo = t.fifo := rfl
@[simp] theorem Tile.countUp_sync (t : Tile) (k : Strand) : (t.countUp k).sync = t.sync := rfl
@[simp] theorem Tile.countUp_fetch (t : Tile) (k : Strand) : (t.countUp k).fetch = t.fetch := rfl
@[simp] theorem Tile.countUp_sfetch (t : Tile) (k : Strand) : (t.countUp k).sfetch = t.sfetch := rfl
@[simp] theorem Tile.countUp_sys (t : Tile) (k : Strand) : (t.countUp k).sys = t.sys := rfl
@[simp] theorem Tile.countUp_trace (t : Tile) (k : Strand) : (t.countUp k).trace = t.trace := rfl
@[simp] theorem Tile.countUp_vec (t : Tile) (k : Strand) : (t.countUp k).vec = t.vec := rfl
@[simp] theorem Tile.countUp_ld (t : Tile) (k : Strand) : (t.countUp k).ld = t.ld := rfl
@[simp] theorem Tile.countUp_st (t : Tile) (k : Strand) : (t.countUp k).st = t.st := rfl
@[simp] theorem Tile.countUp_mx (t : Tile) (k : Strand) : (t.countUp k).mx = t.mx := rfl
@[simp] theorem Tile.countUp_xf (t : Tile) (k : Strand) : (t.countUp k).xf = t.xf := rfl
@[simp] theorem Tile.countUp_tx (t : Tile) (k : Strand) : (t.countUp k).tx = t.tx := rfl
@[simp] theorem Tile.countUp_rx (t : Tile) (k : Strand) : (t.countUp k).rx = t.rx := rfl
@[simp] theorem Tile.countUp_spad (t : Tile) (k : Strand) : (t.countUp k).spad = t.spad := rfl
@[simp] theorem Tile.countUp_spad0 (t : Tile) (k : Strand) : (t.countUp k).spad0 = t.spad0 := rfl
@[simp] theorem Tile.countUp_rsp (t : Tile) (k : Strand) : (t.countUp k).rsp = t.rsp := rfl
@[simp] theorem Tile.countUp_tlb (t : Tile) (k : Strand) : (t.countUp k).tlb = t.tlb := rfl
@[simp] theorem Tile.countUp_preempt (t : Tile) (k : Strand) : (t.countUp k).preempt = t.preempt := rfl
@[simp] theorem Tile.countUp_savedSup (t : Tile) (k : Strand) : (t.countUp k).savedSup = t.savedSup := rfl
@[simp] theorem Tile.countUp_attn (t : Tile) (k : Strand) : (t.countUp k).attn = t.attn := rfl
@[simp] theorem Tile.countUp_quiet (t : Tile) (k : Strand) : (t.countUp k).quiet = t.quiet := rfl

@[simp] theorem Tile.tickControl_phase (t : Tile)  : (t.tickControl).phase = t.phase := rfl
@[simp] theorem Tile.tickControl_ctx (t : Tile)  : (t.tickControl).ctx = t.ctx := rfl
@[simp] theorem Tile.tickControl_launch (t : Tile)  : (t.tickControl).launch = t.launch := rfl
@[simp] theorem Tile.tickControl_slot (t : Tile)  : (t.tickControl).slot = t.slot := rfl
@[simp] theorem Tile.tickControl_tcc (t : Tile)  : (t.tickControl).tcc = t.tcc := rfl
@[simp] theorem Tile.tickControl_credit (t : Tile)  : (t.tickControl).credit = t.credit := rfl
@[simp] theorem Tile.tickControl_strand (t : Tile)  : (t.tickControl).strand = t.strand := rfl
@[simp] theorem Tile.tickControl_fifo (t : Tile)  : (t.tickControl).fifo = t.fifo := rfl
@[simp] theorem Tile.tickControl_sync (t : Tile)  : (t.tickControl).sync = t.sync := rfl
@[simp] theorem Tile.tickControl_fetch (t : Tile)  : (t.tickControl).fetch = t.fetch := rfl
@[simp] theorem Tile.tickControl_sfetch (t : Tile)  : (t.tickControl).sfetch = t.sfetch := rfl
@[simp] theorem Tile.tickControl_trace (t : Tile)  : (t.tickControl).trace = t.trace := rfl
@[simp] theorem Tile.tickControl_vec (t : Tile)  : (t.tickControl).vec = t.vec := rfl
@[simp] theorem Tile.tickControl_ld (t : Tile)  : (t.tickControl).ld = t.ld := rfl
@[simp] theorem Tile.tickControl_st (t : Tile)  : (t.tickControl).st = t.st := rfl
@[simp] theorem Tile.tickControl_mx (t : Tile)  : (t.tickControl).mx = t.mx := rfl
@[simp] theorem Tile.tickControl_xf (t : Tile)  : (t.tickControl).xf = t.xf := rfl
@[simp] theorem Tile.tickControl_tx (t : Tile)  : (t.tickControl).tx = t.tx := rfl
@[simp] theorem Tile.tickControl_rx (t : Tile)  : (t.tickControl).rx = t.rx := rfl
@[simp] theorem Tile.tickControl_spad (t : Tile)  : (t.tickControl).spad = t.spad := rfl
@[simp] theorem Tile.tickControl_spad0 (t : Tile)  : (t.tickControl).spad0 = t.spad0 := rfl
@[simp] theorem Tile.tickControl_rsp (t : Tile)  : (t.tickControl).rsp = t.rsp := rfl
@[simp] theorem Tile.tickControl_tlb (t : Tile)  : (t.tickControl).tlb = t.tlb := rfl
@[simp] theorem Tile.tickControl_preempt (t : Tile)  : (t.tickControl).preempt = t.preempt := rfl
@[simp] theorem Tile.tickControl_savedSup (t : Tile)  : (t.tickControl).savedSup = t.savedSup := rfl
@[simp] theorem Tile.tickControl_attn (t : Tile)  : (t.tickControl).attn = t.attn := rfl
@[simp] theorem Tile.tickControl_quiet (t : Tile)  : (t.tickControl).quiet = t.quiet := rfl

@[simp] theorem Tile.setQueue_phase (t : Tile) (k : Strand) (q : List QEntry) : (t.setQueue k q).phase = t.phase := by unfold Tile.setQueue; split <;> rfl
@[simp] theorem Tile.setQueue_ctx (t : Tile) (k : Strand) (q : List QEntry) : (t.setQueue k q).ctx = t.ctx := by unfold Tile.setQueue; split <;> rfl
@[simp] theorem Tile.setQueue_launch (t : Tile) (k : Strand) (q : List QEntry) : (t.setQueue k q).launch = t.launch := by unfold Tile.setQueue; split <;> rfl
@[simp] theorem Tile.setQueue_slot (t : Tile) (k : Strand) (q : List QEntry) : (t.setQueue k q).slot = t.slot := by unfold Tile.setQueue; split <;> rfl
@[simp] theorem Tile.setQueue_tcc (t : Tile) (k : Strand) (q : List QEntry) : (t.setQueue k q).tcc = t.tcc := by unfold Tile.setQueue; split <;> rfl
@[simp] theorem Tile.setQueue_credit (t : Tile) (k : Strand) (q : List QEntry) : (t.setQueue k q).credit = t.credit := by unfold Tile.setQueue; split <;> rfl
@[simp] theorem Tile.setQueue_fifo (t : Tile) (k : Strand) (q : List QEntry) : (t.setQueue k q).fifo = t.fifo := by unfold Tile.setQueue; split <;> rfl
@[simp] theorem Tile.setQueue_sync (t : Tile) (k : Strand) (q : List QEntry) : (t.setQueue k q).sync = t.sync := by unfold Tile.setQueue; split <;> rfl
@[simp] theorem Tile.setQueue_fetch (t : Tile) (k : Strand) (q : List QEntry) : (t.setQueue k q).fetch = t.fetch := by unfold Tile.setQueue; split <;> rfl
@[simp] theorem Tile.setQueue_sfetch (t : Tile) (k : Strand) (q : List QEntry) : (t.setQueue k q).sfetch = t.sfetch := by unfold Tile.setQueue; split <;> rfl
@[simp] theorem Tile.setQueue_sys (t : Tile) (k : Strand) (q : List QEntry) : (t.setQueue k q).sys = t.sys := by unfold Tile.setQueue; split <;> rfl
@[simp] theorem Tile.setQueue_trace (t : Tile) (k : Strand) (q : List QEntry) : (t.setQueue k q).trace = t.trace := by unfold Tile.setQueue; split <;> rfl
@[simp] theorem Tile.setQueue_vec (t : Tile) (k : Strand) (q : List QEntry) : (t.setQueue k q).vec = t.vec := by unfold Tile.setQueue; split <;> rfl
@[simp] theorem Tile.setQueue_ld (t : Tile) (k : Strand) (q : List QEntry) : (t.setQueue k q).ld = t.ld := by unfold Tile.setQueue; split <;> rfl
@[simp] theorem Tile.setQueue_st (t : Tile) (k : Strand) (q : List QEntry) : (t.setQueue k q).st = t.st := by unfold Tile.setQueue; split <;> rfl
@[simp] theorem Tile.setQueue_mx (t : Tile) (k : Strand) (q : List QEntry) : (t.setQueue k q).mx = t.mx := by unfold Tile.setQueue; split <;> rfl
@[simp] theorem Tile.setQueue_xf (t : Tile) (k : Strand) (q : List QEntry) : (t.setQueue k q).xf = t.xf := by unfold Tile.setQueue; split <;> rfl
@[simp] theorem Tile.setQueue_tx (t : Tile) (k : Strand) (q : List QEntry) : (t.setQueue k q).tx = t.tx := by unfold Tile.setQueue; split <;> rfl
@[simp] theorem Tile.setQueue_rx (t : Tile) (k : Strand) (q : List QEntry) : (t.setQueue k q).rx = t.rx := by unfold Tile.setQueue; split <;> rfl
@[simp] theorem Tile.setQueue_spad (t : Tile) (k : Strand) (q : List QEntry) : (t.setQueue k q).spad = t.spad := by unfold Tile.setQueue; split <;> rfl
@[simp] theorem Tile.setQueue_spad0 (t : Tile) (k : Strand) (q : List QEntry) : (t.setQueue k q).spad0 = t.spad0 := by unfold Tile.setQueue; split <;> rfl
@[simp] theorem Tile.setQueue_rsp (t : Tile) (k : Strand) (q : List QEntry) : (t.setQueue k q).rsp = t.rsp := by unfold Tile.setQueue; split <;> rfl
@[simp] theorem Tile.setQueue_tlb (t : Tile) (k : Strand) (q : List QEntry) : (t.setQueue k q).tlb = t.tlb := by unfold Tile.setQueue; split <;> rfl
@[simp] theorem Tile.setQueue_preempt (t : Tile) (k : Strand) (q : List QEntry) : (t.setQueue k q).preempt = t.preempt := by unfold Tile.setQueue; split <;> rfl
@[simp] theorem Tile.setQueue_savedSup (t : Tile) (k : Strand) (q : List QEntry) : (t.setQueue k q).savedSup = t.savedSup := by unfold Tile.setQueue; split <;> rfl
@[simp] theorem Tile.setQueue_attn (t : Tile) (k : Strand) (q : List QEntry) : (t.setQueue k q).attn = t.attn := by unfold Tile.setQueue; split <;> rfl
@[simp] theorem Tile.setQueue_quiet (t : Tile) (k : Strand) (q : List QEntry) : (t.setQueue k q).quiet = t.quiet := by unfold Tile.setQueue; split <;> rfl

@[simp] theorem Tile.retire_phase (t : Tile) (k : Strand) : (t.retire k).phase = t.phase := by simp [Tile.retire]
@[simp] theorem Tile.retire_ctx (t : Tile) (k : Strand) : (t.retire k).ctx = t.ctx := by simp [Tile.retire]
@[simp] theorem Tile.retire_launch (t : Tile) (k : Strand) : (t.retire k).launch = t.launch := by simp [Tile.retire]
@[simp] theorem Tile.retire_slot (t : Tile) (k : Strand) : (t.retire k).slot = t.slot := by simp [Tile.retire]
@[simp] theorem Tile.retire_tcc (t : Tile) (k : Strand) : (t.retire k).tcc = t.tcc := by simp [Tile.retire]
@[simp] theorem Tile.retire_credit (t : Tile) (k : Strand) : (t.retire k).credit = t.credit := by simp [Tile.retire]
@[simp] theorem Tile.retire_fifo (t : Tile) (k : Strand) : (t.retire k).fifo = t.fifo := by simp [Tile.retire]
@[simp] theorem Tile.retire_sync (t : Tile) (k : Strand) : (t.retire k).sync = t.sync := by simp [Tile.retire]
@[simp] theorem Tile.retire_fetch (t : Tile) (k : Strand) : (t.retire k).fetch = t.fetch := by simp [Tile.retire]
@[simp] theorem Tile.retire_sfetch (t : Tile) (k : Strand) : (t.retire k).sfetch = t.sfetch := by simp [Tile.retire]
@[simp] theorem Tile.retire_sys (t : Tile) (k : Strand) : (t.retire k).sys = t.sys := by simp [Tile.retire]
@[simp] theorem Tile.retire_trace (t : Tile) (k : Strand) : (t.retire k).trace = t.trace := by simp [Tile.retire]
@[simp] theorem Tile.retire_vec (t : Tile) (k : Strand) : (t.retire k).vec = t.vec := by simp [Tile.retire]
@[simp] theorem Tile.retire_ld (t : Tile) (k : Strand) : (t.retire k).ld = t.ld := by simp [Tile.retire]
@[simp] theorem Tile.retire_st (t : Tile) (k : Strand) : (t.retire k).st = t.st := by simp [Tile.retire]
@[simp] theorem Tile.retire_mx (t : Tile) (k : Strand) : (t.retire k).mx = t.mx := by simp [Tile.retire]
@[simp] theorem Tile.retire_xf (t : Tile) (k : Strand) : (t.retire k).xf = t.xf := by simp [Tile.retire]
@[simp] theorem Tile.retire_tx (t : Tile) (k : Strand) : (t.retire k).tx = t.tx := by simp [Tile.retire]
@[simp] theorem Tile.retire_rx (t : Tile) (k : Strand) : (t.retire k).rx = t.rx := by simp [Tile.retire]
@[simp] theorem Tile.retire_spad (t : Tile) (k : Strand) : (t.retire k).spad = t.spad := by simp [Tile.retire]
@[simp] theorem Tile.retire_spad0 (t : Tile) (k : Strand) : (t.retire k).spad0 = t.spad0 := by simp [Tile.retire]
@[simp] theorem Tile.retire_rsp (t : Tile) (k : Strand) : (t.retire k).rsp = t.rsp := by simp [Tile.retire]
@[simp] theorem Tile.retire_tlb (t : Tile) (k : Strand) : (t.retire k).tlb = t.tlb := by simp [Tile.retire]
@[simp] theorem Tile.retire_preempt (t : Tile) (k : Strand) : (t.retire k).preempt = t.preempt := by simp [Tile.retire]
@[simp] theorem Tile.retire_savedSup (t : Tile) (k : Strand) : (t.retire k).savedSup = t.savedSup := by simp [Tile.retire]
@[simp] theorem Tile.retire_attn (t : Tile) (k : Strand) : (t.retire k).attn = t.attn := by simp [Tile.retire]
@[simp] theorem Tile.retire_quiet (t : Tile) (k : Strand) : (t.retire k).quiet = t.quiet := by simp [Tile.retire]

end Sys2Proof.Machine
end

