-- ==== Sys2Proof/Laws/Ops.lean ====
section
/-!
SUPPORT. One lemma for each shared operation that says what it does: tiles of the state, registers, latches, landing, issue, holds and
faults.
-/
namespace Sys2Proof.Machine
open Sys2Proof

/-! ## Tiles of the state -/

@[simp] theorem State.tile_setTile_same (s : State) (t : TileNo) (x : Tile) : (s.setTile t x).tile t = x := by
  simp [State.tile, State.setTile]

theorem State.tile_setTile_other (s : State) {t n : TileNo} (x : Tile) (h : n ≠ t) : (s.setTile t x).tile n = s.tile n := by
  simp only [State.tile, State.setTile]
  exact Vector.getElem_set_ne _ _ fun e => h (Fin.ext e.symm)

@[simp] theorem State.setTile_setTile (s : State) (t : TileNo) (x y : Tile) : (s.setTile t x).setTile t y = s.setTile t y := by
  simp [State.setTile]

@[simp] theorem State.setTile_tile (s : State) (t : TileNo) : s.setTile t (s.tile t) = s := by
  simp [State.setTile, State.tile]

@[simp] theorem State.here_setTile (s : State) (t : TileNo) (x : Tile) : (s.setTile t x).here = s.here := rfl

@[simp] theorem State.cur_setTile_here (s : State) (x : Tile) : (s.setTile s.here x).cur = x := by
  simp [State.cur]

@[simp] theorem State.here_modTile (s : State) (t : TileNo) (f : Tile → Tile) : (s.modTile t f).here = s.here := rfl

theorem State.modTile_eq (s : State) (t : TileNo) (f : Tile → Tile) : s.modTile t f = s.setTile t (f (s.tile t)) := rfl

@[simp] theorem State.cur_modTile_here (s : State) (f : Tile → Tile) : (s.modTile s.here f).cur = f s.cur := by
  simp [State.modTile_eq, State.cur]

theorem State.tile_modTile_other (s : State) {t n : TileNo} (f : Tile → Tile) (h : n ≠ t) : (s.modTile t f).tile n = s.tile n :=
  s.tile_setTile_other _ h

/-! ## Issue -/

/-- What an effect on the tile alone does when an instruction issues: its result retires. -/
theorem State.issueT_done {s : State} {k : Strand} {f : Tile → Res Tile} {x : Tile} (h : f (s.seen k) = .done x) :
    s.issueT k f = s.leaves k x := by
  simp only [State.issueT, State.issue, State.cur_modTile_here]
  rw [show s.cur.tick k = s.seen k from rfl, h]
  simp [Res.map, State.leaves, State.modTile_eq]

/-- A held instruction changes nothing. -/
theorem State.issueT_hold {s : State} {k : Strand} {f : Tile → Res Tile} (h : f (s.seen k) = .hold) : s.issueT k f = s := by
  simp only [State.issueT, State.issue, State.cur_modTile_here]
  rw [show s.cur.tick k = s.seen k from rfl, h]
  rfl

/-- A faulting instruction leaves its fault with the state before it. -/
theorem State.issueT_trap {s : State} {k : Strand} {f : Tile → Res Tile} {x : Trap} (h : f (s.seen k) = .trap x) :
    s.issueT k f = s.fault s.here k x := by
  simp only [State.issueT, State.issue, State.cur_modTile_here]
  rw [show s.cur.tick k = s.seen k from rfl, h]
  rfl

/-- What a guarded control form does under a true guard. -/
theorem ctl_done {s : State} {p : BitVec 3} {n : BitVec 1} {f : Tile → Res Tile} {x : Tile}
    (g : (s.seen .control).guard p n = true) (h : f (s.seen .control) = .done x) : ctl p n f s = s.yields .control x := by
  unfold ctl State.yields
  rw [State.issueT_done (x := x)]
  simp [g, h]

/-- A control form whose guard is false changes nothing but the count. -/
theorem ctl_false {s : State} {p : BitVec 3} {n : BitVec 1} {f : Tile → Res Tile}
    (g : (s.seen .control).guard p n = false) : ctl p n f s = s.yields .control (s.seen .control) := by
  unfold ctl State.yields
  rw [State.issueT_done (x := s.seen .control)]
  simp [g]

theorem ctl_hold {s : State} {p : BitVec 3} {n : BitVec 1} {f : Tile → Res Tile}
    (g : (s.seen .control).guard p n = true) (h : f (s.seen .control) = .hold) : ctl p n f s = .next s := by
  unfold ctl
  rw [State.issueT_hold]
  simp [g, h]

theorem ctl_trap {s : State} {p : BitVec 3} {n : BitVec 1} {f : Tile → Res Tile} {x : Trap}
    (g : (s.seen .control).guard p n = true) (h : f (s.seen .control) = .trap x) : ctl p n f s = .next (s.fault s.here .control x) := by
  unfold ctl
  rw [State.issueT_trap (x := x)]
  simp [g, h]

/-! ## Control registers -/

@[simp] theorem Tile.guard_p0 (t : Tile) : t.guard 0 0 = true := by
  simp [Tile.guard, Tile.p, Regs.getP]

theorem Tile.regs_setRegs (t : Tile) (r : Regs) : (t.setRegs r).regs = r := by
  unfold Tile.regs Tile.setRegs Tile.isSup
  split <;> simp_all

theorem Regs.get_put (r : Regs) (d i : BitVec 5) (v : W64) : (r.put d v).get i = if i = d ∧ d ≠ 0#5 then v else r.get i := by
  unfold Regs.put Regs.get
  by_cases hd : d = 0#5
  · subst hd; simp
  · by_cases hi : i = 0#5
    · subst hi
      simp [Ne.symm hd, eq_comm (a := 0#5), hd]
    · by_cases h : i = d
      · subst h; simp [hi]
      · have hne : d.toNat ≠ i.toNat := fun e => h (BitVec.eq_of_toNat_eq e.symm)
        simp [hd, hi, h, Vector.getElem_set_ne _ _ hne]

theorem Regs.getP_putP (r : Regs) (d i : BitVec 3) (v : Bool) : (r.putP d v).getP i = if i = d ∧ d ≠ 0#3 then v else r.getP i := by
  unfold Regs.putP Regs.getP
  by_cases hd : d = 0#3
  · subst hd; simp
  · by_cases hi : i = 0#3
    · subst hi
      simp [eq_comm (a := 0#3), hd]
    · by_cases h : i = d
      · subst h; simp [hi]
      · have hne : d.toNat ≠ i.toNat := fun e => h (BitVec.eq_of_toNat_eq e.symm)
        simp [hd, hi, h, Vector.getElem_set_ne _ _ hne]

/-- A register read after a register was written; s0 reads zero and a write to it is discarded (R39). -/
theorem Tile.s_setS (t : Tile) (d i : BitVec 5) (v : W64) : (t.setS d v).s i = if i = d ∧ d ≠ 0#5 then v else t.s i := by
  unfold Tile.s Tile.setS
  rw [Tile.regs_setRegs, Regs.get_put]

/-- A predicate read after a predicate was written; p0 reads true and a write to it is discarded (R108, R87). -/
theorem Tile.p_setP (t : Tile) (d i : BitVec 3) (v : Bool) : (t.setP d v).p i = if i = d ∧ d ≠ 0#3 then v else t.p i := by
  unfold Tile.p Tile.setP
  rw [Tile.regs_setRegs, Regs.getP_putP]

theorem Tile.p_setS (t : Tile) (d : BitVec 5) (i : BitVec 3) (v : W64) : (t.setS d v).p i = t.p i := by
  unfold Tile.p Tile.setS
  rw [Tile.regs_setRegs]
  unfold Regs.put Regs.getP
  by_cases h : d = 0#5 <;> simp [h]

theorem Tile.s_setP (t : Tile) (d : BitVec 3) (i : BitVec 5) (v : Bool) : (t.setP d v).s i = t.s i := by
  unfold Tile.s Tile.setP
  rw [Tile.regs_setRegs]
  unfold Regs.putP Regs.get
  by_cases h : d = 0#3 <;> simp [h]

/-! ## Landing and issue cycles leave registers and memories alone -/

theorem Tile.regs_congr {t u : Tile} (hp : u.phase = t.phase) (hu : u.ctl.user = t.ctl.user) (hs : u.ctl.sup = t.ctl.sup) :
    u.regs = t.regs := by
  unfold Tile.regs Tile.isSup
  rw [hp, hu, hs]

@[simp] theorem Tile.setBank_user (t : Tile) (b : Bank) : (t.setBank b).ctl.user = t.ctl.user := by
  unfold Tile.setBank; dsimp only; split <;> rfl

@[simp] theorem Tile.setBank_sup (t : Tile) (b : Bank) : (t.setBank b).ctl.sup = t.ctl.sup := by
  unfold Tile.setBank; dsimp only; split <;> rfl

@[simp] theorem Tile.tickControl_regs (t : Tile) : t.tickControl.regs = t.regs := by
  apply Tile.regs_congr <;> simp [Tile.tickControl, Tile.raiseFlags, Tile.setFpsr]

@[simp] theorem Tile.tickControl_s (t : Tile) (i : BitVec 5) : t.tickControl.s i = t.s i := by
  unfold Tile.s; rw [Tile.tickControl_regs]

@[simp] theorem Tile.tickControl_p (t : Tile) (i : BitVec 3) : t.tickControl.p i = t.p i := by
  unfold Tile.p; rw [Tile.tickControl_regs]

@[simp] theorem Tile.setQueue_regs (t : Tile) (k : Strand) (q : List QEntry) : (t.setQueue k q).regs = t.regs := by
  apply Tile.regs_congr <;> unfold Tile.setQueue <;> split <;> rfl

@[simp] theorem Tile.retire_regs (t : Tile) (k : Strand) : (t.retire k).regs = t.regs := by
  apply Tile.regs_congr <;> unfold Tile.retire Tile.countUp Tile.setQueue <;> split <;> rfl

@[simp] theorem Tile.retire_s (t : Tile) (k : Strand) (i : BitVec 5) : (t.retire k).s i = t.s i := by
  unfold Tile.s; rw [Tile.retire_regs]

@[simp] theorem Tile.retire_p (t : Tile) (k : Strand) (i : BitVec 3) : (t.retire k).p i = t.p i := by
  unfold Tile.p; rw [Tile.retire_regs]

end Sys2Proof.Machine
end

