-- ==== Sys2Proof/Tests/Slice0.lean ====
section
/-!
SUPPORT. The model's own tests: ill-formed terms that WellFormed refuses; words written from the encoding tables of the specification;
one-step tests with results worked out from its rules; and for every statement with hypotheses a witness that meets them.
-/
set_option Elab.async false

namespace Sys2Proof.Tests
open Sys2Proof Sys2Proof.Machine

/-- A word and its extensions read as an instruction on a strand. -/
def reads (k : Strand) (w : W32) (x : List W32) (i : Instr) : Bool :=
  match decodeWord k w x false with
  | .ok j => j == i
  | .error _ => false

/-! ## WellFormed (04_lines.md R99): for each check a term just past its limit, and one at the limit -/

theorem test_ill_formed_control : ([.cmp 1 3 0 0 0 0 0, .cmp 1 0 0 0 0 0 6, .cmp 1 0 0 0 0 0 0x14, .cmp 1 0 0 0 0 0 0x1C, .cmpi 1 3 0 0 0, .cmpi 1 0 0 6 0,
    .lsp 7 0 0 0 0 [], .popStream 0 8 0 0, .popChannel 0 2 0 0, .pushK 0 5 0 0, .pushO 0 3 0 0, .pushO 0 6 0 0, .pushJ 0 2 0 0,
    .rawait 16 1, .rawait 0 0, .rawait 0 65, .rrel 16 1, .rrel 0 0, .rrel 0 65, .fwait 16 0,
    .addi 1 1 0 0 [1, 2, 3], .addi 1 1 0 0 [0, 0x80000], .andi 1 1 0 0 [0, 0x80000], .ori 1 1 0 0 [0, 0x80000], .xori 1 1 0 0 [0, 0x80000],
    .li 1 0 0 [0, 0x80000], .lsp 0 0 0 0 0 [0, 0x80000], .loop 6 0 1 0, .loop 0 0 0 0, .loop 0 1 1 1] : List Instr).all (fun i => !i.wf) = true := by
  decide +kernel

theorem test_ill_formed_vector : ([.vadd 56 0 0 0 0, .vadd 0 58 0 0 0, .vadd 0 0 58 0 0, .vabs 56 0 0 0, .vneg 0 58 0 0, .vmov 56 0 0 0, .vfma 48 0 0 0 0,
    .vfms 0 0 0 0 3, .vfnma 0 58 0 0 0, .vdot2 48 0 0 0, .vand 56 0 0 0 0, .vshl 0 0 0 0 3, .vshr 0 58 0 0 0, .vsra 56 0 0 0 0, .vnot 0 58 0 0,
    .vcmp 0 0 0 0 0 0 0, .vcmp 1 3 0 0 0 0 0, .vcmp 1 0 0 0 0 3 0, .vcmp 1 0 0 0 0 2 6, .vsel 56 0 0 0 0, .vcvt 0 0 0 0 0 0 0, .vcvt 0 0 7 0 0 0 0,
    .vrcp 0 0 0 2, .vrsq 0 0 0 1, .vexp2 0 0 0 1, .vlog2 0 0 0 1, .vsinp 0 0 0 1, .vcosp 0 0 0 1, .vtanh 0 0 0 1, .vsqrt 0 0 0 2, .vsum 0 0 0 3,
    .vrmax 0 0 0 3, .vrmin 0 0 0 3, .vramax 0 0 0 3, .vrot 56 0 0 0 0, .vshuf 56 0 0 [0], .vshuf 0 0 0 [], .vshuf 0 0 0 [0x1000000], .vtapw 48 0,
    .vtapr 48 0, .vins 48 0 0 0, .vins 0 0 1 1, .vext 48 0 0, .vacr 48 0 0, .vacw 48 0 0, .cbld 6 0 0 0, .cbld 0 52 0 0, .cbld 0 47 0 32,
    .vcbx 0 0 0 3 0, .vmode 3 0 1 0 0, .vmode 1 0 0 0 0, .vview 18 [0], .vview 0 [], .vview 0 [0x40000], .vview 1 [0x800000], .vview 17 [4],
    .vbamax 56 0 0, .vbscMx 58, .vbscSb8 58, .vbscSb4 58, .mand 0 1 1, .mor 0 1 1, .mxor 0 1 1, .mnot 0 1] : List Instr).all (fun i => !i.wf) = true := by
  decide +kernel

theorem test_ill_formed_access : ([.ld 0 0 0 1 0 [0], .ld 0 0 1 1 0 [], .ld 0 0 1 1 0 [0x10000], .ldw 0 0 7 0 0 0 [], .ldg 0 0 3 0 0 0 [], .ldg 0 0 7 0 0 0 [],
    .atr 0 0 12 0 0 0, .fenceL 5, .acq 0 0 5 0, .laTake 0 2, .laIx 0 6, .st 4 0 0 0, .stw 3 0 0 0 0, .stw 6 0 0 0 0, .stw 4 0 7 0 0, .stx 4 0 4 0 0,
    .stx 0 0 3 0 0, .atn 3 0 0 0 0 0, .atn 4 0 10 0 0 0, .fenceS 5, .rel 3 0 0 0, .rel 4 0 5 0, .saTake 0 2, .saIx 0 6, .barm 3 0 0 0, .barr 6 0 0 0]
    : List Instr).all (fun i => !i.wf) = true := by decide +kernel

theorem test_ill_formed_commands : ([.mpar 8 0 [], .mpar 0 0 [0, 0], .mparq 8, .mma 63 0 0 0 0 0 0 1, .mmas 63 0 0 0 0 0 10, .mout 63 0 0 5, .mout 63 0 0 10,
    .fft 63 0 0 0 0 3, .leg 63 0 0 3, .tpar 0 0 [0, 0], .xpar 0 0 [0, 0], .ypar 0 0 [0, 0], .laAddi 0 0 0 [0, 0], .laLi 0 0 [0, 0], .saAddi 0 0 0 [0, 0],
    .saLi 0 0 [0, 0]] : List Instr).all (fun i => !i.wf) = true := by decide +kernel

theorem test_well_formed_at_the_limits : ([.cmp 1 2 0 0 0 0 0x1B, .cmpi 1 2 0 5 0, .lsp 6 0 0 0 0 [], .popStream 0 7 0 0, .popChannel 0 1 0 0, .pushK 0 4 0 0,
    .pushO 0 5 0 0, .rawait 15 64, .rrel 15 1, .fwait 15 0, .addi 1 1 0 0 [0xFFFFFFFF, 0x7FFFF], .loop 5 1 4095 0, .vadd 55 57 57 7 3, .vfma 47 0 0 0 2,
    .vcmp 1 2 0 0 0 2 5, .vrcp 0 0 0 1, .vins 47 0 0 7, .vview 0 [0x3FFFF], .vview 17 [3], .cbld 5 51 0 255, .ld 0 0 1 1 0 [0xFFFF], .ldg 0 0 6 0 0 0 [],
    .atr 0 0 11 0 0 0, .fenceL 4, .stx 3 0 6 0 0, .atn 5 0 9 0 0 0, .barm 5 0 0 0, .mpar 7 0 [1], .mmas 63 0 0 0 0 9 9, .mout 63 0 0 9, .fft 63 0 0 0 0 15]
    : List Instr).all (fun i => i.wf) = true := by decide +kernel

theorem test_words_control_1 : ([
    (0x00621A00#32, [], .add 3 2 3 2 0),
    (0x00621181#32, [], .sub 3 2 2 1 1),
    (0x00230982#32, [], .and 1 3 1 1 1),
    (0x00211303#32, [], .or 1 1 2 3 0),
    (0x00610A04#32, [], .xor 3 1 1 2 0),
    (0x00621905#32, [], .andn 3 2 3 1 0),
    (0x00411206#32, [], .shl 2 1 2 2 0),
    (0x00211A87#32, [], .shr 1 1 3 2 1),
    (0x00211A88#32, [], .sra 1 1 3 2 1),
    (0x00220909#32, [], .min 1 2 1 1 0),
    (0x00630B8A#32, [], .max 3 3 1 3 1),
    (0x00410A0B#32, [], .minu 2 1 1 2 0),
    (0x0041130C#32, [], .maxu 2 1 2 3 0),
    (0x0042018D#32, [], .clz 2 2 1 1),
    (0x0023018E#32, [], .ctz 1 3 1 1),
    (0x0061018F#32, [], .popc 3 1 1 1),
    (0x00631110#32, [], .sel 3 3 2 1 0),
    (0x002311C0#32, [], .addW 1 3 2 1 1),
    (0x00630B41#32, [], .subW 3 3 1 3 0),
    (0x00211246#32, [], .shlW 1 1 2 2 0),
    (0x004313C7#32, [], .shrW 2 3 2 3 1),
    (0x006211C8#32, [], .sraW 3 2 2 1 1),
    (0x006303CD#32, [], .clzW 3 3 3 1),
    (0x0063024E#32, [], .ctzW 3 3 2 0)] :
    List (W32 × List W32 × Instr)).all (fun e => reads .control e.1 e.2.1 e.2.2) = true := by decide +kernel

theorem test_words_control_2 : ([
    (0x002102CF#32, [], .popcW 1 1 2 1),
    (0x04626003#32, [0x5#32], .addi 3 2 3 3 [5]),
    (0x08624001#32, [0x5#32], .andi 3 2 2 1 [5]),
    (0x0C436002#32, [0x5#32], .ori 2 3 3 2 [5]),
    (0x10436002#32, [0x5#32], .xori 2 3 3 2 [5]),
    (0x14236001#32, [], .shli 1 3 3 1),
    (0x18426001#32, [], .shri 2 2 3 1),
    (0x1C234002#32, [], .srai 1 3 2 2),
    (0x20604001#32, [0x5#32], .li 3 2 1 [5]),
    (0x24402003#32, [], .lea 2 1 3),
    (0x29421A03#32, [], .cmp 2 2 2 3 2 0 3),
    (0x2CA12001#32, [], .cmpi 1 1 1 1 1),
    (0x30B20000#32, [], .pand 1 3 1),
    (0x31A44000#32, [], .por 3 2 2),
    (0x31A68000#32, [], .pxor 3 2 3),
    (0x31A4C000#32, [], .pandn 3 2 2),
    (0x30B10000#32, [], .pnot 1 3),
    (0x40011360#32, [], .mul 1 2 3 0 3),
    (0x40021341#32, [], .mulh 2 2 3 0 2),
    (0x40020BA2#32, [], .mulhu 2 1 3 1 1),
    (0x400312E3#32, [], .mulW 3 2 2 1 3),
    (0x40011B28#32, [], .faddS 1 3 3 0 1),
    (0x40021BA9#32, [], .fsubS 2 3 3 1 1),
    (0x40020A6A#32, [], .fmulS 2 1 2 0 3)] :
    List (W32 × List W32 × Instr)).all (fun e => reads .control e.1 e.2.1 e.2.2) = true := by decide +kernel

theorem test_words_control_3 : ([
    (0x4042132B#32, [], .fmaS 2 2 2 3 0 1),
    (0x40021A4C#32, [], .fminS 2 3 2 0 2),
    (0x400309CD#32, [], .fmaxS 3 1 1 1 2),
    (0x40021A50#32, [], .faddD 2 3 2 0 2),
    (0x40021BF1#32, [], .fsubD 2 3 3 1 3),
    (0x40011932#32, [], .fmulD 1 3 1 0 1),
    (0x40210AB3#32, [], .fmaD 1 1 1 2 1 1),
    (0x400311B4#32, [], .fminD 3 2 1 1 1),
    (0x400212B5#32, [], .fmaxD 2 2 2 1 1),
    (0x400201F8#32, [], .cvtSD 2 1 1 3),
    (0x400301F9#32, [], .cvtDS 3 1 1 3),
    (0x400302DA#32, [], .cvtSI 3 2 1 2),
    (0x4002033B#32, [], .cvtIS 2 3 0 1),
    (0x4002033C#32, [], .cvtDI 2 3 0 1),
    (0x400301BD#32, [], .cvtID 3 1 1 1),
    (0x44021320#32, [], .div 2 2 3 0 1),
    (0x440311A1#32, [], .divu 3 2 1 1 1),
    (0x440109A2#32, [], .rem 1 1 1 1 1),
    (0x44031923#32, [], .remu 3 3 1 0 1),
    (0x44021148#32, [], .fdivS 2 2 1 0 2),
    (0x44030269#32, [], .fsqrtS 3 2 0 3),
    (0x44021BD0#32, [], .fdivD 2 3 3 1 2),
    (0x440102F1#32, [], .fsqrtD 1 2 1 3),
    (0x48410100#32, [], .movM 2 1 1 0)] :
    List (W32 × List W32 × Instr)).all (fun e => reads .control e.1 e.2.1 e.2.2) = true := by decide +kernel

theorem test_words_control_4 : ([
    (0x48610101#32, [], .movD 3 1 1 0),
    (0x48410102#32, [], .movL 2 1 1 0),
    (0x4C404001#32, [], .spl 2 2 1),
    (0x50036001#32, [], .sps 3 3 1),
    (0x55A24002#32, [0x5#32], .lsp 3 1 2 2 2 [5]),
    (0x58617001#32, [], .ssp 3 1 3 2 1),
    (0x5C200900#32, [], .popStream 1 1 1 0),
    (0x5C600A81#32, [], .popChannel 3 1 2 1),
    (0x60031A00#32, [], .pushK 3 3 2 0),
    (0x60032301#32, [], .pushO 3 4 3 0),
    (0x60010982#32, [], .pushJ 1 1 1 1),
    (0x81800002#32, [], .br 3 0 2),
    (0x85400003#32, [], .call 2 1 3),
    (0x88010200#32, [], .jr 1 2 0),
    (0x88220101#32, [], .jrl 1 2 1 0),
    (0xA0410300#32, [], .snap 2 1 3 0),
    (0xA0220381#32, [], .accept 1 2 3 1),
    (0xA0620182#32, [], .reject 3 2 1 1),
    (0xA0410303#32, [], .snapq 2 1 3 0),
    (0xA4000001#32, [], .evset 1),
    (0xA4080003#32, [], .evclr 3),
    (0xA4500001#32, [], .evtst 2 1),
    (0xA8230B00#32, [], .qpost 1 3 1 3 0),
    (0xC0200600#32, [], .mfs 1 3)] :
    List (W32 × List W32 × Instr)).all (fun e => reads .control e.1 e.2.1 e.2.2) = true := by decide +kernel

theorem test_words_control_5 : ([
    (0xC4400600#32, [], .mts 2 3),
    (0xC8002001#32, [], .trap 1 1),
    (0xCC000000#32, [], .eret ),
    (0xD0010000#32, [], .tstop 1),
    (0xD4030000#32, [], .tgo 3),
    (0xDC100030#32, [], .rawait 1 3),
    (0xE0100020#32, [], .rrel 1 2),
    (0xEC000000#32, [], .halt ),
    (0xF0100020#32, [], .wait 1 2),
    (0xF4300030#32, [], .sig 3 3),
    (0xF8200030#32, [], .fwait 2 3)] :
    List (W32 × List W32 × Instr)).all (fun e => reads .control e.1 e.2.1 e.2.2) = true := by decide +kernel

theorem test_words_vector_1 : ([
    (0x00208170#32, [], .vadd 2 2 1 3 2),
    (0x0030C249#32, [], .vsub 3 3 2 2 1),
    (0x0020437A#32, [], .vmul 2 1 3 3 3),
    (0x0010C12B#32, [], .vmin 1 3 1 1 1),
    (0x0020C27C#32, [], .vmax 2 3 2 3 3),
    (0x0020806D#32, [], .vabs 2 2 3 1),
    (0x0020807E#32, [], .vneg 2 2 3 3),
    (0x0030C03F#32, [], .vmov 3 3 1 3),
    (0x0410C170#32, [], .vfma 1 3 1 3 2),
    (0x04310271#32, [], .vfms 3 4 2 3 2),
    (0x0430C132#32, [], .vfnma 3 3 1 1 2),
    (0x0420833B#32, [], .vdot2 2 2 3 1),
    (0x0810C150#32, [], .vand 1 3 1 2 2),
    (0x08304129#32, [], .vor 3 1 1 1 1),
    (0x0810824A#32, [], .vxor 1 2 2 2 1),
    (0x08204153#32, [], .vandn 2 1 1 2 2),
    (0x08D048D4#32, [], .vshl 13 1 8 6 2),
    (0x0820C36D#32, [], .vshr 2 3 3 3 1),
    (0x0810826E#32, [], .vsra 1 2 2 3 1),
    (0x0820C06F#32, [], .vnot 2 3 3 1),
    (0x0CA04129#32, [], .vcmp 1 1 1 1 1 1 1),
    (0x1020C348#32, [], .vsel 2 3 3 2 1),
    (0x14414A4B#32, [], .vcvt 4 5 5 4 2 1 1),
    (0x18308048#32, [], .vrcp 3 2 2 1)] :
    List (W32 × List W32 × Instr)).all (fun e => reads .vector e.1 e.2.1 e.2.2) = true := by decide +kernel

theorem test_words_vector_2 : ([
    (0x18504081#32, [], .vrsq 5 1 4 0),
    (0x18330062#32, [], .vexp2 3 12 3 0),
    (0x18100023#32, [], .vlog2 1 0 1 0),
    (0x1871C084#32, [], .vsinp 7 7 4 0),
    (0x185040A5#32, [], .vcosp 5 1 5 0),
    (0x1832C0C6#32, [], .vtanh 3 11 6 0),
    (0x1810402F#32, [], .vsqrt 1 1 1 1),
    (0x1C308070#32, [], .vsum 3 2 3 2),
    (0x1C10C049#32, [], .vrmax 1 3 2 1),
    (0x1C204032#32, [], .vrmin 2 1 1 2),
    (0x1C514093#32, [], .vramax 5 5 4 2),
    (0x2030D402#32, [], .vrot 3 3 2 1 2),
    (0x24105000#32, [0x5#32], .vshuf 1 1 2 [5]),
    (0x28120000#32, [], .vtapw 1 2),
    (0x28328000#32, [], .vtapr 3 2),
    (0x2C603000#32, [], .vins 6 0 3 0),
    (0x2C080500#32, [], .vinsB 1 2),
    (0x30303000#32, [], .vext 3 0 3),
    (0x34282000#32, [], .vacr 2 1 2),
    (0x34182800#32, [], .vacw 1 1 2),
    (0x38206002#32, [], .cbld 2 1 2 2),
    (0x38003400#32, [], .cbswap 3),
    (0x3830AA03#32, [], .vcbx 3 2 2 2 3),
    (0x3C000069#32, [], .vmode 1 2 1 0 1)] :
    List (W32 × List W32 × Instr)).all (fun e => reads .vector e.1 e.2.1 e.2.2) = true := by decide +kernel

theorem test_words_vector_3 : ([
    (0x40100000#32, [0x5#32], .vview 1 [5]),
    (0x4430C060#32, [], .vbamax 3 3 3),
    (0x4400C001#32, [], .vbscMx 3),
    (0x44004002#32, [], .vbscSb8 1),
    (0x44008003#32, [], .vbscSb4 2),
    (0x48108300#32, [], .mand 1 2 3),
    (0x48208101#32, [], .mor 2 2 1),
    (0x48108202#32, [], .mxor 1 2 2),
    (0x48304003#32, [], .mnot 3 1),
    (0x48004004#32, [], .mpopc 1)] :
    List (W32 × List W32 × Instr)).all (fun e => reads .vector e.1 e.2.1 e.2.2) = true := by decide +kernel

theorem test_words_load_1 : ([
    (0x011BE001#32, [0x5#32], .ld 2 3 1 1 1 [5]),
    (0x06914002#32, [], .ldw 1 2 2 1 0 2 []),
    (0x090B4001#32, [], .ldg 2 1 6 1 0 1 []),
    (0x0D980600#32, [], .sset 3 3 3),
    (0x11000000#32, [], .sclr 2),
    (0x14040000#32, [], .markL 1),
    (0x1B88A003#32, [], .atr 3 1 1 0 1 3),
    (0x1C010000#32, [], .fenceL 2),
    (0x23188001#32, [], .acq 2 3 1 1),
    (0x241B8001#32, [], .pref 3 1),
    (0x288C0002#32, [], .laAdd 2 3 2),
    (0x28C88003#32, [0x5#32], .laAddi 3 2 3 [5]),
    (0x28890003#32, [], .laShli 2 2 3),
    (0x28C18001#32, [0x5#32], .laLi 3 1 [5]),
    (0x28C22000#32, [], .laTake 3 1),
    (0x28828003#32, [], .laIx 2 3),
    (0x2C184002#32, [], .barw 3 1 2)] :
    List (W32 × List W32 × Instr)).all (fun e => reads .load e.1 e.2.1 e.2.2) = true := by decide +kernel

theorem test_words_store_1 : ([
    (0x0093C001#32, [], .st 1 2 1 1),
    (0x06994002#32, [], .stw 5 3 2 1 2),
    (0x09BAC001#32, [], .stx 3 7 5 1 1),
    (0x0EE2E00C#32, [], .atn 5 12 5 1 1 12),
    (0x10080000#32, [], .markS 2),
    (0x14008000#32, [], .fenceS 1),
    (0x1A990006#32, [], .rel 5 3 2 6),
    (0x1C000000#32, [], .aflush ),
    (0x20440001#32, [], .saAdd 1 1 1),
    (0x20CC8003#32, [0x5#32], .saAddi 3 3 3 [5]),
    (0x20850002#32, [], .saShli 2 1 2),
    (0x20818002#32, [0x5#32], .saLi 2 2 [5]),
    (0x22822000#32, [], .saTake 10 1),
    (0x20C28002#32, [], .saIx 3 2),
    (0x26980C00#32, [], .barm 5 3 0 6),
    (0x2A880A00#32, [], .barr 5 1 0 5)] :
    List (W32 × List W32 × Instr)).all (fun e => reads .store e.1 e.2.1 e.2.2) = true := by decide +kernel

theorem test_words_matrix_1 : ([
    (0x00800001#32, [0x5#32], .mpar 2 1 [5]),
    (0x04800000#32, [], .mparq 2),
    (0x081070C8#32, [], .mma 1 1 1 1 0 0 3 2),
    (0x0C106844#32, [], .mmas 1 1 1 0 1 1 1),
    (0x10306000#32, [], .mzero 3 1 1),
    (0x14104040#32, [], .mout 1 1 0 1)] :
    List (W32 × List W32 × Instr)).all (fun e => reads .matrix e.1 e.2.1 e.2.2) = true := by decide +kernel

theorem test_words_transform_1 : ([
    (0x00400002#32, [0x5#32], .tpar 1 2 [5]),
    (0x0471DB80#32, [], .fft 7 7 0 1 1 7),
    (0x0871F380#32, [], .leg 7 7 1 7)] :
    List (W32 × List W32 × Instr)).all (fun e => reads .transform e.1 e.2.1 e.2.2) = true := by decide +kernel

theorem test_words_send_1 : ([
    (0x00C00002#32, [0x5#32], .xpar 3 2 [5]),
    (0x0410C400#32, [], .send 1 3 1),
    (0x0830C400#32, [], .swg 3 3 1),
    (0x0C20CC00#32, [], .rtree 2 3 3)] :
    List (W32 × List W32 × Instr)).all (fun e => reads .send e.1 e.2.1 e.2.2) = true := by decide +kernel

theorem test_words_receive_1 : ([
    (0x00C00003#32, [0x5#32], .ypar 3 3 [5]),
    (0x04308C00#32, [], .recv 3 2 3),
    (0x08108400#32, [], .yclr 1 2 1)] :
    List (W32 × List W32 × Instr)).all (fun e => reads .receive e.1 e.2.1 e.2.2) = true := by decide +kernel
theorem test_words_directives : decodeDirective 0x01001000#32 = some (.loop 0 1 1 0) ∧ decodeDirective 0x10000000#32 = some .nopl ∧
    decodeDirective 0x10000001#32 = none := by decide +kernel

/-- Table 4-18 and R99: a reserved word, a misplaced extension, and a missing one. -/
theorem test_words_refused : (decodeWord .control 0xFFFFFFFF#32 [] false matches .error .illegalInsn) = true ∧
    (decodeWord .control 0x00221900#32 [] true matches .error .illegalExt) = true ∧
    (decodeWord .control 0x00221900#32 [0#32] false matches .error .illegalExt) = true := by decide +kernel

/-! ## One step on a small state -/

/-- The machine after reset with tile 0 running as `f` leaves it, at the beginning of a TC. -/
def onTile (f : Tile → Tile) : State :=
  let x := f { Tile.blank with phase := .running }
  State.reset.setTile 0 { x with spad0 := x.spad }

/-- What an instruction leaves, or the state itself where it would stop. -/
def after (i : Instr) (s : State) : State :=
  match exec i s with
  | .next t => t
  | _ => s

/-! ## Witnesses: for every statement with hypotheses a state and operands that meet them, clause by clause -/

def user : State := onTile id
def sup : State := onTile fun x => { x with phase := .trapped }
def qe (pc : W64) : QEntry := { kind := .insn, word := 0, exts := [], misplaced := false, pc := pc, ix := Vector.replicate 6 0 }
def ent (v : α) : Ent α := { val := v, ready := true, born := 1, tag := 0 }
/-- Tile 0 with instructions in the queue of strand `k`. -/
def queued (k : Strand) (l : List QEntry) (f : Tile → Tile) : State :=
  onTile fun x => f (x.modStr k fun st => { st with queue := l })

theorem witness_AluFormsDeliver : (user.seen .control).guard 0 0 = true ∧ (user.seen .control).guard 1 1 = true := by decide +kernel
theorem witness_LatchResults : (user.seen .control).guard 7 1 = true := by decide +kernel
theorem witness_LatchesLandOldestFirst : (user.seen .control).guard 0 0 = true := by decide +kernel
theorem witness_FalseGuardDoesNothing : Claims.guardOf (.add 3 1 2 1 0) = some (1, 0) ∧ (user.seen .control).guard 1 0 = false ∧
    Claims.guardOf (.trap 0 5) = some (0, 0) ∧ Claims.guardOf (.addi 3 1 7 5 []) = some (7, 0) ∧ (user.seen .control).guard 7 0 = false := by
  decide +kernel
theorem witness_AluFrame : Claims.sDest (.add 3 1 2 0 0) = some (some 3) ∧ Claims.sDest (.cmp 1 0 1 2 0 0 0) = some none ∧
    (∃ t, exec (.add 3 1 2 0 0) user = .next t) ∧ ∃ t, exec (.cmp 1 0 1 2 0 0 0) user = .next t := ⟨rfl, rfl, ⟨_, rfl⟩, ⟨_, rfl⟩⟩

theorem witness_SpillSlots :
    let s := onTile fun x => { x with ctl := { x.ctl with spillN := 1 } }
    (s.seen .control).guard 0 0 = true ∧ s.cur.isSup = false ∧ (0#9).toNat < s.cur.ctl.spillN ∧ s.cur.ctl.spillN ≤ (1#9).toNat ∧
      (sup.seen .control).guard 0 0 = true ∧ sup.cur.isSup = true ∧ (63#9).toNat < 64 ∧ 64 ≤ (64#9).toNat := by decide +kernel
/-- Tile 0 with bank group 3 claimed by an Anvil command, and s1 = v. -/
def claiming (v : W64) : State := onTile fun x => { x with
  ctl := { x.ctl with user := x.ctl.user.put 1 v }
  mx := { x.mx with cmds := [{ word := 0, pc := 0, followOn := false, mp := x.mx.mp, tview := 0, cview := 0, plane := none, bank := 0, parity := false, t0 := 0,
                               prescan := 0, scanned := true, steps := 1, taken := 0, lastStep := none, claims := [3], landings := [], raised := false }] } }
theorem witness_ScratchpadScalar :
    (user.seen .control).guard 0 0 = true ∧ (6#3).toNat < 7 ∧ (user.cur.s 1 + imm13 0x0FF8 []).toNat % 2 ^ 21 % kindSize 6 = 0 ∧
      user.cur.claimed 0xFF8 8 = false ∧ (user.cur.s 1 + imm13 1 []).toNat % 2 ^ 21 % kindSize 2 ≠ 0 ∧
      (claiming 0x180000).cur.claimed 0x180000 8 = true ∧ (claiming 0x180000).cur.s 1 = 0x180000 ∧ (claiming 0x180000).cur.claimed 0x17FFF8 8 = false ∧
      (claiming 0x1FEFF8).cur.s 1 = 0x1FEFF8 ∧ (claiming 0x1FEFF8).cur.claimed 0x1FEFF8 8 = true ∧ (claiming 0x1FF000).cur.s 1 = 0x1FF000 ∧
      user.cur.spad.wf = true := by decide +kernel
theorem witness_Channels :
    let s := onTile fun x => { x with
      fifo := { x.fifo with qs := x.fifo.qs.set 3 [ent 5], e := x.fifo.e.set 1 [ent 7], qv := x.fifo.qv.set 0 [ent 9], qpos := x.fifo.qpos.set 0 63
                            k := x.fifo.k.set 4 (List.replicate 16 (ent 1)), os := x.fifo.os.set 1 (List.replicate 16 (ent 1))
                            j := x.fifo.j.set 1 (List.replicate 15 (ent 1)) }
      ld := { x.ld with stream := x.ld.stream.set 0 { x.ld.stream[0] with control := true } } }
    (s.seen .control).guard 0 0 = true ∧ s.cur.fifo.qs[3] = [ent 5] ∧ (ent 5#64).ready = true ∧ (ent 5#64).born ≠ s.cur.tcc ∧
      s.cur.fifo.qv[0] = [ent 9] ∧ (s.cur.ld.stream[0]).control = true ∧ (s.cur.ld.stream[1]).control = false ∧ s.cur.fifo.e[1] = [ent 7] ∧
      s.cur.fifo.qs[0] = [] ∧ s.cur.fifo.e[0] = [] ∧ s.cur.fifo.k[0].length < 16 ∧ 16 ≤ s.cur.fifo.k[4].length ∧ s.cur.fifo.os[0].length < 16 ∧
      16 ≤ s.cur.fifo.os[1].length ∧ s.cur.fifo.j[1].length < 16 := by decide +kernel

theorem witness_BranchesRedirectFetch :
    let s := onTile fun x => { x with ctl := { x.ctl with user := (x.ctl.user.put 1 0x20).put 2 4 }
                                      fetch := { x.fetch with code := [0, 0] }, strand := x.strand.set 0 { x.strand[0] with queue := [qe 4] } }
    (s.seen .control).guard 0 0 = true ∧ (Claims.lineAfter s.cur (1#22).toInt).toNat / 32 < s.codeLines s.cur ∧ (s.cur.s 1).toNat % 32 = 0 ∧
      (s.cur.s 1).toNat / 32 < s.codeLines s.cur ∧ (s.cur.s 2).toNat % 32 ≠ 0 ∧ (s.seen .control).guard 0 1 = false := by decide +kernel
theorem witness_branch_resolves :
    let s (tgt : Option W64) := onTile fun x => { x with tcc := 3, fetch := { x.fetch with branch := some { line := 0, skip := 0, issued := some (0, tgt) } } }
    ((s (some 32)).tile 0).isSup = false ∧ ((s (some 32)).tile 0).fetch.branch = some { line := 0, skip := 0, issued := some (0, some 32) } ∧
      3 ≤ (((s (some 32)).tile 0).tcc - 0).toNat ∧ ((s none).tile 0).fetch.branch = some { line := 0, skip := 0, issued := some (0, none) } ∧
      ∀ l ∈ ((s none).tile 0).fetch.level, l.active = false := by decide +kernel

theorem witness_EventsReachTheHearth :
    let s (e : EventOp) : State := { (onTile fun x => { x with ctl := { x.ctl with wait := some (.event 3) } }) with events := [e] }
    (s (.set 1 2 255)).events = [.set 1 2 255] ∧ (s (.clear 1 2 0)).events = [.clear 1 2 0] ∧ (s (.test 1 0 false 4)).events = [.test 1 0 false 4] ∧
      ((s (.test 1 0 false 4)).tile 0).ctl.wait = some (.event 3) := by decide +kernel

/-- Queue 1023 granted to context 0 in a phase, with s2 naming it and s1 = v. -/
def withQueue (ph : QueuePhase) (c : BitVec 6) (v q : W64) : State :=
  { (onTile fun x => { x with ctl := { x.ctl with user := (x.ctl.user.put 1 v).put 2 q } }) with
    queues := State.reset.queues.set 1023 { State.reset.queues[1023] with phase := ph, granted := true, ctx := c } }
theorem witness_SequencedFormsHoldTheStrand :
    ((queued .control [qe 4] id).seen .control).guard 0 0 = true ∧ (queued .control [qe 4] id).cur.queueOf .control = [qe 4] ∧
      (∀ s ∈ [withQueue .dead 0 0x40 1023, withQueue .draining 0 0 1023, withQueue .active 1 0 1023, withQueue .dead 0 0 1024],
        (s.seen .control).guard 0 0 = true ∧ (s.cur.s 1).toNat % 64 = 0 ∧ s.cur.claimed ((s.cur.s 1).toNat % 2 ^ 21) 64 = false) ∧
      (let s := withQueue .dead 0 0x40 1023
       (s.cur.s 2).toNat < 1024 ∧ (s.queue 1023).granted = true ∧ (s.queue 1023).ctx = s.cur.ctx ∧ (s.queue 1023).phase = .dead) ∧
      ((withQueue .active 1 0 1023).queue 1023).ctx ≠ (withQueue .active 1 0 1023).cur.ctx ∧
      (user.queue 0).granted = false ∧ 1024 ≤ ((withQueue .dead 0 0 1024).cur.s 2).toNat := by decide +kernel

theorem witness_SystemRegistersReadAndWrite : sup.cur.isSup = true ∧ Strand.receive ≠ .control ∧ user.cur.bank.recs = [] := by decide +kernel
theorem witness_PrivilegeIsChecked : user.cur.isSup = false ∧ 0x100 ≤ (0x100#12).toNat ∧ sup.cur.isSup = true ∧ (8 < (9#12).toNat ∧ (9#12).toNat < 0x10) ∧
    (0x11 < (0x17#12).toNat ∧ (0x17#12).toNat < 0x18) ∧ (0x1F < (0xFF#12).toNat ∧ (0xFF#12).toNat < 0x100) ∧
    (0xFFF#12).toNat ∈ [0x10A, 0x10F, 0x119, 0x11F, 0x122, 0x18F, 0x191, 0x19F, 0x1A4, 0x1AF, 0x1B1, 0xFFF] := by decide +kernel

theorem witness_TrapEntrySavesAndRedirects :
    let s := queued .control [qe 4] fun x => x.modStr .load fun st => { st with reached := some 0 }
    (s.tile 0).isSup = false ∧ ((s.tile 0).str .control).halted = false ∧ ((s.tile 0).str .control).queue = [qe 4] ∧ (s.tile 0).fetch.branch = none ∧
      (s.tile 0).phase = .running ∧ ((s.tile 0).str .load).reached.isSome = true ∧
      (∀ j : Strand, ((s.tile 0).str j).reached.isSome = true → Strand.load.pos ≤ j.pos) ∧
      ((onTile fun x => x.modStr .control fun st => { st with halted := true }).cur.str .control).halted = true := by
  refine ⟨by decide +kernel, by decide +kernel, by decide +kernel, by decide +kernel, by decide +kernel, by decide +kernel, ?_, by decide +kernel⟩
  intro j
  cases j <;> decide +kernel
theorem witness_trap_with_branch :
    (onTile fun x => { x with fetch := { x.fetch with branch := some { line := 0, skip := 0, issued := some (0, some 64) } } }).cur.fetch.branch =
      some { line := 0, skip := 0, issued := some (0, some 64) } := by decide +kernel

theorem witness_FaultStopsTheStrand :
    ((queued .load [qe 8] id).cur.str .load).queue = [qe 8] ∧ (queued .load [qe 8] id).cur.isSup = false ∧
      ((queued .load [qe 8] fun x => { x with phase := .trapped }).cur.str .load).queue = [qe 8] ∧
      (queued .load [qe 8] fun x => { x with phase := .trapped }).cur.isSup = true ∧
      ((queued .control [qe 4] id).cur.str .control).queue = [qe 4] ∧ ((queued .control [qe 4] id).cur.str .control).halted = false ∧
      ((({ sup with ctxs := sup.ctxs.set 0 { sup.ctxs[0] with phase := .live } } : State)).ctx 0).phase = .live ∧ sup.cur.ctx = 0 := by
  decide +kernel

theorem witness_SoftwareTrapAndReturn :
    let s := queued .control [qe 4, qe 8] id
    s.cur.isSup = false ∧ (s.seen .control).guard 0 0 = true ∧ (s.cur.str .control).queue = [qe 4, qe 8] ∧ (s.cur.str .control).halted = false ∧
      sup.cur.isSup = true ∧ sup.cur.sys.fpend = 0 ∧ (sup.cur.str .control).halted = false ∧
      (onTile fun x => { x with phase := .trapped, sys := { x.sys with fpend := 0x80 } }).cur.sys.fpend.getLsbD Strand.receive.pos = true ∧
      ∀ j : Strand, (onTile fun x => { x with phase := .trapped, sys := { x.sys with fpend := 0x80 } }).cur.sys.fpend.getLsbD j.pos = true →
        Strand.receive.pos ≤ j.pos := by
  refine ⟨by decide +kernel, by decide +kernel, by decide +kernel, by decide +kernel, by decide +kernel, by decide +kernel, by decide +kernel,
    by decide +kernel, ?_⟩
  intro j
  cases j <;> decide +kernel

theorem witness_TstopAndTgoActOnNamedStrands :
    let s (v : W64) := onTile fun x => { x with phase := .trapped, ctl := { x.ctl with sup := x.ctl.sup.put 1 v } }
    (s 1).cur.isSup = true ∧ ((s 1).cur.s 1).getLsbD 0 = true ∧ ((s 0xFE).cur.s 1).getLsbD 0 = false ∧ (s 0xFE).cur.storeBusy = false ∧
      ((s 0xF6).cur.s 1).getLsbD 3 = false ∧
      (let b := onTile fun x => { x with phase := .trapped, ctl := { x.ctl with sup := x.ctl.sup.put 1 8 }, st := { x.st with hold := some (.rel 0 0 1 (physAt 0 0 0) 0 0 0) } }
       b.cur.isSup = true ∧ (b.cur.s 1).getLsbD 0 = false ∧ (b.cur.s 1).getLsbD 3 = true ∧ b.cur.storeBusy = true) := by decide +kernel

def ring16 : Ring := { count := 16, slotsz := 1, base := 0, rp := 15, fill := 4, res := 0, order := [] }
theorem witness_CommonSyncForms :
    let s := onTile fun x => { x with sync := { x.sync with sem := x.sync.sem.set 63 2, flag := x.sync.flag.set 15 2, ring := x.sync.ring.set 15 (some ring16) } }
    let t := s.seen s.strandHere
    s.strandHere = .control ∧ (2#16).toNat ≤ t.sync.sem[(63#6).toNat].toNat ∧ t.sync.sem[(63#6).toNat].toNat < (3#16).toNat ∧
      (15#6).toNat < 16 ∧ (2#16).toNat ≤ t.sync.flag[15].toNat ∧ t.sync.flag[15].toNat < (3#16).toNat ∧ t.sync.ring[0] = none ∧
      t.sync.ring[15] = some ring16 ∧ (4#16).toNat ≤ ring16.fill ∧ ring16.fill < (5#16).toNat ∧ (5#16).toNat ≤ ring16.count ∧
      ring16.count < (17#16).toNat ∧ s.strandHere ≠ .store ∧ s.cur.isSup = false := by decide +kernel
theorem witness_halt_and_fetch_end :
    let s := onTile fun x => { x with fetch := { x.fetch with ended := true } }
    (s.tile 0).phase = .running ∧ (s.tile 0).fetch.ended = true ∧ ((s.tile 0).str .store).queue = [] ∧ ((s.tile 0).str .store).halted = false ∧
      ((s.tile 0).str .store).stopped = false ∧ (s.tile 0).ctl.wait = none ∧ (s.tile 0).st.pending = [] ∧ (s.tile 0).st.hold = none := by
  decide +kernel
def someLoad : PendingLoad :=
  { seq := 0, kind := .vector, q := 0, tag := 0, pieces := [], data := 0, sent := false, waits := [], pc := 0, va := 0 }
def atPhase (n : Nat) (s : State) : State := s.setPhase n
theorem witness_deferred_sigs :
    let s := atPhase 3 user
    let s1 := atPhase 3 (onTile fun x => { x with ld := { x.ld with seq := 1, pending := [someLoad] } })
    let v := atPhase 2 user
    let w := atPhase 2 (onTile fun x => { x with vec := { x.vec with recs := [{ rem := 5, act := .flags 1 }] } })
    let g := onTile fun x => { x with ld := { x.ld with sigs := [{ rel := false, id := 3, count := 1, before := 0 }] } }
    s.strandHere = .load ∧ s.cur.ld.sigs = [] ∧ s.cur.ld.pending = [] ∧ s1.strandHere = .load ∧ s1.cur.ld.pending = [someLoad] ∧
      someLoad.seq < s1.cur.ld.seq ∧ v.strandHere = .vector ∧ (v.seen .vector).vec.recs = [] ∧ (v.seen .vector).vec.late = [] ∧
      0 < (w.seen .vector).vec.settle ∧ (g.tile 0).ld.sigs = [{ rel := false, id := 3, count := 1, before := 0 }] ∧
      0 ≤ (g.tile 0).ld.oldest := by decide +kernel

/-- The vector strand's turn in tile 0, with rows of register space 1 and 2 nonzero. -/
def vecs : State := onTile fun x => { x with rsp := (x.rsp.setRow 1 1).setRow 2 2, vec := { x.vec with vview := 0xC000 } }
theorem witness_VectorArithmeticDelivers :
    Claims.VReady vecs true true (iotaOf .f32) (bcastOf false) 3 1 2 1 2 ∧ Claims.VReady vecs true false (iotaOf .f64) (bcastOf true) 47 1 0 1 0 ∧
      Claims.VReady vecs true true (iotaOf .bf16) (bcastOf false) 3 1 2 1 2 ∧ Claims.VReady vecs true true (iotaOf .i32) (bcastOf false) 48 1 2 1 2 ∧
      (vecs.seen .vector).viewRow (vecs.hasWindow vecs.here) (3#6).toNat = some 3 := by
  unfold Claims.VReady
  decide +kernel
theorem witness_VectorLogicAndMoves_reads :
    Claims.VReady vecs false true (iotaOf .f32) (bcastOf false) 3 1 2 1 2 ∧ Claims.VReady vecs false false (iotaOf .f32) (bcastOf false) 55 1 0 1 0 ∧
      Claims.gives ((vecs.seen .vector).vcheck true [1, 2] []) = some () ∧ Claims.gives ((vecs.seen .vector).vread true (iotaOf .f32) (bcastOf false) (nthB 1 2) 2) = some 2 ∧
      Claims.gives ((vecs.seen .vector).vread true (iotaOf .f32) (bcastOf false) 0 1) = some 1 ∧ (vecs.seen .vector).fifo.e[0].length < 16 ∧
      16 ≤ ((onTile fun x => { x with fifo := { x.fifo with e := x.fifo.e.set 0 (List.replicate 16 (ent 1)) } }).seen .vector).fifo.e[0].length := by
  unfold Claims.VReady
  decide +kernel
theorem witness_VectorLogicAndMoves_moves :
    let j := onTile fun x => { x with vec := { x.vec with vview := 0xC000 }, fifo := { x.fifo with j := x.fifo.j.set 1 [ent 5] } }
    let solo : State := { vecs with pods := vecs.pods.set 0 { mode := 2, want := none } }
    Claims.gives ((vecs.seen .vector).vcheck true [1] []) = some () ∧ Claims.gives ((vecs.seen .vector).vread true 0 (bcastOf false) 0 1) = some 1 ∧
      Claims.gives ((vecs.seen .vector).vcheck true [] [47]) = some () ∧ 48 ≤ (48#6).toNat ∧ (47#6).toNat < 48 ∧
      (j.seen .vector).fifo.j[(1#1).toNat] = [ent 5] ∧ (ent 5#64).ready = true ∧ (ent 5#64).born ≠ (j.seen .vector).tcc ∧
      Claims.gives ((j.seen .vector).vcheck true [] [47]) = some () ∧ (vecs.seen .vector).fifo.e[1].length < 16 ∧ vecs.hasWindow vecs.here = true ∧
      (vecs.seen .vector).rsp.wf = true ∧ solo.hasWindow solo.here = false := by decide +kernel
theorem witness_VectorLogicAndMoves_rotate : Claims.gives ((vecs.seen .vector).vcheck (vecs.hasWindow vecs.here) [1] [48]) = some () ∧
    Claims.gives ((vecs.seen .vector).vroom 48) = some () ∧
    Claims.gives (((vecs.seen .vector).takeLane 7).vread (vecs.hasWindow vecs.here) Config.untypedIota (bcastOf false) 0 1) = some 1 := by decide +kernel
/-- Row 1 holds what a vtapr of lane 7 read at the count that has just passed. -/
def tapped : State := { vecs with tiles := vecs.tiles.set 0 { vecs.tiles[0] with vec := { vecs.tiles[0].vec with
  reads := [{ lane := 7, count := 0, row := 1, en := BitVec.allOnes 128 }] } } }
theorem witness_VectorLogicAndMoves_lost :
    let t := tapped.seen .vector
    t.rsp.wf = true ∧ (∃ e ∈ t.vec.reads, e.lane = 7 ∧ ((t.str .vector).count - e.count).toNat ≤ 31 ∧ e.en.getLsbD 127 = true) ∧
      Claims.gives ((t.takeLane 7).vread (tapped.hasWindow tapped.here) Config.untypedIota (bcastOf false) 0 2) = some 2 ∧
      t.viewRow (tapped.hasWindow tapped.here) (47#6).toNat = some 47 ∧
      ∃ e ∈ (t.vact (.row 1 1 0)).vec.reads, e.row = 1 := by decide +kernel
/-- R152: a vrot within 31 counts after a vtapr of its lane: the vtapr has read zero; row 2, which none read, stays. -/
theorem test_vrot_takes_lane : ((tapped.seen .vector).takeLane 7).rsp.row 1 = 0 ∧ ((tapped.seen .vector).takeLane 7).rsp.row 2 = 2 ∧
    ((tapped.seen .vector).takeLane 15).rsp.row 1 = 1 := by decide +kernel
theorem witness_VectorFunctionsDeliver :
    Claims.VReady vecs false false (iotaOf .f32) (bcastOf false) 3 1 0 1 0 ∧ Claims.VReady vecs false false (ccIota 0 128) (bcastOf (ccBits 0 == 64)) 3 1 0 1 0 ∧
      Claims.gives ((vecs.seen .vector).vcheck (vecs.hasWindow vecs.here) [1] []) = some () ∧
      Claims.gives ((vecs.seen .vector).vread (vecs.hasWindow vecs.here) (iotaOf .f32) (bcastOf false) 0 1) = some 1 := by
  unfold Claims.VReady
  decide +kernel
theorem witness_CodebookBanksLoadSwapExpand :
    let held := onTile fun x => { x with sync := { x.sync with bank := x.sync.bank.set 3 { x.sync.bank[3] with back := { x.sync.bank[3].back with captures := 1 } } } }
    Claims.gives ((vecs.seen .vector).vcheck true [1] []) = some () ∧ Claims.gives ((vecs.seen .vector).codeSource true 1 1) = some [1] ∧
      ((vecs.seen .vector).sync.bank[3]).back.captures = 0 ∧ 0 < ((held.seen .vector).sync.bank[3]).back.captures ∧
      Claims.gives ((vecs.seen .vector).vcheck true [1] [3]) = some () ∧ Claims.gives ((vecs.seen .vector).vroom 3) = some () ∧
      Claims.gives ((vecs.seen .vector).vreadIx true Config.untypedIota 1) = some 1 ∧
      expandVec ((vecs.seen .vector).sync.bank[0]).front 0 0 1 = none := by decide +kernel
theorem witness_codebook_expands :
    let p : Plane := { entries := Vector.replicate 256 7, kind := 0, count := 256, captures := 0 }
    (expandVec p 0 0 1).isSome = true := by decide +kernel
theorem witness_VectorResultsLandInOrder : (vecs.seen .vector).viewRow true (47#6).toNat = some 47 ∧ (47#6).toNat < 48 ∧ (1#5) ≠ 0 ∧ vecs.cur.rsp.wf = true := by
  decide +kernel
theorem witness_VectorFrame : Claims.isVector (.mand 1 2 3) = true ∧ ∃ t, exec (.mand 1 2 3) vecs = .next t := ⟨rfl, _, rfl⟩


/-- Tile 0 of package 0 with one page translated by `pte`: virtual page 0. -/
def paged (pte : W64) (f : Tile → Tile) : State :=
  { (onTile fun x => f { x with tlb := [{ va := 0, size := 4096, result := .ok pte }] }) with pkg := 0 }
/-- Page frame 0 of home 0 and of home 1, DIRECT, and as a BAR page. -/
def pteNear : W64 := 0x43#64
def pteFar : W64 := 0x10000000000043#64
def pteBarrier : W64 := 0x63#64
theorem witness_AddressRegistersCompute :
    let s := onTile fun x => (x.modStr .load fun st => { st with queue := [qe 4] }).modStr .store fun st => { st with queue := [qe 8] }
    let k := onTile fun x => { x with fifo := { x.fifo with k := (x.fifo.k.set 1 [ent 5]).set 2 [ent 6] } }
    (s.cur.str .load).queue = [qe 4] ∧ (s.cur.str .store).queue = [qe 8] ∧ k.cur.fifo.k[1] = [ent 5] ∧ k.cur.fifo.k[2] = [ent 6] ∧
      (ent 5#64).ready = true ∧ (ent 5#64).born ≠ k.cur.tcc ∧ k.cur.fifo.k[0] = [] ∧ k.cur.fifo.k[3] = [] := by decide +kernel

def spadRead : Ask := { sp := true, want := .read, align := 8, barrier := false, seqOk := fun _ => true, unit := 128 }
theorem witness_AccessesAreJudgedInOrder_spad :
    ((1#64).toNat % 2 ^ 21 % spadRead.align ≠ 0) ∧ (0x1FFFF8#64).toNat % 2 ^ 21 % spadRead.align = 0 ∧ (0x1FFFF8#64).toNat % 2 ^ 21 + 8 ≤ 2 ^ 21 ∧
      0x1FF000 ≤ (0x1FF000#64).toNat % 2 ^ 21 ∧ (0x1FEFF8#64).toNat % 2 ^ 21 < 0x1FF000 ∧ (0x1FEFF8#64).toNat % 2 ^ 21 + 8 ≤ 0x1FF000 ∧
      (claiming 0).cur.claims.contains (bankGroup 0x180000) = true ∧ user.cur.claims = [] ∧
      ({ spadRead with seqOk := fun _ => false } : Ask).seqOk { pos := 0, len := 8, va := 0 } = false := by decide +kernel
theorem witness_AccessesAreJudgedInOrder_global :
    let s := paged pteNear id
    let bad : State := { s with tiles := s.tiles.set 0 { s.tiles[0] with tlb := [{ va := 0, size := 4096, result := .error 3 }] } }
    (0xFF8#64).toNat % 4096 + 8 ≤ 4096 ∧
      (∃ w, tlbFind bad.cur.tlb 0xFF8 = some w ∧ w.result = .error 3) ∧
      (∃ w, tlbFind s.cur.tlb 0xFF8 = some w ∧ w.result = .ok pteNear) ∧
      (s.checkPte pteNear 4096 0xFF8 .read false matches .ok _) = true ∧
      (s.checkPte 0x41 4096 0xFF8 .write false matches .error _) = true := by
  refine ⟨by decide +kernel, ⟨_, rfl, rfl⟩, ⟨_, rfl, rfl⟩, by decide +kernel, by decide +kernel⟩
theorem witness_AccessesAreJudgedInOrder_misses :
    let s := onTile fun x => { x with ld := { x.ld with walk := some 0x2000 } }
    (user.cur.ld.stream[((3#2).setWidth 3).toNat]).phase = .explicit ∧ (user.cur.ld.a[0]).toNat % 32 = 0 ∧ tlbFind user.cur.tlb 0 = none ∧
      (user.cur.st.w[15]).toNat % 32 = 0 ∧ (s.tile 0).ld.walk = some 0x2000 := by decide +kernel
/-- Tile 0 with its page near, one index vector and operands queued. -/
def nearby : State := paged pteNear fun x => { x with
  fifo := { x.fifo with x := (x.fifo.x.set 1 [ent 0]).set 3 [ent 0], k := x.fifo.k.set 0 [ent 5, ent 6], qv := x.fifo.qv.set 1 (List.replicate 8 (ent 0))
                        qs := x.fifo.qs.set 1 (List.replicate 16 (ent 0)), ov := x.fifo.ov.set 3 [ent 7], os := x.fifo.os.set 1 [ent 8] }
  ld := { x.ld with stream := x.ld.stream.set 7 { x.ld.stream[7] with phase := .halted } } }
theorem witness_LoadsReserveAnEntry :
    let s := nearby
    (s.cur.ld.stream[7]).phase ≠ .explicit ∧ (s.cur.ld.stream[0]).phase = .explicit ∧ (s.cur.ld.stream[4]).phase = .explicit ∧
      (Claims.gives (s.pieces .load (Claims.readAsk s.cur 0 0 32 []) [{ pos := 0, len := 512, va := 0xE00 }])).isSome = true ∧
      (Claims.gives (s.pieces .load (Claims.readAsk s.cur 1 0 32 []) [{ pos := 0, len := 512, va := 0x1FFF00 }])).isSome = true ∧
      s.cur.fifo.qv[0].length < 8 ∧ 8 ≤ s.cur.fifo.qv[1].length ∧ s.cur.fifo.qs[0].length < 16 ∧ 16 ≤ s.cur.fifo.qs[1].length ∧
      s.cur.fifo.x[1] = [ent 0] ∧ (ent 0#4096).ready = true ∧ (ent 0#4096).born ≠ s.cur.tcc ∧ Claims.gathered 0 4 (0 : Vec) ≠ [] ∧
      Claims.gathered 0 4 (Vector.replicate 128 0x80000000#32 |>.foldl (fun a b => a * 2 ^ 32 + b.setWidth 4096) (0 : Vec)) = [] ∧
      (Claims.gives (s.pieces .load (Claims.readAsk s.cur 1 0 4 []) (Claims.gathered 0 4 0))).isSome = true ∧
      (Claims.gives (s.pieces .load (Claims.writeAsk 0 4) [{ pos := 0, len := 4, va := 0xFFC }])).isSome = true ∧
      s.cur.fifo.k[0] = [ent 5, ent 6] ∧ (ent 5#64).ready = true ∧ (ent 5#64).born ≠ s.cur.tcc ∧ (ent 6#64).ready = true ∧
      (Claims.gives (s.pieces .load (Claims.readAsk s.cur 0 0 8 []) [{ pos := 0, len := 8, va := 0 }])).isSome = true ∧
      (Claims.gives (s.pieces .load (Claims.readAsk s.cur 0 0 256 []) [{ pos := 0, len := 8, va := 0xF00 }])).isSome = true ∧
      (Claims.gives (s.pieces .load (Claims.readAsk s.cur 0 0 128 []) [{ pos := 128, len := 128, va := 0xF80 }])).isSome = true := by
  decide +kernel
theorem witness_load_anyRange : nearby.anyRange [{ pos := 0, len := 8, loc := .glob (physAt 0 0 0), va := 0 }] = false := by decide +kernel

def load1 (kind : LoadKind) (q : BitVec 3) (n : Nat) (loc : Loc) : PendingLoad :=
  { seq := 0, kind := kind, q := q, tag := 0, pieces := [{ pos := 0, len := n, loc := loc, va := 0 }], data := 0, sent := false, waits := [],
    pc := 0, va := 0 }
theorem witness_LoadsDeliverInOrder :
    let s (l : PendingLoad) : State := paged pteNear fun x => { x with ld := { x.ld with pending := [l] } }
    let a : Atomic := { op := 11, wide := true, operand := 1, compare := 2 }
    let near := physAt 0 0 0xFF8
    (∀ l ∈ [load1 .vector 3 512 (.spad 0), load1 (.scalar 6) 4 8 (.glob near), load1 (.atomic a) 7 8 (.spad 8)],
      ((s l).tile 0).ld.pending = [l] ∧ ((s l).tile 0).ld.sigs = [] ∧ l.sent = false ∧ l.data = 0) ∧
      a.size = 8 ∧ a.wide = true ∧ kindSize 6 = 8 ∧ near.mode ≠ modeCached ∧
      (let u := s (load1 (.scalar 6) 4 8 (.glob near))
       near.pkg = u.pkg ∧ near.die.toNat = dieOf 0 ∧ windowTile near.die near.pa.toNat = none ∧ u.inMemory near.pkg near.die near.pa.toNat 8 = true ∧
         u.frameCmp near.pkg near.die near.pa.toNat = false ∧ u.frameHeld (physAt near.pkg near.die near.pa.toNat) = false) ∧
      (physAt 0 1 0).die.toNat ≠ dieOf 0 := by decide +kernel

/-- Home 0 with a range of context 0 that holds its first 64 KiB, with one level open and a budget. -/
def ranged (budget : BitVec 24) : State :=
  { nearby with snaps := State.reset.snaps.set 0 { State.reset.snaps[0] with
      budget := budget
      ranges := State.reset.snaps[0].ranges.set 15 { en := true, err := false, die := 0, base := 0, sizem1 := 0, gens := [1] } } }
def vecPieces : List Piece := [{ pos := 0, len := 64, loc := .glob (physAt 0 0 0xFC0), va := 0xFC0 }]
/-- Whether a readied write goes on as `storeNow`. -/
def storesNow (s : State) : Bool :=
  match s.snapLines (s.pieceLines vecPieces) with
  | .ok s1 => (s1.storeNow s.here .plain 7 vecPieces).isSome
  | _ => false
theorem witness_StoresTakeTheirData :
    let s := nearby
    (Claims.gives (s.pieces .store (Claims.writeAsk 0 32) [{ pos := 0, len := 512, va := 0xE00 }])).isSome = true ∧ s.cur.fifo.ov[0] = [] ∧
      s.cur.fifo.ov[3] = [ent 7] ∧ (ent 7#4096).ready = true ∧ (ent 7#4096).born ≠ s.cur.tcc ∧ s.anyRange vecPieces = false ∧
      (ranged 1).anyRange vecPieces = true ∧ (ranged 1).anyHeld vecPieces = false ∧ (ranged 1).cur.st.pending = [] ∧
      storesNow (ranged 1) = true ∧ ((ranged 0).snapLines ((ranged 0).pieceLines vecPieces) matches .refuse) = true ∧
      (Claims.gives (s.pieces .store (Claims.writeAsk 0 8) [{ pos := 0, len := 8, va := 0xFF8 }])).isSome = true ∧
      s.cur.fifo.os[1] = [ent 8] ∧ (ent 8#64).ready = true ∧ s.cur.fifo.x[3] = [ent 0] ∧
      (Claims.gives (s.pieces .store (Claims.writeAsk 0 4) (Claims.gathered 0 4 0))).isSome = true ∧
      (Claims.gives (s.pieces .store (Claims.barAsk 1 .write 64) [{ pos := 0, len := 16, va := 0x1FFFF0 }])).isSome = true ∧
      (Claims.gives ((paged pteBarrier id).pieces .store (Claims.barAsk 0 .write 64) [{ pos := 0, len := 16, va := 0xFF0 }])).isSome = true := by
  decide +kernel
theorem witness_store_aggregates :
    let g : Phys := { (physAt 0 1 0x10) with agg := true }
    (aggKey nearby 0 { pos := 0, len := 8, loc := .glob g, va := 0 } none true).isSome = true ∧ nearby.aggQueued 0 = false ∧
      aggKey nearby 0 { pos := 0, len := 8, loc := .glob (physAt 0 0 0x10), va := 0 } none true = none := by decide +kernel

def store1 (kind : StoreKind) (n : Nat) (loc : Loc) : PendingStore :=
  { seq := 0, kind := kind, pieces := [{ pos := 0, len := n, loc := loc, va := 0 }], data := 7, waits := [], sent := false, pc := 0, va := 0 }
def storing1 (l : PendingStore) : State := paged pteNear fun x => { x with st := { x.st with pending := [l], seq := 1 } }
theorem witness_StoresPerformAtTheirPlace :
    let near := physAt 0 0 0xFF8
    let g : State := storing1 (store1 .plain 8 (.glob near))
    (∀ k ∈ [StoreKind.plain, .atomic { op := 0, wide := false, operand := 1, compare := 0 }, .arm 3, .post 1 0],
      let l := store1 k 4 (.spad 0x1FFFF0)
      ((storing1 l).tile 0).st.pending = [l] ∧ l.sent = false ∧ ((storing1 l).tile 0).st.sigs = [] ∧
        ((storing1 l).tile 0).claimed 0x1FFFF0 4 = false) ∧ (claiming 0).cur.claimed 0x1FEFFF 1 = true ∧
      near.mode ≠ modeCached ∧ near.pkg = g.pkg ∧ near.die.toNat = dieOf 0 ∧ windowTile near.die near.pa.toNat = none ∧
      g.inMemory near.pkg near.die near.pa.toNat 8 = true ∧ g.frameCmp near.pkg near.die near.pa.toNat = false ∧
      g.frameHeld (physAt near.pkg near.die near.pa.toNat) = false ∧
      (∀ l ∈ g.linesOf near 8, g.rangeAt l.1 (128 * l.2) = none ∧ awaitingOf g.store.shadows l.1 l.2 = none) ∧
      (∀ y, y < 8 → windowTile near.die (near.pa.toNat + y) = none) ∧ g.store.mem.wf = true ∧ (physAt 0 4 0).die.toNat ≠ dieOf 0 ∧
      (physAt 1 0 0).pkg ≠ g.pkg := by decide +kernel
theorem witness_OrderingFormsHoldTheirStrand :
    let t0 := user.cur
    let a := onTile fun x => { x with ld := { x.ld with marks := x.ld.marks.set 255 1, hold := some (.mark 255 1 none) } }
    let b := onTile fun x => { x with st := { x.st with marks := x.st.marks.set 255 1, hold := some (.mark 255 1 none) } }
    t0.st.marks[255] < t0.ld.marks[255] + 1 ∧ t0.ld.marks[255] < t0.st.marks[255] + 1 ∧
      b.cur.ld.marks[255] + 1 ≤ b.cur.st.marks[255] ∧ b.cur.st.hold = some (.mark 255 (b.cur.ld.marks[255] + 1) none) ∧
      a.cur.st.marks[255] + 1 ≤ a.cur.ld.marks[255] ∧ a.cur.ld.hold = some (.mark 255 (a.cur.st.marks[255] + 1) none) ∧
      Claims.gives (nearby.pieces .store (Claims.writeAsk 0 8) [{ pos := 0, len := 8, va := 0xFF8 }]) =
        some [{ pos := 0, len := 8, loc := .glob (physAt 0 0 0xFF8), va := 0xFF8 }] ∧
      Claims.gives (nearby.pieces .store (Claims.writeAsk 0 256) [{ pos := 0, len := 8, va := 0xF00 }]) =
        some [{ pos := 0, len := 8, loc := .glob (physAt 0 0 0xF00), va := 0xF00 }] ∧
      nearby.cur.fifo.os[1] = [ent 8] ∧ (ent 8#64).ready = true ∧ (ent 8#64).born ≠ nearby.cur.tcc ∧
      (Claims.gives (nearby.pieces .store (Claims.barAsk 1 .write 64) [{ pos := 0, len := 16, va := 0x1FF000 }])).map List.length = some 1 := by
  decide +kernel
theorem witness_barrier_waits :
    let armed := onTile fun x => { x with spad := x.spad.writeN 0x1FF000 16 (barOf 1 0 0 0 1 0 0 0).toNat }
    let g : Phys := { (physAt 0 0 0xFF0) with bar := true }
    let s : State := paged pteBarrier fun x => { x with ld := { x.ld with hold := some (.barw g 0xFF0 0) } }
    let t : State := { s with store := { s.store with mem := s.store.mem.writeN (homeKey 0 0 0xFF0) 16 (barOf 1 0 0 0 1 0 0 0).toNat } }
    Claims.gives (user.pieces .load (Claims.barAsk 1 .read 128) [{ pos := 0, len := 16, va := 0x1FF000 }]) =
        some [{ pos := 0, len := 16, loc := .spad 0x1FF000, va := 0x1FF000 }] ∧
      user.cur.ld.pending = [] ∧ s.cur.ld.pending = [] ∧ barState (BitVec.ofNat 128 (user.cur.spad0.readN 0x1FF000 16)) ≠ 1 ∧
      barState (BitVec.ofNat 128 (armed.cur.spad0.readN 0x1FF000 16)) = 1 ∧
      Claims.gives (s.pieces .load (Claims.barAsk 0 .read 128) [{ pos := 0, len := 16, va := 0xFF0 }]) =
        some [{ pos := 0, len := 16, loc := .glob g, va := 0xFF0 }] ∧
      (s.tile 0).ld.hold = some (.barw g 0xFF0 0) ∧ g.pkg = s.pkg ∧ g.die.toNat = dieOf 0 ∧ windowTile g.die g.pa.toNat = none ∧
      s.inMemory g.pkg g.die g.pa.toNat 16 = true ∧ s.frameCmp g.pkg g.die g.pa.toNat = false ∧ s.frameHeld (physAt g.pkg g.die g.pa.toNat) = false ∧
      barState (BitVec.ofNat 128 (s.rdN (s.tile 0).ctx 0 0 0xFF0 16)) ≠ 1 ∧ barState (BitVec.ofNat 128 (t.rdN (s.tile 0).ctx 0 0 0xFF0 16)) = 1 := by
  decide +kernel
theorem witness_holds_end :
    let m := onTile fun x => { x with ld := { x.ld with seq := 1, pending := [someLoad], hold := some (.mark 0 1 (some 0)) }
                                      st := { x.st with hold := some (.mark 0 1 (some 1)) } }
    let f (h : StoreHold) := onTile fun x => { x with st := { x.st with hold := some h } }
    (m.tile 0).st.hold = some (.mark 0 1 (some 1)) ∧ (m.tile 0).ld.oldest < 1 ∧ (m.tile 0).ld.hold = some (.mark 0 1 (some 0)) ∧ 0 ≤ (m.tile 0).st.oldest ∧
      ((f (.mark 0 1 (some 0))).tile 0).st.hold = some (.mark 0 1 (some 0)) ∧ 0 ≤ ((f (.mark 0 1 (some 0))).tile 0).ld.oldest ∧
      ((f (.fence 4 0)).tile 0).st.hold = some (.fence 4 0) ∧ (f (.fence 4 0)).aggClear 0 = true ∧ ((f .aflush).tile 0).st.hold = some .aflush ∧
      (f .aflush).aggAccepted 0 = true ∧ ((f (.rel 1 0 2 (physAt 0 0 0) 1 0 0)).tile 0).st.hold = some (.rel 1 0 2 (physAt 0 0 0) 1 0 0) ∧
      (1#3).toNat < 2 := by decide +kernel

/-- MODE pattern, CONS control, in the scratchpad: 16 bytes one after another, code 4 to code 4. -/
def bytes16 : BitVec 512 := BitVec.ofNat 512 ((2 ^ 8 + 2 ^ 10 + 2 ^ 11 + 4 * 2 ^ 15 + 4 * 2 ^ 20) * 2 ^ 64 + (15 * 2 ^ 48 + 1) * 2 ^ 128)
/-- Tile 0 with q0 running that pattern from `base`, its entry reserved. -/
def streaming (base : W64) (f : Tile → Tile) : State := onTile fun x => f { x with
  fifo := { x.fifo with qv := x.fifo.qv.set 0 [{ val := 0, ready := false, born := 0, tag := 0x8000000000000001 }] }
  ld := { x.ld with stream := x.ld.stream.set 0 { x.ld.stream[0] with
    phase := .active, control := true, desc := bytes16, base := base, reserved := true, tags := 1 } } }
theorem witness_StreamsRunTheirPattern :
    let d (v : Nat) := onTile fun x => { x with rsp := x.rsp.writeN (64 * 1023) 64 v }
    let desc (s : State) := BitVec.ofNat 512 (s.cur.rsp.readN (64 * (1023#10).toNat) 64)
    descOk 0 (desc (d 0)) = true ∧ descOk 0 (desc (d (2 ^ 64))) = false ∧ dMode (desc (d 0)) = 0 ∧ dCons (desc (d 0)) = false ∧
      descOk 0 (desc (d bytes16.toNat)) = true ∧ dMode (desc (d bytes16.toNat)) = 1 ∧ descAligned bytes16 = true ∧
      (let h := BitVec.ofNat 512 (1 + (2 ^ 8 + 2 ^ 10 + 2 * 2 ^ 15 + 2 * 2 ^ 20) * 2 ^ 64 + (15 * 2 ^ 48 + 2) * 2 ^ 128)
       descOk 0 h = true ∧ dMode h = 1 ∧ descAligned h = false) ∧
      (user.cur.ld.stream[0]).phase = .explicit ∧ user.cur.qEmpty 0 = true ∧ ((streaming 0 id).cur.ld.stream[0]).phase = .active ∧
      (user.cur.ld.stream[3]).waits = [] ∧ user.cur.ld.pending = [] := by decide +kernel
theorem witness_stream_element :
    let s := streaming 0x180000 id
    let k := streaming 0x180000 fun x => { x with mx := (claiming 0).cur.mx }
    let x := (s.tile 0).ld.stream[0]
    x.phase = .active ∧ x.clearing = false ∧ (s.tile 0).streamOrdered x = true ∧ x.reserved = true ∧ dSp x.desc = true ∧ dCbx x.desc = false ∧
      dScale x.desc = false ∧ dCvt x.desc = false ∧ dWidth x.desc % 8 = 0 ∧ 0 < dWidth x.desc / 8 ∧ dPad x.desc = false ∧
      (elemAddr x.desc x.base x.next).1.toNat % 2 ^ 21 + dWidth x.desc / 8 ≤ 2 ^ 21 ∧ (s.tile 0).claims = [] ∧
      (k.tile 0).claims.contains (bankGroup 0x180000) = true ∧ (k.tile 0).canReport .load = true := by decide +kernel
theorem witness_stream_put :
    let x (n f : Nat) := (streaming 0 fun y => { y with ld := { y.ld with stream := y.ld.stream.set 0 { y.ld.stream[0] with next := n, filled := f } } }).cur.ld.stream[0]
    (if dCbx bytes16 then 128 else 4096 / ccBits (dDst bytes16)) = 512 ∧ dTotal bytes16 = 16 ∧ (x 14 14).filled + 1 < 512 ∧
      (x 14 14).next + 1 < dTotal bytes16 ∧ dTotal bytes16 ≤ (x 15 15).next + 1 ∧ 512 ≤ (x 0 511).filled + 1 ∧ 255 < 2 ^ 8 := by decide +kernel
theorem witness_AccessFrame : Claims.isLoad (.pref 0 0) = true ∧ Claims.isStoreLocal (.saLi 1 2 []) = true ∧
    (∃ t, exec (.pref 0 0) user = .next t) ∧ ∃ t, exec (.saLi 1 2 []) user = .next t := ⟨rfl, rfl, ⟨_, rfl⟩, ⟨_, rfl⟩⟩

/-- Tile 0 with the matrix parameters of a 2 × 3 × 128 product: A in group 0, B in group 1, D in group 2. -/
def mat (f : Tile → Tile) : State := onTile fun x => f { x with
  mx := { x.mx with mp := #v[2 ^ 21 * 8, 2 ^ 21 + 0x80000, BitVec.ofNat 64 (2 ^ 34 + 2 * 2 ^ 27 + 127), 0, 0, 0, 2 ^ 21 + 0x100000, 0x3F800000] } }
/-- Tile 0 alone in its pod's TCs (mode 0 would share them). -/
def owned (s : State) : State := { s with pods := State.reset.pods.set 0 { mode := 1, want := none } }
def mmaWord (c l : BitVec 1) : W32 := mcWord 2 5 6 c l 0 0 0 0
def mcCmd (word : W32) (t0 : W64) (steps : Nat) : AnvilCmd :=
  { word := word, pc := 4, followOn := false, mp := (mat id).cur.mx.mp, tview := 0, cview := 0, plane := none, bank := 0, parity := false, t0 := t0,
    prescan := 0, scanned := true, steps := steps, taken := 0, lastStep := none, claims := [0, 1], landings := [], raised := false }
theorem witness_MatrixCommandsStart :
    let s := mat id
    let bad := onTile id
    let w := Claims.mc 2 63 63 0 0 0 0 0 0
    let wd := Claims.mc 2 5 63 0 0 0 0 0 0
    let xf := mat fun x => { x with xf := { x.xf with cmd := some { word := 0, pc := 0, tp := Vector.replicate 4 0, plan := 0, t0 := 0, started := true, steps := 1, taken := 0, claims := [1], raised := false } } }
    let busy := mat fun x => { x with mx := { x.mx with cmds := [mcCmd (mmaWord 0 0) 0 2] } }
    s.hasWindow s.here = true ∧ s.cur.anvilFree w = true ∧ Claims.mayStart s.cur 63 ∧ ¬ Claims.mayStart s.cur 5 ∧ busy.cur.anvilFree w = false ∧
      (bad.cur.checkMc true w matches .error 1) = true ∧ s.cur.checkMc true w = .ok { claims := [0, 1], prescan := 0, steps := 2 } ∧
      s.cur.xfClaims [0, 1] = false ∧ xf.cur.xfClaims [0, 1] = true ∧
      s.cur.checkMc true (Claims.mc 5 63 63 0 0 0 0 0 0) = .ok { claims := [2], prescan := 0, steps := 2 } ∧ wd.await = 5 := by
  refine ⟨by decide +kernel, by decide +kernel, by unfold Claims.mayStart; decide +kernel, by unfold Claims.mayStart; decide +kernel,
    by decide +kernel, by decide +kernel, rfl, by decide +kernel, by decide +kernel, rfl, rfl⟩
theorem witness_matrix_operands :
    let q := onTile fun x => { x with fifo := { x.fifo with k := x.fifo.k.set 4 [ent 5] } }
    let none_ : State := { user with pods := State.reset.pods.set 0 { mode := 2, want := none } }
    q.hasWindow q.here = true ∧ q.cur.fifo.k[4] = [ent 5] ∧ (ent 5#64).ready = true ∧ (ent 5#64).born ≠ q.cur.tcc ∧ user.cur.fifo.k[4] = [] ∧
      none_.hasWindow none_.here = false := by decide +kernel
theorem witness_follow_on :
    let word := mcWord 2 63 0 0 0 0 0 0 0
    let f (w : W32) := mat fun x => { x with mx := { x.mx with follow := [(w, 7)] } }
    ((f word).tile 0).mx.follow = [(word, 7)] ∧ (mcOf word).op = 2 ∧ (decodeMatrix word []).isSome = true ∧
      ((decodeMatrix word []).map Instr.fieldsOk) = some true ∧ (f word).hasWindow 0 = true ∧ ((f word).tile 0).anvilFree (mcOf word) = true ∧
      (mcOf word).await = 63 ∧ ((f word).tile 0).checkMc ((f word).hasWindow 0) (mcOf word) = .ok { claims := [0, 1], prescan := 0, steps := 2 } ∧
      ((f word).tile 0).xfClaims [0, 1] = false ∧ (mcOf 0).op ≠ 2 ∧ (mcOf 0).op ≠ 3 := by
  refine ⟨by decide +kernel, by decide +kernel, by decide +kernel, by decide +kernel, by decide +kernel, by decide +kernel, by decide +kernel, rfl,
    by decide +kernel, by decide +kernel, by decide +kernel⟩
def anvilRuns (op : BitVec 6) : State :=
  owned (mat fun x => { x with tcc := 1, mx := { x.mx with cmds := [mcCmd (mcWord op 5 6 0 0 0 0 0 0) 0 2] } })
theorem witness_AnvilRunsItsCommands_steps :
    let c (op : BitVec 6) := mcCmd (mcWord op 5 6 0 0 0 0 0 0) 0 2
    let other := mat fun x => { x with tcc := 8, mx := { x.mx with cmds := [mcCmd (mmaWord 0 0) 0 2] } }
    ((anvilRuns 2).tile 0).mx.cmds = [c 2] ∧ ((anvilRuns 4).tile 0).mx.cmds = [c 4] ∧ ((anvilRuns 5).tile 0).mx.cmds = [c 5] ∧
      (c 2).landings = [] ∧ (anvilRuns 2).ownsTc 0 = true ∧ (c 2).scanned = true ∧ (c 2).taken < (c 2).steps ∧
      ((c 2).t0 + BitVec.ofNat 64 (c 2).prescan).toNat < ((anvilRuns 2).tile 0).tcc.toNat ∧
      (mcOf (c 4).word).op = 4 ∧ (mcOf (c 5).word).op = 5 ∧ (mcOf (c 2).word).op = 2 ∧ 0 < pairKS 0 0 ∧ other.ownsTc 0 = false := by
  decide +kernel
theorem witness_AnvilRunsItsCommands_landings :
    let land (l : AnvilLanding) := mat fun x => { x with tcc := 8, mx := { x.mx with cmds := [{ mcCmd (mmaWord 0 0) 0 2 with landings := [l] }] } }
    (∀ l ∈ [AnvilLanding.zero 8 512, .update 8 639 [[.real Num.Val.nan 0]], .out 8 false 0x100000 [1, 2]],
      (land l).ownsTc 0 = false ∧ l.due.toNat ≤ ((land l).tile 0).tcc.toNat ∧ ((land l).tile 0).rsp.wf = true ∧ ((land l).tile 0).spad.wf = true) := by
  decide +kernel
theorem witness_AnvilRunsItsCommands_ends :
    let c := { mcCmd (mmaWord 0 0) 0 2 with scanned := false, prescan := 1 }
    let cl := { c with word := mcWord 3 5 6 0 0 0 0 8 8, mp := c.mp.set 2 (BitVec.ofNat 64 63) }
    let s := mat fun x => { x with tcc := 1, mx := { x.mx with cmds := [c] } }
    let bad := mat fun x => { x with tcc := 1, spad := x.spad.write 0 2, mx := { x.mx with cmds := [cl] } }
    let ending (t : W64) := mat fun x => { x with tcc := t, mx := { x.mx with cmds := [{ mcCmd (mmaWord 0 0) 0 2 with lastStep := some 3 }] } }
    (s.tile 0).mx.cmds = [c] ∧ (c.t0 + BitVec.ofNat 64 c.prescan).toNat ≤ (s.tile 0).tcc.toNat ∧ (s.tile 0).prescanBad c = none ∧
      (mcOf c.word).op = 2 ∧ (mcOf c.word).clr = false ∧ 0 < c.steps ∧ (bad.tile 0).prescanBad cl = some (1, 0) ∧ cl.followOn = false ∧
      cl.plane = none ∧ (bad.tile 0).phase = .running ∧ (bad.tile 0).draining = false ∧
      ((3 : W64) + 9).toNat ≤ ((ending 12).tile 0).tcc.toNat ∧ ((ending 11).tile 0).tcc.toNat < ((3 : W64) + 9).toNat ∧
      ((ending 12).tile 0).mx.sigs = [] := by decide +kernel
/-- Tile 0 with a plan of one radix-2 stage at 0x40, and its parameters: 2 points from 0x1000 to 0x81000. -/
def fftTile (f : Tile → Tile) : State := onTile fun x => f { x with
  spad := (x.spad.writeN 0x40 8 (1 + 2 ^ 55 + 2 ^ 60)).writeN 0x48 8 2
  xf := { x.xf with tp := (((x.xf.tp.set 0 0x201000).set 1 0x281000).set 4 0x40) } }
def fftWord : W32 := tcWord 1 5 6 0 0 0 4
def fftCmd (plan : W64) (started : Bool) (steps taken : Nat) : TransformCmd :=
  { word := fftWord, pc := 4, tp := #v[0x201000, 0x281000, 0, 0], plan := plan, t0 := 0, started := started, steps := steps, taken := taken,
    claims := [0, 1], raised := false }
theorem witness_TransformCommandsRun_starts :
    let s := fftTile fun x => { x with sync := { x.sync with sem := x.sync.sem.set 5 1 } }
    let t := s.cur
    let w := tcOf fftWord
    let full := fftTile fun x => { x with xf := { x.xf with cmd := some (fftCmd 0x40 true 1 0) } }
    (tcOf (tcWord 1 5 6 0 0 0 3)).plan < 4 ∧ 4 ≤ w.plan ∧ w.op ≠ 2 ∧ (tcOf (tcWord 2 5 6 0 1 0 15)).wide = true ∧
      (tcOf (tcWord 2 5 6 0 1 0 15)).real = false ∧ t.xf.tp[w.plan]? = some 0x40 ∧
      xfGroups w #v[t.xf.tp[0], t.xf.tp[1], t.xf.tp[2], t.xf.tp[3]] 0x40 t.spad = [0, 1] ∧ t.xf.cmd = none ∧ t.mx.cmds = [] ∧ w.await = 5 ∧
      1 ≤ (t.sync.sem[5]).toNat ∧ full.cur.xf.cmd.isSome = true := by decide +kernel
theorem witness_TransformCommandsRun_steps :
    let s (c : TransformCmd) (tcc : W64) := fftTile fun x => { x with tcc := tcc, xf := { x.xf with cmd := some c } }
    let c := fftCmd 0x40 false 0 0
    ((s c 0).tile 0).xf.cmd = some c ∧ c.started = false ∧ ((s c 0).tile 0).tcc.toNat ≤ c.t0.toNat ∧ c.t0.toNat < ((s c 1).tile 0).tcc.toNat ∧
      (((s c 1).tile 0).checkTc c matches .ok 1) = true ∧ (((s c 1).tile 0).checkTc (fftCmd 0 false 0 0) matches .error 1) = true ∧
      ((s c 1).tile 0).phase = .running ∧ ((s c 1).tile 0).draining = false ∧ (fftCmd 0x40 true 2 0).taken + 1 < (fftCmd 0x40 true 2 0).steps ∧
      (fftCmd 0x40 true 1 0).taken + 1 = (fftCmd 0x40 true 1 0).steps ∧ ((s c 19).tile 0).xf.sigs = [] ∧
      ((fftCmd 0x40 true 1 1).t0 + BitVec.ofNat 64 ((fftCmd 0x40 true 1 1).steps + 18)).toNat ≤ ((s (fftCmd 0x40 true 1 1) 19).tile 0).tcc.toNat := by
  decide +kernel

def sendDesc (base : Nat) : BitVec 512 := BitVec.ofNat 512 (2 ^ 48 + 2 ^ 192 + base * 2 ^ 256)
def sendCmd (base : Nat) : SendCmd :=
  { word := xcWord 1 5 6 15, pc := 4, t0 := 0, started := false, desc := sendDesc base, transfers := [], tree := none, soff := 0, promise := 0,
    lastFc := none, raised := false }
/-- One flit from tile 0 to block 0 of tile 1, at its destination 7 fabric cycles later. -/
def oneFlit : Transfer :=
  { id := 0, depart := 1000, flits := 1, runLen := 1, soff := 64, sstride := 0, doff := 0, tag := 9, dstPkg := 0, dstDie := 0, dstTile := 1, block := 0,
    lat := 7, physical := true, lane := 0, port := 0, psub := 0, sent := 0 }
def sending (c : SendCmd) (tcc fcc : W64) : State :=
  { (onTile fun x => { x with tcc := tcc, tx := { x.tx with cmd := some c } }) with pkg := 0, fcc := fcc }
theorem witness_SendReceive_send :
    let s := sending (sendCmd 1000) 1 0
    let gone : SendCmd := { sendCmd 1000 with started := true, transfers := [oneFlit] }
    (s.tile 0).tx.cmd = some (sendCmd 1000) ∧ (sendCmd 1000).started = false ∧ (sendCmd 1000).t0.toNat < (s.tile 0).tcc.toNat ∧
      (xcOf (sendCmd 1000).word).op = 1 ∧ (s.checkSend 0 (sendCmd 1000) matches .ok _ _) = true ∧
      ((sending (sendCmd 0) 1 0).checkSend 0 (sendCmd 0) matches .bad _ 0x0B 0) = true ∧ (s.tile 0).phase = .running ∧ (s.tile 0).draining = false ∧
      (let w := sending { gone with lastFc := some 1000 } 1 1001
       (w.tile 0).tx.cmd = some { gone with lastFc := some 1000 } ∧ (1000 : W64).toNat < w.fcc.toNat ∧ (w.tile 0).tx.sigs = []) ∧
      (let w := sending gone 1 1000
       w.fabric.flits = [] ∧ (w.tile 0).tx.cmd = some gone ∧ gone.lastFc = none ∧ gone.tree = none ∧ oneFlit.sent < oneFlit.flits ∧
         (oneFlit.depart + BitVec.ofNat 64 oneFlit.sent).toNat ≤ w.fcc.toNat ∧ oneFlit.dstPkg = w.pkg) ∧
      user.cur.tx.cmd = none ∧ (s.cur.tx.cmd).isSome = true ∧ user.treeFull 0 0 0 = false := by decide +kernel
theorem witness_tree_full :
    let e : BitVec 512 := BitVec.ofNat 512 (2 ^ 6 + 2 ^ 7 + 2 ^ 152)
    let r (tag : BitVec 16) : TreeRound := { tree := 0, node := 0, tag := tag, count := 1, parts := [], leaves := [], last := 0, nodes := [] }
    let s : State := { user with pkg := 0, fabric := { user.fabric with trees := [(0, e)], rounds := [r 1, r 2] } }
    s.treeFull 0 0 0 = true := by decide +kernel
def recvDesc (base : Nat) : BitVec 512 := BitVec.ofNat 512 (15 + base * 2 ^ 21 + 128 * 2 ^ 64 + 2 ^ 96)
def recvCmd (op : BitVec 6) (base : Nat) : RecvCmd :=
  { word := xcWord op 5 6 15, pc := 4, t0 := 0, started := false, desc := recvDesc base, raised := false }
def receiving (c : RecvCmd) (tcc : W64) : State := onTile fun x => { x with tcc := tcc, rx := { x.rx with cmd := some c } }
theorem witness_SendReceive_receive :
    let s := receiving (recvCmd 1 0x1FEF80) 1
    let y := onTile fun x => { x with tcc := 1, rx := { x.rx with cmd := some (recvCmd 2 0) }
                                      sync := { x.sync with block := x.sync.block.set 15 { registered := true, base := 0, len := 64, expect := 1, tag := 0 } } }
    (s.tile 0).rx.cmd = some (recvCmd 1 0x1FEF80) ∧ (recvCmd 1 0x1FEF80).t0.toNat < (s.tile 0).tcc.toNat ∧ (xcOf (recvCmd 1 0).word).op = 1 ∧
      ((s.tile 0).checkRecv (recvCmd 1 0x1FEF80) matches .ok _ _) = true ∧
      (((receiving (recvCmd 1 0x1FEFC0) 1).tile 0).checkRecv (recvCmd 1 0x1FEFC0) matches .bad _ 0x0C 0) = true ∧ (s.tile 0).phase = .running ∧
      (s.tile 0).draining = false ∧ (xcOf (recvCmd 2 0).word).op = 2 ∧ (xcOf (recvCmd 2 0).word).desc = 15 ∧
      ((y.tile 0).sync.block[15]).registered = true ∧
      (((recvCmd 1 0).t0 + 2).toNat ≤ ((receiving { recvCmd 1 0 with started := true } 2).tile 0).tcc.toNat) ∧
      ((receiving { recvCmd 1 0 with started := true } 2).tile 0).rx.sigs = [] := by decide +kernel
def flit (dst : BitVec 6) : Flit :=
  { xfer := 0, index := 0, count := 1, src := 1, srcCtx := 0, dstPkg := dst, dstDie := 0, dstTile := 0, block := 15, doff := 64, tag := 9, len := 64,
    data := 7, land := 5, slots := [] }
def landing (f : Flit) (reg : Bool) : State :=
  { (onTile fun x => { x with sync := { x.sync with block := x.sync.block.set 15 { registered := reg, base := 0x180000, len := 128, expect := 1, tag := 0 } } }) with
    pkg := 0, fcc := 5, fabric := { State.reset.fabric with flits := [f] } }
theorem witness_SendReceive_landings :
    let s := landing (flit 0) true
    s.fabric.flits = [flit 0] ∧ s.fabric.arrivals = [] ∧ (flit 0).land.toNat ≤ s.fcc.toNat ∧ (flit 0).count = 1 ∧ (flit 0).dstPkg = s.pkg ∧
      (flit 1).dstPkg ≠ s.pkg ∧ tileOf? ((flit 0).dstDie.toNat * 160 + (flit 0).dstTile) = some 0 ∧ (s.tile 0).phase = .running ∧
      (let b := (s.tile 0).sync.block[15]
       b.registered = true ∧ (flit 0).doff + 64 * (flit 0).index + (flit 0).len ≤ b.len ∧ (s.tile 0).claimed (b.base + 64) 64 = false) ∧
      ((landing (flit 0) false).tile 0).sync.block[15].registered = false := by decide +kernel
def treeEntry : BitVec 512 := BitVec.ofNat 512 (2 ^ 6 + 2 ^ 7 + 2 ^ 152)
def treeRound : TreeRound :=
  { tree := 0, node := 3, tag := 9, count := 1, parts := [(0, [0x3F800000]), (1, [0x40000000])], leaves := [(0, 15, 64, 0)], last := 0, nodes := [] }
def combining : State := { user with pkg := 0, fabric := { user.fabric with trees := [(3, treeEntry)], rounds := [treeRound] } }
theorem witness_SendReceive_trees :
    combining.fabric.trees = [((3#3).toNat, treeEntry)] ∧ fld treeEntry.toNat 0 4 = (0#4).toNat ∧ fld treeEntry.toNat 6 1 = 1 ∧
      combining.fabric.rounds = [treeRound] ∧ treeRound.tree = 0 ∧ treeRound.node = (3#3).toNat ∧ treeKids treeEntry.toNat ≤ treeRound.parts.length ∧
      treeRound.nodes = [] ∧ treeRound.leaves = [(0, 15, 64, 0)] := by decide +kernel

/-- A line of one lane: its tag and word, and LAST. -/
def line1 (tag : Nat) (w : W32) (last : Nat) : BitVec 256 := BitVec.ofNat 256 (last + 16 * tag + 2 ^ 32 * w.toNat)
/-- Tile 0 about to fetch the first of these lines. -/
def coded (l : List (BitVec 256)) (f : Tile → Tile) : State := onTile fun x => f { x with fetch := { x.fetch with code := l } }
def plainLine : BitVec 256 := line1 1 0x00221900 1
def loopLine : BitVec 256 := line1 15 0x01001000 0
def noplLine : BitVec 256 := line1 15 0x10000000 0
theorem witness_FetchTakesLines_line :
    let s := coded [plainLine] id
    let x := s.tile 0
    let ls := lanesOf plainLine 0 (x.fetch.level.map fun l => l.ix)
    x.isSup = false ∧ x.canFetch = true ∧ x.nextLine = some plainLine ∧ lineOk plainLine = true ∧ ls.dirs = [] ∧ ls.orphans = [] ∧
      x.roomFor ls = true ∧ (∀ e ∈ ls.insns, isBranchWord e.2.word = false) ∧ (∀ i : Fin 6, (x.fetch.level[i]).active = false) ∧
      (x.str .control).halted = false ∧ ((coded [] id).tile 0).nextLine = none ∧ ((coded [line1 9 0 0] id).tile 0).nextLine = some (line1 9 0 0) ∧
      lineOk (line1 9 0 0) = false ∧ ((coded [plainLine] fun x => { x with fetch := { x.fetch with ended := true } }).tile 0).canFetch = false := by
  decide +kernel
theorem witness_FetchTakesLines_directives :
    let s := coded [loopLine, plainLine, plainLine] fun x => { x with fetch := { x.fetch with table := [{ kind := 0, count := 3 }] } }
    let x := s.cur
    let n := coded [noplLine] id
    n.cur.nextDirective = some .nopl ∧ n.cur.isSup = false ∧ n.cur.canFetch = true ∧ n.cur.nextLine = some noplLine ∧ lineOk noplLine = true ∧
      (∀ i : Fin 6, (n.cur.fetch.level[i]).active = false) ∧ x.nextDirective = some (.loop 0 1 1 0) ∧ x.nextLine = some loopLine ∧
      lineOk loopLine = true ∧ x.fetch.loopCount 0 1 0 = some 3 ∧ x.fetch.loopOk 0 0 1 = true ∧
      x.roomFor (lanesOf loopLine 0 (x.fetch.level.map fun l => l.ix)) = true ∧ x.fetch.table[(0#3).toNat]? = some { kind := 0, count := 3 } := by
  decide +kernel
theorem witness_empty_issue_cycle : user.cur.phase = .running ∧ user.cur.queueOf .store = [] ∧ (user.cur.str .store).halted = false ∧
    (user.cur.str .store).stopped = false ∧ (user.cur.str .store).used = false := by decide +kernel

/-- State.reset in package 0 with context 0 LIVE as `f` leaves it, and tile 0 as `g` leaves it. -/
def live (g : Tile → Tile) (f : Context → Context) : State :=
  let s : State := { (onTile g) with pkg := 0 }
  { s with ctxs := s.ctxs.set 0 (f { s.ctxs[0] with phase := .live }) }
/-- The same with a page table: virtual page 0 of context 0 is page frame 0 of home 0 with the leaf `pte`. -/
def tabled (pte : W64) (s : State) : State :=
  let m := ((((s.store.mem.writeN 0x10000 8 0x11001).writeN 0x11000 8 0x12001).writeN 0x12000 8 0x13001).writeN 0x13000 8 0x14001).writeN 0x14000 8 pte.toNat
  { s with store := { s.store with mem := m }, ctxs := s.ctxs.set 0 { s.ctxs[0] with root := 0x10000 } }
def pteAll : W64 := 0x47#64
def powered (s : State) (i : Fin 16) : State :=
  { s with manage := { s.manage with islands := s.manage.islands.set i { s.manage.islands[i] with powered := true } } }
def launch0 (ph : LaunchPhase) : Launch :=
  { id := 7, phase := ph, ctx := 0, queue := 1023, from_ := .packet, prio := 3, pre := true, kernel := 0, arg := 0, argw := 0, sig := 0, startfcc := 5,
    gx := 1, gy := 1, gd := 1, dieMask := 0, since := 0, age := 0, slot := none, tiles := [0], orient := 0, preempting := false, saved := [], replies := [],
    code := 0 }
def rec0 : FaultRecord := { words := Vector.replicate 8 0 }

theorem witness_TileEventsAct_phases :
    let off := onTile fun x => { x with phase := .off }
    let halted := onTile fun x => { x with strand := x.strand.map fun st => { st with halted := true } }
    let want : State := { user with pods := State.reset.pods.set 0 { mode := 0, want := some 2 } }
    let busy : State := { (mat fun x => { x with mx := { x.mx with cmds := [mcCmd (mmaWord 0 0) 0 2] } }) with pods := want.pods }
    (off.tile 0).phase = .off ∧ ((powered off 0).manage.islands[islandOf 0]).powered = true ∧ (off.manage.islands[islandOf 0]).powered = false ∧
      (halted.tile 0).draining = true ∧ (halted.tile 0).preempt = false ∧ halted.workDone 0 = true ∧ (halted.tile 0).vec.recs = [] ∧
      (halted.tile 0).ld.sigs = [] ∧ (halted.tile 0).st.sigs = [] ∧ (user.tile 0).draining = false ∧ (want.pods[podOf 0]).want = some 2 ∧
      (want.tile 0).mx.cmds = [] ∧ (want.tile (podMate 0)).mx.cmds = [] ∧ (busy.tile 0).mx.cmds ≠ [] := by decide +kernel
theorem witness_TileEventsAct_handler :
    let s := live (fun x => { x with phase := .trapped }) id
    let e : QEntry := { qe 4 with word := 0x30#6 ++ 3#5 ++ 0x107#12 ++ 0#9 }
    let r := live (fun x => { x with phase := .trapped, ctl := { x.ctl with squeue := [e] }, sys := { x.sys with lastSeq := some 0, reply := some 9 } }) id
    let l : State := { (live (fun x => { x with phase := .trapped, launch := 7 }) id) with launches := [launch0 .running] }
    s.cur.isSup = true ∧ s.cur.sys.lastSeq = none ∧ (r.tile 0).isSup = true ∧ (r.tile 0).ctl.squeue = [e] ∧ e.kind = .insn ∧
      e.word.extractLsb' 26 6 = 0x30#6 ∧ e.word.extractLsb' 9 12 = 0x107#12 ∧ r.replyReady (r.tile 0) = some 9 ∧ (user.tile 0).isSup = false ∧
      (l.tile 0).phase = .trapped ∧ l.launchOf 0 = some (launch0 .running) ∧ (launch0 .running).from_ = .packet ∧
      sigNamed (launch0 .running).sig = false ∧ (user.tile 0).phase ≠ .trapped := by decide +kernel
theorem witness_TileEventsAct_trace :
    let t (wp : W64) (n : Nat) := onTile fun x =>
      { x with sys := { x.sys with tracectl := 0x10010, tracewp := wp }, trace := { x.trace with waiting := List.replicate n (0, 0) } }
    let s := t 239 15
    let f := t 254 1
    s.cur.sys.traceOn = true ∧ s.cur.sys.tracectl.getLsbD (4 + Strand.control.pos) = true ∧ s.cur.phase = .running ∧ user.cur.sys.traceOn = false ∧
      s.cur.trace.dropped = 0 ∧ s.cur.trace.waiting.length < 16 ∧
      (s.cur.sys.tracewp - s.cur.sys.tracerp).toNat % s.cur.sys.traceSize + s.cur.trace.waiting.length + 1 < s.cur.sys.traceSize ∧
      f.cur.sys.traceSize ≤ (f.cur.sys.tracewp - f.cur.sys.tracerp).toNat % f.cur.sys.traceSize + f.cur.trace.waiting.length + 1 := by decide +kernel
theorem witness_TileEventsAct_watchdog :
    let s := live id id
    let q := live (fun x => { x with quiet := s.watchdogTcs 0 }) id
    (q.tile 0).phase = .running ∧ q.watchdogTcs 0 ≤ (q.tile 0).quiet ∧ (q.ctx (q.tile 0).ctx).phase = .live ∧
      (s.tile 0).quiet < ({ s with manage := { s.manage with watchdogMs := 1, islands := s.manage.islands.set 0 { s.manage.islands[0] with ncur := 32 } } } : State).watchdogTcs 0 := by
  decide +kernel

/-- A kernel image of one line at virtual address 0: magic, version, LINES, CODEOFF and SIZE. -/
def imageBytes : Nat := 0x494B4649 + 2 ^ 32 + 3 * 2 ^ 64 + 2 ^ 80 + 0x40 * 2 ^ 288 + 0x60 * 2 ^ 448 + plainLine.toNat * 2 ^ 512
/-- Context 0 LIVE with the image mapped, tiles 0 and 1 IDLE, and the launch waiting. -/
def waiting : State :=
  let s := tabled pteAll (live (fun x => { x with phase := .idle }) id)
  { (s.setTile 1 { Tile.blank with phase := .idle }) with
    store := { s.store with mem := s.store.mem.writeN 0 0x60 imageBytes }, launches := [launch0 .pending] }
def record0 : BitVec 512 := bindRecordOf (launch0 .pending) 0 0 0 0 false
theorem witness_LaunchEventsAct_bind :
    let s := waiting
    s.slots[255] = 0 ∧ record0.getLsbD 0 = true ∧ fld record0.toNat 52 12 = 0 ∧ fld record0.toNat 448 64 = 0 ∧
      s.namedBy record0.toNat = some (launch0 .pending) ∧ (s.ctx 0).phase = .live ∧
      placeAll (fld record0.toNat 26 4) (fld record0.toNat 30 4) (fld record0.toNat 11 3) 1 1 1 (fld record0.toNat 34 8) = some [0] ∧
      s.placeOk (launch0 .pending) (fld record0.toNat 11 3) (fld record0.toNat 34 8) (fld record0.toNat 14 1 == 1) [0] = true ∧
      (s.span 0 .read 0 (argN 0 + 1) (64 * argN 0) matches .ok _ []) = true ∧
      (match s.readImage 0 0 with | .ok _ x => x.ok (argMask 0) && x.spill == 3 && x.lines == 1 | _ => false) = true ∧ (0#512).getLsbD 0 = false := by
  decide +kernel
theorem witness_LaunchEventsAct_place :
    waiting.launch 7 = some (launch0 .pending) ∧ (waiting.carryOut 255 record0).isSome = true ∧ (launch0 .running).phase ≠ .pending ∧
      (launch0 .running).phase ≠ .saved := by decide +kernel
/-- Tile 0 held by the launch in a phase. -/
def bound (ph : TilePhase) (l : Launch) : State := { (live (fun x => { x with phase := ph, launch := 7 }) id) with launches := [l] }
theorem witness_LaunchEventsAct_start :
    let l : Launch := { launch0 .binding with slot := some 255 }
    let s (fcc : W64) : State := { (bound .bound l) with fcc := fcc }
    ((s 5).launches.find? fun z => z.slot == some 255 && z.phase == .binding) = some l ∧ (s 4).fcc.toNat < l.startfcc.toNat ∧
      l.startfcc.toNat ≤ (s 5).fcc.toNat ∧ ((s 5).tile 0).launch = l.id ∧ ((s 5).tile 0).phase = .bound := by decide +kernel
theorem witness_LaunchEventsAct_ends :
    let y : Launch := { launch0 .running with slot := some 255 }
    let done := bound .idle y
    let busy := bound .running y
    done.launch 7 = some y ∧ done.launchDone y = true ∧ sigNamed y.sig = false ∧ y.from_ = .packet ∧ y.slot = some 255 ∧ busy.launchDone y = false := by
  decide +kernel
theorem witness_LaunchEventsAct_preempt :
    let y : Launch := { launch0 .running with preempting := true }
    let s := bound .running y
    let c : State := { (bound .running y) with fcc := 0 }
    let coll := c.modTile 0 fun x => { x with tx := { x.tx with promise := 1 } }
    s.launch 7 = some y ∧ y.phase = .running ∧ y.preempting = true ∧ s.heldTiles y = [0] ∧ s.collective 0 = false ∧ (s.tile 0).phase = .running ∧
      s.canSave 0 = true ∧ coll.collective 0 = true ∧ coll.heldTiles y = [0] ∧ (bound .running (launch0 .running)).mayPreempt (launch0 .running) = false ∧
      ((bound .saving y).tile 0).phase = .saving ∧ (s.tile 0).phase ≠ .saving := by decide +kernel

def withCtx (f : Context → Context) : State := live id f
theorem witness_ContextEventsAct_records :
    let full := withCtx fun x => { x with fqLog2 := 4, fqwp := 16, records := [rec0] }
    let room := tabled pteAll (withCtx fun x => { x with fqLog2 := 4, fqwp := 15, fqBase := 0x800, records := [rec0] })
    let late : State := { room with fcc := 1250001 }
    (full.ctx 0).records = [rec0] ∧ ((full.ctx 0).fqwp - (full.ctx 0).fqrp).toNat = 2 ^ (full.ctx 0).fqLog2 ∧
      ((room.ctx 0).fqwp - (room.ctx 0).fqrp).toNat ≠ 2 ^ (room.ctx 0).fqLog2 ∧
      (match room.walk 0 (0x800 + 15 * 64) with | .ok (e, _) => !pteCmp e && !pteBar e | .error _ => false) = true ∧
      (room.hWrite 0 (0x800 + 15 * 64) 64 rec0.value matches .ok _ _) = true ∧
      ((withCtx fun x => { x with fqLog2 := 4, fqwp := 15, records := [rec0] }).walk 0 (15 * 64) matches .error _) = true ∧
      1250000 < (late.fcc - rec0.words[4]).toNat ∧ (room.fcc - rec0.words[4]).toNat ≤ 1250000 := by decide +kernel
/-- The context command registers with this much in them. -/
def cmdRegs (a0 a1 a2 : W64) (busy : Bool) (f : Context → Context) : State :=
  { (withCtx f) with ctxRegs := { State.reset.ctxRegs with arg0 := a0, arg1 := a1, arg2 := a2, busy := busy } }
theorem witness_ContextEventsAct_commands :
    let ok := cmdRegs 0x1000 16 0x10000 false fun x => { x with phase := .free }
    (cmdRegs 0 0 0 true id).ctxRegs.busy = true ∧ ok.ctxRegs.busy = false ∧ ok.ctxRegs.late = false ∧ ok.ctxRegs.arg1.toNat % 32 = 16 ∧
      ok.ctxRegs.arg0.toNat % 4096 = 0 ∧ ok.ctxRegs.arg2.toNat % 65536 = 0 ∧ (ok.ctx 0).phase = .free ∧
      (cmdRegs 0x1000 3 0 false id).ctxRegs.arg1.toNat % 32 < 4 ∧ 16 < (cmdRegs 0 17 0 false id).ctxRegs.arg1.toNat % 32 ∧
      (cmdRegs 0x800 4 0 false id).ctxRegs.arg0.toNat % 4096 ≠ 0 ∧ (cmdRegs 0 4 0x8000 false id).ctxRegs.arg2.toNat % 65536 ≠ 0 ∧
      ((cmdRegs 0 4 0 false id).ctx 0).phase = .live ∧ ((cmdRegs 0 0 0 false fun x => { x with phase := .halted }).ctx 0).phase = .halted ∧
      ((cmdRegs 0 0 0 false fun x => { x with phase := .killing }).ctx 0).phase = .killing := by decide +kernel
theorem witness_ContextEventsAct_ends :
    let k (d : Bool) := withCtx fun x => { x with phase := .killing, destroying := d }
    ((k false).ctx 0).phase = .killing ∧ ((k false).ctx 0).destroying = false ∧ ((k true).ctx 0).destroying = true ∧
      ((withCtx id).ctx 0).phase ≠ .killing := by decide +kernel
theorem witness_ContextEventsAct_reply :
    let v : W64 := 0x0000000300000000
    let s := live (fun x => { x with phase := .trapped, sys := { x.sys with lastSeq := some 3 } }) id
    tileOf? (fld v.toNat 12 10) = some 0 ∧ (s.tile 0).ctx = 0 ∧ (s.tile 0).phase = .trapped ∧ (s.tile 0).sys.reply = none ∧
      (s.tile 0).sys.lastSeq = some (v.extractLsb' 32 32) := by decide +kernel
/-- Queue 1023 of context 0, its control block at virtual address 0x100. -/
def queue0 (ph : QueuePhase) (p : Option InProgress) : State :=
  let s := tabled pteAll (live id id)
  { s with queues := s.queues.set 1023 { s.queues[1023] with phase := ph, granted := true, ctx := 0, qcb := 0x100, ring := 0x400, log2n := 4, prog := p } }
theorem witness_ContextEventsAct_prompts :
    ((queue0 .active none).queue 1023).reachable (.virtual 0) = true ∧ ((queue0 .active none).queue 1023).phase ≠ .dead ∧
      ((queue0 .dead none).queue 1023).phase = .dead ∧ ((queue0 .active none).queue 1023).reachable (.virtual 1) = false ∧
      ((queue0 .draining none).queue 1023).phase = .draining ∧ ((queue0 .paused none).queue 1023).phase = .paused ∧
      ((queue0 .active none).hAtomic 0 0x100 { op := 0, wide := true, operand := 1, compare := 0 } matches .ok _ _) = true := by decide +kernel

/-- A number of `n` bytes placed at a byte of page frame 0 of home 0. -/
def poke (s : State) (a n v : Nat) : State := { s with store := { s.store with mem := s.store.mem.writeN a n v } }
/-- Queue 1023, DEAD, for a CREATE whose control block at 0x100 names LOG2N n. -/
def creating (n : Nat) : State := poke (queue0 .dead none) 0x100 32 (n * 2 ^ 192)
theorem witness_QueueCommandsAct_create :
    ((creating 4).queue 1023).phase = .dead ∧ ((creating 4).ctx ((creating 4).queue 1023).ctxsel).phase = .live ∧
      ((creating 4).checkCreate 0 0x100 matches .ok _ (0, 4)) = true ∧ ((creating 3).checkCreate 0 0x100 matches .bad _ _ _) = true ∧
      ((queue0 .active none).queue 1023).phase ≠ .dead := by decide +kernel
theorem witness_QueueCommandsAct_control :
    let graph : Graph := { queue := 1023, addr := 0, passMax := 0, pass := 0, sig := 0, next := 0, launches := [], snapops := 0, issued := 0, failed := none,
                           stopped := false }
    let g : State := { (queue0 .active none) with graphs := State.reset.graphs.set 0 (some graph) }
    let w := poke (queue0 .draining none) 0x100 8 1
    let lost : State := { (queue0 .active none) with ctxs := State.reset.ctxs }
    (g.queue 1023).phase = .active ∧ g.graphs[0] = some graph ∧ graph.queue = 1023 ∧ ((queue0 .paused none).queue 1023).phase = .paused ∧
      ((queue0 .paused none).ctx ((queue0 .paused none).queue 1023).ctx).phase = .live ∧ ((queue0 .dead none).queue 1023).phase = .dead ∧
      ((queue0 .draining none).queue 1023).phase = .draining ∧ ((queue0 .draining none).queue 1023).prog = none ∧
      ((queue0 .draining none).indices ((queue0 .draining none).queue 1023) matches .ok _ (0, 0)) = true ∧
      (w.indices (w.queue 1023) matches .ok _ (0, 1)) = true ∧ (lost.indices (lost.queue 1023) matches .bad _ _ _) = true := by decide +kernel
/-- Queue 1023 with a valid packet of a type in slot 0 of its ring at 0x400. -/
def offered (type : Nat) : State := poke (poke (queue0 .active none) 0x100 8 1) 0x400 8 (0x80 + type)
theorem witness_QueueCommandsAct_poll :
    let s := offered 5
    let x := s.queue 1023
    x.phase = .active ∧ x.prog = none ∧ (s.ctx x.ctx).phase = .live ∧ (s.indices x matches .ok _ (0, 1)) = true ∧
      (s.hRead x.ctx (x.slotAt 0) 8 matches .ok _ 0x85) = true ∧ (s.hRead x.ctx (x.slotAt 0) 64 matches .ok _ 0x85) = true ∧
      (match s.hWrite x.ctx (x.slotAt 0) 8 0 with
       | .ok s1 _ => (match s1.hWrite x.ctx (x.qcb + 8) 8 1 with | .ok _ _ => true | _ => false)
       | _ => false) = true ∧ (packetStep 1023 0x85).isSome = true ∧ packetStep 1023 0x80 = none ∧ s.owes 1023 = false ∧
      pktType (BitVec.ofNat 512 0x85) ≠ 3 := by decide +kernel
theorem witness_QueueCommandsAct_status :
    let s := queue0 .active none
    let x := s.queue 1023
    let lost : State := { s with ctxs := State.reset.ctxs }
    x.status = { x with prompted := true }.status ∧ x.status ≠ { x with phase := .draining }.status ∧ x.qcb ≠ 0 ∧
      (s.hWrite 0 (x.qcb + 0x20) 8 { x with phase := .draining }.status matches .ok _ _) = true ∧
      (lost.hWrite 0 (x.qcb + 0x20) 8 0 matches .bad _ _ _) = true := by decide +kernel
theorem witness_QueueCommandsAct_timeout :
    let s (fcc : W64) : State := { (onTile fun x => { x with ctl := { x.ctl with wait := some (.qpost 3 0 0 (some 0) 0) } }) with fcc := fcc }
    let posting := (offered 5).modTile 0 fun x => { x with ctl := { x.ctl with wait := some (.qpost 3 1023 0 (some 0) 0) } }
    let room : State := { posting with fcc := 1250001 }
    (s 1250001).qpostFull ((s 1250001).queue 0) 0 0 0 = true ∧ (room.tile 0).waitOf = some (.qpost 3 1023 0 (some 0) 0) ∧
      room.qpostFull (room.queue 1023) 1023 0 0 = false ∧ ((s 0).tile 0).waitOf = some (.qpost 3 0 0 (some 0) 0) ∧ 1250000 < ((s 1250001).fcc - 0).toNat ∧ ((s 1250000).fcc - 0).toNat ≤ 1250000 := by
  decide +kernel

def dispatchPkt : BitVec 512 := BitVec.ofNat 512 (0x81 + 3 * 2 ^ 16)
theorem witness_PacketsAreCarriedOut_dispatch :
    let s : State := { (queue0 .active none) with store := waiting.store }
    let x := s.queue 1023
    x.takes dispatchPkt = true ∧ fld dispatchPkt.toNat 8 8 = 0 ∧ fld dispatchPkt.toNat 20 44 = 0 ∧ fld dispatchPkt.toNat 320 128 = 0 ∧
      argsBad (pktWord dispatchPkt 2) (pktWord dispatchPkt 3) = false ∧
      argsMisaligned (pktWord dispatchPkt 1) (pktWord dispatchPkt 2) (pktWord dispatchPkt 3) = false ∧ (pktSig dispatchPkt).toNat % 8 = 0 ∧
      (s.span 0 .read 0 1 0 matches .ok _ []) = true ∧ (match s.readImage 0 0 with | .ok _ i => i.ok 0 | _ => false) = true ∧
      ((queue0 .paused none).queue 1023).takes dispatchPkt = false ∧ fld (0x181#512).toNat 8 8 ≠ 0 := by decide +kernel
def fence (t : Nat) (a b : Nat) : BitVec 512 := BitVec.ofNat 512 (0x84 + t * 2 ^ 16 + 2 * 2 ^ 32 + a * 2 ^ 64 + b * 2 ^ 80)
def signalPkt (op v t : Nat) : BitVec 512 := BitVec.ofNat 512 (0x85 + op * 2 ^ 16 + 63 * 2 ^ 32 + v * 2 ^ 64 + t * 2 ^ 448)
/-- A SIGNAL packet whose fields and limits stand. -/
def signalFits (p : BitVec 512) : Bool :=
  fld p.toNat 8 8 == 0 && fld p.toNat 20 12 == 0 && fld p.toNat 43 21 == 0 && fld p.toNat 128 320 == 0
    && !signalBad (fld p.toNat 16 3) (fld p.toNat 32 11) (pktWord p 1) (pktSig p)
theorem witness_PacketsAreCarriedOut_layout :
    let lay : BitVec 512 := BitVec.ofNat 512 (0x83 + 7 * 2 ^ 16 + 0x3F * 2 ^ 24)
    fld lay.toNat 8 8 = 0 ∧ fld lay.toNat 19 5 = 0 ∧ fld lay.toNat 30 34 = 0 ∧ fld lay.toNat 288 224 = 0 ∧
      ((queue0 .active none).queue 1023).takes lay = true := by decide +kernel
theorem witness_PacketsAreCarriedOut_others :
    let s := queue0 .active none
    signalFits (signalPkt 0 5 0x804) = true ∧ signalFits (signalPkt 3 255 0) = true ∧ signalFits (signalPkt 1 5 0x800) = true ∧
      (pktSig (signalPkt 0 5 0x804)).toNat % 8 ≠ 0 ∧ (pktSig (signalPkt 1 5 0x800)).toNat % 8 = 0 ∧ (s.signalOp 0 1 5 0x800 matches .ok _ _) = true ∧
      (s.hAccess 0 0x800 (.atomic { op := 0, wide := true, operand := 5, compare := 0 }) matches .ok _ _) = true ∧
      (s.hAccess 0 0x800 (.write 8 5) matches .ok _ _) = true := by decide +kernel
/-- Queues 1023 and 0 of context 0, with `p` and `q` in progress. -/
def fencing (p q : Option InProgress) : State :=
  let s := queue0 .active p
  { s with queues := s.queues.set 0 { s.queues[0] with phase := .active, granted := true, ctx := 0, prog := q } }
theorem witness_PacketsAreCarriedOut_fences :
    let p := fence 9 1023 0
    let s := fencing none none
    let j := fencing (some (.qfence p)) (some (.qfence p))
    (s.queue 1023).takes p = true ∧ fld p.toNat 8 8 = 0 ∧ fld p.toNat 36 28 = 0 ∧ fld p.toNat 192 256 = 0 ∧ fld p.toNat 32 4 = 2 ∧
      (∀ e ∈ fenceList p, e ≤ 1023) ∧ (∀ i, i < 8 → 2 ≤ i → fld p.toNat (64 + 16 * i) 16 = 0) ∧ (pktSig p).toNat % 8 = 0 ∧
      (1023#10).toNat ∈ fenceList p ∧ (fenceList p).Nodup ∧
      (∀ e ∈ fenceList p, (s.queue (BitVec.ofNat 10 e)).granted = true ∧ (s.queue (BitVec.ofNat 10 e)).ctx = 0) ∧
      (1023#10).toNat ∉ fenceList (fence 9 1 0) ∧ ¬ (fenceList (fence 9 1023 1023)).Nodup ∧
      (∀ e ∈ fenceList p, (j.queue (BitVec.ofNat 10 e)).prog = some (.qfence p)) ∧ sigNamed (pktSig p) = false ∧
      (∀ e ∈ fenceList p, j.owes (BitVec.ofNat 10 e) = false ∧ j.signalHeld (j.queue (BitVec.ofNat 10 e)).ctx (pktSig p) = false) ∧
      ((fencing (some (.qfence p)) none).queue 0).prog = none ∧
      (let f := fencing (some (.qfence p)) (some (.qfence (fence 8 1023 0)))
       let d : State := { f with queues := f.queues.set 1023 { (f.queues[1023]) with phase := .draining } }
       (d.queue 1023).phase = .draining ∧ d.fenceStuck p = true ∧ (fencing (some (.qfence p)) none).fenceStuck p = false) := by decide +kernel
/-- A layout record of rank 1 of bytes with a box of `n` elements. -/
def layRec (n : Nat) : Nat := 10 + (n - 1) * 2 ^ 384
/-- A copy of `n` elements from set 0 to set 1 with completion `comp`, its records at 0x40 and 0x80. -/
def copyPkt (comp : Nat) : BitVec 512 := BitVec.ofNat 512 (0x82 + 2 ^ 19 + comp * 2 ^ 22 + 0x40 * 2 ^ 64 + 0x80 * 2 ^ 128)
def copySets : Vector LayoutSet 8 :=
  ((Vector.replicate 8 { base := 0, ext := Vector.replicate 5 0 }).set 0 { base := 0x200, ext := Vector.replicate 5 4 }).set 1
    { base := 0x300, ext := Vector.replicate 5 4 }
def copyOf (comp : Nat) : CopyOp :=
  { pkt := copyPkt comp, src := (layoutOf (layRec 4)).getD { etype := 0, rank := 1, repeatPad := false, swz := 0, padval := 0, stride := [], box := [] }
    dst := (layoutOf (layRec 4)).getD { etype := 0, rank := 1, repeatPad := false, swz := 0, padval := 0, stride := [], box := [] }
    sset := copySets[0], dset := copySets[1], slots := none }
/-- Queue 1023 with those records of boxes of `n` and `m` elements and four bytes at 0x200. -/
def copying (p : Option InProgress) (n m : Nat) : State :=
  let s := poke (poke (poke (queue0 .active p) 0x40 64 (layRec n)) 0x80 64 (layRec m)) 0x200 4 0x44332211
  { s with queues := s.queues.set 1023 { s.queues[1023] with sets := copySets } }
theorem witness_CopiesMoveTheirBox_taken :
    let s := copying none 4 4
    let big := copying none 4 5
    let bad := copying none 4 4
    (s.queue 1023).takes (copyPkt 0) = true ∧ s.engineFree = true ∧ copyBad (copyPkt 0) = none ∧ (s.span 0 .read (pktWord (copyPkt 0) 1) 1 64 matches .ok _ _) = true ∧
      (s.span 0 .read (pktWord (copyPkt 0) 2) 1 64 matches .ok _ _) = true ∧ (layoutOf (layRec 4)).isSome = true ∧ layoutOf (layRec 4 + 7) = none ∧
      copyAgrees (copyPkt 0) (copyOf 0).src (copyOf 0).dst = true ∧
      ((layoutOf (layRec 5)).map fun b => copyAgrees (copyPkt 0) (copyOf 0).src b) = some false ∧
      boxCount (copyOf 0).dst.box * esizeOf (copyOf 0).dst.etype * copyRecv (copyPkt 0) = 4 ∧
      (big.queue 1023).takes (copyPkt 0) = true ∧ (bad.span 0 .read 0x40000 1 64 matches .bad _ _ _) = true := by decide +kernel
theorem witness_CopiesMoveTheirBox_large :
    let box (k : Nat) := layoutOf (10 + 255 * 2 ^ 384 + 255 * 2 ^ 400 + k * 2 ^ 416 + 2 ^ 9)
    ((box 15).map fun b => boxCount b.box * esizeOf b.etype) = some 1048576 ∧ ((box 16).map fun b => boxCount b.box * esizeOf b.etype) = some 1114112 := by
  decide +kernel
/-- The moves of the copy find their bytes open, and are written. -/
def movesFit (s : State) : Bool :=
  match s.copyMoves 0 (copyOf 0) with
  | .ok _ ms => ms.length == 4 && (ms.all fun m => !s.frameHeld m.p && !s.claimedAt m.p 1)
      && (match State.writeMoves 0 1 ms s with | .ok _ => true | _ => false)
  | _ => false
def copyRuns (s : State) : Bool := match s.copyAll 1023 (copyOf 0) with | .ok _ _ => true | _ => false
theorem witness_CopiesMoveTheirBox_runs : copyRuns (copying (some (.copy (copyOf 0))) 4 4) = true := by decide +kernel
theorem witness_CopiesMoveTheirBox_moves : movesFit (copying (some (.copy (copyOf 0))) 4 4) = true := by decide +kernel
theorem witness_CopiesMoveTheirBox_complete :
    let s := copying (some (.copy (copyOf 0))) 4 4
    s.copyOf? 1023 = some (copyOf 0) ∧ (copyOf 0).needsSlot = false ∧ copyComp (copyOf 0).pkt = 0 ∧ copyFollow (copyOf 0).pkt = false ∧
      (copying none 4 4).copyOf? 1023 = none ∧ sigNamed (pktSig (copyOf 0).pkt) = false ∧ (s.queue 1023).phase = .active := by decide +kernel
/-- The same queue with its destination in the window of tile 0, which holds ring 0. -/
def ringing (r : Ring) : State :=
  let s := tabled 0x10000000047 (copying (some (.copy (copyOf 1))) 4 4)
  s.modTile 0 fun x => { x with sync := { x.sync with ring := x.sync.ring.set 0 (some r) } }
theorem witness_CopiesMoveTheirBox_slots :
    let s := ringing ring16
    let full := ringing { ring16 with fill := 15, res := 1 }
    s.copyOf? 1023 = some (copyOf 1) ∧ copyComp (copyOf 1).pkt = 1 ∧ (copyOf 1).slots = none ∧ (s.ringTiles 0 (copyOf 1) matches .ok _ [0]) = true ∧
      (s.tile 0).ringOf 0 = some ring16 ∧ ring16.fill + ring16.res < ring16.count ∧ (full.ringTiles 0 (copyOf 1) matches .ok _ [0]) = true ∧
      full.copyOf? 1023 = some (copyOf 1) := by decide +kernel
theorem witness_CopiesMoveTheirBox_posts :
    windowTile 0 0x10000000000 = some (0, 0) ∧ windowTile 4 0 = none ∧ user.inMemory user.pkg 4 0 16 = true ∧ user.inMemory user.pkg 4 0x163A0BC0000 16 = false ∧ windowTile 0 (0x10000000000 + 160 * 0x200000) = none ∧
      (user.tile 0).phase = .running ∧ ((onTile fun x => { x with phase := .idle }).tile 0).phase = .idle ∧
      barState (BitVec.ofNat 128 (2 ^ 62)) = 1 := by decide +kernel
def graph0 : Graph :=
  { queue := 1023, addr := 0x200, passMax := 2, pass := 0, sig := 0, next := 0, launches := [], snapops := 0, issued := 0, failed := none, stopped := false }
/-- The graph `g` of context 0 is in progress, its first record `r`, with the image of a kernel at 0. -/
def graphing (g : Graph) (r : Nat) : State :=
  let s := poke (poke (queue0 .active (some (.graph 0 true))) 0 0x60 imageBytes) 0x200 128 r
  { s with graphs := s.graphs.set 0 (some g) }
/-- The sequencer finds record `r` ready. -/
def readyAt (g : Graph) (r : Nat) : Bool :=
  match (graphing g r).record 0 with
  | .ready h x => h == g && x == r
  | _ => false
def graphPkt (low n : Nat) : BitVec 512 := BitVec.ofNat 512 (0x86 + 0x200 * 2 ^ 64 + n * 2 ^ 128 + low)
theorem witness_GraphRecordsAreCarriedOut_packet :
    let s := queue0 .active none
    (s.queue 1023).takes (graphPkt 0 2) = true ∧ fld (graphPkt 0 2).toNat 8 56 = 0 ∧ fld (graphPkt 0 2).toNat 160 288 = 0 ∧
      fld (graphPkt 0 2).toNat 64 7 = 0 ∧ (pktSig (graphPkt 0 2)).toNat % 8 = 0 ∧ s.graphs[0] = none ∧
      ((graphing graph0 5).graphs[0]).isSome = true ∧ ((queue0 .active (some (.graph (graphPkt 0 2) false))).queue 1023).prog = some (.graph (graphPkt 0 2) false) := by
  decide +kernel
theorem witness_GraphRecordsAreCarriedOut_fates :
    ((queue0 .active none).record 0 matches .none) = true ∧ ((graphing graph0 0).record 0 matches .bad) = true ∧
      ((graphing graph0 6).record 0 matches .bad) = true ∧ ((graphing { graph0 with next := 65536 } 5).record 0 matches .bad) = true := by decide +kernel
/-- A LAUNCH record: the image at 0, no arguments, GX, GY and GD 1. -/
def launchRec : Nat := 1
def jumpRec (cond : Nat) : Nat := 3 + cond * 2 ^ 16 + 65535 * 2 ^ 32 + 1 * 2 ^ 256 + 4 * 2 ^ 768
theorem witness_GraphRecordsAreCarriedOut_launch :
    readyAt graph0 launchRec = true ∧ recType launchRec = 1 ∧ graph0.launches.length < 32 ∧
      ((graphing graph0 launchRec).span 0 .read (recWord launchRec 2) (argN (recWord launchRec 3) + 1) (64 * argN (recWord launchRec 3)) matches .ok _ _) = true ∧
      (match (graphing graph0 launchRec).readImage 0 (recWord launchRec 1) with | .ok _ x => x.ok (argMask (recWord launchRec 3)) | _ => false) = true ∧
      readyAt { graph0 with launches := List.replicate 32 0 } launchRec = true := by decide +kernel
theorem witness_GraphRecordsAreCarriedOut_others :
    readyAt graph0 (2 + 2 * 2 ^ 16) = true ∧ readyAt graph0 (jumpRec 0) = true ∧ readyAt graph0 (jumpRec 1) = true ∧ readyAt graph0 (jumpRec 3) = true ∧
      (graphing graph0 0).ctxs[0].events &&& recTest (jumpRec 1) = 0 ∧ readyAt graph0 (4 + 2 * 2 ^ 16 + 255 * 2 ^ 64) = true ∧
      readyAt graph0 (4 + 3 * 2 ^ 16) = true ∧ readyAt graph0 5 = true ∧ readyAt graph0 (5 + 2 ^ 16 + 1 * 2 ^ 768) = true ∧
      readyAt { graph0 with pass := 1 } (5 + 2 ^ 16) = true ∧ readyAt { graph0 with snapops := 1 } 5 = true ∧ sigNamed graph0.sig = false ∧
      readyAt { graph0 with passMax := 0, pass := 0xFFFFFFFF } (5 + 2 ^ 16) = true := by decide +kernel
/-- The page command registers with this much in them, context 0 LIVE with page 0 mapped by `pte`. -/
def pageCmd (a0 a1 : W64) : State :=
  { (tabled pteAll (live id id)) with page := { State.reset.page with arg0 := a0, arg1 := a1 } }
def pageRun (op : BitVec 4) : State :=
  let s := pageCmd 0 0
  { s with page := { s.page with run := some (op, 0, 0, 0) } }
theorem witness_PageCommandsAct_setroot :
    let formed (s : State) : Prop := fld s.page.arg0.toNat 0 12 = 0 ∧ fld s.page.arg0.toNat 55 9 = 0 ∧ (pteDie s.page.arg0).toNat ≤ 4 ∧ s.page.arg1 = 0
    let ok := pageCmd 0x40000000010000 0
    let busy : State := { ok with launches := [launch0 .running] }
    (pageRun 1).page.run.isSome = true ∧ ok.page.run = none ∧ ok.page.late = false ∧ formed ok ∧ ¬ formed (pageCmd 0x50000000010000 0) ∧
      ¬ formed (pageCmd 0x10000 1) ∧ ¬ formed (pageCmd 0x10800 0) ∧ tableOk (pteDie ok.page.arg0) (4096 * ptePfn ok.page.arg0) = true ∧
      ok.launchBound 0 = false ∧ busy.launchBound 0 = true := by decide +kernel
theorem witness_PageCommandsAct_others :
    let f (a : W64) := (pageCmd a 0).homeOperandBad (pageCmd a 0).page.arg0 65536
    let r : State := { (pageCmd 0 1) with snaps := State.reset.snaps.set 5 { State.reset.snaps[5] with
      ranges := State.reset.snaps[5].ranges.set 15 { State.reset.snaps[5].ranges[15] with en := true } } }
    (0x1000#64).toNat % 4096 = 0 ∧ (0x1800#64).toNat % 4096 ≠ 0 ∧ (1#64).toNat < 2 ∧ f 0x10000 = false ∧ f 0x1000 = true ∧
      (pageCmd 0 1).frameInRange 0 0 = false ∧ r.frameInRange 0 0 = true ∧ r.frameInRange 0 0x10000 = false ∧ (pageCmd 0 1).store.attr.wf = true ∧
      (pageCmd 0x200000 0).homeOperandBad 0x200000 0x200000 = false ∧ fld (0x3E80010#64).toNat 0 5 = 16 ∧ fld (0x3E80010#64).toNat 16 10 = 1000 ∧
      fld (0x3E80010#64).toNat 5 11 = 0 ∧ fld (0x3E80010#64).toNat 26 38 = 0 ∧ fld (0x3E90010#64).toNat 16 10 = 1001 ∧
      fld (0x100004#64).toNat 0 5 = 4 ∧ fld (0x100004#64).toNat 16 10 = 16 := by decide +kernel
theorem witness_PageCommandsAct_complete :
    let used : State := (pageRun 2).modTile 0 fun x => { x with ld := { x.ld with pending := [load1 .vector 3 512 (.spad 0)] } }
    (pageCmd 0 0).page.run = none ∧ (pageRun 1).page.run = some (1, 0, 0, 0) ∧ (pageRun 1).page.late = false ∧
      used.page.run = some (2, 0, 0, 0) ∧ used.usesRange 0 0 0 = true := by decide +kernel
/-- Page 0 of context 0 counted at its home, its leaf of mode MIGRATE. -/
def migrating (counts : Vector Nat 4) (moves : List W64) (ph : MigPhase) (reserve : List (Nat × Nat)) : State :=
  let s := tabled (pteSetMode pteAll modeMigrate) (live id fun x => { x with migK := 4, migFreeze := 16 })
  { s with store := { s.store with migs := [{ ctx := 0, va := 0, size := 4096, home := 0, counts := counts, moves := moves, phase := ph }]
                                   reserve := s.store.reserve.set 3 reserve } }
theorem witness_PageCommandsAct_migration :
    let s := migrating #v[0, 0, 0, 16] [] .stable [(0x100000, 4096)]
    let f := migrating #v[0, 0, 0, 16] [0, 0, 0, 0] .stable []
    (pageCmd 0 0).mig? 0 0 = none ∧ (s.mig? 0 0).isSome = true ∧ (s.mig? 0 0).map (fun m => m.counts[3]) = some (2 ^ (s.ctx 0).migK) ∧
      (s.mig? 0 0).map (fun m => decide (m.counts[2] < 2 ^ (s.ctx 0).migK)) = some true ∧ (s.leavesOf 0 0).isSome = true ∧
      (match s.walk 0 0 with | .ok (e, _) => pteMode e == modeMigrate | _ => false) = true ∧
      (f.mig? 0 0).map (fun m => (m.recent f.fcc).length) = some 4 ∧ (s.mig? 0 0).map (fun m => (m.recent s.fcc).length) = some 0 ∧
      takeFrame 4096 (s.store.reserve[3]) = some (0x100000, []) := by decide +kernel
theorem witness_PageCommandsAct_moves :
    let s := migrating #v[0, 0, 0, 16] [] (.moving 5 3 0x100000) []
    let f (fcc : W64) : State := { (migrating #v[0, 0, 0, 16] [] (.frozen 9 0 0x14000 [pteSetMode pteAll modeMigrate]) []) with fcc := fcc }
    (s.mig? 0 0).map (fun m => m.phase) = some (.moving 5 3 0x100000) ∧ (s.leavesOf 0 0).isSome = true ∧ (s.walk 0 0 matches .ok _) = true ∧
      ((f 8).mig? 0 0).map (fun m => m.phase) = some (.frozen 9 0 0x14000 [pteSetMode pteAll modeMigrate]) ∧ (f 8).fcc.toNat < 9 ∧ 9 ≤ (f 9).fcc.toNat := by
  decide +kernel

/-- Range 15 of context 0 with these fields, the shadow entries `es`, and the operations `ops` at the sequencer. -/
def ranging (r : SnapRange) (es : List Shadow) (ops : List SnapOp) : State :=
  let s := live id id
  { s with snaps := s.snaps.set 0 { s.snaps[0] with ranges := s.snaps[0].ranges.set 15 r }, store := { s.store with shadows := es }, snapOps := ops }
def range15 (en : Bool) (gens : List Nat) : SnapRange := { en := en, err := false, die := 4, base := 2, sizem1 := 0, gens := gens }
def entry15 (level : Nat) (ph : ShadowPhase) : Shadow :=
  { ctx := 0, range := 15, home := 4, line := 0x20000 / 128, level := level, data := 7, stamp := 3, phase := ph }
def snapOp (form : Nat) (v : W64) (rej : Option W64) : SnapOp := { ctx := 0, who := .register, form := form, operand := v, rejecting := rej }
theorem witness_SnapshotsAct_registers :
    let awaiting := ranging (range15 true []) [entry15 1 .awaiting] []
    let open_ := ranging (range15 true [1]) [] []
    let fresh := ranging (range15 false []) [] []
    let new : SnapRange := { range15 false [] with en := true, die := 3, base := 0xFFFFFFFFF }
    awaiting.awaits 0 15 = true ∧ open_.awaits 0 15 = false ∧ ((open_.snap 0).range 15).depth ≠ 0 ∧ ((open_.snap 0).range 15).en = true ∧
      fresh.awaits 0 15 = false ∧ ((fresh.snap 0).range 15).depth = 0 ∧ ((fresh.snap 0).range 15).en = false ∧ fresh.rangeRefused 0 15 new = true ∧
      fresh.rangeRefused 0 15 { range15 true [] with die := 3 } = false := by decide +kernel
/-- Operation `op` is next for context 0, and nothing stops it. -/
def nextOp (s : State) (op : SnapOp) : Bool := s.firstOp 0 == some op && op.ctx == 0 && op.rejecting.isNone && (s.snapCause op).isNone
theorem witness_SnapshotsAct_operations :
    let s (gens : List Nat) (op : SnapOp) := ranging (range15 true gens) [entry15 1 .held, entry15 2 .held] [op]
    namedRanges 0x8000 = [15] ∧ nextOp (s [1, 2, 3] (snapOp 0 0x8000 none)) (snapOp 0 0x8000 none) = true ∧
      nextOp (s [1, 2] (snapOp 1 0x8000 none)) (snapOp 1 0x8000 none) = true ∧ nextOp (s [1, 2] (snapOp 2 0x8000 none)) (snapOp 2 0x8000 none) = true ∧
      nextOp (s [] (snapOp 3 15 none)) (snapOp 3 15 none) = true ∧ (s [] (snapOp 0 0 none)).firstOp 0 = some (snapOp 0 0 none) ∧
      (s [] (snapOp 0 0 none)).snapCause (snapOp 0 0 none) = some 0x16 ∧ (s [] (snapOp 1 0x8000 none)).snapCause (snapOp 1 0x8000 none) = some 0x15 ∧
      (s [] (snapOp 2 0x8000 (some 0))).firstOp 0 = some (snapOp 2 0x8000 (some 0)) ∧ user.firstOp 0 = none ∧ (4#3).toNat < 5 := by decide +kernel
theorem witness_SnapshotsAct_ends :
    let w : SnapOp := { ctx := 0, who := .tile 0 false 3, form := 3, operand := 15, rejecting := none }
    let s := (ranging (range15 true []) [] [w]).modTile 0 fun x => { x with ctl := { x.ctl with wait := some (.snapshot 3 (qe 0) user.cur.bank 0) } }
    let r : State := { (ranging (range15 true []) [] [snapOp 2 0x8000 (some 0)]) with fcc := 12500000 }
    w.who = .tile 0 false 3 ∧ (s.tile 0).ctx = w.ctx ∧ (s.tile 0).ctl.wait = some (.snapshot 3 (qe 0) user.cur.bank 0) ∧
      r.firstOp 0 = some (snapOp 2 0x8000 (some 0)) ∧ 12500000 ≤ (r.fcc - 0).toNat ∧ (r.ctx 0).phase = .live ∧
      (({ r with fcc := 12499999 } : State).fcc - 0).toNat < 12500000 := by decide +kernel
theorem witness_SnapshotsAct_lines :
    let s := ranging (range15 true [1]) [] []
    let g := ranging (range15 true [1]) [entry15 1 .freeing] []
    (s.homeOp 0 s.pkg 0 0 (.write 1 5) matches .ok _) = true ∧ (g.homeOp 0 g.pkg 4 0x20000 (.write 1 5) matches .hold) = true ∧
      (s.homeOp 0 s.pkg 4 0x20000 (.write 1 5) matches .refuse 0x14) = true ∧ s.rangeAt 4 0x20000 = some (0, 15) := by decide +kernel
/-- Port 15 as `f` leaves it. -/
def portOf (f : Port → Port) : State := State.reset.modPort 15 f
def upPort (ph : PortPhase) (step : Nat) : State := portOf fun p => { p with phase := ph, step := step }
theorem witness_PortsComeUp_steps :
    (State.reset.port 15).phase = .dark ∧ ((upPort .locking 1).port 15).phase ≠ .dark ∧ ((upPort .locking 1).port 15).inStep 1 = true ∧
      ((upPort .retraining 1).port 15).inStep 1 = true ∧ ((upPort .failed 1).port 15).inStep 1 = false ∧ ((upPort .aligning 2).port 15).inStep 2 = true ∧
      (8#8).toNat ≤ 8 ∧ (100#8).toNat ≤ 100 ∧ ¬ ((9#8).toNat ≤ 8 ∧ (100#8).toNat ≤ 100) ∧ ¬ ((8#8).toNat ≤ 8 ∧ (101#8).toNat ≤ 100) ∧
      ((upPort .locking 1).port 15).inStep 2 = false ∧ ((upPort .trained 3).port 15).inStep 3 = true ∧ ((upPort .trained 4).port 15).inStep 3 = false ∧
      ((upPort .trained 4).port 15).inStep 4 = true ∧ ((upPort .trained 5).port 15).inStep 4 = false ∧ ((upPort .trained 5).port 15).inStep 5 = true ∧
      ((upPort .trained 4).port 15).inStep 5 = false := by decide +kernel
/-- Switch 3 as `f` leaves it, every row clear. -/
def switchOf (f : Switch → Switch) : State := State.reset.modSwitch 3 fun x => f { x with row := Vector.replicate 8 none }
theorem witness_PortsComeUp_switch :
    let v : W64 := 0xF7
    let s := switchOf id
    let worn := switchOf fun x => { x with wear := Vector.replicate 80 8000000, spares := 1 }
    let spent := switchOf fun x => { x with wear := Vector.replicate 80 8000000, spares := 0 }
    let lit : State := { s with ports := s.ports.set 15 { s.ports[15] with phase := .locking } }
    v.toNat < 256 ∧ v.getLsbD 3 = false ∧ ¬ ((0x8#64).toNat < 256 ∧ (0x8#64).getLsbD 3 = false) ∧ s.switches[3].busy = none ∧
      (switchOf fun x => { x with busy := some (true, 0, 0, false) }).switches[3].busy ≠ none ∧ lit.litColumn 3 3 = true ∧ s.litColumn 3 7 = false ∧
      s.switches[3].row[7] = none ∧ (∀ r : Fin 8, s.switches[3].row[r] ≠ some 7) ∧ s.switches[3].wear[s.switches[3].wearIdx 7 7].toNat < 8000000 ∧
      8000000 ≤ spent.switches[3].wear[spent.switches[3].wearIdx 7 7].toNat ∧ spent.switches[3].spares = 0 ∧ worn.switches[3].spares ≠ 0 := by
  decide +kernel
theorem witness_PortsComeUp_cells :
    let s (r : Bool) := switchOf fun x => { x with busy := some (true, 7, 7, r) }
    (s false).switches[3].busy = some (true, 7, 7, false) ∧ (s true).switches[3].busy = some (true, 7, 7, true) := by decide +kernel
/-- Port 15 ACTIVE as `f` leaves it, in an FC. -/
def carrier (fcc : W64) (f : Port → Port) : State := { (portOf fun p => f { p with phase := .active, outd := PortDir.init, ind := PortDir.init }) with fcc := fcc }
theorem witness_RowsAndLanes_rows :
    let d := carrier 128 fun p => { p with darkening := true }
    let g : State := { (portOf fun p => { p with phase := .trained, goingActive := true }) with fcc := 64 }
    let bad (n : Nat) := carrier 0 fun p => { p with badRows := n }
    d.fcc.toNat % 64 = 0 ∧ (d.port 15).darkening = true ∧ g.fcc.toNat % 64 = 0 ∧ (g.port 15).darkening = false ∧ (g.port 15).goingActive = true ∧
      (carrier 63 id).fcc.toNat % 64 ≠ 0 ∧ ((carrier 63 id).port 15).carrying = true ∧ (State.reset.port 15).carrying = false ∧
      (readRow ((bad 15).port 15).ind (BitVec.allOnes 1600)).2 = none ∧ (readRow ((bad 15).port 15).ind (BitVec.allOnes 1600)).1 = none ∧
      15 ≤ ((bad 15).port 15).badRows ∧ ((bad 14).port 15).badRows < 15 ∧ ((bad 14).port 15).carrying = true ∧
      [1#8, 2, 3, 4, 5].length = 5 := by decide +kernel
theorem witness_RowsAndLanes_repairs :
    let w (asked : Nat) : RepairWait := { row := 3, slot := true, since := 0, asked := asked, due := false }
    let s (fcc : W64) (asked : Nat) := carrier fcc fun p => { p with flight := 100, waits := [w asked] }
    ((s 333 0).port 15).waits = [w 0] ∧ ((s 333 0).port 15).ind.onSpare = 7 ∧ ¬ 332 * (0 + 1) < ((s 332 0).fcc - 0).toNat ∧
      332 * (0 + 1) < ((s 333 0).fcc - 0).toNat ∧ 332 * (2 + 1) < ((s 997 2).fcc - 0).toNat ∧ ¬ 332 * (2 + 1) < ((s 996 2).fcc - 0).toNat := by
  decide +kernel
theorem witness_RowsAndLanes_lanes :
    let s := carrier 0 id
    let b := carrier 0 fun p => { p with ind := { p.ind with onSpare := 6 } }
    let r (fcc : W64) := carrier fcc fun p => { p with outd := { p.outd with retrain := some (6, 0) } }
    ((s.port 15).dir false).onSpare = 7 ∧ ((s.port 15).dir false).retrain = none ∧ ((s.port 15).dir false).posOf 6 = some 6 ∧
      ((b.port 15).dir false).onSpare ≠ 7 ∧ (b.port 15).carrying = true ∧ (((r 0).port 15).dir true).retrain = some (6, 0) ∧
      ((r 1249999).fcc - 0).toNat < 1250000 ∧ 1250000 ≤ ((r 1250000).fcc - 0).toNat := by decide +kernel
theorem witness_RowsAndLanes_clock :
    let s : State := (live id id).modPort 15 fun p => { p with phase := .degraded, out := [(5, false, 0, 1)] }
    (s.port 15).carrying = true ∧ (s.port 15).out = [(5, false, 0, 1)] ∧ (s.ctx 0).phase = .live := by decide +kernel
def req0 (ph : ReqPhase) (k : ReqKind) : Request :=
  { id := 9, phase := ph, kind := k, owner := .other, ctx := 0, cmp := false, spkg := 0, sdie := 0, pkg := 0, die := 4, pa := 0x80, len := 8, data := 7,
    elems := [], op := none, wide := true, tag := 0, reiss := 0, since := 0, departed := 0, waited := 0, reply := none }
/-- Context 0 LIVE with the request `q` in the list, in an FC. -/
def asking (fcc : W64) (q : Request) : State :=
  let s := live id id
  { s with fcc := fcc, remote := { s.remote with reqs := [q] } }
def slotted (m : W64) (ports : List Nat) (s : State) : State :=
  { s with remote := { s.remote with pairs := [{ src := 0, pkg := 0, die := 4, ports := ports, smask := m, rtt := 0, last := 0 }] } }
theorem witness_RemoteRequestsAct_leave :
    let q := req0 .held .store
    let s := asking 5 q
    let u := slotted 0x20 [] (asking 5 (req0 .queued .store))
    user.req 9 = none ∧ s.req 9 = some q ∧ s.acceptable q = true ∧ q.ofBuffer = false ∧ (slotted 1 [15] s).acceptable q = false ∧
      u.req 9 = some (req0 .queued .store) ∧ (u.pair 0 0 4).smask.getLsbD (u.fcc.toNat % 64) = true ∧ (u.pair 0 0 4).last.toNat < u.fcc.toNat ∧
      (slotted 0x10 [] u).remote.pairs.map (fun e => e.smask.getLsbD (u.fcc.toNat % 64)) = [false] := by decide +kernel
theorem witness_RemoteRequestsAct_serve :
    let l := asking 5 (req0 .sent .load)
    let p := asking 5 { (req0 .waiting (.post 1 0)) with pa := 0x80 }
    let c : CachedReply := { spkg := 0, sdie := 0, tag := 0, reply := { stat := 0, aux := 0, data := 3 }, sentAt := 0 }
    let a : ReqKind := .atomic { op := 0, wide := true, operand := 5, compare := 0 }
    let h : State := { (asking 5 (req0 .sent a)) with remote := { (asking 5 (req0 .sent a)).remote with cache := State.reset.remote.cache.set 4 [c] } }
    (l.serve (req0 .sent .load) matches .ok _) = true ∧ ReqKind.load.once = false ∧ (req0 .sent .load).reply = none ∧ a.once = true ∧
      p.cached (req0 .waiting (.post 1 0)) = none ∧ (p.serve (req0 .waiting (.post 1 0)) matches .ok _) = true ∧ p.cacheRoom 4 = true ∧
      h.cached (req0 .sent a) = some c ∧ (req0 .sent a).pkg = h.pkg := by decide +kernel
/-- A MOVING page of home 0 holds every access to its frame. -/
def heldFrame : State :=
  let s := migrating #v[0, 0, 0, 16] [] (.moving 5 3 0x100000) []
  { s with remote := { s.remote with reqs := [{ (req0 .sent .load) with die := 0 }] } }
theorem witness_RemoteRequestsAct_held :
    (heldFrame.serve { (req0 .sent .load) with die := 0 } matches .hold) = true ∧ heldFrame.cached { (req0 .sent .load) with die := 0 } = none ∧
      heldFrame.req 9 = some { (req0 .sent .load) with die := 0 } := by decide +kernel
theorem witness_RemoteRequestsAct_limits :
    let r (n : Nat) : Request := { (req0 .sent .load) with reiss := n }
    let w (n : Nat) : Request := { (req0 .waiting .load) with waited := n }
    let s (fcc : W64) := slotted 1 [] (asking fcc (r 0))
    let d : State := slotted 1 [15] (asking 12500000 (req0 .held .load))
    ((s 575).pair 0 0 4).bound + 64 = 576 ∧ 576 ≤ ((s 576).fcc - 0).toNat ∧ ((s 575).fcc - 0).toNat < 576 ∧ (r 2).reiss < 3 ∧ 3 ≤ (r 3).reiss ∧
      ((s 576).ctx 0).phase = .live ∧ (w 12499999).waited + ((asking 1 (w 12499999)).fcc - 0).toNat = 12500000 ∧
      (asking 1 (w 12499999)).req 9 = some (w 12499999) ∧ d.carries 15 = false ∧ (d.pair 0 0 4).ports = [15] ∧ 12500000 ≤ (d.fcc - 0).toNat ∧
      12500000 ≤ (d.fcc - d.lostAt 15).toNat := by decide +kernel
def aggKey : AggKey := { ctx := 0, pkg := 0, die := 4, window := 0, op := none, wide := true }
def aggEl (t : TileNo) : AggElement := { pa := 8, value := 3, tile := t, launch := 0 }
/-- The Bellows of die 3 as `f` leaves it, in an FC. -/
def blowing (fcc : W64) (f : Bellows → Bellows) : State :=
  let s := live id id
  { s with fcc := fcc, remote := { s.remote with bellows := s.remote.bellows.set 3 (f s.remote.bellows[3]) } }
def buffer63 (ph : BufPhase) (n : Nat) (b : Bellows) : Bellows :=
  { b with bufs := b.bufs.set 63 { phase := ph, key := aggKey, elems := List.replicate n (aggEl 639), first := 0 } }
theorem witness_BellowsAndEndpointsAct_elements :
    let s := blowing 5 fun b => { b with arriving := [(aggKey, aggEl 639)] }
    (s.bellows 3).waiting = [] ∧ (s.bellows 3).flush = [] ∧ (s.bellows 3).arriving = [(aggKey, aggEl 639)] ∧ dieOf (aggEl 639).tile = 3 ∧
      (∀ n : Fin 64, (s.bellows 3).bufs[n].phase = .free) ∧
      (((blowing 5 (buffer63 .open_ 15)).bellows 3).find fun x => x.phase == .open_ && x.key == aggKey && decide (x.elems.length < 16)) = some 63 := by
  decide +kernel
theorem witness_BellowsAndEndpointsAct_buffers :
    let o (fcc : W64) := (blowing fcc (buffer63 .open_ 1)).bellows 3
    let q : Request := { (req0 .held .aggregate) with owner := .buffer 3 63, sdie := 3 }
    let l := blowing 5 (buffer63 .leaving 1)
    let r : State := { l with remote := { l.remote with reqs := [q] } }
    (o 512).bufs[63].phase = .open_ ∧ (o 512).age ≤ ((512#64) - (o 512).bufs[63].first).toNat ∧ ((511#64) - (o 512).bufs[63].first).toNat < (o 511).age ∧
      (r.bellows 3).bufs[63].phase = .leaving ∧ r.bufReq 3 63 = some q ∧ r.acceptable q = true ∧
      ((blowing 5 (buffer63 .sent 1)).bellows 3).bufs[63].phase = .sent ∧ (State.reset.bellows 3).bufs[63].phase = .free := by decide +kernel
/-- Work ring 3 of context 0 with a write of 8 bytes from 0x80 in slot 0 of its ring at 0x400. -/
def descWord : Nat := 0x180 + 0x80 * 2 ^ 64 + 7 * 2 ^ 192
def working : State :=
  let s := poke (poke (queue0 .dead none) 0x100 8 1) 0x400 64 descWord
  { s with remote := { s.remote with rings := s.remote.rings.set 3 (s.queues[1023].created 0 0x100 0x400 4) } }
theorem witness_BellowsAndEndpointsAct_ring :
    let x := working.workRing 0 3
    x.phase = .active ∧ (working.remote.rmas.filter fun m => m.ctx == 0).length < 4096 ∧ (working.indices x matches .ok _ (0, 1)) = true ∧
      (match working.hRead 0 (x.slotAt 0) 64 with | .ok _ b => b == descWord && fld b 7 1 == 1 | _ => false) = true ∧
      (match working.hWrite 0 (x.slotAt 0) 8 0 with
       | .ok s1 _ => (match s1.hWrite 0 (x.qcb + 8) 8 1 with | .ok _ _ => true | _ => false)
       | _ => false) = true ∧ (State.reset.workRing 0 3).phase = .dead := by decide +kernel
theorem witness_BellowsAndEndpointsAct_descriptors :
    let d : BitVec 512 := BitVec.ofNat 512 (descWord - 0x80)
    descBad d = false ∧ descBad 0 = true ∧ descBad (BitVec.ofNat 512 (0x100 + 2 ^ 30 * 2 ^ 192)) = true ∧
      descBad (BitVec.ofNat 512 (0x200 + (2 ^ 30 - 1) * 2 ^ 192)) = false ∧ fld d.toNat 8 2 = 1 ∧
      (working.rmaSpan 0 (pktWord d 1) (descLen d) .read matches .ok _ _) = true ∧ (working.rmaSpan 0 0x200000 (descLen d) .read matches .bad _ _ _) = true := by
  decide +kernel
/-- An outgoing access `m` of context 0 is in flight. -/
def flying (op done : Nat) : State :=
  let m : Rma := { id := 2, ctx := 0, ring := 3, desc := BitVec.ofNat 512 (op * 256 + 0x80 * 2 ^ 64 + 7 * 2 ^ 192), done := done }
  { working with remote := { working.remote with rmas := [m] } }
theorem witness_BellowsAndEndpointsAct_responses :
    (working.remote.rmas.find? fun x => x.id == 2) = none ∧
      ((flying 2 4).remote.rmas.find? fun x => x.id == 2).map (fun x => (fld x.desc.toNat 8 2, x.done + 4, descLen x.desc)) = some (2, 8, 8) ∧
      ((flying 1 0).remote.rmas.find? fun x => x.id == 2).map (fun x => (fld x.desc.toNat 8 2, (flying 1 0).signalHeld x.ctx (pktSig x.desc))) = some (1, false) := by
  decide +kernel
def placed (s : State) : Bool := match s.rmaPlace 0 0x84 [1, 2, 3, 4] with | .ok _ => true | _ => false
theorem witness_BellowsAndEndpointsAct_places : placed (flying 2 4) = true := by decide +kernel
theorem witness_BellowsAndEndpointsAct_keys (w : Bool) (len : Nat) (off : W64) (data : List Byte) :
    (Config.remoteKey 0 0 = none ∨ ∃ k, Config.remoteKey 0 0 = some k) ∧
      ((w = false ∨ len < off.toNat + data.length) ∨ (w = true ∧ off.toNat + data.length ≤ len)) := by
  constructor
  · cases Config.remoteKey 0 0 <;> simp
  · cases w <;> simp; omega
/-- Island 10 as `f` leaves it, in a module that is on. -/
def islanded (f : Island → Island) (s : State) : State :=
  { s with manage := { s.manage with on := true, islands := s.manage.islands.set 10 (f s.manage.islands[10]) } }
theorem witness_IslandsAct_boundary (s : State) (i : Fin 16) (h : ∀ t, s.tile t = Tile.blank) (hf : s.fabric.flits = [])
    (hr : s.fabric.rounds = []) (hu : s.fabric.sentUp = []) : s.atRatioBoundary i = true := by
  have p : Tile.blank.tx.promise = 0 := rfl
  have q : Tile.blank.tx.cmd = none := rfl
  have r : Tile.blank.holdsLaunch = false := rfl
  simp [State.atRatioBoundary, State.collectiveIn, State.collective, State.reached, h, p, q, r, hf, hr, hu, BitVec.ult]
theorem witness_IslandsAct_at_rest (f : Island → Island) : (islanded f State.reset).atRatioBoundary 10 = true :=
  witness_IslandsAct_boundary _ _ (fun t => by simp [islanded, State.tile, State.reset]) rfl rfl rfl
theorem witness_IslandsAct_between (s : State) (h : (s.tile 639).phase = .running) (hl : s.launches = []) : s.atRatioBoundary 10 = false := by
  have m : (639 : TileNo) ∈ tilesOf 10 := by
    rw [tilesOf, if_pos (by decide)]
    exact List.mem_filter.mpr ⟨List.mem_finRange _, by decide⟩
  simp only [State.atRatioBoundary, Bool.and_eq_false_iff, Bool.not_eq_false']
  exact .inr (List.any_eq_true.mpr ⟨_, m, by simp [Tile.holdsLaunch, h, State.bindsNow, State.launchOf, State.launch, hl]⟩)
theorem witness_IslandsAct_ratios :
    let h := islanded (fun x => { x with held := some 16 }) State.reset
    tileIsland (10#4).toNat = true ∧ ((islanded id State.reset).island 10).held = none ∧ (h.island 10).held = some 16 ∧ min 40 (ratioLimit 0) = 22 ∧
      (h.island 10).ncur ≠ 22 ∧ (h.island 10).vset ≤ 125 ∧ ((h.setTile 639 { Tile.blank with phase := .running }).tile 639).phase = .running := by
  decide +kernel
theorem witness_IslandsAct_supply :
    let s := islanded (fun x => { x with vset := 125 }) State.reset
    (∀ j, (s.island j).vwant = none) ∧ (s.island 10).vset = 125 ∧ (∀ j, (s.island j).ncur ≤ ratioLimit 90) ∧ 90 ≤ 125 := by decide +kernel
/-- A module that is on with power for the islands that `f` names. -/
def lit (f : Fin 16 → Bool) : State :=
  { State.reset with manage := { State.reset.manage with on := true, islands := Vector.ofFn fun i => { State.reset.manage.islands[i] with powered := f i } } }
theorem witness_IslandsAct_power :
    let s := lit fun i => i == 12
    let a := lit fun i => i != 0
    (s.island 13).powered = false ∧ (∀ j ∈ islandsBefore 13, (s.island j).powered = true) ∧ ¬ (∀ j ∈ islandsBefore 2, (s.island j).powered = true) ∧
      (a.island 10).powered = true ∧ (∀ j ∈ islandsBehind 10, (a.island j).powered = false) ∧ tileIsland 0 = true ∧ tileIsland 10 = true := by
  decide +kernel
theorem witness_IslandsAct_idle (t : TileNo) :
    (({ lit fun i => i != 0 with tiles := Vector.replicate 640 { Tile.blank with phase := .idle } } : State).tile t).phase = .idle := by
  simp [State.tile]
theorem witness_IslandsAct_loop :
    (∃ d : Fin 4, 115 ≤ (#v[0, 0, 0, 115] : Vector Nat 4)[d]) ∧ (∀ d : Fin 4, (#v[0, 0, 0, 104] : Vector Nat 4)[d] < 105) := by decide +kernel
/-- The module with a mailbox command. -/
def mailed (c : Option (BitVec 4)) (a0 : W64) (a1 : W32) : State :=
  { State.reset with manage := { State.reset.manage with on := true, cmd := c, arg0 := a0, arg1 := a1 } }
theorem witness_ModuleCommandsAct :
    State.reset.manage.on = false ∧ (mailed none 0 0).manage.on = true ∧ (∀ k, k ≤ 9 → 1 ≤ k → (0x001#10).getLsbD k = false) ∧
      (0x002#10).getLsbD 1 = true ∧ (mailed (some 1) 0x40000000001000 128).manage.cmd = some 1 ∧ bufferOk 0x40000000001000 128 = true ∧
      bufferOk 0x50000000001000 128 = false ∧ bufferOk 0x20 128 = false ∧ (mailed (some 3) 0 0).manage.cmd ≠ some 2 ∧ bufferOk 0 64 = true := by
  decide +kernel
theorem witness_ModuleCommandsAct_image (l : List Byte) : Config.signatureOk l = true ∨ Config.signatureOk l = false := by
  cases Config.signatureOk l <;> simp
theorem witness_HostAccessesAct :
    let s := live id id
    let d : List Byte := [1, 2, 3, 4, 5, 6, 7, 8]
    d.length ≤ 128 ∧ (0x78#64).toNat % 128 + d.length ≤ 128 ∧ (s.hostPart .physical 0x78 d).isSome = true ∧
      (heldFrame.hostPart .physical 0x78 d).isNone = true ∧ s.hostPhys (.virtual 0) 0x78 = none ∧
      (match (tabled 0x100001FF047 s).hostPhys (.virtual 0) 0x78 with | some p => barrierPlace p | none => false) = true ∧
      fld (0x5#64).toNat 0 3 = 5 ∧ fld (0xF05#64).toNat 0 4 = 5 ∧ (mailed (some 1) 0 0).manage.cmd.isSome = true ∧ (mailed none 0 0).manage.cmd = none ∧
      fld (3#64).toNat 0 4 ≤ 3 := by decide +kernel
theorem witness_HostAccessesAct_order :
    let s := live id id
    let w : HostPost := .memory .physical 0x78 [1]
    let b : State := { s with posted := [w] }
    let h : State := { heldFrame with posted := [w] }
    let d : List Byte := List.replicate 9 5
    b.behind .physical = true ∧ b.behind (.virtual 0) = false ∧ (s.hostStore .physical 0x78 [1]).isSome = true ∧
      (heldFrame.hostStore .physical 0x78 [1]).isNone = true ∧ 128 < (0x78#64).toNat % 128 + d.length ∧ (0x78#64).toNat + d.length ≤ 2 ^ 64 ∧
      (({ b with posted := [] } : State).hostPostNow w).isSome = true ∧ (({ h with posted := [] } : State).hostPostNow w).isNone = true := by
  decide +kernel
theorem witness_HostAccessesAct_lines :
    let full := ranging (range15 true [9]) [] []
    let busy := ranging (range15 true [9]) [{ entry15 1 .awaiting with line := 1 }] []
    let a : W64 := 0x40000000020000
    let d : List Byte := [1, 2, 3, 4, 5, 6, 7, 8]
    let p := physAt full.pkg 4 0x20000
    let out (s : State) (p : Phys) := s.homeOp 0 p.pkg p.die p.pa.toNat (.write 8 (ofBytes d))
    full.hostPhys .physical a = some p ∧ barrierPlace p = false ∧ (full.canReach hubDie p 8 a matches .ok _ _) = true ∧
      (out full p matches .refuse 0x14) = true ∧ full.rangeAt 4 0x20000 = some (0, 15) ∧ (busy.canReach hubDie p 8 a matches .ok _ _) = true ∧
      (out busy p matches .hold) = true ∧ (out (live id id) p matches .ok _) = true ∧ (heldFrame.canReach hubDie (physAt 0 0 0x78) 8 0x78 matches .hold) = true ∧
      (full.canReach hubDie (physAt 0 4 0xFFFFFFFFFFFFF) 8 a matches .bad _ _ _) = true := by decide +kernel
theorem witness_HostAccessesAct_reads :
    let s := tabled pteAll (live id id)
    (match s.translate 0 0 .read false with
      | .ok p => (s.canReach hubDie p 8 0 matches .ok _ _) && (match s.homeOp 0 p.pkg p.die p.pa.toNat (.read 8) with | .ok _ => true | _ => false)
      | .error _ => false) = true ∧
      ((withQueue .active 0 0 1023).queue 1023).reachable (.virtual 0) = true ∧ ((withQueue .active 0 0 1023).queue 1023).reachable (.virtual 63) = false := by
  decide +kernel
theorem witness_IslandsAct_loop_boundary :
    let s := islanded id State.reset
    (∀ j, tileIsland j.val = true → s.atRatioBoundary j = true ∧ (s.island j).held = none ∧ (s.island j).vwant = none) ∧
      (∀ d : Fin 4, (#v[0, 0, 0, 114] : Vector Nat 4)[d] < 115) := by
  have r : ∀ j, ((islanded id State.reset).island j).held = none ∧ ((islanded id State.reset).island j).vwant = none := by decide +kernel
  exact ⟨fun j _ => ⟨witness_IslandsAct_boundary _ _ (fun t => by simp [islanded, State.tile, State.reset]) rfl rfl rfl, r j⟩, by decide +kernel⟩
theorem witness_IslandsAct_binds :
    let s : State := { (onTile fun x => { x with phase := .bound, launch := 7 }) with launches := [{ launch0 .binding with since := 0 }] }
    s.bindsNow 0 = true ∧ s.collectiveIn 0 = false := by decide +kernel
theorem witness_IslandsAct_collective :
    let s := sending { sendCmd 0 with started := true, promise := 9 } 1 0
    s.collective 0 = true ∧ tileIsland (islandOf 0).val = true := by decide +kernel
/-- Tile 0's turn at a phase, with this word at the head of the queue of strand `k`. -/
def playing (n : Nat) (k : Strand) (w : W32) : State := atPhase n (queued k [{ (qe 4) with word := w }] id)
/-- The head of the queue of the strand whose turn it is decodes to `i`, and the strand may issue. -/
def issuesNow (s : State) (i : Instr) : Bool :=
  let k := s.strandHere
  let x := s.cur
  s.agenda.isEmpty && (x.phase == .running) && !x.preempt && !(x.str k).used && !x.heldBefore k && !(x.str k).stopped && !(x.str k).halted
    && !x.atBoundary && (match x.queueOf k with
      | e :: _ => e.kind == .insn && (match decodeWord k e.word e.exts e.misplaced with | .ok j => j == i | .error _ => false)
      | [] => false)
theorem witness_StepRunsTheDecodedInstruction_early :
    issuesNow (playing 1 .control 0x00221900) (.add 1 2 3 1 0) = true ∧ (playing 1 .control 0).strandHere = .control ∧
      Machine.Instr.judged (.add 1 2 3 1 0) = false ∧ Machine.Instr.accesses .control (.add 1 2 3 1 0) = false ∧
      issuesNow (playing 8 .receive 0xF4500010) (.sig 5 1) = true ∧ (playing 8 .receive 0).strandHere = .receive ∧
      Machine.Instr.judged (.sig 5 1) = false ∧ Machine.Instr.accesses .receive (.sig 5 1) = false := by decide +kernel
/-- Tile 0 with a `sig.v` that lands with the vector strand's next issue cycle. -/
def sigLanding (n : Nat) (k : Strand) (w : W32) : State :=
  atPhase n (queued k [{ (qe 4) with word := w }] fun x => { x with vec := { x.vec with recs := [{ rem := 1, act := .sem 3 2 }] } })
theorem witness_StepRunsTheDecodedInstruction_late :
    issuesNow (playing 10 .control 0xF0300020) (.wait 3 2) = true ∧ Machine.Instr.judged (.wait 3 2) = true ∧
      ((playing 10 .control 0).cur.landSems.isNone = true) ∧ issuesNow (sigLanding 10 .control 0xF0300020) (.wait 3 2) = true ∧
      (sigLanding 10 .control 0).cur.landSems.isSome = true ∧ (playing 17 .receive 0).strandHere = .receive ∧
      issuesNow (playing 17 .receive 0xF0300020) (.wait 3 2) = true := by decide +kernel
theorem witness_StepRunsTheDecodedInstruction_matrix :
    issuesNow (playing 14 .matrix 0xF0300020) (.wait 3 2) = true ∧ (playing 14 .matrix 0).strandHere = .matrix := by decide +kernel
theorem witness_StepRunsTheDecodedInstruction_access :
    let go (n : Nat) (k : Strand) (i : Instr) : Bool :=
      issuesNow (playing n k (encodeWord i)) i && (Machine.Instr.accesses k i) && (playing n k 0).strandHere == k
    go 18 .control (.ssp 1 1 0 0 8) = true ∧ go 19 .load (.ld 1 0 0 0 8 []) = true ∧ go 20 .store (.st 1 0 0 8) = true := by decide +kernel
theorem witness_StepRunsTheDecodedInstruction_bad :
    let e : QEntry := { (qe 4) with word := 0xFFFFFFFF }
    let x : QEntry := { (qe 4) with word := 0xC8000015, exts := [1] }
    (playing 1 .control 0xFFFFFFFF).cur.queueOf .control = [e] ∧ e.kind = .insn ∧ (playing 1 .control 0xFFFFFFFF).cur.atBoundary = false ∧
      (match decodeWord .control e.word e.exts e.misplaced with | .error .illegalInsn => true | _ => false) = true ∧
      (match decodeWord .control x.word x.exts x.misplaced with | .error .illegalExt => true | _ => false) = true := by decide +kernel
theorem witness_StepRunsTheDecodedInstruction_fetch :
    let s (l : BitVec 256) := atPhase 22 (coded [l] id)
    (s loopLine).agenda = [] ∧ (s loopLine).turn.phase = 22 ∧ (s loopLine).cur.isSup = false ∧ ((s loopLine).cur.nextDirective).isSome = true ∧
      (s noplLine).cur.nextDirective = some .nopl ∧ (s plainLine).cur.nextDirective = none := by decide +kernel
theorem witness_StepRunsTheDecodedInstruction_agenda :
    ({ user with agenda := [.rowSend 3] } : State).agenda = [.rowSend 3] := by decide +kernel
theorem witness_StepKeepsMemoryOk :
    let s : State := { State.reset with fcc := 1 }
    Safety.MemoryOk s ∧ ∃ t, step s = .next t := by
  refine ⟨⟨⟨rfl, rfl, rfl, rfl, rfl⟩, fun t => ?_, fun l h => ?_⟩, _, rfl⟩
  · have : ({ State.reset with fcc := 1 } : State).tile t = Tile.blank := by simp [State.tile, State.reset]
    rw [this]; exact ⟨rfl, rfl, rfl⟩
  · simp [State.reset] at h
theorem witness_reserved_plog :
    (0x0C#6 ++ 3#3 ++ 5#3 ++ 7#3 ++ 5#3 ++ 0#14 : BitVec 32).extractLsb' 26 6 = 0x0C ∧
      5 ≤ ((0x0C#6 ++ 3#3 ++ 5#3 ++ 7#3 ++ 5#3 ++ 0#14 : BitVec 32).extractLsb' 14 3).toNat := by decide
theorem witness_trap_guards :
    (user.seen .control).guard 1 0 = false ∧ (sup.seen .control).guard 0 0 = true ∧ sup.cur.isSup = true ∧ user.cur.isSup = false := by decide +kernel
/-! ### Clauses of the statements with a boundary of their own -/

theorem witness_more_control :
    let full := onTile fun x => { x with fifo := { x.fifo with j := x.fifo.j.set 1 (List.replicate 16 (ent 1)) } }
    let q := tabled pteAll (withQueue .active 0 0 1023)
    let named : State := { q with ctxs := q.ctxs.set 0 { q.ctxs[0] with phase := .live } }
    16 ≤ full.cur.fifo.j[1].length ∧ (named.queue 1023).phase = .active ∧ (named.cur.s 2).toNat = 1023 ∧ (named.queue 1023).granted = true ∧
      (match named.translate (named.queue 1023).ctx (named.queue 1023).qcb .write false with | .ok _ => true | .error _ => false) = true ∧
      (sup.seen .control).guard 0 0 = true ∧ (atPhase 4 user).strandHere = .store ∧ (atPhase 4 user).cur.st.pending = [] ∧
      (atPhase 4 user).cur.st.hold = none ∧ (0xFF < 256 ∧ 0x3FFF < 0x4000) := by decide +kernel
theorem witness_more_vector :
    let r (n : Nat) : VRec := { rem := n, act := .flags 1 }
    (r 1).valid = true ∧ (r 1).rem ≤ 1 ∧ 1 < (r 2).rem ∧ (14 : Nat) < 15 ∧
      Claims.VReady vecs false false Config.untypedIota (bcastOf false) 48 1 0 1 0 ∧
      (vecs.seen .vector).viewRow (vecs.hasWindow vecs.here) (0#6).toNat = some 0 := by
  unfold Claims.VReady
  decide +kernel
def cachedAt (d : BitVec 3) : Phys := { (physAt 0 d 0x100) with mode := modeCached }
theorem witness_more_access :
    let s := onTile fun x => { x with mx := (claiming 0).cur.mx, ld := { x.ld with pending := [load1 .vector 3 512 (.spad 0x180000)] } }
    let l := store1 .plain 4 (.spad 0x180000)
    let w := onTile fun x => { x with mx := (claiming 0).cur.mx, st := { x.st with pending := [l], seq := 1 } }
    let ask := Claims.readAsk nearby.cur 0 0 32 []
    let es (va : W64) : List Elem := [{ pos := 0, len := 512, va := va }]
    (s.tile 0).claimed 0x180000 512 = true ∧ (w.tile 0).claimed 0x180000 4 = true ∧ (w.tile 0).st.pending = [l] ∧
      (match nearby.judgeAll nearby.here ask (es 0) with | .ok _ => true | _ => false) = true ∧
      (match nearby.judgeAll nearby.here ask (es 1) with | .bad _ _ _ => true | _ => false) = true ∧
      (match nearby.judgeAll nearby.here ask (es 0x1000) with | .miss v => v == 0x1000 | _ => false) = true ∧
      (cachedAt 1).mode = modeCached ∧ nearby.atHome 0 (cachedAt 1) = false ∧ nearby.copyOf (dieOf 0) (cachedAt 1).line = none ∧
      (physAt 0 1 0).mode ≠ modeCached ∧ nearby.atHome 0 (cachedAt 0) = true ∧
      ({ s with tiles := s.tiles.set 0 { (s.tile 0) with ld := { (s.tile 0).ld with pending := [someLoad] } } } : State).cur.ld.pending ≠ [] ∧
      (store1 .flag 8 (.spad 0)).kind = .flag ∧ (4#4).toNat = 4 := by decide +kernel
theorem witness_more_matrix :
    let s := mat id
    let due : AnvilCmd := { mcCmd (mcWord 5 5 6 0 0 0 0 0 0) 0 2 with landings := [.out 8 false 0 [1]], taken := 2, lastStep := some 0 }
    let late := mat fun x => { x with mx := { x.mx with cmds := [due] } }
    let held := mat fun x => { x with preempt := true }
    s.cur.outDue [0, 1] (operandOf s.cur.mx.mp[0]).view = false ∧ late.cur.outDue [0, 1] (operandOf late.cur.mx.mp[0]).view = true ∧
      (Claims.mc 2 63 63 0 0 0 0 0 0).clr = false ∧ (held.tile 0).preempt = true ∧ (s.tile 0).preempt = false := by decide +kernel
/-- Tile 0 in a TC of its own with an mmas command in flight, whose one segment of B is live. -/
def sparse (live : Bool) : State :=
  owned (mat fun x => { x with
    tcc := 1, spad0 := x.spad, spad := x.spad.writeN 0x140000 64 (if live then 0xFF else 0)
    mx := { x.mx with cmds := [{ mcCmd (mcWord 3 5 6 0 0 0 0 0 0) 0 2 with mp := (mat id).cur.mx.mp.set 4 (BitVec.ofNat 64 (0x140000 * 2 ^ 21)) }] } })
theorem witness_more_anvil :
    let c := mcCmd (mmaWord 0 0) 0 2
    let e := { c with scanned := false, prescan := 1 }
    let raisedOne := mat fun x => { x with tcc := 12, mx := { x.mx with cmds := [{ c with lastStep := some 3 }, { c with lastStep := some 4 }] } }
    ((anvilRuns 2).tile 0).landDue.mx.cmds = [] ++ c :: [] ∧ ¬ (e.scanned = true) ∧
      (e.t0 + BitVec.ofNat 64 e.prescan).toNat ≤ (1 : W64).toNat ∧ (1 : Nat) < 256 ∧
      (raisedOne.tile 0).mx.cmds = [] ++ { c with lastStep := some 3 } :: [{ c with lastStep := some 4 }] ∧ (12 : W64).toNat < ((4 : W64) + 9).toNat ∧
      { e with followOn := true }.followOn = true := by decide +kernel
theorem witness_more_sparse :
    let x := ((sparse true).tile 0).landDue
    let c := x.mx.cmds.head?
    ((c.map fun c => (mcOf c.word).op) == some 3) = true ∧ (sparse true).ownsTc 0 = true ∧
      ((c.map fun c =>
        let sh := shapeOf c.mp[2]
        let slabs := liveSlabs (liveSegs x.spad0 (fld c.mp[4].toNat 21 21) sh.k sh.n) (pairKS 0 0) sh.k
        decide (slabs[c.taken % slabs.length]? = some 0)) == some true) = true := by decide +kernel
theorem witness_more_transform :
    (fftCmd 0x40 true 2 1).taken < (fftCmd 0x40 true 2 1).steps ∧ (fftCmd 0x40 true 2 2).steps ≤ (fftCmd 0x40 true 2 2).taken ∧
      (tcOf (fftCmd 0x40 true 2 1).word).op = 1 ∧ (tcOf (tcWord 2 5 6 0 1 0 4)).op ≠ 1 := by decide +kernel
/-- The root of tree 0 at the node of die 0, with tiles 0 and 1 its children; and a node of die 1 below it. -/
def leafEntry : BitVec 512 := BitVec.ofNat 512 (2 ^ 6 + 2 ^ 7 + 2 ^ 152)
def lowEntry : BitVec 512 := BitVec.ofNat 512 (2 ^ 7 + 0xFF * 2 ^ 24)
def highEntry : BitVec 512 := BitVec.ofNat 512 (2 ^ 6 + (256 + 0xFF) * 2 ^ 128)
def treeSending (rounds : List TreeRound) : State :=
  let c : SendCmd := { sendCmd 1000 with started := true, tree := some (0, 2, 15, 64, 9, 1000) }
  let s := sending c 1 1000
  { s with fabric := { s.fabric with trees := [(0, leafEntry)], rounds := rounds } }
theorem witness_more_send :
    let s := sending (sendCmd 1000) 1 0
    let c1 : SendCmd := { sendCmd 1000 with checkAt := some s.fcc }
    let b1 : SendCmd := { sendCmd 0 with checkAt := some s.fcc }
    (∀ f ∈ s.fabric.flits, ∀ p ∈ f.slots, s.fcc.toNat ≤ p.1.toNat) ∧ (Claims.sendCheck s 0 c1 matches .ok _ _) = true ∧
      (Claims.sendCheck (sending (sendCmd 0) 1 0) 0 b1 matches .bad _ 0x0B 0) = true ∧ (0x0B : Nat) < 256 := by decide +kernel
theorem witness_more_leaf :
    let r : TreeRound := { tree := 0, node := 0, tag := 9, count := 1, parts := [(1, [0])], leaves := [(1, 15, 64, 0)], last := 0, nodes := [] }
    (((treeSending []).tile 0).tx.cmd.bind (fun c => c.tree) == some (0, 2, 15, 64, 9, 1000)) = true ∧ (1000 : W64).toNat ≤ (treeSending []).fcc.toNat ∧
      (treeSending []).leafNode 0 0 = some (0, leafEntry.toNat, 0) ∧ (treeSending []).fabric.brokenRounds = [] ∧ (treeSending []).fabric.rounds = [] ∧
      (treeSending [r]).fabric.rounds = [r] ∧ (∀ p ∈ r.parts, p.1 ≠ 0) ∧ r.count ≠ 2 := by decide +kernel
/-- A FRAMESET that runs holds every access to the first frame of home 0. -/
def heldAll (s : State) : State := { s with page := { s.page with run := some (3, 0, 0, 0) } }
theorem witness_more_send_held :
    let c : SendCmd := { sendCmd 0 with word := xcWord 2 5 6 15, desc := 0, checkAt := some 0 }
    let s : State := heldAll (tabled pteAll (sending c 1 0))
    (xcOf c.word).op = 2 ∧ ((s.tile 0).tx.cmd == some c) = true ∧ c.started = false ∧ c.t0.toNat < (s.tile 0).tcc.toNat ∧
      (Claims.sendCheck s 0 c matches .hold) = true := by decide +kernel
theorem witness_more_land :
    let s := landing (flit 0) true
    let c := s.modTile 0 fun x => { x with mx := (claiming 0).cur.mx }
    (c.tile 0).claimed 0x180040 64 = true ∧ (c.tile 0).sync.block[15].registered = true ∧ (c.tile 0).phase = .running := by decide +kernel
theorem witness_more_tree :
    let low : TreeRound := { treeRound with tree := 0, node := 1, leaves := [] }
    let s : State := { user with pkg := 0, fabric := { user.fabric with trees := [(1, lowEntry), (0, highEntry)], rounds := [low] } }
    combining.treeEntry (3#3).toNat 0 = some treeEntry.toNat ∧ combining.fabric.rounds = [] ++ treeRound :: [] ∧
      s.treeEntry (1#3).toNat 0 = some lowEntry.toNat ∧ s.fabric.rounds = [] ++ low :: [] ∧ treeKids lowEntry.toNat ≤ low.parts.length ∧
      fld lowEntry.toNat 6 1 ≠ 1 ∧ epPkg (fld lowEntry.toNat 24 18) = s.pkg ∧ nodeOfEp (fld lowEntry.toNat 24 18) = 0 ∧
      s.treeEntry 0 0 = some highEntry.toNat ∧
      ((List.range (treeKids highEntry.toNat)).find? fun i => treeChild highEntry.toNat i == s.nodeEp (1#3).toNat) = some 0 ∧
      s.nodeFull 0 0 low.tag = false ∧ s.fabric.brokenRounds = [] ∧ 0 < treeRound.count := by decide +kernel
theorem witness_more_fetch :
    let s : State := { (onTile fun x => { x with phase := .trapped }) with supCode := [plainLine] }
    let x := s.tile 0
    let ls := lanesOf plainLine 0 (x.fetch.level.map fun l => l.ix)
    let bad := coded [loopLine] fun x => { x with fetch := { x.fetch with table := [{ kind := 0, count := 3 }] } }
    let none_ := coded [loopLine] id
    let ended (n : W64) : Fetch := { (coded [plainLine] id).cur.fetch with
      level := (coded [plainLine] id).cur.fetch.level.set 5 { active := true, ix := n.setWidth _, count := 3, first := 0, length := 1 } }
    x.isSup = true ∧ x.sfetch.ended = false ∧ x.sfetch.stopped = false ∧ x.sfetch.branch = none ∧ x.sfetch.notBefore.toNat ≤ x.tcc.toNat ∧
      (s.supCode.take 512)[0]? = some plainLine ∧ supLineOk plainLine = true ∧ entriesIn x.ctl.squeue + ls.insns.length ≤ 16 ∧
      (∀ e ∈ ls.insns, isBranchWord e.2.word = false) ∧ bad.cur.nextLine = some loopLine ∧ lineOk loopLine = true ∧
      bad.cur.nextDirective = some (.loop 0 1 1 0) ∧ bad.cur.fetch.loopOk 0 0 1 = false ∧ none_.cur.fetch.loopCount 0 1 0 = none ∧
      ((ended 1).level[5]).active = true ∧ ((ended 1).level[5]).first + ((ended 1).level[5]).length = 0 + 1 ∧
      ((ended 1).level[5]).ix.toNat + 1 < ((ended 1).level[5]).count ∧ ((ended 2).level[5]).count ≤ ((ended 2).level[5]).ix.toNat + 1 ∧
      (coded [] fun x => x.modStr .control fun st => { st with halted := true }).cur.nextLine = none ∧ (5#3).toNat < 6 := by decide +kernel
theorem witness_more_tiles :
    let d := onTile fun x => { x with strand := x.strand.map (fun st => { st with halted := true }), ld := { x.ld with pending := [someLoad] } }
    let h := bound .trapped { launch0 .running with sig := 0x800 }
    (d.tile 0).draining = true ∧ d.workDone 0 = false ∧ (h.tile 0).phase = .trapped ∧ (h.launchOf 0).map Launch.phase = some .running ∧
      sup.cur.sys.traceOn = false ∧ (user.tile 0).isSup = false := by decide +kernel
theorem witness_more_bind :
    (match (Claims.placing waiting 255 record0 (launch0 .pending) (fld record0.toNat 11 3) false [0]).span 0 .read 0 (argN 0 + 1) (64 * argN 0) with
      | .ok _ _ => true | _ => false) = true ∧
      (waiting.carryOut 255 0).isNone = true ∧ waiting.slots[255] = 0 ∧ placeAll 0 0 0 1 1 1 0 = some [0] ∧
      waiting.placeOk (launch0 .pending) 0 0 false [0] = true ∧ waiting.namedBy record0.toNat = some (launch0 .pending) := by decide +kernel
theorem witness_more_launch :
    let y : Launch := { launch0 .running with slot := some 255, sig := 0x800 }
    let free := { (bound .idle y) with store := (tabled pteAll (live id id)).store, ctxs := (tabled pteAll (live id id)).ctxs }
    let p : Launch := { launch0 .running with preempting := true }
    let coll := (bound .running p).modTile 0 fun x => { x with tx := { x.tx with promise := 1 } }
    free.launchDone y = true ∧ sigNamed y.sig = true ∧ free.signalHeld y.ctx y.sig = false ∧ coll.launchCollective p = true ∧
      (bound .running p).launchCollective p = false ∧
      (((bound .running p).modLaunch 7 fun z => { z with preempting := true }).setTile 0 { ((bound .running p).tile 0) with preempt := true }
        |>.leaveOf 0).canSave 0 = true ∧
      ((State.reset.launches.find? fun z => z.slot == some 255 && z.phase == .binding) = none) := by decide +kernel
/-- A state whose contexts have no page table: nothing of a save record can be written. -/
theorem putPieces_unmapped (s : State) (c : BitVec 6) (m : Memory) (h : ∀ va v, ∃ x a, s.hWrite c va 64 v = .bad s x a) (n : Nat) :
    ∀ off va, s.putPieces c m off va n = some s := by
  induction n with
  | zero => intro off va; rfl
  | succ n ih =>
    intro off va
    obtain ⟨x, a, e⟩ := h va (m.readN off 64)
    simp only [State.putPieces, e, ih]
theorem writeRecord_unmapped (s : State) (t : TileNo) (x : Nat) (h : ∀ va, s.walk (s.tile t).ctx va = .error x) : s.writeRecord t = some s := by
  have w : ∀ va v, ∃ x a, s.hWrite (s.tile t).ctx va 64 v = .bad s x a := fun va v =>
    ⟨x, va, by simp only [State.hWrite, State.hAccess, State.translate, h]⟩
  have p := fun m n off va => putPieces_unmapped s (s.tile t).ctx m w n off va
  unfold State.writeRecord
  dsimp only
  rw [p _ 1472, Option.bind_some, p _ 512, Option.bind_some, p _ 2048, ite_self, Option.bind_some, p _ 4096, Option.bind_some, p _ 32768]
def rootless : State := { (bound .saving (launch0 .running)) with ctxs := State.reset.ctxs.set 0 { State.reset.ctxs[0] with root := 0xFFFFFFFFFFFFFFFF } }
theorem witness_more_save : (rootless.tile 0).phase = .saving ∧ ∃ s1, rootless.writeRecord 0 = some s1 := by
  have h : tableOk (pteDie (rootless.ctx 0).root) (4096 * ptePfn (rootless.ctx 0).root) = false := by decide +kernel
  have c : (rootless.tile 0).ctx = 0 := by decide +kernel
  refine ⟨by decide +kernel, rootless, writeRecord_unmapped rootless 0 cPageNotPresent fun va => ?_⟩
  rw [c]
  simp only [State.walk, h, Bool.not_false, Bool.or_true, if_true]
theorem killed_owed (s : State) (c : BitVec 6) (hq : ∀ q, (s.queue q).granted = false) (hl : s.launches = []) (hg : s.graphs[c.toNat] = none) :
    (Claims.killed s c).owed = s.owed := by
  have e : (s.dropSnapOps c).killLaunches c (s.ctx c).cause.toNat = s.dropSnapOps c := by
    simp [State.killLaunches, State.dropSnapOps, hl]
  have g : (s.dropSnapOps c).killGraph c (s.ctx c).cause.toNat = s.dropSnapOps c := by
    simp [State.killGraph, State.dropSnapOps, hg]
  have q : (s.dropSnapOps c).queuesOf c = [] := by
    have : ∀ q, ((s.dropSnapOps c).queue q).granted = false := hq
    simp [State.queuesOf, this]
  simp only [Claims.killed, e, g, q, List.foldl_nil]
  rfl
theorem witness_more_killing :
    let k := withCtx fun x => { x with phase := .killing }
    let o : State := { k with owed := [.done (some 0) 0 0] }
    (Claims.killed k 0).ctxOwes 0 = false ∧ (Claims.killed o 0).ctxOwes 0 = true := by
  have q : ∀ q, ((withCtx fun x => { x with phase := .killing }).queue q).granted = false := fun q => by
    simp [withCtx, live, onTile, State.setTile, State.queue, State.reset]; rfl
  intro k o
  refine ⟨?_, ?_⟩
  · rw [State.ctxOwes, killed_owed k 0 q rfl rfl]; rfl
  · rw [State.ctxOwes, killed_owed o 0 q rfl rfl]; rfl
theorem witness_more_contexts :
    let r : W64 := 0x0000000300000000
    let x := live (fun x => { x with phase := .trapped, sys := { x.sys with lastSeq := some 3 } }) id
    let saved : State := { (live (fun x => { x with phase := .idle }) id) with
      launches := [{ launch0 .saved with saved := [{ (x.tile 0) with ctx := 0 }] }] }
    (x.tile 0).ctx = 0 ∧ (x.tile 0).sys.lastSeq = some (r.extractLsb' 32 32) ∧ (x.tile 0).sys.lastTile = r.extractLsb' 12 10 ∧
      (x.tile 0).sys.reply = none ∧ (saved.tile 0).phase = .idle ∧ (saved.launches.map Launch.phase) = [.saved] ∧
      (State.reset.behind .physical = false) ∧ ({ State.reset with posted := [.page .physical 0 0] } : State).behind .physical = true := by
  decide +kernel
theorem witness_more_queues :
    let s := queue0 .active none
    let h := heldAll s
    let x := s.queue 1023
    let u := s.abandon 1023 0x81
    let lost : State := ({ s with ctxs := State.reset.ctxs } : State).abandon 1023 0x81
    let bad : State := { s with ctxs := State.reset.ctxs, queues := s.queues.set 1023 { x with phase := .active, qcb := 0x100, err := 1 } }
    ((heldAll (creating 4)).checkCreate 0 0x100 matches .hold) = true ∧ x.status ≠ { x with err := 1 }.status ∧ { x with err := 1 }.qcb ≠ 0 ∧
      (h.hWrite 0 (x.qcb + 0x20) 8 1 matches .hold) = true ∧
      (match bad.hWrite 0 (x.qcb + 0x20) 8 1 with | .bad s2 c _ => decide (s2.queue 1023 = bad.queue 1023) && decide (c < 256) | _ => false) = true ∧
      (match u.indices x with | .ok s1 (r, _) => (s1.cancelFrom 1023 x 0x81 r (2 ^ x.log2n)).isSome | _ => false) = true ∧
      (lost.indices x matches .bad _ _ _) = true ∧ ((h.abandon 1023 0x81).indices x matches .hold) = true := by decide +kernel
theorem witness_more_drain :
    let p := fence 9 1023 0
    let s := fencing (some (.qfence p)) (some (.qfence (fence 8 1023 0)))
    let f := fencing (some (.qfence p)) none
    let u (s : State) := (s.putQueue 1023 { (s.queue 1023) with phase := .draining }).haltGraph 1023 (s.queue 1023).ctx
    (s.queue 1023).phase = .active ∧ (s.queue 1023).prog = some (.qfence p) ∧ (u s).fenceStuck p = true ∧ (u f).fenceStuck p = false ∧
      (∀ w, ((queue0 .active none).queue 1023).prog ≠ some (.qfence w)) ∧ (f.queue 1023).prog ≠ none ∧ ((queue0 .paused none).queue 1023).phase = .paused ∧
      ({ (queue0 .active none) with owed := [.done (some 1023) 0 0] } : State).owes 1023 = true := by
  refine ⟨by decide +kernel, by decide +kernel, by decide +kernel, by decide +kernel, fun w => ?_, by decide +kernel, by decide +kernel, by decide +kernel⟩
  have : ((queue0 .active none).queue 1023).prog = none := by decide +kernel
  rw [this]; exact fun h => by cases h
theorem witness_more_poll :
    let s := poke (poke (queue0 .draining none) 0x100 8 1) 0x400 8 0x85
    let n := poke (poke (queue0 .active none) 0x100 8 1) 0x400 8 0x80
    (s.queue 1023).phase = .draining ∧ (s.indices (s.queue 1023) matches .ok _ (0, 1)) = true ∧
      (s.hRead 0 ((s.queue 1023).slotAt 0) 64 matches .ok _ 0x85) = true ∧ pktType 0x85 ≠ 3 ∧
      ((queue0 .active none).hRead 0 0x400 8 matches .ok _ 0) = true ∧ fld 0 7 1 = 0 ∧ ((offered 5).queue 1023).prompted = false ∧
      (n.hRead 0 ((n.queue 1023).slotAt 0) 64 matches .ok _ 0x80) = true ∧ packetStep 1023 (BitVec.ofNat 512 0x80) = none := by decide +kernel
theorem witness_more_copies :
    let c := copying none 4 4
    let busy : State := { c with queues := (Vector.replicate 1024 { c.queues[1023] with prog := some (.copy (copyOf 0)) }).set 1023 c.queues[1023] }
    let far : CopyOp := { copyOf 0 with dset := { base := 0x40000, ext := Vector.replicate 5 4 } }
    let bad : State := { c with queues := c.queues.set 1023 { c.queues[1023] with prog := some (.copy far) } }
    let run := copying (some (.copy (copyOf 0))) 4 4
    busy.engineFree = false ∧ (busy.queue 1023).takes (copyPkt 0) = true ∧ copyComp (copyPkt 0) ≠ 1 ∧ (ringing ring16).engineFree = true ∧
      (match bad.copyFailure 1023 with | some (_, c, _) => decide (c < 256) | none => false) = true ∧ bad.copyOf? 1023 = some far ∧
      ((heldAll run).copyAll 1023 (copyOf 0) matches .hold) = true ∧
      (match run.copyMoves 0 (copyOf 0) with
        | .ok _ ms => (match State.writeMoves 0 1 ms run with
          | .ok s1 => !(s1.closedRecords 0 ms).signalHeld 0 (pktSig (copyOf 0).pkt)
          | _ => false)
        | _ => false) = true ∧ esizeOf (copyOf 0).dst.etype = 1 := by decide +kernel
theorem witness_more_layouts :
    let c := copying none 4 4
    (match c.span 0 .read (pktWord (copyPkt 0) 1) 1 64 with
      | .ok s1 a => (match s1.span 0 .read (pktWord (copyPkt 0) 2) 1 64 with
        | .ok _ b => (layoutOf (ofBytes a)).isSome && (layoutOf (ofBytes b)).isSome
        | _ => false)
      | _ => false) = true ∧
      (match (copying none 4 5).span 0 .read (pktWord (copyPkt 0) 2) 1 64 with
        | .ok _ b => (layoutOf (ofBytes b)).map (fun r => copyAgrees (copyPkt 0) (copyOf 0).src r) == some false
        | _ => false) = true := by decide +kernel
theorem witness_more_barriers :
    windowTile 4 (0x123456 / 16 * 16) = none ∧ user.inMemory user.pkg 4 (0x123456 / 16 * 16) 16 = true ∧
      (let w := barOf 1 0 0 0 3 2 1 0
       barState w = 1 ∧ fld w.toNat 16 16 + 2 = 4 ∧ barAexp w = 3 ∧ fld w.toNat 16 16 + 1 = barAexp w ∧ fld w.toNat 64 32 + 1 = fld w.toNat 96 32 ∧
         fld w.toNat 58 1 = 0) ∧ fld (barOf 1 0 1 0 3 2 0 0).toNat 58 1 = 1 ∧ barState 0 = 0 ∧ barState (barOf 3 0 0 0 0 0 0 0) = 3 := by decide +kernel
theorem witness_more_graphs :
    let s := graphing { graph0 with stopped := true } 5
    let g : Graph := { graph0 with stopped := true }
    (s.graphs[0] = some g) ∧ g.launches = [] ∧ g.snapops = 0 ∧ g.failed = none ∧ (s.cancelRecords 0 g 65536 g.next).isSome = true ∧
      readyAt graph0 (jumpRec 2) = true ∧ readyAt graph0 (4 + 2 ^ 19) = true ∧ ((graphing graph0 4).signalOp 0 0 0 0x800 matches .ok _ _) = true ∧
      (graphing graph0 5).signalHeld 0 graph0.sig = false ∧ (queue0 .active none).graphs[0] = none := by decide +kernel
theorem witness_more_shootdown :
    let busy : State := { State.reset with page := { State.reset.page with run := some (2, 0, 0, 0) } }
    busy.page.run = some (2, 0, 0, 0) ∧ busy.usesRange 0 0 0 = false := by
  have h : Tile.blank.usesRange 0 0 = false := by decide +kernel
  refine ⟨rfl, ?_⟩
  have b : (State.reset.remote.bellows.any fun b => b.holds 0) = false := by decide +kernel
  have r : (State.reset.remote.reqs.any fun r => r.ctx == 0 && r.owner == .prefetch) = false := rfl
  have t : (State.reset.tiles.any fun t => t.ctx == 0 && t.usesRange 0 0) = false := by
    rw [Vector.any_eq_false]
    intro i hi
    simp only [State.reset, Vector.getElem_replicate]; rw [h, Bool.and_false]; exact Bool.false_ne_true
  simp only [State.usesRange, t, b, r, Bool.or_false]
theorem witness_more_pages :
    let r := ranging (range15 true [1]) [entry15 1 .held] [snapOp 4 (15 * 4) none]
    let w := ranging (range15 true []) [entry15 1 .awaiting] [snapOp 4 (15 * 4) none]
    let rej : State := { (ranging (range15 true []) [] [{ snapOp 2 0x8000 (some 1) with unacked := [3] }]) with fcc := 12501 }
    nextOp r (snapOp 4 (15 * 4) none) = true ∧ r.awaits 0 15 = false ∧ w.awaits 0 15 = true ∧
      nextOp w (snapOp 4 (15 * 4) none) = true ∧ (rej.fcc - 1).toNat % 12500 = 0 ∧ (rej.fcc - 1).toNat < 12500000 ∧
      rej.firstOp 0 = some { snapOp 2 0x8000 (some 1) with unacked := [3] } ∧ user.firstOp 0 = none ∧
      (r.awaits 0 15 = false ∧ ((r.snap 0).range 15).en = true) := by decide +kernel
/-- The row that a port with nothing to send puts on seven lanes. -/
def idleRow : BitVec 1600 := BitVec.ofNat 1600 (ofBytes (rowBytes 0 0 0 [0, 0, 0, 0, 0]))
/-- A flit of context 0 that is to cross port 15 in its sub-slot 0 in this FC. -/
def crossing : Flit := { flit 1 with slots := [(5, .optical 15 0, 3)] }
def offeredAt (ph : PortPhase) : State :=
  let s : State := { (live id id) with fcc := 5, fabric := { State.reset.fabric with flits := [crossing] } }
  s.modPort 15 fun p => { p with phase := ph }
theorem witness_more_links :
    let s := carrier 5 fun p => { p with flight := 100, waits := [{ row := 3, slot := true, since := 0, asked := 0, due := false }] }
    let o : State := { (carrier 5 id) with remote := { State.reset.remote with outflits := [(15, 1, 7, 9)] } }
    let dark := offeredAt .dark
    (offeredAt .active).opticalFlit 15 0 = some crossing ∧ crossing.head = none ∧ (o.opticalFlit 15 0 = none) ∧
      o.remote.outflits = [((15#4).toNat, 1, 7, 9)] ∧ (carrier 5 id).remote.outflits = [] ∧ (dark.port 15).carrying = false ∧ dark.fcc.toNat % 64 ≠ 0 ∧
      crossing ∈ dark.resolveSlots.offered 15 ∧ (dark.ctx crossing.srcCtx).phase = .live ∧ (State.reset.resolveSlots.offered 15) = [] ∧
      ((carrier 0 fun p => { p with outd := { p.outd with retrain := some (6, 0) } }).port 15).carrying = true ∧
      (((upPort .failed 0).modPort 15 fun p => { p with outd := { p.outd with retrain := some (6, 0) } }).port 15).carrying = false ∧
      (s.port 15).carrying = true := by decide +kernel
theorem witness_more_rows : (readRow PortDir.init idleRow).2.isSome = true ∧ ((carrier 0 id).port 15).ind = PortDir.init := by decide +kernel
theorem gfMul_zero_left : ∀ x : Byte, gfMul 0#8 x = 0#8 := by decide +kernel
theorem polyAt_zeros (l : List Byte) (n : Nat) (x : Byte) : polyAt (l ++ List.replicate n 0) x = polyAt l x := by
  have h : (List.replicate n 0#8).foldr (fun c acc => c ^^^ gfMul acc x) 0#8 = 0#8 := by
    induction n with
    | zero => rfl
    | succ n ih => rw [List.replicate_succ, List.foldr_cons, ih, gfMul_zero_left]; rfl
  exact (List.foldr_append ..).trans (congrArg (fun a => List.foldr (fun c acc => c ^^^ gfMul acc x) a l) h)
/-- The bytes of a repair packet that names sub-slot 1 of row 0, from the last byte down: the parity, and the location record. -/
def repairTail : List Byte := (toBytes 20 0x73440de8370839b719d6e39788ae11c62c4540).reverse
def repaired : BitVec 800 := BitVec.ofNat 800 (0x73440de8370839b719d6e39788ae11c62c4540 * 2 ^ 640)
theorem repairTail_syndromes : ∀ j : Fin 18, polyAt repairTail (gfExp j) = 0 := by
  intro j; fin_cases j <;> decide +kernel
theorem repaired_bytes : (toBytes 100 repaired.toNat).reverse = repairTail ++ List.replicate 80 0 := by decide +kernel
theorem repaired_decodes : rsDecode 18 (toBytes 100 repaired.toNat) = some (toBytes 100 repaired.toNat, []) := by
  have h : (syndromes 18 (toBytes 100 repaired.toNat)).all (· == 0) = true := by
    rw [syndromes, repaired_bytes]
    simp only [polyAt_zeros, List.all_map, List.all_eq_true, List.mem_range, Function.comp_apply, beq_iff_eq]
    exact fun j hj => repairTail_syndromes ⟨j, hj⟩
  rw [rsDecode]; simp only [h, if_true]
theorem witness_more_repair :
    let s := carrier 5 fun p => { p with flight := 100, waits := [{ row := 21, slot := true, since := 0, asked := 0, due := false }] }
    let w := toBytes 100 repaired.toNat
    let loc := ofBytes ((w.drop 80).take 2)
    repaired ≠ 0 ∧ (((s.port 15).waits.find? fun u => u.row == BitVec.ofNat 8 (fld loc 6 8) && u.slot == (fld loc 14 1 == 1)).isSome) = true := by
  decide +kernel
theorem witness_more_remote :
    let q : Request := { (req0 .sent .load) with owner := .prefetch, fill := true }
    let far : Request := { (req0 .sent .load) with pkg := 1 }
    let cut (f : Request → Request) := asking 5 (f (req0 .sent .load))
    let buf : Request := { (req0 .held .aggregate) with owner := .buffer 3 63, sdie := 0, pkg := 0, die := 4 }
    let d : State := slotted 1 [15] (asking 12500000 buf)
    q.owner ≠ .other ∧ q.spkg = (asking 5 q).pkg ∧ q.fill = true ∧ q.kind = .load ∧ ((asking 576 q).req 9 = some q) ∧ far.pkg ≠ (asking 5 far).pkg ∧
      ({ q with reiss := 3 } : Request).owner ≠ .other ∧ (12499999 : Nat) + ((1 : W64) - 0).toNat = 12500000 ∧
      ((cut id).homeOp 0 0 4 0x80 (.read 8) matches .ok _) = true ∧
      ((cut id).homeOp 0 0 4 (2 ^ 50) (.read 8) matches .refuse _) = true ∧
      ((heldAll (cut id)).homeOp 0 0 0 0x80 (.read 8) matches .hold) = true ∧ buf.owner = .buffer 3 63 ∧ buf.ofBuffer = true ∧
      (d.pair 0 0 4).ports = [15] ∧ d.carries 15 = false ∧ 12500000 ≤ (d.fcc - d.lostAt 15).toNat ∧ q.reply = none ∧
      (asking 5 { q with phase := .waiting }).req 9 = some { q with phase := .waiting } ∧ (12#6 : BitVec 6) = 12 := by decide +kernel
theorem witness_more_timeouts :
    let w : Request := { (req0 .waiting .load) with owner := .prefetch, waited := 12499999 }
    let s := asking 1 w
    s.req 9 = some w ∧ w.phase = .waiting ∧ w.owner ≠ .other ∧ 12500000 ≤ w.waited + (s.fcc - w.since).toNat ∧ (s.ctx w.ctx).phase = .live := by
  decide +kernel
theorem witness_more_once :
    let a : ReqKind := .atomic { op := 0, wide := true, operand := 5, compare := 0 }
    let full : State := { (asking 5 (req0 .sent a)) with remote := { (asking 5 (req0 .sent a)).remote with
      cache := State.reset.remote.cache.set 4 (List.replicate 4096 { spkg := 0, sdie := 1, tag := 0, reply := { stat := 0, aux := 0, data := 3 }, sentAt := 0 }) } }
    a.once = true ∧ (asking 5 (req0 .sent a)).cached (req0 .sent a) = none ∧ (asking 5 (req0 .sent a)).cacheRoom 4 = true ∧
      ((asking 5 (req0 .sent a)).serve (req0 .sent a) matches .ok _) = true ∧ (req0 .sent a).pkg = (asking 5 (req0 .sent a)).pkg ∧
      full.cacheRoom (req0 .sent a).die.toNat = false := by decide +kernel
theorem witness_more_buffers :
    let b := blowing 5 (buffer63 .sent 1)
    let q : Request := { (req0 .sent .aggregate) with owner := .buffer 3 63, sdie := 3, reply := some { stat := 0, aux := 1, data := 0x20 } }
    let r : State := { b with remote := { b.remote with reqs := [q] } }
    let w : State := { (blowing 5 (buffer63 .leaving 1)) with tiles := State.reset.tiles.set 639 { Tile.blank with st := { Tile.blank.st with aggWait := some 63 } } }
    ((r.bufReq 3 63).bind fun q => q.reply) = some { stat := 0, aux := 1, data := 0x20 } ∧ ((b.bufReq 3 63).bind fun q => q.reply) = none ∧
      (b.aggFailed aggKey [aggEl 639] 1 0x20).isSome = true ∧ (b.aggFailed aggKey [aggEl 639] 0 0).isSome = true ∧
      (w.bellows 3).bufs[63].phase = .leaving ∧ w.bufReq 3 63 = none ∧ (w.tile 639).st.aggWait = some 63 := by decide +kernel
theorem witness_more_endpoints :
    let x := working.workRing 0 3
    let d : BitVec 512 := BitVec.ofNat 512 (descWord - 0x80)
    let dr : State := { working with remote := { working.remote with rings := working.remote.rings.set 3 { x with phase := .draining } } }
    (dr.workRing 0 3).phase = .draining ∧ (working.rmaSpan 0 (pktWord d 1) (descLen d) .read matches .ok _ _) = true ∧
      (match (flying 2 4).rmaPlace 0 0x200000 [1, 2, 3, 4] with | .refuse _ _ _ => true | _ => false) = true ∧ 4 + [1, 2, 3].length < 8 ∧
      ((heldAll (flying 2 4)).rmaPlace 0 0x84 [1, 2, 3, 4] matches .hold) = true := by decide +kernel
/-- Tile 0 with s1 and s2. -/
def two (a b : W64) : State := onTile fun x => (x.setS 1 a).setS 2 b
/-- s3 after an instruction. -/
def s3 (i : Instr) (a b : W64) : W64 := (after i (two a b)).cur.s 3
/-- What an instruction leaves pending for its latch: counts, value and flags. -/
def pending (i : Instr) (a b : W64) : List (Nat × W64 × Nat) := (after i (two a b)).cur.bank.recs.map fun r => (r.rem, r.value, r.flags.toNat)

/-- Table 5-1: wrap, shift counts of six and five bits, sign extension of the word forms. -/
theorem test_add_wraps : s3 (.add 3 1 2 0 0) 0xFFFFFFFFFFFFFFFF 2 = 1 := by decide +kernel
theorem test_sub_below_zero : s3 (.sub 3 1 2 0 0) 1 2 = 0xFFFFFFFFFFFFFFFF := by decide +kernel
theorem test_shl_count_six_bits : s3 (.shl 3 1 2 0 0) 3 65 = 6 := by decide +kernel
theorem test_sra_fills_sign : s3 (.sra 3 1 2 0 0) 0x8000000000000000 63 = 0xFFFFFFFFFFFFFFFF := by decide +kernel
theorem test_addW_sign_extends : s3 (.addW 3 1 2 0 0) 0x7FFFFFFF 1 = 0xFFFFFFFF80000000 := by decide +kernel
theorem test_shrW_count_five_bits : s3 (.shrW 3 1 2 0 0) 0xFFFFFFFF80000000 33 = 0x40000000 := by decide +kernel
theorem test_andn_complements_second : s3 (.andn 3 1 2 0 0) 0xF 0x3 = 0xC := by decide +kernel
theorem test_min_is_signed : s3 (.min 3 1 2 0 0) 0xFFFFFFFFFFFFFFFF 1 = 0xFFFFFFFFFFFFFFFF ∧ s3 (.minu 3 1 2 0 0) 0xFFFFFFFFFFFFFFFF 1 = 1 := by
  decide +kernel
theorem test_counts : s3 (.clz 3 1 0 0) 0 0 = 64 ∧ s3 (.ctz 3 1 0 0) 8 0 = 3 ∧ s3 (.clzW 3 1 0 0) 0xFFFFFFFF00000001 0 = 31 ∧
    s3 (.popcW 3 1 0 0) 0xFFFFFFFF00000003 0 = 2 := by decide +kernel
theorem test_sel_takes_its_guard : s3 (.sel 3 1 2 1 0) 5 6 = 6 ∧ s3 (.sel 3 1 2 1 1) 5 6 = 5 := by decide +kernel
theorem test_addi_sign_extends : s3 (.addi 3 1 0 0x1FFF []) 5 0 = 4 := by decide +kernel
theorem test_s0_is_discarded : (after (.add 0 1 2 0 0) (two 5 6)).cur.s 0 = 0 := by decide +kernel
theorem test_false_guard : s3 (.add 3 1 2 1 0) 5 6 = 0 := by decide +kernel
theorem test_cmpi_unsigned : (after (.cmpi 1 0 1 4 0x1FFF) (two 5 0)).cur.p 1 = true ∧ (after (.cmpi 1 0 1 2 0x1FFF) (two 5 0)).cur.p 1 = false := by
  decide +kernel

/-- Tables 5-5 and 5-6: latencies, division's corners, and roundings worked by hand. -/
theorem test_mulh_signed : pending (.mulh 1 2 0 0 1) 0xFFFFFFFFFFFFFFFF 2 = [(4, 0xFFFFFFFFFFFFFFFF, 0)] := by decide +kernel
theorem test_mulhu : pending (.mulhu 1 2 0 0 1) 0xFFFFFFFFFFFFFFFF 2 = [(4, 1, 0)] := by decide +kernel
theorem test_div_truncates : pending (.div 1 2 0 0 0) 0xFFFFFFFFFFFFFFF9 2 = [(22, 0xFFFFFFFFFFFFFFFD, 0)] := by decide +kernel
theorem test_rem_sign : pending (.rem 1 2 0 0 0) 0xFFFFFFFFFFFFFFF9 2 = [(22, 0xFFFFFFFFFFFFFFFF, 0)] := by decide +kernel
theorem test_divu_by_zero : pending (.divu 1 2 0 0 0) 7 0 = [(22, 0xFFFFFFFFFFFFFFFF, 0)] ∧ pending (.remu 1 2 0 0 0) 7 0 = [(22, 7, 0)] := by
  decide +kernel
theorem test_faddS_tie_to_even : pending (.faddS 1 2 0 0 0) 0x3F800000 0x33800000 = [(4, 0x3F800000, 1)] := by decide +kernel
theorem test_fdivS_by_zero : pending (.fdivS 1 2 0 0 0) 0x3F800000 0x80000000 = [(14, 0xFF800000, 8)] := by decide +kernel
theorem test_fsqrtS_negative : pending (.fsqrtS 1 0 0 0) 0xBF800000 0 = [(14, 0x7FC00000, 16)] := by decide +kernel
theorem test_fmulD : pending (.fmulD 1 2 0 0 0) 0x4000000000000000 0xC008000000000000 = [(4, 0xC018000000000000, 0)] := by decide +kernel
theorem test_cvtIS_truncates : pending (.cvtIS 1 0 0 0) 0xC0300000 0 = [(4, 0xFFFFFFFFFFFFFFFE, 1)] := by decide +kernel
theorem test_cvtIS_saturates : pending (.cvtIS 1 0 0 0) 0x4F32D05E 0 = [(4, 0x7FFFFFFF, 16)] := by decide +kernel
/-- Table 3-7's worked conversions. -/
theorem test_conversions :
    Num.round Num.bf16 .rne false (Num.decode Num.fp32 0x3F808000) = (0x3F80, 1) ∧ Num.round Num.bf16 .rne false (Num.decode Num.fp32 0x3F818000) = (0x3F82, 1) ∧
      Num.round Num.e4m3 .rne false (Num.decode Num.fp32 0x43FA0000) = (0x7F, 5) ∧ Num.round Num.e4m3 .rne true (Num.decode Num.fp32 0x43FA0000) = (0x7E, 5) ∧
      Num.round Num.e2m1 .rne false (Num.decode Num.fp32 0x40200000) = (0x4, 1) ∧ Num.round Num.fp16 .rne false (Num.decode Num.fp32 0x33000000) = (0, 3) := by
  decide +kernel

/-- R118-R121: scratchpad slots and stores, little-endian and truncated. -/
theorem test_ssp_halfword : (after (.ssp 2 1 0 1 4) (two 0x100 0xABCDEF)).cur.spad.readN 0x104 4 = 0xCDEF := by decide +kernel
theorem test_ssp_misaligned : (after (.ssp 2 1 0 1 1) (two 0x100 0xABCDEF)).cur.sys.cause.toNat % 256 = 5 := by decide +kernel
/-- R122, Table 5-12: a call links the next line and redirects to its own line plus the displacement. -/
theorem test_call_links :
    (after (.call 0 0 0x3FFFFF) (queued .control [qe 0x44] fun x => { x with fetch := { x.fetch with code := List.replicate 8 0 } })).cur.s 31 = 0x60 := by
  decide +kernel
/-- R257, R262: trap 5 enters the handler with CAUSE 0x30 and TCODE 5; eret goes back. -/
theorem test_trap_cause : let x := (after (.trap 0 5) (queued .control [qe 4] id)).cur
    x.phase = .trapped ∧ x.sys.cause = 0x50030 := by decide +kernel
theorem test_eret_resumes : (after .eret sup).cur.phase = .running := by decide +kernel
theorem test_eret_in_user_mode : (after .eret user).cur.sys.cause.toNat % 256 = 0x04 := by decide +kernel
theorem test_mfs_privileged : (after (.mfs 3 0x100) user).cur.phase = .trapped ∧ (after (.mfs 3 0x010) { user with fcc := 9 }).cur.s 3 = 9 := by decide +kernel
/-- R342: sig adds, wait takes, and a wait without enough holds. -/
theorem test_sig_wait : (after (.sig 5 2) user).cur.sync.sem[5] = 2 ∧
    (after (.wait 5 2) (onTile fun x => { x with sync := { x.sync with sem := x.sync.sem.set 5 3 } })).cur.sync.sem[5] = 1 ∧
    ((after (.wait 5 1) user).cur.str .control).used = false := by decide +kernel

/-- The row, the lanes and element 0 that the youngest vector record writes. -/
def vrow (i : Instr) (s : State) : Option (Nat × Bool × Nat) :=
  (after i (atPhase 2 s)).cur.vec.recs.findSome? fun r => match r.act with
    | .row n en v => some (n, en.getLsbD 0, v.toNat % 2 ^ 32)
    | _ => none
def floats (a b : Nat) : State := onTile fun x =>
  { x with rsp := (x.rsp.setRow 1 (BitVec.ofNat 4096 a)).setRow 2 (BitVec.ofNat 4096 b), vec := { x.vec with vview := 0xC000 } }
/-- R137-R144: element 0 of a few vector forms, and a lane outside its mask. -/
theorem test_vadd_f32 : vrow (.vadd 3 1 2 0 0) (floats 0x3F800000 0x40000000) = some (3, true, 0x40400000) := by decide +kernel
theorem test_vsub_i32 : vrow (.vsub 3 1 2 0 2) (floats 1 2) = some (3, true, 0xFFFFFFFF) := by decide +kernel
theorem test_vxor_masked : (vrow (.vxor 3 1 2 1 0) (floats 5 6)).map (fun r => r.2.1) = some false := by decide +kernel
theorem test_vsra_i32 : vrow (.vsra 3 1 2 0 2) (floats 0x80000000 4) = some (3, true, 0xF8000000) := by decide +kernel
theorem test_vneg_f32 : vrow (.vneg 3 1 0 0) (floats 0x3F800000 0) = some (3, true, 0xBF800000) := by decide +kernel

/-- Table 7-1: address registers. -/
theorem test_laAddi : (after (.laAddi 3 2 0x1FF8 []) (atPhase 3 (onTile fun x => { x with ld := { x.ld with a := x.ld.a.set 2 8 } }))).cur.ld.a[3] = 0 := by
  decide +kernel
/-- R392: the CRC-8 of the digits 1 to 9 with polynomial 0x07 and initial value 0 is 0xF4, and a row with one bad byte is corrected. -/
theorem test_crc8 : crc8 [0x31, 0x32, 0x33, 0x34, 0x35, 0x36, 0x37, 0x38, 0x39] = 0xF4 := by decide +kernel
/-- R393: α^8 of GF(2^8) under 0x11D is 0x1D, and the parity of a message makes its syndromes zero. -/
theorem test_code : gfExp 8 = 0x1D ∧ syndromes 4 ([1, 2, 3] ++ rsParity 4 [1, 2, 3]) = [0, 0, 0, 0] ∧
    rsDecode 4 (([1, 2, 3] ++ rsParity 4 [1, 2, 3]).set 1 0x77) = some ([1, 2, 3] ++ rsParity 4 [1, 2, 3], [1]) := by decide +kernel
/-- R348: the last arrival that an armed word expects completes its phase. -/
theorem test_barrier_completes : barState (barPost (barOf 1 0 1 7 3 2 0 0) 1 0) = 2 ∧ barState (barPost (barOf 1 0 1 7 3 3 0 0) 1 0) = 3 := by decide +kernel
/-- Table 25-1: 22 + VSET/5, at most 40. -/
theorem test_ratio_limit : ratioLimit 50 = 32 ∧ ratioLimit 125 = 40 := by decide +kernel

end Sys2Proof.Tests
end

/-!
PROOFS of the family 00_scope.md: memories in canonical form (O59, O60).  One lemma per function of the model that answers a machine or a
tile, named after it and in the model's order, each from the lemmas of the functions that it calls.
-/
namespace Sys2Proof.Safety
open Sys2Proof Sys2Proof.Machine

/-! ## What it is for an answer to keep the memories

Every function of the model that answers a machine or a tile gets one lemma: from a machine (tile) in canonical form it answers one in
canonical form.  The predicates below say this of the model's other kinds of answer; what carries no memory is in order. -/

/-- The next state, if there is one, has its memories in canonical form. -/
def OutOk : Out → Prop
  | .next s => MemoryOk s
  | _ => True

/-- The value that is there meets `P`. -/
def OptOk (P : α → Prop) : Option α → Prop
  | some a => P a
  | none => True

/-- What an issue answers: its effect meets `P`, and what is begun for a held instruction keeps the memories. -/
def ResOk (P : α → Prop) : Res α → Prop
  | .done a => P a
  | .stay g => ∀ s, MemoryOk s → MemoryOk (g s)
  | _ => True

/-- The state that a performed access leaves meets `P`. -/
def FateOk (P : α → Prop) : Fate α → Prop
  | .ok a => P a
  | _ => True

/-- The state that a check leaves, passed or failed, meets `P`. -/
def CheckedOk (P : σ → Prop) : Checked σ α → Prop
  | .ok s _ => P s
  | .bad s _ _ => P s
  | .hold => True

/-- Lines made ready for a write leave a machine in canonical form. -/
def SnapOk : SnapFate → Prop
  | .ok s => MemoryOk s
  | _ => True

/-- A stream's read of an element leaves a machine in canonical form. -/
def ReadOk : StreamRead → Prop
  | .val s _ => MemoryOk s
  | .sent s => MemoryOk s
  | _ => True

/-- The writes of a copy leave a machine in canonical form, made or refused. -/
def PlacedOk : Placed → Prop
  | .ok s => MemoryOk s
  | .refuse s _ _ => MemoryOk s
  | .hold => True

theorem SnapOk.ok {r : SnapFate} (g : SnapOk r) (e : r = .ok s) : MemoryOk s := by subst e; exact g

theorem ReadOk.val {r : StreamRead} (g : ReadOk r) (e : r = .val s n) : MemoryOk s := by subst e; exact g

theorem ReadOk.sent {r : StreamRead} (g : ReadOk r) (e : r = .sent s) : MemoryOk s := by subst e; exact g

theorem PlacedOk.ok {r : Placed} (g : PlacedOk r) (e : r = .ok s) : MemoryOk s := by subst e; exact g

theorem PlacedOk.refuse {r : Placed} (g : PlacedOk r) (e : r = .refuse s c a) : MemoryOk s := by subst e; exact g

theorem OutOk.next {o : Out} (g : OutOk o) (e : o = .next s) : MemoryOk s := by subst e; exact g

theorem ResOk.stay {P : α → Prop} {r : Res α} (g : ResOk P r) (e : r = .stay k) : ∀ s, MemoryOk s → MemoryOk (k s) := by
  subst e; exact g

theorem OptOk.some {P : α → Prop} {o : Option α} (g : OptOk P o) {a : α} (e : o = .some a) : P a := by subst e; exact g

theorem OptOk.map {P : α → Prop} {Q : β → Prop} {f : α → β} {o : Option α} (g : OptOk P o) (hf : ∀ a, P a → Q (f a)) :
    OptOk Q (o.map f) := by
  cases o with
  | none => trivial
  | some a => exact hf a g

theorem OptOk.bind {P : α → Prop} {Q : β → Prop} {f : α → Option β} {o : Option α} (g : OptOk P o) (hf : ∀ a, P a → OptOk Q (f a)) :
    OptOk Q (o.bind f) := by
  cases o with
  | none => trivial
  | some a => exact hf a g

theorem OptOk.getD {P : α → Prop} {o : Option α} {d : α} (g : OptOk P o) (hd : P d) : P (o.getD d) := by
  cases o with
  | none => exact hd
  | some a => exact g

theorem ResOk.done {P : α → Prop} {r : Res α} (g : ResOk P r) {a : α} (e : r = .done a) : P a := by subst e; exact g

theorem ResOk.map {P : α → Prop} {Q : β → Prop} {f : α → β} {r : Res α} (g : ResOk P r) (hf : ∀ a, P a → Q (f a)) :
    ResOk Q (r.map f) := by
  cases r with
  | done a => exact hf a g
  | stay k => exact g
  | hold => trivial
  | trap x => trivial

theorem ResOk.bind {P : α → Prop} {Q : β → Prop} {f : α → Res β} {r : Res α} (g : ResOk P r) (hf : ∀ a, P a → ResOk Q (f a)) :
    ResOk Q (r.bind f) := by
  cases r with
  | done a => exact hf a g
  | stay k => exact g
  | hold => trivial
  | trap x => trivial

theorem FateOk.ok {P : α → Prop} {r : Fate α} (g : FateOk P r) {a : α} (e : r = .ok a) : P a := by subst e; exact g

theorem CheckedOk.ok {P : σ → Prop} {r : Checked σ α} (g : CheckedOk P r) {s : σ} {a : α} (e : r = .ok s a) : P s := by subst e; exact g

theorem CheckedOk.bad {P : σ → Prop} {r : Checked σ α} (g : CheckedOk P r) {s : σ} {c : Nat} {a : W64} (e : r = .bad s c a) : P s := by
  subst e; exact g

theorem CheckedOk.checkList {P : σ → Prop} (hs : P s) (hn : CheckedOk P next) : CheckedOk P (checkList s l next) := by
  unfold Machine.checkList
  split
  exacts [hs, hn]

/-- The value that a search finds meets what all values of the list meet. -/
theorem OptOk.find? {P : α → Prop} {l : List α} (h : ∀ a ∈ l, P a) {f : α → Bool} : OptOk P (l.find? f) := by
  cases e : l.find? f with
  | none => trivial
  | some a => exact h a (List.mem_of_find?_eq_some e)

/-- A fold whose every step keeps a property keeps it. -/
theorem foldl_keeps {P : β → Prop} {f : β → α → β} (hf : ∀ b a, P b → P (f b a)) (l : List α) {b : β} (hb : P b) : P (l.foldl f b) := by
  induction l generalizing b with
  | nil => exact hb
  | cons a l ih => exact ih (hf b a hb)

theorem Memory.wf_foldl {f : Memory → α → Memory} (hf : ∀ m a, m.wf = true → (f m a).wf = true) (l : List α) {m : Memory} (hm : m.wf = true) :
    (l.foldl f m).wf = true :=
  foldl_keeps (P := fun m => Memory.wf m = true) hf l hm

/-! ## The parts of a machine in canonical form -/

/-- The tiles that a launch has saved have their memories in canonical form. -/
def LaunchOk (l : Launch) : Prop := ∀ t ∈ l.saved, TileOk t

/-- An update of fields of a launch other than its saved tiles. -/
theorem LaunchOk.frame (h : LaunchOk l) :
    LaunchOk ⟨a1, a2, a3, a4, a5, a6, a7, a8, a9, a10, a11, a12, a13, a14, a15, a16, a17, a18, a19, a20, a21, a22, l.saved, a23, a24, a25⟩ := h

theorem LaunchOk.of_nil (h : l.saved = []) : LaunchOk l := by
  intro t ht
  rw [h] at ht
  cases ht

/-- Launches that a function keeps one by one. -/
theorem launches_map {ls : List Launch} {f : Launch → Launch} (hl : ∀ l ∈ ls, LaunchOk l) (hf : ∀ l, LaunchOk l → LaunchOk (f l)) :
    ∀ l ∈ ls.map f, LaunchOk l := by
  intro l hm
  obtain ⟨y, hy, rfl⟩ := List.mem_map.1 hm
  exact hf y (hl y hy)

theorem MemoryOk.store (h : MemoryOk s) : StoreOk s.store := h.1

theorem MemoryOk.tile (h : MemoryOk s) (n : TileNo) : TileOk (s.tile n) := h.2.1 n

theorem MemoryOk.saved (h : MemoryOk s) : ∀ l ∈ s.launches, LaunchOk l := h.2.2

/-- An update of fields that carry no memory. -/
theorem MemoryOk.frame (h : MemoryOk s) :
    MemoryOk ⟨s.tiles, a1, a2, a3, a4, a5, a6, s.store, a7, a8, a9, a10, a11, a12, a13, s.launches,
      a14, a15, a16, a17, a18, a19, a20, a21, a22, a23, a24, a25, a26, a27, a28⟩ := h

/-- An update of the homes' store, and of fields that carry no memory. -/
theorem MemoryOk.update (h : MemoryOk s) (hx : StoreOk x) :
    MemoryOk ⟨s.tiles, a1, a2, a3, a4, a5, a6, x, a7, a8, a9, a10, a11, a12, a13, s.launches,
      a14, a15, a16, a17, a18, a19, a20, a21, a22, a23, a24, a25, a26, a27, a28⟩ := ⟨hx, h.2⟩

/-- An update of the launches, and of fields that carry no memory. -/
theorem MemoryOk.relaunch (h : MemoryOk s) (hl : ∀ l ∈ ls, LaunchOk l) :
    MemoryOk ⟨s.tiles, a1, a2, a3, a4, a5, a6, s.store, a7, a8, a9, a10, a11, a12, a13, ls,
      a14, a15, a16, a17, a18, a19, a20, a21, a22, a23, a24, a25, a26, a27, a28⟩ := ⟨h.store, h.2.1, hl⟩

theorem StoreOk.mem (h : StoreOk x) : x.mem.wf = true := h.1
theorem StoreOk.stamp (h : StoreOk x) : x.stamp.wf = true := h.2.1
theorem StoreOk.attr (h : StoreOk x) : x.attr.wf = true := h.2.2.1
theorem StoreOk.chunk (h : StoreOk x) : x.chunk.wf = true := h.2.2.2.1
theorem StoreOk.dirty (h : StoreOk x) : x.dirty.wf = true := h.2.2.2.2

theorem TileOk.spad (h : TileOk t) : t.spad.wf = true := h.1
theorem TileOk.spad0 (h : TileOk t) : t.spad0.wf = true := h.2.1
theorem TileOk.rsp (h : TileOk t) : t.rsp.wf = true := h.2.2

/-- An update of fields of a tile that carry no memory. -/
theorem TileOk.frame (h : TileOk t) :
    TileOk ⟨a1, a2, a3, a4, a5, a6, a7, a8, a9, a10, a11, a12, a13, a14, a15, a16, a17, a18,
      a19, a20, a21, t.spad, t.spad0, t.rsp, a22, a23, a24, a25, a26⟩ := h

/-- An update of a tile's memories, and of fields that carry none. -/
theorem TileOk.update (h1 : Memory.wf m = true) (h2 : Memory.wf m0 = true) (h3 : Memory.wf r = true) :
    TileOk ⟨a1, a2, a3, a4, a5, a6, a7, a8, a9, a10, a11, a12, a13, a14, a15, a16, a17, a18, a19, a20, a21, m, m0, r, a22, a23, a24, a25,
      a26⟩ := ⟨h1, h2, h3⟩

/-- An update of the homes' memories. -/
theorem StoreOk.update (h1 : Memory.wf m = true) (h2 : Memory.wf st = true) (h3 : Memory.wf at_ = true) (h4 : Memory.wf ch = true)
    (h5 : Memory.wf di = true) : StoreOk ⟨m, st, a1, a2, at_, ch, di, a3, a4, a5⟩ := ⟨h1, h2, h3, h4, h5⟩

/-- An update of what the homes keep besides their memories. -/
theorem StoreOk.frame (h : StoreOk x) : StoreOk ⟨x.mem, x.stamp, a1, a2, x.attr, x.chunk, x.dirty, a3, a4, a5⟩ := h

theorem TileOk.ite [Decidable c] (ht : TileOk t) (hu : TileOk u) : TileOk (if c then t else u) := by
  split
  exacts [ht, hu]

theorem TileOk.dite [Decidable c] {f : c → Tile} {g : ¬c → Tile} (hf : ∀ e, TileOk (f e)) (hg : ∀ e, TileOk (g e)) :
    TileOk (if e : c then f e else g e) := by
  split
  exacts [hf _, hg _]

theorem MemoryOk.setTile (h : MemoryOk s) (hx : TileOk x) : MemoryOk (s.setTile n x) := by
  refine ⟨h.store, fun k => ?_, h.saved⟩
  by_cases e : k = n
  · rw [e, State.tile_setTile_same]; exact hx
  · rw [State.tile_setTile_other s x e]; exact h.tile k

theorem MemoryOk.modTile (h : MemoryOk s) (hf : ∀ x, TileOk x → TileOk (f x)) : MemoryOk (s.modTile n f) :=
  h.setTile (hf _ (h.tile n))

theorem State.tile_mapTiles (s : State) (f : TileNo → Tile → Tile) (n : TileNo) : (s.mapTiles f).tile n = f n (s.tile n) := by
  simp [State.tile, State.mapTiles]

theorem MemoryOk.mapTiles (h : MemoryOk s) (hf : ∀ n x, TileOk x → TileOk (f n x)) : MemoryOk (s.mapTiles f) := by
  unfold MemoryOk
  simp only [State.mapTiles_store, State.mapTiles_launches, State.tile_mapTiles]
  exact ⟨h.store, fun n => hf n _ (h.tile n), h.saved⟩

theorem MemoryOk.of_fst {x : State × β} (g : MemoryOk x.1) (e : x = (s, b)) : MemoryOk s := by subst e; exact g

theorem MemoryOk.cur (h : MemoryOk s) : TileOk s.cur := h.tile s.here

/-! ### The updates of the state (Machine/Ops.lean) -/

theorem TileOk.modStr (h : TileOk t) : TileOk (t.modStr k f) := h.frame
theorem TileOk.setQueue (h : TileOk t) : TileOk (t.setQueue k q) := h.frame.ite h.modStr
theorem TileOk.setRegs (h : TileOk t) : TileOk (t.setRegs r) := h.frame
theorem TileOk.setS (h : TileOk t) : TileOk (t.setS i v) := h.setRegs
theorem TileOk.setP (h : TileOk t) : TileOk (t.setP i v) := h.setRegs
theorem TileOk.setBank (h : TileOk t) : TileOk (t.setBank b) := h.frame
theorem TileOk.setFpsr (h : TileOk t) : TileOk (t.setFpsr k v) := h.frame
theorem TileOk.raiseFlags (h : TileOk t) : TileOk (t.raiseFlags k f) := h.setFpsr
theorem TileOk.tickControl (h : TileOk t) : TileOk t.tickControl := h.setBank.raiseFlags
theorem TileOk.pend (h : TileOk t) : TileOk (t.pend lat dest v fl) := h.setBank
theorem TileOk.semAdd (h : TileOk t) : TileOk (t.semAdd i c) := h.frame
theorem Memory.wf_setSlice {m : Memory} (h : m.wf = true) : (m.setSlice r x en v).wf = true := Memory.wf_writeN h

theorem TileOk.sliceAct (h : TileOk t) : TileOk (t.sliceAct x a) := by
  unfold Tile.sliceAct
  split
  · exact TileOk.update h.spad h.spad0 (Memory.wf_setSlice h.rsp)
  · exact TileOk.update h.spad h.spad0 (Memory.wf_setSlice h.rsp)
  · exact h.frame
  · exact h

theorem TileOk.begin (h : TileOk t) : TileOk (t.begin a) := h.sliceAct.frame

theorem TileOk.vact (h : TileOk t) : TileOk (t.vact a) := by
  unfold Tile.vact
  split
  · exact h.begin.frame
  · exact h.begin.frame
  · exact h.ite h.begin.frame
  · exact h.begin
  · exact h.raiseFlags
  · exact h.frame
  · exact h.frame
  · exact h.frame
  · exact h.semAdd

theorem TileOk.landVec (h : TileOk t) : TileOk (t.landVec l) := by
  induction l generalizing t with
  | nil => exact h
  | cons r rest ih =>
    unfold Tile.landVec
    split
    · exact ih h
    · split
      exacts [ih h.vact, (ih h).frame]

theorem TileOk.passLate (h : TileOk t) : TileOk (t.passLate l) := by
  induction l generalizing t with
  | nil => exact h
  | cons r rest ih =>
    unfold Tile.passLate
    refine ih ?_
    split
    exacts [h.sliceAct.frame, h.sliceAct]

theorem TileOk.tickVector (h : TileOk t) : TileOk t.tickVector := h.frame.passLate.landVec

theorem TileOk.tick (h : TileOk t) : TileOk (t.tick a) := by
  unfold Tile.tick
  split
  exacts [h.tickControl, h.tickVector, h]

theorem TileOk.countUp (h : TileOk t) : TileOk (t.countUp k) := h.modStr
theorem TileOk.retire (h : TileOk t) : TileOk (t.retire k) := h.setQueue.countUp
theorem TileOk.finishHead (h : TileOk t) : TileOk (t.finishHead k) := h.retire.modStr
theorem MemoryOk.modCtx (h : MemoryOk s) : MemoryOk (s.modCtx c f) := h.frame
theorem MemoryOk.makeRecord (h : MemoryOk s) : MemoryOk (s.makeRecord c cause strand fatal nest async pc addr lt tl info) := h.modCtx
theorem MemoryOk.asyncRecord (h : MemoryOk s) : MemoryOk (s.asyncRecord c code sub tl addr strand lt info) := h.makeRecord
theorem MemoryOk.logEvent (h : MemoryOk s) : MemoryOk (s.logEvent kind detail) := h.frame
theorem TileOk.traceAdd (h : TileOk t) : TileOk (t.traceAdd fcc type strand wd) := h.frame.ite h.frame
theorem TileOk.traceBr (h : TileOk t) : TileOk (t.traceBr fcc nx taken) := h.traceAdd.ite h
theorem TileOk.release (h : TileOk t) : TileOk t.release := h.frame

theorem MemoryOk.killWith (h : MemoryOk s) : MemoryOk (s.killWith c code cause strand nest async pc addr lt tl info) := by
  unfold State.killWith
  split
  exacts [h.logEvent, (h.mapTiles (fun _ _ h1 => h1.release.ite h1)).frame.modCtx.makeRecord, h.makeRecord]

theorem MemoryOk.kill (h : MemoryOk s) : MemoryOk (s.kill c code) := h.killWith

theorem TileOk.traceEntry (h : TileOk t) : TileOk (t.traceEntry fcc) := by
  unfold Tile.traceEntry
  split
  · split
    exacts [h.traceBr, h]
  · exact h

theorem TileOk.trapEntry (h : TileOk t) : TileOk (t.trapEntry k) := h.frame
theorem TileOk.dropErrors (h : TileOk t) : TileOk t.dropErrors := h.frame
theorem TileOk.faultAt (h : TileOk t) : TileOk (t.faultAt k f pc) := h.dropErrors.modStr.frame.ite h.dropErrors.modStr

theorem MemoryOk.fault (h : MemoryOk s) : MemoryOk (s.fault t k f) := by
  unfold State.fault
  dsimp only
  split
  · split
    exacts [h.killWith, h.setTile (h.tile _).faultAt.traceEntry.trapEntry]
  · exact h.setTile (h.tile _).faultAt

theorem TileOk.eret (h : TileOk t) : TileOk t.eret := by
  unfold Tile.eret
  dsimp only
  split
  · split
    exacts [h.frame.modStr.frame.ite h.frame.modStr, h.frame.modStr]
  · refine TileOk.frame ?_
    refine TileOk.trapEntry ?_
    split
    exacts [h.frame.modStr.frame.ite h.frame.modStr, h.frame.modStr]

theorem MemoryOk.issue (h : MemoryOk s) (hf : ∀ x, MemoryOk x → ResOk MemoryOk (f x)) : MemoryOk (s.issue k f) := by
  have hx := hf _ (h.modTile (n := s.here) fun _ h1 => h1.tick (a := k))
  unfold State.issue
  dsimp only
  split
  · exact (hx.done ‹_›).modTile fun _ h1 => h1.retire
  · exact h
  · exact hx.stay ‹_› s h
  · exact h.fault

theorem MemoryOk.issueT (h : MemoryOk s) (hf : ∀ x, TileOk x → ResOk TileOk (f x)) : MemoryOk (s.issueT k f) :=
  h.issue (fun _ h1 => (hf _ h1.cur).map (fun _ h2 => h1.setTile h2))

/-! ### Operands and the shared forms of an issue (Machine/Operands.lean) -/

theorem ResOk.vread {t : Tile} : ResOk (fun _ => True) (t.vread win iota bc nth c) := by
  unfold Tile.vread
  dsimp only
  split
  · split <;> trivial
  · split
    · split
      · trivial
      · split <;> trivial
    · split
      · trivial
      · split <;> trivial

theorem ResOk.vcheck {t : Tile} : ResOk (fun _ => True) (t.vcheck win srcs dests) := by
  unfold Tile.vcheck
  split
  · trivial
  · split <;> trivial

theorem TileOk.vpop (h : TileOk t) : TileOk (t.vpop c) := h.frame.ite h

theorem ResOk.vroom {t : Tile} : ResOk (fun _ => True) (t.vroom d) := by
  unfold Tile.vroom
  dsimp only
  split
  · trivial
  · split <;> split <;> trivial

theorem TileOk.vdeliver (h : TileOk t) : TileOk (t.vdeliver win d lat en v fl) := by
  unfold Tile.vdeliver
  dsimp only
  split
  · split
    · split
      exacts [h.frame, h]
    · exact h.frame.ite h.frame
  · refine TileOk.frame ?_
    split
    · split
      exacts [h.frame, h]
    · exact h.frame.ite h.frame

theorem ResOk.vreadIx {t : Tile} : ResOk (fun _ => True) (t.vreadIx win iota c) := by
  unfold Tile.vreadIx
  split
  · split <;> trivial
  · split
    exacts [trivial, ResOk.vread]

theorem ResOk.vreadA {t : Tile} : ResOk (fun _ => True) (t.vreadA win iota bc c) := by
  unfold Tile.vreadA
  split
  · refine ResOk.vreadIx.bind fun _ _ => ?_
    split <;> trivial
  · exact ResOk.vread

/-! ### The control strand (Machine/Control.lean) -/

theorem MemoryOk.ctl (h : MemoryOk s) (hf : ∀ x, TileOk x → ResOk TileOk (f x)) : OutOk (ctl p n f s) := by
  unfold Machine.ctl
  change MemoryOk _
  refine h.issueT fun _ h1 => ?_
  split
  exacts [hf _ h1, h1]

theorem MemoryOk.alu (h : MemoryOk s) : OutOk (alu d p n f s) := h.ctl (fun _ h1 => h1.setS)
theorem MemoryOk.plog (h : MemoryOk s) : OutOk (plog d f s) := h.issueT (fun _ h1 => h1.setP)
theorem MemoryOk.unit (h : MemoryOk s) : OutOk (unit lat dest p n f s) := h.ctl (fun _ h1 => h1.pend)
theorem MemoryOk.execAdd (h : MemoryOk s) : OutOk (execAdd d a b p n s) := h.alu
theorem MemoryOk.execSub (h : MemoryOk s) : OutOk (execSub d a b p n s) := h.alu
theorem MemoryOk.execAnd (h : MemoryOk s) : OutOk (execAnd d a b p n s) := h.alu
theorem MemoryOk.execOr (h : MemoryOk s) : OutOk (execOr d a b p n s) := h.alu
theorem MemoryOk.execXor (h : MemoryOk s) : OutOk (execXor d a b p n s) := h.alu
theorem MemoryOk.execAndn (h : MemoryOk s) : OutOk (execAndn d a b p n s) := h.alu
theorem MemoryOk.execShl (h : MemoryOk s) : OutOk (execShl d a b p n s) := h.alu
theorem MemoryOk.execShr (h : MemoryOk s) : OutOk (execShr d a b p n s) := h.alu
theorem MemoryOk.execSra (h : MemoryOk s) : OutOk (execSra d a b p n s) := h.alu
theorem MemoryOk.execMin (h : MemoryOk s) : OutOk (execMin d a b p n s) := h.alu
theorem MemoryOk.execMax (h : MemoryOk s) : OutOk (execMax d a b p n s) := h.alu
theorem MemoryOk.execMinu (h : MemoryOk s) : OutOk (execMinu d a b p n s) := h.alu
theorem MemoryOk.execMaxu (h : MemoryOk s) : OutOk (execMaxu d a b p n s) := h.alu
theorem MemoryOk.execClz (h : MemoryOk s) : OutOk (execClz d a p n s) := h.alu
theorem MemoryOk.execCtz (h : MemoryOk s) : OutOk (execCtz d a p n s) := h.alu
theorem MemoryOk.execPopc (h : MemoryOk s) : OutOk (execPopc d a p n s) := h.alu
theorem MemoryOk.execSel (h : MemoryOk s) : OutOk (execSel d a b p n s) := h.alu
theorem MemoryOk.execAddW (h : MemoryOk s) : OutOk (execAddW d a b p n s) := h.alu
theorem MemoryOk.execSubW (h : MemoryOk s) : OutOk (execSubW d a b p n s) := h.alu
theorem MemoryOk.execShlW (h : MemoryOk s) : OutOk (execShlW d a b p n s) := h.alu
theorem MemoryOk.execShrW (h : MemoryOk s) : OutOk (execShrW d a b p n s) := h.alu
theorem MemoryOk.execSraW (h : MemoryOk s) : OutOk (execSraW d a b p n s) := h.alu
theorem MemoryOk.execClzW (h : MemoryOk s) : OutOk (execClzW d a p n s) := h.alu
theorem MemoryOk.execCtzW (h : MemoryOk s) : OutOk (execCtzW d a p n s) := h.alu
theorem MemoryOk.execPopcW (h : MemoryOk s) : OutOk (execPopcW d a p n s) := h.alu
theorem MemoryOk.execAddi (h : MemoryOk s) : OutOk (execAddi d a p i x s) := h.alu
theorem MemoryOk.execAndi (h : MemoryOk s) : OutOk (execAndi d a p i x s) := h.alu
theorem MemoryOk.execOri (h : MemoryOk s) : OutOk (execOri d a p i x s) := h.alu
theorem MemoryOk.execXori (h : MemoryOk s) : OutOk (execXori d a p i x s) := h.alu
theorem MemoryOk.execShli (h : MemoryOk s) : OutOk (execShli d a p n s) := h.alu
theorem MemoryOk.execShri (h : MemoryOk s) : OutOk (execShri d a p n s) := h.alu
theorem MemoryOk.execSrai (h : MemoryOk s) : OutOk (execSrai d a p n s) := h.alu
theorem MemoryOk.execLi (h : MemoryOk s) : OutOk (execLi d p i x s) := h.alu
theorem MemoryOk.execLea (h : MemoryOk s) : OutOk (execLea d p i s) := h.alu
theorem MemoryOk.execCmp (h : MemoryOk s) : OutOk (execCmp d c a b p n k s) := h.ctl (fun _ h1 => h1.setP)
theorem MemoryOk.execCmpi (h : MemoryOk s) : OutOk (execCmpi d c a k i s) := h.ctl (fun _ h1 => h1.setP)
theorem MemoryOk.execPand (h : MemoryOk s) : OutOk (execPand d a b s) := h.plog
theorem MemoryOk.execPor (h : MemoryOk s) : OutOk (execPor d a b s) := h.plog
theorem MemoryOk.execPxor (h : MemoryOk s) : OutOk (execPxor d a b s) := h.plog
theorem MemoryOk.execPandn (h : MemoryOk s) : OutOk (execPandn d a b s) := h.plog
theorem MemoryOk.execPnot (h : MemoryOk s) : OutOk (execPnot d a s) := h.plog
theorem MemoryOk.execMul (h : MemoryOk s) : OutOk (execMul a b p n l s) := h.unit
theorem MemoryOk.execMulh (h : MemoryOk s) : OutOk (execMulh a b p n l s) := h.unit
theorem MemoryOk.execMulhu (h : MemoryOk s) : OutOk (execMulhu a b p n l s) := h.unit
theorem MemoryOk.execMulW (h : MemoryOk s) : OutOk (execMulW a b p n l s) := h.unit
theorem MemoryOk.execFaddS (h : MemoryOk s) : OutOk (execFaddS a b p n l s) := h.unit
theorem MemoryOk.execFsubS (h : MemoryOk s) : OutOk (execFsubS a b p n l s) := h.unit
theorem MemoryOk.execFmulS (h : MemoryOk s) : OutOk (execFmulS a b p n l s) := h.unit
theorem MemoryOk.execFmaS (h : MemoryOk s) : OutOk (execFmaS c a b p n l s) := h.unit
theorem MemoryOk.execFminS (h : MemoryOk s) : OutOk (execFminS a b p n l s) := h.unit
theorem MemoryOk.execFmaxS (h : MemoryOk s) : OutOk (execFmaxS a b p n l s) := h.unit
theorem MemoryOk.execFaddD (h : MemoryOk s) : OutOk (execFaddD a b p n l s) := h.unit
theorem MemoryOk.execFsubD (h : MemoryOk s) : OutOk (execFsubD a b p n l s) := h.unit
theorem MemoryOk.execFmulD (h : MemoryOk s) : OutOk (execFmulD a b p n l s) := h.unit
theorem MemoryOk.execFmaD (h : MemoryOk s) : OutOk (execFmaD c a b p n l s) := h.unit
theorem MemoryOk.execFminD (h : MemoryOk s) : OutOk (execFminD a b p n l s) := h.unit
theorem MemoryOk.execFmaxD (h : MemoryOk s) : OutOk (execFmaxD a b p n l s) := h.unit
theorem MemoryOk.execCvtSD (h : MemoryOk s) : OutOk (execCvtSD a p n l s) := h.unit
theorem MemoryOk.execCvtDS (h : MemoryOk s) : OutOk (execCvtDS a p n l s) := h.unit
theorem MemoryOk.execCvtSI (h : MemoryOk s) : OutOk (execCvtSI a p n l s) := h.unit
theorem MemoryOk.execCvtIS (h : MemoryOk s) : OutOk (execCvtIS a p n l s) := h.unit
theorem MemoryOk.execCvtDI (h : MemoryOk s) : OutOk (execCvtDI a p n l s) := h.unit
theorem MemoryOk.execCvtID (h : MemoryOk s) : OutOk (execCvtID a p n l s) := h.unit
theorem MemoryOk.execDiv (h : MemoryOk s) : OutOk (execDiv a b p n l s) := h.unit
theorem MemoryOk.execDivu (h : MemoryOk s) : OutOk (execDivu a b p n l s) := h.unit
theorem MemoryOk.execRem (h : MemoryOk s) : OutOk (execRem a b p n l s) := h.unit
theorem MemoryOk.execRemu (h : MemoryOk s) : OutOk (execRemu a b p n l s) := h.unit
theorem MemoryOk.execFdivS (h : MemoryOk s) : OutOk (execFdivS a b p n l s) := h.unit
theorem MemoryOk.execFsqrtS (h : MemoryOk s) : OutOk (execFsqrtS a p n l s) := h.unit
theorem MemoryOk.execFdivD (h : MemoryOk s) : OutOk (execFdivD a b p n l s) := h.unit
theorem MemoryOk.execFsqrtD (h : MemoryOk s) : OutOk (execFsqrtD a p n l s) := h.unit
theorem MemoryOk.execMovM (h : MemoryOk s) : OutOk (execMovM d l p n s) := h.alu
theorem MemoryOk.execMovD (h : MemoryOk s) : OutOk (execMovD d l p n s) := h.alu
theorem MemoryOk.execMovL (h : MemoryOk s) : OutOk (execMovL d l p n s) := h.alu
theorem TileOk.spillPut (h : TileOk t) : TileOk (t.spillPut i v) := h.frame.ite h.frame

theorem MemoryOk.execSpl (h : MemoryOk s) : OutOk (execSpl d p i s) := by
  unfold Machine.execSpl
  refine h.ctl fun _ h1 => ?_
  split
  exacts [h1.setS, trivial]

theorem MemoryOk.execSps (h : MemoryOk s) : OutOk (execSps a p i s) := by
  unfold Machine.execSps
  refine h.ctl fun _ h1 => ?_
  split
  exacts [h1.spillPut, trivial]

theorem MemoryOk.execLsp (h : MemoryOk s) : OutOk (execLsp k l a p i x s) := by
  unfold Machine.execLsp
  refine h.ctl fun _ h1 => ?_
  dsimp only
  split
  · trivial
  · split
    exacts [trivial, h1.pend]

theorem MemoryOk.execSsp (h : MemoryOk s) : OutOk (execSsp b a p z i s) := by
  unfold Machine.execSsp
  refine h.ctl fun _ h1 => ?_
  dsimp only
  split
  · trivial
  · split
    · trivial
    · split
      exacts [trivial, TileOk.update (Memory.wf_writeN h1.spad) h1.spad0 h1.rsp]

theorem TileOk.popStream (h : TileOk t) : ResOk (fun r => TileOk r.2) (popStream t q) := by
  unfold Machine.popStream
  split
  · split
    · trivial
    · split
      exacts [trivial, h.frame]
  · split
    exacts [trivial, h.frame]

theorem MemoryOk.execPopStream (h : MemoryOk s) : OutOk (execPopStream d b p n s) :=
  h.ctl (fun _ h1 => h1.popStream.map (fun _ h2 => h2.setS))

theorem MemoryOk.execPopChannel (h : MemoryOk s) : OutOk (execPopChannel d b p n s) := by
  unfold Machine.execPopChannel
  refine h.ctl fun _ h1 => ?_
  dsimp only
  split
  exacts [trivial, h1.frame.setS]

theorem MemoryOk.execPushK (h : MemoryOk s) : OutOk (execPushK a b p n s) := by
  unfold Machine.execPushK
  refine h.ctl fun _ h1 => ?_
  dsimp only
  split
  exacts [trivial, h1.frame]

theorem MemoryOk.execPushO (h : MemoryOk s) : OutOk (execPushO a b p n s) := by
  unfold Machine.execPushO
  refine h.ctl fun _ h1 => ?_
  dsimp only
  split
  exacts [trivial, h1.frame]

theorem MemoryOk.execPushJ (h : MemoryOk s) : OutOk (execPushJ a b p n s) := by
  unfold Machine.execPushJ
  refine h.ctl fun _ h1 => ?_
  dsimp only
  split
  exacts [trivial, h1.frame]

/-! ### Semaphores, flags and barriers (Machine/Sync.lean) -/

theorem TileOk.semTake (h : TileOk t) : OptOk TileOk (t.semTake i c) := by
  unfold Tile.semTake
  split
  exacts [h.frame, trivial]

theorem TileOk.takeAwait (h : TileOk t) : OptOk TileOk (t.takeAwait w) := by
  unfold Tile.takeAwait
  split
  exacts [h, h.semTake]

theorem TileOk.raise (h : TileOk t) : TileOk (t.raise r) := h.ite h.semAdd
theorem TileOk.setRing (h : TileOk t) : TileOk (t.setRing i r) := h.frame

theorem TileOk.relRing (h : TileOk t) : TileOk (t.relRing i c) := by
  unfold Tile.relRing
  split
  exacts [h.setRing, h]

theorem TileOk.performSigs (h : TileOk t) : TileOk (performSigs oldest l t).1 := by
  induction l generalizing t with
  | nil => exact h
  | cons g rest ih =>
    unfold Machine.performSigs
    split
    · refine ih ?_
      split
      exacts [h.relRing, h.semAdd]
    · exact h

theorem TileOk.pendingSigs (h : TileOk t) : TileOk (t.pendingSigs k) := by
  unfold Tile.pendingSigs
  split
  · exact h.performSigs.frame
  · exact h.performSigs.frame
  · exact h.performSigs.frame
  · exact h.performSigs.frame
  · exact h.performSigs.frame
  · exact h.performSigs.frame
  · exact h

theorem MemoryOk.execPendingSigPerform (h : MemoryOk s) : OutOk (execPendingSigPerform t k s) := h.modTile (fun _ h1 => h1.pendingSigs)

theorem TileOk.deferSig (h : TileOk t) : TileOk (t.deferSig k rel i c) := by
  unfold Tile.deferSig
  dsimp only
  refine TileOk.pendingSigs ?_
  split
  exacts [h.frame, h.frame, h.frame, h.frame, h.frame, h.frame, h]

theorem TileOk.sigOp (h : TileOk t) : TileOk (t.sigOp k i c) := by
  unfold Tile.sigOp
  split
  exacts [h.semAdd.ite h.frame, h.deferSig, h.deferSig, h.semAdd]

theorem MemoryOk.execSig (h : MemoryOk s) : OutOk (execSig i c s) := h.issueT (fun _ h1 => h1.sigOp)

theorem MemoryOk.execWait (h : MemoryOk s) : OutOk (execWait i c s) := by
  unfold Machine.execWait
  change MemoryOk _
  refine h.issueT fun _ h1 => ?_
  split
  exacts [h1.semTake.some ‹_›, trivial]

theorem MemoryOk.execFwait (h : MemoryOk s) : OutOk (execFwait i c s) := by
  unfold Machine.execFwait
  change MemoryOk _
  refine h.issueT fun _ h1 => ?_
  split
  exacts [h1, trivial]

theorem MemoryOk.execRawait (h : MemoryOk s) : OutOk (execRawait i c s) := by
  unfold Machine.execRawait
  change MemoryOk _
  refine h.issueT fun _ h1 => ?_
  split
  · trivial
  · split
    · trivial
    · split
      exacts [h1, trivial]

theorem MemoryOk.execRrel (h : MemoryOk s) : OutOk (execRrel i c s) := by
  unfold Machine.execRrel
  change MemoryOk _
  refine h.issueT fun _ h1 => ?_
  split
  · trivial
  · split
    · trivial
    · split
      exacts [h1.relRing, h1.relRing, h1.deferSig]

theorem TileOk.haltStrand (h : TileOk t) : TileOk (t.haltStrand k) := by
  unfold Tile.haltStrand
  split
  · exact h.frame.setBank
  · dsimp only
    refine TileOk.modStr ?_
    split
    · split
      exacts [h.setBank.frame.ite h.setBank, h.setBank]
    · exact h

/-! ### Branches (Machine/Branch.lean) -/

theorem TileOk.branch (h : TileOk t) : TileOk (t.branch lines tgt) := (h.frame.ite h.frame).ite (h.frame.modStr.ite h.frame)
theorem MemoryOk.execBr (h : MemoryOk s) : OutOk (execBr p n d s) := h.issueT (fun _ h1 => h1.branch)

theorem MemoryOk.execCall (h : MemoryOk s) : OutOk (execCall p n d s) := by
  unfold Machine.execCall
  change MemoryOk _
  refine h.issueT fun _ h1 => ?_
  split
  exacts [h1.branch.setS, h1.branch]

theorem MemoryOk.jumpReg (h : MemoryOk s) : OutOk (jumpReg a link p n s) := by
  unfold Machine.jumpReg
  change MemoryOk _
  refine h.issueT fun _ h1 => ?_
  split
  · dsimp only
    split
    · trivial
    · change TileOk _
      split
      exacts [h1.branch.setS, h1.branch]
  · exact h1.branch

theorem MemoryOk.execJr (h : MemoryOk s) : OutOk (execJr a p n s) := h.jumpReg
theorem MemoryOk.execJrl (h : MemoryOk s) : OutOk (execJrl d a p n s) := h.jumpReg

theorem MemoryOk.execBranchResolve (h : MemoryOk s) : OutOk (execBranchResolve t s) := by
  unfold Machine.execBranchResolve
  change MemoryOk _
  refine MemoryOk.modTile h ?_
  intro x h1
  split
  · split
    · split
      exacts [h1.frame.traceBr.ite h1, h1]
    · exact h1
  · split
    · split
      exacts [h1.frame.traceBr.ite h1, h1]
    · exact h1

theorem MemoryOk.execEvset (h : MemoryOk s) : OutOk (execEvset e s) := h.issue (fun _ h1 => h1.frame)
theorem MemoryOk.execEvclr (h : MemoryOk s) : OutOk (execEvclr e s) := h.issue (fun _ h1 => h1.frame)
theorem TileOk.setWait (h : TileOk t) : TileOk (t.setWait w) := h.frame
theorem MemoryOk.execEvtst (h : MemoryOk s) : OutOk (execEvtst d e s) := h.issue (fun _ h1 => h1.frame.modTile (fun _ h2 => h2.setWait))
theorem TileOk.answer (h : TileOk t) : TileOk (t.answer sup d v) := h.frame.ite h.frame

theorem MemoryOk.execEventPerform (h : MemoryOk s) : OutOk (execEventPerform s) := by
  unfold Machine.execEventPerform
  change MemoryOk _
  split
  · exact h
  · exact h.frame.modCtx
  · exact h.frame.modCtx
  · dsimp only
    refine MemoryOk.modTile h.frame ?_
    intro x h1
    split
    exacts [h1.answer, h1]

theorem MemoryOk.execTrap (h : MemoryOk s) : OutOk (execTrap p i s) := by
  unfold Machine.execTrap
  change MemoryOk _
  dsimp only
  split
  · split
    exacts [h.fault, h.setTile h.cur.tick.retire.faultAt.traceEntry.trapEntry]
  · exact h.issueT (fun _ h1 => h1)

theorem MemoryOk.execEret (h : MemoryOk s) : OutOk (execEret s) := by
  unfold Machine.execEret
  change MemoryOk _
  dsimp only
  split
  exacts [h.setTile h.cur.tick.eret.modStr, h.fault]

theorem TileOk.stopStrand (h : TileOk t) : TileOk (t.stopStrand k) := h.ite h.modStr
theorem TileOk.startStrand (h : TileOk t) : TileOk (t.startStrand k) := h.modStr

theorem MemoryOk.execTstop (h : MemoryOk s) : OutOk (execTstop a s) := by
  unfold Machine.execTstop
  change MemoryOk _
  split
  · exact h.fault
  · refine h.issueT fun _ h1 => ?_
    dsimp only
    split
    · trivial
    · split
      · exact fun _ h2 => h2.modTile (fun _ h3 => foldl_keeps (fun _ _ h4 => h4.stopStrand) _ h3)
      · exact foldl_keeps (fun _ _ h5 => h5.stopStrand) _ h1

theorem MemoryOk.execTgo (h : MemoryOk s) : OutOk (execTgo a s) := by
  unfold Machine.execTgo
  change MemoryOk _
  split
  · exact h.fault
  · refine h.issueT fun _ h1 => ?_
    dsimp only
    split
    exacts [trivial, foldl_keeps (fun _ _ h2 => h2.startStrand) _ h1]

theorem TileOk.boundary (h : TileOk t) : TileOk t.boundary := by
  unfold Tile.boundary
  split
  · exact h
  · split
    exacts [h.trapEntry, h.modStr.trapEntry.ite h]

theorem MemoryOk.execTrapEntry (h : MemoryOk s) : OutOk (execTrapEntry t s) := h.modTile (fun _ h1 => h1.traceEntry.boundary.ite h1)

/-! ### Fetch and loops (Machine/Fetch.lean) -/

theorem TileOk.deliver (h : TileOk t) : TileOk (t.deliver k es) := h.ite h.modStr
theorem TileOk.illegalLine (h : TileOk t) : TileOk (t.illegalLine addr) := h.frame.faultAt.ite h.frame.deliver

theorem TileOk.deliverOrphans (h : TileOk t) : TileOk (t.deliverOrphans es) := by
  unfold Tile.deliverOrphans
  split
  exacts [h, h.faultAt.ite h.deliver]

theorem TileOk.deliverLine (h : TileOk t) : TileOk (t.deliverLine n ls open_ skip) :=
  (foldl_keeps (fun _ _ h1 => h1.deliver) _ h.deliverOrphans).frame

theorem TileOk.fetchUser (h : TileOk t) : TileOk t.fetchUser := by
  unfold Tile.fetchUser
  split
  · exact h
  · dsimp only
    split
    · exact h.illegalLine
    · split
      · exact h.illegalLine
      · split
        · split
          exacts [h.illegalLine, h.illegalLine.ite (h.ite h.deliverLine)]
        · exact h.ite h.deliverLine

theorem TileOk.fetchSup (h : TileOk t) : TileOk (t.fetchSup code) := by
  unfold Tile.fetchSup
  dsimp only
  split
  · exact h
  · split
    exacts [h.frame, h.frame.ite (h.ite h.frame)]

theorem MemoryOk.fetchTile (h : MemoryOk s) : MemoryOk (s.fetchTile t) := h.modTile (fun _ h1 => h1.fetchSup.ite h1.fetchUser)
theorem MemoryOk.execFetchLine (h : MemoryOk s) : OutOk (execFetchLine t s) := h.fetchTile

theorem MemoryOk.execLoop (h : MemoryOk s) : OutOk (execLoop l src n c s) := by
  unfold Machine.execLoop
  change MemoryOk _
  split
  exacts [h.fetchTile, h]

theorem MemoryOk.execNopl (h : MemoryOk s) : OutOk (execNopl s) := by
  unfold Machine.execNopl
  change MemoryOk _
  split
  exacts [h.fetchTile, h]

theorem MemoryOk.execResultLanding (h : MemoryOk s) : OutOk (execResultLanding t k s) := h.modTile (fun _ h1 => h1.tick.countUp.ite h1)

/-! ### Windows (Machine/Windows.lean) -/

theorem TileOk.vecWrite (h : TileOk t) : TileOk (vecWrite t e v) := h.frame.ite h.frame
theorem TileOk.setMode (h : TileOk t) : TileOk (t.setMode x) := h.frame.setFpsr

theorem TileOk.paramWrite (h : TileOk t) : TileOk (paramWrite t i e v) := by
  unfold Machine.paramWrite
  split
  · split
    exacts [TileOk.dite (fun h1 => h.frame) (fun h2 => h), h.frame, h.frame, h.frame, h]
  · exact h

theorem TileOk.regWrite (h : TileOk t) : TileOk (regWrite t e v) := by
  unfold Machine.regWrite
  exact .dite (fun _ => h.frame) fun _ => .ite h.frame <| .dite (fun _ => h.frame) fun _ => .dite (fun _ => h.frame) fun _ =>
    .dite (fun _ => h.frame) fun _ => .ite h.frame <| .ite h.modStr <| .ite h.modStr <|
    .ite (foldl_keeps (fun _ _ h1 => h1.modStr) _ h) h

theorem TileOk.windowWrite (h : TileOk t) : TileOk (t.windowWrite v) := by
  unfold Tile.windowWrite
  dsimp only
  split
  · exact h.modStr.ite h
  · exact h.ite (h.frame.ite (h.frame.ite h))
  · exact h.vecWrite.ite h
  · exact h.frame.ite h
  · exact TileOk.dite (fun h1 => h.frame.ite h) (fun h2 => h)
  · exact h.frame.ite h
  · exact (h.setMode.ite h.frame).ite h
  · exact h.frame
  · exact h.paramWrite
  · exact h.regWrite.ite h
  · exact h.modStr.ite h
  · exact h

theorem TileOk.windowNext (h : TileOk t) : TileOk t.windowNext := h.frame

theorem MemoryOk.execWdataAccess (h : MemoryOk s) : OutOk (execWdataAccess t wr v s) :=
  h.modTile (fun _ h1 => (h1.windowWrite.ite h1).windowNext.ite h1)

/-! ### The vector strand (Machine/Vector.lean) -/

theorem MemoryOk.issueV (h : MemoryOk s) (hf : ∀ w x, TileOk x → ResOk TileOk (f w x)) : MemoryOk (s.issueV f draws) :=
  h.issue (fun _ h1 => (hf _ _ h1.cur).map (fun _ h2 => (h1.setTile h2.frame).frame))

theorem MemoryOk.vform (h : MemoryOk s) : OutOk (vform cbx iota bc lat d a b two en g s) := by
  unfold Machine.vform
  refine MemoryOk.issueV h fun win t ht => ?_
  refine ResOk.vcheck.bind fun _ _ => ResOk.vroom.bind fun _ _ => ?_
  refine ResOk.bind (P := fun _ => True) ?_ fun vb _ => ResOk.bind (P := fun _ => True) ?_ fun va _ => ?_
  · split
    exacts [ResOk.vread, trivial]
  · split
    exacts [ResOk.vreadA, ResOk.vread]
  · refine TileOk.vdeliver ?_
    split
    exacts [ht.vpop.vpop, ht.vpop]

theorem MemoryOk.varith (h : MemoryOk s) : OutOk (varith two fp int d a b m ty s) := by
  unfold Machine.varith
  exact h.vform

theorem MemoryOk.execVadd (h : MemoryOk s) : OutOk (execVadd d a b m ty s) := h.varith
theorem MemoryOk.execVsub (h : MemoryOk s) : OutOk (execVsub d a b m ty s) := h.varith
theorem MemoryOk.execVmul (h : MemoryOk s) : OutOk (execVmul d a b m ty s) := h.varith
theorem MemoryOk.execVmin (h : MemoryOk s) : OutOk (execVmin d a b m ty s) := h.varith
theorem MemoryOk.execVmax (h : MemoryOk s) : OutOk (execVmax d a b m ty s) := h.varith
theorem MemoryOk.execVabs (h : MemoryOk s) : OutOk (execVabs d a m ty s) := h.varith
theorem MemoryOk.execVneg (h : MemoryOk s) : OutOk (execVneg d a m ty s) := h.varith

theorem MemoryOk.execVmov (h : MemoryOk s) : OutOk (execVmov d a m ty s) := by
  unfold Machine.execVmov
  exact h.vform

theorem MemoryOk.vfused (h : MemoryOk s) : OutOk (vfused fp int d a b m ty s) := by
  unfold Machine.vfused
  exact h.vform

theorem MemoryOk.execVfma (h : MemoryOk s) : OutOk (execVfma d a b m ty s) := h.vfused
theorem MemoryOk.execVfms (h : MemoryOk s) : OutOk (execVfms d a b m ty s) := h.vfused
theorem MemoryOk.execVfnma (h : MemoryOk s) : OutOk (execVfnma d a b m ty s) := h.vfused

theorem MemoryOk.execVdot2 (h : MemoryOk s) : OutOk (execVdot2 d a b m s) := by
  unfold Machine.execVdot2
  exact h.vform

theorem MemoryOk.vbits (h : MemoryOk s) : OutOk (vbits two f d a b m ty s) := by
  unfold Machine.vbits
  exact h.vform

theorem MemoryOk.execVand (h : MemoryOk s) : OutOk (execVand d a b m ty s) := h.vbits
theorem MemoryOk.execVor (h : MemoryOk s) : OutOk (execVor d a b m ty s) := h.vbits
theorem MemoryOk.execVxor (h : MemoryOk s) : OutOk (execVxor d a b m ty s) := h.vbits
theorem MemoryOk.execVandn (h : MemoryOk s) : OutOk (execVandn d a b m ty s) := h.vbits
theorem MemoryOk.execVnot (h : MemoryOk s) : OutOk (execVnot d a m ty s) := h.vbits

theorem MemoryOk.vshift (h : MemoryOk s) : OutOk (vshift f d a b m ty s) := by
  unfold Machine.vshift
  exact h.vform

theorem MemoryOk.execVshl (h : MemoryOk s) : OutOk (execVshl d a b m ty s) := h.vshift
theorem MemoryOk.execVshr (h : MemoryOk s) : OutOk (execVshr d a b m ty s) := h.vshift
theorem MemoryOk.execVsra (h : MemoryOk s) : OutOk (execVsra d a b m ty s) := h.vshift

theorem MemoryOk.execVcmp (h : MemoryOk s) : OutOk (execVcmp md comb a b m ty k s) := by
  unfold Machine.execVcmp
  exact h.issueV (fun _ _ h1 => ResOk.vcheck.bind (fun _ h2 => ResOk.vread.bind (fun _ h3 => ResOk.vread.bind (fun _ h4 => h1.vpop.vpop.frame))))

theorem MemoryOk.execVsel (h : MemoryOk s) : OutOk (execVsel d a b m ty s) := by
  unfold Machine.execVsel
  exact h.vform

theorem MemoryOk.execVcvt (h : MemoryOk s) : OutOk (execVcvt d a f ty r sat scl s) := by
  unfold Machine.execVcvt
  exact h.vform

theorem MemoryOk.execVbamax (h : MemoryOk s) : OutOk (execVbamax d a m s) := by
  unfold Machine.execVbamax
  exact h.vform

theorem MemoryOk.vbsc (h : MemoryOk s) : OutOk (vbsc draws g a s) := by
  unfold Machine.vbsc
  exact h.issueV (fun _ _ h1 => ResOk.vcheck.bind (fun _ h2 => ResOk.vread.bind (fun _ h3 => h1.vpop.frame)))

theorem MemoryOk.execVbscMx (h : MemoryOk s) : OutOk (execVbscMx a s) := h.vbsc
theorem MemoryOk.execVbscSb8 (h : MemoryOk s) : OutOk (execVbscSb8 a s) := h.vbsc
theorem MemoryOk.execVbscSb4 (h : MemoryOk s) : OutOk (execVbscSb4 a s) := h.vbsc

theorem MemoryOk.vfunc (h : MemoryOk s) : OutOk (vfunc lat g d a m ty s) := by
  unfold Machine.vfunc
  exact h.vform

theorem MemoryOk.execVrcp (h : MemoryOk s) : OutOk (execVrcp d a m ty s) := h.vfunc
theorem MemoryOk.execVrsq (h : MemoryOk s) : OutOk (execVrsq d a m ty s) := h.vfunc
theorem MemoryOk.execVexp2 (h : MemoryOk s) : OutOk (execVexp2 d a m ty s) := h.vfunc
theorem MemoryOk.execVlog2 (h : MemoryOk s) : OutOk (execVlog2 d a m ty s) := h.vfunc
theorem MemoryOk.execVsinp (h : MemoryOk s) : OutOk (execVsinp d a m ty s) := h.vfunc
theorem MemoryOk.execVcosp (h : MemoryOk s) : OutOk (execVcosp d a m ty s) := h.vfunc
theorem MemoryOk.execVtanh (h : MemoryOk s) : OutOk (execVtanh d a m ty s) := h.vfunc
theorem MemoryOk.execVsqrt (h : MemoryOk s) : OutOk (execVsqrt d a m ty s) := h.vfunc

theorem MemoryOk.vreduce (h : MemoryOk s) : OutOk (vreduce el ident op d a m ty s) := by
  unfold Machine.vreduce
  exact h.vform

theorem MemoryOk.execVsum (h : MemoryOk s) : OutOk (execVsum d a m ty s) := h.vreduce
theorem MemoryOk.execVrmax (h : MemoryOk s) : OutOk (execVrmax d a m ty s) := h.vreduce
theorem MemoryOk.execVrmin (h : MemoryOk s) : OutOk (execVrmin d a m ty s) := h.vreduce
theorem MemoryOk.execVramax (h : MemoryOk s) : OutOk (execVramax d a m ty s) := h.vreduce

theorem MemoryOk.execVtapw (h : MemoryOk s) : OutOk (execVtapw v l s) :=
  h.issueV (fun _ _ h1 => ResOk.vcheck.bind (fun _ _ => ResOk.vread.bind (fun _ _ => h1.frame)))

theorem TileOk.tapTo (h : TileOk t) : TileOk (t.tapTo win v l x) := by
  unfold Tile.tapTo
  split
  exacts [h.frame, h]

theorem TileOk.takeLane (h : TileOk t) : TileOk (t.takeLane l) :=
  TileOk.update h.spad h.spad0 (Memory.wf_foldl (fun _ _ h1 => Memory.wf_setRow h1) _ h.rsp)

theorem MemoryOk.execVtapr (h : MemoryOk s) : OutOk (execVtapr v l s) := h.issueV (fun _ _ h1 => ResOk.vcheck.bind (fun _ _ => h1.tapTo))

theorem MemoryOk.execVrot (h : MemoryOk s) : OutOk (execVrot d a m r k s) := by
  unfold Machine.execVrot
  change MemoryOk _
  refine MemoryOk.issueV h ?_
  intro a a h1
  refine ResOk.vcheck.bind fun _ _ => ?_
  refine ResOk.vroom.bind fun _ _ => ?_
  dsimp only
  refine ResOk.vread.bind fun _ _ => ?_
  split
  exacts [foldl_keeps (fun _ _ h2 => h2.vdeliver) _ h1.takeLane.vpop, h1.takeLane.vpop.vdeliver]

theorem MemoryOk.execVshuf (h : MemoryOk s) : OutOk (execVshuf d a m x s) := h.vform

theorem TileOk.popJ (h : TileOk t) : ResOk (fun r => TileOk r.2) (t.popJ c) := by
  unfold Tile.popJ
  split
  exacts [trivial, h.frame]

theorem MemoryOk.execVins (h : MemoryOk s) : OutOk (execVins v c e a s) :=
  h.issueV (fun _ _ h1 => ResOk.vcheck.bind (fun _ _ => h1.popJ.bind (fun _ h3 => h3.vdeliver)))

theorem MemoryOk.execVinsB (h : MemoryOk s) : OutOk (execVinsB c b s) := h.issueV (fun _ _ h1 => h1.popJ.bind (fun _ h2 => h2.frame))
theorem TileOk.pushAfter (h : TileOk t) : TileOk (t.pushAfter i rem v) := h.frame.vact.ite h.frame.frame

theorem MemoryOk.execVext (h : MemoryOk s) : OutOk (execVext v c e s) := by
  unfold Machine.execVext
  change MemoryOk _
  refine MemoryOk.issueV h ?_
  intro a a h1
  refine ResOk.vcheck.bind fun _ _ => ?_
  refine ResOk.vread.bind fun _ _ => ?_
  split
  exacts [trivial, h1.pushAfter]

theorem MemoryOk.execVacr (h : MemoryOk s) : OutOk (execVacr v c r s) := by
  unfold Machine.execVacr
  change MemoryOk _
  refine MemoryOk.issueV h ?_
  intro a a h1
  split
  exacts [trivial, ResOk.vcheck.bind (fun _ h2 => h1.vdeliver)]

theorem MemoryOk.execVacw (h : MemoryOk s) : OutOk (execVacw v c r s) := by
  unfold Machine.execVacw
  change MemoryOk _
  refine MemoryOk.issueV h ?_
  intro a a h1
  split
  exacts [trivial, ResOk.vcheck.bind (fun _ h2 => ResOk.vread.bind (fun _ h3 => h1.vact))]

theorem MemoryOk.execVview (h : MemoryOk s) : OutOk (execVview d x s) := h.issueV (fun _ _ h1 => h1.frame)
theorem MemoryOk.execVmode (h : MemoryOk s) : OutOk (execVmode w b c f r s) := h.issueV (fun _ _ h1 => h1.setMode)
theorem MemoryOk.mop (h : MemoryOk s) : OutOk (mop f d a b s) := h.issueV (fun _ _ h1 => h1.frame)
theorem MemoryOk.execMand (h : MemoryOk s) : OutOk (execMand d a b s) := h.mop
theorem MemoryOk.execMor (h : MemoryOk s) : OutOk (execMor d a b s) := h.mop
theorem MemoryOk.execMxor (h : MemoryOk s) : OutOk (execMxor d a b s) := h.mop
theorem MemoryOk.execMnot (h : MemoryOk s) : OutOk (execMnot d a s) := h.mop

theorem MemoryOk.execMpopc (h : MemoryOk s) : OutOk (execMpopc a s) := by
  unfold Machine.execMpopc
  change MemoryOk _
  refine MemoryOk.issueV h ?_
  intro a a h1
  split
  exacts [trivial, h1.pushAfter]

theorem ResOk.codeSource {t : Tile} : ResOk (fun _ => True) (t.codeSource win a vecs) := by
  unfold Tile.codeSource
  split
  · exact ResOk.vreadIx.map fun _ _ => trivial
  · generalize List.range vecs = l
    induction l with
    | nil => trivial
    | cons i l ih => exact ResOk.vread.bind fun _ _ => ih.map fun _ _ => trivial

theorem TileOk.vpopN (h : TileOk t) : TileOk (t.vpopN a n) := by
  induction n generalizing t with
  | zero => exact h
  | succ n ih => exact ih h.vpop

theorem MemoryOk.execCbld (h : MemoryOk s) : OutOk (execCbld d a k n s) := by
  unfold Machine.execCbld
  change MemoryOk _
  refine MemoryOk.issueV h ?_
  intro a a h1
  dsimp only
  refine ResOk.vcheck.bind fun _ _ => ?_
  refine ResOk.codeSource.bind fun _ _ => ?_
  split
  exacts [trivial, h1.vpopN.frame]

theorem MemoryOk.execCbswap (h : MemoryOk s) : OutOk (execCbswap k s) := h.issueV (fun _ _ h1 => h1.frame)

theorem MemoryOk.execVcbx (h : MemoryOk s) : OutOk (execVcbx d a k w g s) := by
  unfold Machine.execVcbx
  change MemoryOk _
  refine MemoryOk.issueV h ?_
  intro a a h1
  refine ResOk.vcheck.bind fun _ _ => ?_
  refine ResOk.vroom.bind fun _ _ => ?_
  refine ResOk.vreadIx.bind fun _ _ => ?_
  split
  exacts [trivial, h1.vpop.vdeliver]

/-! ### Global memory (Machine/Global.lean) -/

theorem MemoryOk.wr1 (h : MemoryOk s) : MemoryOk (s.wr1 c pkg die pa b) := by
  unfold State.wr1
  split
  · split
    exacts [h.modTile (fun _ h1 => TileOk.update (Memory.wf_write h1.spad) h1.spad0 h1.rsp), h]
  · exact h.update (StoreOk.update (Memory.wf_write h.store.mem) h.store.stamp h.store.attr h.store.chunk (Memory.wf_write h.store.dirty))

theorem MemoryOk.wrN (h : MemoryOk s) : MemoryOk (s.wrN c pkg die pa n v) := by
  induction n generalizing s pa v with
  | zero => exact h
  | succ n ih => exact ih h.wr1

theorem MemoryOk.chunkStore (h : MemoryOk s) : MemoryOk (s.chunkStore pkg die pa v) := by
  unfold State.chunkStore
  extract_lets base key c k s'
  have hs : MemoryOk s' := by
    unfold s'
    split <;> exact h.wrN
  exact hs.update (StoreOk.update hs.store.mem hs.store.stamp hs.store.attr (Memory.wf_write hs.store.chunk) hs.store.dirty)

theorem MemoryOk.wrC (h : MemoryOk s) : MemoryOk (s.wrC c p b) := by
  unfold State.wrC
  dsimp only
  split
  exacts [h.chunkStore, h.wr1]

theorem MemoryOk.setStamp (h : MemoryOk s) : MemoryOk (s.setStamp home line v) :=
  h.update (StoreOk.update h.store.mem (Memory.wf_writeN h.store.stamp) h.store.attr h.store.chunk h.store.dirty)

theorem MemoryOk.restore (h : MemoryOk s) : MemoryOk (s.restore home line) := by
  unfold State.restore
  split
  · exact h
  · exact (h.update (StoreOk.update (Memory.wf_writeN h.store.mem) h.store.stamp h.store.attr h.store.chunk h.store.dirty)).setStamp

theorem MemoryOk.snapLine (h : MemoryOk s) : SnapOk (s.snapLine home line) := by
  unfold State.snapLine
  dsimp only
  split
  · exact h.restore
  · split
    · exact h.restore
    · split
      · exact h.restore
      · split
        · split <;> trivial
        · exact (h.restore.update h.restore.store.frame).setStamp

theorem MemoryOk.snapLines (h : MemoryOk s) : SnapOk (s.snapLines l) := by
  induction l generalizing s with
  | nil => exact h
  | cons x rest ih =>
    unfold State.snapLines
    split
    · exact ih (h.snapLine.ok ‹_›)
    · trivial
    · trivial

theorem MemoryOk.countAccess (h : MemoryOk s) : MemoryOk (s.countAccess d c p va) := by
  unfold State.countAccess
  split
  · exact h
  · split
    · exact h
    · dsimp only
      split <;> exact h.update h.store.frame

theorem MemoryOk.barWrite (h : MemoryOk s) : MemoryOk (s.barWrite c pkg die pa w) := h.wrN

theorem MemoryOk.execBarrierPost (h : MemoryOk s) : OutOk (execBarrierPost hd pa n b s) := by
  unfold Machine.execBarrierPost
  change MemoryOk _
  dsimp only
  split
  · split
    exacts [h.setTile (TileOk.update (Memory.wf_writeN (h.tile _).spad) (h.tile _).spad0 (h.tile _).rsp), h]
  · split
    exacts [h.barWrite, h]

/-! ### Operations at the homes (Machine/Home.lean) -/

theorem MemoryOk.promptAt (h : MemoryOk s) : MemoryOk (s.promptAt pkg die pa) := by
  unfold State.promptAt
  dsimp only
  split
  exacts [h.frame, h]

theorem MemoryOk.homeOp (h : MemoryOk s) : FateOk (fun r => MemoryOk r.1) (s.homeOp c pkg die pa op) := by
  unfold State.homeOp
  dsimp only
  split
  · split
    · split
      · trivial
      · change MemoryOk _
        dsimp only
        split
        exacts [h.wrN, h]
    · split
      · trivial
      · change MemoryOk _
        dsimp only
        split
        · refine MemoryOk.promptAt ?_
          split
          exacts [h.wrN, h]
        · split
          exacts [h.wrN, h]
  · split
    · split
      · exact h.asyncRecord
      · split
        · trivial
        · split
          · trivial
          · change MemoryOk _
            dsimp only
            split
            exacts [h.setTile (TileOk.update (Memory.wf_writeN (h.tile _).spad) (h.tile _).spad0 (h.tile _).rsp), h]
    · split
      · trivial
      · split
        · trivial
        · split
          · split
            · trivial
            · trivial
            · change MemoryOk _
              dsimp only
              split
              exacts [(h.snapLines.ok ‹_›).wrN.promptAt, (h.snapLines.ok ‹_›).wrN]
          · exact h

theorem MemoryOk.dropCopies (h : MemoryOk s) : MemoryOk (s.dropCopies d f) := by
  unfold State.dropCopies
  split
  exacts [h.frame, h]

theorem MemoryOk.putCopy (h : MemoryOk s) : MemoryOk (s.putCopy d key v) := by
  unfold State.putCopy
  dsimp only
  split
  exacts [h.dropCopies.frame, h.dropCopies]

theorem MemoryOk.patchCopy (h : MemoryOk s) : MemoryOk (s.patchCopy d key pos n v) := by
  unfold State.patchCopy
  split
  exacts [h.frame, h]

theorem MemoryOk.ask (h : MemoryOk s) : MemoryOk (s.ask kind owner c sdie p len data fill).1 := h.frame
theorem MemoryOk.askLine (h : MemoryOk s) : MemoryOk (s.askLine owner c sdie p fill).1 := h.ask
theorem MemoryOk.tileRecord (h : MemoryOk s) : MemoryOk (s.tileRecord t k f) := h.asyncRecord

theorem MemoryOk.raiseOn (h : MemoryOk s) : MemoryOk (s.raiseOn t k f pc) := by
  unfold State.raiseOn
  dsimp only
  split
  · exact h.tileRecord
  · split
    exacts [h.setTile (h.tile _).faultAt, h]

theorem MemoryOk.deferred (h : MemoryOk s) : MemoryOk (s.deferred t k code pc va) := h.raiseOn
theorem MemoryOk.streamFault (h : MemoryOk s) : MemoryOk (s.streamFault t n code df va) := h.raiseOn.modTile (fun _ h1 => h1.modStr)

/-! ### Loads and the access strand (Machine/Access.lean) -/

theorem TileOk.askWalk (h : TileOk t) : TileOk (t.askWalk k va) := by
  unfold Tile.askWalk
  split <;> exact h.frame

theorem ResOk.pieces {s : State} : ResOk (fun _ => True) (s.pieces k q es) := by
  unfold State.pieces
  split
  · trivial
  · exact fun _ h1 => h1.modTile (fun _ h2 => h2.askWalk)
  · split
    · split <;> trivial
    · trivial

theorem MemoryOk.countPieces (h : MemoryOk s) : MemoryOk (s.countPieces t ps) := by
  unfold State.countPieces
  refine foldl_keeps (fun _ _ h1 => ?_) _ h
  split
  exacts [h1.countAccess, h1]

theorem TileOk.keepWalk (h : TileOk t) : TileOk (t.keepWalk va r) := h.frame

theorem MemoryOk.execTlbWalk (h : MemoryOk s) : OutOk (execTlbWalk t k s) := by
  unfold Machine.execTlbWalk
  change MemoryOk _
  dsimp only
  split
  exacts [h, h.setTile ((h.tile _).keepWalk.frame.ite (h.tile _).keepWalk.frame)]

theorem TileOk.qReserve (h : TileOk t) : TileOk (t.qReserve q tag) := TileOk.dite (fun _ => h.frame) (fun _ => h.frame)
theorem TileOk.qFill (h : TileOk t) : TileOk (t.qFill q tag v) := TileOk.dite (fun _ => h.frame) (fun _ => h.frame)
theorem TileOk.qDrop (h : TileOk t) : TileOk (t.qDrop q tag) := TileOk.dite (fun _ => h.frame) (fun _ => h.frame)

theorem TileOk.spadLoad (h : TileOk t) : TileOk (t.spadLoad kind off len).1 := by
  unfold Tile.spadLoad
  split
  exacts [TileOk.update (Memory.wf_writeN h.spad) h.spad0 h.rsp, h]

theorem TileOk.spadLoads (h : TileOk t) : TileOk (t.spadLoads kind ps d).1 := by
  induction ps generalizing t d with
  | nil => exact h
  | cons p rest ih =>
    unfold Tile.spadLoads
    split
    exacts [ih h.spadLoad, ih h]

theorem TileOk.addLoad (h : TileOk t) : TileOk (t.addLoad kind q ps va) := by
  unfold Tile.addLoad
  dsimp only
  refine TileOk.frame ?_
  split
  exacts [h.spadLoads, h]

theorem MemoryOk.loadTo (h : MemoryOk s) (hf : ∀ x, TileOk x → TileOk (pop x)) : ResOk MemoryOk (s.loadTo q kind rq es va pop) := by
  unfold State.loadTo
  refine ResOk.pieces.bind fun _ _ => ?_
  split
  exacts [trivial, (h.setTile (hf _ h.cur).qReserve.addLoad).countPieces]

theorem MemoryOk.loadGuard (_ : MemoryOk s) (hf : ∀ x, ResOk MemoryOk (f x)) : ResOk MemoryOk (s.loadGuard q f) := by
  unfold State.loadGuard
  split
  exacts [hf _, trivial]

theorem MemoryOk.execLd (h : MemoryOk s) : OutOk (execLd q a sp sg i x s) :=
  h.issue (fun _ h1 => h1.loadGuard (fun _ => h1.loadTo (fun _ h2 => h2)))

theorem MemoryOk.execLdw (h : MemoryOk s) : OutOk (execLdw q a k sp sg i x s) :=
  h.issue (fun _ h1 => h1.loadGuard (fun _ => h1.loadTo (fun _ h2 => h2)))

theorem TileOk.popX (h : TileOk t) : TileOk (t.popX i) := h.frame

theorem MemoryOk.execLdg (h : MemoryOk s) : OutOk (execLdg q a k sp sg j x s) := by
  unfold Machine.execLdg
  change MemoryOk _
  refine h.issue fun _ h1 => ?_
  refine h1.loadGuard fun _ => ?_
  dsimp only
  split
  · trivial
  · split
    exacts [trivial, h1.loadTo (fun _ h2 => h2.popX)]

theorem MemoryOk.prefLines (h : MemoryOk s) : MemoryOk (s.prefLines t ps) := by
  unfold State.prefLines
  refine foldl_keeps (fun _ _ h1 => ?_) _ h
  split
  · split
    exacts [h1.askLine, h1]
  · exact h1

theorem MemoryOk.execPref (h : MemoryOk s) : OutOk (execPref a i s) := by
  unfold Machine.execPref
  change MemoryOk _
  refine h.issue fun _ h1 => ?_
  dsimp only
  split
  · exact h1.prefLines
  · exact fun _ h2 => h2.modTile (fun _ h3 => h3.askWalk)
  · exact h1.modTile (fun _ h4 => h4.dropErrors)

theorem MemoryOk.execAcq (h : MemoryOk s) : OutOk (execAcq q a k i s) := by
  unfold Machine.execAcq
  change MemoryOk _
  refine h.issue fun _ h1 => ?_
  dsimp only
  refine h1.loadGuard fun _ => ?_
  split
  · refine ResOk.pieces.bind fun _ _ => ?_
    refine ResOk.pieces.bind fun _ _ => ?_
    split
    exacts [trivial, h1.setTile h1.cur.qReserve.addLoad]
  · exact h1.loadTo (fun _ h2 => h2)

theorem MemoryOk.execFenceL (h : MemoryOk s) : OutOk (execFenceL sc s) := h.issueT (fun _ h1 => h1.addLoad)

theorem MemoryOk.loadPiece (h : MemoryOk s) : FateOk (fun r => MemoryOk r.1) (s.loadPiece t kind p) := by
  unfold State.loadPiece
  split
  · dsimp only
    split
    exacts [trivial, h.setTile (h.tile _).spadLoad]
  · dsimp only
    split
    · exact h
    · split
      · split
        exacts [h.homeOp.ok ‹_›, trivial, trivial]
      · exact h

theorem MemoryOk.askPiece (h : MemoryOk s) : MemoryOk (s.askPiece t l i p).1 := by
  unfold State.askPiece
  split
  · exact h
  · dsimp only
    split
    exacts [h.ask, h.askLine]

theorem MemoryOk.startLoad (h : MemoryOk s) : FateOk (fun r => MemoryOk r.1) (s.startLoad t l i ps d ws) := by
  induction ps generalizing s i d ws with
  | nil => exact h
  | cons p rest ih =>
    unfold State.startLoad
    split
    · trivial
    · trivial
    · exact ih (h.loadPiece.ok ‹_›)
    · exact ih (MemoryOk.askPiece (h.loadPiece.ok ‹_›))

theorem MemoryOk.loadCopies (h : MemoryOk s) : MemoryOk (s.loadCopies t k d) := by
  unfold State.loadCopies
  split
  · split
    exacts [h.dropCopies, h]
  · split
    exacts [h.dropCopies, h]
  · exact h

theorem MemoryOk.finishLoad (h : MemoryOk s) : MemoryOk (s.finishLoad t l d) := by
  unfold State.finishLoad
  dsimp only
  refine MemoryOk.modTile h.loadCopies ?_
  intro x h1
  refine TileOk.pendingSigs ?_
  split
  exacts [h1.frame, h1.frame.qFill]

theorem MemoryOk.failLoad (h : MemoryOk s) : MemoryOk (s.failLoad t l code va) := by
  unfold State.failLoad
  refine MemoryOk.deferred ?_
  refine MemoryOk.modTile h ?_
  intro x h1
  dsimp only
  refine TileOk.pendingSigs ?_
  split
  exacts [h1.frame, h1.frame.qDrop]

theorem MemoryOk.execLoadDeliver (h : MemoryOk s) : OutOk (execLoadDeliver t s) := by
  unfold Machine.execLoadDeliver
  change MemoryOk _
  split
  · exact h
  · split
    · split
      exacts [h.finishLoad, h]
    · split
      · exact h
      · split
        exacts [h.failLoad, h]
      · split
        exacts [(h.startLoad.ok ‹_›).finishLoad, (h.startLoad.ok ‹_›).modTile (fun _ h1 => h1.frame)]

theorem MemoryOk.execBarw (h : MemoryOk s) : OutOk (execBarw a sp i s) := by
  unfold Machine.execBarw
  change MemoryOk _
  refine h.issue fun _ h1 => ?_
  dsimp only
  refine ResOk.pieces.bind fun _ _ => ?_
  split
  · trivial
  · split
    · split
      exacts [trivial, h1]
    · exact h1.modTile (fun _ h2 => h2.frame)
    · exact h1

theorem TileOk.barwSees (h : TileOk t) : TileOk (t.barwSees w) := by
  unfold Tile.barwSees
  split
  exacts [h.ite h.frame, h]

theorem MemoryOk.execBarwPoll (h : MemoryOk s) : OutOk (execBarwPoll t s) := by
  unfold Machine.execBarwPoll
  change MemoryOk _
  split
  · dsimp only
    split
    · split
      · exact (h.homeOp.ok ‹_›).modTile (fun _ h1 => h1.barwSees)
      · exact h
      · split
        exacts [(h.modTile (fun _ h2 => h2.frame)).deferred, h]
    · split
      exacts [h, h.askLine]
  · exact h

theorem TileOk.meetMarks (h : TileOk t) : TileOk (t.meetMarks m k) := by
  unfold Tile.meetMarks
  dsimp only
  split
  · split
    · refine TileOk.frame ?_
      split
      exacts [h.frame.ite h, h]
    · split
      exacts [h.frame.ite h, h]
  · split
    exacts [h.frame.ite h, h]

theorem MemoryOk.execMarkL (h : MemoryOk s) : OutOk (execMarkL m s) := h.issueT (fun _ h1 => h1.frame.meetMarks.ite h1.frame)
theorem MemoryOk.execMarkS (h : MemoryOk s) : OutOk (execMarkS m s) := h.issueT (fun _ h1 => h1.frame.meetMarks.ite h1.frame)
theorem TileOk.setK (h : TileOk t) : TileOk (t.setK i q) := h.frame

theorem MemoryOk.execAtr (h : MemoryOk s) : OutOk (execAtr q a k sp w i s) := by
  unfold Machine.execAtr
  change MemoryOk _
  refine h.issue fun _ h1 => ?_
  dsimp only
  refine h1.loadGuard fun _ => ?_
  refine ResOk.pieces.bind fun _ _ => ?_
  split
  · trivial
  · split
    · trivial
    · split
      · split
        · trivial
        · split
          exacts [trivial, trivial, ((h1.snapLines.ok ‹_›).setTile h1.cur.setK.qReserve.addLoad).countPieces]
      · exact (h1.setTile h1.cur.setK.qReserve.addLoad).countPieces

theorem MemoryOk.laOp (h : MemoryOk s) (hf : ∀ x, TileOk x → ResOk (fun r => TileOk r.2) (f x)) : OutOk (laOp d f s) :=
  h.issueT (fun _ h1 => (hf _ h1).map (fun _ h2 => h2.frame))

theorem MemoryOk.saOp (h : MemoryOk s) (hf : ∀ x, TileOk x → ResOk (fun r => TileOk r.2) (f x)) : OutOk (saOp d f s) :=
  h.issueT (fun _ h1 => (hf _ h1).map (fun _ h2 => h2.frame))

theorem TileOk.takeK (h : TileOk t) : ResOk (fun r => TileOk r.2) (t.takeK i) := by
  unfold Tile.takeK
  split
  exacts [trivial, h.setK]

theorem MemoryOk.execLaAdd (h : MemoryOk s) : OutOk (execLaAdd d a b s) := h.laOp (fun _ h1 => h1)
theorem MemoryOk.execLaAddi (h : MemoryOk s) : OutOk (execLaAddi d a i x s) := h.laOp (fun _ h1 => h1)
theorem MemoryOk.execLaShli (h : MemoryOk s) : OutOk (execLaShli d a n s) := h.laOp (fun _ h1 => h1)
theorem MemoryOk.execLaLi (h : MemoryOk s) : OutOk (execLaLi d i x s) := h.laOp (fun _ h1 => h1)
theorem MemoryOk.execLaTake (h : MemoryOk s) : OutOk (execLaTake d c s) := h.laOp (fun _ h1 => h1.takeK)
theorem MemoryOk.execLaIx (h : MemoryOk s) : OutOk (execLaIx d n s) := h.laOp (fun _ h1 => h1)
theorem MemoryOk.execSaAdd (h : MemoryOk s) : OutOk (execSaAdd d a b s) := h.saOp (fun _ h1 => h1)
theorem MemoryOk.execSaAddi (h : MemoryOk s) : OutOk (execSaAddi d a i x s) := h.saOp (fun _ h1 => h1)
theorem MemoryOk.execSaShli (h : MemoryOk s) : OutOk (execSaShli d a n s) := h.saOp (fun _ h1 => h1)
theorem MemoryOk.execSaLi (h : MemoryOk s) : OutOk (execSaLi d i x s) := h.saOp (fun _ h1 => h1)
theorem MemoryOk.execSaTake (h : MemoryOk s) : OutOk (execSaTake d c s) := h.saOp (fun _ h1 => h1.takeK)
theorem MemoryOk.execSaIx (h : MemoryOk s) : OutOk (execSaIx d n s) := h.saOp (fun _ h1 => h1)

/-! ### The matrix unit (Machine/Anvil.lean) -/

theorem TileOk.landAnvil (h : TileOk t) : TileOk (t.landAnvil a) := by
  unfold Tile.landAnvil
  split
  · exact (TileOk.update h.spad h.spad0 (Memory.wf_writeN h.rsp)).raiseFlags
  · exact TileOk.update h.spad h.spad0 (Memory.wf_foldl (fun _ _ h1 => Memory.wf_setRow h1) _ h.rsp)
  · exact (TileOk.update h.spad h.spad0 (Memory.wf_writeList h.rsp)).ite (TileOk.update (Memory.wf_writeList h.spad) h.spad0 h.rsp)

theorem TileOk.setCmds (h : TileOk t) : TileOk (t.setCmds cs) := h.frame
theorem TileOk.landDue (h : TileOk t) : TileOk t.landDue := (foldl_keeps (fun _ _ h1 => h1.landAnvil) _ h).setCmds

theorem TileOk.stepCmd (h : TileOk t) : TileOk t.stepCmd := by
  unfold Tile.stepCmd
  split
  · exact h
  · split
    exacts [h, h.raiseFlags.setCmds]

theorem MemoryOk.execAnvilStep (h : MemoryOk s) : OutOk (execAnvilStep t s) := h.modTile (fun _ h1 => h1.landDue.stepCmd.ite h1.landDue)
theorem TileOk.endClaims (h : TileOk t) : TileOk t.endClaims := h.setCmds

theorem TileOk.freePlane (h : TileOk t) : TileOk (t.freePlane c) := by
  unfold Tile.freePlane
  split
  exacts [h, h.frame]

theorem TileOk.dropCmd (h : TileOk t) : TileOk (t.dropCmd i c) := h.freePlane.setCmds

theorem MemoryOk.execAnvilPrescan (h : MemoryOk s) : OutOk (execAnvilPrescan t s) := by
  unfold Machine.execAnvilPrescan
  change MemoryOk _
  dsimp only
  split
  · exact h
  · split
    · exact h
    · split
      · exact h.setTile (h.tile _).setCmds
      · split
        exacts [(h.setTile (h.tile _).dropCmd.raise).tileRecord, (h.setTile (h.tile _).dropCmd.raise.frame).raiseOn]

theorem TileOk.clearAcc (h : TileOk t) : TileOk (t.clearAcc c r m n) :=
  TileOk.update h.spad h.spad0 (Memory.wf_foldl (fun _ _ h1 => Memory.wf_writeN h1) _ h.rsp)

theorem TileOk.landRows (h : TileOk t) : TileOk (t.landRows r m) := (foldl_keeps (fun _ _ h1 => h1.landAnvil) _ h).setCmds

theorem TileOk.startMc (h : TileOk t) : TileOk (t.startMc wd pc followOn st) :=
  ((h.landRows.clearAcc.ite h).frame.ite (h.landRows.clearAcc.ite h)).frame

theorem MemoryOk.issueM (h : MemoryOk s) (hf : ∀ x, TileOk x → ResOk TileOk (f x)) : MemoryOk (s.issueM f) := by
  unfold State.issueM
  refine h.issueT fun _ h1 => ?_
  split
  exacts [hf _ h1, trivial]

theorem MemoryOk.mcExec (h : MemoryOk s) : OutOk (mcExec wd s) := by
  unfold Machine.mcExec
  change MemoryOk _
  refine h.issueM fun _ h1 => ?_
  dsimp only
  split
  · trivial
  · split
    · trivial
    · split
      · trivial
      · split
        exacts [trivial, (h1.takeAwait.some ‹_›).startMc]

theorem MemoryOk.execMma (h : MemoryOk s) : OutOk (execMma w r c l a b f g s) := h.mcExec
theorem MemoryOk.execMmas (h : MemoryOk s) : OutOk (execMmas w r c l a f g s) := h.mcExec
theorem MemoryOk.execMzero (h : MemoryOk s) : OutOk (execMzero w r c s) := h.mcExec
theorem MemoryOk.execMout (h : MemoryOk s) : OutOk (execMout w r c f s) := h.mcExec
theorem TileOk.setMp (h : TileOk t) : TileOk (t.setMp r v) := TileOk.dite (fun _ => h.frame) (fun _ => h)
theorem MemoryOk.execMpar (h : MemoryOk s) : OutOk (execMpar r i x s) := h.issueM (fun _ h1 => h1.setMp)

theorem MemoryOk.execMparq (h : MemoryOk s) : OutOk (execMparq r s) := by
  unfold Machine.execMparq
  change MemoryOk _
  refine h.issueM fun _ h1 => ?_
  split
  exacts [trivial, h1.frame.setMp]

theorem TileOk.raiseMatrix (h : TileOk t) : TileOk t.raiseMatrix := by
  unfold Tile.raiseMatrix
  refine foldl_keeps (fun _ _ h1 => ?_) _ h
  split
  · split
    exacts [h1.freePlane.setCmds.raise.pendingSigs.ite h1, h1]
  · exact h1

theorem MemoryOk.execFollowOnStart (h : MemoryOk s) : OutOk (execFollowOnStart t s) := by
  unfold Machine.execFollowOnStart
  change MemoryOk _
  dsimp only
  split
  · exact h
  · split
    · exact (h.setTile (h.tile _).frame).tileRecord
    · split
      · exact (h.setTile (h.tile _).frame).tileRecord
      · split
        · exact h
        · split
          · exact h
          · split
            · exact (h.setTile (h.tile _).frame).tileRecord
            · split
              exacts [h, h.setTile ((h.tile _).frame.takeAwait.some ‹_›).startMc.frame]

/-! ### Stores (Machine/Stores.lean) -/

theorem MemoryOk.setBellows (h : MemoryOk s) : MemoryOk (s.setBellows d b) := h.frame
theorem MemoryOk.leave (h : MemoryOk s) : MemoryOk (s.leave d f) := h.setBellows

theorem MemoryOk.leaveOf (h : MemoryOk s) : MemoryOk (s.leaveOf t) := by
  unfold State.leaveOf
  dsimp only
  split
  exacts [h, h.setBellows]

theorem TileOk.popO (h : TileOk t) : TileOk (t.popO i) := h.frame
theorem TileOk.popOs (h : TileOk t) : TileOk (t.popOs i) := h.frame
theorem TileOk.spadOp (h : TileOk t) : TileOk (t.spadOp off op) := (TileOk.update (Memory.wf_writeN h.spad) h.spad0 h.rsp).ite h

theorem MemoryOk.markLine (h : MemoryOk s) : MemoryOk (s.markLine t k p) := by
  unfold State.markLine
  split
  · split
    exacts [h.modTile (fun _ h1 => h1.frame), h]
  · exact h

theorem MemoryOk.meetCopy (h : MemoryOk s) : MemoryOk (s.meetCopy d op key pos) := by
  unfold State.meetCopy
  split
  exacts [h, h.patchCopy, h.dropCopies]

theorem MemoryOk.storePiece (h : MemoryOk s) : FateOk (OptOk MemoryOk) (s.storePiece t k d direct p) := by
  unfold State.storePiece
  split
  · split
    exacts [trivial, h.modTile (fun _ h1 => h1.spadOp)]
  · split
    · split
      exacts [(h.homeOp.ok ‹_›).meetCopy, trivial, trivial]
    · trivial

theorem MemoryOk.askStore (h : MemoryOk s) : MemoryOk (s.askStore t l i p).1 := by
  unfold State.askStore
  split
  exacts [h, h.ask]

theorem MemoryOk.startStore (h : MemoryOk s) : FateOk (fun r => MemoryOk r.1) (s.startStore t l i ps ws) := by
  induction ps generalizing s i ws with
  | nil => exact h
  | cons p rest ih =>
    unfold State.startStore
    split
    · trivial
    · trivial
    · exact ih (MemoryOk.markLine ((h.storePiece.ok ‹_›).some rfl))
    · exact ih h.askStore.markLine

theorem TileOk.dropStore (h : TileOk t) : TileOk (t.dropStore seq) := h.frame.pendingSigs
theorem MemoryOk.failStore (h : MemoryOk s) : MemoryOk (s.failStore t l code va) := (h.modTile (fun _ h1 => h1.dropStore)).deferred

theorem MemoryOk.execStorePerform (h : MemoryOk s) : OutOk (execStorePerform t i s) := by
  unfold Machine.execStorePerform
  change MemoryOk _
  dsimp only
  split
  · exact h
  · split
    · exact h
    · split
      · exact h
      · split
        exacts [h.failStore, h]
      · split
        · exact (h.startStore.ok ‹_›).modTile (fun _ h1 => h1.dropStore)
        · exact (h.startStore.ok ‹_›).modTile (fun _ h2 => h2.frame)

theorem TileOk.addStore (h : TileOk t) : TileOk (t.addStore kind ps d va pc) := h.frame
theorem TileOk.countStore (h : TileOk t) : TileOk t.countStore := h.frame

theorem TileOk.spadStores (h : TileOk t) : TileOk (t.spadStores k d ps) := by
  induction ps generalizing t with
  | nil => exact h
  | cons p rest ih =>
    unfold Tile.spadStores
    refine ih ?_
    split
    exacts [h.spadOp, h]

theorem MemoryOk.storeNow (h : MemoryOk s) : OptOk MemoryOk (s.storeNow t k d ps) := by
  induction ps generalizing s with
  | nil => exact h
  | cons p rest ih =>
    unfold State.storeNow
    split
    · exact ih (MemoryOk.markLine ((h.storePiece.ok ‹_›).some rfl))
    · trivial

theorem MemoryOk.storeOut (h : MemoryOk s) (hf : ∀ x, TileOk x → TileOk (pop x)) : ResOk MemoryOk (s.storeOut k ps d va pop) := by
  unfold State.storeOut
  dsimp only
  split
  · split
    · trivial
    · split
      · trivial
      · trivial
      · split
        · trivial
        · exact ((((h.snapLines.ok ‹_›).modTile (fun _ h1 => hf _ h1)).storeNow.some ‹_›).modTile (fun _ h2 => h2.countStore)).countPieces
  · split
    exacts [h.setTile (hf _ h.cur).spadStores.countStore, (h.setTile (hf _ h.cur).addStore).countPieces]

theorem MemoryOk.execSt (h : MemoryOk s) : OutOk (execSt o w sp i s) := by
  unfold Machine.execSt
  change MemoryOk _
  refine h.issue fun _ h1 => ?_
  dsimp only
  refine ResOk.pieces.bind fun _ _ => ?_
  split
  exacts [trivial, h1.storeOut (fun _ h2 => h2.popO)]

theorem MemoryOk.aggregate (h : MemoryOk s) : MemoryOk (s.aggregate t key pa v) := h.setBellows

theorem MemoryOk.scalarOut (h : MemoryOk s) : ResOk MemoryOk (s.scalarOut k agg ps v va o) := by
  unfold State.scalarOut
  dsimp only
  split
  · split
    exacts [trivial, (h.modTile (fun _ h1 => h1.popOs)).aggregate]
  · exact h.storeOut (fun _ h2 => h2.popOs)

theorem MemoryOk.execStw (h : MemoryOk s) : OutOk (execStw o w k sp i s) := by
  unfold Machine.execStw
  change MemoryOk _
  refine h.issue fun _ h1 => ?_
  dsimp only
  refine ResOk.pieces.bind fun _ _ => ?_
  split
  exacts [trivial, h1.scalarOut]

theorem MemoryOk.execStx (h : MemoryOk s) : OutOk (execStx o w k sp j s) := by
  unfold Machine.execStx
  change MemoryOk _
  refine h.issue fun _ h1 => ?_
  dsimp only
  split
  · trivial
  · refine ResOk.pieces.bind fun _ _ => ?_
    split
    exacts [trivial, h1.storeOut (fun _ h2 => h2.popO.popX)]

theorem MemoryOk.execAtn (h : MemoryOk s) : OutOk (execAtn o w k sp wd i s) := by
  unfold Machine.execAtn
  change MemoryOk _
  refine h.issue fun _ h1 => ?_
  dsimp only
  refine ResOk.pieces.bind fun _ _ => ?_
  split
  exacts [trivial, h1.scalarOut]

theorem MemoryOk.execBarm (h : MemoryOk s) : OutOk (execBarm f w sp i s) := by
  unfold Machine.execBarm
  change MemoryOk _
  refine h.issue fun _ h1 => ?_
  dsimp only
  refine ResOk.pieces.bind fun _ _ => ?_
  split
  exacts [trivial, h1.storeOut (fun _ h2 => h2.popOs)]

theorem MemoryOk.execBarr (h : MemoryOk s) : OutOk (execBarr f w sp i s) := by
  unfold Machine.execBarr
  change MemoryOk _
  refine h.issue fun _ h1 => ?_
  dsimp only
  refine ResOk.pieces.bind fun _ _ => ?_
  split
  · change MemoryOk _
    split
    exacts [h1.modTile (fun _ h2 => h2.popOs.frame), (h1.modTile (fun _ h3 => h3.popOs.frame)).leaveOf]
  · trivial

theorem MemoryOk.execFenceS (h : MemoryOk s) : OutOk (execFenceS sc s) := by
  unfold Machine.execFenceS
  change MemoryOk _
  refine h.issue fun _ h1 => ?_
  change MemoryOk _
  split
  exacts [h1.modTile (fun _ h2 => h2.frame), (h1.modTile (fun _ h3 => h3.frame)).leaveOf]

theorem MemoryOk.execAflush (h : MemoryOk s) : OutOk (execAflush s) := h.issue (fun _ h1 => (h1.modTile (fun _ h2 => h2.frame)).leaveOf)

theorem MemoryOk.execRel (h : MemoryOk s) : OutOk (execRel o w k i s) := by
  unfold Machine.execRel
  change MemoryOk _
  refine h.issue fun _ h1 => ?_
  dsimp only
  refine ResOk.pieces.bind fun _ _ => ?_
  split
  · change MemoryOk _
    split
    exacts [h1.modTile (fun _ h2 => h2.popOs.frame), (h1.modTile (fun _ h3 => h3.popOs.frame)).leaveOf]
  · trivial

theorem TileOk.setStHold (h : TileOk t) : TileOk (t.setStHold hd) := h.frame

theorem MemoryOk.storeHold (h : MemoryOk s) : MemoryOk (s.storeHold t) := by
  unfold State.storeHold
  dsimp only
  split
  · exact h
  · split
    · split
      exacts [h.setTile (h.tile _).setStHold, h]
    · exact h
  · split
    · exact h.setTile (h.tile _).setStHold
    · split
      exacts [h, h.leaveOf]
  · split
    exacts [h.setTile (h.tile _).setStHold, h.leaveOf]
  · split
    · split
      · split
        · exact h.setTile (h.tile _).addStore.setStHold
        · split
          exacts [h.leaveOf, h]
      · split
        · exact h.setTile (h.tile _).addStore.setStHold
        · split
          exacts [h.leaveOf, h]
    · split
      exacts [h.setTile (h.tile _).setStHold, h]
  · split
    · split
      exacts [h.setTile (h.tile _).setStHold, h.leaveOf]
    · split
      · exact h
      · split <;> exact h.setTile (h.tile _).addStore.setStHold
    · split
      exacts [h.setTile (h.tile _).frame.addStore.setStHold, h]
    · split
      exacts [h.setTile (h.tile _).setStHold, h]

theorem MemoryOk.loadHold (h : MemoryOk s) : MemoryOk (s.loadHold t) := by
  unfold State.loadHold
  dsimp only
  split
  · split
    exacts [h.setTile (h.tile _).frame, h]
  · exact h

theorem MemoryOk.haltAt (h : MemoryOk s) : MemoryOk (s.haltAt t k) := by
  unfold State.haltAt
  dsimp only
  split
  exacts [(h.modTile (fun _ h1 => h1.haltStrand)).leaveOf, h.modTile (fun _ h2 => h2.haltStrand)]

theorem MemoryOk.execHalt (h : MemoryOk s) : OutOk (execHalt s) := by
  unfold Machine.execHalt
  change MemoryOk _
  split
  exacts [h, (h.modTile (fun _ h1 => h1.tick.countUp)).haltAt]

theorem MemoryOk.execFetchEndHalt (h : MemoryOk s) : OutOk (execFetchEndHalt t k s) := by
  unfold Machine.execFetchEndHalt
  change MemoryOk _
  dsimp only
  split
  · split
    exacts [h.haltAt, h]
  · split
    exacts [h.haltAt, h]

/-! ### Streams (Machine/Streams.lean) -/

theorem TileOk.qClear (h : TileOk t) : TileOk (t.qClear q) := TileOk.dite (fun _ => h.frame) (fun _ => h.frame)
theorem TileOk.setStream (h : TileOk t) : TileOk (t.setStream q x) := h.frame
theorem TileOk.applyDesc (h : TileOk t) : TileOk (t.applyDesc q d off) := h.setStream

theorem MemoryOk.execSset (h : MemoryOk s) : OutOk (execSset q a d s) := by
  unfold Machine.execSset
  change MemoryOk _
  refine h.issueT fun _ h1 => ?_
  dsimp only
  split
  · trivial
  · split
    exacts [trivial, h1.applyDesc]

theorem MemoryOk.execSclr (h : MemoryOk s) : OutOk (execSclr q s) := by
  unfold Machine.execSclr
  change MemoryOk _
  refine h.issueT fun _ h1 => ?_
  dsimp only
  split
  exacts [fun _ h2 => h2.modTile (fun _ h3 => h3.setStream), h1.qClear.setStream]

theorem MemoryOk.enterPage (h : MemoryOk s) : MemoryOk (s.enterPage t n e) := h.setTile (h.tile _).setStream

theorem MemoryOk.streamPte (h : MemoryOk s) : MemoryOk (s.streamPte t n element va).1 := by
  unfold State.streamPte
  dsimp only
  split
  · exact h
  · split
    · dsimp only
      split
      exacts [h.enterPage, h]
    · split
      · exact h
      · dsimp only
        split
        exacts [h.enterPage, h]

theorem MemoryOk.streamPart (h : MemoryOk s) : ReadOk (s.streamPart t n element va len) := by
  unfold State.streamPart
  split
  · split
    · trivial
    · split
      · trivial
      · dsimp only
        split
        · exact h.streamPte.of_fst ‹_›
        · split
          · split
            exacts [(h.streamPte.of_fst ‹_›).homeOp.ok ‹_›, trivial, trivial]
          · split
            · exact h.streamPte.of_fst ‹_›
            · split
              exacts [trivial, (h.streamPte.of_fst ‹_›).askLine.modTile (fun _ h1 => h1.setStream)]

theorem MemoryOk.streamParts (h : MemoryOk s) : ReadOk (s.streamParts t n element ps acc) := by
  induction ps generalizing s acc with
  | nil => exact h
  | cons p rest ih =>
    have hp := h.streamPart (t := t) (n := n) (element := element) (va := BitVec.ofNat 64 p.2.1) (len := p.2.2)
    unfold State.streamParts
    split
    · exact ih (hp.val ‹_›)
    · exact hp

theorem MemoryOk.streamBytes (h : MemoryOk s) : ReadOk (s.streamBytes t n sp element va len) := by
  unfold State.streamBytes
  split
  · dsimp only
    split
    exacts [trivial, h]
  · exact h.streamParts

theorem TileOk.streamPut (h : TileOk t) : TileOk (t.streamPut n vals flags) := h.raiseFlags.qFill.setStream.ite h.raiseFlags.setStream

theorem TileOk.streamReserve (h : TileOk t) : OptOk TileOk (t.streamReserve n) := by
  unfold Tile.streamReserve
  dsimp only
  split
  · exact h
  · split
    exacts [trivial, h.qReserve.setStream]

theorem MemoryOk.streamHalt (h : MemoryOk s) : MemoryOk (s.streamHalt t n code df va) := (h.modTile (fun _ h1 => h1.setStream)).streamFault

theorem MemoryOk.streamNext (h : MemoryOk s) : MemoryOk (s.streamNext t n) := by
  unfold State.streamNext
  dsimp only
  split
  · exact h.modTile (fun _ h1 => h1.streamPut)
  · split
    · exact h.streamBytes.sent ‹_›
    · exact h
    · split
      exacts [h.streamHalt, h]
    · split
      · split
        · split
          · split
            · split
              · split
                exacts [h.streamHalt, h]
              · exact (h.streamBytes.val ‹_›).modTile (fun _ h2 => h2.streamPut)
            · split
              · split
                exacts [h.streamHalt, h]
              · exact (h.streamBytes.val ‹_›).modTile (fun _ h3 => h3.streamPut)
          · split
            · split
              exacts [h.streamHalt, h]
            · exact (h.streamBytes.val ‹_›).modTile (fun _ h4 => h4.streamPut)
        · split
          · split
            · split
              · split
                exacts [h.streamHalt, h]
              · exact (h.streamBytes.val ‹_›).modTile (fun _ h5 => h5.streamPut)
            · split
              · split
                exacts [h.streamHalt, h]
              · exact (h.streamBytes.val ‹_›).modTile (fun _ h6 => h6.streamPut)
          · split
            · split
              exacts [h.streamHalt, h]
            · exact (h.streamBytes.val ‹_›).modTile (fun _ h7 => h7.streamPut)
      · split
        · split
          · exact (h.streamBytes.val ‹_›).streamBytes.sent ‹_›
          · exact h
          · split
            exacts [h.streamHalt, h]
          · exact ((h.streamBytes.val ‹_›).streamBytes.val ‹_›).modTile (fun _ h8 => h8.streamPut)
        · split
          · exact (h.streamBytes.val ‹_›).modTile (fun _ h9 => h9.streamPut)
          · exact (h.streamBytes.val ‹_›).modTile (fun _ h10 => h10.streamPut)

theorem MemoryOk.execStreamElement (h : MemoryOk s) : OutOk (execStreamElement t n s) := by
  unfold Machine.execStreamElement
  change MemoryOk _
  dsimp only
  split
  · exact h
  · split
    exacts [h, (h.setTile ((h.tile _).streamReserve.some ‹_›)).streamNext]

/-! ### Remote requests (Machine/Remote.lean) -/

theorem MemoryOk.setPair (h : MemoryOk s) : MemoryOk (s.setPair e) := h.frame
theorem MemoryOk.modReq (h : MemoryOk s) : MemoryOk (s.modReq r f) := h.frame
theorem MemoryOk.endReq (h : MemoryOk s) : MemoryOk (s.endReq q) := h.frame
theorem MemoryOk.takeTag (h : MemoryOk s) : MemoryOk (s.takeTag d) := h.frame

theorem MemoryOk.execRequestAccept (h : MemoryOk s) : OutOk (execRequestAccept r s) := by
  unfold Machine.execRequestAccept
  change MemoryOk _
  split
  · exact h
  · split
    exacts [h.modReq.takeTag, h]

theorem MemoryOk.sendFlits (h : MemoryOk s) : MemoryOk (s.sendFlits src pkg die vc fs) := by
  unfold State.sendFlits
  split
  exacts [h, h.frame]

theorem MemoryOk.execRequestDepart (h : MemoryOk s) : OutOk (execRequestDepart r s) := by
  unfold Machine.execRequestDepart
  change MemoryOk _
  split
  · exact h
  · dsimp only
    split
    · split
      · split
        exacts [h.modReq.setPair, h.modReq.setPair.sendFlits]
      · split
        exacts [h.modReq.setPair, h.modReq.setPair.sendFlits]
    · exact h

theorem MemoryOk.aggPerform (h : MemoryOk s) : FateOk (fun r => MemoryOk r.1) (s.aggPerform q i es bits causes) := by
  induction es generalizing s i bits causes with
  | nil => exact h
  | cons e rest ih =>
    unfold State.aggPerform
    dsimp only
    split
    · trivial
    · exact ih (h.homeOp.ok ‹_›)
    · exact ih h

theorem MemoryOk.serve (h : MemoryOk s) : FateOk (fun r => MemoryOk r.1) (s.serve q) := by
  unfold State.serve
  dsimp only
  split
  · split
    · exact h
    · split
      · trivial
      · split
        exacts [h, foldl_keeps (fun _ _ h1 => h1.wrC) _ h, h]
  · split
    · split
      exacts [h.homeOp.ok ‹_›, trivial, h]
    · split
      exacts [h.homeOp.ok ‹_›, trivial, h]
    · split
      exacts [h.homeOp.ok ‹_›, trivial, h]
    · split
      exacts [h.homeOp.ok ‹_›, trivial, h]
    · split
      exacts [h.homeOp.ok ‹_›, trivial, h]
    · exact h.aggPerform

theorem MemoryOk.keepReply (h : MemoryOk s) : MemoryOk (s.keepReply q r) := by
  unfold State.keepReply
  split
  exacts [h.frame, h]

theorem MemoryOk.waitFor (h : MemoryOk s) : MemoryOk (s.waitFor q) := by
  unfold State.waitFor
  dsimp only
  split
  exacts [h.modReq.sendFlits, h.modReq]

theorem MemoryOk.meetServed (h : MemoryOk s) : MemoryOk (s.meetServed q rep) := by
  unfold State.meetServed
  split
  · exact h
  · dsimp only
    split
    · split
      exacts [h.putCopy, h]
    · exact h.patchCopy
    · exact h
    · exact h.dropCopies

theorem MemoryOk.execTargetService (h : MemoryOk s) : OutOk (execTargetService r s) := by
  unfold Machine.execTargetService
  change MemoryOk _
  split
  · exact h
  · split
    · exact h
    · dsimp only
      split
      · exact h.modReq.keepReply
      · split
        · exact h.waitFor
        · split
          · split
            exacts [(h.serve.ok ‹_›).modReq.meetServed.keepReply, (h.serve.ok ‹_›).modReq.meetServed]
          · exact h.waitFor

theorem MemoryOk.loadReply (h : MemoryOk s) : MemoryOk (s.loadReply t seq piece q rep) := by
  unfold State.loadReply
  split
  · exact h.endReq
  · split
    · exact h.endReq
    · split
      · split
        exacts [h.endReq.failLoad, h]
      · exact h.endReq.modTile (fun _ h1 => h1.frame)

theorem MemoryOk.storeReply (h : MemoryOk s) : MemoryOk (s.storeReply t seq piece q rep) := by
  unfold State.storeReply
  split
  · exact h.endReq
  · dsimp only
    split
    · exact h
    · split
      · exact h.endReq.modTile (fun _ h1 => h1.dropStore.ite h1.frame)
      · refine MemoryOk.deferred ?_
        split
        · exact (h.endReq.modTile (fun _ h2 => h2.dropStore.ite h2.frame)).dropCopies
        · exact h.endReq.modTile (fun _ h3 => h3.dropStore.ite h3.frame)

theorem MemoryOk.streamReply (h : MemoryOk s) : MemoryOk (s.streamReply t n q rep) := by
  unfold State.streamReply
  dsimp only
  split
  · exact h.endReq
  · split
    · split
      exacts [h.endReq.streamHalt, h]
    · exact h.endReq.modTile (fun _ h1 => h1.setStream)

theorem MemoryOk.barwReply (h : MemoryOk s) : MemoryOk (s.barwReply t q rep) := by
  unfold State.barwReply
  split
  · split
    · split
      exacts [(h.endReq.modTile (fun _ h1 => h1.frame)).deferred, h]
    · exact h.endReq.modTile (fun _ h2 => h2.barwSees)
  · exact h.endReq

theorem MemoryOk.rflWrite (h : MemoryOk s) : OptOk MemoryOk (s.rflWrite c w) := by
  unfold State.rflWrite
  dsimp only
  split
  · exact h.frame
  · split
    · exact h.frame
    · split
      · exact h.frame
      · split
        exacts [(h.homeOp.ok ‹_›).frame, trivial, h.frame]

theorem MemoryOk.aggRecord (h : MemoryOk s) : OptOk MemoryOk (s.aggRecord k e cause) := h.rflWrite

theorem MemoryOk.aggFailed (h : MemoryOk s) : OptOk MemoryOk (s.aggFailed k es failed causes) := by
  unfold State.aggFailed
  extract_lets bad s'
  have hs : OptOk MemoryOk s' := by
    refine foldl_keeps (fun o i ho => ho.bind fun x hx => ?_) _ h
    split
    exacts [hx, hx.aggRecord]
  split
  exacts [hs, hs.map fun _ hx => hx.makeRecord]

theorem MemoryOk.aggArrive (h : MemoryOk s) : MemoryOk (s.aggArrive d k e) := by
  unfold State.aggArrive
  dsimp only
  split
  · exact h.setBellows
  · split
    exacts [h.setBellows, h.setBellows.modTile (fun _ h1 => h1.frame)]

theorem MemoryOk.execAggElementEnter (h : MemoryOk s) : OutOk (execAggElementEnter d s) :=
  (foldl_keeps (fun _ _ h1 => foldl_keeps (fun _ _ h2 => h2.aggArrive) _ h1) _ h.setBellows).setBellows

theorem MemoryOk.execAggAgeExpiry (h : MemoryOk s) : OutOk (execAggAgeExpiry d n s) := by
  unfold Machine.execAggAgeExpiry
  change MemoryOk _
  dsimp only
  split
  exacts [h.setBellows, h]

theorem MemoryOk.execAggPacketAccept (h : MemoryOk s) : OutOk (execAggPacketAccept d n s) := by
  unfold Machine.execAggPacketAccept
  change MemoryOk _
  dsimp only
  split
  · exact h
  · split
    · split
      exacts [h, h.ask.modReq]
    · split
      · split
        exacts [h, h.modReq.takeTag.setBellows.mapTiles (fun _ _ h1 => h1.frame.ite h1)]
      · split
        exacts [h.ask.modReq, h.ask.modReq.modReq.takeTag.setBellows.mapTiles (fun _ _ h2 => h2.frame.ite h2)]

theorem MemoryOk.aggStatus (h : MemoryOk s) : MemoryOk (s.aggStatus d n failed causes) := by
  unfold State.aggStatus
  dsimp only
  split
  · split
    exacts [h.modReq, h]
  · refine MemoryOk.mapTiles ?_ (fun _ _ h1 => h1.frame.ite h1)
    refine MemoryOk.setBellows ?_
    split
    exacts [(h.aggFailed.some ‹_›).endReq, h.aggFailed.some ‹_›]

theorem MemoryOk.execAggStatusArrive (h : MemoryOk s) : OutOk (execAggStatusArrive d n failed causes s) := by
  unfold Machine.execAggStatusArrive
  change MemoryOk _
  dsimp only
  split
  · exact h
  · split <;> exact h.aggStatus

theorem MemoryOk.deliverReply (h : MemoryOk s) : MemoryOk (s.deliverReply q rep) := by
  unfold State.deliverReply
  split
  exacts [h.loadReply, h.storeReply, h.streamReply, h.barwReply, h.aggStatus, h.endReq, h.endReq.sendFlits]

theorem MemoryOk.takeReply (h : MemoryOk s) : MemoryOk (s.takeReply q kind stat aux data) := by
  unfold State.takeReply
  split
  · exact h
  · split
    · exact h.deliverReply
    · split
      exacts [h.modReq, h.deliverReply]

theorem MemoryOk.execReplyArrive (h : MemoryOk s) : OutOk (execReplyArrive r kind stat aux data s) := by
  unfold Machine.execReplyArrive
  change MemoryOk _
  split
  exacts [h, h.takeReply]

theorem MemoryOk.peerRequest (h : MemoryOk s) : MemoryOk (s.peerRequest hd p0 tail) := by
  unfold State.peerRequest
  dsimp only
  split
  exacts [h, h.frame]

theorem MemoryOk.peerInvalidate (h : MemoryOk s) : MemoryOk (s.peerInvalidate hd) :=
  (foldl_keeps (fun _ _ h1 => h1.dropCopies) _ h).sendFlits

theorem MemoryOk.sendInvalidates (h : MemoryOk s) : MemoryOk (s.sendInvalidates c start size dies) :=
  foldl_keeps (fun _ _ h1 => h1.sendFlits) _ h

theorem MemoryOk.peerAck (h : MemoryOk s) : MemoryOk (s.peerAck hd) := h.frame

theorem MemoryOk.peerMessage (h : MemoryOk s) : MemoryOk (s.peerMessage hd p) := by
  unfold State.peerMessage
  dsimp only
  split
  · exact h.peerInvalidate
  · split
    · exact h.peerAck
    · split
      · exact h.peerRequest
      · split
        · split
          exacts [h.takeReply, h]
        · exact h

theorem MemoryOk.dynFlit (h : MemoryOk s) : MemoryOk (s.dynFlit hd b) := by
  unfold State.dynFlit
  dsimp only
  split
  · exact h
  · split
    exacts [h.frame.peerMessage, h.frame]

theorem MemoryOk.failFatal (h : MemoryOk s) : MemoryOk (s.failFatal q) := h.endReq.kill

theorem MemoryOk.execRemoteTimeout (h : MemoryOk s) : OutOk (execRemoteTimeout r s) := by
  unfold Machine.execRemoteTimeout
  change MemoryOk _
  split
  · exact h
  · dsimp only
    split
    · exact h
    · split
      exacts [h.failFatal, h.frame]

theorem MemoryOk.execWaitLimitTimeout (h : MemoryOk s) : OutOk (execWaitLimitTimeout r s) := by
  unfold Machine.execWaitLimitTimeout
  change MemoryOk _
  split
  · exact h
  · split
    exacts [h.failFatal, h]

theorem MemoryOk.execHeldRequestTimeout (h : MemoryOk s) : OutOk (execHeldRequestTimeout r s) := by
  unfold Machine.execHeldRequestTimeout
  change MemoryOk _
  split
  · exact h
  · dsimp only
    split
    · split
      exacts [h.aggStatus, h.deliverReply]
    · exact h

theorem MemoryOk.execAggctlWrite (h : MemoryOk s) : OutOk (execAggctlWrite d v s) := h.setBellows

/-! ### The transform unit (Machine/Transform.lean) -/

theorem Memory.wf_putCpx {m : Memory} (h : m.wf = true) : (putCpx m part a b t z).wf = true := by
  unfold Machine.putCpx
  split <;> exact Memory.wf_writeN (Memory.wf_writeN h)

theorem Memory.wf_fftStep {d : Memory} (h : d.wf = true) : (fftStep w r k m d).1.wf = true := by
  unfold fftStep
  split
  dsimp only
  exact foldl_keeps (P := fun a : Memory × Num.Flags => a.1.wf = true) (fun _ _ h1 => Memory.wf_putCpx h1) _ h

theorem Memory.wf_legStep {d : Memory} (h : d.wf = true) : (legStep w tp g k m d).1.wf = true := by
  unfold legStep
  split
  refine foldl_keeps (P := fun a : Memory × Num.Flags => a.1.wf = true) (fun a i h1 => ?_) _ h
  dsimp only
  exact Memory.wf_putCpx h1

theorem TileOk.setTp (h : TileOk t) : TileOk (t.setTp r v) := h.frame
theorem MemoryOk.execTpar (h : MemoryOk s) : OutOk (execTpar r i x s) := h.issueT (fun _ h1 => h1.setTp)

theorem MemoryOk.tcExec (h : MemoryOk s) : OutOk (tcExec wd s) := by
  unfold Machine.tcExec
  change MemoryOk _
  refine h.issueT fun _ h1 => ?_
  dsimp only
  split
  · trivial
  · split
    · trivial
    · split
      · trivial
      · split
        exacts [trivial, fun _ h2 => h2.setTile (h1.takeAwait.some ‹_›).frame]

theorem MemoryOk.execFft (h : MemoryOk s) : OutOk (execFft w r d q e t s) := h.tcExec
theorem MemoryOk.execLeg (h : MemoryOk s) : OutOk (execLeg w r d t s) := h.tcExec

theorem TileOk.stepTc (h : TileOk t) : TileOk (t.stepTc c) := by
  unfold Tile.stepTc
  extract_lets w r
  have hr : r.1.wf = true := by
    unfold r
    split
    exacts [Memory.wf_fftStep h.spad, Memory.wf_legStep h.spad]
  exact (TileOk.update hr h.spad0 h.rsp).raiseFlags

theorem MemoryOk.execTransformStep (h : MemoryOk s) : OutOk (execTransformStep t s) := by
  unfold Machine.execTransformStep
  change MemoryOk _
  dsimp only
  split
  · exact h
  · split
    · split
      · split
        exacts [(h.setTile (h.tile _).frame.raise).raiseOn, h.setTile (h.tile _).frame.finishHead]
      · exact h
    · split
      exacts [h.setTile (h.tile _).frame.stepTc, h]

theorem TileOk.raiseTransform (h : TileOk t) : TileOk t.raiseTransform := by
  unfold Tile.raiseTransform
  split
  exacts [h.frame.raise.pendingSigs.ite h, h]

/-! ### Groups: send, receive and trees (Machine/Group.lean) -/

theorem TileOk.setXp (h : TileOk t) : TileOk (t.setXp r v) := h.frame
theorem TileOk.setYp (h : TileOk t) : TileOk (t.setYp r v) := h.frame
theorem MemoryOk.execXpar (h : MemoryOk s) : OutOk (execXpar r i x s) := h.issueT (fun _ h1 => h1.setXp)
theorem MemoryOk.execYpar (h : MemoryOk s) : OutOk (execYpar r i x s) := h.issueT (fun _ h1 => h1.setYp)

theorem MemoryOk.xcExec (h : MemoryOk s) : OutOk (xcExec wd s) := by
  unfold Machine.xcExec
  change MemoryOk _
  refine h.issue fun _ h1 => ?_
  dsimp only
  split
  · trivial
  · split
    · trivial
    · split
      exacts [trivial, fun _ h2 => h2.setTile (h1.cur.takeAwait.some ‹_›).frame]

theorem MemoryOk.execSend (h : MemoryOk s) : OutOk (execSend w r dx s) := h.xcExec
theorem MemoryOk.execSwg (h : MemoryOk s) : OutOk (execSwg w r dx s) := h.xcExec
theorem MemoryOk.execRtree (h : MemoryOk s) : OutOk (execRtree w r dx s) := h.xcExec

theorem MemoryOk.ycExec (h : MemoryOk s) : OutOk (ycExec wd s) := by
  unfold Machine.ycExec
  change MemoryOk _
  refine h.issueT fun _ h1 => ?_
  dsimp only
  split
  · trivial
  · split
    exacts [trivial, fun _ h2 => h2.setTile (h1.takeAwait.some ‹_›).frame]

theorem MemoryOk.execRecv (h : MemoryOk s) : OutOk (execRecv w r dx s) := h.ycExec
theorem MemoryOk.execYclr (h : MemoryOk s) : OutOk (execYclr w r dx s) := h.ycExec
theorem MemoryOk.checkSend (h : MemoryOk s) : CheckedOk MemoryOk (s.checkSend t c) := .checkList h (.checkList h h)

theorem MemoryOk.readVa (h : MemoryOk s) : CheckedOk MemoryOk (s.readVa src c va n) := by
  unfold State.readVa
  split
  · exact h
  · split
    · exact h
    · trivial
    · split
      exacts [h.homeOp.ok ‹_›, trivial, h]

theorem MemoryOk.readParts (h : MemoryOk s) : CheckedOk MemoryOk (s.readParts src c blk check n i acc) := by
  induction n generalizing s i acc with
  | zero => exact h
  | succ n ih =>
    unfold State.readParts
    split
    · exact h.readVa.bad ‹_›
    · trivial
    · have hs := h.readVa.ok ‹_›
      dsimp only
      split
      exacts [ih hs, hs]

theorem MemoryOk.readTable (h : MemoryOk s) : CheckedOk MemoryOk (s.readTable t g addr n i free acc) := by
  induction n generalizing s i free acc with
  | zero => exact h
  | succ n ih =>
    dsimp only [State.readTable]
    split
    next s' _ _ e => exact h.readVa.bad e
    next => trivial
    next s' r e =>
      have hs := h.readVa.ok e
      split
      exacts [hs, ih hs]

theorem MemoryOk.checkSwg (h : MemoryOk s) : CheckedOk MemoryOk (s.checkSwg t c) := by
  unfold State.checkSwg
  refine .checkList h (.checkList h ?_)
  split
  · exact h.readVa.bad ‹_›
  · trivial
  · have h1 := h.readVa.ok ‹_›
    refine .checkList h1 ?_
    dsimp only
    split
    · exact h1.readParts.bad ‹_›
    · trivial
    · have h2 := h1.readParts.ok ‹_›
      split
      · exact h2.readTable.bad ‹_›
      · trivial
      · have h3 := h2.readTable.ok ‹_›
        exact .checkList h3 h3

theorem MemoryOk.checkRtree (h : MemoryOk s) : CheckedOk MemoryOk (s.checkRtree t c) := .checkList h (.checkList h h)
theorem TileOk.checkRecv (h : TileOk t) : CheckedOk TileOk (t.checkRecv c) := .checkList h (.checkList h h.frame)
theorem TileOk.clearBlock (h : TileOk t) : TileOk (t.clearBlock n) := h.frame.ite h
theorem MemoryOk.failSend (h : MemoryOk s) : MemoryOk (s.failSend t c sub addr) := (h.setTile (h.tile _).frame.raise).raiseOn
theorem MemoryOk.failRecv (h : MemoryOk s) : MemoryOk (s.failRecv t c sub) := (h.setTile (h.tile _).frame.raise).raiseOn

theorem MemoryOk.advanceSend (h : MemoryOk s) : MemoryOk (s.advanceSend t) := by
  unfold State.advanceSend
  dsimp only
  split
  · exact h
  · split
    · split
      · split
        · exact h.setTile (h.tile _).frame
        next s' sub addr e =>
          have hs : MemoryOk s' := by
            split at e
            exacts [h.checkSend.bad e, h.checkSwg.bad e, h.checkRtree.bad e]
          exact hs.failSend
        next s' c' e =>
          have hs : MemoryOk s' := by
            split at e
            exacts [h.checkSend.ok e, h.checkSwg.ok e, h.checkRtree.ok e]
          exact (hs.setTile (h.tile _).frame.finishHead).frame
      · exact h
    · split
      · split
        exacts [h.setTile (h.tile _).frame.raise.pendingSigs, h]
      · exact h

theorem MemoryOk.advanceRecv (h : MemoryOk s) : MemoryOk (s.advanceRecv t) := by
  unfold State.advanceRecv
  dsimp only
  split
  · exact h
  · split
    · split
      · split
        · exact h
        · exact h.failRecv
        next x' u e =>
          have hx : TileOk x' := by
            split at e
            · exact (h.tile t).checkRecv.ok e
            · cases e
              exact (h.tile t).clearBlock
          exact h.setTile hx.frame.finishHead
      · exact h
    · split
      exacts [h.setTile (h.tile _).frame.raise.pendingSigs, h]

theorem MemoryOk.execCommandRaise (h : MemoryOk s) : OutOk (execCommandRaise t k s) := by
  unfold Machine.execCommandRaise
  change MemoryOk _
  split
  · exact h.modTile (fun _ h1 => h1.raiseMatrix)
  · exact h.modTile (fun _ h2 => h2.raiseTransform)
  · exact h.advanceSend
  · exact h.advanceRecv
  · exact h

theorem TileOk.dropRaised (h : TileOk t) : TileOk t.dropRaised := h.frame
theorem MemoryOk.resolveSlots (h : MemoryOk s) : MemoryOk s.resolveSlots := foldl_keeps (fun _ _ h1 => h1.frame.asyncRecord) _ h.frame
theorem MemoryOk.departFlit (h : MemoryOk s) : MemoryOk (s.departFlit t x) := h.frame

theorem MemoryOk.departAll (h : MemoryOk s) : MemoryOk (s.departAll t xs).1 := by
  induction xs generalizing s with
  | nil => exact h
  | cons x rest ih =>
    unfold State.departAll
    split
    exacts [ih h.departFlit, ih h]

theorem MemoryOk.modFabric (h : MemoryOk s) : MemoryOk (s.modFabric f) := h.frame

theorem MemoryOk.endRound (h : MemoryOk s) : MemoryOk (s.endRound tree tag leaves) := by
  unfold State.endRound
  dsimp only
  refine foldl_keeps (fun _ _ h1 => ?_) _ h.frame
  split
  exacts [h1, h1.asyncRecord]

theorem MemoryOk.contribute (h : MemoryOk s) : MemoryOk (s.contribute tree node tag count child v leaves last nodes) := by
  unfold State.contribute
  dsimp only
  split
  · exact h.frame
  · split
    · exact h.endRound
    · split
      exacts [h.modFabric, h.frame]

theorem MemoryOk.execFlitDepart (h : MemoryOk s) : OutOk (execFlitDepart t s) := by
  unfold Machine.execFlitDepart
  change MemoryOk _
  dsimp only
  split
  · exact h.resolveSlots
  · split
    · exact h.resolveSlots
    · split
      · split
        · exact h.resolveSlots
        · split
          · exact h.resolveSlots.setTile (h.resolveSlots.tile _).frame
          · exact (h.resolveSlots.setTile (h.resolveSlots.tile _).frame).contribute
      · split
        exacts [h.resolveSlots.departAll, h.resolveSlots.departAll.setTile (h.resolveSlots.departAll.tile _).frame]

theorem TileOk.countTransfer (h : TileOk t) : TileOk (t.countTransfer b tag) := h.frame

theorem MemoryOk.endFlit (h : MemoryOk s) : MemoryOk (s.endFlit f bad) := by
  unfold State.endFlit
  dsimp only
  split
  exacts [h.frame.modTile (fun _ h1 => h1.countTransfer), h.frame]

theorem MemoryOk.execFlitLanding (h : MemoryOk s) : OutOk (execFlitLanding i s) := by
  unfold Machine.execFlitLanding
  change MemoryOk _
  split
  · exact h
  · split
    · exact h.frame
    · split
      · exact h.endFlit
      · dsimp only
        split
        · split
          · exact h
          · exact (h.setTile (TileOk.update (Memory.wf_writeN (h.tile _).spad) (h.tile _).spad0 (h.tile _).rsp)).endFlit
        · exact h.asyncRecord.endFlit

theorem MemoryOk.treeSend (h : MemoryOk s) : MemoryOk (s.treeSend d dest tree tag count result bytes) := h.sendFlits
theorem MemoryOk.deliverTree (h : MemoryOk s) : MemoryOk (s.deliverTree r bytes land) := foldl_keeps (fun _ _ h1 => h1.treeSend) _ h.frame

theorem MemoryOk.execTreeNodeCombine (h : MemoryOk s) : OutOk (execTreeNodeCombine tree d s) := by
  unfold Machine.execTreeNodeCombine
  change MemoryOk _
  split
  · exact h
  · dsimp only
    split
    · exact h
    · split
      · exact h.frame.deliverTree
      · split
        · exact h.frame.treeSend.modFabric
        · split
          · exact h.frame
          · split
            · exact h.frame
            · split
              exacts [h, h.frame.contribute]

theorem MemoryOk.treeMessage (h : MemoryOk s) : MemoryOk (s.treeMessage node tree tag off bytes) := by
  unfold State.treeMessage
  dsimp only
  split
  · exact h
  · split
    · split
      exacts [h, h.modFabric.deliverTree]
    · split
      exacts [h, h.contribute]

theorem MemoryOk.treeFlit (h : MemoryOk s) : MemoryOk (s.treeFlit hd b) := by
  unfold State.treeFlit
  dsimp only
  split
  exacts [h.modFabric.treeMessage, h.modFabric]

/-! ### Queues and packets (Machine/Queue.lean) -/

theorem MemoryOk.closedRecord (h : MemoryOk s) : MemoryOk (s.closedRecord c p va) := by
  unfold State.closedRecord
  split
  · split
    exacts [h, h.asyncRecord]
  · exact h

theorem MemoryOk.hRead (h : MemoryOk s) : CheckedOk MemoryOk (s.hRead c va n) := h.readVa

theorem MemoryOk.span (h : MemoryOk s) : CheckedOk MemoryOk (s.span c want va k n) := by
  induction k generalizing s va n with
  | zero => unfold State.span; exact h
  | succ k ih =>
    unfold State.span
    split
    next => exact h
    next => exact h
    next fuel e _ =>
      cases e
      extract_lets len
      split
      next => exact h
      next p _ =>
        split
        next => trivial
        next => exact h
        next =>
          have hr := h.closedRecord (c := c) (p := p) (va := va)
          split
          next s' rest e => exact (ih hr).ok e
          next => exact ih hr

theorem MemoryOk.hAccess (h : MemoryOk s) : CheckedOk MemoryOk (s.hAccess c va a) := by
  unfold State.hAccess
  split
  · exact h
  · split
    · exact h
    · split
      · exact h
      · trivial
      · split
        exacts [h.homeOp.ok ‹_›, trivial, h]

theorem MemoryOk.hWrite (h : MemoryOk s) : CheckedOk MemoryOk (s.hWrite c va n v) := h.hAccess
theorem MemoryOk.hAtomic (h : MemoryOk s) : CheckedOk MemoryOk (s.hAtomic c va a) := h.hAccess
theorem MemoryOk.setQueue (h : MemoryOk s) : MemoryOk (s.setQueue q x) := h.frame
theorem MemoryOk.owe (h : MemoryOk s) : MemoryOk (s.owe w) := h.frame

theorem MemoryOk.writeStatus (h : MemoryOk s) : MemoryOk (s.writeStatus q c va v) := by
  unfold State.writeStatus
  split
  · exact h.hWrite.ok ‹_›
  · exact h.owe
  · split
    exacts [(h.hWrite.bad ‹_›).setQueue, h.hWrite.bad ‹_›]

theorem MemoryOk.putQueue (h : MemoryOk s) : MemoryOk (s.putQueue q x) := by
  unfold State.putQueue
  dsimp only
  split
  exacts [h.setQueue, h.setQueue.frame.writeStatus]

theorem MemoryOk.modQueue (h : MemoryOk s) : MemoryOk (s.modQueue q f) := h.putQueue
theorem MemoryOk.accessFault (h : MemoryOk s) : MemoryOk (s.accessFault q cause i) := h.modQueue
theorem MemoryOk.queueFault (h : MemoryOk s) : MemoryOk (s.queueFault q cause) := h.accessFault
theorem MemoryOk.next (h : MemoryOk s) : MemoryOk (s.next is) := h.frame

theorem MemoryOk.shadowRecord (h : MemoryOk s) : MemoryOk (s.shadowRecord c va) := by
  unfold State.shadowRecord
  split
  · exact h
  · split
    exacts [h.asyncRecord, h]

theorem MemoryOk.signalFault (h : MemoryOk s) : MemoryOk (s.signalFault q c sig cause) := by
  unfold State.signalFault
  split
  · exact h.shadowRecord
  · dsimp only
    split
    exacts [h.asyncRecord.queueFault, h.asyncRecord]

theorem MemoryOk.signalStore (h : MemoryOk s) : MemoryOk (s.signalStore q c sig v) := by
  unfold State.signalStore
  split
  · exact h
  · split
    · exact h.owe
    · split
      exacts [h.hWrite.ok ‹_›, h.owe, (h.hWrite.bad ‹_›).signalFault]

theorem MemoryOk.signalDone (h : MemoryOk s) : MemoryOk (s.signalDone q c sig) := by
  unfold State.signalDone
  split
  · exact h
  · split
    next => exact h.owe
    next =>
      split
      next => exact h.owe
      next s1 _ _ e => exact (h.hRead.bad e).signalFault
      next s1 v e =>
        have h1 := h.hRead.ok e
        split
        · exact h1
        · split
          next s2 _ e2 => exact h1.hWrite.ok e2
          next => exact h1.owe
          next s2 _ _ e2 => exact (h1.hWrite.bad e2).signalFault

theorem MemoryOk.packetError (h : MemoryOk s) : MemoryOk (s.packetError q pkt err) := by
  unfold State.packetError
  dsimp only
  split
  exacts [h.putQueue, h.putQueue.signalStore]

theorem MemoryOk.takeLater (h : MemoryOk s) : MemoryOk (s.takeLater q pkt) := h.frame

theorem MemoryOk.indices (h : MemoryOk s) : CheckedOk MemoryOk (s.indices x) := by
  unfold State.indices
  split
  next s1 _ _ e => exact h.hRead.bad e
  next => trivial
  next s1 r e =>
    have h1 := h.hRead.ok e
    split
    next s2 _ _ e2 => exact h1.hRead.bad e2
    next => trivial
    next s2 w e2 => exact h1.hRead.ok e2

theorem MemoryOk.takeSlot (h : MemoryOk s) : MemoryOk (s.takeSlot q x r) := by
  unfold State.takeSlot
  dsimp only
  split
  next => exact h
  next s0 _ _ e => exact (h.hRead.bad e).accessFault
  next s0 body e =>
    have h1 := h.hRead.ok e
    split
    next => exact h
    next s1 _ _ e1 => exact (h1.hWrite.bad e1).accessFault
    next s1 _ e1 =>
      have h2 := h1.hWrite.ok e1
      split
      next => exact h
      next s2 _ _ e2 => exact (h2.hWrite.bad e2).accessFault
      next s2 _ e2 =>
        have h3 := (h2.hWrite.ok e2).modQueue (q := q) (f := fun y => { y with progIdx := BitVec.ofNat 32 r, prompted := false })
        split
        · split
          exacts [h3, h3.signalStore]
        · split
          exacts [h3.next, h3.packetError]

theorem MemoryOk.execHearthPoll (h : MemoryOk s) : OutOk (execHearthPoll q s) := by
  unfold Machine.execHearthPoll
  change MemoryOk _
  dsimp only
  split
  · split
    · exact h
    · exact (h.indices.bad ‹_›).queueFault
    · split
      · exact h.indices.ok ‹_›
      · split
        · exact h
        · exact ((h.indices.ok ‹_›).hRead.bad ‹_›).accessFault
        · split
          exacts [((h.indices.ok ‹_›).hRead.ok ‹_›).modQueue, ((h.indices.ok ‹_›).hRead.ok ‹_›).takeSlot]
  · exact h

theorem MemoryOk.notify (h : MemoryOk s) : MemoryOk (s.notify f q) := by
  unfold State.notify
  split
  exacts [h.modQueue, h]

theorem MemoryOk.execNotify (h : MemoryOk s) : OutOk (execNotify f q s) := by
  unfold Machine.execNotify
  change MemoryOk _
  split
  exacts [h.frame, h.notify]

theorem MemoryOk.claimReturns (h : MemoryOk s) : MemoryOk (s.claimReturns v) := h.frame

theorem MemoryOk.claim (h : MemoryOk s) : MemoryOk (s.claim f q) := by
  unfold State.claim
  dsimp only
  split
  · exact h.claimReturns
  · split
    · exact h.claimReturns
    · split
      exacts [(h.hAtomic.ok ‹_›).claimReturns.modQueue, h.owe, (h.hAtomic.bad ‹_›).claimReturns.queueFault]

theorem MemoryOk.execClaim (h : MemoryOk s) : OutOk (execClaim f q s) := h.claim

theorem MemoryOk.checkCreate (h : MemoryOk s) : CheckedOk MemoryOk (s.checkCreate c a) := by
  unfold State.checkCreate
  split
  · exact h
  · split
    · trivial
    · exact h.hRead.bad ‹_›
    · dsimp only
      split <;> exact h.hRead.ok ‹_›

theorem MemoryOk.createQueue (h : MemoryOk s) : MemoryOk (s.createQueue q qcb) := by
  unfold State.createQueue
  dsimp only
  split
  · exact h
  · split
    exacts [h.owe, (h.checkCreate.bad ‹_›).setQueue, (h.checkCreate.ok ‹_›).putQueue]

theorem MemoryOk.execQueueCreate (h : MemoryOk s) : OutOk (execQueueCreate q qcb s) := h.createQueue

theorem MemoryOk.execQueuePause (h : MemoryOk s) : OutOk (execQueuePause q s) := by
  unfold Machine.execQueuePause
  change MemoryOk _
  dsimp only
  split
  exacts [h.putQueue, h]

theorem MemoryOk.execQueueResume (h : MemoryOk s) : OutOk (execQueueResume q s) := by
  unfold Machine.execQueueResume
  change MemoryOk _
  dsimp only
  split
  exacts [h.putQueue, h]

theorem MemoryOk.haltGraph (h : MemoryOk s) : MemoryOk (s.haltGraph q c) := by
  unfold State.haltGraph
  split
  · split
    exacts [h.frame, h]
  · exact h

theorem MemoryOk.packetDone (h : MemoryOk s) : MemoryOk (s.packetDone q) := h.modQueue

theorem MemoryOk.releaseFence (h : MemoryOk s) : MemoryOk (s.releaseFence q) := by
  unfold State.releaseFence
  dsimp only
  split
  · split
    exacts [h.packetDone.signalStore, h]
  · exact h

theorem MemoryOk.execQueueDrain (h : MemoryOk s) : OutOk (execQueueDrain q s) := by
  unfold Machine.execQueueDrain
  change MemoryOk _
  dsimp only
  split
  exacts [h.putQueue.haltGraph.releaseFence, h]

theorem MemoryOk.execDrainComplete (h : MemoryOk s) : OutOk (execDrainComplete q s) := by
  unfold Machine.execDrainComplete
  change MemoryOk _
  dsimp only
  split
  · split
    · split
      exacts [(h.indices.ok ‹_›).putQueue, h.indices.ok ‹_›]
    · exact h
  · exact h

theorem MemoryOk.modRings (h : MemoryOk s) : MemoryOk (s.modRings c f) := by
  unfold State.modRings
  split
  · exact h
  · refine foldl_keeps ?_ _ h
    · intro m a h1
      refine MemoryOk.modTile h1 ?_
      intro x h2
      dsimp only
      split
      exacts [h2.setRing, h2]

theorem MemoryOk.ringsDone (h : MemoryOk s) : MemoryOk (s.ringsDone q c) := h.modRings

theorem MemoryOk.stopLaunch (h : MemoryOk s) : MemoryOk (s.stopLaunch i code) := by
  unfold State.stopLaunch
  split
  · exact h
  · split
    · exact h
    · extract_lets held s1 s2
      have h1 : MemoryOk s1 := h.mapTiles fun _ _ h1 => h1.release.ite h1
      refine MemoryOk.signalStore (h1.relaunch (launches_map h1.saved fun l hl => ?_))
      split
      exacts [hl.frame, hl]

theorem MemoryOk.abandon (h : MemoryOk s) : MemoryOk (s.abandon q code) := by
  unfold State.abandon
  dsimp only
  split
  · exact h.modQueue
  · exact h.modQueue.stopLaunch
  · split
    exacts [h.modQueue, h.modQueue.signalStore]
  · exact h.modQueue.ringsDone.signalStore
  · exact h.modQueue.signalStore
  · refine MemoryOk.signalStore ?_
    split
    · split
      exacts [(foldl_keeps (fun _ _ h1 => h1.stopLaunch) _ h.modQueue).frame, h.modQueue]
    · exact h.modQueue

theorem MemoryOk.cancelFrom (h : MemoryOk s) : OptOk MemoryOk (s.cancelFrom q x code r n) := by
  induction n generalizing s r with
  | zero => exact h
  | succ n ih =>
    unfold State.cancelFrom
    split
    next => trivial
    next s' b e =>
      have hs := h.hRead.ok e
      dsimp only
      split
      exacts [ih hs.signalStore, ih hs]
    next s' _ _ e => exact ih (h.hRead.bad e)

theorem MemoryOk.resetQueue (h : MemoryOk s) : MemoryOk (s.resetQueue q) := by
  unfold State.resetQueue
  dsimp only
  split
  · exact h
  · split
    · exact h.owe
    · exact (h.abandon.indices.bad ‹_›).modQueue
    · split
      exacts [h.owe, ((h.abandon.indices.ok ‹_›).cancelFrom.some ‹_›).modQueue]

theorem MemoryOk.execQueueReset (h : MemoryOk s) : OutOk (execQueueReset q s) := h.resetQueue

theorem MemoryOk.execLayout (h : MemoryOk s) : OutOk (execLayout q pkt s) := by
  unfold Machine.execLayout
  change MemoryOk _
  dsimp only
  split
  · exact h
  · split
    exacts [h.packetError, h.modQueue]

theorem MemoryOk.putEvent (h : MemoryOk s) : MemoryOk (s.putEvent c e b) := h.modCtx

theorem MemoryOk.codedOp (h : MemoryOk s) : CheckedOk MemoryOk (s.codedOp c p va a) := by
  unfold State.codedOp
  split
  · trivial
  · exact h
  · split
    exacts [trivial, h, foldl_keeps (fun _ _ h1 => h1.wrC) _ (h.snapLines.ok ‹_›)]

theorem MemoryOk.signalOp (h : MemoryOk s) : CheckedOk MemoryOk (s.signalOp c op value target) := by
  unfold State.signalOp
  extract_lets word
  have hw a : CheckedOk MemoryOk (word a) := by
    unfold word
    split
    next s' _ e =>
      split at e
      · split at e
        exacts [h.codedOp.ok e, h.hAccess.ok e]
      · cases e
    next => trivial
    next s' x a e =>
      have hs : MemoryOk s' := by
        split at e
        · split at e
          exacts [h.codedOp.bad e, h.hAccess.bad e]
        · cases e
          exact h
      split
      exacts [hs.shadowRecord, hs]
  split
  exacts [hw _, hw _, h.putEvent, h.putEvent]

theorem MemoryOk.sendMsix (h : MemoryOk s) : MemoryOk (s.sendMsix c v) := h.frame

theorem MemoryOk.execSignalPacket (h : MemoryOk s) : OutOk (execSignalPacket q pkt s) := by
  unfold Machine.execSignalPacket
  change MemoryOk _
  dsimp only
  split
  · exact h
  · split
    · exact h.packetError
    · split
      · exact h.takeLater
      · exact (h.signalOp.bad ‹_›).asyncRecord.queueFault.packetDone
      · refine MemoryOk.packetDone ?_
        split
        exacts [(h.signalOp.ok ‹_›).sendMsix, h.signalOp.ok ‹_›]

theorem MemoryOk.execQfence (h : MemoryOk s) : OutOk (execQfence q pkt s) := by
  unfold Machine.execQfence
  change MemoryOk _
  dsimp only
  split
  · exact h
  · split
    · exact h.packetError
    · split
      exacts [h.packetError, h.modQueue]

theorem MemoryOk.execQfenceJoinComplete (h : MemoryOk s) : OutOk (execQfenceJoinComplete q s) := by
  unfold Machine.execQfenceJoinComplete
  change MemoryOk _
  split
  · dsimp only
    split
    · refine foldl_keeps ?_ _ h
      · intro m a h1
        split
        exacts [h1.packetDone.signalDone, h1]
    · exact h.releaseFence
  · exact h

theorem MemoryOk.copyFaultNow (h : MemoryOk s) : MemoryOk (s.copyFaultNow q pkt cause addr) := h.asyncRecord.putQueue.signalStore

theorem MemoryOk.execCopy (h : MemoryOk s) : OutOk (execCopy q pkt s) := by
  unfold Machine.execCopy
  change MemoryOk _
  dsimp only
  split
  next => exact h
  next =>
    split
    next => exact h.packetError
    next =>
      split
      next => exact h.takeLater
      next =>
        split
        next => exact h.takeLater
        next e => exact (h.span.bad e).copyFaultNow
        next s1 _ e =>
          have h1 := h.span.ok e
          split
          next => exact h.takeLater
          next e2 => exact (h1.span.bad e2).copyFaultNow
          next e2 =>
            have h2 := h1.span.ok e2
            split
            · split
              · exact h2.packetError
              · split
                exacts [h2.packetError, h2.modQueue]
            · exact h2.packetError

theorem MemoryOk.wrElem (h : MemoryOk s) : MemoryOk (s.wrElem c p v n i) := by
  induction n generalizing s i with
  | zero => exact h
  | succ n ih => exact ih h.wrC

theorem MemoryOk.placeThen (h : MemoryOk s) (hw : ∀ x, MemoryOk x → MemoryOk (wr x)) (hr : ∀ x, MemoryOk x → PlacedOk (rest x)) :
    PlacedOk (s.placeThen lines addr wr rest) := by
  unfold State.placeThen
  split
  exacts [trivial, h, hr _ (hw _ (h.snapLines.ok ‹_›))]

theorem MemoryOk.writeMoves (h : MemoryOk s) : PlacedOk (State.writeMoves c es ms s) := by
  induction ms generalizing s with
  | nil => exact h
  | cons m rest ih => exact h.placeThen (fun _ h1 => h1.wrElem) fun _ h1 => ih h1

theorem MemoryOk.closedMet (h : MemoryOk s) : MemoryOk (s.closedMet c met) := foldl_keeps (fun _ _ h1 => h1.asyncRecord) _ h
theorem MemoryOk.closedRecords (h : MemoryOk s) : MemoryOk (s.closedRecords c ms) := h.closedMet

theorem MemoryOk.postAll (h : MemoryOk s) : CheckedOk MemoryOk (s.postAll c n ps) := by
  induction ps generalizing s with
  | nil => exact h
  | cons p rest ih =>
    unfold State.postAll
    split
    · exact ih h.asyncRecord
    · split
      next r e => exact ih (h.homeOp.ok e)
      next => trivial
      next => exact h

theorem MemoryOk.copyAll (h : MemoryOk s) : CheckedOk MemoryOk (s.copyAll q op) := by
  unfold State.copyAll
  extract_lets x es bytes
  split
  next => exact h
  next => trivial
  next words _ =>
    split
    next => exact h
    next => trivial
    next ms _ =>
      extract_lets ft
      split
      next => exact h
      next =>
        split
        next => trivial
        next s1 _ _ e => exact h.writeMoves.refuse e
        next s1 e =>
          have h1 := h.writeMoves.ok e
          have h2 : MemoryOk (if copyComp op.pkt == 1 then s1.ringsDone q op else s1) := by
            split
            exacts [h1.ringsDone, h1]
          split
          next => trivial
          next s3 _ _ e3 => exact h2.closedRecords.postAll.bad e3
          next s3 _ e3 =>
            have h3 := h2.closedRecords.postAll.ok e3
            dsimp only
            split
            all_goals split
            exacts [trivial, (h3.modTile fun _ hx => hx.frame).packetDone.signalDone, trivial, h3.packetDone.signalDone]

theorem MemoryOk.execSlotReserve (h : MemoryOk s) : OutOk (execSlotReserve q s) := by
  unfold Machine.execSlotReserve
  change MemoryOk _
  split
  · exact h
  · split
    · exact h
    · split
      · dsimp only
        split
        · exact h
        · refine MemoryOk.modQueue (foldl_keeps (P := fun r : State × List (TileNo × Nat) => MemoryOk r.1) ?_ _ h)
          intro r t hr
          split
          exacts [hr.modTile fun _ hx => hx.setRing, hr]
      · exact h

theorem MemoryOk.execCopyComplete (h : MemoryOk s) : OutOk (execCopyComplete q s) := by
  unfold Machine.execCopyComplete
  change MemoryOk _
  split
  · exact h
  · split
    · exact h
    · split
      exacts [h.copyAll.ok ‹_›, h]

theorem MemoryOk.copyFailure (h : MemoryOk s) : OptOk (fun r => MemoryOk r.1) (s.copyFailure q) := by
  unfold State.copyFailure
  split
  · trivial
  · split
    · split
      exacts [h, trivial]
    · split
      exacts [h.copyAll.bad ‹_›, trivial]

theorem MemoryOk.execCopyFault (h : MemoryOk s) : OutOk (execCopyFault q cause s) := by
  unfold Machine.execCopyFault
  change MemoryOk _
  split
  · exact h
  · split
    next s' addr e =>
      have hs : MemoryOk s' := by
        split at e
        next s1 _ _ e1 =>
          split at e
          · cases e
            exact h.copyFailure.some e1
          · cases e
            exact h
        next =>
          cases e
          exact h
      exact hs.modRings.copyFaultNow

theorem MemoryOk.execQpost (h : MemoryOk s) : OutOk (execQpost d a b p n s) := by
  unfold Machine.execQpost
  change MemoryOk _
  refine h.issue fun _ h1 => ?_
  dsimp only
  split
  · exact h1
  · split
    · trivial
    · split
      · trivial
      · split
        · trivial
        · split
          exacts [trivial, h1.modTile (fun _ h2 => h2.setWait)]

theorem MemoryOk.qpostAnswer (h : MemoryOk s) : MemoryOk (s.qpostAnswer t d v) := h.modTile (fun _ h1 => h1.answer)

theorem MemoryOk.qpostWrite (h : MemoryOk s) : CheckedOk MemoryOk (s.qpostWrite q x pkt w) := by
  unfold State.qpostWrite
  split
  next => trivial
  next e => exact h.hWrite.bad e
  next e =>
    have h1 := h.hWrite.ok e
    split
    next => trivial
    next e2 => exact h1.hWrite.bad e2
    next e2 => exact (h1.hWrite.ok e2).modQueue

theorem MemoryOk.qpostHold (h : MemoryOk s) : MemoryOk (s.qpostHold t) := by
  unfold State.qpostHold
  split
  · dsimp only
    split
    · split
      · exact h.qpostAnswer
      · split
        next e => exact (h.hAtomic.ok e).modTile fun _ hx => hx.setWait
        next => exact h
        next e => exact (h.hAtomic.bad e).qpostAnswer
    · split
      next s1 _ e =>
        have h1 := h.hRead.ok e
        split
        · split
          next e2 => exact (h1.qpostWrite.ok e2).qpostAnswer
          next => exact h
          next e2 => exact (h1.qpostWrite.bad e2).modTile fun _ hx => hx.setWait
        · exact h1
      next => exact h
  · exact h

theorem MemoryOk.execQpostTimeout (h : MemoryOk s) : OutOk (execQpostTimeout t s) := by
  unfold Machine.execQpostTimeout
  change MemoryOk _
  split
  · dsimp only
    split
    exacts [h.qpostAnswer, h]
  · exact h

/-! ### The save record (Machine/Save.lean) -/

theorem TileOk.windowForce (h : TileOk t) : TileOk (t.windowForce wsel v) := h.frame.windowWrite.frame

theorem MemoryOk.putPieces (h : MemoryOk s) : OptOk MemoryOk (s.putPieces c m off va n) := by
  induction n generalizing s off va with
  | zero => exact h
  | succ n ih =>
    unfold State.putPieces
    split
    next => trivial
    next e => exact ih (h.hWrite.ok e)
    next e => exact ih (h.hWrite.bad e)

theorem MemoryOk.writeRecord (h : MemoryOk s) : OptOk MemoryOk (s.writeRecord t) := by
  unfold State.writeRecord
  refine OptOk.bind (P := MemoryOk) (OptOk.bind (P := MemoryOk) (OptOk.bind (P := MemoryOk) (OptOk.bind h.putPieces ?_) ?_) ?_) ?_
  · exact fun _ h1 => h1.putPieces
  · intro s1 h1
    split
    exacts [h1.putPieces, h1]
  · exact fun _ h1 => h1.putPieces
  · exact fun _ h1 => h1.putPieces

/-- Loading any of these words keeps the memories of a tile. -/
def WordsOk (l : List ((Tile → W64) × (W64 → Tile → Tile))) : Prop := ∀ p ∈ l, ∀ v t, TileOk t → TileOk (p.2 v t)

theorem WordsOk.nil : WordsOk [] := nofun
theorem WordsOk.cons (hp : ∀ v t, TileOk t → TileOk (p.2 v t)) (hl : WordsOk l) : WordsOk (p :: l) := List.forall_mem_cons.2 ⟨hp, hl⟩
theorem WordsOk.append (ha : WordsOk a) (hb : WordsOk b) : WordsOk (a ++ b) := List.forall_mem_append.2 ⟨ha, hb⟩

theorem WordsOk.map {l : List α} {f} (hf : ∀ i v t, TileOk t → TileOk ((f i).2 v t)) : WordsOk (l.map f) :=
  List.forall_mem_map.2 fun i _ => hf i

theorem WordsOk.flatMap {l : List α} {f} (hf : ∀ i, WordsOk (f i)) : WordsOk (l.flatMap f) := by
  intro p hp
  obtain ⟨i, _, hi⟩ := List.mem_flatMap.1 hp
  exact hf i p hi

theorem WordsOk.winWords : WordsOk (winWords cls i n) := .map fun _ _ _ h => h.windowForce

/-- Loading any of these words of a save record keeps the memories of a tile. -/
def SaveOk (l : List SaveWord) : Prop := ∀ w ∈ l, ∀ v t, TileOk t → TileOk (w.put v t)

theorem SaveOk.append (ha : SaveOk a) (hb : SaveOk b) : SaveOk (a ++ b) := List.forall_mem_append.2 ⟨ha, hb⟩

theorem WordsOk.wordsFrom (hl : WordsOk l) : SaveOk (wordsFrom base l) :=
  List.forall_mem_map.2 fun x hx => hl x.1 (List.fst_mem_of_mem_zipIdx hx)

theorem SaveOk.controlWords : SaveOk controlWords := by
  refine WordsOk.wordsFrom (.append (.append (.append (.append (.append (.append (.append ?_ ?_) ?_) ?_) .winWords) ?_) ?_) ?_)
  · exact .map fun _ _ _ h => h.modStr
  · refine .cons (fun _ _ h => foldl_keeps (fun _ _ h1 => h1.modStr) _ h) (.cons (fun _ _ h => ?_) .nil)
    exact .ite h.frame h.frame
  · exact .flatMap fun _ => .cons (fun _ _ h => h.frame) (.cons (fun _ _ h => h.frame) .nil)
  · exact .map fun _ _ _ h => h.setFpsr
  · exact .cons (fun _ _ h => h) .nil
  · exact .map fun _ _ _ h => h.frame
  · refine .cons (fun _ _ h => h.frame) (.cons (fun _ _ h => h) ?_)
    exact .cons (fun _ _ h => h.frame) (.cons (fun _ _ h => h.frame) (.cons (fun _ _ h => h.frame) (.cons (fun _ _ h => h.frame)
      (.cons (fun _ _ h => h.frame) (.cons (fun _ _ h => h.frame) (.cons (fun _ _ h => h.frame) .nil))))))

theorem SaveOk.saveWords : SaveOk saveWords := by
  refine .append (.append (.append (.append .controlWords ?_) ?_) ?_) ?_
  · exact (WordsOk.flatMap fun _ => .winWords).wordsFrom
  · exact (WordsOk.append (.append (.append (.append (.append .winWords .winWords) .winWords) .winWords) (.flatMap fun _ => .winWords))
      .winWords).wordsFrom
  · exact (WordsOk.flatMap fun _ => .winWords).wordsFrom
  · exact (WordsOk.flatMap fun _ => .winWords).wordsFrom

theorem TileOk.loadWords (h : TileOk x) : TileOk (x.loadWords b) := by
  unfold Tile.loadWords
  generalize hl : Machine.saveWords = l
  have hw : SaveOk l := hl ▸ SaveOk.saveWords
  clear hl
  induction l generalizing x with
  | nil => exact h
  | cons w l ih =>
    exact ih (.ite h (hw w List.mem_cons_self _ _ h)) fun w hm => hw w (List.mem_cons_of_mem _ hm)

theorem TileOk.readRecord {s : State} (h : TileOk x) : OptOk TileOk (s.readRecord t x) := by
  unfold State.readRecord
  split
  next words _ planes _ acc _ sram _ spad _ _ _ _ _ =>
    extract_lets merge x1 x2
    have hm {m : Memory} {base : Nat} {b : Option (List Byte)} (hw : m.wf = true) : (merge m base b).wf = true := by
      unfold merge
      split
      exacts [Memory.wf_writeList hw, hw]
    have h1 : TileOk x1 := by
      unfold x1
      split
      exacts [h.loadWords, h]
    have h2 : TileOk x2 := by
      refine TileOk.update (hm h1.spad) h1.spad0 (hm ?_)
      split
      exacts [hm h1.rsp, h1.rsp]
    split
    exacts [h2, h2.frame]
  next => trivial

/-! ### Launches (Machine/Kernel.lean) -/

theorem MemoryOk.readImage (h : MemoryOk s) : CheckedOk MemoryOk (s.readImage c va) := by
  unfold State.readImage
  split
  next => trivial
  next e => exact h.span.bad e
  next e =>
    have h1 := h.span.ok e
    dsimp only
    split
    · exact h1
    · split
      next => trivial
      next e2 => exact h1.span.bad e2
      next e2 => exact h1.span.ok e2

theorem MemoryOk.newLaunch (h : MemoryOk s) : MemoryOk (s.newLaunch q c from_ prio pre kernel arg argw sig start x) :=
  h.relaunch (List.forall_mem_append.2 ⟨h.saved, List.forall_mem_singleton.2 (LaunchOk.of_nil rfl)⟩)

theorem MemoryOk.startLaunch (h : MemoryOk s) : CheckedOk MemoryOk (s.startLaunch q c from_ prio pre kernel arg argw sig start) := by
  unfold State.startLaunch
  split
  next => trivial
  next e => exact h.span.bad e
  next e =>
    have h1 := h.span.ok e
    split
    next => trivial
    next e2 => exact h1.readImage.bad e2
    next e2 =>
      have h2 := h1.readImage.ok e2
      split
      exacts [h2.newLaunch, h2]

theorem MemoryOk.execDispatch (h : MemoryOk s) : OutOk (execDispatch q pkt s) := by
  unfold Machine.execDispatch
  change MemoryOk _
  dsimp only
  split
  · exact h
  · split
    · exact h.packetError
    · split
      · exact h.takeLater
      · exact (h.startLaunch.ok ‹_›).modQueue
      · split
        exacts [(h.startLaunch.bad ‹_›).putQueue.signalStore, (h.startLaunch.bad ‹_›).packetError]

theorem MemoryOk.modLaunch (h : MemoryOk s) (hf : ∀ y, LaunchOk y → LaunchOk (f y)) : MemoryOk (s.modLaunch i f) := by
  refine h.relaunch (launches_map h.saved fun y hy => ?_)
  split
  exacts [hf y hy, hy]

theorem TileOk.fresh (h : TileOk x) : TileOk (x.fresh i l slot) := TileOk.update (Memory.wf_filter _ h.spad) rfl (Memory.wf_filter _ h.rsp)
theorem TileOk.number (h : TileOk x) : TileOk (x.number l orient i saveBase) := h.frame

theorem TileOk.load (h : TileOk t) : TileOk (t.load x l i args) := by
  unfold Tile.load
  extract_lets c0 f0 t1 t2 t3 t4 t5 t6
  have h1 : TileOk t2 := foldl_keeps (fun _ _ h2 => h2.frame) _ h.frame
  have h3 : TileOk t3 := foldl_keeps (fun _ _ h2 => h2.frame) _ h1
  have h4 : TileOk t4 := foldl_keeps (fun _ _ h2 => h2.setRing) _ h3
  have h5 : TileOk t5 := foldl_keeps (fun _ _ h2 => .update h2.spad h2.spad0 (Memory.wf_writeN h2.rsp)) _ h4
  have h6 : TileOk t6 := foldl_keeps (fun _ _ h2 => h2.applyDesc.ite h2) _ h5
  exact .update (Memory.wf_writeList (Memory.wf_writeList h6.spad)) h6.spad0 h6.rsp

theorem TileOk.finished (h : TileOk x) : TileOk (x.finished i l slot) := h.fresh.frame
theorem TileOk.rebase (h : TileOk x) : TileOk (x.rebase new) := h.frame
theorem MemoryOk.namedBy (h : MemoryOk s) : OptOk LaunchOk (s.namedBy r) := .find? h.saved

theorem MemoryOk.bindTiles (h : MemoryOk s) (hf : ∀ i t x, TileOk x → OptOk TileOk (f i t x)) : OptOk MemoryOk (s.bindTiles f tiles) := by
  refine foldl_keeps (P := OptOk MemoryOk) (fun o p ho => ?_) _ h
  exact ho.bind fun s hs => (hf _ _ _ (hs.tile _)).map fun _ hx => hs.setTile hx

theorem MemoryOk.bind (h : MemoryOk s) (hl : LaunchOk l) : OptOk MemoryOk (s.bind slot rec l orient solo tiles) := by
  unfold State.bind
  extract_lets pre base s1 s2 s3
  have h1 : MemoryOk s2 := foldl_keeps (fun _ _ h2 => h2.frame) _ h.frame
  have h3 : MemoryOk s3 := h1.modLaunch fun _ hy => hy.frame
  split
  · refine h3.bindTiles fun i t x hx => ?_
    split
    · exact hx.finished.number
    next y e =>
      have hy : TileOk y := (OptOk.find? hl).some e
      refine (TileOk.readRecord hy.rebase.frame).map fun z hz => ?_
      split
      exacts [hz.number.frame, hz.number]
  · split
    next s4 args e => exact (h3.span.ok e).bindTiles fun _ _ _ hx => hx.fresh.load.number
    next => trivial

theorem MemoryOk.carryOut (h : MemoryOk s) : OptOk MemoryOk (s.carryOut slot rec) := by
  unfold State.carryOut
  dsimp only
  split
  · trivial
  · split
    · trivial
    · split
      · trivial
      · split
        · trivial
        · split
          exacts [h.bind (h.namedBy.some ‹_›), trivial]

theorem MemoryOk.execBindRecord (h : MemoryOk s) : OutOk (execBindRecord slot rec s) := h.carryOut.getD h
theorem MemoryOk.lastServed (h : MemoryOk s) : MemoryOk (s.lastServed q) := h.frame

theorem MemoryOk.firmwareWatchdog (h : MemoryOk s) : MemoryOk (s.firmwareWatchdog n) := by
  unfold State.firmwareWatchdog
  split
  exacts [h.frame, h]

theorem MemoryOk.execPlaceLaunch (h : MemoryOk s) : OutOk (execPlaceLaunch l slot x0 y0 orient diemap pmode s) := by
  unfold Machine.execPlaceLaunch
  change MemoryOk _
  split
  · split
    · split
      exacts [(h.carryOut.some ‹_›).firmwareWatchdog.lastServed, h]
    · exact h
  · exact h

theorem MemoryOk.execGroupStart (h : MemoryOk s) : OutOk (execGroupStart slot s) := by
  unfold Machine.execGroupStart
  change MemoryOk _
  split
  · exact h
  · split
    exacts [h, (h.mapTiles (fun _ _ h1 => h1.frame.ite h1)).modLaunch (fun _ h2 => LaunchOk.of_nil rfl)]

theorem MemoryOk.recordReached (h : MemoryOk s) : MemoryOk (s.recordReached t) := by
  unfold State.recordReached
  refine foldl_keeps (fun _ _ h1 => ?_) _ h
  dsimp only
  split
  exacts [h1, h1.makeRecord.modTile (fun _ h2 => h2.modStr)]

theorem MemoryOk.execTileDrainComplete (h : MemoryOk s) : OutOk (execTileDrainComplete t s) := by
  unfold Machine.execTileDrainComplete
  change MemoryOk _
  dsimp only
  split
  · exact h.recordReached.modTile (fun _ h1 => h1.release)
  · split
    exacts [h.recordReached, h]

theorem MemoryOk.putGraph (h : MemoryOk s) : MemoryOk (s.putGraph c g) := h.frame
theorem MemoryOk.setEvents (h : MemoryOk s) : MemoryOk (s.setEvents c m) := h.modCtx

theorem MemoryOk.execLaunchComplete (h : MemoryOk s) : OutOk (execLaunchComplete l s) := by
  unfold Machine.execLaunchComplete
  change MemoryOk _
  split
  · exact h
  · split
    · exact h
    · extract_lets s1 s2 s3
      have h1 : MemoryOk s1 := by
        unfold s1
        split
        · exact h
        · dsimp only
          split
          exacts [h.setEvents.putGraph, h.setEvents]
      have h2 : MemoryOk s2 := by
        unfold s2
        split
        exacts [h1.packetDone, h1]
      have h3 : MemoryOk s3 := h2.signalDone
      refine h3.relaunch (launches_map h3.saved fun z hz => ?_)
      split
      exacts [hz.frame, hz]

theorem MemoryOk.execPreemption (h : MemoryOk s) : OutOk (execPreemption l s) := by
  unfold Machine.execPreemption
  change MemoryOk _
  split
  · exact h
  · split
    · exact h
    · dsimp only
      refine foldl_keeps ?_ _ ?_
      · intro m a h1
        split
        exacts [h1.leaveOf.setTile (h1.leaveOf.tile _).frame, h1.leaveOf]
      · split
        · exact h.modLaunch (fun _ h2 => h2.frame)
        · exact foldl_keeps (fun _ _ h3 => h3.modTile (fun _ h4 => h4.frame.ite h4)) _ (h.modLaunch (fun _ h5 => h5.frame))

theorem MemoryOk.execSaveComplete (h : MemoryOk s) : OutOk (execSaveComplete t s) := by
  unfold Machine.execSaveComplete
  change MemoryOk _
  dsimp only
  split
  · exact h
  · split
    · exact h
    next s1 e =>
      have h1 := h.writeRecord.some e
      have h2 := (h1.modLaunch (i := (s.tile t).launch) fun y hy =>
        show LaunchOk { y with saved := y.saved ++ [{ s.tile t with preempt := false }] } from
          List.forall_mem_append.2 ⟨hy, List.forall_mem_singleton.2 (h.tile t).frame⟩).setTile (n := t) (h.tile t).release
      split
      · exact h2
      · split
        · refine h2.relaunch (launches_map h2.saved fun z hz => ?_)
          split
          exacts [hz.frame, hz]
        · exact h2

theorem MemoryOk.execPriorityAging (h : MemoryOk s) : OutOk (execPriorityAging l s) := by
  unfold Machine.execPriorityAging
  change MemoryOk _
  refine h.modLaunch fun _ h1 => ?_
  split
  exacts [h1.frame, h1]

theorem MemoryOk.execGraph (h : MemoryOk s) : OutOk (execGraph q pkt s) := by
  unfold Machine.execGraph
  change MemoryOk _
  dsimp only
  split
  · exact h
  · split
    · exact h.packetError
    · split
      exacts [h.modQueue, h.modQueue.putGraph]

theorem MemoryOk.failGraph (h : MemoryOk s) : MemoryOk (s.failGraph c g value err) := by
  unfold State.failGraph
  dsimp only
  refine MemoryOk.putGraph ?_
  split
  exacts [h, h.putQueue]

theorem MemoryOk.onRecord (h : MemoryOk s) (hf : ∀ g n, MemoryOk (f g n)) : MemoryOk (s.onRecord c ty f) := by
  unfold State.onRecord
  split
  · exact h
  · split
    exacts [h.failGraph, h]
  · split
    exacts [hf _ _, h]

theorem MemoryOk.execGraphLaunchRecord (h : MemoryOk s) : OutOk (execGraphLaunchRecord c s) := by
  unfold Machine.execGraphLaunchRecord
  change MemoryOk _
  refine MemoryOk.onRecord h ?_
  intro a a
  split
  · exact h
  · split
    exacts [h, (h.startLaunch.ok ‹_›).putGraph.next, (h.startLaunch.bad ‹_›).signalStore.failGraph]

theorem MemoryOk.execSnapop (h : MemoryOk s) : OutOk (execSnapop c s) := h.onRecord (fun _ _ => h.frame.putGraph.next)

theorem MemoryOk.execJumpif (h : MemoryOk s) : OutOk (execJumpif c s) := by
  unfold Machine.execJumpif
  change MemoryOk _
  refine MemoryOk.onRecord h ?_
  intro a a
  split
  exacts [h.setEvents.putGraph, h.putGraph]

theorem MemoryOk.execGraphSignalRecord (h : MemoryOk s) : OutOk (execGraphSignalRecord c s) := by
  unfold Machine.execGraphSignalRecord
  change MemoryOk _
  refine MemoryOk.onRecord h ?_
  intro a a
  split
  · exact h
  · exact (h.signalOp.bad ‹_›).asyncRecord.queueFault.failGraph
  · dsimp only
    refine MemoryOk.putGraph ?_
    refine MemoryOk.setEvents ?_
    split
    exacts [(h.signalOp.ok ‹_›).sendMsix, h.signalOp.ok ‹_›]

theorem MemoryOk.cancelRecords (h : MemoryOk s) : OptOk MemoryOk (s.cancelRecords c g fuel n) := by
  induction fuel generalizing s n with
  | zero => exact h
  | succ fuel ih =>
    unfold State.cancelRecords
    split
    next s1 b e =>
      have h1 := h.span.ok e
      extract_lets r s2
      have h2 : MemoryOk s2 := by
        unfold s2
        split
        exacts [h1.signalStore, h1]
      split
      exacts [h2, ih h2]
    next => trivial
    next e => exact h.span.bad e

theorem MemoryOk.endGraph (h : MemoryOk s) : MemoryOk (s.endGraph c g) := h.putGraph.packetDone

theorem MemoryOk.execGraphEndRecord (h : MemoryOk s) : OutOk (execGraphEndRecord c s) := by
  unfold Machine.execGraphEndRecord
  change MemoryOk _
  split
  · exact h
  · dsimp only
    split
    · split
      exacts [h.endGraph.signalStore, h]
    · split
      · split
        · split
          exacts [(h.cancelRecords.some ‹_›).endGraph.signalStore, h]
        · exact h
      · refine MemoryOk.onRecord h ?_
        intro a a
        split
        · exact h
        · split
          · exact h.modCtx.putGraph
          · split
            exacts [h, h.endGraph.signalDone]

/-! ### Snapshots (Machine/Snapshot.lean) -/

theorem MemoryOk.modSnap (h : MemoryOk s) : MemoryOk (s.modSnap c f) := h.frame
theorem MemoryOk.setRange (h : MemoryOk s) : MemoryOk (s.setRange c i r) := h.modSnap
theorem MemoryOk.mapShadows (h : MemoryOk s) : MemoryOk (s.mapShadows f) := h.update h.store.frame

theorem MemoryOk.enableRange (h : MemoryOk s) : MemoryOk (s.enableRange c i new) := by
  unfold State.enableRange
  dsimp only
  split <;> exact h.setRange

theorem MemoryOk.execSrangeWrite (h : MemoryOk s) : OutOk (execSrangeWrite c n hiWord v s) := by
  unfold Machine.execSrangeWrite
  change MemoryOk _
  dsimp only
  split
  · exact h
  · split
    · exact h.frame
    · split
      · split
        exacts [h.enableRange, h.setRange]
      · split
        exacts [h.enableRange, h.setRange]

theorem MemoryOk.execSpoolWrite (h : MemoryOk s) : OutOk (execSpoolWrite c v s) := h.modSnap

theorem MemoryOk.snapForm (h : MemoryOk s0) : OutOk (snapForm form d a p n s0) := by
  unfold Machine.snapForm
  change MemoryOk _
  refine h.issue fun _ h1 => ?_
  dsimp only
  split
  · exact h1
  · split
    exacts [trivial, h1.frame.modTile (fun _ h2 => h2.setWait)]

theorem MemoryOk.execSnap (h : MemoryOk s) : OutOk (execSnap d a p n s) := h.snapForm
theorem MemoryOk.execAccept (h : MemoryOk s) : OutOk (execAccept d a p n s) := h.snapForm
theorem MemoryOk.execReject (h : MemoryOk s) : OutOk (execReject d a p n s) := h.snapForm
theorem MemoryOk.execSnapq (h : MemoryOk s) : OutOk (execSnapq d a p n s) := h.snapForm

theorem MemoryOk.openLevel (h : MemoryOk s) : MemoryOk (s.openLevel c i) := by
  unfold State.openLevel
  dsimp only
  refine MemoryOk.setRange ?_
  split
  exacts [h.update h.store.frame, h]

theorem MemoryOk.dropLevel (h : MemoryOk s) : MemoryOk (s.dropLevel c i k) := h.mapShadows
theorem MemoryOk.acceptRange (h : MemoryOk s) : MemoryOk (s.acceptRange c i) := h.dropLevel.setRange

theorem MemoryOk.rejectRange (h : MemoryOk s) : MemoryOk (s.rejectRange c i) :=
  foldl_keeps (fun _ _ h1 => h1.dropCopies) _ h.mapShadows.setRange

theorem MemoryOk.finishSnap (h : MemoryOk s) : MemoryOk (s.finishSnap op) := by
  unfold State.finishSnap
  dsimp only
  split
  · exact h.frame
  · exact h.frame
  · split
    exacts [h.frame.setEvents.putGraph, h.frame.setEvents]
  · refine MemoryOk.modTile h.frame ?_
    intro x h1
    split
    exacts [h1.answer.ite h1, h1]

theorem TileOk.unissue (h : TileOk x) : TileOk (x.unissue sup bank fpsr) := h.setFpsr.frame.ite h.setFpsr.frame.modStr
theorem TileOk.faultBehind (h : TileOk x) : TileOk (x.faultBehind e code) := h.modStr.frame

theorem MemoryOk.failSnap (h : MemoryOk s) : MemoryOk (s.failSnap op code) := by
  unfold State.failSnap
  dsimp only
  split
  · exact h.frame
  · exact h.frame
  · split
    exacts [h.frame.failGraph, h.frame]
  · split
    · split
      · exact h.frame
      · split
        · exact h.frame.setTile (h.frame.tile _).unissue.faultBehind
        · exact (h.frame.setTile (h.frame.tile _).unissue.setQueue).fault
    · exact h.frame

theorem MemoryOk.resend (h : MemoryOk s) : MemoryOk (s.resend op dies) := (foldl_keeps (fun _ _ h1 => h1.sendInvalidates) _ h).frame

theorem MemoryOk.execSnapshotOperationPerform (h : MemoryOk s) : OutOk (execSnapshotOperationPerform c s) := by
  unfold Machine.execSnapshotOperationPerform
  change MemoryOk _
  split
  · exact h
  · split
    · exact h
    · split
      · exact h.failSnap
      · dsimp only
        split
        · exact (foldl_keeps (fun _ _ h1 => h1.openLevel) _ h).finishSnap
        · exact (foldl_keeps (fun _ _ h2 => h2.acceptRange) _ h).finishSnap
        · exact (foldl_keeps (fun _ _ h3 => h3.rejectRange) _ h).resend
        · exact h.finishSnap
        · split
          exacts [h, (foldl_keeps (fun _ _ h4 => h4.acceptRange) _ h).setRange.finishSnap]

theorem MemoryOk.execRejectCompletion (h : MemoryOk s) : OutOk (execRejectCompletion c s) := by
  unfold Machine.execRejectCompletion
  change MemoryOk _
  split
  · split
    exacts [h.finishSnap, h]
  · exact h

theorem MemoryOk.execInvalidateAckTimeout (h : MemoryOk s) : OutOk (execInvalidateAckTimeout c s) := by
  unfold Machine.execInvalidateAckTimeout
  change MemoryOk _
  split
  · split
    · split
      · exact h.frame.kill
      · split
        exacts [h.resend, h]
    · exact h
  · exact h

theorem MemoryOk.execShadowEntryFree (h : MemoryOk s) : OutOk (execShadowEntryFree c s) := h.update h.store.frame
theorem MemoryOk.execRestoreLine (h : MemoryOk s) : OutOk (execRestoreLine hd line s) := h.restore

theorem MemoryOk.execSnapshotLineWrite (h : MemoryOk s) : OutOk (execSnapshotLineWrite hd pa c data s) := by
  unfold Machine.execSnapshotLineWrite
  change MemoryOk _
  split
  · exact h.homeOp.ok ‹_›
  · exact h
  · split
    · split
      exacts [h.asyncRecord, h]
    · exact h

theorem MemoryOk.dropSnapOps (h : MemoryOk s) : MemoryOk (s.dropSnapOps c) := h.frame
theorem MemoryOk.releaseSnaps (h : MemoryOk s) : MemoryOk (s.releaseSnaps c) := h.mapShadows.modSnap

/-! ### Contexts (Machine/Context.lean) -/

theorem MemoryOk.execFaultRecordWrite (h : MemoryOk s) : OutOk (execFaultRecordWrite c s) := by
  unfold Machine.execFaultRecordWrite
  change MemoryOk _
  dsimp only
  split
  · exact h
  · split
    · exact h
    · split
      · exact h.modCtx.logEvent
      · split
        · exact h.modCtx.logEvent
        · split
          exacts [h, h.modCtx.logEvent, (h.hWrite.ok ‹_›).modCtx]

theorem MemoryOk.execFaultRecordDrop (h : MemoryOk s) : OutOk (execFaultRecordDrop c s) := by
  unfold Machine.execFaultRecordDrop
  change MemoryOk _
  split
  · exact h
  · split
    exacts [h.modCtx, h]

theorem MemoryOk.endCtxCommand (h : MemoryOk s) : MemoryOk (s.endCtxCommand err) := h.frame

theorem MemoryOk.ctxCommand (h : MemoryOk s) (hf : ∀ x, MemoryOk x → MemoryOk (f x)) : MemoryOk (s.ctxCommand op c f) := by
  unfold State.ctxCommand
  split
  exacts [h.frame, hf _ h.frame]

theorem MemoryOk.badCtxCommand (h : MemoryOk s) : MemoryOk (s.badCtxCommand op c) := h.ctxCommand (fun _ h1 => h1.endCtxCommand)

theorem MemoryOk.execCtxCreate (h : MemoryOk s) : OutOk (execCtxCreate c s) := by
  unfold Machine.execCtxCreate
  change MemoryOk _
  refine h.ctxCommand fun _ h1 => ?_
  dsimp only
  split
  · exact h1.endCtxCommand
  · split
    · exact h1.endCtxCommand
    · split
      exacts [h1.endCtxCommand, h1.modCtx.endCtxCommand]

theorem MemoryOk.execCtxKill (h : MemoryOk s) : OutOk (execCtxKill c s) := by
  unfold Machine.execCtxKill
  change MemoryOk _
  refine h.ctxCommand fun _ h1 => ?_
  split
  exacts [h1.endCtxCommand, h1.kill.endCtxCommand]

theorem MemoryOk.execCtxAck (h : MemoryOk s) : OutOk (execCtxAck c s) := by
  unfold Machine.execCtxAck
  change MemoryOk _
  refine h.ctxCommand fun _ h1 => ?_
  split
  exacts [h1.endCtxCommand, h1.modCtx.endCtxCommand]

theorem MemoryOk.destroy (h : MemoryOk s) : MemoryOk (s.destroy c) := by
  unfold State.destroy
  dsimp only
  refine MemoryOk.modCtx ?_
  split
  exacts [h.kill, h.modCtx]

theorem MemoryOk.execCtxDestroy (h : MemoryOk s) : OutOk (execCtxDestroy c s) := by
  unfold Machine.execCtxDestroy
  change MemoryOk _
  refine h.ctxCommand fun _ h1 => ?_
  split
  exacts [h1.frame.destroy, h1.endCtxCommand]

theorem MemoryOk.execFunctionLevelReset (h : MemoryOk s) : OutOk (execFunctionLevelReset c s) := by
  unfold Machine.execFunctionLevelReset
  change MemoryOk _
  split
  exacts [h.destroy, h]

theorem MemoryOk.killQueue (h : MemoryOk s) : MemoryOk (s.killQueue q code) := by
  unfold State.killQueue
  dsimp only
  split
  exacts [h.abandon.putQueue, h.abandon.putQueue, h.abandon.putQueue, h.abandon]

theorem MemoryOk.killLaunches (h : MemoryOk s) : MemoryOk (s.killLaunches c code) := foldl_keeps (fun _ _ h1 => h1.stopLaunch) _ h
theorem MemoryOk.killRings (h : MemoryOk s) : MemoryOk (s.killRings c code ds) := h.frame

theorem MemoryOk.killGraph (h : MemoryOk s) : MemoryOk (s.killGraph c code) := by
  unfold State.killGraph
  split
  exacts [h, h.putGraph.modQueue.signalStore]

theorem MemoryOk.freeContext (h : MemoryOk s) : MemoryOk (s.freeContext c) := by
  unfold State.freeContext
  dsimp only
  split
  · exact (foldl_keeps (fun _ _ h1 => h1.putQueue) _ h).killRings.releaseSnaps.modCtx.endCtxCommand
  · exact (foldl_keeps (fun _ _ h2 => h2.putQueue) _ h).killRings.releaseSnaps.modCtx

theorem MemoryOk.execKillingComplete (h : MemoryOk s) : OutOk (execKillingComplete c s) := by
  unfold Machine.execKillingComplete
  change MemoryOk _
  dsimp only
  split
  · exact h
  · split
    · exact (foldl_keeps (fun _ _ h1 => h1.killQueue) _ h.dropSnapOps.killLaunches.killGraph).killRings
    · split
      · exact (foldl_keeps (fun _ _ h2 => h2.killQueue) _ h.dropSnapOps.killLaunches.killGraph).killRings.sendMsix.modCtx.freeContext
      · exact (foldl_keeps (fun _ _ h3 => h3.killQueue) _ h.dropSnapOps.killLaunches.killGraph).killRings.sendMsix.modCtx

theorem MemoryOk.execAttnRequest (h : MemoryOk s) : OutOk (execAttnRequest c s) := h.mapTiles (fun _ _ h1 => h1.frame.ite h1)

theorem MemoryOk.execReply (h : MemoryOk s) : OutOk (execReply c v s) := by
  unfold Machine.execReply
  change MemoryOk _
  dsimp only
  split
  · exact h.modTile fun _ h1 => h1.frame
  · refine h.relaunch (launches_map h.saved fun l hl => ?_)
    split
    · split
      exacts [hl.frame, hl]
    · exact hl

theorem MemoryOk.endLaunch (h : MemoryOk s) : MemoryOk (s.endLaunch t v) := by
  unfold State.endLaunch
  dsimp only
  split
  · exact h
  · split
    · exact (foldl_keeps (fun _ _ h1 => h1.leave) _ h).stopLaunch.packetDone
    · split
      · exact (foldl_keeps (fun _ _ h2 => h2.leave) _ h).stopLaunch.failGraph
      · exact (foldl_keeps (fun _ _ h3 => h3.leave) _ h).stopLaunch

theorem MemoryOk.execLaunchend (h : MemoryOk s) : OutOk (execLaunchend t v s) := by
  unfold Machine.execLaunchend
  change MemoryOk _
  split
  exacts [h.endLaunch, h]

theorem MemoryOk.execWatchdogExpiry (h : MemoryOk s) : OutOk (execWatchdogExpiry t s) := by
  unfold Machine.execWatchdogExpiry
  change MemoryOk _
  dsimp only
  split
  exacts [h.killWith, h]

theorem MemoryOk.traceFlush (h : MemoryOk s) : MemoryOk (s.traceFlush t) := by
  unfold State.traceFlush
  dsimp only
  split
  · exact h
  · split
    · exact h
    · exact (h.hWrite.bad ‹_›).modTile (fun _ h1 => h1.frame)
    · exact (h.hWrite.ok ‹_›).modTile (fun _ h2 => h2.frame)

theorem MemoryOk.execTraceSample (h : MemoryOk s) : OutOk (execTraceSample t k s) := by
  unfold Machine.execTraceSample
  change MemoryOk _
  dsimp only
  split
  exacts [(h.setTile (h.tile _).traceAdd).traceFlush, h]

theorem MemoryOk.execTileResetComplete (h : MemoryOk s) : OutOk (execTileResetComplete t s) := by
  unfold Machine.execTileResetComplete
  change MemoryOk _
  split
  exacts [h.modTile (fun _ h1 => h1.frame), h]

theorem MemoryOk.writePodMode (h : MemoryOk s) : MemoryOk (s.writePodMode t v) := by
  unfold State.writePodMode
  dsimp only
  split
  · exact h
  · split <;> exact h.frame

theorem MemoryOk.execPodModeChange (h : MemoryOk s) : OutOk (execPodModeChange t s) := by
  unfold Machine.execPodModeChange
  change MemoryOk _
  split
  · split
    exacts [h.writePodMode, h]
  · exact h

/-! ### Page commands (Machine/Pages.lean) -/

theorem MemoryOk.endPageCommand (h : MemoryOk s) : MemoryOk (s.endPageCommand err) := h.frame

theorem MemoryOk.pageCommand (h : MemoryOk s) (hf : ∀ x, MemoryOk x → MemoryOk (f x)) : MemoryOk (s.pageCommand op c errs f) := by
  unfold State.pageCommand
  split
  · exact h.frame
  · split
    exacts [h.endPageCommand, hf _ h.frame]

theorem MemoryOk.badPageCommand (h : MemoryOk s) : MemoryOk (s.badPageCommand op c) := h.pageCommand (fun _ h1 => h1)
theorem MemoryOk.execSetroot (h : MemoryOk s) : OutOk (execSetroot c s) := h.pageCommand (fun _ h1 => h1.modCtx)
theorem MemoryOk.dropTlbs (h : MemoryOk s) : MemoryOk (s.dropTlbs c first pages) := h.mapTiles (fun _ _ h1 => h1.frame.ite h1)
theorem MemoryOk.execShootdown (h : MemoryOk s) : OutOk (execShootdown c s) := h.pageCommand (fun _ h1 => h1.dropTlbs)

theorem MemoryOk.frameSet (h : MemoryOk s) : MemoryOk (s.frameSet die pa c) := by
  unfold State.frameSet
  extract_lets key x0 s1
  have hc {m : Memory} {v : Byte} (hm : m.wf = true) : ((List.range 256).foldl (fun (m : Memory) i => m.write (key / 256 + i) v) m).wf = true :=
    Memory.wf_foldl (fun _ _ h1 => Memory.wf_write h1) _ hm
  split
  · exact h
  · split
    · exact h.update (.update h.store.mem h.store.stamp (Memory.wf_write h.store.attr) (hc h.store.chunk) h.store.dirty)
    · have h1 : MemoryOk s1 := foldl_keeps (fun _ _ h1 => h1.wrN) _ h
      exact h1.update (.update h1.store.mem h1.store.stamp (Memory.wf_write h1.store.attr) (hc h1.store.chunk) h1.store.dirty)

theorem MemoryOk.execFrameset (h : MemoryOk s) : OutOk (execFrameset c s) := h.pageCommand (fun _ h1 => h1.frameSet)

theorem MemoryOk.dirtySync (h : MemoryOk s) : MemoryOk (s.dirtySync die pa clr) := by
  unfold State.dirtySync
  dsimp only
  split
  · exact h.update (StoreOk.update h.store.mem h.store.stamp h.store.attr h.store.chunk (Memory.wf_foldl (fun _ _ h1 => Memory.wf_write h1) _ h.store.dirty))
  · exact h.frame

theorem MemoryOk.execDirtysync (h : MemoryOk s) : OutOk (execDirtysync c s) := h.pageCommand (fun _ h1 => h1.dirtySync)
theorem MemoryOk.execMigcfg (h : MemoryOk s) : OutOk (execMigcfg c s) := h.pageCommand (fun _ h1 => h1.modCtx)

theorem MemoryOk.execPageCommandComplete (h : MemoryOk s) : OutOk (execPageCommandComplete s) := by
  unfold Machine.execPageCommandComplete
  change MemoryOk _
  split
  · exact h
  · split
    exacts [h, h.endPageCommand]

theorem MemoryOk.putLeaves (h : MemoryOk s) : MemoryOk (s.putLeaves die pa es) := foldl_keeps (fun _ _ h1 => h1.wrN) _ h
theorem MemoryOk.modMig (h : MemoryOk s) : MemoryOk (s.modMig c va f) := h.update h.store.frame

theorem MemoryOk.execMigrationTrigger (h : MemoryOk s) : OutOk (execMigrationTrigger c va d s) := by
  unfold Machine.execMigrationTrigger
  change MemoryOk _
  split
  · exact h
  · dsimp only
    split
    · exact h
    · split
      · split
        · exact h.modMig
        · split
          · exact h.putLeaves.dropTlbs.modMig.logEvent
          · split
            exacts [h.modMig, (h.update h.store.frame).modMig]
      · exact h.modMig

theorem MemoryOk.redirect (h : MemoryOk s) : MemoryOk (s.redirect f) := (h.mapTiles (fun _ _ h1 => h1.frame)).frame

theorem MemoryOk.execMigrationMoveComplete (h : MemoryOk s) : OutOk (execMigrationMoveComplete c va s) := by
  unfold Machine.execMigrationMoveComplete
  change MemoryOk _
  split
  · exact h
  · split
    · split
      · dsimp only
        refine MemoryOk.modMig ?_
        split <;> exact h.wrN.putLeaves.dropTlbs.redirect.update h.wrN.putLeaves.dropTlbs.redirect.store.frame
      · dsimp only
        refine MemoryOk.modMig ?_
        split
        exacts [h.update h.store.frame, h]
    · exact h

theorem MemoryOk.execFreezeExpiry (h : MemoryOk s) : OutOk (execFreezeExpiry c va s) := by
  unfold Machine.execFreezeExpiry
  change MemoryOk _
  split
  · exact h
  · split
    · split
      exacts [h, h.putLeaves.dropTlbs.modMig]
    · exact h

/-! ### Links (Machine/Links.lean) -/

theorem MemoryOk.modPort (h : MemoryOk s) : MemoryOk (s.modPort n f) := h.frame
theorem MemoryOk.dropOffered (h : MemoryOk s) : MemoryOk (s.dropOffered n) := foldl_keeps (fun _ _ h1 => h1.kill) _ h.frame

theorem MemoryOk.losePort (h : MemoryOk s) : MemoryOk (s.losePort n phase) := by
  unfold State.losePort
  dsimp only
  split
  exacts [foldl_keeps (fun _ _ h1 => h1.kill) _ h.modPort, h.modPort]

theorem MemoryOk.portJournal (h : MemoryOk s) : MemoryOk (s.portJournal n st b) := h.logEvent
theorem MemoryOk.stepFails (h : MemoryOk s) : MemoryOk (s.stepFails n st) := h.portJournal.modPort
theorem MemoryOk.stepDone (h : MemoryOk s) : MemoryOk (s.stepDone n st f) := h.portJournal.modPort
theorem MemoryOk.execPortEnable (h : MemoryOk s) : OutOk (execPortEnable n s) := h.modPort
theorem MemoryOk.execPortDisable (h : MemoryOk s) : OutOk (execPortDisable n s) := h.modPort

theorem MemoryOk.execBringupLock (h : MemoryOk s) : OutOk (execBringupLock n b s) := by
  unfold Machine.execBringupLock
  change MemoryOk _
  split
  · split
    exacts [h.stepDone, h.stepFails]
  · exact h

theorem MemoryOk.execBringupAlign (h : MemoryOk s) : OutOk (execBringupAlign n skew flight s) := by
  unfold Machine.execBringupAlign
  change MemoryOk _
  split
  · split
    exacts [h.stepDone, h.stepFails]
  · exact h

theorem MemoryOk.execBringupTrain (h : MemoryOk s) : OutOk (execBringupTrain n s) := by
  unfold Machine.execBringupTrain
  change MemoryOk _
  split
  exacts [h.stepDone, h]

theorem MemoryOk.execBringupVerify (h : MemoryOk s) : OutOk (execBringupVerify n corr uncorr s) := by
  unfold Machine.execBringupVerify
  change MemoryOk _
  split
  · split
    exacts [h.stepDone, h.stepFails]
  · exact h

theorem MemoryOk.execBringupHandshake (h : MemoryOk s) : OutOk (execBringupHandshake n same encl s) := by
  unfold Machine.execBringupHandshake
  change MemoryOk _
  split
  exacts [h.stepDone, h]

theorem MemoryOk.slotFlit (h : MemoryOk s) : MemoryOk (s.slotFlit n slot).1 := by
  unfold State.slotFlit
  dsimp only
  split
  · exact h.modPort
  · split
    exacts [h.frame, h]

theorem MemoryOk.execRowSend (h : MemoryOk s) : OutOk (execRowSend n s) := by
  unfold Machine.execRowSend
  change MemoryOk _
  dsimp only
  split
  · split
    · split
      · exact h.resolveSlots.losePort.modPort.modPort.slotFlit.slotFlit.modPort
      · exact h.resolveSlots.losePort.modPort.modPort.dropOffered
    · split
      · exact h.resolveSlots.losePort.modPort.slotFlit.slotFlit.modPort
      · exact h.resolveSlots.losePort.modPort.dropOffered
  · split
    · split
      exacts [h.resolveSlots.modPort.slotFlit.slotFlit.modPort, h.resolveSlots.modPort.dropOffered]
    · split
      exacts [h.resolveSlots.slotFlit.slotFlit.modPort, h.resolveSlots.dropOffered]

theorem MemoryOk.arriveFlit (h : MemoryOk s) : MemoryOk (s.arriveFlit n slot late header body) := by
  unfold State.arriveFlit
  split
  · split
    exacts [h, h.frame]

theorem MemoryOk.passFlit (h : MemoryOk s) : MemoryOk (s.passFlit n fc slot late header body) := by
  unfold State.passFlit
  dsimp only
  split
  · exact h
  · split
    exacts [h.modPort, h.frame]

theorem MemoryOk.routeFlit (h : MemoryOk s) : MemoryOk (s.routeFlit n fc slot late vc hd b) := by
  unfold State.routeFlit
  split
  · dsimp only
    split
    · exact h.passFlit
    · split
      exacts [h.treeFlit, h.arriveFlit]
  · dsimp only
    split
    · exact h.dynFlit
    · split
      exacts [h, h.frame]

theorem MemoryOk.integrityRecords (h : MemoryOk s) : MemoryOk (s.integrityRecords n) := foldl_keeps (fun _ _ h1 => h1.asyncRecord) _ h

theorem MemoryOk.takeFlit (h : MemoryOk s) : MemoryOk (s.takeFlit n fc slot late f).1 := by
  unfold State.takeFlit
  split
  · exact h
  · dsimp only
    split
    · exact h.routeFlit
    · dsimp only
      split
      exacts [h.modPort.logEvent.integrityRecords, h.modPort.logEvent]

theorem MemoryOk.wantRepair (h : MemoryOk s) : MemoryOk (s.wantRepair n fc slot) := h.modPort

theorem MemoryOk.takeRepair (h : MemoryOk s) : MemoryOk (s.takeRepair n pkt) := by
  unfold State.takeRepair
  split
  · exact h
  · split
    · exact h
    · dsimp only
      split
      · exact h.modPort.takeFlit
      · split
        exacts [h.takeFlit, h]

theorem MemoryOk.execRepairPacketReceive (h : MemoryOk s) : OutOk (execRepairPacketReceive n pkt s) := by
  unfold Machine.execRepairPacketReceive
  change MemoryOk _
  split
  exacts [h.takeRepair, h]

theorem MemoryOk.execRowReceive (h : MemoryOk s) : OutOk (execRowReceive n beats s) := by
  unfold Machine.execRowReceive
  change MemoryOk _
  dsimp only
  split
  · exact h
  · split
    · split
      · split
        · exact h.modPort.modPort.losePort
        · exact foldl_keeps (fun _ _ h1 => h1.takeRepair) _ h.modPort.modPort.wantRepair.wantRepair.modPort
      · split
        · exact h.modPort.losePort
        · exact foldl_keeps (fun _ _ h2 => h2.takeRepair) _ h.modPort.wantRepair.wantRepair.modPort
    · refine foldl_keeps (fun _ _ h3 => h3.takeRepair) _ ?_
      · refine MemoryOk.modPort ?_
        split
        · split
          · split
            · split
              · split
                · exact h.modPort.modPort.takeFlit.wantRepair.takeFlit.wantRepair
                · exact h.modPort.modPort.takeFlit.wantRepair.takeFlit
              · split
                · exact h.modPort.modPort.takeFlit.wantRepair.takeFlit.wantRepair
                · exact h.modPort.modPort.takeFlit.wantRepair.takeFlit
            · split
              · split
                exacts [h.modPort.modPort.takeFlit.takeFlit.wantRepair, h.modPort.modPort.takeFlit.takeFlit]
              · split
                exacts [h.modPort.modPort.takeFlit.takeFlit.wantRepair, h.modPort.modPort.takeFlit.takeFlit]
          · split
            · split
              · split
                · exact h.modPort.modPort.takeFlit.wantRepair.takeFlit.wantRepair
                · exact h.modPort.modPort.takeFlit.wantRepair.takeFlit
              · split
                · exact h.modPort.modPort.takeFlit.wantRepair.takeFlit.wantRepair
                · exact h.modPort.modPort.takeFlit.wantRepair.takeFlit
            · split
              · split
                exacts [h.modPort.modPort.takeFlit.takeFlit.wantRepair, h.modPort.modPort.takeFlit.takeFlit]
              · split
                exacts [h.modPort.modPort.takeFlit.takeFlit.wantRepair, h.modPort.modPort.takeFlit.takeFlit]
        · split
          · split
            · split
              · split
                exacts [h.modPort.takeFlit.wantRepair.takeFlit.wantRepair, h.modPort.takeFlit.wantRepair.takeFlit]
              · split
                exacts [h.modPort.takeFlit.wantRepair.takeFlit.wantRepair, h.modPort.takeFlit.wantRepair.takeFlit]
            · split
              · split
                exacts [h.modPort.takeFlit.takeFlit.wantRepair, h.modPort.takeFlit.takeFlit]
              · split
                exacts [h.modPort.takeFlit.takeFlit.wantRepair, h.modPort.takeFlit.takeFlit]
          · split
            · split
              · split
                exacts [h.modPort.takeFlit.wantRepair.takeFlit.wantRepair, h.modPort.takeFlit.wantRepair.takeFlit]
              · split
                exacts [h.modPort.takeFlit.wantRepair.takeFlit.wantRepair, h.modPort.takeFlit.wantRepair.takeFlit]
            · split
              · split
                exacts [h.modPort.takeFlit.takeFlit.wantRepair, h.modPort.takeFlit.takeFlit]
              · split
                exacts [h.modPort.takeFlit.takeFlit.wantRepair, h.modPort.takeFlit.takeFlit]

theorem MemoryOk.execRepairTimeout (h : MemoryOk s) : OutOk (execRepairTimeout n s) := h.modPort
theorem MemoryOk.execRingNearWrap (h : MemoryOk s) : OutOk (execRingNearWrap n out ln s) := h.modPort

theorem MemoryOk.execRingEndOfRange (h : MemoryOk s) : OutOk (execRingEndOfRange n out ln s) := by
  unfold Machine.execRingEndOfRange
  change MemoryOk _
  dsimp only
  split
  · exact h
  · split
    exacts [h.modPort.losePort, h.modPort]

theorem MemoryOk.execLaneRetrainComplete (h : MemoryOk s) : OutOk (execLaneRetrainComplete n out b s) := h.modPort
theorem MemoryOk.execLaneRetrainRetry (h : MemoryOk s) : OutOk (execLaneRetrainRetry n out s) := h.modPort

theorem MemoryOk.execClockLaneLost (h : MemoryOk s) : OutOk (execClockLaneLost n out s) := by
  unfold Machine.execClockLaneLost
  change MemoryOk _
  split
  exacts [h.losePort, h]

theorem MemoryOk.modSwitch (h : MemoryOk s) : MemoryOk (s.modSwitch e f) := h.frame

theorem MemoryOk.execSwcmd (h : MemoryOk s) : OutOk (execSwcmd e v s) := by
  unfold Machine.execSwcmd
  change MemoryOk _
  dsimp only
  split
  · exact h.modSwitch
  · split <;> exact h.modSwitch

theorem MemoryOk.execSwitchCellWriteDone (h : MemoryOk s) : OutOk (execSwitchCellWriteDone e s) := by
  unfold Machine.execSwitchCellWriteDone
  change MemoryOk _
  dsimp only
  split
  exacts [h, h.modSwitch.logEvent, h.modSwitch]

theorem MemoryOk.setRing (h : MemoryOk s) : MemoryOk (s.setRing c r x) := h.frame

/-! ### Work rings (Machine/Ether.lean) -/

theorem MemoryOk.putRing (h : MemoryOk s) : MemoryOk (s.putRing c r x) := by
  unfold State.putRing
  dsimp only
  split
  · exact h.setRing
  · split
    exacts [h.setRing.frame.hWrite.ok ‹_›, h.setRing.frame.owe, (h.setRing.frame.hWrite.bad ‹_›).setRing]

theorem MemoryOk.ringFault (h : MemoryOk s) : MemoryOk (s.ringFault c r cause i) := h.putRing

theorem MemoryOk.cancelRing (h : MemoryOk s) : OptOk MemoryOk (s.cancelRing x r code n) := by
  induction n generalizing s r with
  | zero => exact h
  | succ n ih =>
    unfold State.cancelRing
    split
    next => trivial
    next s1 b e =>
      have h1 := h.hRead.ok e
      dsimp only
      split
      exacts [ih h1.signalStore, ih h1]
    next e => exact ih (h.hRead.bad e)

theorem MemoryOk.failRmas (h : MemoryOk s) : MemoryOk (s.failRmas f code) := foldl_keeps (fun _ _ h1 => h1.signalStore) _ h.frame

theorem MemoryOk.ringControl (h : MemoryOk s) : MemoryOk (s.ringControl c r v) := by
  unfold State.ringControl
  dsimp only
  split
  · split
    · exact h
    · split
      exacts [h.owe, (h.checkCreate.bad ‹_›).setRing, (h.checkCreate.ok ‹_›).putRing]
  · exact h.putRing
  · split
    exacts [h.putRing, h]
  · exact h.putRing
  · exact h.putRing
  · exact h
  · split
    · exact h.owe
    · exact (h.failRmas.indices.bad ‹_›).putRing
    · split
      exacts [h.owe, ((h.failRmas.indices.ok ‹_›).cancelRing.some ‹_›).putRing]
  · exact h

theorem MemoryOk.wrBytes (h : MemoryOk s) : MemoryOk (s.wrBytes c p bs) := by
  induction bs generalizing s p with
  | nil => exact h
  | cons b rest ih => exact ih h.wrC

theorem MemoryOk.placeParts (h : MemoryOk s) : PlacedOk (State.placeParts c data ps s) := by
  induction ps generalizing s with
  | nil => exact h
  | cons x rest ih => exact h.placeThen (fun _ h1 => h1.wrBytes) fun _ h1 => ih h1

theorem MemoryOk.rmaMet (h : MemoryOk s) : MemoryOk (s.rmaMet c va ps) := h.closedMet

theorem MemoryOk.rmaPlace (h : MemoryOk s) : PlacedOk (s.rmaPlace c va data) := by
  unfold State.rmaPlace
  split
  exacts [h, trivial, h.rmaMet.placeParts]

theorem MemoryOk.startDesc (h : MemoryOk s) : MemoryOk (s.startDesc c r d) := by
  unfold State.startDesc
  split
  · exact h.signalStore
  · dsimp only
    split
    · split
      exacts [h.signalStore, h.frame, h.frame.rmaMet]
    · exact h.frame

theorem MemoryOk.execUeWorkDescriptor (h : MemoryOk s) : OutOk (execUeWorkDescriptor c r s) := by
  unfold Machine.execUeWorkDescriptor
  change MemoryOk _
  dsimp only
  split
  · exact h
  · split
    next => exact h
    next e => exact (h.indices.bad e).ringFault
    next s0 i w e =>
      have h1 := h.indices.ok e
      split
      · split
        · exact h1.putRing
        · split
          exacts [h1, h1.putRing]
      · split
        next => exact h
        next e1 => exact (h1.hRead.bad e1).ringFault
        next s1 body e1 =>
          have h2 := h1.hRead.ok e1
          split
          · exact h2.putRing
          · split
            next => exact h
            next e2 => exact (h2.hWrite.bad e2).ringFault
            next s2 _ e2 =>
              have h3 := h2.hWrite.ok e2
              split
              next => exact h
              next e3 => exact (h3.hWrite.bad e3).ringFault
              next s3 _ e3 =>
                have h4 := (h3.hWrite.ok e3).putRing (c := c) (r := r) (x := { s.workRing c r with progIdx := BitVec.ofNat 32 i, prompted := false })
                split
                exacts [h4.signalStore, h4.startDesc]

theorem MemoryOk.execUeRmaPacket (h : MemoryOk s) : OutOk (execUeRmaPacket c wr rkey off data s) := by
  unfold Machine.execUeRmaPacket
  change MemoryOk _
  split
  · exact h
  · split
    · exact h
    · split
      exacts [h.rmaPlace.ok ‹_›, h, h.rmaPlace.refuse ‹_›]

theorem MemoryOk.endRma (h : MemoryOk s) : MemoryOk (s.endRma m) := h.frame

theorem MemoryOk.execUeResponsePacket (h : MemoryOk s) : OutOk (execUeResponsePacket m kind cause data s) := by
  unfold Machine.execUeResponsePacket
  change MemoryOk _
  split
  · exact h
  · dsimp only
    split
    · split
      exacts [h.endRma.signalDone, h]
    · exact h.endRma.signalStore
    · split
      · exact h
      · split
        · exact h
        · exact (h.rmaPlace.refuse ‹_›).endRma.signalStore
        · split
          exacts [(h.rmaPlace.ok ‹_›).endRma.signalDone, (h.rmaPlace.ok ‹_›).frame]
    · exact h

theorem MemoryOk.execEntropyStatsUpdate (h : MemoryOk s) : OutOk (execEntropyStatsUpdate c eset ent sent ecn rtt s) := h.wrN

/-! ### The module and its registers (Machine/Management.lean) -/

theorem MemoryOk.modIsland (h : MemoryOk s) : MemoryOk (s.modIsland i f) := h.frame

theorem MemoryOk.settleSupply (h : MemoryOk s) : MemoryOk s.settleSupply := by
  unfold State.settleSupply
  dsimp only
  refine foldl_keeps (fun _ _ h1 => ?_) _ h
  split
  · split
    exacts [h1.modIsland, h1]
  · exact h1

theorem MemoryOk.applyRatio (h : MemoryOk s) : MemoryOk (s.applyRatio i n) := by
  unfold State.applyRatio
  exact h.modIsland.logEvent.settleSupply

theorem MemoryOk.askRatio (h : MemoryOk s) : MemoryOk (s.askRatio i n forced) := by
  unfold State.askRatio
  split
  · exact h.modIsland
  · split
    exacts [h.applyRatio, h.modIsland]

theorem MemoryOk.execIslandRatioChange (h : MemoryOk s) : OutOk (execIslandRatioChange i s) := by
  unfold Machine.execIslandRatioChange
  change MemoryOk _
  dsimp only
  split
  · split
    exacts [h.applyRatio, h]
  · exact h

theorem MemoryOk.execNreqWrite (h : MemoryOk s) : OutOk (execNreqWrite i n s) := by
  unfold Machine.execNreqWrite
  change MemoryOk _
  dsimp only
  split
  · exact h
  · split
    exacts [h.modIsland.askRatio, h.modIsland]

theorem MemoryOk.execVsetWrite (h : MemoryOk s) : OutOk (execVsetWrite i v s) := by
  unfold Machine.execVsetWrite
  change MemoryOk _
  dsimp only
  split
  · exact h
  · split
    · exact h.modIsland
    · refine MemoryOk.settleSupply ?_
      refine foldl_keeps (fun _ _ h1 => ?_) _ h.modIsland
      split
      exacts [h1.askRatio, h1]

theorem MemoryOk.execIslandPowerUp (h : MemoryOk s) : OutOk (execIslandPowerUp i s) := by
  unfold Machine.execIslandPowerUp
  change MemoryOk _
  dsimp only
  split
  exacts [h.modIsland, h]

theorem MemoryOk.execIslandPowerDown (h : MemoryOk s) : OutOk (execIslandPowerDown i s) := by
  unfold Machine.execIslandPowerDown
  change MemoryOk _
  dsimp only
  split
  exacts [foldl_keeps (fun _ _ h1 => h1.modTile (fun _ h2 => h2.frame)) _ h.modIsland, h]

theorem tile_reset (t : Fin 640) : State.reset.tile t = Tile.blank := by
  simp [State.tile, State.reset]

/-- Settles O59: every memory is empty at reset, and no launch is saved. -/
theorem resetMemoryOk : Obligations.ResetMemoryOk := by
  refine ⟨⟨rfl, rfl, rfl, rfl, rfl⟩, fun t => ?_, fun l hl => ?_⟩
  · rw [tile_reset]
    exact ⟨rfl, rfl, rfl⟩
  · simp [State.reset] at hl

theorem MemoryOk.unpowered (_ : MemoryOk s) : MemoryOk s.unpowered := resetMemoryOk.frame
theorem MemoryOk.execModulePowerOff (h : MemoryOk s) : OutOk (execModulePowerOff s) := h.unpowered
theorem MemoryOk.journal (h : MemoryOk s) : MemoryOk (s.journal st alt b) := h.logEvent

theorem MemoryOk.startStep (h : MemoryOk s) : MemoryOk (s.startStep k n alt) := by
  unfold State.startStep
  split
  · exact h.frame
  · exact h.update (.update h.store.mem rfl rfl rfl rfl)
  · exact h.frame
  · exact foldl_keeps (fun _ _ h1 => h1.modPort) _ h
  · exact h.frame
  · exact h

theorem MemoryOk.startFrom (hb : MemoryOk base) (h : MemoryOk s) : MemoryOk (base.startFrom k fails l s) := by
  induction l generalizing s with
  | nil => exact h.frame
  | cons n rest ih =>
    unfold State.startFrom
    dsimp only
    split
    exacts [hb.frame, ih h.startStep.journal.frame]

theorem MemoryOk.execModulePowerOn (h : MemoryOk s) : OutOk (execModulePowerOn fails s) := by
  unfold Machine.execModulePowerOn
  change MemoryOk _
  split
  exacts [h, h.unpowered.frame.modIsland.startFrom h.unpowered.frame.modIsland]

theorem MemoryOk.lowerIslands (h : MemoryOk s) : MemoryOk (s.lowerIslands is) :=
  foldl_keeps (fun _ _ h1 => h1.askRatio) _ (foldl_keeps (fun _ _ h2 => h2.logEvent) _ h)

theorem MemoryOk.raiseIslands (h : MemoryOk s) : MemoryOk (s.raiseIslands is) := by
  unfold State.raiseIslands
  refine foldl_keeps (fun _ _ h1 => ?_) _ h
  dsimp only
  split
  exacts [h1.askRatio, h1]

theorem MemoryOk.execLimitLoop (h : MemoryOk s) : OutOk (execLimitLoop watts hot s) := by
  unfold Machine.execLimitLoop
  change MemoryOk _
  dsimp only
  split
  · exact h.frame.logEvent.unpowered
  · split
    · exact h.frame.lowerIslands
    · split
      exacts [h.frame.lowerIslands.raiseIslands, h.frame.lowerIslands]

theorem MemoryOk.writeDevice (h : MemoryOk s) : MemoryOk (s.writeDevice a bs) := h.wrN
theorem MemoryOk.endMailbox (h : MemoryOk s) : MemoryOk (s.endMailbox err) := h.frame

theorem MemoryOk.mailbox (h : MemoryOk s) : MemoryOk (s.mailbox v) := by
  unfold State.mailbox
  dsimp only
  split
  · exact h
  · split
    exacts [h.frame, h.endMailbox]

theorem MemoryOk.execUpdate (h : MemoryOk s) : OutOk (execUpdate s) := by
  unfold Machine.execUpdate
  change MemoryOk _
  dsimp only
  split
  · exact h
  · split
    exacts [h.endMailbox, h.frame.endMailbox]

theorem MemoryOk.execAttest (h : MemoryOk s) : OutOk (execAttest s) := by
  unfold Machine.execAttest
  change MemoryOk _
  dsimp only
  split
  · exact h
  · split
    exacts [h.endMailbox, h.writeDevice.endMailbox]

theorem MemoryOk.execLogread (h : MemoryOk s) : OutOk (execLogread s) := by
  unfold Machine.execLogread
  change MemoryOk _
  dsimp only
  split
  · exact h
  · split
    exacts [h.endMailbox, h.writeDevice.endMailbox]

theorem MemoryOk.hostPart (h : MemoryOk s) : OptOk MemoryOk (s.hostPart f addr bs) := by
  unfold State.hostPart
  dsimp only
  split
  · exact h
  · split
    · exact h
    · split
      · trivial
      · exact h
      · split
        · exact h.homeOp.ok ‹_›
        · trivial
        · split
          exacts [h.asyncRecord, h]

theorem MemoryOk.hostParts (h : MemoryOk s) : OptOk MemoryOk (State.hostParts f data ps s) := by
  induction ps generalizing s with
  | nil => exact h
  | cons x rest ih =>
    unfold State.hostParts
    split
    next => trivial
    next s1 e => exact ih (h.hostPart.some e)

theorem MemoryOk.hostStore (h : MemoryOk s) : OptOk MemoryOk (s.hostStore f addr data) := h.hostParts

theorem MemoryOk.stateAfter {o : Out} (h : MemoryOk s) (ho : OutOk o) : MemoryOk (stateAfter s o) := by
  unfold Machine.stateAfter
  split
  exacts [ho, h]

theorem MemoryOk.writeQueuePage (h : MemoryOk s) : MemoryOk (s.writeQueuePage f q off v) := by
  unfold State.writeQueuePage
  split
  · exact h
  · split
    · exact h.notify
    · split
      · exact h.stateAfter h.execQueueCreate
      · exact h.stateAfter h.execQueuePause
      · exact h.stateAfter h.execQueueResume
      · exact h.stateAfter h.execQueueDrain
      · exact h.stateAfter h.execQueueReset
      · exact h
    · exact h.frame
    · exact h

theorem MemoryOk.writeFunctionReg (h : MemoryOk s) : MemoryOk (s.writeFunctionReg c off v) := by
  unfold State.writeFunctionReg
  dsimp only
  split
  · exact h.stateAfter h.execReply
  · split
    exacts [h.stateAfter h.execAttnRequest, h]
  · exact h.modCtx
  · exact h.modCtx
  · exact h.stateAfter h.execSpoolWrite
  · exact h.frame
  · exact h.frame
  · exact h.frame
  · split
    exacts [h.stateAfter h.execSrangeWrite, h]

theorem MemoryOk.writeDriverReg (h : MemoryOk s) : MemoryOk (s.writeDriverReg off v) := by
  unfold State.writeDriverReg
  dsimp only
  split
  · exact h.frame
  · exact h.frame
  · split
    · exact h.stateAfter h.execSetroot
    · exact h.stateAfter h.execShootdown
    · exact h.stateAfter h.execFrameset
    · exact h.stateAfter h.execDirtysync
    · exact h.stateAfter h.execMigcfg
    · exact h.badPageCommand
  · exact h.frame
  · exact h.frame
  · exact h.frame
  · split
    · exact h.stateAfter h.execCtxCreate
    · exact h.stateAfter h.execCtxKill
    · exact h.stateAfter h.execCtxAck
    · exact h.stateAfter h.execCtxDestroy
    · exact h.badCtxCommand
  · exact h

theorem MemoryOk.writePortReg (h : MemoryOk s) : MemoryOk (s.writePortReg n off v) := by
  unfold State.writePortReg
  split
  · dsimp only
    split
    · exact h.modPort.stateAfter h.modPort.execPortEnable
    · split
      exacts [h.modPort.stateAfter h.modPort.execPortDisable, h.modPort]
  · exact h.modPort
  · exact h.modPort
  · exact h.modPort
  · exact h.modPort
  · exact h.modPort
  · exact h

theorem MemoryOk.writeDeviceReg (h : MemoryOk s) : MemoryOk (s.writeDeviceReg off v) := by
  unfold State.writeDeviceReg
  split
  · exact h.writePortReg
  · split
    · split
      exacts [h.stateAfter h.execSwcmd, h]
    · split
      · dsimp only
        split
        · exact h.stateAfter h.execAggctlWrite
        · split
          exacts [h.setBellows, h]
      · split
        · exact (h.stateAfter h.execNreqWrite).stateAfter (h.stateAfter h.execNreqWrite).execVsetWrite
        · split
          · exact h.mailbox
          · split
            · exact h.frame
            · split
              exacts [h.frame, h]

theorem MemoryOk.writeRingPage (h : MemoryOk s) : MemoryOk (s.writeRingPage c r off v) := by
  unfold State.writeRingPage
  split
  · split
    exacts [h.putRing, h]
  · exact h.ringControl
  · exact h

theorem MemoryOk.hostPostNow (h : MemoryOk s) : OptOk MemoryOk (s.hostPostNow a) := by
  unfold State.hostPostNow
  split
  · exact h.hostStore
  · dsimp only
    split
    · exact h.writeQueuePage
    · split
      exacts [h.writeRingPage, h]

theorem MemoryOk.hostPost (h : MemoryOk s) : MemoryOk (s.hostPost w) := by
  unfold State.hostPost
  dsimp only
  split
  exacts [h.frame, h.hostPostNow.getD h.frame]

theorem MemoryOk.payPosted (h : MemoryOk s) : MemoryOk s.payPosted := foldl_keeps (fun _ _ h1 => h1.hostPost) _ h.frame
theorem MemoryOk.execHostWrite (h : MemoryOk s) : OutOk (execHostWrite f addr data s) := h.hostPost

theorem MemoryOk.execRegisterWrite (h : MemoryOk s) : OutOk (execRegisterWrite f off v s) := by
  unfold Machine.execRegisterWrite
  change MemoryOk _
  dsimp only
  split
  · exact h.hostPost
  · split
    · split
      exacts [h.hostPost, h.writeFunctionReg]
    · split
      exacts [h.writeDriverReg, h.writeDeviceReg]

theorem MemoryOk.pay (h : MemoryOk s) : MemoryOk (s.pay w) := by
  unfold State.pay
  split
  exacts [h.signalStore, h.signalDone, h.writeStatus, h.claim, h.createQueue, h.resetQueue, h.ringControl]

theorem MemoryOk.payOwed (h : MemoryOk s) : MemoryOk s.payOwed := foldl_keeps (fun _ _ h1 => h1.pay) _ h.frame

/-! ### System registers (Machine/System.lean) -/

theorem MemoryOk.writeRecordOf (h : MemoryOk s) : MemoryOk (s.writeRecordOf n) := h.makeRecord.setTile (h.tile _).frame
theorem TileOk.takeReply (h : TileOk t) : TileOk t.takeReply := h.frame

theorem MemoryOk.readFreply (h : MemoryOk s) : MemoryOk (s.readFreply d) := by
  unfold State.readFreply
  dsimp only
  refine h.issue fun _ h1 => ?_
  split
  exacts [fun _ h2 => h2.writeRecordOf, h1.modTile (fun _ h3 => h3.takeReply.setS), trivial]

theorem MemoryOk.execFreplyRead (h : MemoryOk s) : OutOk (execFreplyRead t s) := by
  unfold Machine.execFreplyRead
  change MemoryOk _
  dsimp only
  split
  · split
    exacts [h.frame.readFreply.frame, h]
  · exact h

theorem MemoryOk.execMfs (h : MemoryOk s) : OutOk (execMfs d a s) := by
  unfold Machine.execMfs
  change MemoryOk _
  dsimp only
  split
  · exact h.fault
  · split
    · exact h.readFreply
    · split
      exacts [h.issueT (fun _ h1 => h1.windowNext.setS), h.issueT (fun _ h2 => h2.setS)]

theorem MemoryOk.sysWrite (h : MemoryOk s) : MemoryOk (s.sysWrite n a v) := by
  unfold State.sysWrite
  dsimp only
  split
  · exact h.modTile (fun _ h1 => h1.frame)
  · exact h.modTile (fun _ h2 => h2.frame)
  · exact h.modTile (fun _ h3 => h3.frame)
  · exact h.modTile (fun _ h4 => h4.frame)
  · exact h.modTile (fun _ h5 => h5.frame)
  · exact h.modTile (fun _ h6 => h6.frame)
  · exact h.modTile (fun _ h7 => h7.frame)
  · exact h.endLaunch
  · exact h.modTile (fun _ h8 => h8.frame)
  · exact h.modTile (fun _ h9 => h9.frame)
  · exact h.modTile (fun _ h10 => h10.windowWrite.windowNext)
  · exact h.writePodMode
  · exact h.modTile (fun _ h11 => h11.frame)
  · exact h.modTile (fun _ h12 => h12.frame)
  · exact h.modTile (fun _ h13 => h13.frame)
  · split
    exacts [h.modTile (fun _ h14 => h14.modStr), h]

theorem MemoryOk.execMts (h : MemoryOk s) : OutOk (execMts a r s) := by
  unfold Machine.execMts
  change MemoryOk _
  dsimp only
  split
  · exact h.fault
  · refine h.issue fun _ h1 => ?_
    split
    · exact h1.modTile (fun _ h2 => h2.setFpsr)
    · split
      exacts [h1.sysWrite, h1]

/-! ### The dispatch (Machine/Dispatch.lean) -/

theorem MemoryOk.exec (h : MemoryOk s) : OutOk (exec i s) := by
  unfold Machine.exec
  split
  exacts [h.execAdd, h.execSub, h.execAnd, h.execOr, h.execXor, h.execAndn, h.execShl, h.execShr, h.execSra, h.execMin, h.execMax,
    h.execMinu, h.execMaxu, h.execClz, h.execCtz, h.execPopc, h.execSel, h.execAddW, h.execSubW, h.execShlW, h.execShrW, h.execSraW,
    h.execClzW, h.execCtzW, h.execPopcW, h.execAddi, h.execAndi, h.execOri, h.execXori, h.execShli, h.execShri, h.execSrai, h.execLi,
    h.execLea, h.execCmp, h.execCmpi, h.execPand, h.execPor, h.execPxor, h.execPandn, h.execPnot, h.execMul, h.execMulh, h.execMulhu,
    h.execMulW, h.execFaddS, h.execFsubS, h.execFmulS, h.execFmaS, h.execFminS, h.execFmaxS, h.execFaddD, h.execFsubD, h.execFmulD,
    h.execFmaD, h.execFminD, h.execFmaxD, h.execCvtSD, h.execCvtDS, h.execCvtSI, h.execCvtIS, h.execCvtDI, h.execCvtID, h.execDiv,
    h.execDivu, h.execRem, h.execRemu, h.execFdivS, h.execFsqrtS, h.execFdivD, h.execFsqrtD, h.execMovM, h.execMovD, h.execMovL,
    h.execSpl, h.execSps, h.execLsp, h.execSsp, h.execPopStream, h.execPopChannel, h.execPushK, h.execPushO, h.execPushJ, h.execBr,
    h.execCall, h.execJr, h.execJrl, h.execSnap, h.execAccept, h.execReject, h.execSnapq, h.execEvset, h.execEvclr, h.execEvtst,
    h.execQpost, h.execMfs, h.execMts, h.execTrap, h.execEret, h.execTstop, h.execTgo, h.execRawait, h.execRrel, h.execHalt, h.execWait,
    h.execSig, h.execFwait, h.execVadd, h.execVsub, h.execVmul, h.execVmin, h.execVmax, h.execVabs, h.execVneg, h.execVmov, h.execVfma,
    h.execVfms, h.execVfnma, h.execVdot2, h.execVand, h.execVor, h.execVxor, h.execVandn, h.execVshl, h.execVshr, h.execVsra, h.execVnot,
    h.execVcmp, h.execVsel, h.execVcvt, h.execVrcp, h.execVrsq, h.execVexp2, h.execVlog2, h.execVsinp, h.execVcosp, h.execVtanh,
    h.execVsqrt, h.execVsum, h.execVrmax, h.execVrmin, h.execVramax, h.execVrot, h.execVshuf, h.execVtapw, h.execVtapr, h.execVins,
    h.execVinsB, h.execVext, h.execVacr, h.execVacw, h.execCbld, h.execCbswap, h.execVcbx, h.execVmode, h.execVview, h.execVbamax,
    h.execVbscMx, h.execVbscSb8, h.execVbscSb4, h.execMand, h.execMor, h.execMxor, h.execMnot, h.execMpopc, h.execLd, h.execLdw,
    h.execLdg, h.execSset, h.execSclr, h.execMarkL, h.execAtr, h.execFenceL, h.execAcq, h.execPref, h.execLaAdd, h.execLaAddi,
    h.execLaShli, h.execLaLi, h.execLaTake, h.execLaIx, h.execBarw, h.execSt, h.execStw, h.execStx, h.execAtn, h.execMarkS, h.execFenceS,
    h.execRel, h.execAflush, h.execSaAdd, h.execSaAddi, h.execSaShli, h.execSaLi, h.execSaTake, h.execSaIx, h.execBarm, h.execBarr,
    h.execMpar, h.execMparq, h.execMma, h.execMmas, h.execMzero, h.execMout, h.execTpar, h.execFft, h.execLeg, h.execXpar, h.execSend,
    h.execSwg, h.execRtree, h.execYpar, h.execRecv, h.execYclr, h.execLoop, h.execNopl, h.execFetchLine, h.execBranchResolve,
    h.execFetchEndHalt, h.execResultLanding, h.execTrapEntry, h.execFreplyRead, h.execWdataAccess, h.execLaunchend,
    h.execPendingSigPerform, h.execEventPerform, h.execQpostTimeout, h.execLoadDeliver, h.execStorePerform, h.execTlbWalk,
    h.execStreamElement, h.execAnvilPrescan, h.execAnvilStep, h.execCommandRaise, h.execTransformStep, h.execFollowOnStart,
    h.execPodModeChange, h.execIslandRatioChange, h.execWatchdogExpiry, h.execTraceSample, h.execTileResetComplete, h.execBindRecord,
    h.execGroupStart, h.execTileDrainComplete, h.execLaunchComplete, h.execPreemption, h.execSaveComplete, h.execPlaceLaunch,
    h.execPriorityAging, h.execFaultRecordWrite, h.execFaultRecordDrop, h.execCtxCreate, h.execCtxKill, h.execCtxAck, h.execCtxDestroy,
    h.execFunctionLevelReset, h.execKillingComplete, h.execAttnRequest, h.execReply, h.execNotify, h.execClaim, h.execQueueCreate,
    h.execQueuePause, h.execQueueResume, h.execQueueDrain, h.execQueueReset, h.execDrainComplete, h.execHearthPoll, h.execDispatch,
    h.execCopy, h.execLayout, h.execQfence, h.execQfenceJoinComplete, h.execSignalPacket, h.execGraph, h.execSlotReserve,
    h.execCopyComplete, h.execCopyFault, h.execBarrierPost, h.execBarwPoll, h.execGraphLaunchRecord, h.execSnapop, h.execJumpif,
    h.execGraphSignalRecord, h.execGraphEndRecord, h.execFlitDepart, h.execFlitLanding, h.execTreeNodeCombine, h.execPortEnable,
    h.execPortDisable, h.execBringupLock, h.execBringupAlign, h.execBringupTrain, h.execBringupVerify, h.execBringupHandshake,
    h.execRowSend, h.execRowReceive, h.execRepairPacketReceive, h.execRepairTimeout, h.execRingNearWrap, h.execRingEndOfRange,
    h.execLaneRetrainComplete, h.execLaneRetrainRetry, h.execSwcmd, h.execSwitchCellWriteDone, h.execRequestAccept, h.execRequestDepart,
    h.execTargetService, h.execReplyArrive, h.execRemoteTimeout, h.execWaitLimitTimeout, h.execHeldRequestTimeout, h.execAggElementEnter,
    h.execAggAgeExpiry, h.execAggPacketAccept, h.execAggStatusArrive, h.execAggctlWrite, h.execUeWorkDescriptor, h.execUeRmaPacket,
    h.execEntropyStatsUpdate, h.execSetroot, h.execShootdown, h.execFrameset, h.execDirtysync, h.execMigcfg, h.execMigrationTrigger,
    h.execMigrationMoveComplete, h.execFreezeExpiry, h.execSrangeWrite, h.execSpoolWrite, h.execSnapshotOperationPerform,
    h.execSnapshotLineWrite, h.execRejectCompletion, h.execInvalidateAckTimeout, h.execRestoreLine, h.execHostWrite, h.execModulePowerOn,
    h.execIslandPowerUp, h.execIslandPowerDown, h.execLimitLoop, h.execNreqWrite, h.execVsetWrite, h.execUpdate, h.execAttest,
    h.execLogread, h.execRegisterWrite, h.execClockLaneLost, h.execModulePowerOff, h.execShadowEntryFree, h.execUeResponsePacket,
    h.execPageCommandComplete]

/-! ### The step (Machine/Step.lean) -/

theorem MemoryOk.perform (h : MemoryOk s) : OutOk (perform w s) := by
  unfold Machine.perform
  split
  exacts [h.execEventPerform, h.execLoadDeliver, h.execStorePerform, h.execTlbWalk, h.execStreamElement, h.execPodModeChange,
    h.execIslandRatioChange, h.execWatchdogExpiry, h.execTileResetComplete, h.execTileDrainComplete, h.execGroupStart, h.execPlaceLaunch,
    h.execLaunchComplete, h.execPreemption, h.execSaveComplete, h.execPriorityAging, h.execFaultRecordWrite, h.execFaultRecordDrop,
    h.execKillingComplete, h.execHearthPoll, h.execDispatch, h.execCopy, h.execLayout, h.execQfence, h.execSignalPacket, h.execGraph,
    h.execQfenceJoinComplete, h.execDrainComplete, h.execSlotReserve, h.execCopyComplete, h.execCopyFault, h.execQpostTimeout,
    h.execBarwPoll, h.execGraphLaunchRecord, h.execSnapop, h.execJumpif, h.execGraphSignalRecord, h.execGraphEndRecord, h.execFlitLanding,
    h.execTreeNodeCombine, h.execRequestAccept, h.execRequestDepart, h.execTargetService, h.execReplyArrive, h.execRemoteTimeout,
    h.execWaitLimitTimeout, h.execHeldRequestTimeout, h.execAggElementEnter, h.execAggAgeExpiry, h.execAggPacketAccept,
    h.execAggStatusArrive, h.execUeWorkDescriptor, h.execMigrationTrigger, h.execMigrationMoveComplete, h.execFreezeExpiry,
    h.execSnapshotOperationPerform, h.execRejectCompletion, h.execShadowEntryFree, h.execRestoreLine, h.execInvalidateAckTimeout,
    h.execPageCommandComplete, h.execUpdate, h.execAttest, h.execLogread, h.execRowSend, h.execRepairTimeout, h.execLaneRetrainRetry,
    h.execSwitchCellWriteDone]

theorem OutOk.andThen (h : OutOk o) (hf : ∀ x, MemoryOk x → OutOk (f x)) : OutOk (andThen o f) := by
  cases o with
  | next x => exact hf x h
  | fault r => trivial
  | refused r => trivial

theorem MemoryOk.clock (h : MemoryOk s) : MemoryOk s.clock := h.mapTiles (fun _ _ h1 => h1.ite h1.frame)
theorem MemoryOk.nextCycle (h : MemoryOk s) : MemoryOk s.nextCycle := h.frame.clock.resolveSlots.payOwed.payPosted.frame

theorem MemoryOk.nextTurn (h : MemoryOk s) : MemoryOk s.nextTurn := by
  unfold State.nextTurn
  split
  exacts [h.frame, h.nextCycle]

theorem MemoryOk.setPhase (h : MemoryOk s) : MemoryOk (s.setPhase n) := h.frame
theorem MemoryOk.advance (h : MemoryOk s) : MemoryOk s.advance := h.setPhase

theorem MemoryOk.faultPast (h : MemoryOk s) : MemoryOk (s.faultPast k f pc) := by
  unfold State.faultPast
  dsimp only
  split
  · split
    exacts [(h.setTile h.cur.setQueue).fault, h.setTile h.cur.setQueue.faultAt.traceEntry.trapEntry]
  · exact h.setTile h.cur.setQueue.faultAt

theorem MemoryOk.noteIssue (h : MemoryOk s) : MemoryOk (s.noteIssue t) := h.modTile (fun _ h1 => h1.frame.ite h1)

theorem OutOk.issued (h : OutOk o) : OutOk (issued t k o) := by
  refine h.andThen fun x hx => ?_
  change MemoryOk _
  split
  exacts [hx.noteIssue, hx]

theorem MemoryOk.playStrand (h : MemoryOk s) : OutOk (playStrand p k s) := by
  unfold Machine.playStrand
  split
  exacts [h, h.execResultLanding, h.execFetchEndHalt, h.faultPast, h.fault, h.fault, OutOk.issued h.exec]

theorem MemoryOk.holdOn (h : MemoryOk s) : MemoryOk (s.holdOn k) := by
  unfold State.holdOn
  split
  · split
    exacts [h.qpostHold, h]
  · exact h.loadHold
  · exact h.storeHold
  · exact h

theorem MemoryOk.earlyStrand (h : MemoryOk s) : OutOk (earlyStrand s) := by
  unfold Machine.earlyStrand
  dsimp only
  split
  · exact h.execTrapEntry
  · split
    · split
      exacts [h, h.playStrand]
    · exact h
    · exact h.playStrand

theorem MemoryOk.lateStrand (h : MemoryOk s) : OutOk (lateStrand s) := by
  unfold Machine.lateStrand
  split
  · split
    exacts [h.playStrand, h]
  · exact h

theorem MemoryOk.accessStrand (h : MemoryOk s) : OutOk (accessStrand s) := by
  unfold Machine.accessStrand
  split
  · split
    exacts [h.playStrand, h]
  · change MemoryOk _
    split
    exacts [h.holdOn, h]
  · exact h

theorem TileOk.landSems (h : TileOk t) : OptOk TileOk t.landSems := by
  unfold Tile.landSems
  dsimp only
  split
  exacts [trivial, foldl_keeps (fun _ _ h1 => h1.vact) _ h.frame]

theorem MemoryOk.controlJudged (h : MemoryOk s) : OutOk (controlJudged s) := by
  unfold Machine.controlJudged
  split
  · split
    · exact h.lateStrand
    · dsimp only
      split
      · split
        exacts [(h.setTile (h.cur.landSems.some ‹_›)).lateStrand, h.lateStrand]
      · exact h.lateStrand
  · exact h.lateStrand

theorem MemoryOk.engines (h : MemoryOk s) : OutOk (engines s) := by
  unfold Machine.engines
  refine h.execAnvilPrescan.andThen fun _ h1 => ?_
  refine h1.execTransformStep.andThen fun _ h2 => ?_
  refine h2.execCommandRaise.andThen fun _ h3 => ?_
  refine h3.execCommandRaise.andThen fun _ h4 => ?_
  refine h4.execCommandRaise.andThen fun _ h5 => ?_
  refine h5.execCommandRaise.andThen fun _ h6 => ?_
  exact foldl_keeps (P := OutOk) (fun _ _ h7 => h7.andThen fun _ h8 => h8.execPendingSigPerform) _ h6

theorem MemoryOk.closing (h : MemoryOk s) : OutOk (closing s) := OutOk.andThen h.execAnvilStep (fun _ h1 => h1.execBranchResolve)

theorem MemoryOk.fetchPhase (h : MemoryOk s) : OutOk (fetchPhase s) := by
  dsimp only [Machine.fetchPhase]
  generalize (if s.cur.isSup then none else s.cur.nextDirective) = d
  cases d with
  | none => exact h.execFetchLine
  | some i =>
    cases i with
    | loop => exact h.exec
    | nopl => exact h.exec
    | _ => exact h.execFetchLine

theorem TileOk.endTc (h : TileOk t) : TileOk t.endTc := h.endClaims.dropRaised.frame

theorem MemoryOk.traceTc (h : MemoryOk s) : OutOk (traceTc s) := by
  unfold Machine.traceTc
  dsimp only
  split
  · exact foldl_keeps (fun _ _ h1 => OutOk.andThen h1 (fun _ h2 => h2.execTraceSample)) _ (h.modTile (fun _ h3 => h3.frame))
  · exact h.traceFlush

theorem TileOk.beginTc (h : TileOk t) : TileOk t.beginTc := TileOk.update h.spad h.spad h.rsp

theorem MemoryOk.nextTc (h : MemoryOk s) : MemoryOk s.nextTc := by
  unfold State.nextTc
  split
  exacts [(h.modTile (fun _ h1 => h1.beginTc)).setPhase, h.nextTurn]

theorem MemoryOk.turnStep (h : MemoryOk s) : OutOk (turnStep s) := by
  unfold Machine.turnStep
  split
  · refine OutOk.andThen ?_ (fun _ h1 => h1.nextTc)
    split
    exacts [h.execFlitDepart, h]
  · exact OutOk.andThen h.engines (fun _ h2 => h2.advance)
  · exact OutOk.andThen h.controlJudged (fun _ h3 => h3.advance)
  · exact OutOk.andThen h.closing (fun _ h4 => h4.advance)
  · exact OutOk.andThen h.fetchPhase (fun _ h5 => h5.advance)
  · split
    · exact OutOk.andThen h.earlyStrand (fun _ h6 => h6.advance)
    · split
      · dsimp only
        refine h.lateStrand.andThen fun _ h7 => ?_
        refine OutOk.andThen ?_ (fun _ h8 => h8.advance)
        split
        exacts [h7.execFollowOnStart, h7]
      · split
        · exact OutOk.andThen h.accessStrand (fun _ h9 => h9.advance)
        · exact OutOk.andThen (h.modTile (fun _ h10 => h10.endTc)).traceTc (fun _ h11 => h11.nextTc)

theorem MemoryOk.step (h : MemoryOk s) : OutOk (step s) := by
  unfold Machine.step
  split
  exacts [h.frame.perform, h.turnStep]

/-- Settles O60: the lemma of `step` says it of the answer, for every state. -/
theorem stepKeepsMemoryOk : Obligations.StepKeepsMemoryOk := fun _ _ h e => h.step.next e

end Sys2Proof.Safety

/-!
PROOFS of the family 00_scope.md: host accesses (O52).
-/
namespace Sys2Proof.HostAccess
open Sys2Proof Sys2Proof.Machine

/-! ## Posted order -/

theorem behind_iff (s : State) (f : HostFn) : s.behind f = true ↔ ∃ w ∈ s.posted, w.fn = f := by
  simp [State.behind]

theorem behind_of_posted_nil (s : State) (f : HostFn) (h : s.posted = []) : s.behind f = false := by
  simp [State.behind, h]

theorem hostPost_behind {s : State} {w : HostPost} (h : s.behind w.fn = true) : s.hostPost w = { s with posted := s.posted ++ [w] } :=
  if_pos h

theorem hostPost_not_behind {s : State} {w : HostPost} (h : s.behind w.fn = false) :
    s.hostPost w = (s.hostPostNow w).getD { s with posted := s.posted ++ [w] } :=
  if_neg (by simp [h])

theorem hostPost_now {s s1 : State} {w : HostPost} (h : s.behind w.fn = false) (e : s.hostPostNow w = some s1) : s.hostPost w = s1 := by
  rw [hostPost_not_behind h, e]
  rfl

theorem hostPost_held {s : State} {w : HostPost} (h : s.behind w.fn = false) (e : s.hostPostNow w = none) :
    s.hostPost w = { s with posted := s.posted ++ [w] } := by
  rw [hostPost_not_behind h, e]
  rfl

theorem payPosted_single {s : State} {w : HostPost} (h : s.posted = [w]) : s.payPosted = ({ s with posted := [] } : State).hostPost w := by
  rw [State.payPosted, h]
  rfl

/-! ## The lines of a write -/

/-- Cutting does not depend on the fuel, once it lasts for the last part. -/
theorem cutAt_fuel {fuel fuel' pos a len : Nat} (h : len = 0 ∨ a % 128 + len ≤ 128 * fuel) (h' : len = 0 ∨ a % 128 + len ≤ 128 * fuel') :
    cutAt 128 fuel pos a len = cutAt 128 fuel' pos a len := by
  induction fuel generalizing fuel' pos a len with
  | zero =>
    have h0 : len = 0 := by omega
    cases fuel' <;> simp [cutAt, h0]
  | succ fuel ih =>
    by_cases h0 : len = 0
    · cases fuel' <;> simp [cutAt, h0]
    · cases fuel' with
      | zero => omega
      | succ fuel' =>
        simp only [cutAt, h0, if_false]
        rw [ih (fuel' := fuel') (by omega) (by omega)]

/-- Parts that lie `k` bytes further on are the same parts of the bytes from `k` on. -/
theorem hostParts_drop (f : HostFn) (data : List Byte) (k : Nat) (fuel pos a len : Nat) (s : State) :
    State.hostParts f data (cutAt 128 fuel (k + pos) a len) s = State.hostParts f (data.drop k) (cutAt 128 fuel pos a len) s := by
  induction fuel generalizing pos a len s with
  | zero => rfl
  | succ fuel ih =>
    by_cases h0 : len = 0
    · simp [cutAt, h0, State.hostParts]
    · simp only [cutAt, h0, if_false, State.hostParts, List.drop_drop, Nat.add_assoc, ih]

theorem hostParts_cons (f : HostFn) (data : List Byte) (p : Nat × Nat × Nat) (ps : List (Nat × Nat × Nat)) (s : State) :
    State.hostParts f data (p :: ps) s =
      (s.hostPart f (BitVec.ofNat 64 p.2.1) ((data.drop p.1).take p.2.2)).bind (State.hostParts f data ps) := by
  rw [State.hostParts]
  cases s.hostPart f (BitVec.ofNat 64 p.2.1) ((data.drop p.1).take p.2.2) <;> rfl

/-- The parts of a write: its first line's, and then those of the rest. -/
theorem hostStore_first (s : State) (f : HostFn) (addr : W64) {data : List Byte} (hd : data ≠ []) :
    let n := min data.length (128 - addr.toNat % 128)
    s.hostStore f addr data =
      (s.hostPart f addr (data.take n)).bind (State.hostParts f data (cutAt 128 (data.length / 128 + 1) n (addr.toNat + n) (data.length - n))) := by
  intro n
  have h0 : data.length ≠ 0 := by simpa using hd
  rw [State.hostStore, cutAt, if_neg h0, hostParts_cons]
  simp [n]

theorem hostStore_line (s : State) (f : HostFn) {addr : W64} {data : List Byte} (hd : data ≠ []) (h : addr.toNat % 128 + data.length ≤ 128) :
    s.hostStore f addr data = s.hostPart f addr data := by
  have hn : min data.length (128 - addr.toNat % 128) = data.length := by omega
  simp only [hostStore_first s f addr hd, hn, List.take_length, Nat.sub_self, cutAt, if_true]
  cases s.hostPart f addr data <;> rfl

theorem hostStore_lines (s : State) (f : HostFn) {addr : W64} {data : List Byte} (hd : data ≠ []) (h : 128 < addr.toNat % 128 + data.length)
    (ha : addr.toNat + data.length ≤ 2 ^ 64) :
    let n := 128 - addr.toNat % 128
    s.hostStore f addr data = (s.hostPart f addr (data.take n)).bind fun s1 => s1.hostStore f (addr + BitVec.ofNat 64 n) (data.drop n) := by
  intro n
  have hn : min data.length (128 - addr.toNat % 128) = n := by omega
  have hto : (addr + BitVec.ofNat 64 n).toNat = addr.toNat + n := by
    rw [BitVec.toNat_add, BitVec.toNat_ofNat]
    omega
  rw [hostStore_first s f addr hd]
  simp only [hn]
  congr 1
  funext s1
  calc State.hostParts f data (cutAt 128 (data.length / 128 + 1) n (addr.toNat + n) (data.length - n)) s1
      = State.hostParts f (data.drop n) (cutAt 128 (data.length / 128 + 1) 0 (addr.toNat + n) (data.length - n)) s1 :=
        hostParts_drop f data n _ 0 _ _ s1
    _ = s1.hostStore f (addr + BitVec.ofNat 64 n) (data.drop n) := by
        rw [State.hostStore, List.length_drop, hto, cutAt_fuel (fuel' := (data.length - n) / 128 + 2)] <;> omega

/-! ## A line of a write (R254) -/

/-- The context that a function's accesses are made in. -/
def ctxOf : HostFn → BitVec 6
  | .virtual c => c
  | .physical => 0

theorem hostPart_nowhere {s : State} {f : HostFn} {addr : W64} (data : List Byte) (h : s.hostPhys f addr = none) :
    s.hostPart f addr data = some s := by
  simp only [State.hostPart, h]

theorem hostPart_barrier {s : State} {f : HostFn} {addr : W64} (data : List Byte) {p : Phys} (h : s.hostPhys f addr = some p)
    (hp : barrierPlace p = true) : s.hostPart f addr data = some s := by
  simp only [State.hostPart, h, hp, if_true]

section
variable {s : State} {f : HostFn} {addr : W64} {data : List Byte} {p : Phys}
variable (h : s.hostPhys f addr = some p) (hp : barrierPlace p = false)
include h hp

theorem hostPart_held (hr : s.canReach hubDie p data.length addr = .hold) : s.hostPart f addr data = none := by
  simp [State.hostPart, h, hp, hr]

theorem hostPart_unreached {x : Nat} {a : W64} (hr : s.canReach hubDie p data.length addr = .bad () x a) :
    s.hostPart f addr data = some s := by
  simp [State.hostPart, h, hp, hr]

variable (hr : s.canReach hubDie p data.length addr = .ok () ())
include hr

theorem hostPart_written {s1 : State} {v : Nat}
    (ho : s.homeOp (ctxOf f) p.pkg p.die p.pa.toNat (.write data.length (ofBytes data)) = .ok (s1, v)) :
    s.hostPart f addr data = some s1 := by
  cases f <;> simp only [ctxOf] at ho <;> simp only [State.hostPart, h, hp, hr, ho, Bool.false_eq_true, if_false]

theorem hostPart_home_held (ho : s.homeOp (ctxOf f) p.pkg p.die p.pa.toNat (.write data.length (ofBytes data)) = .hold) :
    s.hostPart f addr data = none := by
  cases f <;> simp only [ctxOf] at ho <;> simp only [State.hostPart, h, hp, hr, ho, Bool.false_eq_true, if_false]

theorem hostPart_unshadowed {o : BitVec 6} {i : Fin 16}
    (ho : s.homeOp (ctxOf f) p.pkg p.die p.pa.toNat (.write data.length (ofBytes data)) = .refuse cShadow)
    (hi : s.rangeAt p.die.toNat p.pa.toNat = some (o, i)) :
    s.hostPart f addr data = some (s.asyncRecord o cShadow 0 0 addr) := by
  cases f <;> simp only [ctxOf] at ho <;> simp only [State.hostPart, h, hp, hr, ho, hi, Bool.false_eq_true, if_false, beq_self_eq_true, if_true]

end

/-! ## Writes of registers (R10, R11) -/

/-- A step that answers a state is that answer. -/
theorem next_stateAfter (s : State) {x : State} {o : Out} (h : o = .next x) : .next (stateAfter s o) = o := by
  subst h
  rfl

/-- A queue's page. -/
def pageOf (q : BitVec 10) : BitVec 24 := BitVec.ofNat 24 (q.toNat * 4096)

theorem pageOf_toNat (q : BitVec 10) {k : BitVec 24} (hk : k.toNat < 4096) : (pageOf q + k).toNat = q.toNat * 4096 + k.toNat := by
  have hq := q.isLt
  rw [pageOf, BitVec.toNat_add, BitVec.toNat_ofNat]
  omega

theorem page_number (q : BitVec 10) {k : BitVec 24} (hk : k.toNat < 4096) : BitVec.ofNat 10 ((pageOf q + k).toNat / 0x1000) = q := by
  have e : (pageOf q + k).toNat / 0x1000 = q.toNat := by
    rw [pageOf_toNat q hk]
    omega
  rw [e, BitVec.ofNat_toNat, BitVec.setWidth_eq]

theorem page_offset (q : BitVec 10) {k : BitVec 24} (hk : k.toNat < 4096) : (pageOf q + k).toNat % 0x1000 = k.toNat := by
  rw [pageOf_toNat q hk]
  omega

theorem page_low (q : BitVec 10) {k : BitVec 24} (hk : k.toNat < 4096) : (pageOf q + k).toNat < 0x400000 := by
  have hq := q.isLt
  rw [pageOf_toNat q hk]
  omega

theorem registerWrite_page (s : State) (f : HostFn) {off : BitVec 24} (v : W64) (h : off.toNat < 0x400000) :
    exec (.registerWrite f off v) s = .next (s.hostPost (.page f off v)) :=
  congrArg Host.Outcome.next (if_pos h)

theorem registerWrite_page_behind (s : State) (f : HostFn) {off : BitVec 24} (v : W64) (h : off.toNat < 0x400000) (hb : s.behind f = true) :
    exec (.registerWrite f off v) s = .next { s with posted := s.posted ++ [.page f off v] } := by
  rw [registerWrite_page s f v h, hostPost_behind hb]

/-- A write to a queue's page that no earlier one of its function holds up. -/
theorem registerWrite_queuePage {s : State} {f : HostFn} (hb : s.behind f = false) (q : BitVec 10) {k : BitVec 24} (hk : k.toNat < 4096) (v : W64) :
    exec (.registerWrite f (pageOf q + k) v) s = .next (s.writeQueuePage f q k.toNat v) := by
  have e : s.hostPostNow (.page f (pageOf q + k) v) = some (s.writeQueuePage f q k.toNat v) := by
    exact (if_pos (page_low q hk)).trans (by rw [page_number q hk, page_offset q hk])
  rw [registerWrite_page s f v (page_low q hk), hostPost_now hb e]

theorem writeQueuePage_notify (s : State) (f : HostFn) (q : BitVec 10) (v : W64) : s.writeQueuePage f q 0 v = s.notify f q := by
  cases hr : (s.queue q).reachable f <;> simp [State.writeQueuePage, State.notify, hr]

theorem writeQueuePage_control_virtual (s : State) (c : BitVec 6) (q : BitVec 10) (v : W64) :
    s.writeQueuePage (.virtual c) q 0x20 v = s := by
  simp [State.writeQueuePage]

theorem registerWrite_notify {s : State} {f : HostFn} (hb : s.behind f = false) (q : BitVec 10) (v : W64) :
    exec (.registerWrite f (pageOf q) v) s = exec (.notify f q) s := by
  have e := registerWrite_queuePage hb q (k := 0#24) (by decide) v
  rw [BitVec.add_zero, BitVec.toNat_zero, writeQueuePage_notify] at e
  rw [e]
  exact congrArg Host.Outcome.next (if_neg (by simp [hb])).symm

/-- A write of a queue's CONTROL. -/
theorem registerWrite_control {s : State} {f : HostFn} (hb : s.behind f = false) (q : BitVec 10) (v : W64) :
    exec (.registerWrite f (pageOf q + 0x20#24) v) s = .next (s.writeQueuePage f q 0x20 v) :=
  registerWrite_queuePage hb q (by decide) v

/-- The step of each operation of a queue's CONTROL. -/
theorem registerWrite_control_op {s : State} (hb : s.behind .physical = false) (q : BitVec 10) (v : W64) :
    (fld v.toNat 0 3 = 1 → exec (.registerWrite .physical (pageOf q + 0x20#24) v) s = exec (.queueCreate q v) s) ∧
    (fld v.toNat 0 3 = 2 → exec (.registerWrite .physical (pageOf q + 0x20#24) v) s = exec (.queuePause q) s) ∧
    (fld v.toNat 0 3 = 3 → exec (.registerWrite .physical (pageOf q + 0x20#24) v) s = exec (.queueResume q) s) ∧
    (fld v.toNat 0 3 = 4 → exec (.registerWrite .physical (pageOf q + 0x20#24) v) s = exec (.queueDrain q) s) ∧
    (fld v.toNat 0 3 = 5 → exec (.registerWrite .physical (pageOf q + 0x20#24) v) s = exec (.queueReset q) s) := by
  rw [registerWrite_control hb]
  refine ⟨fun h => ?_, fun h => ?_, fun h => ?_, fun h => ?_, fun h => ?_⟩ <;>
  · simp only [State.writeQueuePage, Queue.reachable, h, Bool.not_true, Bool.false_eq_true, if_false]
    rfl

/-- A write to one of the driver's registers is made at once. -/
theorem registerWrite_driver (s : State) {off : BitVec 24} (v : W64) (h : 0x400000 ≤ off.toNat) (h' : off.toNat < 0x403000) :
    exec (.registerWrite .physical off v) s = .next (s.writeDriverReg off.toNat v) :=
  congrArg Host.Outcome.next ((if_neg (by omega)).trans (if_pos h'))

theorem registerWrite_device (s : State) {off : BitVec 24} (v : W64) (h : 0x403000 ≤ off.toNat) :
    exec (.registerWrite .physical off v) s = .next (s.writeDeviceReg off.toNat v) :=
  congrArg Host.Outcome.next ((if_neg (by omega)).trans (if_neg (by omega)))

theorem registerWrite_function (s : State) (c : BitVec 6) {off : BitVec 24} (v : W64) (h : 0x400000 ≤ off.toNat)
    (h' : off.toNat < 0x40A000 ∨ 0x40E000 ≤ off.toNat) :
    exec (.registerWrite (.virtual c) off v) s = .next (s.writeFunctionReg c off.toNat v) :=
  congrArg Host.Outcome.next ((if_neg (by omega)).trans (if_neg (by omega)))

/-- The step of each operation of the page command and of the context command register. -/
theorem registerWrite_command (s : State) (v : W64) :
    let c : BitVec 6 := v.extractLsb' 8 6
    let op := fld v.toNat 0 4
    (op = 1 → exec (.registerWrite .physical 0x401010 v) s = exec (.setroot c) s ∧
      exec (.registerWrite .physical 0x401818 v) s = exec (.ctxCreate c) s) ∧
    (op = 2 → exec (.registerWrite .physical 0x401010 v) s = exec (.shootdown c) s ∧
      exec (.registerWrite .physical 0x401818 v) s = exec (.ctxKill c) s) ∧
    (op = 3 → exec (.registerWrite .physical 0x401010 v) s = exec (.frameset c) s ∧
      exec (.registerWrite .physical 0x401818 v) s = exec (.ctxAck c) s) ∧
    (op = 4 → exec (.registerWrite .physical 0x401010 v) s = exec (.dirtysync c) s ∧
      exec (.registerWrite .physical 0x401818 v) s = exec (.ctxDestroy c) s) ∧
    (op = 5 → exec (.registerWrite .physical 0x401010 v) s = exec (.migcfg c) s) := by
  intro c op
  have hp : exec (.registerWrite .physical 0x401010 v) s = .next (s.writeDriverReg 0x401010 v) := registerWrite_driver s v (by decide) (by decide)
  have hc : exec (.registerWrite .physical 0x401818 v) s = .next (s.writeDriverReg 0x401818 v) := registerWrite_driver s v (by decide) (by decide)
  rw [hp, hc]
  refine ⟨fun h => ⟨?_, ?_⟩, fun h => ⟨?_, ?_⟩, fun h => ⟨?_, ?_⟩, fun h => ⟨?_, ?_⟩, fun h => ?_⟩ <;>
  · simp only [op] at h
    simp only [State.writeDriverReg, h]
    rfl

theorem registerWrite_virtual (s : State) (c : BitVec 6) (v : W64) :
    exec (.registerWrite (.virtual c) 0x400000 v) s = exec (.reply c v) s ∧
    exec (.registerWrite (.virtual c) 0x402100 v) s = exec (.spoolWrite c v) s ∧
    exec (.registerWrite (.virtual c) 0x401010 v) s = .next s ∧ exec (.registerWrite (.virtual c) 0x408000 v) s = .next s := by
  have h0 : exec (.registerWrite (.virtual c) 0x400000 v) s = .next (s.writeFunctionReg c 0x400000 v) :=
    registerWrite_function s c v (by decide) (by decide)
  have h1 : exec (.registerWrite (.virtual c) 0x402100 v) s = .next (s.writeFunctionReg c 0x402100 v) :=
    registerWrite_function s c v (by decide) (by decide)
  have h2 : exec (.registerWrite (.virtual c) 0x401010 v) s = .next (s.writeFunctionReg c 0x401010 v) :=
    registerWrite_function s c v (by decide) (by decide)
  have h3 : exec (.registerWrite (.virtual c) 0x408000 v) s = .next (s.writeFunctionReg c 0x408000 v) :=
    registerWrite_function s c v (by decide) (by decide)
  rw [h0, h1, h2, h3]
  refine ⟨?_, ?_, ?_, ?_⟩ <;> simp only [State.writeFunctionReg]
  · exact next_stateAfter s rfl
  · exact next_stateAfter s rfl
  · rfl
  · rfl

theorem mailbox_busy {s : State} (v : W64) (h : s.manage.cmd.isSome = true) : s.mailbox v = s := if_pos h

theorem mailbox_command {s : State} {v : W64} (h : s.manage.cmd = none) (h1 : 1 ≤ fld v.toNat 0 4) (h3 : fld v.toNat 0 4 ≤ 3) :
    (s.mailbox v).manage.cmd = some (BitVec.ofNat 4 (fld v.toNat 0 4)) := by
  have ho : v.extractLsb' 0 4 = BitVec.ofNat 4 (fld v.toNat 0 4) := by
    apply BitVec.eq_of_toNat_eq
    simp [fld]
  have hn : (BitVec.ofNat 4 (fld v.toNat 0 4)).toNat = fld v.toNat 0 4 := by
    rw [BitVec.toNat_ofNat]
    omega
  simp [State.mailbox, h, ho, hn, h1, h3]

theorem registerWrite_mailbox (s : State) (v : W64) :
    exec (.registerWrite .physical 0x408000 v) s = .next (s.mailbox v) := registerWrite_device s v (by decide)

theorem registerWrite_mailbox_arg (s : State) (v : W64) :
    exec (.registerWrite .physical 0x408008 v) s = .next { s with manage := { s.manage with arg0 := v } } := registerWrite_device s v (by decide)

/-! ## Reads (R10, R11, R254) -/

theorem hostRead_queuePage (s : State) (f : HostFn) (q : BitVec 10) {k : BitVec 24} (hk : k.toNat < 4096) :
    s.hostRead f (pageOf q + k) = s.readQueuePage f q k.toNat := by
  exact (if_pos (page_low q hk)).trans (by rw [page_number q hk, page_offset q hk])

theorem readQueuePage_unreachable {s : State} {f : HostFn} {q : BitVec 10} (h : (s.queue q).reachable f = false) (k : Nat) :
    s.readQueuePage f q k = 0 :=
  if_pos (by simp [h])

theorem hostRead_page (s : State) (q : BitVec 10) (f : HostFn) :
    let page : BitVec 24 := BitVec.ofNat 24 (q.toNat * 4096)
    (s.hostRead f page = 0 ∧ s.hostRead f (page + 0x20) = 0) ∧
    ((s.queue q).reachable f = true → s.hostRead f (page + 0x18) = BitVec.ofNat 64 (s.queue q).status) ∧
    ((s.queue q).reachable f = false → ∀ off : BitVec 12, s.hostRead f (page + off.setWidth 24) = 0) ∧
    s.hostRead .physical (page + 0x28) = (s.queue q).ctxsel.setWidth 64 := by
  intro page
  have h0 : s.hostRead f page = s.readQueuePage f q 0 := by
    have e := hostRead_queuePage s f q (k := 0#24) (by decide)
    rwa [BitVec.add_zero] at e
  refine ⟨⟨?_, ?_⟩, fun hr => ?_, fun hr off => ?_, ?_⟩
  · rw [h0]
    simp [State.readQueuePage]
  · refine (hostRead_queuePage s f q (k := 0x20#24) (by decide)).trans ?_
    simp [State.readQueuePage]
  · refine (hostRead_queuePage s f q (k := 0x18#24) (by decide)).trans ?_
    simp [State.readQueuePage, hr, w64]
  · have hk : (off.setWidth 24).toNat < 4096 := by
      have ho := off.isLt
      rw [BitVec.toNat_setWidth]
      omega
    exact (hostRead_queuePage s f q hk).trans (readQueuePage_unreachable hr _)
  · exact (hostRead_queuePage s .physical q (k := 0x28#24) (by decide)).trans rfl

/-- The lowest bit of a word of fields is its first field, one bit wide. -/
theorem getLsbD_packFields_first (b : Bool) (rest : List (Nat × Nat)) : (w64 (packFields ((1, b.toNat) :: rest))).getLsbD 0 = b := by
  rw [w64, BitVec.getLsbD_ofNat, Nat.testBit_zero, packFields]
  cases b <;> simp

/-- PAGESTAT's ERR. -/
theorem fld_pageStat (b : Bool) (e : BitVec 8) (d : BitVec 32) :
    fld (w64 (packFields [(1, b.toNat), (7, 0), (8, e.toNat), (16, 0), (32, d.toNat)])).toNat 8 8 = e.toNat := by
  have he := e.isLt
  have hb := Bool.toNat_le b
  simp only [w64, packFields, fld, BitVec.toNat_ofNat]
  omega

/-- The mailbox's status. -/
theorem fld_mailStat (e : BitVec 8) (b : Bool) : fld (w64 (packFields [(8, e.toNat), (1, b.toNat)])).toNat 0 8 = e.toNat := by
  have he := e.isLt
  simp only [w64, packFields, fld, BitVec.toNat_ofNat]
  omega

theorem getLsbD_mailStat (e : BitVec 8) (b : Bool) : (w64 (packFields [(8, e.toNat), (1, b.toNat)])).getLsbD 8 = b := by
  have he := e.isLt
  have hv : packFields [(8, e.toNat), (1, b.toNat)] = e.toNat + 256 * b.toNat := by
    have hb := Bool.toNat_le b
    simp only [packFields]
    omega
  rw [hv, w64, BitVec.getLsbD_ofNat, Nat.testBit_eq_decide_div_mod_eq]
  cases b <;> simp <;> omega

theorem hostRead_registers (s : State) (c : BitVec 6) :
    s.hostRead .physical 0x401000 = s.page.arg0 ∧ s.hostRead .physical 0x401008 = s.page.arg1 ∧ s.hostRead .physical 0x401010 = 0 ∧
    (s.hostRead .physical 0x401018).getLsbD 0 = s.page.run.isSome ∧ fld (s.hostRead .physical 0x401018).toNat 8 8 = s.page.err.toNat ∧
    s.hostRead (.virtual c) 0x401018 = 0 ∧ s.hostRead (.virtual c) 0x408018 = 0 ∧
    s.hostRead (.virtual c) 0x400018 = (s.ctx c).fqrp ∧ s.hostRead (.virtual c) 0x400020 = (s.ctx c).fqwp ∧
    fld (s.hostRead .physical 0x408018).toNat 0 8 = s.manage.err.toNat ∧ (s.hostRead .physical 0x408018).getLsbD 8 = s.manage.cmd.isSome := by
  refine ⟨rfl, rfl, rfl, ?_, ?_, rfl, rfl, rfl, rfl, ?_, ?_⟩
  · exact getLsbD_packFields_first _ _
  · exact fld_pageStat _ _ _
  · exact fld_mailStat _ _
  · exact getLsbD_mailStat _ _

theorem hostLoad_virtual {s s1 : State} {c : BitVec 6} {addr : W64} {n v : Nat} {p : Phys} (ht : s.translate c addr .read false = .ok p)
    (hr : s.canReach hubDie p n addr = .ok () ()) (ho : s.homeOp c p.pkg p.die p.pa.toNat (.read n) = .ok (s1, v)) :
    s.hostLoad (.virtual c) addr n = some (toBytes n v) := by
  simp [State.hostLoad, ht, hr, ho]

/-! ## The obligation -/

theorem hostWrite_behind {s : State} {f : HostFn} (addr : W64) (data : List Byte) (h : s.behind f = true) :
    exec (.hostWrite f addr data) s = .next { s with posted := s.posted ++ [.memory f addr data] } :=
  congrArg Host.Outcome.next (hostPost_behind (w := .memory f addr data) h)

theorem hostWrite_now {s s1 : State} {f : HostFn} {addr : W64} {data : List Byte} (h : s.behind f = false)
    (e : s.hostStore f addr data = some s1) : exec (.hostWrite f addr data) s = .next s1 :=
  congrArg Host.Outcome.next (hostPost_now (w := .memory f addr data) h e)

theorem hostWrite_held {s : State} {f : HostFn} {addr : W64} {data : List Byte} (h : s.behind f = false)
    (e : s.hostStore f addr data = none) :
    exec (.hostWrite f addr data) s = .next { s with posted := s.posted ++ [.memory f addr data] } :=
  congrArg Host.Outcome.next (hostPost_held (w := .memory f addr data) h e)

theorem payPosted_now {s s1 : State} {w : HostPost} (h : s.posted = [w]) (e : ({ s with posted := [] } : State).hostPostNow w = some s1) :
    s.payPosted = s1 := by
  rw [payPosted_single h, hostPost_now (behind_of_posted_nil _ _ rfl) e]

theorem payPosted_held {s : State} {w : HostPost} (h : s.posted = [w]) (e : ({ s with posted := [] } : State).hostPostNow w = none) :
    s.payPosted = s := by
  rw [payPosted_single h, hostPost_held (behind_of_posted_nil _ _ rfl) e]
  simp [← h]

/-- Settles O52: posted order, the lines of a write, the steps of the registers, and the reads, each by its own lemmas above. -/
theorem hostAccessesAct : Obligations.HostAccessesAct := by
  refine ⟨fun s f addr data => ⟨hostWrite_behind addr data, fun h => ⟨fun _ => hostWrite_now h, hostWrite_held h⟩⟩, behind_iff,
    fun s f addr data hd => ⟨hostStore_line s f hd, hostStore_lines s f hd⟩, fun s f addr data p => ?_,
    fun s w h => ⟨fun _ => payPosted_now h, payPosted_held h⟩, fun s f off v => registerWrite_page_behind s f v, fun s q v => ?_, hostRead_page,
    hostRead_registers, fun s c addr n p ht hr _ _ => hostLoad_virtual ht hr, registerWrite_command, registerWrite_virtual, fun s v => ?_⟩
  · refine ⟨hostPart_nowhere data, hostPart_barrier data, fun h hp => ⟨hostPart_held h hp, fun _ _ => hostPart_unreached h hp, fun hr => ?_⟩⟩
    exact ⟨fun _ _ => hostPart_written h hp hr, hostPart_home_held h hp hr, fun _ _ => hostPart_unshadowed h hp hr⟩
  · refine ⟨fun f hb => registerWrite_notify hb q v, fun hb => registerWrite_control_op hb q v, fun c hb => ?_⟩
    exact (registerWrite_control hb q v).trans (congrArg Host.Outcome.next (writeQueuePage_control_virtual s c q v))
  · refine ⟨fun h => ?_, fun h h1 h3 => ⟨_, registerWrite_mailbox s v, mailbox_command h h1 h3⟩, registerWrite_mailbox_arg s v⟩
    rw [registerWrite_mailbox, mailbox_busy v h]

end Sys2Proof.HostAccess

/-!
PROOFS of the family 01_device.md: the frames of the vector forms (O23) and of the access forms (O32).
-/
namespace Sys2Proof.Frames
open Sys2Proof Sys2Proof.Machine

/-! ## What an instruction keeps -/

/-- A change of the machine that leaves the turn, the other tiles, the contexts and the queues alone, and of this tile and of the homes' store
all that `π` and `μ` read. -/
structure Keeps (π : Tile → α) (μ : Store → β) (s s' : State) : Prop where
  here : s'.here = s.here
  other : ∀ n, n ≠ s.here → s'.tile n = s.tile n
  cur : π s'.cur = π s.cur
  store : μ s'.store = μ s.store
  ctxs : s'.ctxs = s.ctxs
  queues : s'.queues = s.queues

/-- What an issue comes to: its effect, if there is one, meets `P`, and what is begun for a held instruction keeps what `π` and `μ` read. -/
def ResKeeps (π : Tile → α) (μ : Store → β) (P : γ → Prop) : Res γ → Prop
  | .done a => P a
  | .stay g => ∀ s, Keeps π μ s (g s)
  | _ => True

/-- The next state, if there is one, keeps what `π` and `μ` read. -/
def OutKeeps (π : Tile → α) (μ : Store → β) (s : State) (o : Out) : Prop := ∀ s', o = .next s' → Keeps π μ s s'

/-- `π` reads none of what strand `k` has in common with the other strands: its queue and counts, the results that are due, and its faults. -/
structure Foreign (k : Strand) (π : Tile → α) : Prop where
  notControl : k ≠ .control
  tick : ∀ t, π (t.tick k) = π t
  modStr : ∀ t f, π (t.modStr k f) = π t
  tlb : ∀ (t : Tile) l, π { t with tlb := l } = π t
  fpend : ∀ (t : Tile) v, π { t with sys := { t.sys with fpend := v } } = π t

section
variable {π : Tile → α} {μ : Store → β} {s s1 s2 : State} {k : Strand}

theorem Keeps.refl : Keeps π μ s s := ⟨rfl, fun _ _ => rfl, rfl, rfl, rfl, rfl⟩

theorem Keeps.trans (h : Keeps π μ s s1) (g : Keeps π μ s1 s2) : Keeps π μ s s2 where
  here := g.here.trans h.here
  other n hn := (g.other n (h.here ▸ hn)).trans (h.other n hn)
  cur := g.cur.trans h.cur
  store := g.store.trans h.store
  ctxs := g.ctxs.trans h.ctxs
  queues := g.queues.trans h.queues

/-- What keeps all that `π` and `μ` read keeps what is made of it. -/
theorem Keeps.weaken {π' : Tile → γ} {μ' : Store → δ} (h : Keeps π μ s s1) (f : α → γ) (g : β → δ) (hf : ∀ t, π' t = f (π t))
    (hg : ∀ x, μ' x = g (μ x)) : Keeps π' μ' s s1 where
  here := h.here
  other := h.other
  cur := by rw [hf, hf, h.cur]
  store := by rw [hg, hg, h.store]
  ctxs := h.ctxs
  queues := h.queues

theorem Keeps.setTile {x : Tile} (h : π x = π s.cur) : Keeps π μ s (s.setTile s.here x) where
  here := rfl
  other n hn := s.tile_setTile_other x hn
  cur := by rw [s.cur_setTile_here, h]
  store := rfl
  ctxs := rfl
  queues := rfl

theorem Keeps.modTile {f : Tile → Tile} (h : ∀ t, π (f t) = π t) : Keeps π μ s (s.modTile s.here f) := Keeps.setTile (h s.cur)

/-- Drawing free values changes nothing that a frame names. -/
theorem Keeps.draw (h : Keeps π μ s s1) (n : Nat) : Keeps π μ s { s1 with drawn := n } :=
  ⟨h.here, h.other, h.cur, h.store, h.ctxs, h.queues⟩

theorem OutKeeps.next (h : Keeps π μ s s1) : OutKeeps π μ s (.next s1) := by
  rintro _ ⟨⟩
  exact h

theorem ResKeeps.bind {P : γ → Prop} {Q : δ → Prop} {r : Res γ} {f : γ → Res δ} (h : ResKeeps π μ P r)
    (hf : ∀ a, P a → ResKeeps π μ Q (f a)) : ResKeeps π μ Q (r.bind f) := by
  cases r with
  | done a => exact hf a h
  | hold => trivial
  | stay g => exact h
  | trap x => trivial

theorem ResKeeps.map {P : γ → Prop} {Q : δ → Prop} {r : Res γ} {f : γ → δ} (h : ResKeeps π μ P r) (hf : ∀ a, P a → Q (f a)) :
    ResKeeps π μ Q (r.map f) := by
  cases r with
  | done a => exact hf a h
  | hold => trivial
  | stay g => exact h
  | trap x => trivial

/-! ## Issue -/

theorem Foreign.setQueue (h : Foreign k π) (t : Tile) (q : List QEntry) : π (t.setQueue k q) = π t := by
  have hk : (k == .control && t.isSup) = false := by simp [h.notControl]
  rw [Tile.setQueue, if_neg (by simp [hk])]
  exact h.modStr t _

theorem Foreign.retire (h : Foreign k π) (t : Tile) : π (t.retire k) = π t := by
  rw [Tile.retire, Tile.countUp, h.modStr, h.setQueue]

theorem Foreign.faultAt (h : Foreign k π) (t : Tile) (f : Trap) (pc : W64) : π (t.faultAt k f pc) = π t := by
  have hd : ∀ g, π (t.dropErrors.modStr k g) = π t := fun g => (h.modStr _ g).trans (h.tlb t _)
  rw [Tile.faultAt]
  split
  · exact (h.fpend _ _).trans (hd _)
  · exact hd _

theorem Foreign.fault (h : Foreign k π) (f : Trap) : Keeps π μ s (s.fault s.here k f) := by
  have hk : (k == Strand.control) = false := by simp [h.notControl]
  rw [State.fault, hk]
  exact Keeps.setTile (h.faultAt _ f _)

/-- An instruction whose effect meets `P` has it and retires, or it keeps what `π` and `μ` read. -/
theorem Foreign.issue_cases {P : State → Prop} {f : State → Res State} (h : Foreign k π)
    (hf : ResKeeps π μ P (f (s.modTile s.here (·.tick k)))) :
    (∃ s2, P s2 ∧ s.issue k f = s2.modTile s.here (·.retire k)) ∨ Keeps π μ s (s.issue k f) := by
  unfold State.issue
  dsimp only
  split
  next s2 e =>
    rw [e] at hf
    exact .inl ⟨s2, hf, rfl⟩
  next => exact .inr .refl
  next g e =>
    rw [e] at hf
    exact .inr (hf s)
  next f e => exact .inr (h.fault f)

theorem Foreign.issue {f : State → Res State} (h : Foreign k π) (hf : ∀ s, ResKeeps π μ (Keeps π μ s) (f s)) : Keeps π μ s (s.issue k f) := by
  obtain ⟨s2, h2, e⟩ | h2 := h.issue_cases (hf (s.modTile s.here (·.tick k)))
  · have h3 : Keeps π μ s s2 := (Keeps.modTile h.tick).trans h2
    rw [e, ← h3.here]
    exact h3.trans (.modTile h.retire)
  · exact h2

theorem Foreign.issueT {f : Tile → Res Tile} (h : Foreign k π) (hf : ∀ t, ResKeeps π μ (fun x => π x = π t) (f t)) :
    Keeps π μ s (s.issueT k f) :=
  h.issue fun s => (hf s.cur).map fun _ e => .setTile e

end

/-! ## The strands beside those whose instruction issues -/

/-- The common state and the FPSR of the strands beside `own`. -/
def others (own : List Strand) (t : Tile) (k : Strand) (_ : k ∉ own) : StrandState × BitVec 8 := (t.str k, t.fpsr k)

theorem ofPos_pos (k : Strand) : Strand.ofPos k.pos = some k := by
  cases k <;> rfl

theorem pos_ne {j k : Strand} (h : j ≠ k) : k.pos ≠ j.pos := fun e =>
  h (Option.some.inj (by rw [← ofPos_pos j, ← e, ofPos_pos k]))

theorem str_modStr_other (t : Tile) {j k : Strand} (h : j ≠ k) (f : StrandState → StrandState) : (t.modStr k f).str j = t.str j := by
  simp [Tile.str, Tile.modStr, Vector.getElem_set_ne _ _ (pos_ne h)]

theorem fpsr_setFpsr_other (t : Tile) {j k : Strand} (h : j ≠ k) (v : BitVec 8) : (t.setFpsr k v).fpsr j = t.fpsr j := by
  simp [Tile.fpsr, Tile.setFpsr, Vector.getElem_set_ne _ _ (pos_ne h)]

theorem others_modStr {own : List Strand} {k : Strand} (hk : k ∈ own) (t : Tile) (f : StrandState → StrandState) :
    others own (t.modStr k f) = others own t := by
  funext j hj
  exact congrArg (·, t.fpsr j) (str_modStr_other t (ne_of_mem_of_not_mem hk hj).symm f)

theorem others_setFpsr {own : List Strand} {k : Strand} (hk : k ∈ own) (t : Tile) (v : BitVec 8) :
    others own (t.setFpsr k v) = others own t := by
  funext j hj
  exact congrArg (t.str j, ·) (fpsr_setFpsr_other t (ne_of_mem_of_not_mem hk hj).symm v)

/-! ## The vector strand -/

/-- What the frame of the vector forms names of a tile. -/
def vectorRest (t : Tile) :=
  (t.spad, t.ctl, t.ld, t.st, t.mx, t.xf, t.tx, t.rx, t.phase, others [.vector] t)

/-- A vector instruction changes nothing that its frame names. -/
abbrev VectorKeeps : State → State → Prop := Keeps vectorRest Store.mem

/-- The effect of a vector instruction on its tile changes nothing that its frame names. -/
abbrev VectorRes (t : Tile) : Res Tile → Prop := ResKeeps vectorRest Store.mem fun x => vectorRest x = vectorRest t

/-- A vector form changes nothing that its frame names. -/
abbrev VectorOut : State → Out → Prop := OutKeeps vectorRest Store.mem

/-! ### Results -/

@[simp] theorem vectorRest_modStr (t : Tile) (f : StrandState → StrandState) : vectorRest (t.modStr .vector f) = vectorRest t := by
  simp [vectorRest, others_modStr]

@[simp] theorem vectorRest_setFpsr (t : Tile) (v : BitVec 8) : vectorRest (t.setFpsr .vector v) = vectorRest t := by
  simp [vectorRest, others_setFpsr]

@[simp] theorem vectorRest_raiseFlags (t : Tile) (f : Num.Flags) : vectorRest (t.raiseFlags .vector f) = vectorRest t :=
  vectorRest_setFpsr t _

/-- The vector strand's state, the FIFOs, the sync objects and the register space are its own to write. -/
theorem vectorRest_own (t : Tile) (v : VectorState) (q : Fifos) (y : Sync) (m : Memory) :
    vectorRest { t with vec := v, fifo := q, sync := y, rsp := m } = vectorRest t := rfl

@[simp] theorem vectorRest_rsp (t : Tile) (m : Memory) : vectorRest { t with rsp := m } = vectorRest t := rfl

@[simp] theorem vectorRest_vec (t : Tile) (v : VectorState) : vectorRest { t with vec := v } = vectorRest t := rfl

theorem vectorRest_sliceAct (t : Tile) (x : Nat) (a : VAct) : vectorRest (t.sliceAct x a) = vectorRest t := by
  cases a with
  | row r en v => exact vectorRest_rsp t _
  | tap r l n v => exact vectorRest_rsp t _
  | bcast i v => exact vectorRest_vec t _
  | _ => rfl

theorem vectorRest_begin (t : Tile) (a : VAct) : vectorRest (t.begin a) = vectorRest t :=
  (vectorRest_vec _ _).trans (vectorRest_sliceAct t 0 a)

theorem vectorRest_vact (t : Tile) (a : VAct) : vectorRest (t.vact a) = vectorRest t := by
  cases a with
  | row r en v => exact (vectorRest_vec _ _).trans (vectorRest_begin t _)
  | tap r l n v => exact (vectorRest_vec _ _).trans (vectorRest_begin t _)
  | mask i en v =>
    rw [Tile.vact]
    split
    · rfl
    · exact (vectorRest_vec _ _).trans (vectorRest_begin t _)
  | bcast i v => exact vectorRest_begin t _
  | flags f => exact vectorRest_raiseFlags t f
  | pushO i tag v => rfl
  | pushX i tag v => rfl
  | pushE i tag v => rfl
  | sem i c => rfl

theorem vectorRest_landVec (t : Tile) (l : List VRec) : vectorRest (t.landVec l) = vectorRest t := by
  induction l generalizing t with
  | nil => rfl
  | cons r rest ih =>
    rw [Tile.landVec]
    split
    · exact ih t
    · split
      · exact (ih _).trans (vectorRest_vact t _)
      · exact (vectorRest_vec _ _).trans (ih t)

theorem vectorRest_passLate (t : Tile) (l : List Late) : vectorRest (t.passLate l) = vectorRest t := by
  induction l generalizing t with
  | nil => rfl
  | cons x rest ih =>
    rw [Tile.passLate, ih]
    split
    · exact (vectorRest_vec _ _).trans (vectorRest_sliceAct t _ _)
    · exact vectorRest_sliceAct t _ _

theorem vectorRest_tickVector (t : Tile) : vectorRest t.tickVector = vectorRest t := by
  rw [Tile.tickVector, vectorRest_landVec, vectorRest_passLate, vectorRest_vec]

theorem foreign_vectorRest : Foreign .vector vectorRest where
  notControl := by decide
  tick := vectorRest_tickVector
  modStr := vectorRest_modStr
  tlb _ _ := rfl
  fpend _ _ := rfl

/-! ### Operands and deliveries -/

section
variable {α β : Type} {π : Tile → α} {μ : Store → β} {t : Tile} {win : Bool}

/-- Reading operands begins nothing. -/
theorem resKeeps_vread {iota : Vec} {bc : W64 → Vec} {n : Nat} {c : BitVec 6} :
    ResKeeps π μ (fun _ => True) (t.vread win iota bc n c) := by
  unfold Tile.vread
  dsimp only
  split
  · split <;> trivial
  · split
    · split
      · trivial
      · split <;> trivial
    · split
      · trivial
      · split <;> trivial

theorem resKeeps_vcheck {a d : List (BitVec 6)} : ResKeeps π μ (fun _ => True) (t.vcheck win a d) := by
  unfold Tile.vcheck
  split
  · trivial
  · split <;> trivial

theorem resKeeps_vroom {d : BitVec 6} : ResKeeps π μ (fun _ => True) (t.vroom d) := by
  unfold Tile.vroom
  dsimp only
  split
  · trivial
  · split <;> split <;> trivial

theorem resKeeps_vreadIx {iota : Vec} {c : BitVec 6} : ResKeeps π μ (fun _ => True) (t.vreadIx win iota c) := by
  unfold Tile.vreadIx
  split
  · split <;> trivial
  · split
    · trivial
    · exact resKeeps_vread

theorem resKeeps_vreadA {iota : Vec} {bc : W64 → Vec} {c : BitVec 6} : ResKeeps π μ (fun _ => True) (t.vreadA win iota bc c) := by
  unfold Tile.vreadA
  split
  · refine resKeeps_vreadIx.bind fun v _ => ?_
    split <;> trivial
  · exact resKeeps_vread

theorem resKeeps_codeSource {a : BitVec 6} {n : Nat} : ResKeeps π μ (fun _ => True) (t.codeSource win a n) := by
  unfold Tile.codeSource
  split
  · exact resKeeps_vreadIx.map fun _ _ => trivial
  · induction List.range n with
    | nil => trivial
    | cons i l ih => exact resKeeps_vread.bind fun _ _ => ih.map fun _ _ => trivial

theorem resKeeps_popJ {c : BitVec 1} : ResKeeps π μ (fun r => vectorRest r.2 = vectorRest t) (t.popJ c) := by
  unfold Tile.popJ
  split
  · trivial
  · rfl

end

@[simp] theorem vectorRest_vpop (t : Tile) (c : BitVec 6) : vectorRest (t.vpop c) = vectorRest t := by
  unfold Tile.vpop
  dsimp only
  split <;> rfl

@[simp] theorem vectorRest_vpopN (t : Tile) (c : BitVec 6) (n : Nat) : vectorRest (t.vpopN c n) = vectorRest t := by
  induction n generalizing t with
  | zero => rfl
  | succ n ih => rw [Tile.vpopN, ih, vectorRest_vpop]

@[simp] theorem vectorRest_vdeliver (t : Tile) (win : Bool) (d : BitVec 6) (lat : Nat) (en : BitVec 128) (v : Vec) (fl : Num.Flags) :
    vectorRest (t.vdeliver win d lat en v fl) = vectorRest t := by
  unfold Tile.vdeliver
  dsimp only
  split
  · split
    · split <;> rfl
    · split <;> rfl
  · split
    · split <;> rfl
    · split <;> rfl

/-- A rotation delivers to the slices in parts, each of a latency of its own (R153). -/
theorem vectorRest_deliveries (t : Tile) (win : Bool) (d : BitVec 6) (en : Nat → BitVec 128) (v : Vec) (lats : List Nat) :
    vectorRest (lats.foldl (fun t l => t.vdeliver win d l (en l) v 0) t) = vectorRest t := by
  induction lats generalizing t with
  | nil => rfl
  | cons l rest ih => exact (ih _).trans (vectorRest_vdeliver t _ _ _ _ _ _)

@[simp] theorem vectorRest_tapTo (t : Tile) (win : Bool) (v : BitVec 6) (l : BitVec 4) (x : Vec) :
    vectorRest (t.tapTo win v l x) = vectorRest t := by
  unfold Tile.tapTo
  split <;> rfl

@[simp] theorem vectorRest_takeLane (t : Tile) (l : BitVec 4) : vectorRest (t.takeLane l) = vectorRest t := rfl

@[simp] theorem vectorRest_pushAfter (t : Tile) (i : BitVec 1) (n : Nat) (v : W64) : vectorRest (t.pushAfter i n v) = vectorRest t := by
  unfold Tile.pushAfter
  dsimp only
  split
  · exact vectorRest_vact _ _
  · rfl

@[simp] theorem vectorRest_setMode (t : Tile) (x : BitVec 11) : vectorRest (t.setMode x) = vectorRest t :=
  vectorRest_setFpsr _ _

/-! ### The forms -/

section
variable {s : State} {d a b v : BitVec 6} {m : BitVec 3} {ty : BitVec 2}

theorem issueV_keeps {f : Bool → Tile → Res Tile} {n : Nat} (hf : ∀ win t, VectorRes t (f win t)) : VectorKeeps s (s.issueV f n) :=
  foreign_vectorRest.issue fun s => (hf _ s.cur).map fun x hx => (Keeps.setTile ((vectorRest_vec x _).trans hx)).draw _

/-- A form whose effect on the tile is in its frame. -/
theorem vector_out {f : Bool → Tile → Res Tile} {n : Nat} (hf : ∀ win t, VectorRes t (f win t)) :
    VectorOut s (.next (s.issueV f n)) :=
  .next (issueV_keeps hf)

/-- The shape of most forms (R134-R139): operands are read and popped, and a result is delivered. -/
theorem vform_keeps {cbx two : Bool} {iota : Vec} {bc : W64 → Vec} {lat : Nat} {en : Tile → BitVec 128}
    {g : Tile → Vec → Vec → Vec → Vec × Num.Flags} : VectorOut s (vform cbx iota bc lat d a b two en g s) := by
  refine vector_out fun win t => resKeeps_vcheck.bind fun _ _ => resKeeps_vroom.bind fun _ _ => ?_
  refine ResKeeps.bind (P := fun _ => True) ?_ fun _ _ => ResKeeps.bind (P := fun _ => True) ?_ fun _ _ => ?_
  · split
    · exact resKeeps_vread
    · trivial
  · split
    · exact resKeeps_vreadA
    · exact resKeeps_vread
  · cases two <;> simp [ResKeeps]

theorem varith_keeps {two : Bool} {fp : Num.Rm → Num.Val → Num.Val → Num.Val × Num.Flags} {int : W32 → W32 → W32} :
    VectorOut s (varith two fp int d a b m ty s) := by
  unfold varith
  exact vform_keeps

theorem vfused_keeps {fp : Num.Rm → Num.Val → Num.Val → Num.Val → Num.Val × Num.Flags} {int : W32 → W32 → W32 → W32} :
    VectorOut s (vfused fp int d a b m ty s) := by
  unfold vfused
  exact vform_keeps

theorem vbits_keeps {two : Bool} {f : Vec → Vec → Vec} : VectorOut s (vbits two f d a b m ty s) := by
  unfold vbits
  exact vform_keeps

theorem vshift_keeps {f : (w : Nat) → BitVec w → Nat → BitVec w} : VectorOut s (vshift f d a b m ty s) := by
  unfold vshift
  exact vform_keeps

theorem vfunc_keeps {lat : Ty → Nat} {g : Num.Fmt → Num.Rm → Num.Val → Nat × Num.Flags} :
    VectorOut s (vfunc lat g d a m ty s) := by
  unfold vfunc
  exact vform_keeps

theorem vreduce_keeps {el : Tile → Ty → Nat → Nat} {ident : Ty → Nat} {op : Tile → Ty → Nat → Nat → Nat × Num.Flags} :
    VectorOut s (vreduce el ident op d a m ty s) := by
  unfold vreduce
  exact vform_keeps

theorem execVmov_keeps : VectorOut s (execVmov d a m ty s) := by
  unfold execVmov
  exact vform_keeps

theorem execVsel_keeps : VectorOut s (execVsel d a b m ty s) := by
  unfold execVsel
  exact vform_keeps

theorem execVcvt_keeps {f t : BitVec 5} {r : BitVec 2} {sat scl : BitVec 1} :
    VectorOut s (execVcvt d a f t r sat scl s) := by
  unfold execVcvt
  exact vform_keeps

theorem execVcmp_keeps {c : BitVec 2} {md k : BitVec 3} :
    VectorOut s (execVcmp md c a b m ty k s) :=
  vector_out fun _ t => resKeeps_vcheck.bind fun _ _ => resKeeps_vread.bind fun _ _ => resKeeps_vread.bind fun _ _ => by
    simp [ResKeeps]

theorem vbsc_keeps {n : Nat} {g : Nat → Nat → Nat} : VectorOut s (vbsc n g a s) :=
  vector_out fun _ _ => resKeeps_vcheck.bind fun _ _ => resKeeps_vread.bind fun _ _ => by
    simp [ResKeeps]

theorem execVtapw_keeps {l : BitVec 4} : VectorOut s (execVtapw v l s) :=
  vector_out fun _ _ => resKeeps_vcheck.bind fun _ _ => resKeeps_vread.bind fun _ _ => vectorRest_vec _ _

theorem execVtapr_keeps {l : BitVec 4} : VectorOut s (execVtapr v l s) :=
  vector_out fun _ _ => resKeeps_vcheck.bind fun _ _ => vectorRest_tapTo _ _ _ _ _

theorem execVrot_keeps {r : BitVec 1} {k : BitVec 4} :
    VectorOut s (execVrot d a m r k s) := by
  refine vector_out fun win t => resKeeps_vcheck.bind fun _ _ => resKeeps_vroom.bind fun _ _ => resKeeps_vread.bind fun _ _ => ?_
  dsimp only
  split
  · exact (vectorRest_deliveries _ _ _ _ _ _).trans (by simp)
  · exact (vectorRest_vdeliver _ _ _ _ _ _ _).trans (by simp)

theorem execVins_keeps {c : BitVec 1} {e : BitVec 7} {a : BitVec 1} : VectorOut s (execVins v c e a s) :=
  vector_out fun _ _ => resKeeps_vcheck.bind fun _ _ => resKeeps_popJ.bind fun _ h => (vectorRest_vdeliver _ _ _ _ _ _ _).trans h

theorem execVinsB_keeps {c : BitVec 1} {b : BitVec 2} : VectorOut s (execVinsB c b s) :=
  vector_out fun _ _ => resKeeps_popJ.bind fun _ h => (vectorRest_vec _ _).trans h

theorem execVext_keeps {c : BitVec 1} {e : BitVec 7} : VectorOut s (execVext v c e s) := by
  refine vector_out fun _ _ => resKeeps_vcheck.bind fun _ _ => resKeeps_vread.bind fun _ _ => ?_
  split
  · trivial
  · exact vectorRest_pushAfter _ _ _ _

theorem execVacr_keeps {c : BitVec 1} {r : BitVec 7} : VectorOut s (execVacr v c r s) := by
  refine vector_out fun _ _ => ?_
  split
  · trivial
  · exact resKeeps_vcheck.bind fun _ _ => vectorRest_vdeliver _ _ _ _ _ _ _

theorem execVacw_keeps {c : BitVec 1} {r : BitVec 7} : VectorOut s (execVacw v c r s) := by
  refine vector_out fun _ _ => ?_
  split
  · trivial
  · exact resKeeps_vcheck.bind fun _ _ => resKeeps_vread.bind fun _ _ => vectorRest_vact _ _

theorem execVview_keeps {x : List W32} : VectorOut s (execVview d x s) :=
  vector_out fun _ _ => vectorRest_vec _ _

theorem execVmode_keeps {w b : BitVec 2} {c f : BitVec 1} {r : BitVec 2} : VectorOut s (execVmode w b c f r s) :=
  vector_out fun _ _ => vectorRest_setMode _ _

theorem mop_keeps {f : BitVec 128 → BitVec 128 → BitVec 128} {d a b : BitVec 3} : VectorOut s (mop f d a b s) :=
  vector_out fun _ _ => vectorRest_vec _ _

theorem execMpopc_keeps {a : BitVec 3} : VectorOut s (execMpopc a s) := by
  refine vector_out fun _ _ => ?_
  split
  · trivial
  · exact vectorRest_pushAfter _ _ _ _

theorem execCbld_keeps {k : BitVec 2} {n : BitVec 8} : VectorOut s (execCbld d a k n s) := by
  refine vector_out fun _ _ => resKeeps_vcheck.bind fun _ _ => resKeeps_codeSource.bind fun _ _ => ?_
  dsimp only
  split
  · trivial
  · exact (vectorRest_own _ _ _ _ _).trans (vectorRest_vpopN _ _ _)

theorem execCbswap_keeps {k : BitVec 2} : VectorOut s (execCbswap k s) :=
  vector_out fun _ _ => vectorRest_own _ _ _ _ _

theorem execVcbx_keeps {k w : BitVec 2} {g : BitVec 8} : VectorOut s (execVcbx d a k w g s) := by
  refine vector_out fun _ _ => resKeeps_vcheck.bind fun _ _ => resKeeps_vroom.bind fun _ _ => resKeeps_vreadIx.bind fun _ _ => ?_
  split
  · trivial
  · exact (vectorRest_vdeliver _ _ _ _ _ _ _).trans (vectorRest_vpop _ _)

/-- Every vector form keeps to its frame. -/
theorem exec_vector_keeps {i : Instr} (hi : Claims.isVector i = true) : VectorOut s (exec i s) := by
  unfold exec
  cases i with
  | vadd | vsub | vmul | vmin | vmax | vabs | vneg => exact varith_keeps
  | vfma | vfms | vfnma => exact vfused_keeps
  | vand | vor | vxor | vandn | vnot => exact vbits_keeps
  | vshl | vshr | vsra => exact vshift_keeps
  | vrcp | vrsq | vexp2 | vlog2 | vsinp | vcosp | vtanh | vsqrt => exact vfunc_keeps
  | vsum | vrmax | vrmin | vramax => exact vreduce_keeps
  | vdot2 | vshuf | vbamax => exact vform_keeps
  | vmov => exact execVmov_keeps
  | vsel => exact execVsel_keeps
  | vcvt => exact execVcvt_keeps
  | vcmp => exact execVcmp_keeps
  | vbscMx | vbscSb8 | vbscSb4 => exact vbsc_keeps
  | vrot => exact execVrot_keeps
  | vtapw => exact execVtapw_keeps
  | vtapr => exact execVtapr_keeps
  | vins => exact execVins_keeps
  | vinsB => exact execVinsB_keeps
  | vext => exact execVext_keeps
  | vacr => exact execVacr_keeps
  | vacw => exact execVacw_keeps
  | cbld => exact execCbld_keeps
  | cbswap => exact execCbswap_keeps
  | vcbx => exact execVcbx_keeps
  | vmode => exact execVmode_keeps
  | vview => exact execVview_keeps
  | mand | mor | mxor | mnot => exact mop_keeps
  | mpopc => exact execMpopc_keeps
  | _ => exact absurd hi Bool.false_ne_true

end

/-- Settles O23: what the frame names is what `vectorRest` and the homes' memory hold, and every form keeps it. -/
theorem vectorFrame : Obligations.VectorFrame := by
  intro i s s' hi he
  have h : VectorKeeps s s' := exec_vector_keeps hi s' he
  obtain ⟨hspad, hctl, hld, hst, hmx, hxf, htx, hrx, hphase, hothers⟩ := by simpa only [vectorRest, Prod.mk.injEq] using h.cur
  refine ⟨h.other, fun a => ⟨congrArg (·.read a) hspad, congrArg (·.read a) h.store⟩, hctl, hld, hst, hmx, hxf, htx, hrx, hphase,
    fun k hk => ?_, h.ctxs, h.queues⟩
  exact Prod.mk.inj (congrFun (congrFun hothers k) (by simpa using hk))

/-! ## The access strands -/

/-- What the frame of the access forms names of a tile, but for its scratchpad. -/
def accessRest (t : Tile) :=
  (t.ctl, t.vec, t.mx, t.xf, t.tx, t.rx, t.sync, t.rsp, t.phase, others [.load, .store] t)

/-- What a load form leaves of a tile, but for its scratchpad. -/
def loadRest (t : Tile) := (accessRest t, t.st.w, t.st.pending)

/-- What a load form but atr leaves of a tile. -/
def readRest (t : Tile) := (t.spad, loadRest t)

/-- What the store strand's marks and register forms leave of a tile. -/
def storeRest (t : Tile) := (t.spad, accessRest t, t.ld.a, t.ld.pending)

abbrev ReadKeeps : State → State → Prop := Keeps readRest Store.mem

abbrev ReadRes (s : State) : Res State → Prop := ResKeeps readRest Store.mem (ReadKeeps s)

abbrev ReadOut : State → Out → Prop := OutKeeps readRest Store.mem

/-! ### What the views read -/

theorem accessRest_modStr {k : Strand} (hk : k ∈ [Strand.load, Strand.store]) (t : Tile) (f : StrandState → StrandState) :
    accessRest (t.modStr k f) = accessRest t := by
  simp [accessRest, others_modStr hk]

theorem loadRest_modStr (t : Tile) (f : StrandState → StrandState) : loadRest (t.modStr .load f) = loadRest t := by
  rw [loadRest, accessRest_modStr (by decide)]
  rfl

theorem readRest_modStr (t : Tile) (f : StrandState → StrandState) : readRest (t.modStr .load f) = readRest t := by
  rw [readRest, loadRest_modStr]
  rfl

theorem storeRest_modStr (t : Tile) (f : StrandState → StrandState) : storeRest (t.modStr .store f) = storeRest t := by
  rw [storeRest, accessRest_modStr (by decide)]
  rfl

/-- The load strand's state and the FIFOs are a load form's own to write. -/
theorem readRest_own (t : Tile) (l : LoadState) (q : Fifos) : readRest { t with ld := l, fifo := q } = readRest t := rfl

theorem readRest_ld (t : Tile) (l : LoadState) : readRest { t with ld := l } = readRest t := rfl

theorem readRest_fifo (t : Tile) (q : Fifos) : readRest { t with fifo := q } = readRest t := rfl

theorem loadRest_spad (t : Tile) (m : Memory) : loadRest { t with spad := m } = loadRest t := rfl

theorem foreign_readRest : Foreign .load readRest where
  notControl := by decide
  tick _ := rfl
  modStr := readRest_modStr
  tlb _ _ := rfl
  fpend _ _ := rfl

theorem foreign_storeRest : Foreign .store storeRest where
  notControl := by decide
  tick _ := rfl
  modStr := storeRest_modStr
  tlb _ _ := rfl
  fpend _ _ := rfl

/-! ### Counts, requests and lines -/

section
variable {α β : Type} {π : Tile → α} {μ : Store → β} {s : State}

theorem Keeps.foldl {f : State → γ → State} (hf : ∀ s a, Keeps π μ s (f s a)) (l : List γ) : Keeps π μ s (l.foldl f s) := by
  induction l generalizing s with
  | nil => exact .refl
  | cons a l ih => exact (hf s a).trans ih

theorem countAccess_eq (s : State) (d : Nat) (c : BitVec 6) (p : Phys) (va : W64) :
    ∃ m, s.countAccess d c p va = { s with store := { s.store with migs := m } } := by
  unfold State.countAccess
  split
  · exact ⟨_, rfl⟩
  · split
    · exact ⟨_, rfl⟩
    · dsimp only
      split <;> exact ⟨_, rfl⟩

/-- Counting accesses to MIGRATE pages changes the counters alone. -/
theorem Keeps.countPieces (t : TileNo) (ps : List Piece) : Keeps π Store.mem s (s.countPieces t ps) := by
  refine Keeps.foldl (fun s p => ?_) ps
  split
  · obtain ⟨m, e⟩ := countAccess_eq s (dieOf t) (s.tile t).ctx ‹_› p.va
    rw [e]
    exact ⟨rfl, fun _ _ => rfl, rfl, rfl, rfl, rfl⟩
  · exact .refl

/-- A pref sends requests for lines and nothing else. -/
theorem Keeps.prefLines (t : TileNo) (ps : List Piece) : Keeps π μ s (s.prefLines t ps) := by
  refine Keeps.foldl (fun s p => ?_) ps
  split
  · split
    · exact ⟨rfl, fun _ _ => rfl, rfl, rfl, rfl, rfl⟩
    · exact .refl
  · exact .refl

theorem restore_eq (s : State) (home line : Nat) : ∃ x, s.restore home line = { s with store := x } := by
  unfold State.restore
  split <;> exact ⟨_, rfl⟩

theorem snapLine_eq {s s1 : State} {home line : Nat} (h : s.snapLine home line = .ok s1) : ∃ x, s1 = { s with store := x } := by
  obtain ⟨x, e⟩ := restore_eq s home line
  unfold State.snapLine at h
  rw [e] at h
  dsimp only at h
  split at h
  · exact ⟨x, (SnapFate.ok.inj h).symm⟩
  · split at h
    · exact ⟨x, (SnapFate.ok.inj h).symm⟩
    · split at h
      · exact ⟨x, (SnapFate.ok.inj h).symm⟩
      · split at h
        · split at h <;> contradiction
        · exact ⟨_, (SnapFate.ok.inj h).symm⟩

/-- Readying lines for a write changes the homes' store alone. -/
theorem snapLines_eq {s s1 : State} {l : List (Nat × Nat)} (h : s.snapLines l = .ok s1) : ∃ x, s1 = { s with store := x } := by
  induction l generalizing s with
  | nil => exact ⟨s.store, (SnapFate.ok.inj h).symm⟩
  | cons p rest ih =>
    rw [State.snapLines] at h
    split at h
    next s2 e =>
      obtain ⟨x, rfl⟩ := snapLine_eq e
      obtain ⟨y, rfl⟩ := ih h
      exact ⟨y, rfl⟩
    · contradiction
    · contradiction

end

/-! ### Scratchpad parts of a load -/

theorem loadRest_spadLoads (t : Tile) (kind : LoadKind) (ps : List Piece) (d : Vec) : loadRest (t.spadLoads kind ps d).1 = loadRest t := by
  induction ps generalizing t d with
  | nil => rfl
  | cons p rest ih =>
    rw [Tile.spadLoads]
    split
    · rw [ih]
      unfold Tile.spadLoad
      split
      · exact loadRest_spad t _
      · rfl
    · exact ih t d

/-- A load that is no atomic writes nothing. -/
theorem spadLoads_of_read {kind : LoadKind} (hk : ∀ a, kind ≠ .atomic a) (t : Tile) (ps : List Piece) (d : Vec) :
    (t.spadLoads kind ps d).1 = t := by
  have h1 : ∀ off len, (t.spadLoad kind off len).1 = t := by
    intro off len
    cases kind with
    | atomic a => exact absurd rfl (hk a)
    | _ => rfl
  induction ps generalizing d with
  | nil => rfl
  | cons p rest ih =>
    rw [Tile.spadLoads]
    split
    · dsimp only
      rw [h1]
      exact ih _
    · exact ih d

/-- Pieces of global memory write nothing of the scratchpad. -/
theorem spadLoads_of_glob {ps : List Piece} (h : ∀ p ∈ ps, ∃ g, p.loc = .glob g) (t : Tile) (kind : LoadKind) (d : Vec) :
    (t.spadLoads kind ps d).1 = t := by
  induction ps with
  | nil => rfl
  | cons p rest ih =>
    obtain ⟨g, e⟩ := h p (List.mem_cons_self ..)
    rw [Tile.spadLoads, e]
    exact ih fun x hx => h x (List.mem_cons_of_mem _ hx)

theorem loadRest_addLoad (t : Tile) (kind : LoadKind) (q : BitVec 3) (ps : List Piece) (va : W64) :
    loadRest (t.addLoad kind q ps va) = loadRest t := by
  have h : ∀ (b : Bool), loadRest (if b then t.spadLoads kind ps 0 else (t, 0)).1 = loadRest t := by
    intro b
    cases b
    · rfl
    · exact loadRest_spadLoads t kind ps 0
  exact h _

/-- A load writes of the scratchpad at most what its scratchpad parts do. -/
theorem addLoad_spad (t : Tile) (kind : LoadKind) (q : BitVec 3) (ps : List Piece) (va : W64) :
    (t.addLoad kind q ps va).spad = t.spad ∨ (t.addLoad kind q ps va).spad = (t.spadLoads kind ps 0).1.spad := by
  unfold Tile.addLoad
  dsimp only
  split
  · exact .inr rfl
  · exact .inl rfl

theorem readRest_addLoad {kind : LoadKind} (hk : ∀ a, kind ≠ .atomic a) (t : Tile) (q : BitVec 3) (ps : List Piece) (va : W64) :
    readRest (t.addLoad kind q ps va) = readRest t := by
  have hs : (t.addLoad kind q ps va).spad = t.spad := by
    obtain h | h := addLoad_spad t kind q ps va
    · exact h
    · rw [h, spadLoads_of_read hk]
  rw [readRest, loadRest_addLoad, hs, readRest]

theorem readRest_qReserve (t : Tile) (q : BitVec 3) (tag : W64) : readRest (t.qReserve q tag) = readRest t := by
  unfold Tile.qReserve
  split <;> exact readRest_fifo t _

theorem readRest_qClear (t : Tile) (q : BitVec 3) : readRest (t.qClear q) = readRest t := by
  unfold Tile.qClear
  split <;> exact readRest_fifo t _

/-! ### Judgement of an access -/

/-- What the pieces of an access are when it is not held and meets no fault; a missing translation is asked for and nothing else. -/
theorem resKeeps_pieces {α β : Type} {π : Tile → α} {μ : Store → β} {s : State} {k : Strand} {q : Ask} {es : List Elem}
    (hw : ∀ t va, π (t.askWalk k va) = π t) : ResKeeps π μ (fun ps => s.judgeAll s.here q es = .ok ps) (s.pieces k q es) := by
  unfold State.pieces
  split
  · assumption
  · exact fun s => Keeps.modTile fun t => hw t _
  · split
    · split <;> trivial
    · trivial

theorem also_ok {x y : Judged} {ps : List Piece} (h : x.also y = .ok ps) : ∃ as bs, x = .ok as ∧ y = .ok bs ∧ ps = as ++ bs := by
  cases x with
  | ok as =>
    cases y with
    | ok bs => exact ⟨as, bs, rfl, rfl, (Judged.ok.inj h).symm⟩
    | miss v => contradiction
    | bad a c qs => contradiction
  | miss v => contradiction
  | bad a c qs =>
    cases y with
    | ok bs => contradiction
    | miss v => contradiction
    | bad a' c' rs =>
      rw [Judged.also] at h
      split at h <;> contradiction

theorem judgeAll_one {s : State} {t : TileNo} {q : Ask} {e : Elem} {ps : List Piece} (h : s.judgeAll t q [e] = .ok ps) :
    s.judge t q e = .ok ps := by
  obtain ⟨as, bs, ha, hb, rfl⟩ := also_ok h
  obtain rfl := Judged.ok.inj ha
  exact hb

theorem judgePart_glob {s : State} {t : TileNo} {q : Ask} {pos a n : Nat} {ps : List Piece} (h : s.judgePart t q pos a n = .ok ps) :
    ∀ p ∈ ps, ∃ g, p.loc = .glob g := by
  unfold State.judgePart at h
  dsimp only at h
  split at h
  · contradiction
  · split at h
    · contradiction
    · split at h
      · contradiction
      · split at h
        · contradiction
        · obtain rfl := Judged.ok.inj h
          intro p hp
          obtain ⟨x, _, rfl⟩ := List.mem_map.mp hp
          exact ⟨_, rfl⟩

theorem judgeParts_glob {s : State} {t : TileNo} {q : Ask} {l : List (Nat × Nat × Nat)} {ps : List Piece}
    (h : s.judgeParts t q l = .ok ps) : ∀ p ∈ ps, ∃ g, p.loc = .glob g := by
  induction l generalizing ps with
  | nil =>
    obtain rfl := Judged.ok.inj h
    simp
  | cons x rest ih =>
    obtain ⟨as, bs, ha, hb, rfl⟩ := also_ok h
    intro p hp
    obtain hp | hp := List.mem_append.mp hp
    · exact judgePart_glob ha p hp
    · exact ih hb p hp

/-- The pieces of an access to global memory lie there. -/
theorem judge_glob {s : State} {t : TileNo} {q : Ask} {e : Elem} {ps : List Piece} (hq : q.sp = false) (h : s.judge t q e = .ok ps) :
    ∀ p ∈ ps, ∃ g, p.loc = .glob g := by
  unfold State.judge at h
  simp only [hq, Bool.false_eq_true, if_false] at h
  split at h
  · contradiction
  · split at h
    · contradiction
    · exact judgeParts_glob h

/-- The pieces of an access to the scratchpad are those of its bytes, which are aligned. -/
theorem judge_spad {s : State} {t : TileNo} {q : Ask} {e : Elem} {ps : List Piece} (hq : q.sp = true) (h : s.judge t q e = .ok ps) :
    spadOff e.va % q.align = 0 ∧ ps = spadPieces e := by
  unfold State.judge at h
  simp only [hq, if_true] at h
  split at h
  · contradiction
  next ha =>
    split at h
    · contradiction
    · split at h
      · contradiction
      · exact ⟨by simpa using ha, (Judged.ok.inj h).symm⟩

/-- An aligned element of 4 or 8 bytes does not run over the end of the scratchpad: it is one piece. -/
theorem spadPieces_aligned {n : Nat} (hn : n = 4 ∨ n = 8) {va : W64} (ha : spadOff va % n = 0) :
    ∃ va', spadPieces { pos := 0, len := n, va := va } = [{ pos := 0, len := n, loc := .spad (spadOff va), va := va' }] := by
  have hlt : spadOff va < 0x200000 := Nat.mod_lt _ (by decide)
  have hmod : spadOff va % 0x200000 = spadOff va := Nat.mod_eq_of_lt hlt
  have hmin : min n (0x200000 - spadOff va) = n := by
    obtain rfl | rfl := hn <;> omega
  have h0 : n ≠ 0 := by omega
  exact ⟨_, by simp [spadPieces, cutAt, spadSize, hmod, hmin, h0]; rfl⟩

/-! ### The load strand's forms -/

section
variable {s : State} {a d : BitVec 4} {i : BitVec 13} {x : List W32}

theorem readRest_askWalk (t : Tile) (va : W64) : readRest (t.askWalk .load va) = readRest t := readRest_ld t _

/-- A form of the load strand with its own effect. -/
theorem load_out {f : State → Res State} (hf : ∀ s, ReadRes s (f s)) : ReadOut s (.next (s.issue .load f)) :=
  .next (foreign_readRest.issue hf)

theorem loadT_out {f : Tile → Res Tile} (hf : ∀ t, ResKeeps readRest Store.mem (fun u => readRest u = readRest t) (f t)) :
    ReadOut s (.next (s.issueT .load f)) :=
  .next (foreign_readRest.issueT hf)

/-- A load that is no atomic enters the strand with its entry reserved. -/
theorem entered_keeps {kind : LoadKind} (hk : ∀ y, kind ≠ .atomic y) {t : Tile} (ht : readRest t = readRest s.cur) (q q' : BitVec 3)
    (tag : W64) (ps : List Piece) (va : W64) : ReadKeeps s (s.setTile s.here ((t.qReserve q tag).addLoad kind q' ps va)) :=
  Keeps.setTile ((readRest_addLoad hk _ _ _ _).trans ((readRest_qReserve t q tag).trans ht))

theorem loadTo_keeps {kind : LoadKind} (hk : ∀ y, kind ≠ .atomic y) {pop : Tile → Tile} (hp : ∀ t, readRest (pop t) = readRest t)
    (q : BitVec 3) (ask : Ask) (es : List Elem) (va : W64) : ReadRes s (s.loadTo q kind ask es va pop) := by
  refine (resKeeps_pieces readRest_askWalk).bind fun ps _ => ?_
  split
  · trivial
  · exact (entered_keeps hk (hp _) _ _ _ _ _).trans (.countPieces _ ps)

theorem loadGuard_keeps {P : State → Prop} {q : BitVec 3} {f : Unit → Res State} (hf : ResKeeps readRest Store.mem P (f ())) :
    ResKeeps readRest Store.mem P (s.loadGuard q f) := by
  unfold State.loadGuard
  split
  · exact hf
  · trivial

theorem execLd_keeps {q : BitVec 2} {sp sq : BitVec 1} : ReadOut s (execLd q a sp sq i x s) :=
  load_out fun _ => loadGuard_keeps (loadTo_keeps (by simp) (fun _ => rfl) _ _ _ _)

theorem execLdw_keeps {q : BitVec 2} {k : BitVec 4} {sp sq : BitVec 1} : ReadOut s (execLdw q a k sp sq i x s) :=
  load_out fun _ => loadGuard_keeps (loadTo_keeps (by simp) (fun _ => rfl) _ _ _ _)

theorem execLdg_keeps {q : BitVec 2} {k : BitVec 4} {sp sq j : BitVec 1} : ReadOut s (execLdg q a k sp sq j x s) := by
  refine load_out fun s => loadGuard_keeps ?_
  dsimp only
  split
  · trivial
  · split
    · trivial
    · exact loadTo_keeps (by simp) (fun t => readRest_fifo t _) _ _ _ _

theorem execPref_keeps : ReadOut s (execPref a i s) := by
  refine load_out fun s => ?_
  dsimp only
  split
  · exact Keeps.prefLines _ _
  · exact fun s => Keeps.modTile fun t => readRest_askWalk t _
  · exact Keeps.modTile fun _ => rfl

theorem execAcq_keeps {q : BitVec 2} {k : BitVec 4} : ReadOut s (execAcq q a k i s) := by
  refine load_out fun s => loadGuard_keeps ?_
  dsimp only
  split
  · refine (resKeeps_pieces readRest_askWalk).bind fun _ _ => (resKeeps_pieces readRest_askWalk).bind fun _ _ => ?_
    split
    · trivial
    · exact entered_keeps (by simp) rfl _ _ _ _ _
  · exact loadTo_keeps (by simp) (fun _ => rfl) _ _ _ _

theorem execFenceL_keeps {sc : BitVec 3} : ReadOut s (execFenceL sc s) :=
  loadT_out fun t => readRest_addLoad (by simp) t _ _ _

theorem execBarw_keeps {sp : BitVec 1} : ReadOut s (execBarw a sp i s) := by
  refine load_out fun s => (resKeeps_pieces readRest_askWalk).bind fun ps _ => ?_
  split
  · trivial
  · split
    · split
      · trivial
      · exact Keeps.refl
    · exact Keeps.modTile fun t => readRest_ld t _
    · exact Keeps.refl

/-- A mark that meets its pair changes what the two access strands are held for, and nothing else (R188). -/
theorem meetMarks_keeps {γ : Type} {ρ : Tile → γ} (hl : ∀ (t : Tile) h, ρ { t with ld := { t.ld with hold := h } } = ρ t)
    (hs : ∀ (t : Tile) h, ρ { t with st := { t.st with hold := h } } = ρ t) (t : Tile) (id : BitVec 8) (k : Nat) :
    ρ (t.meetMarks id k) = ρ t := by
  unfold Tile.meetMarks
  extract_lets _ u
  have hu : ρ u = ρ t := by
    unfold u
    split
    · split
      · exact hl t _
      · rfl
    · rfl
  split
  · split
    · exact (hs u _).trans hu
    · exact hu
  · exact hu

theorem execMarkL_keeps {id : BitVec 8} : ReadOut s (execMarkL id s) := by
  refine loadT_out fun t => ?_
  dsimp only
  split
  · exact meetMarks_keeps (fun _ _ => rfl) (fun _ _ => rfl) _ _ _
  · rfl

theorem execSset_keeps {q : BitVec 3} {n : BitVec 10} : ReadOut s (execSset q a n s) := by
  refine loadT_out fun t => ?_
  dsimp only
  split
  · trivial
  · split
    · trivial
    · exact readRest_ld t _

theorem execSclr_keeps {q : BitVec 3} : ReadOut s (execSclr q s) := by
  refine loadT_out fun t => ?_
  dsimp only
  split
  · exact fun s => Keeps.modTile fun t => readRest_ld t _
  · exact (readRest_ld _ _).trans (readRest_qClear t q)

/-- Popping a channel begins nothing and changes the FIFOs alone. -/
theorem resKeeps_takeK {α β γ : Type} {π : Tile → α} {μ : Store → β} {ρ : Tile → γ} (hρ : ∀ (t : Tile) q, ρ { t with fifo := q } = ρ t)
    (t : Tile) (n : Fin 5) : ResKeeps π μ (fun r => ρ r.2 = ρ t) (t.takeK n) := by
  unfold Tile.takeK
  split
  · trivial
  · exact hρ t _

theorem laOp_keeps {f : Tile → Res (W64 × Tile)}
    (hf : ∀ t, ResKeeps readRest Store.mem (fun r => readRest r.2 = readRest t) (f t)) : ReadOut s (laOp d f s) :=
  loadT_out fun t => (hf t).map fun _ h => (readRest_ld _ _).trans h

/-- Every form of the load strand but atr keeps to its frame. -/
theorem exec_load_keeps {n : Instr} (hn : Claims.isLoad n = true) (hatr : ∀ q a k sp w d, n ≠ .atr q a k sp w d) : ReadOut s (exec n s) := by
  unfold exec
  cases n with
  | ld => exact execLd_keeps
  | ldw => exact execLdw_keeps
  | ldg => exact execLdg_keeps
  | sset => exact execSset_keeps
  | sclr => exact execSclr_keeps
  | markL => exact execMarkL_keeps
  | atr => exact absurd rfl (hatr _ _ _ _ _ _)
  | fenceL => exact execFenceL_keeps
  | acq => exact execAcq_keeps
  | pref => exact execPref_keeps
  | laAdd | laAddi | laShli | laLi | laIx => exact laOp_keeps fun _ => rfl
  | laTake => exact laOp_keeps fun t => resKeeps_takeK readRest_fifo t _
  | barw => exact execBarw_keeps
  | _ => exact absurd hn Bool.false_ne_true

/-! ### The store strand's marks and address registers -/

abbrev StoreOut : State → Out → Prop := OutKeeps storeRest Store.mem

theorem storeRest_st (t : Tile) (l : StoreState) : storeRest { t with st := l } = storeRest t := rfl

theorem execMarkS_keeps {id : BitVec 8} : StoreOut s (execMarkS id s) := by
  refine .next (foreign_storeRest.issueT fun t => ?_)
  dsimp only
  split
  · exact meetMarks_keeps (fun _ _ => rfl) (fun _ _ => rfl) _ _ _
  · rfl

theorem saOp_keeps {f : Tile → Res (W64 × Tile)}
    (hf : ∀ t, ResKeeps storeRest Store.mem (fun r => storeRest r.2 = storeRest t) (f t)) : StoreOut s (saOp d f s) :=
  .next (foreign_storeRest.issueT fun t => (hf t).map fun _ h => (storeRest_st _ _).trans h)

theorem exec_storeLocal_keeps {n : Instr} (hn : Claims.isStoreLocal n = true) : StoreOut s (exec n s) := by
  unfold exec
  cases n with
  | markS => exact execMarkS_keeps
  | saAdd | saAddi | saShli | saLi | saIx => exact saOp_keeps fun _ => rfl
  | saTake => exact saOp_keeps fun t => resKeeps_takeK (fun _ _ => rfl) t _
  | _ => exact absurd hn Bool.false_ne_true

end

/-! ### The load strand's atomic -/

/-- A scratchpad after an atomic of `n` bytes at `off`: as it was, or, when the atomic names the scratchpad, with those bytes written. -/
def AtrWrites (sp : BitVec 1) (off n : Nat) (m m' : Memory) : Prop := m' = m ∨ sp = 1 ∧ ∃ v, m' = m.writeN off n v

theorem AtrWrites.eq {sp : BitVec 1} {off n : Nat} {m m' : Memory} (h : AtrWrites sp off n m m') (hsp : sp ≠ 1) : m' = m :=
  h.resolve_right fun g => hsp g.1

theorem AtrWrites.read {sp : BitVec 1} {off n : Nat} {m m' : Memory} (h : AtrWrites sp off n m m') (hm : m.wf = true) {y : Nat}
    (hy : y < off ∨ off + n ≤ y) : m'.read y = m.read y := by
  obtain rfl | ⟨_, v, rfl⟩ := h
  · rfl
  · rw [Memory.read_writeN hm, if_neg (by omega)]

/-- What the effect of an atr changes: of its tile what `loadRest` does not read, the bytes that it names, and the homes' store. -/
structure AtrKeeps (sp : BitVec 1) (off n : Nat) (s s' : State) : Prop where
  rest : Keeps loadRest (fun _ => ()) s s'
  spad : AtrWrites sp off n s.cur.spad s'.cur.spad

theorem Keeps.loadKeeps {s s' : State} (h : ReadKeeps s s') : Keeps loadRest (fun _ => ()) s s' :=
  h.weaken Prod.snd (fun _ => ()) (fun _ => rfl) fun _ => rfl

theorem Keeps.atr {sp : BitVec 1} {off n : Nat} {s s' : State} (h : ReadKeeps s s') : AtrKeeps sp off n s s' :=
  ⟨h.loadKeeps, .inl (congrArg Prod.fst h.cur)⟩

theorem AtrKeeps.trans {sp : BitVec 1} {off n : Nat} {s s1 s2 : State} (h : AtrKeeps sp off n s s1) (g : ReadKeeps s1 s2) :
    AtrKeeps sp off n s s2 := by
  have hs : s2.cur.spad = s1.cur.spad := congrArg Prod.fst g.cur
  exact ⟨h.rest.trans g.loadKeeps, hs ▸ h.spad⟩

section
variable {s : State} {sp w : BitVec 1} {va : W64} {ask : Ask} {n : Nat} {ps : List Piece}

/-- The scratchpad after an atomic has entered: its one aligned piece is written, or the access lies in global memory. -/
theorem addLoad_atrWrites (hn : n = 4 ∨ n = 8) (hsp : ask.sp = (sp == 1)) (hal : ask.align = n)
    (hj : s.judgeAll s.here ask [{ pos := 0, len := n, va := va }] = .ok ps) (t : Tile) (y : Atomic) (q : BitVec 3) :
    AtrWrites sp (spadOff va) n t.spad (t.addLoad (.atomic y) q ps va).spad := by
  obtain h | h := addLoad_spad t (.atomic y) q ps va
  · exact .inl h
  · rw [h]
    by_cases h1 : sp = 1
    · obtain ⟨ha, rfl⟩ := judge_spad (hsp.trans (beq_iff_eq.mpr h1)) (judgeAll_one hj)
      obtain ⟨va', e⟩ := spadPieces_aligned hn (hal ▸ ha)
      rw [e]
      exact .inr ⟨h1, _, rfl⟩
    · exact .inl (congrArg Tile.spad (spadLoads_of_glob (judge_glob (hsp.trans (beq_eq_false_iff_ne.mpr h1)) (judgeAll_one hj)) t _ _))

/-- An atomic enters the strand, its operands popped and its entry reserved, once its lines have been readied. -/
theorem atr_entered (hn : n = 4 ∨ n = 8) (hsp : ask.sp = (sp == 1)) (hal : ask.align = n)
    (hj : s.judgeAll s.here ask [{ pos := 0, len := n, va := va }] = .ok ps) {t : Tile} (ht : readRest t = readRest s.cur)
    (x : Store) (y : Atomic) (q : BitVec 3) :
    AtrKeeps sp (spadOff va) n s
      ((({ s with store := x } : State).setTile s.here (t.addLoad (.atomic y) q ps va)).countPieces s.here ps) := by
  have hr : loadRest (t.addLoad (.atomic y) q ps va) = loadRest s.cur := (loadRest_addLoad t _ _ _ _).trans (congrArg Prod.snd ht)
  have hs : t.spad = s.cur.spad := congrArg Prod.fst ht
  have hc := State.cur_setTile_here ({ s with store := x } : State) (t.addLoad (.atomic y) q ps va)
  have h1 : AtrKeeps sp (spadOff va) n s (({ s with store := x } : State).setTile s.here (t.addLoad (.atomic y) q ps va)) := by
    refine ⟨⟨rfl, fun _ hn => State.tile_setTile_other _ _ hn, (congrArg loadRest hc).trans hr, rfl, rfl, rfl⟩, ?_⟩
    rw [← hs]
    exact congrArg Tile.spad hc ▸ addLoad_atrWrites hn hsp hal hj t y q
  exact h1.trans (.countPieces _ ps)

end

theorem modTile_tick_load (s : State) : s.modTile s.here (·.tick .load) = s := s.setTile_tile s.here

theorem issue_atr {sp : BitVec 1} {off n : Nat} {s : State} {f : State → Res State}
    (hf : ResKeeps readRest Store.mem (AtrKeeps sp off n s) (f s)) : AtrKeeps sp off n s (s.issue .load f) := by
  obtain ⟨s2, h2, e⟩ | h2 := foreign_readRest.issue_cases (k := .load) (s := s) (f := f) (by rw [modTile_tick_load]; exact hf)
  · rw [e, ← h2.rest.here]
    exact h2.trans (.modTile foreign_readRest.retire)
  · exact h2.atr

/-- The bytes of an atr's word. -/
def atrBytes (w : BitVec 1) : Nat := if w == 1 then 8 else 4

theorem atrBytes_eq (w : BitVec 1) : atrBytes w = if w = 1 then 8 else 4 := by
  simp [atrBytes]

theorem atrBytes_cases (w : BitVec 1) : atrBytes w = 4 ∨ atrBytes w = 8 := by
  unfold atrBytes
  split <;> simp

theorem execAtr_keeps {q : BitVec 2} {a k : BitVec 4} {sp w : BitVec 1} {i : BitVec 13} {s s' : State} (h : execAtr q a k sp w i s = .next s') :
    AtrKeeps sp (spadOff (s.cur.laAddr a i)) (atrBytes w) s s' := by
  have ht : ∀ (q : BitVec 3) (tag : W64) (l : Fifo), readRest ((s.cur.setK 0 l).qReserve q tag) = readRest s.cur :=
    fun q tag l => (readRest_qReserve _ q tag).trans (readRest_fifo _ _)
  obtain rfl := Host.Outcome.next.inj h
  refine issue_atr (loadGuard_keeps ((resKeeps_pieces readRest_askWalk).bind fun ps hj => ?_))
  extract_lets k0 op
  cases op with
  | none => trivial
  | some z =>
    dsimp only
    split
    · trivial
    · split
      · split
        · trivial
        · split
          · trivial
          · trivial
          next s1 e =>
            obtain ⟨x, rfl⟩ := snapLines_eq e
            exact atr_entered (atrBytes_cases w) rfl rfl hj (ht _ _ _) x _ _
      · exact atr_entered (atrBytes_cases w) rfl rfl hj (ht _ _ _) s.store _ _

/-! ### What a step of the access forms can do -/

section
variable {n : Instr} {s s' : State}

theorem accessRest_fields {t u : Tile} (h : accessRest u = accessRest t) :
    u.ctl = t.ctl ∧ u.vec = t.vec ∧ u.mx = t.mx ∧ u.xf = t.xf ∧ u.tx = t.tx ∧ u.rx = t.rx ∧ u.sync = t.sync ∧ u.rsp = t.rsp ∧
    u.phase = t.phase ∧ ∀ k, k ≠ .load → k ≠ .store → u.str k = t.str k ∧ u.fpsr k = t.fpsr k := by
  obtain ⟨hctl, hvec, hmx, hxf, htx, hrx, hsync, hrsp, hphase, hothers⟩ := by simpa only [accessRest, Prod.mk.injEq] using h
  refine ⟨hctl, hvec, hmx, hxf, htx, hrx, hsync, hrsp, hphase, fun k hl hs => ?_⟩
  exact Prod.mk.inj (congrFun (congrFun hothers k) (by simp [hl, hs]))

/-- A form of the load strand keeps to the frame of the others, or is an atr. -/
theorem load_step (hn : Claims.isLoad n = true) (he : exec n s = .next s') :
    ReadKeeps s s' ∨ ∃ q a k sp w d, n = .atr q a k sp w d ∧ AtrKeeps sp (spadOff (s.cur.laAddr a d)) (atrBytes w) s s' := by
  by_cases ha : ∃ q a k sp w d, n = .atr q a k sp w d
  · obtain ⟨q, a, k, sp, w, d, rfl⟩ := ha
    exact .inr ⟨q, a, k, sp, w, d, rfl, execAtr_keeps he⟩
  · exact .inl (exec_load_keeps hn (fun q a k sp w d e => ha ⟨q, a, k, sp, w, d, e⟩) s' he)

theorem load_keeps (hn : Claims.isLoad n = true) (he : exec n s = .next s') : Keeps loadRest (fun _ => ()) s s' := by
  obtain h | ⟨q, a, k, sp, w, d, -, h⟩ := load_step hn he
  · exact h.loadKeeps
  · exact h.rest

theorem access_keeps (hn : Claims.isLoad n = true ∨ Claims.isStoreLocal n = true) (he : exec n s = .next s') :
    Keeps accessRest (fun _ => ()) s s' := by
  obtain hn | hn := hn
  · exact (load_keeps hn he).weaken Prod.fst (fun _ => ()) (fun _ => rfl) fun _ => rfl
  · exact (exec_storeLocal_keeps hn s' he).weaken (·.2.1) (fun _ => ()) (fun _ => rfl) fun _ => rfl

theorem access_spad (hn : Claims.isLoad n = true ∨ Claims.isStoreLocal n = true) (he : exec n s = .next s')
    (hatr : ∀ q a k w d, n ≠ .atr q a k 1 w d) : s'.cur.spad = s.cur.spad := by
  obtain hn | hn := hn
  · obtain h | ⟨q, a, k, sp, w, d, rfl, h⟩ := load_step hn he
    · exact congrArg Prod.fst h.cur
    · exact h.spad.eq fun e => hatr q a k w d (by rw [e])
  · exact congrArg Prod.fst (exec_storeLocal_keeps hn s' he).cur

theorem access_mem (hn : Claims.isLoad n = true ∨ Claims.isStoreLocal n = true) (he : exec n s = .next s')
    (hatr : ∀ q a k sp w d, n ≠ .atr q a k sp w d) : s'.store.mem = s.store.mem := by
  obtain hn | hn := hn
  · exact (exec_load_keeps hn hatr s' he).store
  · exact (exec_storeLocal_keeps hn s' he).store

/-- The bytes beside those that an atr.sp names. -/
theorem atr_read {q : BitVec 2} {a k : BitVec 4} {sp w : BitVec 1} {d : BitVec 13} (he : exec (.atr q a k sp w d) s = .next s')
    (hm : s.cur.spad.wf = true) {y : Nat} (hy : y < spadOff (s.cur.laAddr a d) ∨ spadOff (s.cur.laAddr a d) + atrBytes w ≤ y) :
    s'.cur.spad.read y = s.cur.spad.read y :=
  (execAtr_keeps he).spad.read hm hy

end

/-- Settles O32: what an access form keeps is read off `load_step` and `exec_storeLocal_keeps`. -/
theorem accessFrame : Obligations.AccessFrame := by
  intro n s s' hn he
  have h := access_keeps hn he
  obtain ⟨hctl, hvec, hmx, hxf, htx, hrx, hsync, hrsp, hphase, hothers⟩ := accessRest_fields h.cur
  refine ⟨h.other, access_spad hn he, ?_, hctl, hvec, hmx, hxf, htx, hrx, hsync, hrsp, hphase, hothers, h.ctxs, h.queues,
    fun hatr a => congrArg (·.read a) (access_mem hn he hatr), fun hl => ?_, fun hl => ?_⟩
  · rintro q a k w d rfl hm off y hy
    rw [← atrBytes_eq] at hy
    exact atr_read he hm hy
  · have hr := congrArg Prod.snd (load_keeps hl he).cur
    exact ⟨congrArg Prod.fst hr, congrArg Prod.snd hr⟩
  · have hr := congrArg (·.2.2) (exec_storeLocal_keeps hl s' he).cur
    exact ⟨congrArg Prod.fst hr, congrArg Prod.snd hr⟩

end Sys2Proof.Frames

/-!
PROOFS of the family 02_tile.md: the control strand's registers, latches, spill slots, scratchpad accesses and FIFOs (O3, O4, O7).
-/
namespace Sys2Proof.ControlState
open Sys2Proof Sys2Proof.Machine

/-! ## Registers and predicates -/

theorem s_zero (t : Tile) : t.s 0 = 0 := rfl

theorem p_zero (t : Tile) : t.p 0 = true := rfl

theorem guard_eq (t : Tile) (p : BitVec 3) (n : BitVec 1) : t.guard p n = (t.p p ^^ n.getLsbD 0) := by
  obtain rfl | rfl : n = 0 ∨ n = 1 := by decide +revert
  · simp [Tile.guard]
  · simp [Tile.guard]

/-- Settles O4: a register is read as `Regs.get` says, written as `Regs.put` says, and neither of the two files reaches the other. -/
theorem hardwiredRegistersStay : Obligations.HardwiredRegistersStay := fun t =>
  ⟨s_zero t, p_zero t, t.s_setS, t.p_setP, t.p_setS, t.s_setP, guard_eq t⟩

/-! ## Latches -/

/-- A latch read after a latch was written. -/
theorem get_put (b : Bank) (l l' : Latch) (v : W64) : (b.put l v).get l' = if l = l' then v else b.get l' := by
  cases l <;> cases l' <;> simp [Bank.put, Bank.get, Vector.getElem_set, BitVec.toNat_inj]

theorem put_recs (b : Bank) (l : Latch) (v : W64) : (b.put l v).recs = b.recs := by
  cases l <;> rfl

@[simp] theorem bank_setBank (t : Tile) (b : Bank) : (t.setBank b).bank = b := by
  unfold Tile.bank Tile.setBank Tile.isSup
  split <;> simp_all

@[simp] theorem bank_raiseFlags (t : Tile) (k : Strand) (f : Num.Flags) : (t.raiseFlags k f).bank = t.bank := rfl

/-- The records that an issue cycle lands, and those that it leaves pending, one count nearer. -/
def dueOf (l : List Landing) : List Landing := (l.filter fun r => r.valid).filter fun r => decide (r.rem ≤ 1)

def pendingOf (l : List Landing) : List Landing :=
  ((l.filter fun r => r.valid).filter fun r => decide (1 < r.rem)).map fun r => { r with rem := r.rem - 1 }

/-- The latches after records have landed, oldest first. -/
def landed (b : Bank) (l : List Landing) : Bank := l.foldl (fun b r => b.put r.dest r.value) b

/-- Landing in one cycle: the due records are put in order, their flags are ORed, and the others stay pending. -/
theorem landAll_eq (b : Bank) (fl : Num.Flags) (l : List Landing) :
    landAll b fl l = ({ landed b (dueOf l) with recs := pendingOf l ++ b.recs }, (dueOf l).foldl (fun f r => f ||| r.flags) fl) := by
  induction l generalizing b fl with
  | nil => rfl
  | cons r rest ih =>
    rw [landAll]
    by_cases hv : r.valid
    · by_cases hr : r.rem ≤ 1
      · simp [hv, hr, ih, dueOf, pendingOf, landed, put_recs, Nat.not_lt.mpr hr]
      · simp [hv, hr, ih, dueOf, pendingOf, Nat.lt_of_not_le hr]
    · simp [hv, ih, dueOf, pendingOf]

theorem get_recs (b : Bank) (rs : List Landing) (l : Latch) : ({ b with recs := rs } : Bank).get l = b.get l := by
  cases l <;> rfl

/-- A latch shows the youngest of the records that have landed in it. -/
theorem landed_get (b : Bank) (rs : List Landing) (l : Latch) :
    (landed b rs).get l = match (rs.filter fun r => r.dest == l).getLast? with
      | some r => r.value
      | none => b.get l := by
  induction rs using List.reverseRecOn with
  | nil => rfl
  | append_singleton rs r ih =>
    rw [landed, List.foldl_append, List.foldl_cons, List.foldl_nil, get_put, List.filter_append]
    by_cases h : r.dest = l
    · simp [h]
    · simpa [h, landed] using ih

theorem setWidth_foldl_or (l : List Landing) (fl : Num.Flags) (x : BitVec 8) :
    x ||| (l.foldl (fun f r => f ||| r.flags) fl).setWidth 8 = l.foldl (fun f r => f ||| r.flags.setWidth 8) (x ||| fl.setWidth 8) := by
  induction l generalizing fl with
  | nil => rfl
  | cons r rest ih =>
    rw [List.foldl_cons, List.foldl_cons, ih, BitVec.setWidth_or, BitVec.or_assoc]

theorem tickControl_eq (t : Tile) :
    t.tickControl = (t.setBank { landed { t.bank with recs := [] } (dueOf t.bank.recs) with recs := pendingOf t.bank.recs }).raiseFlags .control
      ((dueOf t.bank.recs).foldl (fun f r => f ||| r.flags) 0) := by
  simp [Tile.tickControl, landAll_eq]

theorem tickControl_recs (t : Tile) : t.tickControl.bank.recs = pendingOf t.bank.recs := by
  simp [tickControl_eq]

theorem tickControl_get (t : Tile) (l : Latch) :
    t.tickControl.bank.get l = match ((dueOf t.bank.recs).filter fun r => r.dest == l).getLast? with
      | some r => r.value
      | none => t.bank.get l := by
  simp only [tickControl_eq, bank_raiseFlags, bank_setBank, get_recs, landed_get]

theorem fpsr_setFpsr_same (t : Tile) (k : Strand) (v : BitVec 8) : (t.setFpsr k v).fpsr k = v := by
  simp [Tile.fpsr, Tile.setFpsr]

theorem tickControl_fpsr (t : Tile) :
    t.tickControl.fpsr .control = (dueOf t.bank.recs).foldl (fun f r => f ||| r.flags.setWidth 8) (t.fpsr .control) := by
  rw [tickControl_eq, Tile.raiseFlags, fpsr_setFpsr_same, setWidth_foldl_or]
  congr 1
  simp [Tile.fpsr]

theorem tickControl_fpsr_other (t : Tile) {k : Strand} (h : k ≠ .control) : t.tickControl.fpsr k = t.fpsr k := by
  rw [tickControl_eq]
  exact Frames.fpsr_setFpsr_other _ h _

theorem pend_recs (t : Tile) (n : Nat) (l : Latch) (v : W64) (f : Num.Flags) :
    (t.pend n l v f).bank.recs = t.bank.recs ++ [{ rem := n, dest := l, value := v, flags := f }] := by
  simp [Tile.pend]

/-- A form that delivers a value to an s-register. -/
theorem alu_done {s : State} {d : BitVec 5} {p : BitVec 3} {n : BitVec 1} (f : Tile → W64) (g : (s.seen .control).guard p n = true) :
    alu d p n f s = s.yields .control ((s.seen .control).setS d (f (s.seen .control))) :=
  ctl_done g rfl

/-- Settles O3: what a cycle lands is read off `tickControl_eq`, and mov is an ALU form that reads its latch. -/
theorem latchesLandOldestFirst : Obligations.LatchesLandOldestFirst :=
  ⟨fun _ _ l _ _ g =>
      ⟨alu_done (fun t => t.bank.get (.m l)) g, alu_done (fun t => t.bank.get (.d l)) g, alu_done (fun t => t.bank.get (.l l)) g⟩,
    fun t => ⟨tickControl_recs t, tickControl_get t, tickControl_fpsr t, fun _ => tickControl_fpsr_other t, pend_recs t⟩⟩

/-! ## What an issue cycle of the control strand leaves alone -/

section
variable (t : Tile)

@[simp] theorem setBank_spill (b : Bank) : (t.setBank b).ctl.spill = t.ctl.spill := by
  unfold Tile.setBank; dsimp only; split <;> rfl

@[simp] theorem setBank_sspill (b : Bank) : (t.setBank b).ctl.sspill = t.ctl.sspill := by
  unfold Tile.setBank; dsimp only; split <;> rfl

@[simp] theorem setBank_spillN (b : Bank) : (t.setBank b).ctl.spillN = t.ctl.spillN := by
  unfold Tile.setBank; dsimp only; split <;> rfl

@[simp] theorem tickControl_spill : t.tickControl.ctl.spill = t.ctl.spill := by simp [Tile.tickControl]

@[simp] theorem tickControl_sspill : t.tickControl.ctl.sspill = t.ctl.sspill := by simp [Tile.tickControl]

@[simp] theorem tickControl_spillN : t.tickControl.ctl.spillN = t.ctl.spillN := by simp [Tile.tickControl]

@[simp] theorem tickControl_isSup : t.tickControl.isSup = t.isSup := rfl

@[simp] theorem tickControl_claimed (off n : Nat) : t.tickControl.claimed off n = t.claimed off n := rfl

end

theorem seen_control (s : State) : s.seen .control = s.cur.tickControl := rfl

/-! ## Spill slots (R118, R41) -/

section
variable {s : State} {r : BitVec 5} {p : BitVec 3} {i : BitVec 9} (g : (s.seen .control).guard p 0 = true)
include g

theorem spl_done (h : s.cur.slotOk i = true) :
    exec (.spl r p i) s = s.yields .control ((s.seen .control).setS r (s.cur.spillGet i)) := by
  have hs : (s.seen .control).slotOk i = true := by simpa [Tile.slotOk, seen_control] using h
  have hv : (s.seen .control).spillGet i = s.cur.spillGet i := by simp [Tile.spillGet, seen_control]
  exact hv ▸ ctl_done g (if_pos hs)

theorem sps_done (h : s.cur.slotOk i = true) :
    exec (.sps r p i) s = s.yields .control ((s.seen .control).spillPut i (s.cur.s r)) := by
  have hs : (s.seen .control).slotOk i = true := by simpa [Tile.slotOk, seen_control] using h
  have hv : (s.seen .control).s r = s.cur.s r := s.cur.tickControl_s r
  exact hv ▸ ctl_done g (if_pos hs)

theorem spill_range (h : s.cur.slotOk i = false) :
    exec (.spl r p i) s = .next (s.fault s.here .control { code := 0x06 }) ∧
    exec (.sps r p i) s = .next (s.fault s.here .control { code := 0x06 }) := by
  have hs : (s.seen .control).slotOk i = false := by simpa [Tile.slotOk, seen_control] using h
  exact ⟨ctl_trap g (if_neg (by simp [hs])), ctl_trap g (if_neg (by simp [hs]))⟩

end

theorem spillSlotsReadAndWrite : Claims.SpillSlotsReadAndWrite := by
  intro s r p i g
  refine ⟨fun hu hi => ?_, fun hi hu => ?_, fun h => spill_range g ?_⟩
  · have ho : s.cur.slotOk i = true := by simp [Tile.slotOk, hu, hi]
    rw [spl_done g ho, sps_done g ho]
    simp [Tile.spillGet, Tile.spillPut, seen_control, hu]
  · have ho : s.cur.slotOk i = true := by simp [Tile.slotOk, hu, hi]
    rw [spl_done g ho, sps_done g ho]
    simp [Tile.spillGet, Tile.spillPut, seen_control, hu, Nat.mod_eq_of_lt hi]
  · obtain ⟨hu, hi⟩ | ⟨hu, hi⟩ := h <;> simp [Tile.slotOk, hu, hi]

/-! ## Scalar accesses of the scratchpad (R119, R120) -/

/-- The bytes of a kind, extended: they are as many as the kind has, so an unsigned kind keeps them as they are. -/
theorem extendKind_eq {k v : Nat} (hk : k < 7) (hv : v < 256 ^ kindSize k) : extendKind k v = Claims.extended k v := by
  match k, hk with
  | 0, _ | 2, _ | 4, _ =>
    simp only [kindSize] at hv
    exact congrArg (BitVec.ofNat 64) (Nat.mod_eq_of_lt hv)
  | 1, _ | 3, _ | 5, _ | 6, _ => rfl

section
variable {s : State} {l : BitVec 2} {a b : BitVec 5} {p : BitVec 3} {k : BitVec 3} {off n : Nat} (g : (s.seen .control).guard p 0 = true)
include g

section
variable {i : BitVec 13} {x : List W32} (ho : spadOff (s.cur.s a + imm13 i x) = off) (hn : kindSize k.toNat = n)
include ho hn

theorem lsp_done (h : off % n = 0) (hc : s.cur.claimed off n = false) :
    exec (.lsp k l a p i x) s =
      s.yields .control ((s.seen .control).pend 4 (.l l) (extendKind k.toNat (s.cur.spad0.readN off n)) 0) := by
  subst ho hn
  exact ctl_done g (by simp [seen_control, h, hc])

theorem lsp_misaligned (h : off % n ≠ 0) :
    exec (.lsp k l a p i x) s = .next (s.fault s.here .control { code := 0x05, faddr := BitVec.ofNat 64 off }) := by
  subst ho hn
  exact ctl_trap g (by simp [seen_control, h, cMisaligned])

theorem lsp_claimed (h : off % n = 0) (hc : s.cur.claimed off n = true) :
    exec (.lsp k l a p i x) s = .next (s.fault s.here .control { code := 0x08, faddr := BitVec.ofNat 64 off }) := by
  subst ho hn
  exact ctl_trap g (by simp [seen_control, h, hc, cBankClaim])

end

section
variable {z : BitVec 2} {i : BitVec 11} (ho : spadOff (s.cur.s a + sext64 i) = off) (hn : 2 ^ z.toNat = n)
include ho hn

theorem ssp_done (h : off % n = 0) (hb : off < barrierBase) (hc : s.cur.claimed off n = false) :
    exec (.ssp b a p z i) s = s.yields .control { (s.seen .control) with spad := s.cur.spad.writeN off n (s.cur.s b).toNat } := by
  subst ho hn
  exact ctl_done g (by simp [seen_control, h, hc, Nat.not_le.mpr hb])

theorem ssp_misaligned (h : off % n ≠ 0) :
    exec (.ssp b a p z i) s = .next (s.fault s.here .control { code := 0x05, faddr := BitVec.ofNat 64 off }) := by
  subst ho hn
  exact ctl_trap g (by simp [seen_control, h, cMisaligned])

theorem ssp_barrier (h : off % n = 0) (hb : barrierBase ≤ off) :
    exec (.ssp b a p z i) s = .next (s.fault s.here .control { code := 0x0C, faddr := BitVec.ofNat 64 off }) := by
  subst ho hn
  exact ctl_trap g (by simp [seen_control, h, hb, cBarrierRegion])

theorem ssp_claimed (h : off % n = 0) (hb : off < barrierBase) (hc : s.cur.claimed off n = true) :
    exec (.ssp b a p z i) s = .next (s.fault s.here .control { code := 0x08, faddr := BitVec.ofNat 64 off }) := by
  subst ho hn
  exact ctl_trap g (by simp [seen_control, h, hc, Nat.not_le.mpr hb, cBankClaim])

end

end

theorem scratchpadScalarAccess : Claims.ScratchpadScalarAccess := by
  refine ⟨fun s k l a p i x g hk => ?_, fun s b a p z i g => ?_⟩
  · intro off n
    have hv : extendKind k.toNat (s.cur.spad0.readN off n) = Claims.extended k.toNat (s.cur.spad0.readN off n) :=
      extendKind_eq hk (s.cur.spad0.readN_lt off n)
    exact ⟨fun h hc => hv ▸ lsp_done g rfl rfl h hc, lsp_misaligned g rfl rfl, lsp_claimed g rfl rfl⟩
  · intro off n
    refine ⟨fun h hb hc hm => ⟨s.cur.spad.writeN off n (s.cur.s b).toNat, ssp_done g rfl rfl h hb hc, Memory.wf_writeN hm,
        fun y h1 h2 => ?_, fun y h1 => ?_⟩,
      ssp_misaligned g rfl rfl, ssp_barrier g rfl rfl, ssp_claimed g rfl rfl⟩
    · rw [Memory.read_writeN hm, if_pos ⟨h1, h2⟩]
    · rw [Memory.read_writeN hm, if_neg (by omega)]

/-! ## Pops and pushes (R122, R123, R43) -/

theorem headOf_cons {α : Type} {e : Ent α} {now : W64} (rest : List (Ent α)) (hr : e.ready = true) (hb : e.born ≠ now) :
    headOf (e :: rest) now = some e.val := by
  simp [headOf, hr, hb]

theorem popStream_scalar {t : Tile} {b : BitVec 3} (q : Fin 4) (hb : b.toNat = 4 + q) {e : Ent W64} {rest : Fifo} (hq : t.fifo.qs[q] = e :: rest)
    (hr : e.ready = true) (hn : e.born ≠ t.tcc) :
    popStream t b = .done (e.val, { t with fifo := { t.fifo with qs := t.fifo.qs.set q rest } }) := by
  obtain ⟨j, hj⟩ := q
  obtain rfl : j = b.toNat - 4 := by dsimp only at hb; omega
  rw [Fin.getElem_fin] at hq
  rw [popStream, dif_neg (by omega)]
  simp [hq, headOf_cons rest hr hn]

theorem popStream_scalar_empty {t : Tile} {b : BitVec 3} (q : Fin 4) (hb : b.toNat = 4 + q) (hq : t.fifo.qs[q] = []) :
    popStream t b = .hold := by
  obtain ⟨j, hj⟩ := q
  obtain rfl : j = b.toNat - 4 := by dsimp only at hb; omega
  rw [Fin.getElem_fin] at hq
  rw [popStream, dif_neg (by omega)]
  simp [hq, headOf]

theorem popStream_vector {t : Tile} {b : BitVec 3} (q : Fin 4) (hb : b.toNat = q) {e : Ent Vec} {rest : VFifo} (hq : t.fifo.qv[q] = e :: rest)
    (hr : e.ready = true) (hn : e.born ≠ t.tcc) (hc : (t.ld.stream[q.val]).control = true) :
    popStream t b = .done (e.val.extractLsb' (64 * t.fifo.qpos[q]) 64, { t with fifo :=
      if t.fifo.qpos[q] + 1 < 64 then { t.fifo with qpos := t.fifo.qpos.set q (t.fifo.qpos[q] + 1) }
      else { t.fifo with qpos := t.fifo.qpos.set q 0, qv := t.fifo.qv.set q rest } }) := by
  obtain ⟨j, hj⟩ := q
  obtain rfl : b.toNat = j := hb
  rw [Fin.getElem_fin] at hq
  rw [popStream, dif_pos hj]
  simp [hq, hc, headOf_cons rest hr hn]

theorem popStream_unbound {t : Tile} {b : BitVec 3} (q : Fin 4) (hb : b.toNat = q) (hc : (t.ld.stream[q.val]).control = false) :
    popStream t b = .trap { code := 0x07 } := by
  obtain ⟨j, hj⟩ := q
  obtain rfl : b.toNat = j := hb
  rw [popStream, dif_pos hj]
  simp [hc, cStreamState]

section
variable {s : State} {d a b : BitVec 5} {p : BitVec 3} {n : BitVec 1} (g : (s.seen .control).guard p n = true)
include g

theorem popStream_hold (h : popStream (s.seen .control) (b.setWidth 3) = .hold) : exec (.popStream d b p n) s = .next s :=
  ctl_hold g (by rw [h]; rfl)

theorem popStream_done {w : W64} {t : Tile} (h : popStream (s.seen .control) (b.setWidth 3) = .done (w, t)) :
    exec (.popStream d b p n) s = s.yields .control (t.setS d w) :=
  ctl_done g (by rw [h]; rfl)

theorem popStream_trap {f : Trap} (h : popStream (s.seen .control) (b.setWidth 3) = .trap f) :
    exec (.popStream d b p n) s = .next (s.fault s.here .control f) :=
  ctl_trap g (by rw [h]; rfl)

theorem popChannel_done (c : Fin 2) (hc : b.toNat % 2 = c) {e : Ent W64} {rest : Fifo} (hq : s.cur.fifo.e[c] = e :: rest)
    (hr : e.ready = true) (hb : e.born ≠ s.cur.tcc) :
    exec (.popChannel d b p n) s = s.yields .control
      (({ (s.seen .control) with fifo := { s.cur.fifo with e := s.cur.fifo.e.set c rest } } : Tile).setS d e.val) := by
  obtain ⟨j, hj⟩ := c
  obtain rfl : b.toNat % 2 = j := hc
  rw [Fin.getElem_fin] at hq
  exact ctl_done g (by simp [seen_control, hq, headOf_cons rest hr hb])

theorem popChannel_empty (c : Fin 2) (hc : b.toNat % 2 = c) (hq : s.cur.fifo.e[c] = []) : exec (.popChannel d b p n) s = .next s := by
  obtain ⟨j, hj⟩ := c
  obtain rfl : b.toNat % 2 = j := hc
  rw [Fin.getElem_fin] at hq
  exact ctl_hold g (by simp [seen_control, hq, headOf])

/-- A push appends to a FIFO that has room, and holds where it is full. -/
theorem pushK_eq (c : Fin 5) (hc : b.toNat % 5 = c) :
    (s.cur.fifo.k[c].length < 16 → exec (.pushK a b p n) s = s.yields .control
      { (s.seen .control) with fifo := { s.cur.fifo with k := s.cur.fifo.k.set c (pushEnt s.cur.fifo.k[c] s.cur.tcc (s.cur.s a)) } }) ∧
    (16 ≤ s.cur.fifo.k[c].length → exec (.pushK a b p n) s = .next s) := by
  obtain ⟨j, hj⟩ := c
  obtain rfl : b.toNat % 5 = j := hc
  exact ⟨fun h => ctl_done g (by simpa [seen_control] using h), fun h => ctl_hold g (by simpa [seen_control] using h)⟩

theorem pushO_eq (c : Fin 2) (hc : b.toNat % 2 = c) :
    (s.cur.fifo.os[c].length < 16 → exec (.pushO a b p n) s = s.yields .control
      { (s.seen .control) with fifo := { s.cur.fifo with os := s.cur.fifo.os.set c (pushEnt s.cur.fifo.os[c] s.cur.tcc (s.cur.s a)) } }) ∧
    (16 ≤ s.cur.fifo.os[c].length → exec (.pushO a b p n) s = .next s) := by
  obtain ⟨j, hj⟩ := c
  obtain rfl : b.toNat % 2 = j := hc
  exact ⟨fun h => ctl_done g (by simpa [seen_control] using h), fun h => ctl_hold g (by simpa [seen_control] using h)⟩

theorem pushJ_eq (c : Fin 2) (hc : b.toNat % 2 = c) :
    (s.cur.fifo.j[c].length < 16 → exec (.pushJ a b p n) s = s.yields .control
      { (s.seen .control) with fifo := { s.cur.fifo with j := s.cur.fifo.j.set c (pushEnt s.cur.fifo.j[c] s.cur.tcc (s.cur.s a)) } }) ∧
    (16 ≤ s.cur.fifo.j[c].length → exec (.pushJ a b p n) s = .next s) := by
  obtain ⟨j, hj⟩ := c
  obtain rfl : b.toNat % 2 = j := hc
  exact ⟨fun h => ctl_done g (by simpa [seen_control] using h), fun h => ctl_hold g (by simpa [seen_control] using h)⟩

end

/-! The operand codes of the FIFOs: q0-q3 and q4-q7, and the channels by their numbers. -/

theorem streamCode_vector (q : Fin 4) : ((BitVec.ofNat 5 q.val).setWidth 3).toNat = q := by
  rw [BitVec.toNat_setWidth, BitVec.toNat_ofNat]; omega

theorem streamCode_scalar (q : Fin 4) : ((BitVec.ofNat 5 (4 + q.val)).setWidth 3).toNat = 4 + q := by
  rw [BitVec.toNat_setWidth, BitVec.toNat_ofNat]; omega

theorem channelCode {m : Nat} (hm : m ≤ 5) (c : Fin m) : (BitVec.ofNat 5 c.val).toNat % m = c := by
  rw [BitVec.toNat_ofNat, Nat.mod_eq_of_lt (by omega : c.val < 2 ^ 5), Nat.mod_eq_of_lt c.isLt]

theorem scalarOutCode (c : Fin 2) : (BitVec.ofNat 5 (4 + c.val)).toNat % 2 = c := by
  rw [BitVec.toNat_ofNat]; omega

theorem channelsPopAndPush : Claims.ChannelsPopAndPush := by
  refine ⟨fun s d q p n e rest g hq hr hb => ?_, fun s d q p n e rest g hq hr hb hc => ?_, fun s d q p n g hc => ?_,
    fun s d c p n e rest g => popChannel_done g c (channelCode (by decide) c), fun s d q c p n g => ⟨fun hq => ?_, fun hq => ?_⟩,
    fun s a p n g => ⟨fun c => ?_, fun c => ?_, fun c => ?_⟩⟩
  · exact popStream_done g (popStream_scalar (t := s.seen .control) q (streamCode_scalar q) hq hr hb)
  · exact popStream_done g (popStream_vector (t := s.seen .control) q (streamCode_vector q) hq hr hb hc)
  · exact popStream_trap g (popStream_unbound (t := s.seen .control) q (streamCode_vector q) hc)
  · exact popStream_hold g (popStream_scalar_empty (t := s.seen .control) q (streamCode_scalar q) hq)
  · exact popChannel_empty g c (channelCode (by decide) c) hq
  · exact pushK_eq g c (channelCode (by decide) c)
  · exact pushO_eq g c (scalarOutCode c)
  · exact pushJ_eq g c (channelCode (by decide) c)

/-- Settles O7: slots, scratchpad accesses and FIFOs, each by its own lemmas above. -/
theorem slotsScratchpadAndChannels : Obligations.SlotsScratchpadAndChannels :=
  ⟨spillSlotsReadAndWrite, scratchpadScalarAccess, channelsPopAndPush⟩

end Sys2Proof.ControlState

/-!
PROOFS of the family 02_tile.md: the values after reset (O58).
-/
namespace Sys2Proof.ResetValues
open Sys2Proof Sys2Proof.Machine

/-! Each numbered part of the machine has, after reset, the state that its `init` gives. -/

theorem pod_reset (p : Fin 320) : State.reset.pods[p] = { mode := 0, want := none } := Vector.getElem_replicate _

theorem ctx_reset (c : BitVec 6) : State.reset.ctx c = Context.init := Vector.getElem_replicate _

theorem queue_reset (q : BitVec 10) : State.reset.queue q = Queue.init := Vector.getElem_replicate _

theorem snap_reset (c : BitVec 6) : State.reset.snap c = Snap.init := Vector.getElem_replicate _

theorem range_init (i : Fin 16) : Snap.init.range i = { en := false, err := false, die := 0, base := 0, sizem1 := 0, gens := [] } :=
  Vector.getElem_replicate _

theorem port_reset (n : BitVec 4) : State.reset.port n = Port.init := Vector.getElem_replicate _

theorem switch_reset (e : Fin 4) : State.reset.switches[e] = Switch.init := Vector.getElem_replicate _

theorem bellows_reset (d : Fin 4) : State.reset.bellows d = Bellows.init := Vector.getElem_replicate _

/-- Settles O58: every part is at its `init`, and the registers of pages and of management are fields of the reset state. -/
theorem resetHoldsTheValuesGiven : Obligations.ResetHoldsTheValuesGiven := by
  refine ⟨fun p => ?_, fun c => ?_, fun q => ?_, ⟨rfl, rfl, rfl, rfl, rfl⟩, fun c i => ?_, fun n => ?_, fun e => ?_, fun d => ?_,
    ⟨rfl, rfl, rfl, rfl⟩, rfl⟩
  · rw [pod_reset]
  · rw [ctx_reset]; exact ⟨rfl, rfl, rfl, rfl, rfl, rfl⟩
  · rw [queue_reset]; exact ⟨rfl, rfl⟩
  · rw [snap_reset]; exact ⟨range_init i, rfl⟩
  · rw [port_reset]; exact ⟨rfl, rfl, rfl, rfl, rfl, rfl, rfl, rfl, rfl⟩
  · rw [switch_reset]; exact ⟨rfl, rfl⟩
  · rw [bellows_reset]; exact ⟨rfl, rfl, rfl⟩

end Sys2Proof.ResetValues

/-!
PROOFS of the family 02_tile.md: what a step runs (O56).
-/
namespace Sys2Proof.Turns
open Sys2Proof Sys2Proof.Machine Sys2Proof.Claims

/-! ## Every meaning answers a next state -/

theorem exec_next (i : Instr) (s : State) : ∃ t, exec i s = .next t := by
  cases i <;> exact ⟨_, rfl⟩

/-! ## The agenda -/

/-- The row of the table whose step an agent beside the strands takes (not compiled: the table has more rows than a compiled type has tags). -/
noncomputable def rowOf : Work → Instr
  | .eventPerform => .eventPerform
  | .loadDeliver t => .loadDeliver t
  | .storePerform t i => .storePerform t i
  | .tlbWalk t k => .tlbWalk t k
  | .streamElement t n => .streamElement t n
  | .podModeChange t => .podModeChange t
  | .islandRatioChange i => .islandRatioChange i
  | .watchdogExpiry t => .watchdogExpiry t
  | .tileResetComplete t => .tileResetComplete t
  | .tileDrainComplete t => .tileDrainComplete t
  | .groupStart slot => .groupStart slot
  | .placeLaunch l slot x0 y0 orient diemap pmode => .placeLaunch l slot x0 y0 orient diemap pmode
  | .launchComplete l => .launchComplete l
  | .preemption l => .preemption l
  | .saveComplete t => .saveComplete t
  | .priorityAging l => .priorityAging l
  | .faultRecordWrite c => .faultRecordWrite c
  | .faultRecordDrop c => .faultRecordDrop c
  | .killingComplete c => .killingComplete c
  | .hearthPoll q => .hearthPoll q
  | .dispatch q pkt => .dispatch q pkt
  | .copy q pkt => .copy q pkt
  | .layout q pkt => .layout q pkt
  | .qfence q pkt => .qfence q pkt
  | .signalPacket q pkt => .signalPacket q pkt
  | .graph q pkt => .graph q pkt
  | .qfenceJoinComplete q => .qfenceJoinComplete q
  | .drainComplete q => .drainComplete q
  | .slotReserve q => .slotReserve q
  | .copyComplete q => .copyComplete q
  | .copyFault q cause => .copyFault q cause
  | .qpostTimeout t => .qpostTimeout t
  | .barwPoll t => .barwPoll t
  | .graphLaunchRecord c => .graphLaunchRecord c
  | .snapop c => .snapop c
  | .jumpif c => .jumpif c
  | .graphSignalRecord c => .graphSignalRecord c
  | .graphEndRecord c => .graphEndRecord c
  | .flitLanding i => .flitLanding i
  | .treeNodeCombine tree d => .treeNodeCombine tree d
  | .requestAccept r => .requestAccept r
  | .requestDepart r => .requestDepart r
  | .targetService r => .targetService r
  | .replyArrive r kind stat aux data => .replyArrive r kind stat aux data
  | .remoteTimeout r => .remoteTimeout r
  | .waitLimitTimeout r => .waitLimitTimeout r
  | .heldRequestTimeout r => .heldRequestTimeout r
  | .aggElementEnter d => .aggElementEnter d
  | .aggAgeExpiry d b => .aggAgeExpiry d b
  | .aggPacketAccept d b => .aggPacketAccept d b
  | .aggStatusArrive d b failed causes => .aggStatusArrive d b failed causes
  | .ueWorkDescriptor c r => .ueWorkDescriptor c r
  | .migrationTrigger c va d => .migrationTrigger c va d
  | .migrationMoveComplete c va => .migrationMoveComplete c va
  | .freezeExpiry c va => .freezeExpiry c va
  | .snapshotOperationPerform c => .snapshotOperationPerform c
  | .rejectCompletion c => .rejectCompletion c
  | .shadowEntryFree c => .shadowEntryFree c
  | .restoreLine h line => .restoreLine h line
  | .invalidateAckTimeout c => .invalidateAckTimeout c
  | .pageCommandComplete => .pageCommandComplete
  | .update => .update
  | .attest => .attest
  | .logread => .logread
  | .rowSend n => .rowSend n
  | .repairTimeout n => .repairTimeout n
  | .laneRetrainRetry n out => .laneRetrainRetry n out
  | .switchCellWriteDone e => .switchCellWriteDone e

theorem perform_eq (w : Work) (s : State) : perform w s = exec (rowOf w) s := by
  cases w <;> rfl

theorem step_agenda {s : State} {w : Work} {rest : List Work} (h : s.agenda = w :: rest) :
    step s = exec (rowOf w) { s with agenda := rest } := by
  rw [step, h]
  exact perform_eq w _

/-! ## The phases of a turn -/

theorem step_turn {s : State} (h : s.agenda = []) : step s = turnStep s := by
  rw [step, h]

/-- What a phase does, and then the turn goes on. -/
def thenAdvance (o : Out) : Out := andThen o fun s => .next s.advance

theorem turnStep_early {s : State} (h1 : 1 ≤ s.turn.phase) (h2 : s.turn.phase ≤ 8) : turnStep s = thenAdvance (earlyStrand s) := by
  unfold turnStep
  generalize s.turn.phase = n at h1 h2
  interval_cases n <;> rfl

theorem turnStep_control {s : State} (h : s.turn.phase = 10) : turnStep s = thenAdvance (controlJudged s) := by
  rw [turnStep, h]
  rfl

theorem turnStep_late {s : State} (h1 : 11 ≤ s.turn.phase) (h2 : s.turn.phase ≤ 17) :
    turnStep s = andThen (lateStrand s) fun t => thenAdvance (if s.strandHere == .matrix then execFollowOnStart t.here t else .next t) := by
  unfold turnStep
  generalize s.turn.phase = n at h1 h2
  interval_cases n <;> rfl

theorem turnStep_access {s : State} (h1 : 18 ≤ s.turn.phase) (h2 : s.turn.phase ≤ 20) : turnStep s = thenAdvance (accessStrand s) := by
  unfold turnStep
  generalize s.turn.phase = n at h1 h2
  interval_cases n <;> rfl

theorem turnStep_fetch {s : State} (h : s.turn.phase = 22) : turnStep s = thenAdvance (fetchPhase s) := by
  rw [turnStep, h]
  rfl

/-- Control is the strand of phase 10 among the phases in which instructions are judged. -/
theorem strandHere_control {s : State} (h1 : 10 ≤ s.turn.phase) (h2 : s.turn.phase ≤ 17) : s.strandHere = .control ↔ s.turn.phase = 10 := by
  unfold State.strandHere
  generalize s.turn.phase = n at h1 h2
  interval_cases n <;> decide

/-! ## What a strand that may issue plays -/

theorem play_head {x : Tile} {k : Strand} {e : QEntry} {rest : List QEntry} (h : mayIssue x k) (hq : x.queueOf k = e :: rest) :
    x.play k = e.play k := by
  obtain ⟨hp, hpre, hu, hh, hs⟩ := h
  have hp' : (x.phase == .running || x.phase == .trapped) = true := by simpa using hp
  obtain ⟨rfl, hsup⟩ | ⟨hst, hha⟩ := hs
  · simp [Tile.play, hu, hpre, hp', hh, hsup, hq]
  · simp [Tile.play, hu, hpre, hp', hh, hst, hha, hq]

theorem play_run {x : Tile} {k : Strand} {i : Instr} (h : mayIssue x k) (hd : headIs x k i) : x.play k = .run i := by
  obtain ⟨e, rest, hq, hk, he⟩ := hd
  rw [play_head h hq, QEntry.play, hk]
  simp only [he]

/-! ## What a strand's instruction leaves -/

theorem issued_next {s t : State} {k : Strand} {i : Instr} {n : TileNo} (h : exec i s = .next t) :
    issued n k (exec i s) = .next (if ((t.tile n).str k).used then t.noteIssue n else t) := by
  rw [h]
  rfl

theorem thenAdvance_issued {s t : State} {k : Strand} {i : Instr} {n : TileNo} (h : exec i s = .next t) :
    thenAdvance (issued n k (exec i s)) = .next (goesOn t n k) := by
  rw [issued_next h]
  rfl

section
variable {s : State} {i : Instr} (hp : s.cur.play s.strandHere = .run i)
include hp

theorem earlyStrand_run (hb : s.strandHere = .control → s.cur.atBoundary = false) (hj : Machine.Instr.judged i = false)
    (ha : Machine.Instr.accesses s.strandHere i = false) : earlyStrand s = issued s.here s.strandHere (exec i s) := by
  have hb' : ¬ (s.strandHere == .control && s.cur.atBoundary) = true := by simpa using hb
  rw [earlyStrand, if_neg hb', hp]
  simp [hj, ha, playStrand]

theorem lateStrand_run (hj : Machine.Instr.judged i = true) : lateStrand s = issued s.here s.strandHere (exec i s) := by
  rw [lateStrand, hp]
  simp [hj, playStrand]

theorem accessStrand_run (ha : Machine.Instr.accesses s.strandHere i = true) : accessStrand s = issued s.here s.strandHere (exec i s) := by
  rw [accessStrand, hp]
  simp [ha, playStrand]

end

theorem earlyStrand_bad {s : State} {c : Nat} (hp : s.cur.play s.strandHere = .bad c) (hb : s.strandHere = .control → s.cur.atBoundary = false) :
    earlyStrand s = .next (s.fault s.here s.strandHere { code := c }) := by
  have hb' : ¬ (s.strandHere == .control && s.cur.atBoundary) = true := by simpa using hb
  rw [earlyStrand, if_neg hb', hp]
  rfl

/-! ## The additions that come with the vector strand's issue cycle (R343) -/

theorem vact_sems {l : List VRec} (hl : ∀ r ∈ l, ∃ i c, r.act = .sem i c) (t : Tile) :
    ∃ y, l.foldl (fun (x : Tile) r => x.vact r.act) t = { t with sync := y } := by
  induction l generalizing t with
  | nil => exact ⟨t.sync, rfl⟩
  | cons r rest ih =>
    obtain ⟨i, c, hr⟩ := hl r List.mem_cons_self
    obtain ⟨y, hy⟩ := ih (fun q hq => hl q (List.mem_cons_of_mem r hq)) (t.vact r.act)
    exact ⟨y, by rw [List.foldl_cons, hy, hr]; rfl⟩

/-- The additions change the sync objects and take their records; the rest of the tile stays. -/
theorem landSems_eq {t x : Tile} (h : t.landSems = some x) : ∃ v y, x = { t with vec := v, sync := y } := by
  unfold Tile.landSems at h
  dsimp only at h
  split at h
  · cases h
  · cases h
    refine (vact_sems (fun r hr => ?_) _).elim fun y hy => ⟨_, y, hy⟩
    have hd := (List.mem_filter.mp hr).2
    cases ha : r.act <;> simp [ha] at hd ⊢

/-- Control is judged as the TC stands, or with the additions made. -/
theorem controlJudged_cases (s : State) :
    controlJudged s = lateStrand s ∨ ∃ x, s.cur.landSems = some x ∧ controlJudged s = lateStrand (s.setTile s.here x) := by
  unfold controlJudged
  split
  next i x _ hx =>
    split
    · exact .inl rfl
    · dsimp only
      split
      · split
        · exact .inr ⟨x, hx, rfl⟩
        · exact .inl rfl
      · exact .inl rfl
  · exact .inl rfl

/-! ## An instruction of another strand than control leaves the turn where it is -/

/-- The frame that names nothing of a tile: what an issue of any strand but control keeps. -/
theorem foreign_nothing {k : Strand} (h : k ≠ .control) : Frames.Foreign k fun _ : Tile => () :=
  ⟨h, fun _ => rfl, fun _ _ => rfl, fun _ _ => rfl, fun _ _ => rfl⟩

/-- What an issue begins or does leaves the turn, the other tiles, the contexts and the queues alone. -/
abbrev LeavesTurn : Res Tile → Prop := Frames.ResKeeps (fun _ : Tile => ()) (fun _ => ()) fun _ => True

section
variable {s : State} {k : Strand}

theorem issueT_here {f : Tile → Res Tile} (h : k ≠ .control) (hf : ∀ t, LeavesTurn (f t)) : (s.issueT k f).here = s.here :=
  ((foreign_nothing h).issueT (μ := fun _ => ()) fun t => by simpa using hf t).here

theorem issue_here {f : State → Res State} (h : k ≠ .control)
    (hf : ∀ s, Frames.ResKeeps (fun _ : Tile => ()) (fun _ => ()) (Frames.Keeps (fun _ => ()) (fun _ => ()) s) (f s)) :
    (s.issue k f).here = s.here :=
  ((foreign_nothing h).issue (μ := fun _ => ()) hf).here

end

/-- A start that sets this tile leaves the turn alone. -/
theorem stay_setTile {α : Type} {P : α → Prop} (f : State → Tile) :
    Frames.ResKeeps (fun _ : Tile => ()) (fun _ => ()) P (.stay fun s => s.setTile s.here (f s)) :=
  fun _ => .setTile rfl

theorem mcExec_here {word : W32} {s t : State} (he : mcExec word s = .next t) : t.here = s.here := by
  cases he
  refine issueT_here (by decide) fun u => ?_
  split
  · dsimp only
    split
    · trivial
    · split
      · trivial
      · split
        · trivial
        · split <;> trivial
  · trivial

theorem tcExec_here {word : W32} {s t : State} (he : tcExec word s = .next t) : t.here = s.here := by
  cases he
  refine issueT_here (by decide) fun u => ?_
  dsimp only
  split
  · trivial
  · split
    · trivial
    · split
      · trivial
      · split
        · trivial
        · exact stay_setTile _

theorem xcExec_here {word : W32} {s t : State} (he : xcExec word s = .next t) : t.here = s.here := by
  cases he
  refine issue_here (by decide) fun u => ?_
  dsimp only
  split
  · trivial
  · split
    · trivial
    · split
      · trivial
      · exact stay_setTile _

theorem ycExec_here {word : W32} {s t : State} (he : ycExec word s = .next t) : t.here = s.here := by
  cases he
  refine issueT_here (by decide) fun u => ?_
  dsimp only
  split
  · trivial
  · split
    · trivial
    · exact stay_setTile _

theorem execWait_here {i : BitVec 6} {c : BitVec 16} {s t : State} (hk : s.strandHere ≠ .control) (he : execWait i c s = .next t) :
    t.here = s.here := by
  cases he
  refine issueT_here hk fun u => ?_
  split <;> trivial

theorem execFwait_here {i : BitVec 6} {c : BitVec 16} {s t : State} (hk : s.strandHere ≠ .control) (he : execFwait i c s = .next t) :
    t.here = s.here := by
  cases he
  refine issueT_here hk fun u => ?_
  split <;> trivial

theorem execRawait_here {i : BitVec 6} {c : BitVec 16} {s t : State} (hk : s.strandHere ≠ .control) (he : execRawait i c s = .next t) :
    t.here = s.here := by
  cases he
  refine issueT_here hk fun u => ?_
  split
  · trivial
  · split
    · trivial
    · split <;> trivial

theorem judged_here {i : Instr} {s t : State} (hj : Machine.Instr.judged i = true) (hk : s.strandHere ≠ .control) (he : exec i s = .next t) :
    t.here = s.here := by
  unfold Machine.Instr.judged at hj
  split at hj
  · exact execWait_here hk he
  · exact execFwait_here hk he
  · exact execRawait_here hk he
  · exact mcExec_here he
  · exact mcExec_here he
  · exact mcExec_here he
  · exact mcExec_here he
  · exact tcExec_here he
  · exact tcExec_here he
  · exact xcExec_here he
  · exact xcExec_here he
  · exact xcExec_here he
  · exact ycExec_here he
  · exact ycExec_here he
  · cases hj

theorem noteIssue_here (t : State) (n : TileNo) : (t.noteIssue n).here = t.here := rfl

/-! ## The obligation -/

theorem step_early {s : State} {i : Instr} (ha : s.agenda = []) (h1 : 1 ≤ s.turn.phase) (h2 : s.turn.phase ≤ 8)
    (hj : Machine.Instr.judged i = false) (hacc : Machine.Instr.accesses s.strandHere i = false)
    (hb : s.strandHere = .control → s.cur.atBoundary = false) (hm : mayIssue s.cur s.strandHere) (hd : headIs s.cur s.strandHere i) :
    ∃ t, exec i s = .next t ∧ step s = .next (goesOn t s.here s.strandHere) := by
  obtain ⟨t, ht⟩ := exec_next i s
  refine ⟨t, ht, ?_⟩
  rw [step_turn ha, turnStep_early h1 h2, earlyStrand_run (play_run hm hd) hb hj hacc, thenAdvance_issued ht]

theorem step_access {s : State} {i : Instr} (ha : s.agenda = []) (h1 : 18 ≤ s.turn.phase) (h2 : s.turn.phase ≤ 20)
    (hacc : Machine.Instr.accesses s.strandHere i = true) (hm : mayIssue s.cur s.strandHere) (hd : headIs s.cur s.strandHere i) :
    ∃ t, exec i s = .next t ∧ step s = .next (goesOn t s.here s.strandHere) := by
  obtain ⟨t, ht⟩ := exec_next i s
  refine ⟨t, ht, ?_⟩
  rw [step_turn ha, turnStep_access h1 h2, accessStrand_run (play_run hm hd) hacc, thenAdvance_issued ht]

section
variable {s : State} {i : Instr} (ha : s.agenda = []) (h1 : 10 ≤ s.turn.phase) (h2 : s.turn.phase ≤ 17) (hj : Machine.Instr.judged i = true)
  (hm : mayIssue s.cur s.strandHere) (hd : headIs s.cur s.strandHere i)
include ha h1 h2 hj hm hd

theorem step_late (hk : s.strandHere ≠ .control) {t : State} (ht : exec i s = .next t) :
    step s = thenAdvance (if s.strandHere == .matrix then
      execFollowOnStart s.here (if ((t.tile s.here).str s.strandHere).used then t.noteIssue s.here else t)
      else .next (if ((t.tile s.here).str s.strandHere).used then t.noteIssue s.here else t)) := by
  have h11 : 11 ≤ s.turn.phase := by
    have := mt (strandHere_control h1 h2).mpr hk
    omega
  have hh : (if ((t.tile s.here).str s.strandHere).used then t.noteIssue s.here else t).here = s.here := by
    split
    · exact (noteIssue_here t _).trans (judged_here hj hk ht)
    · exact judged_here hj hk ht
  rw [step_turn ha, turnStep_late h11 h2, lateStrand_run (play_run hm hd) hj, issued_next ht, andThen, hh]

theorem step_late_other (hk : s.strandHere ≠ .control) (hx : s.strandHere ≠ .matrix) :
    ∃ t, exec i s = .next t ∧ step s = .next (goesOn t s.here s.strandHere) := by
  obtain ⟨t, ht⟩ := exec_next i s
  refine ⟨t, ht, ?_⟩
  rw [step_late ha h1 h2 hj hm hd hk ht, if_neg (by simpa using hx)]
  rfl

theorem step_late_matrix (hk : s.strandHere = .matrix) :
    ∃ t u, exec i s = .next t ∧
      exec (.followOnStart s.here) (if ((t.tile s.here).str s.strandHere).used = true then t.noteIssue s.here else t) = .next u ∧
      step s = .next u.advance := by
  obtain ⟨t, ht⟩ := exec_next i s
  obtain ⟨u, hu⟩ := exec_next (.followOnStart s.here) (if ((t.tile s.here).str s.strandHere).used = true then t.noteIssue s.here else t)
  refine ⟨t, u, ht, hu, ?_⟩
  rw [step_late ha h1 h2 hj hm hd (by simp [hk]) ht, if_pos (by simp [hk])]
  exact congrArg thenAdvance hu

theorem step_control (hk : s.strandHere = .control) :
    ∃ s0 t, (s0 = s ∨ ∃ x, s.cur.landSems = some x ∧ s0 = s.setTile s.here x) ∧ exec i s0 = .next t ∧
      step s = .next (goesOn t s.here s.strandHere) := by
  have hs : step s = thenAdvance (controlJudged s) := by rw [step_turn ha, turnStep_control ((strandHere_control h1 h2).mp hk)]
  obtain hc | ⟨x, hx, hc⟩ := controlJudged_cases s
  · obtain ⟨t, ht⟩ := exec_next i s
    exact ⟨s, t, .inl rfl, ht, by rw [hs, hc, lateStrand_run (play_run hm hd) hj, thenAdvance_issued ht]⟩
  · obtain ⟨t, ht⟩ := exec_next i (s.setTile s.here x)
    refine ⟨s.setTile s.here x, t, .inr ⟨x, hx, rfl⟩, ht, ?_⟩
    have hp : (s.setTile s.here x).cur.play .control = .run i := by
      obtain ⟨v, y, rfl⟩ := landSems_eq hx
      rw [hk] at hm hd
      rw [s.cur_setTile_here]
      exact play_run hm hd
    rw [hs, hc, lateStrand_run (hk ▸ hp) hj]
    exact thenAdvance_issued ht

end

theorem step_bad {s : State} {e : QEntry} {rest : List QEntry} (ha : s.agenda = []) (h1 : 1 ≤ s.turn.phase) (h2 : s.turn.phase ≤ 8)
    (hb : s.strandHere = .control → s.cur.atBoundary = false) (hm : mayIssue s.cur s.strandHere)
    (hq : s.cur.queueOf s.strandHere = e :: rest) {c : Nat} (hp : e.play s.strandHere = .bad c) :
    step s = .next (s.fault s.here s.strandHere { code := c }).advance := by
  rw [step_turn ha, turnStep_early h1 h2, earlyStrand_bad ((play_head hm hq).trans hp) hb]
  rfl

theorem step_fetch {s : State} (ha : s.agenda = []) (hp : s.turn.phase = 22) : step s = thenAdvance (fetchPhase s) := by
  rw [step_turn ha, turnStep_fetch hp]

/-! Fetch's row: that of the directive on its line, or FETCH_LINE. -/

section
variable {s : State} (hu : s.cur.isSup = false)
include hu

theorem fetchPhase_loop {l : BitVec 3} {src : BitVec 1} {n c : BitVec 12} (h : s.cur.nextDirective = some (.loop l src n c)) :
    fetchPhase s = exec (.loop l src n c) s := by
  simp only [fetchPhase, hu, Bool.false_eq_true, if_false, h]

theorem fetchPhase_nopl (h : s.cur.nextDirective = some .nopl) : fetchPhase s = exec .nopl s := by
  simp only [fetchPhase, hu, Bool.false_eq_true, if_false, h]

theorem fetchPhase_line (h : s.cur.nextDirective = none) : fetchPhase s = exec (.fetchLine s.here) s := by
  simp only [fetchPhase, hu, Bool.false_eq_true, if_false, h]
  rfl

end

theorem thenAdvance_exec (i : Instr) (s : State) : ∃ t, exec i s = .next t ∧ thenAdvance (exec i s) = .next t.advance := by
  obtain ⟨t, ht⟩ := exec_next i s
  exact ⟨t, ht, congrArg thenAdvance ht⟩

/-- Settles O56: each group of phases runs the instruction that `play_run` finds, and the agenda's rows are those of `rowOf`. -/
theorem stepRunsTheDecodedInstruction : Obligations.StepRunsTheDecodedInstruction := by
  refine ⟨fun s i ha h1 h2 => step_early ha h1 h2, fun s i ha h1 h2 hj hm hd => ⟨?_, ?_, fun hk hn => ?_, fun x hk hx => ?_⟩,
    fun s i ha h1 h2 => step_access ha h1 h2, fun s e rest ha h1 h2 hb hm hq hk => ⟨fun he => ?_, fun he => ?_⟩,
    fun s ha hp hu => ⟨fun l src n c hn => ?_, fun hn => ?_, fun hn => ?_⟩, rowOf, fun w rest s => step_agenda⟩
  · exact step_late_other ha h1 h2 hj hm hd
  · exact step_late_matrix ha h1 h2 hj hm hd
  · obtain ⟨s0, t, rfl | ⟨x, hx, -⟩, ht⟩ := step_control ha h1 h2 hj hm hd hk
    · exact ⟨t, ht⟩
    · rw [hn] at hx
      cases hx
  · obtain ⟨s0, t, h0, ht⟩ := step_control ha h1 h2 hj hm hd hk
    refine ⟨s0, t, h0.imp_right ?_, ht⟩
    rintro ⟨y, hy, rfl⟩
    rw [hx] at hy
    rw [Option.some.inj hy]
  · exact step_bad ha h1 h2 hb hm hq (by simp only [QEntry.play, hk, he, cIllegalInsn])
  · exact step_bad ha h1 h2 hb hm hq (by simp only [QEntry.play, hk, he, cIllegalExt])
  · rw [step_fetch ha hp, fetchPhase_loop hu hn]
    exact thenAdvance_exec _ s
  · rw [step_fetch ha hp, fetchPhase_nopl hu hn]
    exact thenAdvance_exec _ s
  · rw [step_fetch ha hp, fetchPhase_line hu hn]
    exact thenAdvance_exec _ s

end Sys2Proof.Turns

/-!
PROOFS of the family 02_tile.md: fetch (O37).
-/
namespace Sys2Proof.Fetching
open Sys2Proof Sys2Proof.Machine

/-! ## The lanes of a line -/

/-- Two lists of lanes have the same directives, and as many instructions and extensions without a target. -/
structure SameShape (a b : Lanes) : Prop where
  insns : a.insns.length = b.insns.length
  orphans : a.orphans.length = b.orphans.length
  dirs : a.dirs = b.dirs

theorem isEmpty_congr {α : Type} {l l' : List α} (h : l.length = l'.length) : l.isEmpty = l'.isEmpty := by
  rw [Bool.eq_iff_iff, List.isEmpty_iff_length_eq_zero, List.isEmpty_iff_length_eq_zero, h]

theorem addExt_length (ls : List (Strand × QEntry)) (w : W32) (gap : Bool) : (addExt ls w gap).length = ls.length := by
  unfold addExt
  split
  next k e rest h => simpa using (congrArg List.length h).symm
  next h => simpa using congrArg List.length h.symm

/-- The shape of a line's lanes depends neither on its place nor on the loop indices. -/
theorem takeLanes_shape (l : BitVec 256) (pc pc' : W64) (ix ix' : Vector (BitVec 16) 6) (ns : List Nat) (gap : Bool) {a b : Lanes}
    (h : SameShape a b) : SameShape (takeLanes l pc ix ns gap a) (takeLanes l pc' ix' ns gap b) := by
  induction ns generalizing gap a b with
  | nil => exact h
  | cons n rest ih =>
    obtain ⟨hi, ho, hd⟩ := h
    simp only [takeLanes, isEmpty_congr hi]
    cases tagStrand (lineTag l n) with
    | some k => exact ih _ ⟨by simpa using hi, ho, hd⟩
    | none =>
      dsimp only
      split
      · split
        · exact ih _ ⟨hi, by simpa using ho, hd⟩
        · exact ih _ ⟨by simpa [addExt_length] using hi, ho, hd⟩
      · split
        · exact ih _ ⟨hi, ho, by simpa using hd⟩
        · exact ih _ ⟨hi, ho, hd⟩

theorem lanesOf_shape (l : BitVec 256) (pc pc' : W64) (ix ix' : Vector (BitVec 16) 6) : SameShape (lanesOf l pc ix) (lanesOf l pc' ix') :=
  takeLanes_shape l pc pc' ix ix' _ _ ⟨rfl, rfl, rfl⟩

/-- The line that fetch takes, and its lanes in the tile's present loop indices. -/
abbrev lineNo (t : Tile) : Nat := t.fetch.addr.toNat / 32

abbrev lanesNow (t : Tile) (l : BitVec 256) : Lanes := lanesOf l (BitVec.ofNat 64 (32 * lineNo t)) (t.fetch.level.map fun x => x.ix)

theorem nextDirective_eq {t : Tile} {l : BitVec 256} (h : t.nextLine = some l) :
    t.nextDirective = (lanesNow t l).dirs.head?.bind decodeDirective := by
  rw [Tile.nextDirective, h, (lanesOf_shape l _ 0 _ (Vector.replicate 6 0)).dirs]

/-- A line with NOPL carries nothing else (R84). -/
theorem lanes_of_nopl {t : Tile} {l : BitVec 256} (hok : lineOk l = true) (hn : t.nextLine = some l) (hd : t.nextDirective = some .nopl) :
    (lanesNow t l).insns = [] ∧ (lanesNow t l).orphans = [] := by
  have hs := lanesOf_shape l (BitVec.ofNat 64 (32 * lineNo t)) 0 (t.fetch.level.map fun x => x.ix) (Vector.replicate 6 0)
  rw [Tile.nextDirective, hn, Option.bind_eq_some_iff] at hd
  obtain ⟨w, hw, hdec⟩ := hd
  have hmem : ((lanesOf l 0 (Vector.replicate 6 0)).dirs.map decodeDirective).contains (some .nopl) = true := by
    rw [List.contains_iff_mem, ← hdec]
    exact List.mem_map_of_mem (List.mem_of_mem_head? hw)
  simp only [lineOk, hmem, if_true, Bool.and_eq_true] at hok
  obtain ⟨⟨-, hi, ho⟩, -⟩ := hok
  exact ⟨List.isEmpty_iff.mp ((isEmpty_congr hs.insns).trans hi), List.isEmpty_iff.mp ((isEmpty_congr hs.orphans).trans ho)⟩

/-! ## Delivery (R22, R73, R75) -/

theorem str_modStr_same (t : Tile) (k : Strand) (f : StrandState → StrandState) : (t.modStr k f).str k = f (t.str k) := by
  simp [Tile.str, Tile.modStr]

/-- `u` is `t` with the entries `f k` behind the queue of each strand `k` that has not halted. -/
structure Appends (t u : Tile) (f : Strand → List QEntry) : Prop where
  rest : u = { t with strand := u.strand }
  halted : ∀ k, (u.str k).halted = (t.str k).halted
  queue : ∀ k, (u.str k).queue = if (t.str k).halted then (t.str k).queue else (t.str k).queue ++ f k

theorem Appends.refl (t : Tile) : Appends t t fun _ => [] := ⟨rfl, fun _ => rfl, fun k => by simp⟩

theorem Appends.trans {t u v : Tile} {f g : Strand → List QEntry} (h : Appends t u f) (h' : Appends u v g) :
    Appends t v fun k => f k ++ g k where
  rest := by rw [h'.rest, h.rest]
  halted k := (h'.halted k).trans (h.halted k)
  queue k := by
    rw [h'.queue, h.halted, h.queue]
    split <;> simp

theorem Appends.deliver (t : Tile) (k : Strand) (es : List QEntry) : Appends t (t.deliver k es) fun j => if j = k then es else [] := by
  unfold Tile.deliver
  split
  next hk =>
    refine ⟨rfl, fun _ => rfl, fun j => ?_⟩
    by_cases hj : j = k
    · simp [hj, hk]
    · simp [hj]
  next hk =>
    refine ⟨rfl, fun j => ?_, fun j => ?_⟩
    · by_cases hj : j = k
      · rw [hj, str_modStr_same]
      · rw [Frames.str_modStr_other t hj]
    · by_cases hj : j = k
      · simp [hj, str_modStr_same, hk]
      · simp [Frames.str_modStr_other t hj, hj]

theorem Appends.deliverInsns (es : List (Strand × QEntry)) (t : Tile) :
    Appends t (es.foldl (fun t e => t.deliver e.1 [e.2]) t) fun k => (es.filter fun e => e.1 == k).map fun e => e.2 := by
  induction es generalizing t with
  | nil => exact .refl t
  | cons e rest ih =>
    have h := (Appends.deliver t e.1 [e.2]).trans (ih (t.deliver e.1 [e.2]))
    refine ⟨h.rest, h.halted, fun k => (h.queue k).trans ?_⟩
    by_cases hk : e.1 = k
    · simp [hk]
    · simp [hk, Ne.symm hk]

/-- The place of ILLEGAL-EXT goes behind what the control strand has (R76). -/
theorem Appends.deliverOrphans {t : Tile} {es : List QEntry} (h : es = [] ∨ (t.str .control).halted = false) :
    Appends t (t.deliverOrphans es) fun k => if k = .control then es.take 1 else [] := by
  cases es with
  | nil => simpa [Tile.deliverOrphans] using Appends.refl t
  | cons e rest =>
    have hh : (t.str .control).halted = false := h.resolve_left (by simp)
    simpa [Tile.deliverOrphans, hh] using Appends.deliver t .control [e]

/-- The branch that the control strand receives with a line's lanes. -/
def receivesBranch (t : Tile) (ls : Lanes) : Prop :=
  (t.str .control).halted = false ∧ ∃ e ∈ ls.insns, e.1 = .control ∧ isBranchWord e.2.word = true

section
variable {t : Tile} {n : Nat} {ls : Lanes} {open_ : Fetch → Fetch} {skip : Nat}

/-- What delivering a line comes to: its entries are appended, and fetch goes on from `open_` or holds for a branch. -/
theorem deliverLine_eq (ho : ls.orphans = [] ∨ (t.str .control).halted = false) :
    ∃ u, Appends t u (fun k => (if k = .control then ls.orphans.take 1 else []) ++ (ls.insns.filter fun e => e.1 == k).map fun e => e.2) ∧
      t.deliverLine n ls open_ skip = { u with fetch := (t.deliverLine n ls open_ skip).fetch } ∧
      (receivesBranch t ls → (t.deliverLine n ls open_ skip).fetch = { open_ t.fetch with
        addr := BitVec.ofNat 64 (32 * (n + skip + 1)), branch := some { line := BitVec.ofNat 64 (32 * n), skip := skip, issued := none } }) ∧
      (¬ receivesBranch t ls → (t.deliverLine n ls open_ skip).fetch = (open_ t.fetch).next (n + skip)) := by
  have h := (Appends.deliverOrphans ho).trans (.deliverInsns ls.insns (t.deliverOrphans ls.orphans))
  have hf : (ls.insns.foldl (fun t e => t.deliver e.1 [e.2]) (t.deliverOrphans ls.orphans)).fetch = t.fetch := by rw [h.rest]
  have hb : (!(t.str .control).halted && ls.insns.any fun e => e.1 == .control && isBranchWord e.2.word) = true ↔ receivesBranch t ls := by
    simp [receivesBranch]
  refine ⟨_, h, rfl, fun hr => ?_, fun hr => ?_⟩
  · simp only [Tile.deliverLine, hb.mpr hr, if_true, hf]
  · simp only [Tile.deliverLine, hf, if_neg (mt hb.mp hr)]

theorem deliverLine_delivered (ho : ls.orphans = [] ∨ (t.str .control).halted = false) :
    Claims.delivered t (t.deliverLine n ls open_ skip) ls := by
  obtain ⟨u, h, he, -⟩ := deliverLine_eq (n := n) (open_ := open_) (skip := skip) ho
  rw [he]
  refine ⟨fun k => (h.queue k).trans (by rw [List.append_assoc]), ?_⟩
  rw [h.rest]
  exact ⟨rfl, rfl, rfl, rfl⟩

theorem deliverLine_fetchAfter (ho : ls.orphans = [] ∨ (t.str .control).halted = false) :
    Claims.fetchAfter t (t.deliverLine n ls open_ skip) ls (open_ t.fetch) n skip := by
  obtain ⟨u, -, -, hb, hn⟩ := deliverLine_eq (n := n) (open_ := open_) (skip := skip) ho
  exact ⟨hb, hn⟩

end

/-! ## One TC of user fetch -/

theorem fetchUser_held {t : Tile} (h : t.canFetch = false) : t.fetchUser = t := by
  simp [Tile.fetchUser, h]

section
variable {t : Tile} {line : BitVec 256} (hc : t.canFetch = true)
include hc

theorem fetchUser_none (hn : t.nextLine = none) : t.fetchUser = t.illegalLine t.fetch.addr := by
  rw [Tile.nextLine] at hn
  simp [Tile.fetchUser, hc, hn]

variable (hn : t.nextLine = some line)
include hn

theorem fetchUser_badLine (hok : lineOk line = false) : t.fetchUser = t.illegalLine t.fetch.addr := by
  rw [Tile.nextLine] at hn
  simp [Tile.fetchUser, hc, hn, hok]

variable (hok : lineOk line = true)
include hok

theorem fetchUser_line (hr : t.roomFor (lanesNow t line) = true)
    (hd : ∀ l src len c, (lanesNow t line).dirs.head?.bind decodeDirective ≠ some (.loop l src len c)) :
    t.fetchUser = t.deliverLine (lineNo t) (lanesNow t line) id 0 := by
  rw [Tile.nextLine] at hn
  simp only [Tile.fetchUser, hc, hn, hok, hr, Bool.not_true, Bool.false_eq_true, if_false]

variable {l : BitVec 3} {src : BitVec 1} {len c : BitVec 12} (hd : t.nextDirective = some (.loop l src len c))
include hd

theorem fetchUser_badLoop (h : t.fetch.loopCount l src c = none ∨ t.fetch.loopOk (lineNo t) l len.toNat = false) :
    t.fetchUser = t.illegalLine t.fetch.addr := by
  rw [nextDirective_eq hn] at hd
  rw [Tile.nextLine] at hn
  simp only [Tile.fetchUser, hc, hn, hok, hd, Bool.not_true, Bool.false_eq_true, if_false]
  obtain h | h := h
  · rw [h]
  · cases t.fetch.loopCount l src c with
    | none => rfl
    | some count => simp [h]

theorem fetchUser_loop {count : Nat} (hcount : t.fetch.loopCount l src c = some count) (hl : t.fetch.loopOk (lineNo t) l len.toNat = true)
    (hr : t.roomFor (lanesNow t line) = true) :
    t.fetchUser = t.deliverLine (lineNo t) (lanesNow t line) (fun f => f.openLoop (lineNo t) l len.toNat count)
      (if count = 0 then len.toNat else 0) := by
  rw [nextDirective_eq hn] at hd
  rw [Tile.nextLine] at hn
  simp only [Tile.fetchUser, hc, hn, hok, hd, hcount, Bool.not_true, Bool.false_eq_true, if_false]
  simp [hl, hr]

end


/-! ## Fetch of the handler (R256) -/

/-- What a line of the handler's code leaves: its entries are queued, and fetch goes on unless one is a branch. -/
theorem fetchSup_line {t : Tile} {code : List (BitVec 256)} {line : BitVec 256} (he : t.sfetch.ended = false) (hs : t.sfetch.stopped = false)
    (hb : t.sfetch.branch = none) (hnb : t.sfetch.notBefore.toNat ≤ t.tcc.toNat) (hl : (code.take 512)[t.sfetch.addr.toNat / 32]? = some line)
    (hok : supLineOk line = true) :
    let n := t.sfetch.addr.toNat / 32
    let ls := lanesOf line (BitVec.ofNat 64 (32 * n)) (t.fetch.level.map fun x => x.ix)
    entriesIn t.ctl.squeue + ls.insns.length ≤ 16 →
    t.fetchSup code = { t with
      sfetch := if ls.insns.any fun e => isBranchWord e.2.word then
          { t.sfetch with branch := some { line := BitVec.ofNat 64 (32 * n), skip := 0, issued := none } }
        else { t.sfetch with addr := BitVec.ofNat 64 (32 * (n + 1)), ended := lineLast line }
      ctl := { t.ctl with squeue := t.ctl.squeue ++ (ls.orphans.take 1 ++ ls.insns.map fun e => e.2) } } := by
  intro n ls hroom
  have hule : t.sfetch.notBefore.ule t.tcc = true := by simpa [BitVec.ule] using hnb
  simp only [Tile.fetchSup, he, hs, hb, hule, hl, hok, Option.isSome_none, Bool.or_false, Bool.not_true, Bool.false_eq_true, if_false]
  exact if_neg (by simpa [queueDepth] using hroom)

/-! ## Lines that break a rule (R100) -/

theorem faultAt_fetch (t : Tile) (k : Strand) (f : Trap) (pc : W64) : (t.faultAt k f pc).fetch = t.fetch := by
  unfold Tile.faultAt
  dsimp only
  split <;> rfl

theorem illegalLine_word (a : W64) : Trap.word { code := cIllegalLine, faddr := a } = Claims.causeWord 0x03 0 0 := by
  simp [Trap.word, Claims.causeWord, cIllegalLine]

theorem illegalLine_stopped (t : Tile) (a : W64) : (t.illegalLine a).fetch.stopped = true := by
  unfold Tile.illegalLine
  dsimp only
  split
  · rw [faultAt_fetch]
  · rw [(Appends.deliver _ _ _).rest]

theorem illegalLine_delivers {t : Tile} (h : (t.str .control).halted = false) (a : W64) :
    ∃ e, ((t.illegalLine a).str .control).queue = (t.str .control).queue ++ [e] ∧ e.kind = .badLine a := by
  refine ⟨{ kind := .badLine a, word := 0, exts := [], misplaced := false, pc := a + 4, ix := t.fetch.level.map fun l => l.ix }, ?_, rfl⟩
  unfold Tile.illegalLine
  dsimp only
  split
  next hh => exact absurd hh (Bool.eq_false_iff.mp h)
  next hh => exact ((Appends.deliver _ _ _).queue _).trans (if_neg hh)

theorem faultAt_user {t : Tile} (hu : t.isSup = false) (k : Strand) (f : Trap) (pc : W64) :
    ((t.faultAt k f pc).str k).reached = some t.tcc ∧
      ((t.faultAt k f pc).str k).fault = { cause := f.word, fpc := pc, faddr := f.faddr } := by
  simp [Tile.faultAt, hu, str_modStr_same]

/-- A control strand that has halted takes the fault at once (log entry 57). -/
theorem illegalLine_faults {t : Tile} (h : (t.str .control).halted = true) (hu : t.isSup = false) (a : W64) :
    ((t.illegalLine a).str .control).reached = some t.tcc ∧
      ((t.illegalLine a).str .control).fault = { cause := Claims.causeWord 0x03 0 0, fpc := a + 4, faddr := a } := by
  unfold Tile.illegalLine
  dsimp only
  split
  next =>
    rw [← illegalLine_word a]
    exact faultAt_user (t := { t with fetch := { t.fetch with stopped := true } }) hu ..
  next hh => exact absurd h hh

/-! ## Loops (R80-R82) -/

theorem find?_of_pairwise {α : Type} {r : α → α → Prop} {p : α → Bool} {i : α} {l : List α} (hl : l.Pairwise r)
    (hi : i ∈ l) (hp : p i = true) (hr : ∀ j, r j i → p j = false) : l.find? p = some i := by
  induction hl with
  | nil => simp at hi
  | @cons a l ha _ ih =>
    obtain rfl | hi := List.mem_cons.mp hi
    · simp [hp]
    · rw [List.find?_cons_of_neg (by simp [hr a (ha i hi)]), ih hi]

theorem endsAt_iff {f : Fetch} {n : Nat} {i : Fin 6} :
    (f.level[i].active && f.level[i].first + f.level[i].length == n + 1) = true ↔ Claims.endsAt f n i := by
  simp [Claims.endsAt]

theorem innermostEnding_none {f : Fetch} {n : Nat} (h : ∀ i, ¬ Claims.endsAt f n i) : f.innermostEnding n = none :=
  List.find?_eq_none.mpr fun i _ => mt endsAt_iff.mp (h i)

theorem innermostEnding_of_endsAt {f : Fetch} {n : Nat} {i : Fin 6} (hi : Claims.endsAt f n i) (hj : ∀ j, i < j → ¬ Claims.endsAt f n j) :
    f.innermostEnding n = some i :=
  find?_of_pairwise (r := (· > ·)) (by decide) (by simp) (endsAt_iff.mpr hi)
    fun j hij => Bool.eq_false_iff.mpr (mt endsAt_iff.mp (hj j hij))

theorem endsAt_of_innermostEnding {f : Fetch} {n : Nat} {i : Fin 6} (h : f.innermostEnding n = some i) : Claims.endsAt f n i :=
  endsAt_iff.mp (List.find?_some (p := fun i : Fin 6 => f.level[i].active && f.level[i].first + f.level[i].length == n + 1) h)

/-- The levels that are open. -/
def openLevels (f : Fetch) : Finset (Fin 6) := Finset.univ.filter fun i => f.level[i].active = true

/-- `f` with level `i` ended. -/
abbrev endLevel (f : Fetch) (i : Fin 6) : Fetch := { f with level := f.level.set i { f.level[i] with active := false } }

theorem openLevels_endLevel (f : Fetch) (i : Fin 6) : openLevels (endLevel f i) = (openLevels f).erase i := by
  ext j
  by_cases h : j = i
  · simp [openLevels, h]
  · have : (i : Nat) ≠ j := fun e => h (Fin.ext e.symm)
    simp [openLevels, h, Vector.getElem_set, this]

theorem card_endLevel {f : Fetch} {n : Nat} {i : Fin 6} (h : f.innermostEnding n = some i) :
    (openLevels (endLevel f i)).card + 1 = (openLevels f).card := by
  rw [openLevels_endLevel]
  exact Finset.card_erase_add_one (by simpa [openLevels] using (endsAt_of_innermostEnding h).1)

/-- Fuel beyond the number of open levels changes nothing. -/
theorem wrap_succ {n : Nat} (fuel : Nat) (f : Fetch) (h : (openLevels f).card < fuel) : f.wrap n (fuel + 1) = f.wrap n fuel := by
  induction fuel generalizing f with
  | zero => simp at h
  | succ fuel ih =>
    rw [Fetch.wrap, Fetch.wrap]
    cases hi : f.innermostEnding n with
    | none => rfl
    | some i =>
      have := card_endLevel hi
      simp only [ih (endLevel f i) (by omega)]

theorem next_of_none {f : Fetch} {n : Nat} (h : ∀ i, ¬ Claims.endsAt f n i) :
    f.next n = { f with addr := BitVec.ofNat 64 (32 * (n + 1)), ended := f.ended || f.lastAt n } := by
  simp only [Fetch.next, Fetch.wrap, innermostEnding_none h]
  cases f.lastAt n <;> simp

section
variable {f : Fetch} {n : Nat} {i : Fin 6} (hi : Claims.endsAt f n i) (hj : ∀ j, i < j → ¬ Claims.endsAt f n j)
include hi hj

theorem next_of_again (hc : (f.level[i]).ix.toNat + 1 < (f.level[i]).count) :
    f.next n = { f with
      addr := BitVec.ofNat 64 (32 * (f.level[i]).first), level := f.level.set i { f.level[i] with ix := (f.level[i]).ix + 1 } } := by
  simp only [Fetch.next, Fetch.wrap, innermostEnding_of_endsAt hi hj, if_pos hc]
  simp

theorem next_of_done (hc : (f.level[i]).count ≤ (f.level[i]).ix.toNat + 1) : f.next n = (endLevel f i).next n := by
  have hin := innermostEnding_of_endsAt hi hj
  have hcard := card_endLevel hin
  have hle : (openLevels f).card ≤ 6 := Finset.card_le_univ _
  have hw : f.wrap n 7 = (endLevel f i).wrap n 7 := by
    rw [wrap_succ 6 (endLevel f i) (by omega), Fetch.wrap, hin]
    exact if_neg (Nat.not_lt.mpr hc)
  rw [Fetch.next, Fetch.next, hw]
  rfl

end

theorem loopOk_iff (f : Fetch) (n : Nat) (l : BitVec 3) (len : Nat) : f.loopOk n l len = true ↔
    l.toNat < 6 ∧ len ≠ 0 ∧ n + len < f.code.length ∧
      ∀ i : Fin 6, (f.level[i]).active = true → i.val < l.toNat ∧ n + len < (f.level[i]).first + (f.level[i]).length := by
  simp only [Fetch.loopOk, Bool.and_eq_true, decide_eq_true_eq, List.all_eq_true, List.mem_finRange, true_implies, Bool.or_eq_true,
    Bool.not_eq_true', and_assoc]
  refine and_congr_right fun _ => and_congr_right fun _ => and_congr_right fun _ => forall_congr' fun i => ?_
  cases f.level[i].active <;> simp

/-! ## The steps of fetch -/

theorem exec_fetchLine_user {s : State} {t : TileNo} (h : (s.tile t).isSup = false) :
    exec (.fetchLine t) s = .next (s.setTile t (s.tile t).fetchUser) := by
  show Host.Outcome.next (s.setTile t (if (s.tile t).isSup then _ else _)) = _
  rw [h, if_neg Bool.false_ne_true]

theorem exec_fetchLine_sup {s : State} {t : TileNo} (h : (s.tile t).isSup = true) :
    exec (.fetchLine t) s = .next (s.setTile t ((s.tile t).fetchSup s.supCode)) := by
  show Host.Outcome.next (s.setTile t (if (s.tile t).isSup then _ else _)) = _
  rw [if_pos h]

theorem exec_loop {s : State} {l : BitVec 3} {src : BitVec 1} {len c : BitVec 12} (h : s.cur.nextDirective = some (.loop l src len c)) :
    exec (.loop l src len c) s = exec (.fetchLine s.here) s := by
  show Host.Outcome.next (if _ then _ else _) = .next _
  rw [if_pos (by simp [h])]

theorem exec_nopl {s : State} (h : s.cur.nextDirective = some .nopl) : exec .nopl s = exec (.fetchLine s.here) s := by
  show Host.Outcome.next (if _ then _ else _) = .next _
  rw [if_pos (by simp [h])]

theorem exec_resultLanding {s : State} {t : TileNo} {k : Strand} (hp : (s.tile t).phase = .running ∨ (s.tile t).phase = .trapped)
    (hq : (s.tile t).queueOf k = []) (ha : ((s.tile t).str k).halted = false ∨ k = .vector ∨ (k = .control ∧ (s.tile t).isSup = true))
    (hs : ((s.tile t).str k).stopped = false) (hu : ((s.tile t).str k).used = false) :
    exec (.resultLanding t k) s = .next (s.setTile t (((s.tile t).tick k).countUp k)) := by
  show Host.Outcome.next (s.setTile t (if _ then _ else _)) = _
  rw [if_pos]
  simpa [hq, hs, hu, or_assoc] using ⟨ha, hp⟩

/-- Settles O37: `fetchUser` by the line it takes, `fetchSup_line` for the handler, and the loop rules of `Fetch.next` on the open level that
ends with the line. -/
theorem fetchTakesLines : Obligations.FetchTakesLines := by
  unfold Obligations.FetchTakesLines
  refine ⟨?line, ?loop, ?nopl, ?illegal, ?held, ?sup, fun _ _ => next_of_none, fun _ _ _ hi hj => ⟨next_of_again hi hj, next_of_done hi hj⟩,
    ?openLoop, loopOk_iff, ?count, fun _ _ _ => exec_resultLanding⟩
  case line =>
    intro s t line hu hc hn hok x n ls hr ho hd
    refine ⟨_, exec_fetchLine_user hu, ?_⟩
    rw [State.tile_setTile_same, fetchUser_line hc hn hok hr hd]
    exact ⟨deliverLine_delivered ho, deliverLine_fetchAfter ho, fun m hm => State.tile_setTile_other _ _ hm⟩
  case loop =>
    intro s l src len c count line hd hu hc hn hok x n ls hcount hl hr ho
    have he := exec_fetchLine_user (s := s) (t := s.here) hu
    refine ⟨_, (exec_loop hd).trans he, he, ?_⟩
    rw [State.cur_setTile_here]
    rw [show (s.tile s.here).fetchUser = _ from fetchUser_loop hc hn hok hd hcount hl hr]
    exact ⟨deliverLine_delivered ho, deliverLine_fetchAfter ho⟩
  case nopl =>
    intro s line hd hu hc hn hok
    obtain ⟨hi, ho⟩ := lanes_of_nopl hok hn hd
    have hline : s.cur.fetchUser = _ := fetchUser_line hc hn hok (by simp [Tile.roomFor, hi]) fun l src len c h => by
      rw [← nextDirective_eq hn, hd] at h
      exact absurd h (by simp)
    refine ⟨_, (exec_nopl hd).trans (exec_fetchLine_user hu), ?_⟩
    rw [State.cur_setTile_here, show (s.tile s.here).fetchUser = _ from hline]
    refine ⟨fun k => ?_, (deliverLine_fetchAfter (.inl ho)).2 fun ⟨_, e, he, _⟩ => by simp [hi] at he⟩
    rw [(deliverLine_delivered (.inl ho)).1 k]
    simp [hi, ho]
  case illegal =>
    intro s t hu hc x n hbad
    have hi : x.fetchUser = x.illegalLine x.fetch.addr := by
      obtain hn | ⟨l, hn, hok⟩ | ⟨y, l, src, len, c, hn, hok, hd, hl⟩ := hbad
      · exact fetchUser_none hc hn
      · exact fetchUser_badLine hc hn hok
      · exact fetchUser_badLoop hc hn hok hd hl
    refine ⟨_, exec_fetchLine_user hu, ?_⟩
    rw [State.tile_setTile_same, hi]
    refine ⟨illegalLine_stopped .., fun hh => illegalLine_delivers hh _, fun hh => ?_⟩
    obtain ⟨hr, hf⟩ := illegalLine_faults hh hu x.fetch.addr
    exact ⟨by rw [hr]; rfl, hf⟩
  case held =>
    intro s t hu hc
    rw [exec_fetchLine_user hu, fetchUser_held hc, State.setTile_tile]
  case sup =>
    intro s t line hsup x n ls he hs hb hnb hl hok hroom
    refine ⟨_, exec_fetchLine_sup hsup, ?_⟩
    rw [State.tile_setTile_same, fetchSup_line he hs hb hnb hl hok hroom]
    refine ⟨rfl, rfl, fun hw => ?_⟩
    dsimp only
    rw [if_neg (by simpa using hw)]
    exact ⟨rfl, rfl⟩
  case openLoop =>
    intro f n l len count h hc
    rw [Fetch.openLoop, if_neg hc.ne', dif_pos h]
  case count =>
    intro f l c e he hk
    simp [Fetch.loopCount, he, hk]

end Sys2Proof.Fetching

/-!
PROOFS of the family 02_tile.md: the matrix strand (O33).
-/
namespace Sys2Proof.MatrixStrand
open Sys2Proof Sys2Proof.Machine

/-! ## Words of commands -/

theorem fld_eq (w : W32) (i n : Nat) : fld w.toNat i n = (w.extractLsb' i n).toNat := by
  simp [fld, BitVec.extractLsb'_toNat, Nat.shiftRight_eq_div_pow]

theorem getLsbD_eq (w : W32) (i : Nat) : w.getLsbD i = (w.extractLsb' i 1 == 1) := by
  rw [Bool.eq_iff_iff, beq_iff_eq]
  constructor
  · intro h
    ext j hj
    obtain rfl : j = 0 := by omega
    simpa using h
  · intro h
    simpa using congrArg (·.getLsbD 0) h

section
variable (op w r : BitVec 6) (c l a b : BitVec 1) (f g : BitVec 4)

/-- The fields of fields in a row. -/
theorem extract_fields :
    let x := op ++ w ++ r ++ c ++ l ++ a ++ b ++ f ++ g ++ 0#2
    x.extractLsb' 26 6 = op ∧ x.extractLsb' 20 6 = w ∧ x.extractLsb' 14 6 = r ∧ x.extractLsb' 13 1 = c ∧ x.extractLsb' 12 1 = l ∧
      x.extractLsb' 11 1 = a ∧ x.extractLsb' 10 1 = b ∧ x.extractLsb' 6 4 = f ∧ x.extractLsb' 2 4 = g := by
  simp (disch := decide) only [BitVec.extractLsb'_append_eq_of_le, BitVec.extractLsb'_append_eq_of_add_le, -Nat.reduceAdd]
  simp

/-- The fields of a word are those that it was made of. -/
theorem mcOf_mcWord : mcOf (mcWord op w r c l a b f g) = Claims.mc op.toNat w r c l a b f g := by
  obtain ⟨hop, hw, hr, hc, hl, ha, hb, hf, hg⟩ := extract_fields op w r c l a b f g
  have hop : (mcWord op w r c l a b f g).extractLsb' 26 6 = op := hop
  have hw : (mcWord op w r c l a b f g).extractLsb' 20 6 = w := hw
  have hr : (mcWord op w r c l a b f g).extractLsb' 14 6 = r := hr
  have hc : (mcWord op w r c l a b f g).extractLsb' 13 1 = c := hc
  have hl : (mcWord op w r c l a b f g).extractLsb' 12 1 = l := hl
  have ha : (mcWord op w r c l a b f g).extractLsb' 11 1 = a := ha
  have hb : (mcWord op w r c l a b f g).extractLsb' 10 1 = b := hb
  have hf : (mcWord op w r c l a b f g).extractLsb' 6 4 = f := hf
  have hg : (mcWord op w r c l a b f g).extractLsb' 2 4 = g := hg
  simp only [mcOf, Claims.mc, fld_eq, getLsbD_eq, hop, hw, hr, hc, hl, ha, hb, hf, hg]

end

/-! ## Awaits (R46) -/

/-- The tile whose await has been taken. -/
def awaitTaken (t : Tile) (w : BitVec 6) : Tile := { t with sync := { t.sync with sem := Claims.awaited t w } }

theorem takeAwait_of_mayStart {t : Tile} {w : BitVec 6} (h : Claims.mayStart t w) : t.takeAwait w = some (awaitTaken t w) := by
  unfold awaitTaken Tile.takeAwait Claims.awaited
  by_cases hw : w = 63
  · rw [if_pos (beq_iff_eq.mpr hw), if_pos hw]
  · rw [if_neg (mt beq_iff_eq.mp hw), if_neg hw]
    exact if_pos (h.resolve_left hw)

theorem takeAwait_of_not_mayStart {t : Tile} {w : BitVec 6} (h : ¬ Claims.mayStart t w) : t.takeAwait w = none := by
  obtain ⟨hw, h1⟩ := not_or.mp h
  unfold Tile.takeAwait
  rw [if_neg (mt beq_iff_eq.mp hw)]
  exact if_neg h1

/-! ## What the start of a command leaves of the tile (R201, R244) -/

/-- `u` is `t` but for accumulator rows, flags, captures and the landings of its commands. -/
structure Cleared (t u : Tile) : Prop where
  mx : u.mx = { t.mx with cmds := u.mx.cmds }
  cmds : (u.mx.cmds.map fun c => { c with landings := [] }) = t.mx.cmds.map fun c => { c with landings := [] }
  sem : u.sync.sem = t.sync.sem
  spad : u.spad = t.spad
  vec : u.vec = t.vec
  fifo : u.fifo = t.fifo

theorem Cleared.refl (t : Tile) : Cleared t t := ⟨rfl, rfl, rfl, rfl, rfl, rfl⟩

theorem Cleared.trans {t u v : Tile} (h : Cleared t u) (h' : Cleared u v) : Cleared t v where
  mx := by rw [h'.mx, h.mx]
  cmds := h'.cmds.trans h.cmds
  sem := h'.sem.trans h.sem
  spad := h'.spad.trans h.spad
  vec := h'.vec.trans h.vec
  fifo := h'.fifo.trans h.fifo

/-- A landing into accumulator rows. -/
def toRows : AnvilLanding → Bool
  | .out _ _ _ _ => false
  | _ => true

theorem landAnvil_toRows {l : AnvilLanding} (h : toRows l = true) (t : Tile) : ∃ m y, t.landAnvil l = { t with rsp := m, sys := y } := by
  cases l with
  | update _ _ _ => exact ⟨_, _, rfl⟩
  | zero _ _ => exact ⟨_, t.sys, rfl⟩
  | out _ _ _ _ => cases h

theorem Cleared.landAnvil {l : AnvilLanding} (h : toRows l = true) (t : Tile) : Cleared t (t.landAnvil l) := by
  obtain ⟨m, y, e⟩ := landAnvil_toRows h t
  rw [e]
  exact ⟨rfl, rfl, rfl, rfl, rfl, rfl⟩

theorem Cleared.landAll {ls : List AnvilLanding} (h : ∀ l ∈ ls, toRows l = true) (t : Tile) : Cleared t (ls.foldl Tile.landAnvil t) := by
  induction ls generalizing t with
  | nil => exact .refl t
  | cons l ls ih =>
    rw [List.forall_mem_cons] at h
    exact (landAnvil h.1 t).trans (ih h.2 _)

theorem Cleared.setCmds {t u : Tile} (h : Cleared t u) {cs : List AnvilCmd}
    (hc : (cs.map fun c => { c with landings := [] }) = t.mx.cmds.map fun c => { c with landings := [] }) : Cleared t (u.setCmds cs) where
  mx := by rw [Tile.setCmds, h.mx]
  cmds := hc
  sem := h.sem
  spad := h.spad
  vec := h.vec
  fifo := h.fifo

/-- `Tile.landRows` makes landings into rows alone. -/
theorem Cleared.landRows (t : Tile) (r m : Nat) : Cleared t (t.landRows r m) := by
  refine Cleared.setCmds (.landAll (fun l hl => ?_) t) (by rw [List.map_map]; rfl)
  obtain ⟨c, -, hl⟩ := List.mem_flatMap.mp hl
  cases l with
  | out _ _ _ _ => simp at hl
  | _ => rfl

theorem Cleared.clearAcc (t : Tile) (c : BitVec 1) (r m n : Nat) : Cleared t (t.clearAcc c r m n) := ⟨rfl, rfl, rfl, rfl, rfl, rfl⟩

/-- The command that `Tile.startMc` puts in flight. -/
def newCmd (t : Tile) (word : W32) (pc : W64) (followOn : Bool) (st : Started) : AnvilCmd :=
  let w := mcOf word
  let bank := BitVec.ofNat 2 (fld t.mx.mp[5].toNat 0 2)
  let cap := t.capturePlane bank.toNat
  { word := word, pc := pc, followOn := followOn, mp := t.mx.mp, tview := t.viewOf (operandOf (if w.op == 5 then t.mx.mp[6] else t.mx.mp[0]))
    cview := t.vec.cview, plane := if w.op == 2 && w.fb == 10 then some cap.1 else none, bank := bank, parity := cap.2, t0 := t.tcc
    prescan := st.prescan, scanned := st.prescan == 0, steps := st.steps, taken := 0, lastStep := none, claims := st.claims
    landings := [], raised := false }

/-- The tile in which the new command is put in flight: the rows of clr are cleared, unless the prescan is to fail. -/
def clearedFor (t : Tile) (cmd : AnvilCmd) : Tile :=
  let w := mcOf cmd.word
  let sh := shapeOf t.mx.mp[2]
  if w.clr && (w.op == 2 || w.op == 3) && (cmd.prescan == 0 || (t.prescanBad cmd).isNone) then
    (t.landRows (accRow w.c sh.row0) sh.m).clearAcc w.c sh.row0 sh.m sh.n
  else t

theorem Cleared.clearedFor (t : Tile) (cmd : AnvilCmd) : Cleared t (clearedFor t cmd) := by
  unfold MatrixStrand.clearedFor
  dsimp only
  split
  · exact (Cleared.landRows ..).trans (.clearAcc ..)
  · exact .refl t

theorem clearedFor_of_not_clr {t : Tile} {cmd : AnvilCmd} (h : (mcOf cmd.word).clr = false) : clearedFor t cmd = t := by
  simp [clearedFor, h]

/-- The new command stands behind those in flight. -/
theorem startMc_eq (t : Tile) (word : W32) (pc : W64) (fo : Bool) (st : Started) :
    let cmd := newCmd t word pc fo st
    let u := clearedFor t cmd
    ∃ y, y.sem = u.sync.sem ∧ t.startMc word pc fo st =
      { u with sync := y, mx := { u.mx with cmds := u.mx.cmds ++ [cmd], seq := if fo then u.mx.seq else u.mx.seq + 1 } } := by
  intro cmd u
  by_cases h : ((mcOf word).op == 2 && (mcOf word).fb == 10) = true
  · refine ⟨?y, ?hy, ?he⟩
    case he =>
      unfold Tile.startMc
      dsimp only
      rw [if_pos h]
      rfl
    case hy => rfl
  · refine ⟨u.sync, rfl, ?_⟩
    unfold Tile.startMc
    dsimp only
    rw [if_neg h]
    rfl

/-- The new command stands behind those in flight; of what the tile holds, only a clear touches rows, and the landings that are still due. -/
theorem startMc_spec (t : Tile) (word : W32) (pc : W64) (fo : Bool) (st : Started) :
    let v := t.startMc word pc fo st
    ∃ cs, v.mx = { t.mx with cmds := cs ++ [newCmd t word pc fo st], seq := if fo then t.mx.seq else t.mx.seq + 1 } ∧
      (cs.map fun c => { c with landings := [] }) = (t.mx.cmds.map fun c => { c with landings := [] }) ∧
      v.sync.sem = t.sync.sem ∧ v.spad = t.spad ∧ v.vec = t.vec ∧ v.fifo = t.fifo ∧
      ((mcOf word).clr = false → cs = t.mx.cmds ∧ v.rsp = t.rsp) := by
  intro v
  have hc := Cleared.clearedFor t (newCmd t word pc fo st)
  obtain ⟨y, hy, he⟩ := startMc_eq t word pc fo st
  refine ⟨(clearedFor t (newCmd t word pc fo st)).mx.cmds, ?_, hc.cmds, ?_, ?_, ?_, ?_, fun hn => ?_⟩
  · rw [show v = _ from he]
    dsimp only
    rw [hc.mx]
  · rw [show v = _ from he]
    exact hy.trans hc.sem
  · rw [show v = _ from he]
    exact hc.spad
  · rw [show v = _ from he]
    exact hc.vec
  · rw [show v = _ from he]
    exact hc.fifo
  · have h := clearedFor_of_not_clr (t := t) (cmd := newCmd t word pc fo st) hn
    rw [show v = _ from he]
    exact ⟨by rw [h], by dsimp only; rw [h]⟩

/-! ## The strand's own instructions (R50, R202) -/

section
variable {s : State} {f : Tile → Res Tile}

theorem issueM_noWindow (h : s.hasWindow s.here = false) : s.issueM f = s.fault s.here .matrix { code := 0x01 } :=
  State.issueT_trap (if_neg (by simp [h]))

variable (hw : s.hasWindow s.here = true)
include hw

theorem issueM_done {x : Tile} (h : f s.cur = .done x) : s.issueM f = s.leaves .matrix x :=
  State.issueT_done ((if_pos hw).trans h)

theorem issueM_hold (h : f s.cur = .hold) : s.issueM f = s :=
  State.issueT_hold ((if_pos hw).trans h)

theorem issueM_trap {x : Trap} (h : f s.cur = .trap x) : s.issueM f = s.fault s.here .matrix x :=
  State.issueT_trap ((if_pos hw).trans h)

end

theorem setMp_ofNat (t : Tile) (r : Fin 8) (v : W64) :
    t.setMp (BitVec.ofNat 4 r.val) v = { t with mx := { t.mx with mp := t.mx.mp.set r v } } := by
  have hr : (BitVec.ofNat 4 r.val).toNat = r.val := by simp; omega
  simp [Tile.setMp, hr]

/-- A matrix instruction other than a common operation runs in `State.issueM`. -/
theorem exec_noWindow {s : State} (h : s.hasWindow s.here = false) {r : BitVec 4} {i : BitVec 22} {x : List W32} {w rr : BitVec 6}
    {c l a b : BitVec 1} {f g : BitVec 4} {j : Instr}
    (hj : j ∈ [Instr.mpar r i x, .mparq r, .mma w rr c l a b f g, .mmas w rr c l a f g, .mzero w rr c, .mout w rr c f]) :
    exec j s = .next (s.fault s.here .matrix { code := 0x01 }) := by
  simp only [List.mem_cons, List.not_mem_nil, or_false] at hj
  obtain rfl | rfl | rfl | rfl | rfl | rfl := hj <;> exact congrArg _ (issueM_noWindow h)

/-! ## The start of a command (R201) -/

section
variable {s : State} {word : W32} {w : McWord} (hm : mcOf word = w)
include hm

variable (hw : s.hasWindow s.here = true)
include hw

theorem mcExec_waits (h : s.cur.anvilFree w = false ∨ ¬ Claims.mayStart s.cur w.await) : mcExec word s = .next s := by
  refine congrArg _ (issueM_hold hw ?_)
  subst hm
  cases hf : s.cur.anvilFree (mcOf word) with
  | false => simp [hf]
  | true => simp [hf, takeAwait_of_not_mayStart (h.resolve_left (by simp [hf]))]

variable (hf : s.cur.anvilFree w = true) (ha : Claims.mayStart s.cur w.await)
include hf ha

theorem mcExec_refused {sub : Nat} (h : s.cur.checkMc true w = .error sub) :
    mcExec word s = .next (s.fault s.here .matrix { code := 0x40, sub := sub }) := by
  refine congrArg _ (issueM_trap hw ?_)
  subst hm
  simp [hf, takeAwait_of_mayStart ha, h, cCommandFault]

theorem mcExec_claimed {st : Started} (h : s.cur.checkMc true w = .ok st)
    (hc : s.cur.xfClaims st.claims = true ∨ s.cur.outDue st.claims (operandOf s.cur.mx.mp[0]).view = true) : mcExec word s = .next s := by
  refine congrArg _ (issueM_hold hw ?_)
  subst hm
  simp [hf, takeAwait_of_mayStart ha, h, hc]

theorem mcExec_starts {st : Started} (h : s.cur.checkMc true w = .ok st) (hx : s.cur.xfClaims st.claims = false)
    (ho : s.cur.outDue st.claims (operandOf s.cur.mx.mp[0]).view = false) :
    mcExec word s = s.yields .matrix ((awaitTaken s.cur w.await).startMc word (s.cur.pcOf .matrix) false st) := by
  refine congrArg _ (issueM_done hw ?_)
  subst hm
  simp [hf, takeAwait_of_mayStart ha, h, hx, ho]

end

theorem mcStarts {i : Instr} {word : W32} {w : McWord} (hi : ∀ s, exec i s = mcExec word s) (hm : mcOf word = w) : Claims.McStarts i w := by
  intro s hw
  refine ⟨fun h => (hi s).trans (mcExec_waits hm hw h), fun sub hf ha h => (hi s).trans (mcExec_refused hm hw hf ha h),
    fun st hf ha h hc => (hi s).trans (mcExec_claimed hm hw hf ha h hc), fun st hf ha h hx ho => ?_⟩
  let t := awaitTaken s.cur w.await
  obtain ⟨cs, hmx, hcs, hsem, hspad, hvec, hfifo, hclr⟩ := startMc_spec t word (s.cur.pcOf .matrix) false st
  refine ⟨_, cs, newCmd t word (s.cur.pcOf .matrix) false st, (hi s).trans (mcExec_starts hm hw hf ha h hx ho), ?_⟩
  rw [hmx]
  exact ⟨rfl, hm, rfl, rfl, rfl, rfl, rfl, rfl, rfl, rfl, rfl, rfl, rfl, hsem, hspad, hvec, hfifo, hcs, fun hn => hclr (hm ▸ hn)⟩

/-! ## Follow-on words (R221) -/

/-- The tile whose oldest presented word has been taken. -/
def followTaken (x : Tile) (rest : List (W32 × BitVec 6)) : Tile := { x with mx := { x.mx with follow := rest } }

/-- A refused word is taken, and a record is made of it. -/
def refusedWord (s : State) (t : TileNo) (rest : List (W32 × BitVec 6)) (sub : Nat) : State :=
  (s.setTile t (followTaken (s.tile t) rest)).tileRecord t .matrix { code := cCommandFault, sub := sub }

theorem refusedWord_records (s : State) (t : TileNo) (rest : List (W32 × BitVec 6)) (sub : Nat) :
    (refusedWord s t rest sub).tile t = followTaken (s.tile t) rest ∧
      ((refusedWord s t rest sub).ctx (s.tile t).ctx).records.length = (s.ctx (s.tile t).ctx).records.length + 1 := by
  refine ⟨State.tile_setTile_same .., ?_⟩
  simp only [refusedWord, State.tileRecord, State.tile_setTile_same, State.asyncRecord, State.makeRecord, State.modCtx, State.ctx]
  simp [followTaken]

section
variable {s : State} {t : TileNo} {word : W32} {sem : BitVec 6} {rest : List (W32 × BitVec 6)}
  (hf : (s.tile t).mx.follow = (word, sem) :: rest)
include hf

theorem followOn_notMma (h2 : (mcOf word).op ≠ 2) (h3 : (mcOf word).op ≠ 3) :
    exec (.followOnStart t) s = .next (refusedWord s t rest 0x01) := by
  show Host.Outcome.next _ = _
  simp [hf, h2, h3, refusedWord, followTaken]

variable {i : Instr} (hop : (mcOf word).op = 2 ∨ (mcOf word).op = 3) (hd : decodeMatrix word [] = some i) (hi : i.fieldsOk = true)
include hop hd hi

/-- A word that is an mma or an mmas: it waits, or is refused, or starts. -/
theorem followOn_eq : exec (.followOnStart t) s = .next (
    let x := s.tile t
    let w := mcOf word
    if x.preempt || !x.anvilFree w then s
    else match (followTaken x rest).takeAwait w.await with
      | none => s
      | some y =>
        match (followTaken x rest).checkMc (s.hasWindow t) w with
        | .error sub => refusedWord s t rest sub
        | .ok st =>
          if x.xfClaims st.claims || x.outDue st.claims (operandOf x.mx.mp[0]).view then s
          else
            let y := y.startMc word 0 true st
            s.setTile t { y with mx := { y.mx with sigs :=
              if sem == 63 then y.mx.sigs else { rel := false, id := sem, count := 1, before := 0 } :: y.mx.sigs } }) := by
  have h : (if (mcOf word).op == 2 || (mcOf word).op == 3 then decodeMatrix word [] else none) = some i := by
    rw [if_pos (by simpa using hop), hd]
  show Host.Outcome.next _ = _
  simp only [hf, h, hi]
  rfl

theorem followOn_waits
    (h : (s.tile t).preempt = true ∨ (s.tile t).anvilFree (mcOf word) = false ∨ ¬ Claims.mayStart (s.tile t) (mcOf word).await) :
    exec (.followOnStart t) s = .next s := by
  rw [followOn_eq hf hop hd hi]
  obtain h | h | h := h
  · simp [h]
  · simp [h]
  · have ha : (followTaken (s.tile t) rest).takeAwait (mcOf word).await = none := takeAwait_of_not_mayStart h
    simp [ha]

variable (hp : (s.tile t).preempt = false) (hfree : (s.tile t).anvilFree (mcOf word) = true)
  (ha : Claims.mayStart (s.tile t) (mcOf word).await)
include hp hfree ha

theorem followOn_refused {sub : Nat} (h : (s.tile t).checkMc (s.hasWindow t) (mcOf word) = .error sub) :
    exec (.followOnStart t) s = .next (refusedWord s t rest sub) := by
  have ha : (followTaken (s.tile t) rest).takeAwait (mcOf word).await = _ := takeAwait_of_mayStart ha
  have hc : (followTaken (s.tile t) rest).checkMc (s.hasWindow t) (mcOf word) = .error sub := h
  simp [followOn_eq hf hop hd hi, hp, hfree, ha, hc]

theorem followOn_starts {st : Started} (h : (s.tile t).checkMc (s.hasWindow t) (mcOf word) = .ok st)
    (hx : (s.tile t).xfClaims st.claims = false) (ho : (s.tile t).outDue st.claims (operandOf (s.tile t).mx.mp[0]).view = false) :
    let y := (awaitTaken (followTaken (s.tile t) rest) (mcOf word).await).startMc word 0 true st
    exec (.followOnStart t) s = .next (s.setTile t { y with mx := { y.mx with sigs :=
      if sem = 63 then y.mx.sigs else { rel := false, id := sem, count := 1, before := 0 } :: y.mx.sigs } }) := by
  have ha : (followTaken (s.tile t) rest).takeAwait (mcOf word).await = _ := takeAwait_of_mayStart ha
  have hc : (followTaken (s.tile t) rest).checkMc (s.hasWindow t) (mcOf word) = .ok st := h
  simp [followOn_eq hf hop hd hi, hp, hfree, ha, hc, hx, ho]

end

/-- Settles O33: the commands by `mcStarts`, a follow-on word by what `followOn_eq` does with it. -/
theorem matrixCommandsStart : Obligations.MatrixCommandsStart := by
  unfold Obligations.MatrixCommandsStart
  refine ⟨?mpar, ?mparq, fun s r i x w rr c l a b f g h j hj => exec_noWindow h hj, fun w r c l a b f g => mcStarts (fun _ => rfl) (mcOf_mcWord ..),
    fun w r c l a f g => mcStarts (fun _ => rfl) (mcOf_mcWord ..), fun w r c => mcStarts (fun _ => rfl) (mcOf_mcWord ..),
    fun w r c f => mcStarts (fun _ => rfl) (mcOf_mcWord ..), fun _ _ _ _ _ => rfl, ?follow⟩
  case mpar =>
    intro s r i x hw
    have h : Res.done (s.cur.setMp (BitVec.ofNat 4 r.val) (imm22 i x)) = .done _ := congrArg Res.done (setMp_ofNat s.cur r (imm22 i x))
    exact congrArg _ (issueM_done hw h)
  case mparq =>
    intro s r e rest hw
    refine ⟨fun hk hr hb => congrArg _ (issueM_done hw ?_), fun hk => congrArg _ (issueM_hold hw ?_)⟩
    · simp [hk, ControlState.headOf_cons rest hr hb, setMp_ofNat]
    · simp [hk, headOf]
  case follow =>
    intro s t word sem rest hf x w refused
    refine ⟨fun h2 h3 => ⟨_, followOn_notMma hf h2 h3, refusedWord_records ..⟩, fun i hop hd hi =>
      ⟨followOn_waits hf hop hd hi, fun sub hp hfree ha h => ⟨_, followOn_refused hf hop hd hi hp hfree ha h, refusedWord_records ..⟩,
        fun st hp hfree ha h hx ho => ?_⟩⟩
    obtain ⟨cs, hmx, hcs, hsem, -⟩ := startMc_spec (awaitTaken (followTaken x rest) w.await) word 0 true st
    refine ⟨_, cs, newCmd (awaitTaken (followTaken x rest) w.await) word 0 true st, followOn_starts hf hop hd hi hp hfree ha h hx ho, ?_⟩
    rw [State.tile_setTile_same]
    dsimp only
    rw [hmx]
    exact ⟨rfl, rfl, rfl, rfl, rfl, rfl, rfl, rfl, hsem, hcs, rfl⟩

end Sys2Proof.MatrixStrand

/-!
PROOFS of the family 02_tile.md: what happens to a tile outside its instructions (O38).
-/
namespace Sys2Proof.TileEvents
open Sys2Proof Sys2Proof.Machine Sys2Proof.Safety

/-! ## The launches stand through a write of the Hearth -/

section
variable (s : State)

theorem wr1_launches (c : BitVec 6) (pkg : BitVec 6) (die : BitVec 3) (pa : Nat) (b : Byte) : (s.wr1 c pkg die pa b).launches = s.launches := by
  unfold State.wr1
  split
  · split <;> rfl
  · rfl

theorem wrN_launches (c : BitVec 6) (pkg : BitVec 6) (die : BitVec 3) (n pa v : Nat) : (s.wrN c pkg die pa n v).launches = s.launches := by
  induction n generalizing s pa v with
  | zero => rfl
  | succ n ih => exact (ih _ _ _).trans (wr1_launches ..)

/-- What a write at a home leaves of the launches, whatever the operation does besides. -/
theorem homeOp_write_launches (c pkg : BitVec 6) (die : BitVec 3) (pa n v : Nat) :
    FateOk (fun r => r.1.launches = s.launches) (s.homeOp c pkg die pa (.write n v)) := by
  unfold State.homeOp
  dsimp only
  split
  · split
    · split
      · trivial
      · exact wrN_launches ..
    · split
      · trivial
      · exact wrN_launches ..
  · split
    · split
      · rfl
      · split
        · trivial
        · split
          · trivial
          · rfl
    · split
      · trivial
      · split
        · trivial
        · split
          · split
            · trivial
            · trivial
            next h =>
              obtain ⟨x, rfl⟩ := Frames.snapLines_eq h
              exact wrN_launches ..
          · rfl

theorem hWrite_launches (c : BitVec 6) (va : W64) (n v : Nat) : CheckedOk (fun r => r.launches = s.launches) (s.hWrite c va n v) := by
  unfold State.hWrite State.hAccess
  split
  · rfl
  · split
    · rfl
    · split
      · rfl
      · trivial
      · split
        · exact (homeOp_write_launches ..).ok ‹_›
        · trivial
        · rfl

theorem writeStatus_launches (q : Option (BitVec 10)) (c : BitVec 6) (va : W64) (v : Nat) : (s.writeStatus q c va v).launches = s.launches := by
  unfold State.writeStatus
  split
  · exact (hWrite_launches ..).ok ‹_›
  · rfl
  next h =>
    have hl := (hWrite_launches s c va 8 v).bad h
    split
    · exact hl
    · exact hl

theorem putQueue_launches (q : BitVec 10) (x : Queue) : (s.putQueue q x).launches = s.launches := by
  unfold State.putQueue
  dsimp only
  split
  · rfl
  · exact writeStatus_launches ..

theorem shadowRecord_launches (c : BitVec 6) (va : W64) : (s.shadowRecord c va).launches = s.launches := by
  unfold State.shadowRecord
  split
  · rfl
  · split <;> rfl

theorem signalFault_launches (q : Option (BitVec 10)) (c : BitVec 6) (sig : W64) (cause : Nat) :
    (s.signalFault q c sig cause).launches = s.launches := by
  unfold State.signalFault
  split
  · exact shadowRecord_launches ..
  · dsimp only
    split
    · exact putQueue_launches ..
    · rfl

theorem signalStore_launches (q : Option (BitVec 10)) (c : BitVec 6) (sig : W64) (v : Nat) :
    (s.signalStore q c sig v).launches = s.launches := by
  unfold State.signalStore
  split
  · rfl
  · split
    · rfl
    · split
      · exact (hWrite_launches ..).ok ‹_›
      · rfl
      · exact (signalFault_launches ..).trans ((hWrite_launches ..).bad ‹_›)

theorem failGraph_launches (c : BitVec 6) (g : Graph) (value : Nat) : (s.failGraph c g value 0).launches = s.launches := by
  simp [State.failGraph, State.putGraph]

end

/-! ## Reset, draining and pod modes (R47, R48, R50) -/

theorem tileReset_done {s : State} {t : TileNo} (h : (s.tile t).phase = .off) (hp : (s.manage.islands[islandOf t]).powered = true) :
    exec (.tileResetComplete t) s = .next (s.setTile t { (s.tile t) with phase := .idle }) :=
  congrArg _ (if_pos (by rw [h, hp]; rfl))

theorem tileReset_unpowered {s : State} {t : TileNo} (hp : (s.manage.islands[islandOf t]).powered = false) :
    exec (.tileResetComplete t) s = .next s :=
  congrArg _ (if_neg (by rw [hp, Bool.and_false]; exact Bool.false_ne_true))

/-- What `State.recordReached` leaves of the tiles: the reports of tile `t` are gone. -/
structure Recorded (t : TileNo) (s s' : State) : Prop where
  others : ∀ n, n ≠ t → s'.tile n = s.tile n
  same : s'.tile t = { (s.tile t) with strand := (s'.tile t).strand }
  gone : ∀ k, ((s.tile t).str k).reached = none → ((s'.tile t).str k).reached = none

theorem Recorded.refl (t : TileNo) (s : State) : Recorded t s s := ⟨fun _ _ => rfl, rfl, fun _ h => h⟩

theorem Recorded.trans {t : TileNo} {s s' s'' : State} (h : Recorded t s s') (h' : Recorded t s' s'') : Recorded t s s'' where
  others n hn := (h'.others n hn).trans (h.others n hn)
  same := by rw [h'.same, h.same]
  gone k hk := h'.gone k (h.gone k hk)

/-- A fold of steps that each record the report of their strand. -/
theorem Recorded.foldl {t : TileNo} {f : State → Strand → State} (hf : ∀ s k, Recorded t s (f s k) ∧ (((f s k).tile t).str k).reached = none)
    (ks : List Strand) (s : State) : Recorded t s (ks.foldl f s) ∧ ∀ k ∈ ks, (((ks.foldl f s).tile t).str k).reached = none := by
  induction ks generalizing s with
  | nil => exact ⟨.refl t s, by simp⟩
  | cons k ks ih =>
    obtain ⟨h1, h2⟩ := hf s k
    obtain ⟨h3, h4⟩ := ih (f s k)
    exact ⟨h1.trans h3, List.forall_mem_cons.mpr ⟨h3.gone k h2, h4⟩⟩

theorem recordReached_spec (s : State) (t : TileNo) :
    Recorded t s (s.recordReached t) ∧ ∀ k, (((s.recordReached t).tile t).str k).reached = none := by
  suffices h : Recorded t s (s.recordReached t) ∧ ∀ k ∈ Strand.all, (((s.recordReached t).tile t).str k).reached = none from
    ⟨h.1, fun k => h.2 k (by cases k <;> decide)⟩
  refine Recorded.foldl (fun s k => ?_) Strand.all s
  dsimp only
  split
  next h => exact ⟨.refl t s, Option.isNone_iff_eq_none.mp h⟩
  next =>
    refine ⟨⟨fun n hn => State.tile_modTile_other _ _ hn, ?_, fun j hj => ?_⟩, ?_⟩
    · rw [State.modTile_eq, State.tile_setTile_same]
      rfl
    · rw [State.modTile_eq, State.tile_setTile_same]
      obtain rfl | h := eq_or_ne j k
      · rw [Fetching.str_modStr_same]
      · rw [Frames.str_modStr_other _ h]
        exact hj
    · rw [State.modTile_eq, State.tile_setTile_same, Fetching.str_modStr_same]

section
variable {s : State} {t : TileNo}

theorem exec_tileDrainComplete : exec (.tileDrainComplete t) s = .next (
    let x := s.tile t
    if x.draining && !x.preempt && s.workDone t && x.vec.recs.isEmpty && x.ld.sigs.isEmpty && x.st.sigs.isEmpty then
      (s.recordReached t).modTile t Tile.release
    else if x.draining then s.recordReached t
    else s) := rfl

theorem drain_released (hd : (s.tile t).draining = true) (hp : (s.tile t).preempt = false) (hw : s.workDone t = true)
    (hv : (s.tile t).vec.recs = []) (hl : (s.tile t).ld.sigs = []) (hs : (s.tile t).st.sigs = []) :
    exec (.tileDrainComplete t) s = .next ((s.recordReached t).modTile t Tile.release) := by
  simp [exec_tileDrainComplete, hd, hp, hw, hv, hl, hs]

theorem drain_busy (hd : (s.tile t).draining = true) (hw : s.workDone t = false) :
    exec (.tileDrainComplete t) s = .next (s.recordReached t) := by
  simp [exec_tileDrainComplete, hd, hw]

theorem drain_idle (hd : (s.tile t).draining = false) : exec (.tileDrainComplete t) s = .next s := by
  simp [exec_tileDrainComplete, hd]

theorem podMode_written {v : BitVec 2} (h : (s.pods[podOf t]).want = some v) (hv : v ≠ 3) (h1 : (s.tile t).mx.cmds = [])
    (h2 : (s.tile (podMate t)).mx.cmds = []) :
    exec (.podModeChange t) s = .next { s with pods := s.pods.set (podOf t) { mode := v, want := none } } := by
  have hq : s.podQuiet t = true := by simp [State.podQuiet, h1, h2]
  show Host.Outcome.next (match (s.pods[podOf t]).want with | some v => _ | none => _) = _
  have hw : s.writePodMode t v = _ := if_neg (mt beq_iff_eq.mp hv)
  rw [h]
  simp [hq, hw]

theorem podMode_held {v : BitVec 2} (h : (s.pods[podOf t]).want = some v)
    (hb : (s.tile t).mx.cmds ≠ [] ∨ (s.tile (podMate t)).mx.cmds ≠ []) : exec (.podModeChange t) s = .next s := by
  have hq : s.podQuiet t = false := by
    obtain hb | hb := hb <;> simp [State.podQuiet, hb]
  show Host.Outcome.next (match (s.pods[podOf t]).want with | some v => _ | none => _) = _
  rw [h]
  simp [hq]

/-! ## FREPLY (R271) -/

theorem mfs_freply {d : BitVec 5} (hu : s.cur.isSup = true) (hl : s.cur.sys.lastSeq = none) :
    exec (.mfs d 0x107) s = .next (s.writeRecordOf s.here) := by
  have hf : s.cur.sysFault 0x107 = none := by simp [Tile.sysFault, hu, sysUser, sysListed]
  have hr : s.readFreply d = s.writeRecordOf s.here := by simp only [State.readFreply, State.issue, hl]
  show Host.Outcome.next (match s.cur.sysFault 0x107 with | some f => _ | none => _) = _
  rw [hf, ← hr]
  rfl

theorem readFreply_done {d : BitVec 5} {v : W64} (hr : s.replyReady s.cur = some v) :
    s.readFreply d = s.setTile s.here ((((s.cur.tick .control).takeReply).setS d v).retire .control) := by
  cases hl : s.cur.sys.lastSeq with
  | none => simp [State.replyReady, hl] at hr
  | some q =>
    have hr : (s.setTile s.here ((s.tile s.here).tick .control)).replyReady s.cur = some v := hr
    simp only [State.readFreply, State.issue, hl, State.modTile_eq, hr, State.setTile_setTile, State.tile_setTile_same]
    rfl

theorem freplyRead_done {e : QEntry} {rest : List QEntry} {v : W64} (hu : (s.tile t).isSup = true)
    (hq : (s.tile t).ctl.squeue = e :: rest) (hk : e.kind = .insn) (hop : e.word.extractLsb' 26 6 = 0x30#6)
    (ha : e.word.extractLsb' 9 12 = 0x107#12) (hr : s.replyReady (s.tile t) = some v) :
    exec (.freplyRead t) s = .next (s.setTile t
      ((((s.tile t).tick .control).takeReply.setS (e.word.extractLsb' 21 5) v).retire .control)) := by
  have hqueue : (s.tile t).queueOf .control = e :: rest := by simp [Tile.queueOf, hu, hq]
  have hd := readFreply_done (s := { s with turn := { s.turn with tile := t } }) (d := e.word.extractLsb' 21 5) hr
  show Host.Outcome.next (match (s.tile t).isSup, (s.tile t).queueOf .control with | true, e :: _ => _ | _, _ => _) = _
  rw [hu, hqueue]
  dsimp only
  rw [if_pos (by simp [hk, hop, ha, hr]), hd]
  rfl

end

/-! ## The window (R267) -/

/-- `u` has the phase and the WSEL of `t`. -/
def SameSelect (t u : Tile) : Prop := u.phase = t.phase ∧ u.sys.wsel = t.sys.wsel

section
variable {t u v : Tile} {p : Prop} [Decidable p]

theorem SameSelect.ite (hu : SameSelect t u) (hv : SameSelect t v) : SameSelect t (if p then u else v) := by
  split
  · exact hu
  · exact hv

theorem SameSelect.dite {f : p → Tile} {g : ¬ p → Tile} (hf : ∀ h, SameSelect t (f h)) (hg : ∀ h, SameSelect t (g h)) :
    SameSelect t (if h : p then f h else g h) := by
  split
  · exact hf _
  · exact hg _

end

section
variable (t : Tile)

theorem SameSelect.refl : SameSelect t t := ⟨rfl, rfl⟩

theorem SameSelect.modStr {t u : Tile} (h : SameSelect t u) (k : Strand) (f : StrandState → StrandState) : SameSelect t (u.modStr k f) := h

theorem SameSelect.regWrite (e : Nat) (v : W64) : SameSelect t (regWrite t e v) := by
  have h := SameSelect.refl t
  unfold Machine.regWrite
  exact .dite (fun _ => h) fun _ => .ite h <| .dite (fun _ => h) fun _ => .dite (fun _ => h) fun _ => .dite (fun _ => h) fun _ =>
    .ite h <| .ite (h.modStr ..) <| .ite (h.modStr ..) <| .ite (foldl_keeps (fun _ _ h' => h'.modStr ..) _ h) h

theorem SameSelect.paramWrite (i e : Nat) (v : W64) : SameSelect t (paramWrite t i e v) := by
  have h := SameSelect.refl t
  unfold Machine.paramWrite
  refine .dite (fun _ => ?_) fun _ => h
  split
  · exact .dite (fun _ => h) fun _ => h
  all_goals exact h

/-- A write of a window reaches neither the phase nor WSEL. -/
theorem SameSelect.windowWrite (v : W64) : SameSelect t (t.windowWrite v) := by
  have h := SameSelect.refl t
  unfold Tile.windowWrite
  dsimp only
  split
  · exact .ite (h.modStr ..) h
  · exact .ite h (.ite h (.ite h h))
  · exact .ite (.ite h h) h
  · exact .ite h h
  · exact .dite (fun _ => .ite h h) fun _ => h
  · exact .ite h h
  · exact .ite (.ite h h) h
  · exact h
  · exact .paramWrite ..
  · exact .ite (.regWrite ..) h
  · exact .ite (h.modStr ..) h
  · exact h

end

theorem windowNext_wsel (t : Tile) :
    t.windowNext = { t with sys := { t.sys with
      wsel := (t.sys.wsel &&& 0xFFFFFFFF00000000#64) ||| ((t.sys.wsel.setWidth 32 + 1#32).setWidth 64) } } := rfl

section
variable {s : State} {t : TileNo} {v : W64}

theorem wdata_handler (h : (s.tile t).isSup = true) (wr : Bool) :
    exec (.wdataAccess t wr v) s = .next (s.setTile t (if wr then (s.tile t).windowWrite v else s.tile t).windowNext) := by
  show Host.Outcome.next (s.setTile t (if (s.tile t).isSup then _ else _)) = _
  rw [if_pos h]

theorem wdata_user (h : (s.tile t).isSup = false) (wr : Bool) : exec (.wdataAccess t wr v) s = .next s := by
  show Host.Outcome.next (s.setTile t (if (s.tile t).isSup then _ else _)) = _
  rw [h, if_neg Bool.false_ne_true, State.setTile_tile]

/-! ## Samples (R275) -/

theorem traceSample_on {k : Strand} (ho : (s.tile t).sys.traceOn = true) (hk : (s.tile t).sys.tracectl.getLsbD (4 + k.pos) = true)
    (hp : (s.tile t).phase = .running ∨ (s.tile t).phase = .trapped) :
    exec (.traceSample t k) s = .next ((s.setTile t ((s.tile t).traceAdd s.fcc 1 k.pos
      (if k == .control && (s.tile t).isSup then (s.tile t).pcOf k else (s.tile t).userPc k))).traceFlush t) := by
  show Host.Outcome.next (if _ then _ else _) = _
  rw [if_pos (by simp [ho, hk, hp])]

theorem traceSample_off {k : Strand} (ho : (s.tile t).sys.traceOn = false) : exec (.traceSample t k) s = .next s := by
  show Host.Outcome.next (if _ then _ else _) = _
  rw [if_neg (by simp [ho])]

/-- Where a strand of user mode stands: a strand that runs at its next instruction. -/
theorem userPc_eq {x : Tile} {k : Strand} (h : ¬ (k = .control ∧ x.isSup = true)) :
    x.userPc k = if (x.str k).stopped || (x.str k).halted then (x.str k).pc else x.pcOf k := by
  have hk : (k == .control && x.isSup) = false := by simpa using h
  simp [Tile.userPc, Tile.pcOf, hk]

theorem traceAdd_room {x : Tile} {fcc : W64} {type strand : Nat} {word : W64} (hd : x.trace.dropped = 0) (hw : x.trace.waiting.length < 16)
    (hr : (x.sys.tracewp - x.sys.tracerp).toNat % x.sys.traceSize + x.trace.waiting.length + 1 < x.sys.traceSize) :
    x.traceAdd fcc type strand word = { x with trace := { x.trace with
      waiting := x.trace.waiting ++ [(BitVec.ofNat 64 (type + 16 * strand + 256 * (fcc.toNat % 2 ^ 56)), word)], dropped := 0 } } := by
  simp only [Tile.traceAdd, if_pos hd, List.nil_append, List.length_singleton]
  rw [if_neg]
  simp only [Bool.or_eq_true, decide_eq_true_eq]
  omega

theorem traceAdd_full {x : Tile} {fcc : W64} {type strand : Nat} {word : W64} (hd : x.trace.dropped = 0)
    (hr : x.sys.traceSize ≤ (x.sys.tracewp - x.sys.tracerp).toNat % x.sys.traceSize + x.trace.waiting.length + 1) :
    x.traceAdd fcc type strand word = { x with trace := { x.trace with dropped := 1 } } := by
  simp only [Tile.traceAdd, if_pos hd, List.nil_append, List.length_singleton]
  rw [if_pos]
  · rw [hd]
    rfl
  · simp only [Bool.or_eq_true, decide_eq_true_eq]
    omega

/-! ## The watchdog (R268) -/

theorem watchdog_waits (h : (s.tile t).quiet < s.watchdogTcs t) : exec (.watchdogExpiry t) s = .next s := by
  show Host.Outcome.next (if _ then _ else _) = _
  rw [if_neg (by simp [h])]

theorem watchdog_kills (hp : (s.tile t).phase = .running ∨ (s.tile t).phase = .trapped) (hq : s.watchdogTcs t ≤ (s.tile t).quiet) :
    exec (.watchdogExpiry t) s = .next (s.killWith (s.tile t).ctx cWatchdog (w64 cWatchdog) 0 false true 0 0
      (fld (s.tile t).sys.ltile.toNat 0 12) t.val 0) := by
  show Host.Outcome.next (if _ then _ else _) = _
  rw [if_pos (by simp [hp, hq])]

end

theorem ctx_modCtx (s : State) (c : BitVec 6) (f : Context → Context) : (s.modCtx c f).ctx c = f (s.ctx c) := by
  simp [State.ctx, State.modCtx]

theorem tile_withRemote (s : State) (r : Remote) (n : TileNo) : ({ s with remote := r } : State).tile n = s.tile n := rfl

/-- A fatal cause makes a live context KILLING, with a record, and takes its tiles to IDLE. -/
theorem killWith_live {s : State} {c : BitVec 6} (h : (s.ctx c).phase = .live) (code : Nat) (cause : W64) (strand : Nat) (nest async : Bool)
    (pc addr : W64) (lt tile : Nat) (info : W64) :
    let s' := s.killWith c code cause strand nest async pc addr lt tile info
    (s'.ctx c).phase = .killing ∧ (s'.ctx c).cause = BitVec.ofNat 8 code ∧ (s'.ctx c).records.length = (s.ctx c).records.length + 1 ∧
      ∀ n, s'.tile n = if (s.tile n).heldBy c then (s.tile n).release else s.tile n := by
  intro s'
  obtain ⟨s1, ht, hc, e⟩ : ∃ s1 : State, (∀ n, s1.tile n = if (s.tile n).heldBy c then (s.tile n).release else s.tile n) ∧
      s1.ctx c = s.ctx c ∧ s' = (s1.modCtx c fun x => { x with phase := .killing, cause := BitVec.ofNat 8 code }).makeRecord
        c cause strand true nest async pc addr lt tile info := by
    refine ⟨{ (s.mapTiles fun _ t => if t.heldBy c then t.release else t) with remote := s.remote.purge c s.fcc }, fun n => ?_, ?_, ?_⟩
    · exact (tile_withRemote _ _ n).trans (State.tile_mapTiles s _ n)
    · rw [State.ctx, State.mapTiles_ctxs, State.ctx]
    · simp only [s', State.killWith, h, State.mapTiles_remote, State.mapTiles_fcc]
  rw [e, State.makeRecord, ctx_modCtx, ctx_modCtx, hc]
  exact ⟨rfl, rfl, List.length_append, ht⟩

/-! ## The end of a launch by its handler (R267) -/

/-- Buffers that leave are all that `State.endLaunch` does to a machine before the launch stops. -/
def leaveAll (s : State) (f : AggBuffer → Bool) : State := (List.finRange 4).foldl (fun (s : State) d => s.leave d f) s

theorem leaveAll_same (s : State) (f : AggBuffer → Bool) :
    (leaveAll s f).tiles = s.tiles ∧ (leaveAll s f).launches = s.launches ∧ (leaveAll s f).queues = s.queues :=
  foldl_keeps (P := fun (s' : State) => s'.tiles = s.tiles ∧ s'.launches = s.launches ∧ s'.queues = s.queues)
    (f := fun (s : State) d => s.leave d f) (fun _ _ h => h) _ ⟨rfl, rfl, rfl⟩

/-- A launch that has failed. -/
def failedIn (id : Nat) (ls : List Launch) : List Launch := ls.map fun y => if y.id == id then { y with phase := .failed, slot := none } else y

theorem phase_of_mem_failedIn {id : Nat} {ls : List Launch} {z : Launch} (h : z ∈ failedIn id ls) (hz : z.id = id) : z.phase = .failed := by
  obtain ⟨y, -, rfl⟩ := List.mem_map.mp h
  split at hz
  next hy => rw [if_pos hy]
  next hy => exact absurd (beq_iff_eq.mpr hz) hy

/-- What stands once the launch `l` has stopped, before its signal receives an error value: its tiles are released, and it has failed. -/
def launchStopped (s : State) (l : Launch) : State :=
  let held (x : Tile) : Bool := x.launch == l.id && (x.phase == .bound || x.phase == .running || x.phase == .trapped || x.phase == .saving)
  { (s.mapTiles fun _ x => if held x then x.release else x) with
    launches := failedIn l.id s.launches
    slots := match l.slot with | some n => s.slots.set n.toNat 0 | none => s.slots }

theorem tile_withLaunches (s : State) (ls : List Launch) (v : Vector (BitVec 512) 256) (n : TileNo) :
    ({ s with launches := ls, slots := v } : State).tile n = s.tile n := rfl

theorem launch_id {s : State} {id : Nat} {l : Launch} (h : s.launch id = some l) : l.id = id := by
  simpa using List.find?_some h

theorem stopLaunch_running {s : State} {id : Nat} {l : Launch} (h : s.launch id = some l) (hp : l.phase = .running) (code : Nat) :
    s.stopLaunch id code = (launchStopped s l).signalStore (some l.queue) l.ctx l.sig (errorValue code) := by
  obtain rfl := launch_id h
  unfold State.stopLaunch
  rw [h]
  dsimp only
  rw [if_neg (by simp [hp])]
  simp only [State.mapTiles_launches, State.mapTiles_slots]
  rfl

theorem launchStopped_released {s : State} {l : Launch} {n : TileNo} (hl : (s.tile n).launch = l.id)
    (hp : (s.tile n).phase = .running ∨ (s.tile n).phase = .trapped) : ((launchStopped s l).tile n).phase = .idle := by
  rw [launchStopped, tile_withLaunches, State.tile_mapTiles, if_pos (by obtain hp | hp := hp <;> simp [hl, hp])]
  rfl

/-- A packet that is complete: its queue takes no further step, and STATUS stays as it is. -/
theorem packetDone_eq (s : State) (q : BitVec 10) : s.packetDone q = s.setQueue q { (s.queue q) with prog := none } :=
  if_pos (by rw [Bool.or_eq_true]; exact .inl (beq_iff_eq.mpr rfl))

section
variable {s : State} {t : TileNo} {v : W64} {l : Launch}

theorem launchend_user (h : (s.tile t).phase ≠ .trapped) : exec (.launchend t v) s = .next s :=
  congrArg _ (if_neg (by simpa using h))

variable (hp : (s.tile t).phase = .trapped)
include hp

theorem launchend_handler : exec (.launchend t v) s = .next (s.endLaunch t v) :=
  congrArg _ (if_pos (by rw [hp]; rfl))

variable (hl : s.launchOf t = some l)
include hl

theorem launch_of_launchOf : s.launch (s.tile t).launch = some l := by
  simpa [State.launchOf, hp] using hl

variable (hr : l.phase = .running)
include hr

/-- The launch of a handler stops, and its packet or its graph takes the error. -/
theorem endLaunch_eq : ∃ f code, s.endLaunch t v =
    let s1 := (launchStopped (leaveAll s f) l).signalStore (some l.queue) l.ctx l.sig (errorValue code)
    match l.from_ with
    | .packet => s1.packetDone l.queue
    | .record _ _ _ => match s1.graphs[l.ctx.toNat] with
      | some g => s1.failGraph l.ctx (g.leave (s.tile t).launch) (errorValue code) 0
      | none => s1 := by
  refine ⟨fun b => b.elems.any fun e => e.launch == (s.tile t).launch,
    if 1 ≤ fld v.toNat 0 8 ∧ fld v.toNat 0 8 ≤ 0x40 then fld v.toNat 0 8 else cSoftwareTrap, ?_⟩
  have h1 : (leaveAll s fun b => b.elems.any fun e => e.launch == (s.tile t).launch).launch (s.tile t).launch = some l := by
    rw [State.launch, (leaveAll_same ..).2.1]
    exact launch_of_launchOf hp hl
  rw [← stopLaunch_running h1 hr]
  unfold State.endLaunch
  dsimp only
  rw [hl]
  rfl

theorem endLaunch_launches : (s.endLaunch t v).launches = failedIn l.id s.launches := by
  obtain ⟨f, code, e⟩ := endLaunch_eq (v := v) hp hl hr
  have h1 : ((launchStopped (leaveAll s f) l).signalStore (some l.queue) l.ctx l.sig (errorValue code)).launches = failedIn l.id s.launches := by
    rw [signalStore_launches, launchStopped, (leaveAll_same ..).2.1]
  rw [e]
  dsimp only
  split
  · rw [packetDone_eq]
    exact h1
  · split
    · rw [failGraph_launches, h1]
    · exact h1

/-- The launch of a packet without a signal: nothing is written. -/
theorem endLaunch_packet (hf : l.from_ = .packet) (hs : sigNamed l.sig = false) :
    ∃ f, s.endLaunch t v = (launchStopped (leaveAll s f) l).packetDone l.queue := by
  obtain ⟨f, code, e⟩ := endLaunch_eq (v := v) hp hl hr
  have h1 : (launchStopped (leaveAll s f) l).signalStore (some l.queue) l.ctx l.sig (errorValue code) = launchStopped (leaveAll s f) l :=
    if_pos (by rw [hs]; rfl)
  exact ⟨f, by rw [e, h1, hf]⟩

theorem endLaunch_packet_released (hf : l.from_ = .packet) (hs : sigNamed l.sig = false) :
    (∀ n, (s.tile n).launch = l.id → ((s.tile n).phase = .running ∨ (s.tile n).phase = .trapped) →
      ((s.endLaunch t v).tile n).phase = .idle) ∧ ((s.endLaunch t v).queue l.queue).prog = none := by
  obtain ⟨f, e⟩ := endLaunch_packet (v := v) hp hl hr hf hs
  rw [e, packetDone_eq]
  refine ⟨fun n hn hph => ?_, by simp [State.queue, State.setQueue]⟩
  have ht : (leaveAll s f).tile n = s.tile n := by rw [State.tile, (leaveAll_same ..).1, State.tile]
  exact launchStopped_released (s := leaveAll s f) (by rw [ht, hn]) (by rw [ht]; exact hph)

end

theorem ctx_setTile (s : State) (t : TileNo) (x : Tile) (c : BitVec 6) : (s.setTile t x).ctx c = s.ctx c := rfl

/-! ## The obligation -/

theorem writeRecordOf_here (s : State) : (s.writeRecordOf s.here).cur = { s.cur with
      sys := { s.cur.sys with lastSeq := some (s.ctx s.cur.ctx).seq, lastTile := BitVec.ofNat 10 s.here.val, reply := none } } ∧
    ((s.writeRecordOf s.here).ctx s.cur.ctx).records.length = (s.ctx s.cur.ctx).records.length + 1 ∧
    ((s.writeRecordOf s.here).ctx s.cur.ctx).seq = (s.ctx s.cur.ctx).seq + 1 := by
  refine ⟨State.cur_setTile_here .., ?_, ?_⟩
  · rw [State.writeRecordOf, ctx_setTile, State.makeRecord, ← State.cur, ctx_modCtx]
    exact List.length_append
  · rw [State.writeRecordOf, ctx_setTile, State.makeRecord, ← State.cur, ctx_modCtx]

/-- Settles O38, event by event. -/
theorem tileEventsAct : Obligations.TileEventsAct := by
  unfold Obligations.TileEventsAct
  refine ⟨fun s t h => ⟨tileReset_done h, tileReset_unpowered⟩, ?drain, fun s t v h hv => ⟨podMode_written h hv, podMode_held h⟩, ?record,
    fun s t e rest v hu hq hk hop ha hr => freplyRead_done hu hq hk hop ha hr, ?window, fun s t v h b => wdata_user h b, ?ends, ?endsPacket,
    fun s t v => launchend_user, ?sample, fun x fcc type strand word hd => ⟨traceAdd_room hd, traceAdd_full hd⟩, ?watchdog⟩
  case drain =>
    intro s t x
    obtain ⟨h, hk⟩ := recordReached_spec s t
    refine ⟨fun hd hp hw hv hl hs => ⟨_, drain_released hd hp hw hv hl hs, ?_⟩, fun hd hw => ⟨_, drain_busy hd hw, ?_⟩, drain_idle⟩
    · rw [State.modTile_eq, State.tile_setTile_same, h.same]
      exact ⟨rfl, rfl, rfl, rfl, fun n hn => (State.tile_setTile_other _ _ hn).trans (h.others n hn)⟩
    · refine ⟨?_, ?_, ?_, hk, h.others⟩
      all_goals rw [h.same]
  case record =>
    intro s d hu hl
    obtain ⟨hc, hr, hq⟩ := writeRecordOf_here s
    refine ⟨_, mfs_freply hu hl, ?_, hr, hq, ?_⟩
    all_goals rw [hc]
    rfl
  case window =>
    intro s t v h w next
    have hk := SameSelect.windowWrite (s.tile t) v
    refine ⟨wdata_handler h false, _, wdata_handler h true, ?_, ?_, fun n hn => State.tile_setTile_other _ _ hn, rfl⟩
    · rw [State.tile_setTile_same, if_pos rfl, windowNext_wsel, hk.2]
    · rw [State.tile_setTile_same, if_pos rfl, windowNext_wsel, hk.1]
  case ends =>
    intro s t v l hp hl hr
    exact ⟨_, launchend_handler hp, fun z hz => phase_of_mem_failedIn (endLaunch_launches hp hl hr ▸ hz)⟩
  case endsPacket =>
    intro s t v l hp hl hr hf hs
    obtain ⟨hn, hq⟩ := endLaunch_packet_released (v := v) hp hl hr hf hs
    exact ⟨_, launchend_handler hp, fun z hz => phase_of_mem_failedIn (endLaunch_launches hp hl hr ▸ hz), hn, hq⟩
  case sample =>
    intro s t k x pc
    refine ⟨fun ho hk hp => ?_, traceSample_off⟩
    have hpc : (if k == .control && x.isSup then x.pcOf k else x.userPc k) = pc := by
      by_cases h : k = .control ∧ x.isSup = true
      · exact (if_pos (by simpa using h)).trans (if_pos h).symm
      · exact ((if_neg (by simpa using h)).trans (userPc_eq h)).trans (if_neg h).symm
    rw [traceSample_on ho hk hp, hpc]
  case watchdog =>
    intro s t x
    refine ⟨fun hp hq hc => ?_, watchdog_waits⟩
    obtain ⟨h1, h2, h3, h4⟩ := killWith_live hc cWatchdog (w64 cWatchdog) 0 false true 0 0 (fld x.sys.ltile.toNat 0 12) t.val 0
    refine ⟨_, watchdog_kills hp hq, h1, h2, ?_, h3⟩
    rw [h4 t, if_pos (by obtain hp | hp := hp <;> simp [Tile.heldBy, x, hp])]
    rfl

end Sys2Proof.TileEvents

/-!
PROOFS of the family 04_lines.md: decoding and encoding are inverse to each other (O53, O54, O55; R90-R99).  Both directions read the word field
by field: an encoded word is an append of constants and operands, and `StandsAt w s c` says that one of them, `c`, stands in `w` from bit `s` on.
-/

namespace Sys2Proof.Decoding
open Sys2Proof

/-- The field `c` of a word stands at bit `s`. -/
def StandsAt {l : Nat} (w : W32) (s : Nat) (c : BitVec l) : Prop := w.extractLsb' s l = c

theorem append_inj {m n : Nat} {a a' : BitVec m} {b b' : BitVec n} : a ++ b = a' ++ b' ↔ a = a' ∧ b = b' := by
  constructor
  · intro h
    exact ⟨by simpa [BitVec.extractLsb'_append_eq_left] using congrArg (BitVec.extractLsb' n m) h,
      by simpa [BitVec.extractLsb'_append_eq_right] using congrArg (BitVec.extractLsb' 0 n) h⟩
  · rintro ⟨rfl, rfl⟩
    rfl

/-- An append stands where its low part stands and its high part stands behind it. -/
theorem standsAt_append {m n s : Nat} {w : W32} {a : BitVec m} {b : BitVec n} :
    StandsAt w s (a ++ b) ↔ StandsAt w (s + n) a ∧ StandsAt w s b := by
  unfold StandsAt
  rw [← BitVec.extractLsb'_append_extractLsb'_eq_extractLsb' rfl, append_inj]

/-- A field cut in two: the form that decides a comparison of overlapping fields. -/
theorem standsAt_cut {l : Nat} {w : W32} (s m n : Nat) (hl : l = m + n) (c : BitVec l) :
    StandsAt w s c ↔ StandsAt w (s + n) (c.extractLsb' n m) ∧ StandsAt w s (c.extractLsb' 0 n) := by
  subst hl
  rw [← standsAt_append, BitVec.extractLsb'_append_extractLsb'_eq_extractLsb' (Nat.zero_add n).symm, BitVec.extractLsb'_eq_self]

theorem standsAt_zero {w c : W32} : StandsAt w 0 c ↔ c = w := by
  unfold StandsAt
  rw [BitVec.extractLsb'_eq_self, eq_comm]

/-- `standsAt_cut` as a rewrite of the comparisons with constants that the decoder makes; a field that holds an operand is left whole. -/
theorem field_eq_cut (w : W32) (s m n k : Nat) (hk : k = m + n) (c : Nat) :
    w.extractLsb' s k = BitVec.ofNat k c ↔
      w.extractLsb' (s + n) m = (BitVec.ofNat k c).extractLsb' n m ∧ w.extractLsb' s n = (BitVec.ofNat k c).extractLsb' 0 n :=
  standsAt_cut s m n hk _

/-- A constant that reaches up to the word's top is the opcode with the zero field below it. -/
theorem field_eq_opcode {w : W32} {s k c : Nat} (hs : s + k = 32) (hk : 6 < k) :
    w.extractLsb' s k = BitVec.ofNat k c ↔
      w.extractLsb' 26 6 = (BitVec.ofNat k c).extractLsb' (k - 6) 6 ∧
        w.extractLsb' s (k - 6) = (BitVec.ofNat k c).extractLsb' 0 (k - 6) := by
  obtain rfl : s = 32 - k := by omega
  have h := field_eq_cut w (32 - k) 6 (k - 6) k (by omega) c
  rwa [show 32 - k + (k - 6) = 26 by omega] at h

theorem opcode_of_toNat {w : W32} {n : Nat} (h : (w.extractLsb' 26 6).toNat = n) : w.extractLsb' 26 6 = BitVec.ofNat 6 n := by
  rw [← h, BitVec.ofNat_toNat, BitVec.setWidth_eq]

theorem encodeWord_eret : encodeWord .eret = 3422552064#32 := rfl
theorem encodeWord_halt : encodeWord .halt = 3959422976#32 := rfl
theorem encodeWord_aflush : encodeWord .aflush = 469762048#32 := rfl

/-! ### What is decoded is encoded by the word read -/

/-- The answer `o` of a decoder is an instruction of the strand whose words are `w` and, as many as it takes, `x`. -/
def Reads (k : Strand) (w : W32) (x : List W32) (o : Option Instr) : Prop :=
  ∀ i, o = some i → i.onStrand k = true ∧ encodeWord i = w ∧ (i.extCountOk x.length = true → i.exts = x)

section
variable {k : Strand} {w : W32} {x : List W32} {i : Instr}

theorem reads_none : Reads k w x none := fun _ h => nomatch h

theorem reads_ite {c : Bool} {o : Option Instr} (hi : c = true → Reads k w x (some i)) (ho : Reads k w x o) :
    Reads k w x (if c then some i else o) := by
  split
  exacts [hi ‹_›, ho]

/-- A form without extension words. -/
theorem reads_bare (hk : i.onStrand k = true) (hx : i.exts = []) (hn : ∀ n, i.extCountOk n = (n == 0))
    (hw : StandsAt w 0 (encodeWord i)) : Reads k w x (some i) := by
  rintro _ ⟨⟩
  refine ⟨hk, standsAt_zero.1 hw, fun h => ?_⟩
  rw [hn, beq_iff_eq, List.length_eq_zero_iff] at h
  rw [hx, h]

/-- A form that takes the extension words delivered. -/
theorem reads_ext (hk : i.onStrand k = true) (hx : i.exts = x) (hw : StandsAt w 0 (encodeWord i)) : Reads k w x (some i) := by
  rintro _ ⟨⟩
  exact ⟨hk, standsAt_zero.1 hw, fun _ => hx⟩

end

/-- Each row of the opcode maps: its opcode (`hop`) and the conditions that lead to it (`hc`) are the constants of its format, and its operands
are the fields read, so that the encoder's append stands in the word. -/
theorem decodeRow_reads (k : Strand) (w : W32) (x : List W32) : Reads k w x (decodeRow k w x) := by
  cases k
  all_goals
    dsimp only [decodeRow, decodeControl, decodeVector, decodeLoad, decodeStore, decodeMatrix, decodeTransform, decodeSend,
      decodeReceive]
    split
  all_goals rename_i hop
  all_goals first | exact reads_none | replace hop := opcode_of_toNat hop
  all_goals repeat' first | exact reads_none | refine reads_ite (fun hc => ?_) ?_
  all_goals first | refine reads_bare rfl rfl (fun _ => rfl) ?_ | refine reads_ext rfl rfl ?_
  all_goals try simp only [beq_iff_eq, Bool.and_eq_true] at hc
  all_goals try refine standsAt_append.2 ?_
  all_goals
    simp only [↓standsAt_append, StandsAt, *, and_self, field_eq_opcode, encodeWord_eret, encodeWord_halt, encodeWord_aflush,
      BitVec.ofNat_eq_ofNat, BitVec.reduceExtractLsb', Nat.reduceAdd, Nat.reduceSub, Nat.reduceLT]

/-! ### What is encoded is decoded

`hw` holds every field of the encoded word: the constants decide the conditions on the way to the row, the operands are read back.  Where a
condition on that way compares other bits than the format's own fields do, the cuts named after the form say where to divide both. -/

theorem decodeRow_encodeWord_control (i : Instr) (w : W32) (hk : i.onStrand .control = true) (hw : StandsAt w 0 (encodeWord i)) :
    decodeRow .control w i.exts = some i := by
  have pnot_cut := field_eq_cut w 0 3 17 20 rfl
  have evtst_cut := field_eq_cut w 8 5 13 18 rfl
  cases i
  all_goals first | exact absurd hk Bool.false_ne_true | skip
  all_goals try replace hw := standsAt_append.1 hw
  all_goals
    simp only [↓standsAt_append, StandsAt, field_eq_opcode, encodeWord_eret, encodeWord_halt, pnot_cut, evtst_cut,
      BitVec.reduceExtractLsb', Nat.reduceAdd, Nat.reduceSub, Nat.reduceLT] at hw
    simp only [decodeRow, decodeControl, hw, beq_iff_eq, Bool.and_eq_true, pnot_cut, evtst_cut, and_false, and_true, ↓reduceIte,
      BitVec.ofNat_eq_ofNat, BitVec.reduceToNat, BitVec.reduceEq, BitVec.reduceExtractLsb', Nat.reduceAdd] <;> rfl

theorem decodeRow_encodeWord_vector (i : Instr) (w : W32) (hk : i.onStrand .vector = true) (hw : StandsAt w 0 (encodeWord i)) :
    decodeRow .vector w i.exts = some i := by
  have vdot2_cut := field_eq_cut w 0 2 3 5 rfl
  have vbsc_cut := field_eq_cut w 0 6 8 14 rfl
  have low_cut := field_eq_cut w 0 3 5 8 rfl
  have vins_cut := field_eq_cut w 0 2 9 11 rfl
  have vcbx_cut := field_eq_cut w 0 4 8 12 rfl
  have way_cut := field_eq_cut w 8 2 2 4 rfl
  cases i
  all_goals first | exact absurd hk Bool.false_ne_true | skip
  all_goals try replace hw := standsAt_append.1 hw
  all_goals
    simp only [↓standsAt_append, StandsAt, field_eq_opcode, encodeWord_halt, vdot2_cut, vbsc_cut, low_cut, vins_cut,
      vcbx_cut, way_cut, BitVec.reduceExtractLsb', Nat.reduceAdd, Nat.reduceSub, Nat.reduceLT] at hw
    simp only [decodeRow, decodeVector, hw, beq_iff_eq, Bool.and_eq_true, vdot2_cut, vbsc_cut, low_cut, vins_cut,
      vcbx_cut, way_cut, and_false, false_and, and_true, ↓reduceIte,
      BitVec.ofNat_eq_ofNat, BitVec.reduceToNat, BitVec.reduceEq, BitVec.reduceExtractLsb', Nat.reduceAdd] <;> rfl

/-- The six strands beside control and vector; the cuts are those of the address-register forms. -/
theorem decodeRow_encodeWord_array (i : Instr) (k : Strand) (w : W32) (hc : k ≠ .control) (hv : k ≠ .vector) (hk : i.onStrand k = true)
    (hw : StandsAt w 0 (encodeWord i)) : decodeRow k w i.exts = some i := by
  have add_cut := field_eq_cut w 4 5 9 14 rfl
  have addi_cut := field_eq_cut w 13 3 2 5 rfl
  have shli_cut := field_eq_cut w 6 5 7 12 rfl
  have li_cut := field_eq_cut w 13 4 5 9 rfl
  have take_cut := field_eq_cut w 15 4 3 7 rfl
  have ix_cut := field_eq_cut w 3 9 10 19 rfl
  cases i
  all_goals first | exact absurd hk Bool.false_ne_true | skip
  all_goals first | exact absurd (eq_of_beq hk) hc | exact absurd (eq_of_beq hk) hv | obtain rfl := eq_of_beq hk | cases k
  all_goals first | exact absurd rfl hc | exact absurd rfl hv | skip
  all_goals try replace hw := standsAt_append.1 hw
  all_goals
    simp only [↓standsAt_append, StandsAt, field_eq_opcode, encodeWord_halt, encodeWord_aflush, add_cut, addi_cut, shli_cut,
      li_cut, take_cut, ix_cut, BitVec.reduceExtractLsb', Nat.reduceAdd, Nat.reduceSub, Nat.reduceLT] at hw
    simp only [decodeRow, decodeLoad, decodeStore, decodeMatrix, decodeTransform, decodeSend, decodeReceive, hw, beq_iff_eq, Bool.and_eq_true,
      add_cut, addi_cut, shli_cut, li_cut, take_cut, ix_cut, and_false, false_and, and_true, ↓reduceIte,
      BitVec.ofNat_eq_ofNat, BitVec.reduceToNat, BitVec.reduceEq, BitVec.reduceExtractLsb', Nat.reduceAdd] <;> rfl

theorem decodeRow_encodeWord {i : Instr} {k : Strand} (hk : i.onStrand k = true) : decodeRow k (encodeWord i) i.exts = some i := by
  have hw : StandsAt (encodeWord i) 0 (encodeWord i) := standsAt_zero.2 rfl
  by_cases hc : k = .control
  · subst hc
    exact decodeRow_encodeWord_control i _ hk hw
  by_cases hv : k = .vector
  · subst hv
    exact decodeRow_encodeWord_vector i _ hk hw
  exact decodeRow_encodeWord_array i k _ hc hv hk hw

/-! ### The three checks of R99 -/

theorem decodeWord_eq_ok_iff {k : Strand} {w : W32} {x : List W32} {m : Bool} {i : Instr} :
    decodeWord k w x m = .ok i ↔
      decodeRow k w x = some i ∧ i.fieldsOk = true ∧ m = false ∧ i.extCountOk x.length = true ∧ i.extBitsOk = true := by
  unfold decodeWord
  cases decodeRow k w x with
  | none => simp
  | some j =>
    dsimp only
    rw [Option.some.injEq]
    constructor
    · intro h
      split at h
      · nomatch h
      split at h
      · nomatch h
      split at h
      · nomatch h
      obtain rfl := Except.ok.inj h
      simp_all
    · rintro ⟨rfl, hf, rfl, hn, hb⟩
      simp [hf, hn, hb]

theorem wf_iff (i : Instr) : i.wf = true ↔ i.fieldsOk = true ∧ i.extCountOk i.exts.length = true ∧ i.extBitsOk = true := by
  simp only [Instr.wf, Bool.and_eq_true, and_assoc]

theorem decodeDirective_loop (l : BitVec 3) (src : BitVec 1) (n c : BitVec 12) :
    decodeDirective (encodeWord (.loop l src n c)) = some (.loop l src n c) := by
  generalize hw : encodeWord (.loop l src n c) = w
  have h := standsAt_append.1 (standsAt_zero.2 hw)
  simp only [↓standsAt_append, StandsAt, Nat.reduceAdd] at h
  simp only [decodeDirective, h, BitVec.ofNat_eq_ofNat, beq_self_eq_true, ↓reduceIte]

/-! ### The obligations -/

/-- Settles O54: the words of an instruction name its row, and the checks of R99 are its well-formedness. -/
theorem decodeInvertsEncode : Obligations.DecodeInvertsEncode := by
  unfold Obligations.DecodeInvertsEncode
  refine ⟨fun i k hwf hk => ?_, fun l src n c _ => decodeDirective_loop l src n c, rfl⟩
  obtain ⟨hf, hn, hb⟩ := (wf_iff i).1 hwf
  exact decodeWord_eq_ok_iff.2 ⟨decodeRow_encodeWord hk, hf, rfl, hn, hb⟩

/-- Settles O55: the row read fixes the word, and the number of extensions that passes is the form's own. -/
theorem encodeInvertsDecode : Obligations.EncodeInvertsDecode := by
  unfold Obligations.EncodeInvertsDecode
  constructor
  · intro k w x i h
    obtain ⟨hrow, hf, -, hn, hb⟩ := decodeWord_eq_ok_iff.1 h
    obtain ⟨hk, hw, hx⟩ := decodeRow_reads k w x i hrow
    exact ⟨(wf_iff i).2 ⟨hf, (hx hn).symm ▸ hn, hb⟩, hk, hw, hx hn⟩
  · intro k w x i h
    obtain ⟨-, -, hm, -⟩ := decodeWord_eq_ok_iff.1 h
    exact absurd hm.symm Bool.false_ne_true

/-- All ones name a reserved opcode on every strand. -/
theorem decodeWord_ones (k : Strand) : decodeWord k 0xFFFFFFFF#32 [] false = .error .illegalInsn := by
  cases k <;> rfl

/-- Settles O53: the decoder evaluated on the words. -/
theorem wordsDecode : Obligations.WordsDecode := by
  unfold Obligations.WordsDecode
  exact ⟨rfl, rfl, rfl, rfl, rfl, rfl, rfl, rfl, rfl, rfl, rfl, rfl, rfl, rfl, rfl, rfl, rfl, rfl, decodeWord_ones⟩

end Sys2Proof.Decoding

/-!
PROOFS of the family 04_lines.md: every step answers a next state (O57).
-/
namespace Sys2Proof.GoesOn
open Sys2Proof Sys2Proof.Machine Sys2Proof.Safety

/-- An outcome that is a next state: no fault and no refusal. -/
def Answers (o : Out) : Prop := ∃ t, o = .next t

theorem answers_next (s : State) : Answers (.next s) := ⟨s, rfl⟩

theorem answers_exec (i : Instr) (s : State) : Answers (exec i s) := Turns.exec_next i s

theorem answers_andThen {o : Out} {f : State → Out} (ho : Answers o) (hf : ∀ s, Answers (f s)) : Answers (andThen o f) := by
  obtain ⟨s, rfl⟩ := ho
  exact hf s

theorem answers_ite {c : Prop} [Decidable c] {a b : Out} (ha : Answers a) (hb : Answers b) : Answers (if c then a else b) := by
  split
  exacts [ha, hb]

/-- One step after another over a list. -/
theorem answers_foldl {α : Type} {f : α → State → Out} (hf : ∀ a s, Answers (f a s)) (l : List α) {o : Out} (ho : Answers o) :
    Answers (l.foldl (fun o a => andThen o (f a)) o) :=
  foldl_keeps (P := Answers) (fun _ a h => answers_andThen h (hf a)) l ho

/-! ## A strand's part of a TC -/

theorem answers_playStrand (p : Play) (k : Strand) (s : State) : Answers (playStrand p k s) := by
  cases p with
  | rest => exact answers_next s
  | empty => exact answers_exec (.resultLanding s.here k) s
  | finish => exact answers_exec (.fetchEndHalt s.here k) s
  | badExt pc => exact answers_next _
  | badLine a => exact answers_next _
  | bad c => exact answers_next _
  | run i => exact answers_andThen (answers_exec i s) fun _ => answers_next _

theorem answers_earlyStrand (s : State) : Answers (earlyStrand s) := by
  unfold earlyStrand
  refine answers_ite (answers_exec (.trapEntry s.here) s) ?_
  split
  · exact answers_ite (answers_next s) (answers_playStrand _ _ s)
  · exact answers_next s
  · exact answers_playStrand _ _ s

theorem answers_lateStrand (s : State) : Answers (lateStrand s) := by
  unfold lateStrand
  split
  · exact answers_ite (answers_playStrand _ _ s) (answers_next s)
  · exact answers_next s

theorem answers_accessStrand (s : State) : Answers (accessStrand s) := by
  unfold accessStrand
  split
  · exact answers_ite (answers_playStrand _ _ s) (answers_next s)
  · exact answers_next _
  · exact answers_next s

theorem answers_controlJudged (s : State) : Answers (controlJudged s) := by
  obtain h | ⟨x, -, h⟩ := Turns.controlJudged_cases s
  all_goals
    rw [h]
    exact answers_lateStrand _

/-! ## The tile's part of a TC -/

theorem answers_engines (s : State) : Answers (engines s) := by
  unfold engines
  refine answers_andThen (answers_exec (.anvilPrescan s.here) s) fun a => ?_
  refine answers_andThen (answers_exec (.transformStep s.here) a) fun b => ?_
  refine answers_andThen (answers_exec (.commandRaise s.here .matrix) b) fun c => ?_
  refine answers_andThen (answers_exec (.commandRaise s.here .transform) c) fun d => ?_
  refine answers_andThen (answers_exec (.commandRaise s.here .send) d) fun e => ?_
  refine answers_andThen (answers_exec (.commandRaise s.here .receive) e) fun f => ?_
  exact answers_foldl (fun k => answers_exec (.pendingSigPerform s.here k)) Strand.all (answers_next f)

theorem answers_closing (s : State) : Answers (closing s) := by
  unfold closing
  refine answers_andThen (answers_exec (.anvilStep s.here) s) fun t => ?_
  exact answers_exec (.branchResolve s.here) t

theorem answers_fetchPhase (s : State) : Answers (fetchPhase s) := by
  unfold fetchPhase
  generalize (if s.cur.isSup then none else s.cur.nextDirective) = d
  cases d with
  | none => exact answers_exec (.fetchLine s.here) s
  | some i =>
    cases i with
    | loop l src n c => exact answers_exec (.loop l src n c) s
    | nopl => exact answers_exec .nopl s
    | _ => exact answers_exec (.fetchLine s.here) s

theorem answers_traceTc (s : State) : Answers (traceTc s) := by
  unfold traceTc
  exact answers_ite (answers_foldl (fun k => answers_exec (.traceSample s.here k)) Strand.all (answers_next _)) (answers_next _)

theorem answers_turnStep (s : State) : Answers (turnStep s) := by
  have advance (t : State) : Answers (.next t.advance) := answers_next _
  unfold turnStep
  split
  · exact answers_andThen (answers_ite (answers_exec (.flitDepart s.here) s) (answers_next s)) fun _ => answers_next _
  · exact answers_andThen (answers_engines s) advance
  · exact answers_andThen (answers_controlJudged s) advance
  · exact answers_andThen (answers_closing s) advance
  · exact answers_andThen (answers_fetchPhase s) advance
  · refine answers_ite (answers_andThen (answers_earlyStrand s) advance) (answers_ite ?_ (answers_ite ?_ ?_))
    · exact answers_andThen (answers_lateStrand s) fun a =>
        answers_andThen (answers_ite (answers_exec (.followOnStart a.here) a) (answers_next a)) advance
    · exact answers_andThen (answers_accessStrand s) advance
    · exact answers_andThen (answers_traceTc _) fun _ => answers_next _

theorem step_safe (s : State) : StepSafe s := by
  unfold StepSafe
  cases h : s.agenda with
  | nil =>
    rw [Turns.step_turn h]
    exact answers_turnStep s
  | cons w rest =>
    rw [Turns.step_agenda h]
    exact answers_exec _ _

/-- Settles O57: each row's meaning answers, and the phases of a turn only put such answers after one another. -/
theorem everyStepGoesOn : Obligations.EveryStepGoesOn := ⟨answers_exec, step_safe⟩

end Sys2Proof.GoesOn

/-!
PROOFS of the family 04_lines.md: branches (O8).
-/
namespace Sys2Proof.Branches
open Sys2Proof Sys2Proof.Machine Sys2Proof.ControlState

/-! ## Line addresses (R22) -/

theorem lineMask_getLsbD {i : Nat} (hi : i < 64) : (~~~31#64).getLsbD i = decide (5 ≤ i) := by
  interval_cases i <;> rfl

theorem lineAddr_eq (pc : W64) : lineAddr pc = BitVec.ofNat 64 (pc.toNat / 32 * 32) := by
  have h : lineAddr pc = pc >>> 5 <<< 5 := by
    apply BitVec.eq_of_getLsbD_eq
    intro i hi
    rw [lineAddr, BitVec.getLsbD_and, lineMask_getLsbD hi, BitVec.getLsbD_shiftLeft, BitVec.getLsbD_ushiftRight]
    by_cases h5 : i < 5
    · simp [h5]
    · simp [hi, h5, Nat.add_sub_cancel' (Nat.not_lt.mp h5), Nat.not_lt.mp h5]
  rw [h]
  apply BitVec.eq_of_toNat_eq
  simp [BitVec.toNat_shiftLeft, Nat.shiftLeft_eq, Nat.shiftRight_eq_div_pow]

/-- A displacement of `n` lines from the line of the instruction at the head of the control queue. -/
theorem lineAfter_eq (t : Tile) (n : Int) : Claims.lineAfter t n = lineAddr (t.pcOf .control) + BitVec.ofInt 64 (n * 32) := by
  rw [Claims.lineAfter, BitVec.ofInt_add, BitVec.ofInt_natCast, lineAddr_eq]

theorem brTarget_eq (t : Tile) (d : BitVec 22) : brTarget t d = Claims.lineAfter t d.toInt := by
  rw [lineAfter_eq, brTarget, sext64, BitVec.signExtend, BitVec.ofInt_mul, BitVec.shiftLeft_eq_mul_twoPow]
  rfl

theorem linkOf_eq (t : Tile) : linkOf t = Claims.lineAfter t 1 := by
  rw [lineAfter_eq]
  rfl

/-! ## The issue of a branch (R78, R79) -/

theorem setBank_squeue (t : Tile) (b : Bank) : (t.setBank b).ctl.squeue = t.ctl.squeue := by
  unfold Tile.setBank
  dsimp only
  split <;> rfl

theorem tickControl_squeue (t : Tile) : t.tickControl.ctl.squeue = t.ctl.squeue := setBank_squeue t _

theorem pcOf_seen (s : State) : (s.seen .control).pcOf .control = s.cur.pcOf .control := by
  rw [seen_control]
  unfold Tile.pcOf Tile.str
  rw [tickControl_squeue, tickControl_isSup, Tile.tickControl_strand, Tile.tickControl_fetch, Tile.tickControl_sfetch]

theorem lineAfter_seen (s : State) (n : Int) : Claims.lineAfter (s.seen .control) n = Claims.lineAfter s.cur n := by
  rw [Claims.lineAfter, pcOf_seen, Claims.lineAfter]

theorem codeLines_seen (s : State) : s.codeLines (s.seen .control) = s.codeLines s.cur := rfl

theorem s_seen (s : State) (a : BitVec 5) : (s.seen .control).s a = s.cur.s a := s.cur.tickControl_s a

/-- A branch inside the code store waits to resolve. -/
theorem branch_inside (t : Tile) {lines : Nat} {tgt : W64} (h : tgt.toNat / 32 < lines) :
    t.branch lines (some tgt) = Claims.branched t (some tgt) := by
  simp only [Tile.branch, decide_eq_false (Nat.not_le.mpr h), Bool.false_eq_true, if_false]
  rfl

theorem branch_none (t : Tile) (lines : Nat) : t.branch lines none = Claims.branched t none := rfl

section
variable {s : State} {p : BitVec 3} {n : BitVec 1}

section
variable (g : (s.seen .control).guard p n = true)
include g

theorem execBr_taken {d : BitVec 22} (h : (Claims.lineAfter s.cur d.toInt).toNat / 32 < s.codeLines s.cur) :
    execBr p n d s = s.yields .control (Claims.branched (s.seen .control) (some (Claims.lineAfter s.cur d.toInt))) := by
  refine congrArg Host.Outcome.next (State.issueT_done ?_)
  rw [if_pos g, brTarget_eq, lineAfter_seen, codeLines_seen, branch_inside _ h]

theorem execCall_taken {d : BitVec 22} (h : (Claims.lineAfter s.cur d.toInt).toNat / 32 < s.codeLines s.cur) :
    execCall p n d s = s.yields .control
      ((Claims.branched (s.seen .control) (some (Claims.lineAfter s.cur d.toInt))).setS 31 (Claims.lineAfter s.cur 1)) := by
  refine congrArg Host.Outcome.next (State.issueT_done ?_)
  rw [if_pos g, brTarget_eq, linkOf_eq, lineAfter_seen, lineAfter_seen, codeLines_seen, branch_inside _ h]

theorem jumpReg_taken {a : BitVec 5} (link : Option (BitVec 5)) (ha : (s.cur.s a).toNat % 32 = 0)
    (h : (s.cur.s a).toNat / 32 < s.codeLines s.cur) :
    jumpReg a link p n s = s.yields .control (match link with
      | some d => (Claims.branched (s.seen .control) (some (s.cur.s a))).setS d (Claims.lineAfter s.cur 1)
      | none => Claims.branched (s.seen .control) (some (s.cur.s a))) := by
  refine congrArg Host.Outcome.next (State.issueT_done ?_)
  simp only [if_pos g, s_seen, ha, linkOf_eq, lineAfter_seen, codeLines_seen, branch_inside _ h]
  rfl

theorem jumpReg_misaligned {a : BitVec 5} (link : Option (BitVec 5)) (ha : (s.cur.s a).toNat % 32 ≠ 0) :
    jumpReg a link p n s = .next (s.fault s.here .control { code := cMisaligned, faddr := s.cur.s a }) := by
  refine congrArg Host.Outcome.next (State.issueT_trap ?_)
  simp only [if_pos g, s_seen]
  exact if_pos (by simpa using ha)

end

section
variable (g : (s.seen .control).guard p n = false)
include g

theorem execBr_false (d : BitVec 22) : execBr p n d s = s.yields .control (Claims.branched (s.seen .control) none) := by
  refine congrArg Host.Outcome.next (State.issueT_done ?_)
  rw [if_neg (by simp [g]), branch_none]

theorem execCall_false (d : BitVec 22) : execCall p n d s = s.yields .control (Claims.branched (s.seen .control) none) := by
  refine congrArg Host.Outcome.next (State.issueT_done ?_)
  rw [if_neg (by simp [g]), branch_none]

theorem jumpReg_false (a : BitVec 5) (link : Option (BitVec 5)) :
    jumpReg a link p n s = s.yields .control (Claims.branched (s.seen .control) none) := by
  refine congrArg Host.Outcome.next (State.issueT_done ?_)
  rw [if_neg (by simp [g]), branch_none]

end

end

/-! ## Resolution, three TCs later (R78) -/

/-- Trace records change the tile's trace state and nothing else. -/
theorem traceAdd_only (t : Tile) (fcc : W64) (type strand : Nat) (word : W64) : ∃ r, t.traceAdd fcc type strand word = { t with trace := r } := by
  unfold Tile.traceAdd
  dsimp only
  split_ifs
  all_goals exact ⟨_, rfl⟩

theorem traceBr_only (t : Tile) (fcc nx : W64) (taken : Bool) : ∃ r, t.traceBr fcc nx taken = { t with trace := r } := by
  unfold Tile.traceBr
  split
  · exact traceAdd_only t ..
  · exact ⟨t.trace, rfl⟩

theorem traceBr_fetch (t : Tile) (fcc nx : W64) (taken : Bool) : (t.traceBr fcc nx taken).fetch = t.fetch := by
  obtain ⟨r, h⟩ := traceBr_only t fcc nx taken
  rw [h]

/-- The branch of user mode that is due resolves; what a trace record of it changes is not fetch's. -/
theorem branchResolve_due {s : State} {t : TileNo} {b : PendingBranch} {c : W64} {tgt : Option W64} (hu : (s.tile t).isSup = false)
    (hb : (s.tile t).fetch.branch = some b) (hi : b.issued = some (c, tgt)) (hc : 3 ≤ ((s.tile t).tcc - c).toNat) :
    ∃ s', exec (.branchResolve t) s = .next s' ∧
      (s'.tile t).fetch = { (s.tile t).fetch.resolve b with notBefore := (s.tile t).tcc + 1 } := by
  refine ⟨_, rfl, ?_⟩
  rw [State.modTile_eq, State.tile_setTile_same]
  simp only [hu, Bool.false_eq_true, if_false, hb, hi, if_pos hc, traceBr_fetch]

theorem resolve_taken (f : Fetch) {b : PendingBranch} {c tgt : W64} (hi : b.issued = some (c, some tgt)) :
    (f.resolve b).branch = none ∧ (f.resolve b).addr = tgt := by
  simp [Fetch.resolve, Fetch.endLevels, hi]

theorem resolve_untaken {f : Fetch} {b : PendingBranch} {c : W64} (hi : b.issued = some (c, none)) (hl : ∀ l ∈ f.level, l.active = false) :
    (f.resolve b).branch = none ∧ (f.resolve b).addr = BitVec.ofNat 64 (32 * (b.line.toNat / 32 + b.skip + 1)) := by
  have hn (n : Nat) (i : Fin 6) : ¬ Claims.endsAt { f with branch := none } n i := fun h =>
    Bool.false_ne_true ((hl _ (Vector.getElem_mem i.isLt)).symm.trans h.1)
  simp only [Fetch.resolve, hi, Fetching.next_of_none (hn _)]
  exact ⟨trivial, trivial⟩

/-- Settles O8: the issue of the four forms, and then the resolution of what it left in `fetch.branch`. -/
theorem branchesRedirectFetch : Obligations.BranchesRedirectFetch := by
  unfold Obligations.BranchesRedirectFetch
  refine ⟨fun s p n d g h => ⟨execBr_taken g h, execCall_taken g h⟩,
    fun s p n d a g ha h => ⟨jumpReg_taken g none ha h, jumpReg_taken g (some d) ha h⟩,
    fun s p n d a g ha => ⟨jumpReg_misaligned g none ha, jumpReg_misaligned g (some d) ha⟩,
    fun s p n d a disp g => ⟨execBr_false g disp, execCall_false g disp, jumpReg_false g a none, jumpReg_false g a (some d)⟩,
    fun s t b c tgt hu hb hi hc => ?taken, fun s t b c hu hb hi hc hl => ?untaken⟩
  case taken =>
    obtain ⟨s', he, hf⟩ := branchResolve_due hu hb hi hc
    obtain ⟨hbr, ha⟩ := resolve_taken (s.tile t).fetch hi
    exact ⟨s', he, by rw [hf]; exact ⟨hbr, ha, rfl⟩⟩
  case untaken =>
    obtain ⟨s', he, hf⟩ := branchResolve_due hu hb hi hc
    obtain ⟨hbr, ha⟩ := resolve_untaken hi hl
    exact ⟨s', he, by rw [hf]; exact ⟨hbr, ha, rfl⟩⟩

end Sys2Proof.Branches

/-!
PROOFS of the family 04_lines.md: what a fault does (O14).
-/
namespace Sys2Proof.Faulting
open Sys2Proof Sys2Proof.Machine

/-! ## The fault of a strand at its next instruction -/

/-- The PC of a user strand whose queue is not empty is that of its head. -/
theorem pcOf_of_queue {t : Tile} {k : Strand} {e : QEntry} {rest : List QEntry} (hk : k ≠ .control ∨ t.isSup = false)
    (hq : (t.str k).queue = e :: rest) : t.pcOf k = e.pc := by
  have h : (k == .control && t.isSup) = false := by
    obtain h | h := hk <;> simp [h]
  rw [Tile.pcOf, h, hq]
  rfl

/-- The faulting strand: its window is written, it stops unless it is control, and its queue and count stay. -/
theorem str_faultAt (t : Tile) (k : Strand) (f : Trap) (pc : W64) :
    (t.faultAt k f pc).str k = { t.str k with
      fault := { cause := f.word, fpc := pc, faddr := f.faddr }
      stopped := (t.str k).stopped || k != .control
      reached := if t.isSup then none else some t.tcc
      pc := if k == .control && (t.str k).halted then (t.str k).pc else t.pcOf k } := by
  cases h : t.isSup with
  | false => simp [Tile.faultAt, h, Tile.str, Tile.modStr, Tile.dropErrors]
  | true => simp [Tile.faultAt, h, Tile.str, Tile.modStr, Tile.dropErrors]

/-- In user mode a fault changes the strands' common state and the translations kept, and nothing else of the tile. -/
theorem faultAt_user_only {t : Tile} (hu : t.isSup = false) (k : Strand) (f : Trap) (pc : W64) :
    ∃ st tlb, t.faultAt k f pc = { t with strand := st, tlb := tlb } := by
  refine ⟨(t.faultAt k f pc).strand, (t.faultAt k f pc).tlb, ?_⟩
  simp only [Tile.faultAt, hu]
  rfl

/-- While the handler runs a fault is noted in FPEND besides. -/
theorem faultAt_sup_only {t : Tile} (hs : t.isSup = true) (k : Strand) (f : Trap) (pc : W64) :
    ∃ st tlb, t.faultAt k f pc =
      { t with strand := st, tlb := tlb, sys := { t.sys with fpend := t.sys.fpend ||| BitVec.ofNat 8 (2 ^ k.pos) } } := by
  refine ⟨(t.faultAt k f pc).strand, (t.faultAt k f pc).tlb, ?_⟩
  simp only [Tile.faultAt, hs]
  rfl

theorem fault_other {s : State} {k : Strand} (hk : k ≠ .control) (f : Trap) :
    s.fault s.here k f = s.setTile s.here (s.cur.faultAt k f (s.cur.pcOf k)) := by
  rw [State.fault, if_neg (by simpa using hk)]
  rfl

section
variable {s : State} {k : Strand} {f : Trap} {e : QEntry} {rest : List QEntry} (hk : k ≠ .control) (hq : (s.cur.str k).queue = e :: rest)
include hk hq

theorem fault_other_str : (s.fault s.here k f).cur.str k = { s.cur.str k with
      fault := { cause := f.word, fpc := e.pc, faddr := f.faddr }
      stopped := true
      reached := if s.cur.isSup then none else some s.cur.tcc
      pc := e.pc } := by
  have hp := pcOf_of_queue (.inl hk) hq
  rw [fault_other hk, State.cur_setTile_here, str_faultAt, hp]
  simp [hk]

end

/-! ## Trap entry from user mode (R257) -/

theorem traceEntry_only (t : Tile) (fcc : W64) : ∃ r, t.traceEntry fcc = { t with trace := r } := by
  unfold Tile.traceEntry
  split
  · split
    · exact Branches.traceBr_only t ..
    · exact ⟨t.trace, rfl⟩
  · exact ⟨t.trace, rfl⟩

theorem trapEntry_entered (t : Tile) (k : Strand) : Claims.Entered t (t.trapEntry k) k (t.str k).fault :=
  ⟨rfl, rfl, rfl, rfl, rfl, rfl, rfl, rfl, rfl, rfl, rfl, rfl, rfl, rfl, rfl, rfl, rfl, rfl⟩

theorem str_trapEntry (t : Tile) (k j : Strand) : (t.trapEntry k).str j = { t.str j with reached := none } := by
  simp [Tile.trapEntry, Tile.str]

theorem trapEntry_epc {t : Tile} (k : Strand) {e : QEntry} {rest : List QEntry} (hu : t.isSup = false)
    (hh : (t.str .control).halted = false) (hq : (t.str .control).queue = e :: rest) : (t.trapEntry k).sys.epc = e.pc := by
  dsimp only [Tile.trapEntry]
  rw [if_neg (by simp [hh])]
  exact pcOf_of_queue (.inr hu) hq

/-- The tile from which the fault of user control is taken: the fault is noted, and a branch that has issued leaves its trace record. -/
def faulted (s : State) (f : Trap) : Tile := (s.cur.faultAt .control f (s.cur.pcOf .control)).traceEntry s.fcc

theorem faulted_only {s : State} (hu : s.cur.isSup = false) (f : Trap) :
    ∃ st tlb r, faulted s f = { s.cur with strand := st, tlb := tlb, trace := r } := by
  obtain ⟨st, tlb, h⟩ := faultAt_user_only hu .control f (s.cur.pcOf .control)
  rw [faulted, h]
  obtain ⟨r, hr⟩ := traceEntry_only { s.cur with strand := st, tlb := tlb } s.fcc
  exact ⟨st, tlb, r, hr⟩

theorem faulted_str (s : State) (f : Trap) :
    (faulted s f).str .control = (s.cur.faultAt .control f (s.cur.pcOf .control)).str .control := by
  obtain ⟨r, hr⟩ := traceEntry_only (s.cur.faultAt .control f (s.cur.pcOf .control)) s.fcc
  rw [faulted, hr]
  rfl

/-- A fault of user control is taken at once. -/
theorem fault_user {s : State} (hu : s.cur.isSup = false) (f : Trap) :
    s.fault s.here .control f = s.setTile s.here ((faulted s f).trapEntry .control) := by
  rw [State.fault, if_pos (beq_self_eq_true _), ← State.cur, if_neg (by simp [hu])]
  rfl

section
variable {s : State} {f : Trap} {e : QEntry} {rest : List QEntry} (hu : s.cur.isSup = false) (hq : (s.cur.str .control).queue = e :: rest)
include hu hq

theorem fault_user_entered : Claims.Entered s.cur (s.fault s.here .control f).cur .control { cause := f.word, fpc := e.pc, faddr := f.faddr } := by
  have h := trapEntry_entered (faulted s f) .control
  rw [faulted_str, str_faultAt, pcOf_of_queue (.inr hu) hq] at h
  rw [fault_user hu, State.cur_setTile_here]
  obtain ⟨st, tlb, r, hf⟩ := faulted_only hu f
  rw [hf] at h ⊢
  exact h

theorem fault_user_epc (hh : (s.cur.str .control).halted = false) : (s.fault s.here .control f).cur.sys.epc = e.pc := by
  rw [fault_user hu, State.cur_setTile_here]
  refine trapEntry_epc .control (rest := rest) ?_ ?_ ?_
  · obtain ⟨st, tlb, r, hf⟩ := faulted_only hu f
    rw [hf]
    exact hu
  · rw [faulted_str, str_faultAt]
    exact hh
  · rw [faulted_str, str_faultAt]
    exact hq

end

/-! ## The obligation -/

theorem fpend_getLsbD (x : BitVec 8) (k : Strand) : (x ||| BitVec.ofNat 8 (2 ^ k.pos)).getLsbD k.pos = true := by
  cases k <;> simp [Strand.pos]

theorem word_eq {code sub tcode : Nat} {faddr : W64} (hc : code < 256) (hs : sub < 256) (ht : tcode < 0x4000) :
    Trap.word { code := code, sub := sub, tcode := tcode, faddr := faddr } = Claims.causeWord code sub tcode := by
  simp [Trap.word, Claims.causeWord, Nat.mod_eq_of_lt hc, Nat.mod_eq_of_lt hs, Nat.mod_eq_of_lt ht]

/-- Settles O14, by the strand that faults and the mode its tile is in. -/
theorem faultStopsTheStrand : Obligations.FaultStopsTheStrand := by
  unfold Obligations.FaultStopsTheStrand
  refine ⟨fun s k f e rest hk hq => ?other, fun s f e rest hu hq hh => ?user, fun s f hs hl => ?nested,
    fun code sub tcode faddr hc hs ht => word_eq hc hs ht⟩
  case other =>
    have hstr := fault_other_str (f := f) hk hq
    have hcur : (s.fault s.here k f).cur = s.cur.faultAt k f (s.cur.pcOf k) := by rw [fault_other hk, State.cur_setTile_here]
    refine ⟨fun n hn => ?_, ?_, ?_, ?_⟩
    · rw [fault_other hk]
      exact s.tile_setTile_other _ hn
    · rw [fault_other hk, State.setTile_store]
    · rw [fault_other hk, State.setTile_ctxs]
    rw [hstr, hcur]
    cases hu : s.cur.isSup with
    | false =>
      obtain ⟨st, tlb, h⟩ := faultAt_user_only hu k f (s.cur.pcOf k)
      rw [h]
      exact ⟨hq, rfl, rfl, rfl, rfl, rfl, rfl, rfl, fun _ => ⟨rfl, rfl⟩, nofun⟩
    | true =>
      obtain ⟨st, tlb, h⟩ := faultAt_sup_only hu k f (s.cur.pcOf k)
      rw [h]
      exact ⟨hq, rfl, rfl, rfl, rfl, rfl, rfl, rfl, nofun, fun _ => fpend_getLsbD _ k⟩
  case user =>
    refine ⟨fault_user_entered hu hq, fault_user_epc hu hq hh, ?_, ?_, fun n hn => ?_, ?_⟩
    · rw [fault_user hu, State.cur_setTile_here, str_trapEntry, faulted_str, str_faultAt]
      exact hq
    · rw [fault_user hu, State.cur_setTile_here, str_trapEntry, faulted_str, str_faultAt]
    · rw [fault_user hu]
      exact s.tile_setTile_other _ hn
    · rw [fault_user hu, State.setTile_store]
  case nested =>
    obtain ⟨h1, h2, -⟩ := TileEvents.killWith_live hl cNested f.word 0 true false (s.cur.pcOf .control) f.faddr s.cur.sys.ltile.toNat
      s.here.val (BitVec.ofNat 64 f.tcode)
    rw [State.fault, if_pos (beq_self_eq_true _), ← State.cur, if_pos hs]
    exact ⟨h1, h2⟩

end Sys2Proof.Faulting

/-!
PROOFS of the family 05_control.md: the results of the ALU, predicate and latch forms, false guards, and the frame of these forms (O1, O2, O5, O6).
-/
namespace Sys2Proof.ControlForms
open Sys2Proof Sys2Proof.Machine Sys2Proof.ControlState Sys2Proof.Branches

/-! ## Words as numbers -/

section
variable {w : Nat} (x y : BitVec w) (n : Nat)

theorem add_eq_ofNat : x + y = BitVec.ofNat w (x.toNat + y.toNat) := by simp [BitVec.ofNat_add]

theorem sub_eq_ofInt : x - y = BitVec.ofInt w ((x.toNat : Int) - y.toNat) := by
  simp [Int.sub_eq_add_neg, BitVec.ofInt_add, BitVec.ofInt_neg, BitVec.sub_eq_add_neg]

theorem mul_eq_ofNat : x * y = BitVec.ofNat w (x.toNat * y.toNat) := by simp [BitVec.ofNat_mul]

theorem shiftLeft_eq_ofNat : x <<< n = BitVec.ofNat w (x.toNat * 2 ^ n) :=
  BitVec.eq_of_toNat_eq (by simp [Nat.shiftLeft_eq])

theorem ushiftRight_eq_ofNat : x >>> n = BitVec.ofNat w (x.toNat / 2 ^ n) := by
  rw [← Nat.shiftRight_eq_div_pow, ← BitVec.toNat_ushiftRight, BitVec.ofNat_toNat, BitVec.setWidth_eq]

theorem sshiftRight_eq_ofInt : x.sshiftRight n = BitVec.ofInt w (x.toInt / 2 ^ n) := by
  rw [BitVec.sshiftRight, Int.shiftRight_eq_div_pow]
  rfl

/-- Where equal operands give equal results, the strict order selects as the other one does. -/
theorem select_lt_eq_select_le {α ι : Type} [LinearOrder ι] {i j : ι} {a b : α} (h : i = j → a = b) :
    (if i < j then a else b) = if i ≤ j then a else b := by
  obtain hij | hij | hij := lt_trichotomy i j
  · simp [hij, hij.le]
  · simp [hij, h hij]
  · simp [hij.not_gt, hij.not_ge]

end

section
variable (x y : W64)

theorem lo32_add : lo32 x + lo32 y = BitVec.ofNat 32 (x.toNat + y.toNat) := by
  simp [lo32, BitVec.ofNat_add, BitVec.ofNat_toNat]

theorem lo32_sub : lo32 x - lo32 y = BitVec.ofInt 32 ((x.toNat : Int) - y.toNat) := by
  simp [lo32, Int.sub_eq_add_neg, BitVec.ofInt_add, BitVec.ofInt_neg, BitVec.sub_eq_add_neg]

theorem lo32_mul : lo32 x * lo32 y = BitVec.ofNat 32 (x.toNat * y.toNat) := by
  simp [lo32, BitVec.ofNat_mul]

theorem lo32_shiftLeft (n : Nat) : lo32 x <<< n = BitVec.ofNat 32 (x.toNat * 2 ^ n) :=
  BitVec.eq_of_toNat_eq (by simp [lo32, Nat.shiftLeft_eq])

end

/-! ## The ALU forms of two operands (R110, Table 5-2) -/

/-- A form whose result is `g` of its operands delivers the `f` that is equal to it. -/
theorem aluRegister {mk : BitVec 5 → BitVec 5 → BitVec 5 → BitVec 3 → BitVec 1 → Instr} {f : W64 → W64 → W64} (g : W64 → W64 → W64)
    (h : ∀ x y, g x y = f x y)
    (hx : ∀ d a b p n s, exec (mk d a b p n) s = alu d p n (fun t => g (t.s a) (t.s b)) s := by intros; rfl) :
    Claims.AluRegister mk f := by
  intro s d a b p n hg
  rw [hx, alu_done _ hg, s_seen, s_seen, h]

theorem aluDeliversTableResult : Claims.AluDeliversTableResult := by
  unfold Claims.AluDeliversTableResult
  refine ⟨?add, ?sub, ?and, ?or, ?xor, ?andn, ?shl, ?shr, ?sra, ?min, ?max, ?minu, ?maxu, ?addW, ?subW, ?shlW, ?shrW, ?sraW⟩
  case add => exact aluRegister (· + ·) add_eq_ofNat
  case sub => exact aluRegister (· - ·) sub_eq_ofInt
  case and => exact aluRegister (· &&& ·) fun _ _ => rfl
  case or => exact aluRegister (· ||| ·) fun _ _ => rfl
  case xor => exact aluRegister (· ^^^ ·) fun _ _ => rfl
  case andn => exact aluRegister (fun x y => x &&& ~~~y) fun _ _ => rfl
  case shl => exact aluRegister (fun x y => x <<< sh6 y) fun x y => shiftLeft_eq_ofNat x _
  case shr => exact aluRegister (fun x y => x >>> sh6 y) fun x y => ushiftRight_eq_ofNat x _
  case sra => exact aluRegister (fun x y => x.sshiftRight (sh6 y)) fun x y => sshiftRight_eq_ofInt x _
  case min =>
    refine aluRegister (fun x y => if x.slt y then x else y) fun x y => ?_
    simp only [BitVec.slt_iff_toInt_lt]
    exact select_lt_eq_select_le BitVec.eq_of_toInt_eq
  case max =>
    refine aluRegister (fun x y => if x.slt y then y else x) fun x y => ?_
    simp only [BitVec.slt_iff_toInt_lt]
    exact select_lt_eq_select_le fun h => (BitVec.eq_of_toInt_eq h).symm
  case minu =>
    refine aluRegister (fun x y => if x.ult y then x else y) fun x y => ?_
    simp only [BitVec.ult_iff_lt]
    exact select_lt_eq_select_le BitVec.eq_of_toNat_eq
  case maxu =>
    refine aluRegister (fun x y => if x.ult y then y else x) fun x y => ?_
    simp only [BitVec.ult_iff_lt]
    exact select_lt_eq_select_le fun h => (BitVec.eq_of_toNat_eq h).symm
  case addW => exact aluRegister (fun x y => word (lo32 x + lo32 y)) fun x y => congrArg word (lo32_add x y)
  case subW => exact aluRegister (fun x y => word (lo32 x - lo32 y)) fun x y => congrArg word (lo32_sub x y)
  case shlW => exact aluRegister (fun x y => word (lo32 x <<< sh5 y)) fun x y => congrArg word (lo32_shiftLeft x _)
  case shrW => exact aluRegister (fun x y => word (lo32 x >>> sh5 y)) fun x y => congrArg word (ushiftRight_eq_ofNat (lo32 x) _)
  case sraW => exact aluRegister (fun x y => word ((lo32 x).sshiftRight (sh5 y))) fun x y => congrArg word (sshiftRight_eq_ofInt (lo32 x) _)

/-! ## Counting (R110) -/

section
variable {w : Nat} {x : BitVec w}

theorem toNat_ne_zero (hx : x ≠ 0#w) : x.toNat ≠ 0 := fun h => hx (BitVec.eq_of_toNat_eq (by simpa using h))

theorem log2_toNat_lt (hx : x ≠ 0#w) : Nat.log2 x.toNat < w := (Nat.log2_lt (toNat_ne_zero hx)).mpr x.isLt

theorem clz_of_ne_zero (hx : x ≠ 0#w) : clz x = w - 1 - Nat.log2 x.toNat := if_neg hx

theorem getLsbD_log2 (hx : x ≠ 0#w) : x.getLsbD (Nat.log2 x.toNat) = true :=
  Nat.testBit_log2 (toNat_ne_zero hx)

theorem getLsbD_of_log2_lt {i : Nat} (h : Nat.log2 x.toNat < i) : x.getLsbD i = false :=
  Nat.testBit_lt_two_pow (Nat.lt_log2_self.trans_le (Nat.pow_le_pow_right Nat.two_pos h))

/-- The lowest 1 bit alone. -/
theorem and_neg_eq_twoPow {k : Nat} (hk : x.getLsbD k = true) (hl : ∀ j < k, x.getLsbD j = false) : x &&& (0 - x) = BitVec.twoPow w k := by
  apply BitVec.eq_of_getLsbD_eq
  intro i hi
  rw [show (0 : BitVec w) - x = -x from BitVec.zero_sub x, BitVec.getLsbD_and, BitVec.getLsbD_neg, BitVec.getLsbD_twoPow]
  obtain h | rfl | h := lt_trichotomy i k
  · simp [hl i h, h.ne']
  · have hn : ¬ ∃ j < i, x.getLsbD j = true := by simpa using hl
    simp [hk, hi, hn]
  · have he : ∃ j < i, x.getLsbD j = true := ⟨k, h, hk⟩
    simp [hi, he, h.ne]

theorem ctz_eq {k : Nat} (hk : x.getLsbD k = true) (hl : ∀ j < k, x.getLsbD j = false) : ctz x = k := by
  have hx : x ≠ 0 := by
    rintro rfl
    simp at hk
  rw [ctz, if_neg hx, and_neg_eq_twoPow hk hl, BitVec.toNat_twoPow_of_lt (BitVec.lt_of_getLsbD hk), Nat.log2_two_pow]

theorem foldl_count (l : List Nat) (c : Nat) :
    l.foldl (fun acc i => acc + (x.getLsbD i).toNat) c = c + (l.filter fun i => x.getLsbD i).length := by
  induction l generalizing c with
  | nil => rfl
  | cons i l ih =>
    rw [List.foldl_cons, ih, List.filter_cons]
    cases x.getLsbD i <;> simp [Nat.add_assoc, Nat.add_comm 1]

variable {y : W64} (h : ∀ i < w, x.getLsbD i = y.getLsbD i)
include h

theorem clz_leadingZeros : Claims.LeadingZeros w y (clz x) := by
  by_cases hx : x = 0#w
  · have hc : clz x = w := if_pos hx
    rw [hc]
    exact ⟨Nat.le_refl w, fun i _ hi => by rw [← h i hi, hx, BitVec.getLsbD_zero], fun hw => absurd hw (Nat.lt_irrefl w)⟩
  · have hw := log2_toNat_lt hx
    rw [clz_of_ne_zero hx]
    refine ⟨by omega, fun i hl hi => ?_, fun _ => ?_⟩
    · rw [← h i hi, getLsbD_of_log2_lt (by omega)]
    · rw [show w - 1 - (w - 1 - Nat.log2 x.toNat) = Nat.log2 x.toNat by omega, ← h _ hw, getLsbD_log2 hx]

theorem ctz_trailingZeros : Claims.TrailingZeros w y (ctz x) := by
  by_cases hx : ∃ i, x.getLsbD i = true
  · have hk := Nat.find_spec hx
    have hw := BitVec.lt_of_getLsbD hk
    rw [ctz_eq hk fun j hj => by simpa using Nat.find_min hx hj]
    refine ⟨hw.le, fun i hi => ?_, fun _ => by rw [← h _ hw, hk]⟩
    rw [← h i (hi.trans hw)]
    simpa using Nat.find_min hx hi
  · have hz : x = 0 := BitVec.eq_of_getLsbD_eq fun i _ => by simpa using not_exists.mp hx i
    have hc : ctz x = w := if_pos hz
    rw [hc]
    exact ⟨Nat.le_refl w, fun i hi => by rw [← h i hi, hz]; exact BitVec.getLsbD_zero, fun hw => absurd hw (Nat.lt_irrefl w)⟩

theorem popc_oneBits : Claims.OneBits w y (popc x) := by
  unfold Claims.OneBits popc
  rw [foldl_count, Nat.zero_add]
  exact congrArg List.length (List.filter_congr fun i hi => h i (List.mem_range.mp hi))

end

theorem getLsbD_lo32 (x : W64) (i : Nat) (hi : i < 32) : (lo32 x).getLsbD i = x.getLsbD i := by
  simp [lo32, hi]

theorem aluCount {mk : BitVec 5 → BitVec 5 → BitVec 3 → BitVec 1 → Instr} {R : W64 → Nat → Prop} (g : W64 → Nat) (h : ∀ x, R x (g x))
    (hx : ∀ d a p n s, exec (mk d a p n) s = alu d p n (fun t => BitVec.ofNat 64 (g (t.s a))) s := by intros; rfl) :
    Claims.AluCount mk R := by
  intro s d a p n hg
  exact ⟨g (s.cur.s a), h _, by rw [hx, alu_done _ hg, s_seen]⟩

theorem execSel_eq (d a b : BitVec 5) (p : BitVec 3) (n : BitVec 1) (s : State) : exec (.sel d a b p n) s =
    s.yields .control ((s.seen .control).setS d (if (s.seen .control).guard p n then s.cur.s a else s.cur.s b)) := by
  rw [← s_seen, ← s_seen]
  exact alu_done (fun t => if t.guard p n then t.s a else t.s b) (Tile.guard_p0 _)

theorem countsAndSelectDeliver : Claims.CountsAndSelectDeliver := by
  unfold Claims.CountsAndSelectDeliver
  exact ⟨aluCount clz fun _ => clz_leadingZeros fun _ _ => rfl, aluCount ctz fun _ => ctz_trailingZeros fun _ _ => rfl,
    aluCount popc fun _ => popc_oneBits fun _ _ => rfl, aluCount (fun x => clz (lo32 x)) fun x => clz_leadingZeros (getLsbD_lo32 x),
    aluCount (fun x => ctz (lo32 x)) fun x => ctz_trailingZeros (getLsbD_lo32 x),
    aluCount (fun x => popc (lo32 x)) fun x => popc_oneBits (getLsbD_lo32 x),
    fun s d a b p n => execSel_eq d a b p n s⟩

/-! ## The immediate forms (R111, Table 5-3) -/

theorem aluImmediate {mk : BitVec 5 → BitVec 5 → BitVec 3 → BitVec 13 → List W32 → Instr} {f : W64 → W64 → W64} (g : W64 → W64 → W64)
    (h : ∀ x y, g x y = f x y)
    (hx : ∀ d a p i x s, exec (mk d a p i x) s = alu d p 0 (fun t => g (t.s a) (imm13 i x)) s := by intros; rfl) :
    Claims.AluImmediate mk f := by
  intro s d a p i x hg
  rw [hx, alu_done _ hg, s_seen, h]

section
variable {s : State} {p : BitVec 3} (g : (s.seen .control).guard p 0 = true) (d a : BitVec 5)
include g

theorem execShli_done (i : BitVec 6) : exec (.shli d a p i) s =
    s.yields .control ((s.seen .control).setS d (BitVec.ofNat 64 ((s.cur.s a).toNat * 2 ^ i.toNat))) := by
  rw [← s_seen, ← shiftLeft_eq_ofNat]
  exact alu_done (fun t => t.s a <<< i.toNat) g

theorem execShri_done (i : BitVec 6) : exec (.shri d a p i) s =
    s.yields .control ((s.seen .control).setS d (BitVec.ofNat 64 ((s.cur.s a).toNat / 2 ^ i.toNat))) := by
  rw [← s_seen, ← ushiftRight_eq_ofNat]
  exact alu_done (fun t => t.s a >>> i.toNat) g

theorem execSrai_done (i : BitVec 6) : exec (.srai d a p i) s =
    s.yields .control ((s.seen .control).setS d (BitVec.ofInt 64 ((s.cur.s a).toInt / 2 ^ i.toNat))) := by
  rw [← s_seen, ← sshiftRight_eq_ofInt]
  exact alu_done (fun t => (t.s a).sshiftRight i.toNat) g

theorem execLea_done (i : BitVec 13) : exec (.lea d p i) s =
    s.yields .control ((s.seen .control).setS d (Claims.lineAfter s.cur i.toInt)) := by
  have h : lineAddr (s.cur.pcOf .control) + (sext64 i <<< 5) = Claims.lineAfter s.cur i.toInt := by
    rw [lineAfter_eq, sext64, BitVec.signExtend, BitVec.ofInt_mul, BitVec.shiftLeft_eq_mul_twoPow]
    rfl
  rw [← h, ← pcOf_seen]
  exact alu_done (fun t => lineAddr (t.pcOf .control) + (sext64 i <<< 5)) g

end

theorem immediateFormsDeliver : Claims.ImmediateFormsDeliver := by
  unfold Claims.ImmediateFormsDeliver
  exact ⟨aluImmediate (· + ·) add_eq_ofNat, aluImmediate (· &&& ·) fun _ _ => rfl, aluImmediate (· ||| ·) fun _ _ => rfl,
    aluImmediate (· ^^^ ·) fun _ _ => rfl, fun s d a p i g => ⟨execShli_done g d a i, execShri_done g d a i, execSrai_done g d a i⟩,
    fun s d p i x g => alu_done (fun _ => imm13 i x) g, fun s d p i g => execLea_done g d i⟩

/-! ## Compares and predicate forms (R112, R113, R114, Table 5-4) -/

theorem p_seen (s : State) (a : BitVec 3) : (s.seen .control).p a = s.cur.p a := s.cur.tickControl_p a

/-- Combining an outcome into a predicate (R87): it is set, ANDed, or ORed. -/
theorem combine_eq (c : BitVec 2) (old r : Bool) : combine c old r = if c = 0 then r else if c = 1 then old && r else old || r := by
  obtain rfl | rfl | rfl | rfl : c = 0 ∨ c = 1 ∨ c = 2 ∨ c = 3 := by decide +revert
  all_goals rfl

/-- A form that writes a predicate. -/
theorem setP_done {s : State} {d : BitVec 3} {p : BitVec 3} {n : BitVec 1} (f : Tile → Bool) (g : (s.seen .control).guard p n = true) :
    ctl p n (fun t => .done (t.setP d (f t))) s = s.yields .control ((s.seen .control).setP d (f (s.seen .control))) :=
  ctl_done g rfl

theorem execCmp_done {s : State} {p : BitVec 3} {n : BitVec 1} (g : (s.seen .control).guard p n = true) (d : BitVec 3) (c : BitVec 2)
    (a b : BitVec 5) (k : BitVec 7) : exec (.cmp d c a b p n k) s = s.yields .control ((s.seen .control).setP d
      (combine c (s.cur.p d) (cmpCond k (s.cur.s a) (s.cur.s b)))) := by
  rw [← s_seen, ← s_seen, ← p_seen]
  exact setP_done (fun t => combine c (t.p d) (cmpCond k (t.s a) (t.s b))) g

theorem execCmpi_done (s : State) (d : BitVec 3) (c : BitVec 2) (a : BitVec 5) (k : BitVec 3) (i : BitVec 13) :
    exec (.cmpi d c a k i) s = s.yields .control ((s.seen .control).setP d
      (combine c (s.cur.p d) (cmpCond (k.setWidth 7) (s.cur.s a) (i.signExtend 64)))) := by
  rw [← s_seen, ← p_seen]
  exact setP_done (fun t => combine c (t.p d) (cmpCond (k.setWidth 7) (t.s a) (sext64 i))) (Tile.guard_p0 _)

theorem plog_done (s : State) (d : BitVec 3) (f : Tile → Bool) :
    plog d f s = s.yields .control ((s.seen .control).setP d (f (s.seen .control))) :=
  congrArg Host.Outcome.next (State.issueT_done rfl)

theorem plog_forms (s : State) (d a b : BitVec 3) :
    exec (.pand d a b) s = s.yields .control ((s.seen .control).setP d (s.cur.p a && s.cur.p b)) ∧
    exec (.por d a b) s = s.yields .control ((s.seen .control).setP d (s.cur.p a || s.cur.p b)) ∧
    exec (.pxor d a b) s = s.yields .control ((s.seen .control).setP d (s.cur.p a ^^ s.cur.p b)) ∧
    exec (.pandn d a b) s = s.yields .control ((s.seen .control).setP d (s.cur.p a && !s.cur.p b)) ∧
    exec (.pnot d a) s = s.yields .control ((s.seen .control).setP d (!s.cur.p a)) := by
  rw [← p_seen, ← p_seen]
  exact ⟨plog_done s d fun t => t.p a && t.p b, plog_done s d fun t => t.p a || t.p b, plog_done s d fun t => t.p a != t.p b,
    plog_done s d fun t => t.p a && !t.p b, plog_done s d fun t => !t.p a⟩

/-- A word whose low field is written as two is the word with the one field. -/
theorem append_two (x : BitVec l) (a : BitVec m) (b : BitVec n) : x ++ a ++ b = (x ++ (a ++ b)).cast (by omega) := BitVec.append_assoc

theorem decode_bare {i : Instr} {w : W32} (hwf : i.wf = true) (hk : i.onStrand .control = true) (hx : i.exts = []) (hw : w = encodeWord i) :
    decodeWord .control w [] false = .ok i := by
  have h := Decoding.decodeInvertsEncode.1 i .control hwf hk
  rwa [hx, ← hw] at h

theorem plog_words (d a b : BitVec 3) :
    decodeWord .control (0x0C#6 ++ d ++ a ++ b ++ 0#17) [] false = .ok (.pand d a b) ∧
    decodeWord .control (0x0C#6 ++ d ++ a ++ b ++ 1#3 ++ 0#14) [] false = .ok (.por d a b) ∧
    decodeWord .control (0x0C#6 ++ d ++ a ++ b ++ 2#3 ++ 0#14) [] false = .ok (.pxor d a b) ∧
    decodeWord .control (0x0C#6 ++ d ++ a ++ b ++ 3#3 ++ 0#14) [] false = .ok (.pandn d a b) ∧
    decodeWord .control (0x0C#6 ++ d ++ a ++ 0#3 ++ 4#3 ++ 0#14) [] false = .ok (.pnot d a) :=
  ⟨decode_bare rfl rfl rfl rfl, decode_bare rfl rfl rfl (append_two _ 1#3 0#14), decode_bare rfl rfl rfl (append_two _ 2#3 0#14),
    decode_bare rfl rfl rfl (append_two _ 3#3 0#14), decode_bare rfl rfl rfl ((append_two _ 4#3 0#14).trans (append_two _ 0#3 _))⟩

/-- A constant in the low bits of a word is the constant's own part wherever those bits are read. -/
theorem extractLsb'_of_low {w : W32} {n : Nat} {c : BitVec n} (s l : Nat) (h : s + l ≤ n) (hc : w.extractLsb' 0 n = c) :
    w.extractLsb' s l = c.extractLsb' s l := by
  subst hc
  apply BitVec.eq_of_getLsbD_eq
  intro i hi
  simp [hi, show s + i < n by omega]

/-- The fn values 5 to 7 of format CPL are reserved. -/
theorem decodeWord_plog_reserved {w : W32} (hop : w.extractLsb' 26 6 = 0x0C) (hf : 5 ≤ (w.extractLsb' 14 3).toNat) (x : List W32) (m : Bool) :
    decodeWord .control w x m = .error .illegalInsn := by
  have hne {n : Nat} (c : BitVec n) (hn : 14 + 3 ≤ n) (hc : (c.extractLsb' 14 3).toNat < 5) : ¬ (w.extractLsb' 0 n == c) = true := fun e => by
    rw [extractLsb'_of_low 14 3 hn (eq_of_beq e)] at hf
    omega
  have hrow : decodeRow .control w x = none := by
    simp only [decodeRow, decodeControl, hop, BitVec.ofNat_eq_ofNat, BitVec.reduceToNat, hne 0#17 (by decide) (by decide),
      hne 16384#17 (by decide) (by decide), hne 32768#17 (by decide) (by decide), hne 49152#17 (by decide) (by decide),
      hne 65536#20 (by decide) (by decide), if_false, Bool.false_eq_true]
  simp only [decodeWord, hrow]

/-- The integer conditions of Table 5-4. -/
theorem cmpCond_integer (x y : W64) :
    (cmpCond 0x00 x y = true ↔ x = y) ∧ (cmpCond 0x01 x y = true ↔ x ≠ y) ∧
    (cmpCond 0x02 x y = true ↔ x.toInt < y.toInt) ∧ (cmpCond 0x03 x y = true ↔ y.toInt ≤ x.toInt) ∧
    (cmpCond 0x04 x y = true ↔ x.toNat < y.toNat) ∧ (cmpCond 0x05 x y = true ↔ y.toNat ≤ x.toNat) :=
  ⟨beq_iff_eq, bne_iff_ne, BitVec.slt_iff_toInt_lt, BitVec.sle_iff_toInt_le, BitVec.ult_iff_toNat_lt, BitVec.ule_iff_toNat_le⟩

theorem comparesWritePredicate : Claims.ComparesWritePredicate := by
  unfold Claims.ComparesWritePredicate
  refine ⟨fun s d c a b p n k g => ?_, fun s d c a k i => ?_, plog_forms, plog_words, fun w x m hop hf => decodeWord_plog_reserved hop hf x m,
    cmpCond_integer⟩
  · rw [execCmp_done g, combine_eq]
  · rw [execCmpi_done, combine_eq]

/-- Settles O1, by the four tables of forms. -/
theorem aluFormsDeliver : Obligations.AluFormsDeliver :=
  ⟨aluDeliversTableResult, countsAndSelectDeliver, immediateFormsDeliver, comparesWritePredicate⟩

/-! ## The long-latency forms (R115, R116, Tables 5-5 and 5-6) -/

/-- A long-latency form under a true guard. -/
theorem unit_done {s : State} {p : BitVec 3} {n : BitVec 1} (g : (s.seen .control).guard p n = true) (lat : Nat) (dest : Latch)
    (f : Tile → W64 × Num.Flags) : unit lat dest p n f s =
      s.yields .control ((s.seen .control).pend lat dest (f (s.seen .control)).1 (f (s.seen .control)).2) :=
  ctl_done g rfl

theorem latchForm {mk : BitVec 5 → BitVec 5 → BitVec 3 → BitVec 1 → BitVec 2 → Instr} {lat : Nat} {dest : BitVec 2 → Latch}
    {f : W64 → W64 → W64} (g : W64 → W64 → W64) (h : ∀ x y, g x y = f x y)
    (hx : ∀ a b p n l s, exec (mk a b p n l) s = unit lat (dest l) p n (fun t => noFlags (g (t.s a) (t.s b))) s := by intros; rfl) :
    Claims.LatchForm mk lat dest fun x y => (f x y, 0) := by
  intro s a b p n l hg
  rw [hx, unit_done hg, s_seen, s_seen, h]
  rfl

theorem floatForm {mk : BitVec 5 → BitVec 5 → BitVec 3 → BitVec 1 → BitVec 2 → Instr} {lat : Nat} {dest : BitVec 2 → Latch}
    {f : Num.Rm → W64 → W64 → W64 × Num.Flags}
    (hx : ∀ a b p n l s, exec (mk a b p n l) s = unit lat (dest l) p n (fun t => f (t.rm .control) (t.s a) (t.s b)) s := by intros; rfl) :
    Claims.FloatForm mk lat dest f := by
  intro s a b p n l hg
  rw [hx, unit_done hg, s_seen, s_seen]

theorem floatUnary {mk : BitVec 5 → BitVec 3 → BitVec 1 → BitVec 2 → Instr} {lat : Nat} {dest : BitVec 2 → Latch}
    {f : Num.Rm → W64 → W64 × Num.Flags}
    (hx : ∀ a p n l s, exec (mk a p n l) s = unit lat (dest l) p n (fun t => f (t.rm .control) (t.s a)) s := by intros; rfl) :
    Claims.FloatUnary mk lat dest f := by
  intro s a p n l hg
  rw [hx, unit_done hg, s_seen]

theorem fusedForm {mk : BitVec 5 → BitVec 5 → BitVec 5 → BitVec 3 → BitVec 1 → BitVec 2 → Instr} {fmt : Num.Fmt}
    (hx : ∀ c a b p n l s, exec (mk c a b p n l) s = unit 4 (.m l) p n (fp3 fmt a b c) s := by intros; rfl) : Claims.FusedForm mk fmt := by
  intro s c a b p n l hg
  rw [hx, unit_done hg, fp3, s_seen, s_seen, s_seen]
  rfl

theorem sdivTotal_eq (x y : W64) : sdivTotal x y = if y = 0 then BitVec.allOnes 64 else BitVec.ofInt 64 (x.toInt.tdiv y.toInt) := by
  rw [sdivTotal, show x.sdiv y = BitVec.ofInt 64 (x.toInt.tdiv y.toInt) from
    BitVec.eq_of_toInt_eq (by rw [BitVec.toInt_sdiv, BitVec.toInt_ofInt])]

theorem sremTotal_eq (x y : W64) : sremTotal x y = if y = 0 then x else BitVec.ofInt 64 (x.toInt.tmod y.toInt) := by
  rw [sremTotal, show x.srem y = BitVec.ofInt 64 (x.toInt.tmod y.toInt) by rw [← BitVec.toInt_srem, BitVec.ofInt_toInt]]

theorem udivTotal_eq (x y : W64) : udivTotal x y = if y = 0 then BitVec.allOnes 64 else BitVec.ofNat 64 (x.toNat / y.toNat) := by
  rw [udivTotal, show x / y = BitVec.ofNat 64 (x.toNat / y.toNat) by rw [← BitVec.toNat_udiv, BitVec.ofNat_toNat, BitVec.setWidth_eq]]

theorem uremTotal_eq (x y : W64) : uremTotal x y = if y = 0 then x else BitVec.ofNat 64 (x.toNat % y.toNat) := by
  rw [uremTotal, show x % y = BitVec.ofNat 64 (x.toNat % y.toNat) by rw [← BitVec.toNat_umod, BitVec.ofNat_toNat, BitVec.setWidth_eq]]

theorem integerLatchResults : Claims.IntegerLatchResults := by
  unfold Claims.IntegerLatchResults
  exact ⟨latchForm (· * ·) mul_eq_ofNat, latchForm (fun x y => BitVec.ofInt 64 (x.toInt * y.toInt / 2 ^ 64)) fun _ _ => rfl,
    latchForm (fun x y => BitVec.ofNat 64 (x.toNat * y.toNat / 2 ^ 64)) fun _ _ => rfl,
    latchForm (fun x y => word (lo32 x * lo32 y)) fun x y => congrArg word (lo32_mul x y),
    latchForm sdivTotal sdivTotal_eq, latchForm udivTotal udivTotal_eq, latchForm sremTotal sremTotal_eq, latchForm uremTotal uremTotal_eq⟩

theorem fpVal_eq {fmt : Num.Fmt} (h : fmt = Num.fp32 ∨ fmt = Num.fp64) (x : W64) :
    fpVal fmt x = Num.decode fmt (if fmt = Num.fp32 then x.toNat % 2 ^ 32 else x.toNat) := by
  obtain rfl | rfl := h
  · rw [if_pos rfl]
    rfl
  · rw [if_neg (by decide)]
    exact congrArg (Num.decode Num.fp64) (Nat.mod_eq_of_lt x.isLt)

theorem floatLatchResults : Claims.FloatLatchResults := by
  unfold Claims.FloatLatchResults
  exact ⟨fun fmt rm x h => ⟨fpVal_eq h x, rfl⟩, floatForm, floatForm, floatForm, floatForm, floatForm, floatForm, floatForm, floatForm, floatForm,
    floatForm, fusedForm, fusedForm, floatForm, floatForm, floatUnary, floatUnary, floatUnary, floatUnary, floatUnary, floatUnary, floatUnary,
    floatUnary⟩
/-- Settles O2, form by form. -/
theorem latchResults : Obligations.LatchResults := ⟨integerLatchResults, floatLatchResults⟩

/-! ## An issue whose effect is on the state -/

theorem issue_done {s s' : State} {k : Strand} {f : State → Res State} (h : f (s.setTile s.here (s.seen k)) = .done s') :
    s.issue k f = s'.modTile s.here (·.retire k) := by
  have h : f (s.modTile s.here (·.tick k)) = .done s' := h
  simp only [State.issue, h]

/-! ## False guards (R109, R85) -/

section
variable {s : State} {p : BitVec 3} {n : BitVec 1} (g : (s.seen .control).guard p n = false)
include g

/-- An issue that answers its state as it stands where the guard is false. -/
theorem issue_false {f : State → Res State} (h : ∀ s : State, s.cur.guard p n = false → f s = .done s) :
    s.issue .control f = s.leaves .control (s.seen .control) := by
  rw [issue_done (h _ (by rw [State.cur_setTile_here, g])), State.modTile_eq, State.tile_setTile_same, State.setTile_setTile, State.leaves]

theorem snapForm_false (form : Nat) (d a : BitVec 5) : snapForm form d a p n s = s.yields .control (s.seen .control) :=
  congrArg Host.Outcome.next (issue_false g fun s h => by simp [h])

theorem execQpost_false (d a b : BitVec 5) : execQpost d a b p n s = s.yields .control (s.seen .control) :=
  congrArg Host.Outcome.next (issue_false g fun s h => by simp [h])

end

theorem execTrap_false {s : State} {p : BitVec 3} (g : (s.seen .control).guard p 0 = false) (i : BitVec 13) :
    execTrap p i s = s.yields .control (s.seen .control) := by
  have hx : execTrap p i s = .next (s.issueT .control .done) := congrArg Host.Outcome.next (if_neg (by rw [← State.seen, g]; decide))
  rw [hx, State.issueT_done rfl, State.yields]

/-- Settles O5: a guarded form runs under `ctl`, or tests its guard before anything else. -/
theorem falseGuardDoesNothing : Obligations.FalseGuardDoesNothing := by
  unfold Obligations.FalseGuardDoesNothing
  intro i p n s hi g
  unfold exec
  cases i with
  | add | sub | and | or | xor | andn | shl | shr | sra | min | max | minu | maxu | addW | subW | shlW | shrW | sraW
  | clz | ctz | popc | clzW | ctzW | popcW | movM | movD | movL | cmp
  | addi | andi | ori | xori | shli | shri | srai | li | lea
  | mul | mulh | mulhu | mulW | div | divu | rem | remu
  | faddS | fsubS | fmulS | fmaS | fminS | fmaxS | fdivS | fsqrtS
  | faddD | fsubD | fmulD | fmaD | fminD | fmaxD | fdivD | fsqrtD
  | cvtSD | cvtDS | cvtSI | cvtIS | cvtDI | cvtID
  | spl | sps | lsp | ssp | popStream | popChannel | pushK | pushO | pushJ =>
    cases hi
    exact ctl_false g
  | snap | accept | reject | snapq =>
    cases hi
    exact snapForm_false g _ _ _
  | qpost =>
    cases hi
    exact execQpost_false g _ _ _
  | trap =>
    cases hi
    exact execTrap_false g _
  | _ => nomatch hi

/-! ## The frame of the ALU, predicate and latch forms -/

/-- What such a form leaves of the tile `t` that it finds, given its destinations: the tile as it is, or one register, predicate or latch
written. -/
inductive Delivers (t : Tile) (r : Option (BitVec 5)) (q : Option (BitVec 3)) : Tile → Prop
  | nothing : Delivers t r q t
  | register (d v) (h : r = some d) : Delivers t r q (t.setS d v)
  | predicate (d v) (h : q = some d) : Delivers t r q (t.setP d v)
  | latch (lat dest v fl) : Delivers t r q (t.pend lat dest v fl)

/-- The answer is what the instruction delivers, retired. -/
def Answers (s : State) (r : Option (BitVec 5)) (q : Option (BitVec 3)) (o : Out) : Prop :=
  ∃ x, Delivers (s.seen .control) r q x ∧ o = s.yields .control x

section
variable {s : State} {r : Option (BitVec 5)} {q : Option (BitVec 3)}

theorem ctl_answers {p : BitVec 3} {n : BitVec 1} {f : Tile → Tile} (h : Delivers (s.seen .control) r q (f (s.seen .control))) :
    Answers s r q (ctl p n (fun t => .done (f t)) s) := by
  cases g : (s.seen .control).guard p n with
  | true => exact ⟨_, h, ctl_done g rfl⟩
  | false => exact ⟨_, .nothing, ctl_false g⟩

theorem alu_answers {d : BitVec 5} {p : BitVec 3} {n : BitVec 1} {f : Tile → W64} : Answers s (some d) q (alu d p n f s) :=
  ctl_answers (.register d _ rfl)

theorem setP_answers {d p : BitVec 3} {n : BitVec 1} {f : Tile → Bool} : Answers s r (some d) (ctl p n (fun t => .done (t.setP d (f t))) s) :=
  ctl_answers (.predicate d _ rfl)

theorem plog_answers {d : BitVec 3} {f : Tile → Bool} : Answers s r (some d) (plog d f s) :=
  ⟨_, .predicate d _ rfl, congrArg Host.Outcome.next (State.issueT_done rfl)⟩

theorem unit_answers {lat : Nat} {dest : Latch} {p : BitVec 3} {n : BitVec 1} {f : Tile → W64 × Num.Flags} :
    Answers s r q (unit lat dest p n f s) :=
  ctl_answers (.latch lat dest _ _)

theorem exec_answers {i : Instr} (hi : Claims.sDest i = some r) : Answers s r (Claims.pDest i) (exec i s) := by
  unfold exec
  cases i with
  | add | sub | and | or | xor | andn | shl | shr | sra | min | max | minu | maxu | addW | subW | shlW | shrW | sraW
  | clz | ctz | popc | clzW | ctzW | popcW | sel | movM | movD | movL
  | addi | andi | ori | xori | shli | shri | srai | li | lea =>
    cases hi
    exact alu_answers
  | mul | mulh | mulhu | mulW | div | divu | rem | remu
  | faddS | fsubS | fmulS | fmaS | fminS | fmaxS | fdivS | fsqrtS
  | faddD | fsubD | fmulD | fmaD | fminD | fmaxD | fdivD | fsqrtD
  | cvtSD | cvtDS | cvtSI | cvtIS | cvtDI | cvtID => exact unit_answers
  | cmp | cmpi => exact setP_answers
  | pand | por | pxor | pandn | pnot => exact plog_answers
  | _ => nomatch hi

end

/-- Nothing of a tile differs but its control registers beside the spill slots, the control strand's common state and FPSRs. -/
structure ControlOnly (t u : Tile) : Prop where
  only : u = { t with ctl := u.ctl, strand := u.strand, sys := { t.sys with fpsr := u.sys.fpsr } }
  others : ∀ k, k ≠ .control → u.str k = t.str k
  spill : u.ctl.spill = t.ctl.spill
  sspill : u.ctl.sspill = t.ctl.sspill

section
variable {t u v x : Tile}

theorem ControlOnly.refl (t : Tile) : ControlOnly t t := ⟨rfl, fun _ _ => rfl, rfl, rfl⟩

theorem ControlOnly.trans (h : ControlOnly t u) (h' : ControlOnly u v) : ControlOnly t v where
  only := by
    have h1 := h.only
    have h2 := h'.only
    rw [h1] at h2
    exact h2
  others k hk := (h'.others k hk).trans (h.others k hk)
  spill := h'.spill.trans h.spill
  sspill := h'.sspill.trans h.sspill

theorem setBank_only (b : Bank) : ControlOnly t (t.setBank b) :=
  ⟨rfl, fun _ _ => rfl, setBank_spill t b, setBank_sspill t b⟩

theorem setRegs_only (r : Regs) : ControlOnly t (t.setRegs r) := by
  refine ⟨rfl, fun _ _ => rfl, ?_, ?_⟩
  all_goals
    dsimp only [Tile.setRegs]
    split <;> rfl

theorem tickControl_only (t : Tile) : ControlOnly t t.tickControl :=
  (setBank_only _).trans ⟨rfl, fun _ _ => rfl, rfl, rfl⟩

theorem Delivers.only {r : Option (BitVec 5)} {q : Option (BitVec 3)} (h : Delivers t r q x) : ControlOnly t x := by
  cases h with
  | nothing => exact .refl t
  | register => exact setRegs_only _
  | predicate => exact setRegs_only _
  | latch => exact setBank_only _

theorem retire_only (t : Tile) : ControlOnly t (t.retire .control) := by
  have hq : ControlOnly t (t.setQueue .control (t.queueOf .control).tail) := by
    unfold Tile.setQueue
    split
    · exact ⟨rfl, fun _ _ => rfl, rfl, rfl⟩
    · exact ⟨rfl, fun k hk => Frames.str_modStr_other t hk _, rfl, rfl⟩
  exact hq.trans ⟨rfl, fun k hk => Frames.str_modStr_other _ hk _, rfl, rfl⟩

theorem pend_regs (n : Nat) (l : Latch) (v : W64) (f : Num.Flags) : (t.pend n l v f).regs = t.regs :=
  Tile.regs_congr rfl (Tile.setBank_user t _) (Tile.setBank_sup t _)

section
variable {r : Option (BitVec 5)} {q : Option (BitVec 3)} (h : Delivers t r q x)
include h

theorem Delivers.s_other {i : BitVec 5} (hi : r ≠ some i) : x.s i = t.s i := by
  cases h with
  | nothing => rfl
  | register d v hd => exact (t.s_setS d i v).trans (if_neg fun e => hi (by rw [hd, e.1]))
  | predicate d v => exact t.s_setP d i v
  | latch => rw [Tile.s, pend_regs, Tile.s]

theorem Delivers.p_other {i : BitVec 3} (hi : q ≠ some i) : x.p i = t.p i := by
  cases h with
  | nothing => rfl
  | register d v => exact t.p_setS d i v
  | predicate d v hd => exact (t.p_setP d i v).trans (if_neg fun e => hi (by rw [hd, e.1]))
  | latch => rw [Tile.p, pend_regs, Tile.p]

theorem Delivers.sys : x.sys = t.sys := by
  cases h
  all_goals rfl

end

/-- The flags that a landing raises are sticky bits [4:0]. -/
theorem tickControl_fpsr_high (t : Tile) : (t.tickControl.fpsr .control).extractLsb' 5 3 = (t.fpsr .control).extractLsb' 5 3 := by
  rw [tickControl_eq, Tile.raiseFlags, fpsr_setFpsr_same]
  apply BitVec.eq_of_getLsbD_eq
  intro i hi
  simp [hi, BitVec.getLsbD_of_ge]
  rfl

end

/-- Settles O6: the instruction's tile is ticked, delivered to and retired, and each of the three keeps what the frame names. -/
theorem aluFrame : Obligations.AluFrame := by
  unfold Obligations.AluFrame
  intro i s s' dest hi he
  obtain ⟨x, hx, hy⟩ := exec_answers (s := s) hi
  obtain rfl : s.leaves .control x = s' := Host.Outcome.next.inj (hy.symm.trans he)
  have hcur : (s.leaves .control x).cur = x.retire .control := s.cur_setTile_here _
  have hk : ControlOnly s.cur (x.retire .control) := ((tickControl_only s.cur).trans hx.only).trans (retire_only x)
  have hfpsr (k : Strand) : (x.retire .control).fpsr k = s.cur.tickControl.fpsr k := by
    simp only [Tile.fpsr, Tile.retire_sys, hx.sys, seen_control]
  rw [hcur]
  refine ⟨rfl, fun n hn => s.tile_setTile_other _ hn, fun r hr => ?_, fun r hr => ?_, fun a => ⟨?_, ?_, rfl⟩, fun k hne => ?_, ?_,
    hk.only, hk.others, hk.spill, hk.sspill⟩
  · rw [Tile.retire_s, hx.s_other hr, s_seen]
  · rw [Tile.retire_p, hx.p_other hr, seen_control, Tile.tickControl_p]
  · rw [hk.only]
  · rw [hk.only]
  · rw [hfpsr, tickControl_fpsr_other _ hne]
  · rw [hfpsr, tickControl_fpsr_high]

end Sys2Proof.ControlForms

/-!
PROOFS of the family 05_control.md: events (O9).
-/
namespace Sys2Proof.Events
open Sys2Proof Sys2Proof.Machine Sys2Proof.ControlState Sys2Proof.ControlForms

/-! ## The forms (R126) -/

/-- The state with an event operation sent to the Hearth. -/
def sent (s : State) (o : EventOp) : State := { s with events := s.events ++ [o] }

/-- A form that sends an operation and leaves its tile as `f` makes it. -/
theorem issue_sent (s : State) (o : EventOp) (f : Tile → Tile) {g : State → Res State}
    (h : g (s.setTile s.here (s.seen .control)) = .done (((sent s o).setTile s.here (f (s.seen .control))))) :
    s.issue .control g = (sent s o).leaves .control (f (s.seen .control)) := by
  rw [issue_done h, State.modTile_eq, State.tile_setTile_same, State.setTile_setTile]
  rfl

theorem execEvset_sent (s : State) (e : BitVec 8) :
    exec (.evset e) s = .next ((sent s (.set s.cur.ctx s.cur.launch e)).leaves .control (s.seen .control)) := by
  refine congrArg Host.Outcome.next (issue_sent s _ id ?_)
  rw [State.cur_setTile_here]
  rfl

theorem execEvclr_sent (s : State) (e : BitVec 8) :
    exec (.evclr e) s = .next ((sent s (.clear s.cur.ctx s.cur.launch e)).leaves .control (s.seen .control)) := by
  refine congrArg Host.Outcome.next (issue_sent s _ id ?_)
  rw [State.cur_setTile_here]
  rfl

theorem execEvtst_sent (s : State) (d : BitVec 5) (e : BitVec 8) :
    exec (.evtst d e) s = .next ((sent s (.test s.cur.ctx s.here s.cur.isSup e)).leaves .control
      ((s.seen .control).setWait (some (.event d)))) := by
  refine congrArg Host.Outcome.next (issue_sent s _ (·.setWait (some (.event d))) ?_)
  rw [State.cur_setTile_here]
  show Res.done (((sent s (.test s.cur.ctx s.here s.cur.isSup e)).setTile s.here (s.seen .control)).modTile s.here _) = _
  rw [State.modTile_eq, State.tile_setTile_same, State.setTile_setTile]

/-! ## The Hearth (R127) -/

theorem getLsbD_ofNat_two_pow (e i : Nat) (hi : i < 256) : (BitVec.ofNat 256 (2 ^ e)).getLsbD i = decide (i = e) := by
  rw [BitVec.getLsbD_ofNat, Nat.testBit_two_pow]
  simp [hi, eq_comm]

theorem setBit_set (x : BitVec 256) (e i : Nat) (hi : i < 256) : (setBit x e true).getLsbD i = (x.getLsbD i || decide (i = e)) := by
  rw [setBit, if_pos rfl, BitVec.getLsbD_or, getLsbD_ofNat_two_pow e i hi]

theorem setBit_clear (x : BitVec 256) (e i : Nat) (hi : i < 256) : (setBit x e false).getLsbD i = (x.getLsbD i && decide (i ≠ e)) := by
  rw [setBit, if_neg Bool.false_ne_true, BitVec.getLsbD_and, BitVec.getLsbD_not, getLsbD_ofNat_two_pow e i hi]
  simp [hi]

theorem ctx_modCtx_other (s : State) {c c' : BitVec 6} (h : c' ≠ c) (f : Context → Context) : (s.modCtx c f).ctx c' = s.ctx c' := by
  have hne : c.toNat ≠ c'.toNat := fun e => h (BitVec.eq_of_toNat_eq e.symm)
  simp [State.ctx, State.modCtx, Vector.getElem_set_ne _ _ hne]

section
variable {s : State} {c : BitVec 6} {e : BitVec 8} {rest : List EventOp}

theorem eventPerform_set {l : Nat} (h : s.events = .set c l e :: rest) : exec .eventPerform s =
    .next (({ s with events := rest } : State).modCtx c fun x => { x with events := setBit x.events e.toNat true }) := by
  show execEventPerform s = _
  simp only [execEventPerform, h]

theorem eventPerform_clear {l : Nat} (h : s.events = .clear c l e :: rest) : exec .eventPerform s =
    .next (({ s with events := rest } : State).modCtx c fun x => { x with events := setBit x.events e.toNat false }) := by
  show execEventPerform s = _
  simp only [execEventPerform, h]

theorem eventPerform_test {t : TileNo} {d : BitVec 5} (h : s.events = .test c t false e :: rest) (hw : (s.tile t).ctl.wait = some (.event d)) :
    exec .eventPerform s = .next (({ s with events := rest } : State).setTile t
      ((s.tile t).answer false d (if (s.ctx c).events.getLsbD e.toNat then 1 else 0))) := by
  have ht : ({ s with events := rest } : State).tile t = s.tile t := rfl
  show execEventPerform s = _
  simp only [execEventPerform, h, State.modTile_eq, ht, Bool.false_eq_true, if_false, hw]

end

/-- Settles O9: the operations are sent at issue, and the oldest is performed by its kind. -/
theorem eventsReachTheHearth : Obligations.EventsReachTheHearth := by
  unfold Obligations.EventsReachTheHearth
  refine ⟨execEvset_sent, execEvclr_sent, execEvtst_sent, fun s c l e rest h => ?set, fun s c l e rest h => ?clear,
    fun s c t e d rest h hw => ?test⟩
  case set =>
    refine ⟨_, eventPerform_set h, rfl, fun i hi => ?_, fun c' hc => ctx_modCtx_other _ hc _, rfl⟩
    rw [TileEvents.ctx_modCtx]
    exact setBit_set _ _ i hi
  case clear =>
    refine ⟨_, eventPerform_clear h, rfl, fun i hi => ?_, fun c' hc => ctx_modCtx_other _ hc _, rfl⟩
    rw [TileEvents.ctx_modCtx]
    exact setBit_clear _ _ i hi
  case test =>
    refine ⟨_, eventPerform_test h hw, rfl, rfl, ?_⟩
    rw [State.tile_setTile_same]
    exact ⟨rfl, rfl⟩

end Sys2Proof.Events

/-!
PROOFS of the family 05_control.md: the system registers and the privilege of supervisor forms (O11, O12).
-/
namespace Sys2Proof.SystemRegs
open Sys2Proof Sys2Proof.Machine Sys2Proof.ControlState Sys2Proof.Branches Sys2Proof.ControlForms

/-- An issue whose effect is `x` on the tile. -/
theorem issue_tile {s : State} {k : Strand} {f : State → Res State} {x : Tile}
    (h : f (s.setTile s.here (s.seen k)) = .done (s.setTile s.here x)) : s.issue k f = s.leaves k x := by
  rw [issue_done h, State.modTile_eq, State.tile_setTile_same, State.setTile_setTile, State.leaves]

/-! ## Which addresses may be accessed (R130, R265) -/

section
variable {t : Tile} {a : Nat}

theorem sysFault_user_listed (h : sysUser a = true) : t.sysFault a = none := if_pos h

theorem sysFault_sup_listed (hs : t.isSup = true) (h : sysListed a = true) : t.sysFault a = none := by
  simp [Tile.sysFault, hs, h]

theorem sysUser_eq_false (h : (8 < a ∧ a < 0x10) ∨ (0x11 < a ∧ a < 0x18) ∨ 0x1F < a) : sysUser a = false := by
  simp [sysUser]
  omega

theorem sysListed_eq_false (h : a < 0x100) : sysListed a = false := by
  simp [sysListed]
  omega

theorem sysFault_privileged (hu : t.isSup = false) (h : 0x100 ≤ a) : t.sysFault a = some { code := 0x04 } := by
  rw [Tile.sysFault, sysUser_eq_false (by omega)]
  simp [hu, h, cPrivileged]

theorem sysFault_unlisted_user (h : (8 < a ∧ a < 0x10) ∨ (0x11 < a ∧ a < 0x18) ∨ (0x1F < a ∧ a < 0x100)) :
    t.sysFault a = some { code := 0x01 } := by
  have ha : a < 0x100 := by omega
  rw [Tile.sysFault, sysUser_eq_false (by omega), sysListed_eq_false ha]
  simp [ha.not_ge, cIllegalInsn]

theorem sysFault_unlisted_sup (hs : t.isSup = true) (hu : sysUser a = false) (hl : sysListed a = false) :
    t.sysFault a = some { code := 0x01 } := by
  simp [Tile.sysFault, hu, hl, hs, cIllegalInsn]

end

section
variable {s : State} {a : BitVec 5} {r : BitVec 12}

theorem mfs_fault {f : Trap} (h : s.cur.sysFault r.toNat = some f) : exec (.mfs a r) s = .next (s.fault s.here .control f) := by
  show execMfs a r s = _
  simp only [execMfs, h]

theorem mts_fault {f : Trap} (h : s.cur.sysFault r.toNat = some f) : exec (.mts a r) s = .next (s.fault s.here .control f) := by
  show execMts a r s = _
  simp only [execMts, h]

theorem eret_user (hu : s.cur.isSup = false) : exec .eret s = .next (s.fault s.here .control { code := 0x04 }) :=
  congrArg Host.Outcome.next (if_neg (by simp [hu]))

theorem tstop_user (hu : s.cur.isSup = false) : exec (.tstop a) s = .next (s.fault s.here .control { code := 0x04 }) :=
  congrArg Host.Outcome.next (if_pos (by simp [hu]))

theorem tgo_user (hu : s.cur.isSup = false) : exec (.tgo a) s = .next (s.fault s.here .control { code := 0x04 }) :=
  congrArg Host.Outcome.next (if_pos (by simp [hu]))

end

/-- Settles O12: the fault is that of `Tile.sysFault`, judged before anything is read or written. -/
theorem privilegeIsChecked : Obligations.PrivilegeIsChecked := by
  unfold Obligations.PrivilegeIsChecked
  refine ⟨fun s hu => ⟨eret_user hu, fun a => ⟨tstop_user hu, tgo_user hu⟩, fun d r hr => ?_⟩, fun s d r hr => ?_, fun s d r hs hr => ?_⟩
  · have h := sysFault_privileged hu hr
    exact ⟨mfs_fault h, mts_fault h⟩
  · have h := sysFault_unlisted_user (t := s.cur) hr
    exact ⟨mfs_fault h, mts_fault h⟩
  · have unlisted : ∀ n ∈ [0x10A, 0x10F, 0x119, 0x11F, 0x122, 0x18F, 0x191, 0x19F, 0x1A4, 0x1AF, 0x1B1, 0xFFF],
        sysUser n = false ∧ sysListed n = false := by decide
    obtain ⟨hu, hl⟩ := unlisted _ hr
    have h := sysFault_unlisted_sup hs hu hl
    exact ⟨mfs_fault h, mts_fault h⟩

/-! ## mfs (R130, R266, Table 11-3) -/

section
variable {s : State} {d : BitVec 5} {r : BitVec 12}

theorem mfs_value (hf : s.cur.sysFault r.toNat = none) (hr : r.toNat ≠ 0x107) (hw : r.toNat ≠ 0x121) :
    exec (.mfs d r) s = s.yields .control ((s.seen .control).setS d (s.sysValue s.here s.cur r.toNat)) := by
  show execMfs d r s = _
  simp only [execMfs, hf, if_neg hr, if_neg hw]
  exact congrArg Host.Outcome.next (State.issueT_done rfl)

theorem mfs_window (hs : s.cur.isSup = true) :
    exec (.mfs d 0x121) s = s.yields .control ((s.seen .control).windowNext.setS d (s.seen .control).windowRead) := by
  have hf : s.cur.sysFault (0x121#12).toNat = none := sysFault_sup_listed hs rfl
  show execMfs d 0x121 s = _
  simp only [execMfs, BitVec.ofNat_eq_ofNat, hf]
  rw [if_neg (by decide), if_pos (by decide)]
  exact congrArg Host.Outcome.next (State.issueT_done rfl)

theorem sysValue_pc (s : State) (n : TileNo) (t : Tile) (k : Strand) : s.sysValue n t (0x110 + k.pos) = t.pcReg k := by
  cases k <;> rfl

theorem pcReg_other {t : Tile} {k : Strand} (hk : k ≠ .control) : t.pcReg k = t.userPc k := if_neg (by simp [hk])

theorem userRegs_value (s : State) : ∀ r ∈ Claims.userRegs s, s.sysValue s.here s.cur r.1.toNat = r.2 := by
  simp only [Claims.userRegs, List.forall_mem_cons, BitVec.ofNat_eq_ofNat, BitVec.reduceToNat]
  exact ⟨rfl, rfl, rfl, rfl, rfl, rfl, rfl, rfl, rfl, rfl, rfl, rfl, rfl, rfl, rfl, rfl, rfl, rfl, rfl, nofun⟩

/-- 0x110 is EPC while the handler runs. -/
theorem supRegs_value {s : State} (hs : s.cur.isSup = true) : ∀ r ∈ Claims.supRegs s, s.sysValue s.here s.cur r.1.toNat = r.2 := by
  have hepc : s.sysValue s.here s.cur 0x110 = s.cur.sys.epc := (sysValue_pc s _ _ .control).trans (if_pos (by simp [hs]))
  simp only [Claims.supRegs, List.forall_mem_cons, BitVec.ofNat_eq_ofNat, BitVec.reduceToNat]
  exact ⟨rfl, rfl, rfl, rfl, rfl, rfl, rfl, rfl, hepc, rfl, rfl, rfl, rfl, rfl, rfl, rfl, rfl, rfl, rfl, rfl, rfl, rfl, rfl, rfl, rfl, nofun⟩

/-- An address that `listed` holds and whose value is `State.sysValue`. -/
def plain (listed : Nat → Bool) (a : BitVec 12) : Bool := listed a.toNat && a.toNat != 0x107 && a.toNat != 0x121

theorem plain_iff {a : BitVec 12} {listed : Nat → Bool} : plain listed a = true ↔ listed a.toNat = true ∧ a.toNat ≠ 0x107 ∧ a.toNat ≠ 0x121 := by
  simp [plain, and_assoc]

theorem userRegs_plain (s : State) : (Claims.userRegs s).all (fun r => plain sysUser r.1) = true := by
  simp only [Claims.userRegs, List.all_cons, List.all_nil]
  decide

theorem supRegs_plain (s : State) : (Claims.supRegs s).all (fun r => plain sysListed r.1) = true := by
  simp only [Claims.supRegs, List.all_cons, List.all_nil]
  decide

theorem mfs_userRegs (s : State) (d : BitVec 5) : ∀ r ∈ Claims.userRegs s, exec (.mfs d r.1) s = s.yields .control ((s.seen .control).setS d r.2) := by
  intro r hr
  obtain ⟨hl, hf, hw⟩ := plain_iff.mp (List.all_eq_true.mp (userRegs_plain s) r hr)
  rw [← userRegs_value s r hr]
  exact mfs_value (sysFault_user_listed hl) hf hw

theorem mfs_supRegs {s : State} (d : BitVec 5) (hs : s.cur.isSup = true) :
    ∀ r ∈ Claims.supRegs s, exec (.mfs d r.1) s = s.yields .control ((s.seen .control).setS d r.2) := by
  intro r hr
  obtain ⟨hl, hf, hw⟩ := plain_iff.mp (List.all_eq_true.mp (supRegs_plain s) r hr)
  rw [← supRegs_value hs r hr]
  exact mfs_value (sysFault_sup_listed hs hl) hf hw

end

/-! ## mts (R130, R266, Table 11-3) -/

theorem modTile_id (s : State) (n : TileNo) : s.modTile n id = s := s.setTile_tile n

section
variable {s : State} {a : BitVec 5} {r : BitVec 12}

/-- A write beside the FPSRs: supervisor mode writes as `State.sysWrite` says, user mode discards it. -/
theorem mts_write {f : Tile → Tile} (hf : s.cur.sysFault r.toNat = none) (hr : ¬ (0x18 ≤ r.toNat ∧ r.toNat ≤ 0x1F))
    (hw : ∀ u : State, (if s.cur.isSup then u.sysWrite s.here r.toNat (s.cur.s a) else u) = u.modTile s.here f) :
    exec (.mts a r) s = s.yields .control (f (s.seen .control)) := by
  have hd : (if s.cur.isSup then Res.done ((s.setTile s.here (s.seen .control)).sysWrite s.here r.toNat (s.cur.s a))
      else .done (s.setTile s.here (s.seen .control))) = .done (s.setTile s.here (f (s.seen .control))) := by
    rw [← apply_ite Res.done, hw, State.modTile_eq, State.tile_setTile_same, State.setTile_setTile]
  show execMts a r s = _
  simp only [execMts, hf, if_neg hr]
  refine congrArg Host.Outcome.next (issue_tile ?_)
  rw [State.cur_setTile_here, s_seen]
  exact hd

theorem mts_sup {f : Tile → Tile} (hs : s.cur.isSup = true) (hl : sysListed r.toNat = true)
    (hw : ∀ u : State, u.sysWrite s.here r.toNat (s.cur.s a) = u.modTile s.here f) :
    exec (.mts a r) s = s.yields .control (f (s.seen .control)) := by
  refine mts_write (sysFault_sup_listed hs hl) (fun h => ?_) fun u => (if_pos hs).trans (hw u)
  rw [sysListed_eq_false (by omega)] at hl
  exact Bool.false_ne_true hl

/-- Each write of Table 11-3 changes the tile's system registers as the table says. -/
theorem sysWrites_write (v : W64) : ∀ r ∈ Claims.sysWrites v, ∀ (u : State) n,
    u.sysWrite n r.1.toNat v = u.modTile n fun t => { t with sys := r.2 t.sys } := by
  have hfstrand (u : State) n : u.sysWrite n 0x101 v = u.modTile n fun t => { t with sys := { t.sys with fstrand := v.setWidth 3 } } := by
    show u.modTile n (fun t => { t with sys := { t.sys with fstrand := v.extractLsb' 0 3 } }) = _
    rw [BitVec.setWidth_eq_extractLsb' (by decide)]
  simp only [Claims.sysWrites, List.forall_mem_cons, BitVec.ofNat_eq_ofNat, BitVec.reduceToNat]
  exact ⟨fun _ _ => rfl, hfstrand, fun _ _ => rfl, fun _ _ => rfl, fun _ _ => rfl, fun _ _ => rfl, fun _ _ => rfl, fun _ _ => rfl, fun _ _ => rfl,
    fun _ _ => rfl, fun _ _ => rfl, fun _ _ => rfl, nofun⟩

theorem sysWrites_listed (v : W64) : (Claims.sysWrites v).all (fun r => sysListed r.1.toNat) = true := by
  simp only [Claims.sysWrites, List.all_cons, List.all_nil]
  decide

/-- The read-only registers: no case of `State.sysWrite` names them. -/
theorem readOnly_kept (u : State) (n : TileNo) (v : W64) :
    (∀ r ∈ Claims.userReadOnly, u.sysWrite n r.toNat v = u) ∧ ∀ r ∈ Claims.supReadOnly, u.sysWrite n r.toNat v = u := by
  simp only [Claims.userReadOnly, Claims.supReadOnly, List.forall_mem_cons, BitVec.ofNat_eq_ofNat, BitVec.reduceToNat]
  exact ⟨⟨rfl, rfl, rfl, rfl, rfl, rfl, rfl, rfl, rfl, rfl, rfl, nofun⟩, rfl, rfl, rfl, rfl, nofun⟩

theorem sysWrite_pc {k : Strand} (hk : k ≠ .control) (u : State) (n : TileNo) (v : W64) : u.sysWrite n (0x110 + k.pos) v =
    u.modTile n fun t => t.modStr k fun st => { st with pc := if st.stopped then v &&& ~~~3#64 else st.pc } := by
  cases k
  case control => exact absurd rfl hk
  all_goals rfl

theorem userReadOnly_listed : Claims.userReadOnly.all (fun r => sysUser r.toNat && !(decide (0x18 ≤ r.toNat) && decide (r.toNat ≤ 0x1F))) = true := by
  decide

theorem supReadOnly_listed : Claims.supReadOnly.all (fun r => sysListed r.toNat) = true := by decide

theorem mts_userReadOnly (hr : r ∈ Claims.userReadOnly) : exec (.mts a r) s = s.yields .control (s.seen .control) := by
  have h := List.all_eq_true.mp userReadOnly_listed r hr
  simp only [Bool.and_eq_true, Bool.not_eq_true', Bool.and_eq_false_iff, decide_eq_false_iff_not] at h
  refine mts_write (f := id) (sysFault_user_listed h.1) (fun e => by omega) fun u => ?_
  rw [modTile_id, (readOnly_kept u _ _).1 r hr, ite_self]

theorem mts_supReadOnly (hs : s.cur.isSup = true) (hr : r ∈ Claims.supReadOnly) : exec (.mts a r) s = s.yields .control (s.seen .control) := by
  refine mts_sup (f := id) hs (List.all_eq_true.mp supReadOnly_listed r hr) fun u => ?_
  rw [modTile_id, (readOnly_kept u _ _).2 r hr]

/-- PCk of another strand: only a stopped strand takes it. -/
theorem mts_pc {k : Strand} (hs : s.cur.isSup = true) (hk : k ≠ .control) :
    exec (.mts a (BitVec.ofNat 12 (0x110 + k.pos))) s = s.yields .control ((s.seen .control).modStr k fun st =>
      { st with pc := if st.stopped then s.cur.s a &&& ~~~3#64 else st.pc }) := by
  have hn : (BitVec.ofNat 12 (0x110 + k.pos)).toNat = 0x110 + k.pos := by cases k <;> rfl
  have hl : sysListed (0x110 + k.pos) = true := by cases k <;> rfl
  exact mts_sup (f := fun t => t.modStr k _) hs (hn.symm ▸ hl) fun u => hn.symm ▸ sysWrite_pc hk u _ _

/-- An FPSR: what is written, and the flags that this cycle's landings raise besides (R66, R67). -/
theorem mts_fpsr (k : Strand) :
    exec (.mts a (BitVec.ofNat 12 (0x18 + k.pos))) s = s.yields .control ((s.seen .control).setFpsr k
      (fpsrWrite k (s.cur.fpsr k) (s.cur.s a) ||| if k == .control then s.cur.landingFlags else 0#8)) := by
  have hn : (BitVec.ofNat 12 (0x18 + k.pos)).toNat = 0x18 + k.pos := by cases k <;> rfl
  have hp : k.pos ≤ 7 := by cases k <;> decide
  have hk : strandAt (0x18 + k.pos - 0x18) = k := by rw [Nat.add_sub_cancel_left, strandAt, Frames.ofPos_pos, Option.getD_some]
  have hf : s.cur.sysFault (0x18 + k.pos) = none := sysFault_user_listed (by simp [sysUser]; omega)
  show execMts a _ s = _
  simp only [execMts, hn, hf, if_pos (show 0x18 ≤ 0x18 + k.pos ∧ 0x18 + k.pos ≤ 0x1F by omega), hk]
  refine congrArg Host.Outcome.next (issue_tile ?_)
  rw [State.cur_setTile_here, s_seen, State.here_setTile, State.modTile_eq, State.tile_setTile_same, State.setTile_setTile]
  rfl

end

theorem landingFlags_none {t : Tile} (h : t.bank.recs = []) : t.landingFlags = 0#8 := by
  rw [Tile.landingFlags, h]
  rfl

theorem fpsrWrite_other {k : Strand} (hk : k ≠ .control) (old : BitVec 8) (v : W64) :
    fpsrWrite k old v = (old &&& 0xE0#8) ||| (old &&& 0x1F#8 &&& ~~~(v.setWidth 8)) := by
  rw [fpsrWrite, if_neg (by simpa using hk), show 0xE0#8 = 0xC0#8 ||| 0x20#8 from rfl, ← BitVec.and_or_distrib_left]

/-- Settles O11: mfs by the value of each address, mts by the write of each. -/
theorem systemRegistersReadAndWrite : Obligations.SystemRegistersReadAndWrite := by
  unfold Obligations.SystemRegistersReadAndWrite
  refine ⟨mfs_userRegs, fun s d hs => mfs_supRegs d hs, fun s d hs => mfs_window hs, fun s a hs r hr => ?_, fun s a r hr => mts_userReadOnly hr,
    fun s a hs r hr => mts_supReadOnly hs hr, fun s a k hs hk => mts_pc hs hk, fun s a k hk => ?_, fun s a h => ?_⟩
  · exact mts_sup (f := fun t => { t with sys := r.2 t.sys }) hs (List.all_eq_true.mp (sysWrites_listed _) r hr) fun u => sysWrites_write _ r hr u _
  · rw [mts_fpsr, fpsrWrite_other hk, if_neg (by simpa using hk), BitVec.or_zero]
    rfl
  · have h' := mts_fpsr (s := s) (a := a) .control
    rw [landingFlags_none h, ite_self, BitVec.or_zero, fpsrWrite, if_pos (beq_self_eq_true _)] at h'
    exact h'

end Sys2Proof.SystemRegs

/-! PROOFS of the family 05_control.md: trap and eret, tstop and tgo (O15, O16). -/
namespace Sys2Proof.TrapForms
open Sys2Proof Sys2Proof.Machine Sys2Proof.ControlState Sys2Proof.Branches Sys2Proof.ControlForms Sys2Proof.SystemRegs Sys2Proof.Faulting

/-! ## Encodings (R131, R132) -/

/-- A form of the control strand without extensions is encoded by one word. -/
theorem decode_iff {i : Instr} (hwf : i.wf = true) (hk : i.onStrand .control = true) (hx : i.exts = []) (w : W32) :
    decodeWord .control w [] false = .ok i ↔ w = encodeWord i := by
  constructor
  · intro h
    obtain ⟨-, -, he, -⟩ := Decoding.encodeInvertsDecode.1 .control w [] i h
    exact he.symm
  · exact decode_bare hwf hk hx

/-- Extension words do not change the row of trap. -/
theorem decodeRow_trap (p : BitVec 3) (i : BitVec 13) (x : List W32) : decodeRow .control (encodeWord (.trap p i)) x = some (.trap p i) := by
  generalize hw : encodeWord (.trap p i) = w
  have h := Decoding.standsAt_append.1 (Decoding.standsAt_zero.2 hw)
  simp only [↓Decoding.standsAt_append, Decoding.StandsAt, Decoding.field_eq_opcode, BitVec.reduceExtractLsb', Nat.reduceAdd, Nat.reduceSub,
    Nat.reduceLT] at h
  simp only [decodeRow, decodeControl, h, BitVec.ofNat_eq_ofNat, BitVec.reduceToNat, beq_self_eq_true, if_true]

theorem decodeWord_trap_ext (p : BitVec 3) (i : BitVec 13) (x : W32) (rest : List W32) :
    decodeWord .control (0x32#6 ++ 0#10 ++ p ++ i) (x :: rest) false = .error .illegalExt := by
  have hrow : decodeRow .control (0x32#6 ++ 0#10 ++ p ++ i) (x :: rest) = some (.trap p i) := decodeRow_trap p i (x :: rest)
  rw [decodeWord, hrow]
  rfl

theorem decode_trap_iff (w : W32) (p : BitVec 3) (i : BitVec 13) :
    decodeWord .control w [] false = .ok (.trap p i) ↔ w = 0x32#6 ++ 0#10 ++ p ++ i :=
  decode_iff rfl rfl rfl w

theorem decode_eret_iff (w : W32) : decodeWord .control w [] false = .ok .eret ↔ w = 0xCC000000 := decode_iff rfl rfl rfl w

theorem decode_tstop_iff (w : W32) (a : BitVec 5) : decodeWord .control w [] false = .ok (.tstop a) ↔ w = 0x34#6 ++ 0#5 ++ a ++ 0#16 :=
  decode_iff rfl rfl rfl w

theorem decode_tgo_iff (w : W32) (a : BitVec 5) : decodeWord .control w [] false = .ok (.tgo a) ↔ w = 0x35#6 ++ 0#5 ++ a ++ 0#16 :=
  decode_iff rfl rfl rfl w

/-! ## trap (R262) -/

theorem str_retire_user {t : Tile} (hu : t.isSup = false) : (t.retire .control).str .control =
    { t.str .control with queue := (t.str .control).queue.tail, count := (t.str .control).count + 1, used := true } := by
  have hq : t.setQueue .control (t.queueOf .control).tail = t.modStr .control fun st => { st with queue := (t.str .control).queue.tail } := by
    simp [Tile.setQueue, Tile.queueOf, hu]
  have hc : ((t.modStr .control fun st => { st with queue := (t.str .control).queue.tail }).isSup) = false := hu
  rw [Tile.retire, hq, Tile.countUp, Fetching.str_modStr_same, Fetching.str_modStr_same, hc]
  rfl

/-- In user mode retiring changes the strands' common state and nothing else of the tile. -/
theorem retire_user_only {t : Tile} (hu : t.isSup = false) : ∃ st, t.retire .control = { t with strand := st } := by
  refine ⟨(t.retire .control).strand, ?_⟩
  simp only [Tile.retire, Tile.setQueue, hu, Bool.and_false, Bool.false_eq_true, if_false]
  rfl

/-- The tile that takes a fault of user control at once. -/
def taken (t : Tile) (f : Trap) (pc fcc : W64) : Tile := ((t.faultAt .control f pc).traceEntry fcc).trapEntry .control

section
variable {t : Tile} (hu : t.isSup = false) (f : Trap) (pc fcc : W64)
include hu

theorem noted_only : ∃ st tlb r, (t.faultAt .control f pc).traceEntry fcc = { t with strand := st, tlb := tlb, trace := r } := by
  obtain ⟨st, tlb, h⟩ := faultAt_user_only hu .control f pc
  obtain ⟨r, hr⟩ := traceEntry_only { t with strand := st, tlb := tlb } fcc
  exact ⟨st, tlb, r, by rw [h, hr]⟩

omit hu in
theorem noted_str : ((t.faultAt .control f pc).traceEntry fcc).str .control = (t.faultAt .control f pc).str .control := by
  obtain ⟨r, hr⟩ := traceEntry_only (t.faultAt .control f pc) fcc
  rw [hr]
  rfl

theorem taken_entered : Claims.Entered t (taken t f pc fcc) .control { cause := f.word, fpc := pc, faddr := f.faddr } := by
  have h := trapEntry_entered ((t.faultAt .control f pc).traceEntry fcc) .control
  rw [noted_str, str_faultAt] at h
  rw [taken]
  obtain ⟨st, tlb, r, hf⟩ := noted_only hu f pc fcc
  rw [hf] at h ⊢
  exact h

omit hu in
theorem taken_str : ∃ w r p, (taken t f pc fcc).str .control = { t.str .control with fault := w, reached := r, pc := p } := by
  rw [taken, str_trapEntry, noted_str, str_faultAt]
  exact ⟨_, _, _, by simp; exact ⟨rfl, rfl, rfl⟩⟩

theorem taken_epc {e : QEntry} {rest : List QEntry} (hh : (t.str .control).halted = false) (hq : (t.str .control).queue = e :: rest) :
    (taken t f pc fcc).sys.epc = e.pc := by
  refine trapEntry_epc .control (rest := rest) ?_ ?_ ?_
  · obtain ⟨st, tlb, r, hf⟩ := noted_only hu f pc fcc
    rw [hf]
    exact hu
  · rw [noted_str, str_faultAt]
    exact hh
  · rw [noted_str, str_faultAt]
    exact hq

end

section
variable {s : State} {p : BitVec 3} {i : BitVec 13} (g : (s.seen .control).guard p 0 = true)
include g

theorem execTrap_user (hu : s.cur.isSup = false) : exec (.trap p i) s = .next (s.setTile s.here
    (taken ((s.seen .control).retire .control) { code := 0x30, tcode := i.toNat } ((s.seen .control).pcOf .control) s.fcc)) :=
  congrArg Host.Outcome.next ((if_pos g).trans (if_neg (Bool.eq_false_iff.mp hu)))

theorem execTrap_sup (hs : s.cur.isSup = true) :
    exec (.trap p i) s = .next (s.fault s.here .control { code := 0x30, tcode := i.toNat }) :=
  congrArg Host.Outcome.next ((if_pos g).trans (if_pos hs))

end

theorem str_seen (s : State) (k : Strand) : (s.seen .control).str k = s.cur.str k := rfl

theorem softwareTrapEnters : Claims.SoftwareTrapEnters := by
  intro s p i e1 e2 rest hu g hq hh
  have hpc : (s.seen .control).pcOf .control = e1.pc := pcOf_of_queue (.inr hu) (by rw [str_seen, hq])
  have hw : Trap.word { code := 0x30, tcode := i.toNat } = Claims.causeWord 0x30 0 i.toNat :=
    word_eq (by decide) (by decide) (i.isLt.trans (by decide))
  have hstr := str_retire_user (t := s.seen .control) hu
  rw [str_seen, hq] at hstr
  obtain ⟨st, hr⟩ := retire_user_only (t := s.seen .control) hu
  have hru : ((s.seen .control).retire .control).isSup = false := by rw [hr]; exact hu
  have hent := taken_entered hru { code := 0x30, tcode := i.toNat } e1.pc s.fcc
  obtain ⟨w, r, pc', hts⟩ := taken_str (t := (s.seen .control).retire .control) { code := 0x30, tcode := i.toNat } e1.pc s.fcc
  refine ⟨_, execTrap_user g hu, ?_⟩
  rw [State.cur_setTile_here, hpc]
  refine ⟨rfl, ?_, taken_epc hru _ _ _ (by rw [hstr]; exact hh) (rest := rest) (by rw [hstr]; rfl), by rw [hts, hstr]; rfl, by rw [hts, hstr]⟩
  rw [hr, hw] at hent
  rw [hr]
  exact hent

theorem softwareTrapForm : Claims.SoftwareTrapForm :=
  ⟨decode_trap_iff, rfl, decodeWord_trap_ext, fun _ _ i g => execTrap_false g i, fun _ _ _ hs g => execTrap_sup g hs⟩

/-! ## eret (R263) -/

/-- The tile back in user mode: control goes on at EPC and fetch at FETCHPC. -/
def resumed (t : Tile) : Tile :=
  ({ t with phase := .running, quiet := 0
            fetch := { t.fetch with addr := t.sys.fetchpc, stopped := false, notBefore := t.tcc + 1 } } : Tile).modStr .control fun st =>
    { st with queue := if (t.str .control).halted then [] else dropTo (t.str .control).queue t.sys.epc }

/-- Fetch waits no longer for a branch that the return has skipped (R78). -/
def skipBranch (t : Tile) : Tile :=
  match t.fetch.branch with
  | some b =>
    if b.issued.isNone && !((t.str .control).queue.any fun e => lineAddr e.pc == b.line) then
      { t with fetch := { t.fetch with branch := none } }
    else t
  | none => t

/-- The tile after the return, before a pending fault is looked for. -/
def returned (t : Tile) : Tile := skipBranch (resumed t)

/-- The lowest strand with a fault pending in FPEND. -/
def lowestPending (t : Tile) : Option Strand := Strand.all.find? fun k => t.sys.fpend.getLsbD k.pos

theorem eret_none {t : Tile} (h : lowestPending t = none) : t.eret = returned t := by
  show (match lowestPending t with | none => returned t | some k => _) = _
  rw [h]

theorem eret_some {t : Tile} {k : Strand} (h : lowestPending t = some k) : t.eret =
    { (returned t).trapEntry k with sys := { ((returned t).trapEntry k).sys with epc := t.sys.epc, fetchpc := t.sys.fetchpc } } := by
  show (match lowestPending t with
    | none => returned t
    | some k => { (returned t).trapEntry k with sys := { ((returned t).trapEntry k).sys with epc := t.sys.epc, fetchpc := t.sys.fetchpc } }) = _
  rw [h]

theorem skipBranch_only (t : Tile) : ∃ b, skipBranch t = { t with fetch := { t.fetch with branch := b } } := by
  unfold skipBranch
  split
  · split
    · exact ⟨none, rfl⟩
    · exact ⟨t.fetch.branch, rfl⟩
  · exact ⟨t.fetch.branch, rfl⟩

theorem returned_only (t : Tile) : ∃ b, returned t = { resumed t with fetch := { (resumed t).fetch with branch := b } } :=
  skipBranch_only (resumed t)

theorem str_returned (t : Tile) (k : Strand) : (returned t).str k = (resumed t).str k := by
  obtain ⟨b, h⟩ := returned_only t
  rw [h]
  rfl

theorem str_returned_control (t : Tile) : (returned t).str .control = { t.str .control with
    queue := if (t.str .control).halted then [] else dropTo (t.str .control).queue t.sys.epc } := by
  rw [str_returned, resumed, Fetching.str_modStr_same]
  rfl

theorem str_returned_other (t : Tile) {k : Strand} (hk : k ≠ .control) : (returned t).str k = t.str k := by
  rw [str_returned, resumed, Frames.str_modStr_other _ hk]
  rfl

theorem str_returned_fault (t : Tile) (k : Strand) : ((returned t).str k).fault = (t.str k).fault := by
  by_cases hk : k = .control
  · rw [hk, str_returned_control]
  · rw [str_returned_other t hk]

/-- What the return keeps, with and without a pending fault. -/
structure Returns (t u : Tile) : Prop where
  user : u.ctl.user = t.ctl.user
  ubank : u.ctl.ubank = t.ctl.ubank
  spad : u.spad = t.spad
  rsp : u.rsp = t.rsp
  epc : u.sys.epc = t.sys.epc
  others : ∀ k, k ≠ .control → (u.str k).stopped = (t.str k).stopped ∧ (u.str k).queue = (t.str k).queue

theorem returns_eret (t : Tile) : Returns t t.eret := by
  obtain ⟨b, hb⟩ := returned_only t
  cases h : lowestPending t with
  | none =>
    rw [eret_none h]
    refine ⟨?_, ?_, ?_, ?_, ?_, fun k hk => ?_⟩
    case refine_6 => rw [str_returned_other t hk]; exact ⟨rfl, rfl⟩
    all_goals
      rw [hb]
      rfl
  | some j =>
    rw [eret_some h]
    refine ⟨?_, ?_, ?_, ?_, rfl, fun k hk => ?_⟩
    case refine_5 =>
      show (((returned t).trapEntry j).str k).stopped = _ ∧ (((returned t).trapEntry j).str k).queue = _
      rw [str_trapEntry, str_returned_other t hk]
      exact ⟨rfl, rfl⟩
    all_goals
      rw [hb]
      rfl

theorem lowestPending_none {t : Tile} (h : t.sys.fpend = 0) : lowestPending t = none := by
  simp [lowestPending, h]

/-- The first strand of Table 2-1 with a property is that of the lowest position. -/
theorem find?_all_lowest {q : Strand → Bool} {k : Strand} (hk : q k = true) (hl : ∀ j, q j = true → k.pos ≤ j.pos) : Strand.all.find? q = some k := by
  have before : ∀ j ∈ Strand.all.take k.pos, j.pos < k.pos := by cases k <;> decide
  refine List.find?_eq_some_iff_append.mpr ⟨hk, Strand.all.take k.pos, Strand.all.drop (k.pos + 1), by cases k <;> rfl, fun j hj => ?_⟩
  rw [Bool.not_eq_true', ← Bool.not_eq_true]
  exact fun h => (before j hj).not_ge (hl j h)

theorem lowestPending_some {t : Tile} {k : Strand} (hk : t.sys.fpend.getLsbD k.pos = true)
    (hl : ∀ j : Strand, t.sys.fpend.getLsbD j.pos = true → k.pos ≤ j.pos) : lowestPending t = some k :=
  find?_all_lowest hk hl

theorem bank_user {t : Tile} (h : t.phase = .running) : t.regs = t.ctl.user ∧ t.bank = t.ctl.ubank := by
  simp [Tile.regs, Tile.bank, Tile.isSup, h]

theorem tickControl_ubank {t : Tile} (hs : t.isSup = true) : t.tickControl.ctl.ubank = t.ctl.ubank := by
  simp [tickControl_eq, Tile.setBank, hs, Tile.raiseFlags, Tile.setFpsr]

/-- The tile that eret leaves; it has used this TC of the control strand. -/
def eretTile (s : State) : Tile := (s.seen .control).eret.modStr .control fun st => { st with used := true }

theorem execEret_sup {s : State} (hs : s.cur.isSup = true) : exec .eret s = .next (s.setTile s.here (eretTile s)) :=
  congrArg Host.Outcome.next (if_pos hs)

theorem str_eretTile_other (s : State) {k : Strand} (hk : k ≠ .control) : (eretTile s).str k = (s.seen .control).eret.str k :=
  Frames.str_modStr_other _ hk _

/-- No fault is pending: user mode goes on. -/
theorem eretTile_resumes {s : State} (hs : s.cur.isSup = true) (h : s.cur.sys.fpend = 0) :
    (eretTile s).phase = .running ∧ (eretTile s).fetch.addr = s.cur.sys.fetchpc ∧ (eretTile s).fetch.level = s.cur.fetch.level ∧
    (eretTile s).regs = s.cur.ctl.user ∧ (eretTile s).bank = s.cur.ctl.ubank ∧
    ((s.cur.str .control).halted = false →
      ((eretTile s).str .control).queue = (s.cur.str .control).queue.dropWhile fun e => e.pc != s.cur.sys.epc) := by
  have he : (s.seen .control).eret = returned (s.seen .control) := eret_none (lowestPending_none h)
  obtain ⟨b, hb⟩ := returned_only (s.seen .control)
  have hp : (eretTile s).phase = .running := by
    rw [eretTile, he, hb]
    rfl
  have hk : Returns _ _ := returns_eret (s.seen .control)
  obtain ⟨hregs, hbank⟩ := bank_user hp
  refine ⟨hp, ?_, ?_, hregs.trans (hk.user.trans (Tile.setBank_user _ _)), hbank.trans (hk.ubank.trans (tickControl_ubank hs)), fun hh => ?_⟩
  · rw [eretTile, he, hb]
    rfl
  · rw [eretTile, he, hb]
    rfl
  · rw [eretTile, Fetching.str_modStr_same, he, str_returned_control, str_seen, hh]
    rfl

/-- A fault is pending: the handler is entered again for the lowest strand. -/
theorem eretTile_enters {s : State} {k : Strand} (hk : s.cur.sys.fpend.getLsbD k.pos = true)
    (hl : ∀ j : Strand, s.cur.sys.fpend.getLsbD j.pos = true → k.pos ≤ j.pos) :
    (eretTile s).phase = .trapped ∧ (eretTile s).sys.fstrand = BitVec.ofNat 3 k.pos ∧ (eretTile s).sys.cause = (s.cur.str k).fault.cause ∧
    (eretTile s).sfetch.addr = 0 := by
  have he := eret_some (t := s.seen .control) (lowestPending_some hk hl)
  rw [eretTile, he, ← str_seen, ← str_returned_fault (s.seen .control) k]
  exact ⟨rfl, rfl, rfl, rfl⟩

theorem eretResumesUserMode : Claims.EretResumesUserMode := by
  refine ⟨decode_eret_iff, fun s hu => eret_user hu, fun s hs => ⟨_, execEret_sup hs, ?_⟩⟩
  have hk : Returns _ _ := returns_eret (s.seen .control)
  rw [State.cur_setTile_here]
  refine ⟨rfl, hk.user.trans (Tile.setBank_user _ _), hk.ubank.trans (tickControl_ubank hs), hk.spad, hk.rsp, hk.epc, fun k hne => ?_,
    fun h => eretTile_resumes hs h, fun k hb hl => eretTile_enters hb hl⟩
  rw [str_eretTile_other s hne]
  exact hk.others k hne

/-- Settles O15, form by form. -/
theorem softwareTrapAndReturn : Obligations.SoftwareTrapAndReturn := ⟨softwareTrapEnters, softwareTrapForm, eretResumesUserMode⟩

/-! ## tstop and tgo (R132, R264) -/

theorem mem_maskStrands {m : W64} {k : Strand} : k ∈ maskStrands m ↔ m.getLsbD k.pos = true := by
  have hk : k ∈ Strand.all := by cases k <;> decide
  simp [maskStrands, hk]

/-- The common state of strand `k` after it has been stopped, and after it has been let go on. -/
def stopOf (t : Tile) (k : Strand) : StrandState :=
  if (t.str k).halted = false ∧ (t.str k).stopped = false then { t.str k with stopped := true, pc := t.pcOf k } else t.str k

def startOf (t : Tile) (k : Strand) : StrandState :=
  if (t.str k).stopped = true ∧ (t.str k).halted = false then
    { t.str k with stopped := false, reached := none, queue := dropTo (t.str k).queue (t.str k).pc } else t.str k

/-- An operation on one strand changes the strands' common state alone. -/
theorem foldl_strand_only {op : Tile → Strand → Tile} (h : ∀ t j, op t j = { t with strand := (op t j).strand }) (l : List Strand) (t : Tile) :
    l.foldl op t = { t with strand := (l.foldl op t).strand } := by
  induction l generalizing t with
  | nil => rfl
  | cons j l ih =>
    rw [List.foldl_cons, ih (op t j), h t j]

/-- Each named strand is as the operation leaves it, where the operation on one strand does not change what it makes of any. -/
theorem str_foldl {op : Tile → Strand → Tile} {g : Tile → Strand → StrandState}
    (hs : ∀ t j k, (op t j).str k = if k = j then g t k else t.str k) (hg : ∀ t j k, g (op t j) k = g t k) (l : List Strand) (t : Tile) (k : Strand) :
    (l.foldl op t).str k = if k ∈ l then g t k else t.str k := by
  induction l generalizing t with
  | nil => simp
  | cons j l ih =>
    rw [List.foldl_cons, ih, hg, hs]
    by_cases hl : k ∈ l
    · simp [hl]
    · simp [hl]

theorem stopStrand_str (t : Tile) (j k : Strand) : (t.stopStrand j).str k = if k = j then stopOf t k else t.str k := by
  unfold Tile.stopStrand stopOf
  by_cases hk : k = j
  · subst hk
    cases hh : (t.str k).halted <;> cases hs : (t.str k).stopped <;> simp [hh, hs, Fetching.str_modStr_same]
  · dsimp only
    rw [if_neg hk]
    split
    · rfl
    · exact Frames.str_modStr_other t hk _

theorem startStrand_str (t : Tile) (j k : Strand) : (t.startStrand j).str k = if k = j then startOf t k else t.str k := by
  unfold Tile.startStrand startOf
  by_cases hk : k = j
  · subst hk
    simp [Fetching.str_modStr_same]
  · rw [if_neg hk, Frames.str_modStr_other t hk]

theorem stopStrand_only (t : Tile) (j : Strand) : t.stopStrand j = { t with strand := (t.stopStrand j).strand } := by
  unfold Tile.stopStrand
  dsimp only
  split
  · rfl
  · rfl

theorem pcOf_congr {t u : Tile} {k : Strand} (h : ∃ st, u = { t with strand := st }) (hq : (u.str k).queue = (t.str k).queue) : u.pcOf k = t.pcOf k := by
  obtain ⟨st, rfl⟩ := h
  rw [Tile.pcOf, hq]
  rfl

theorem stopOf_queue (t : Tile) (k : Strand) : (stopOf t k).queue = (t.str k).queue := by
  unfold stopOf
  split <;> rfl

theorem stopStrand_queue (t : Tile) (j k : Strand) : ((t.stopStrand j).str k).queue = (t.str k).queue := by
  rw [stopStrand_str]
  split
  · exact stopOf_queue t k
  · rfl

theorem stopOf_stopStrand (t : Tile) (j k : Strand) : stopOf (t.stopStrand j) k = stopOf t k := by
  have hpc : (t.stopStrand j).pcOf k = t.pcOf k := pcOf_congr ⟨_, stopStrand_only t j⟩ (stopStrand_queue t j k)
  rw [stopOf, hpc, stopStrand_str]
  by_cases hk : k = j
  · rw [if_pos hk]
    unfold stopOf
    split <;> simp_all
  · rw [if_neg hk, stopOf]

theorem startOf_startStrand (t : Tile) (j k : Strand) : startOf (t.startStrand j) k = startOf t k := by
  rw [startOf, startStrand_str]
  by_cases hk : k = j
  · rw [if_pos hk]
    unfold startOf
    split <;> simp_all
  · rw [if_neg hk, startOf]

theorem str_stopAll (l : List Strand) (t : Tile) (k : Strand) : (l.foldl Tile.stopStrand t).str k = if k ∈ l then stopOf t k else t.str k :=
  str_foldl stopStrand_str stopOf_stopStrand l t k

theorem str_startAll (l : List Strand) (t : Tile) (k : Strand) : (l.foldl Tile.startStrand t).str k = if k ∈ l then startOf t k else t.str k :=
  str_foldl startStrand_str startOf_startStrand l t k

theorem pcOf_seen_any (s : State) (k : Strand) : (s.seen .control).pcOf k = s.cur.pcOf k := by
  unfold Tile.pcOf
  rw [str_seen, seen_control, tickControl_squeue]
  rfl

theorem store_named_busy_iff (m : W64) (t : Tile) :
    ((maskStrands m).contains .store && t.storeBusy) = true ↔ m.getLsbD 3 = true ∧ t.storeBusy = true := by
  rw [Bool.and_eq_true, List.contains_iff_mem, mem_maskStrands]
  rfl

/-- An instruction that is held with something begun for it. -/
theorem issueT_stay {s : State} {k : Strand} {f : Tile → Res Tile} {g : State → State} (h : f (s.seen k) = .stay g) : s.issueT k f = g s := by
  simp only [State.issueT, State.issue, State.cur_modTile_here]
  rw [show s.cur.tick k = s.seen k from rfl, h]
  rfl

section
variable {s : State} {a : BitVec 5} (hs : s.cur.isSup = true)
include hs

theorem tstop_issue : exec (.tstop a) s = .next (s.issueT .control fun t =>
    let m := t.s a
    if m.getLsbD 0 then .trap { code := cIllegalInsn }
    else if (maskStrands m).contains .store && t.storeBusy then
      .stay fun s => s.modTile s.here fun x => ((maskStrands m).filter (· != .store)).foldl Tile.stopStrand x
    else .done ((maskStrands m).foldl Tile.stopStrand t)) :=
  congrArg Host.Outcome.next (if_neg (by simp [hs]))

theorem tgo_issue : exec (.tgo a) s = .next (s.issueT .control fun t =>
    let m := t.s a
    if m.getLsbD 0 then .trap { code := cIllegalInsn } else .done ((maskStrands m).foldl Tile.startStrand t)) :=
  congrArg Host.Outcome.next (if_neg (by simp [hs]))

theorem mask_control (h : (s.cur.s a).getLsbD 0 = true) :
    exec (.tstop a) s = .next (s.fault s.here .control { code := 0x01 }) ∧ exec (.tgo a) s = .next (s.fault s.here .control { code := 0x01 }) := by
  rw [tstop_issue hs, tgo_issue hs]
  exact ⟨congrArg Host.Outcome.next (State.issueT_trap (if_pos (by rw [s_seen]; exact h))),
    congrArg Host.Outcome.next (State.issueT_trap (if_pos (by rw [s_seen]; exact h)))⟩

variable (h0 : (s.cur.s a).getLsbD 0 = false)
include h0

theorem tstop_done (h : (s.cur.s a).getLsbD 3 = false ∨ s.cur.storeBusy = false) :
    exec (.tstop a) s = s.yields .control ((maskStrands (s.cur.s a)).foldl Tile.stopStrand (s.seen .control)) := by
  have hb : ¬ ((maskStrands (s.cur.s a)).contains .store && (s.seen .control).storeBusy) = true := by
    rw [store_named_busy_iff]
    rintro ⟨h3, hb⟩
    obtain h | h := h
    · exact Bool.false_ne_true (h.symm.trans h3)
    · exact Bool.false_ne_true (h.symm.trans hb)
  rw [tstop_issue hs]
  refine congrArg Host.Outcome.next (State.issueT_done ?_)
  simp only [s_seen, h0, Bool.false_eq_true, if_false, if_neg hb]

theorem tstop_held (h3 : (s.cur.s a).getLsbD 3 = true) (hb : s.cur.storeBusy = true) :
    exec (.tstop a) s = .next (s.setTile s.here (((maskStrands (s.cur.s a)).filter (· != .store)).foldl Tile.stopStrand s.cur)) := by
  have hb : ((maskStrands (s.cur.s a)).contains .store && (s.seen .control).storeBusy) = true := (store_named_busy_iff _ _).mpr ⟨h3, hb⟩
  rw [tstop_issue hs]
  refine congrArg Host.Outcome.next (issueT_stay (g := fun s' => s'.modTile s'.here fun x =>
    ((maskStrands (s.cur.s a)).filter (· != .store)).foldl Tile.stopStrand x) ?_)
  simp only [s_seen, h0, Bool.false_eq_true, if_false, if_pos hb]

theorem tgo_done : exec (.tgo a) s = s.yields .control ((maskStrands (s.cur.s a)).foldl Tile.startStrand (s.seen .control)) := by
  rw [tgo_issue hs]
  refine congrArg Host.Outcome.next (State.issueT_done ?_)
  simp only [s_seen, h0, Bool.false_eq_true, if_false]

end

/-- The common state of each strand after tstop, and after tgo, in terms of the state before the instruction. -/
theorem str_tstop (s : State) (m : W64) (k : Strand) : ((maskStrands m).foldl Tile.stopStrand (s.seen .control)).str k =
    if m.getLsbD k.pos ∧ (s.cur.str k).halted = false ∧ (s.cur.str k).stopped = false
    then { s.cur.str k with stopped := true, pc := s.cur.pcOf k } else s.cur.str k := by
  rw [str_stopAll, stopOf, pcOf_seen_any, str_seen]
  simp only [mem_maskStrands, ite_and]

theorem str_tgo (s : State) (m : W64) (k : Strand) : ((maskStrands m).foldl Tile.startStrand (s.seen .control)).str k =
    if m.getLsbD k.pos ∧ (s.cur.str k).stopped = true ∧ (s.cur.str k).halted = false
    then { s.cur.str k with stopped := false, reached := none, queue := (s.cur.str k).queue.dropWhile fun e => e.pc != (s.cur.str k).pc }
    else s.cur.str k := by
  rw [str_startAll, startOf, str_seen]
  simp only [mem_maskStrands, dropTo, ite_and]

theorem stopAll_queue (l : List Strand) (t : Tile) (k : Strand) : ((l.foldl Tile.stopStrand t).str k).queue = (t.str k).queue := by
  rw [str_stopAll]
  split
  · exact stopOf_queue t k
  · rfl

theorem stopAll_stopped {l : List Strand} {t : Tile} {k : Strand} (hk : k ∈ l) (hh : (t.str k).halted = false) :
    ((l.foldl Tile.stopStrand t).str k).stopped = true := by
  rw [str_stopAll, if_pos hk, stopOf]
  cases hs : (t.str k).stopped <;> simp [hh, hs]

/-- Settles O16: a mask is taken strand by strand, and what is made of one strand does not depend on the others. -/
theorem tstopAndTgoActOnNamedStrands : Obligations.TstopAndTgoActOnNamedStrands := by
  unfold Obligations.TstopAndTgoActOnNamedStrands
  refine ⟨decode_eret_iff, fun w a => ⟨decode_tstop_iff w a, decode_tgo_iff w a⟩, rfl, rfl,
    fun s a hu => ⟨eret_user hu, tstop_user hu, tgo_user hu⟩, fun s a hs => ⟨mask_control hs, fun h0 => ⟨fun h => ?done, fun h3 hb => ?held, ?go⟩⟩⟩
  case done => exact ⟨_, tstop_done hs h0 h, foldl_strand_only stopStrand_only _ _, str_tstop s _⟩
  case held =>
    refine ⟨_, tstop_held hs h0 h3 hb, stopAll_queue _ _ _, fun k hk _ hm hh => stopAll_stopped ?_ hh⟩
    exact List.mem_filter.mpr ⟨mem_maskStrands.mpr hm, bne_iff_ne.mpr hk⟩
  case go => exact ⟨_, tgo_done hs h0, foldl_strand_only (fun _ _ => rfl) _ _, str_tgo s _⟩

end Sys2Proof.TrapForms

/-! PROOFS of the family 05_control.md: the common operations (O17). -/
namespace Sys2Proof.CommonSync
open Sys2Proof Sys2Proof.Machine

/-! ## halt of a store strand that waits for an evicted buffer (R355, R190) -/

/-- A halt that may not be taken now leaves the state as it is. -/
theorem exec_halt_held {s : State} (h : s.cur.mayHalt s.strandHere = false) : exec .halt s = .next s := by
  change execHalt s = .next s
  simp [execHalt, h]

/-- The reset state in the store strand's turn, with nothing pending and no hold, while the strand waits for buffer 0 of the Bellows,
which its element has evicted. -/
def aggregateWaits : State :=
  ({ State.reset with turn := { State.reset.turn with phase := 20 } } : State).modTile State.reset.here fun x =>
    { x with st := { x.st with pending := [], hold := none, aggWait := some 0 } }

theorem strandHere_aggregateWaits : aggregateWaits.strandHere = .store := rfl

theorem st_aggregateWaits : aggregateWaits.cur.st.pending = [] ∧ aggregateWaits.cur.st.hold = none ∧ aggregateWaits.cur.st.aggWait = some 0 := by
  unfold aggregateWaits
  generalize hs : ({ State.reset with turn := { State.reset.turn with phase := 20 } } : State) = s
  have hh : State.reset.here = s.here := by rw [← hs]; rfl
  rw [hh, State.cur_modTile_here]
  exact ⟨rfl, rfl, rfl⟩

/-- Refutes O17: the clause on halt asks only for an empty `pending` and no hold of the store strand, but the strand is
not halted either while `aggWait` names a buffer; in `aggregateWaits` the halt is held and the strand's count stays. -/
theorem not_commonSyncForms : ¬ Obligations.CommonSyncForms := by
  rintro ⟨⟨-, -, hHalt, -⟩, -⟩
  obtain ⟨hPending, hHold, hWait⟩ := st_aggregateWaits
  have hHeld : exec .halt aggregateWaits = .next aggregateWaits :=
    exec_halt_held (by simp [Tile.mayHalt, strandHere_aggregateWaits, hWait])
  obtain ⟨s', hExec, -, -, hCount, -⟩ :=
    hHalt aggregateWaits (.inr ⟨hPending, hHold⟩) (fun _ => by simp [strandHere_aggregateWaits])
  obtain rfl : aggregateWaits = s' := Host.Outcome.next.inj (hHeld.symm.trans hExec)
  simp at hCount

end Sys2Proof.CommonSync

/-!
PROOFS of the family 06_vector.md: vectors as bits, elements, lanes and rows.
-/
namespace Sys2Proof.Vectors
open Sys2Proof Sys2Proof.Machine

/-! ## Packed lists -/

theorem packList_lt (w : Nat) (l : List Nat) : packList w l < 2 ^ (w * l.length) := by
  induction l with
  | nil => simp [packList]
  | cons v l ih =>
    rw [packList, List.length_cons, Nat.mul_add_one, Nat.add_comm (w * _), Nat.pow_add]
    have hv : v % 2 ^ w < 2 ^ w := Nat.mod_lt _ (Nat.two_pow_pos w)
    calc v % 2 ^ w + 2 ^ w * packList w l < 2 ^ w * (packList w l + 1) := by rw [Nat.mul_add_one]; omega
      _ ≤ 2 ^ w * 2 ^ (w * l.length) := Nat.mul_le_mul_left _ ih

theorem packList_lt_of_le {w n : Nat} {l : List Nat} (h : w * l.length ≤ n) : packList w l < 2 ^ n :=
  Nat.lt_of_lt_of_le (packList_lt w l) (Nat.pow_le_pow_right Nat.two_pos h)

/-- A field of a packed list is the number that was packed there; zero beyond the list. -/
theorem packList_field (w : Nat) (l : List Nat) (i : Nat) : packList w l / 2 ^ (w * i) % 2 ^ w = l.getD i 0 % 2 ^ w := by
  induction l generalizing i with
  | nil => simp [packList]
  | cons v l ih =>
    have hv : v % 2 ^ w < 2 ^ w := Nat.mod_lt _ (Nat.two_pow_pos w)
    cases i with
    | zero => simp [packList, Nat.add_mod]
    | succ i =>
      rw [packList, Nat.mul_add_one, Nat.add_comm (w * i), Nat.pow_add, ← Nat.div_div_eq_div_mul,
        Nat.add_mul_div_left _ _ (Nat.two_pow_pos w), Nat.div_eq_of_lt hv, Nat.zero_add, ih, List.getD_cons_succ]

theorem packList_testBit {w : Nat} (hw : 0 < w) (l : List Nat) (j : Nat) :
    (packList w l).testBit j = (l.getD (j / w) 0).testBit (j % w) := by
  have hj : j % w < w := Nat.mod_lt j hw
  have h := congrArg (Nat.testBit · (j % w)) (packList_field w l (j / w))
  simpa [Nat.testBit_mod_two_pow, Nat.testBit_div_two_pow, hj, Nat.add_comm (j % w), Nat.div_add_mod] using h

/-! ## Elements and lanes -/

/-- An element of a vector that was made of elements. -/
theorem elem_fromElems {w i : Nat} {l : List Nat} (hi : i < l.length) (hl : w * l.length ≤ 4096) :
    Claims.elem w i (fromElems w l) = l[i] % 2 ^ w := by
  rw [Claims.elem, fromElems, BitVec.toNat_ofNat, Nat.mod_eq_of_lt (packList_lt_of_le hl), packList_field, List.getD_eq_getElem _ _ hi]

theorem elem_fromElems_map {w n i : Nat} (f : Nat → Nat) (hi : i < n) (hn : w * n ≤ 4096) :
    Claims.elem w i (fromElems w ((List.range n).map f)) = f i % 2 ^ w := by
  rw [elem_fromElems (by simpa) (by simpa)]
  simp

theorem elem_lt (w i : Nat) (v : Vec) : Claims.elem w i v < 2 ^ w := Nat.mod_lt _ (Nat.two_pow_pos w)

theorem lane_eq_ofNat (v : Vec) (i : Nat) : lane v i = BitVec.ofNat 32 (Claims.elem 32 i v) := by
  apply BitVec.eq_of_toNat_eq
  simp [lane, Claims.elem, BitVec.extractLsb'_toNat, Nat.shiftRight_eq_div_pow]

theorem lane_fromElems_map {i : Nat} (f : Nat → Nat) (hi : i < 128) :
    lane (fromElems 32 ((List.range 128).map f)) i = BitVec.ofNat 32 (f i) := by
  rw [lane_eq_ofNat, elem_fromElems_map f hi (by decide)]
  apply BitVec.eq_of_toNat_eq
  simp

theorem lane_ofLanes {i : Nat} (f : Nat → W32) (hi : i < 128) : lane (ofLanes f) i = f i :=
  by
  rw [ofLanes, ← fromElems, lane_fromElems_map (fun i => (f i).toNat) hi, BitVec.ofNat_toNat, BitVec.setWidth_eq]

theorem getLsbD_lane (v : Vec) (i : Nat) {k : Nat} (hk : k < 32) : (lane v i).getLsbD k = v.getLsbD (32 * i + k) := by
  rw [lane, BitVec.getLsbD_extractLsb', decide_eq_true hk, Bool.true_and]

/-- A lane is `x` when its bits are. -/
theorem lane_ext {v : Vec} {i : Nat} {x : W32} (h : ∀ k < 32, v.getLsbD (32 * i + k) = x.getLsbD k) : lane v i = x :=
  BitVec.eq_of_getLsbD_eq fun k hk => (getLsbD_lane v i hk).trans (h k hk)

/-- Vectors with equal lanes are equal. -/
theorem eq_of_lane_eq {u v : Vec} (h : ∀ i < 128, lane u i = lane v i) : u = v := by
  apply BitVec.eq_of_getLsbD_eq
  intro j hj
  have hk : j % 32 < 32 := Nat.mod_lt j (by decide)
  rw [← Nat.div_add_mod j 32, ← getLsbD_lane u _ hk, ← getLsbD_lane v _ hk, h _ (by omega)]

/-! ## Masks -/

theorem getLsbD_maskOf (f : Nat → Bool) {i : Nat} (hi : i < 128) : (maskOf f).getLsbD i = f i := by
  rw [maskOf, BitVec.getLsbD_ofNat, packList_testBit (by decide), Nat.div_one, Nat.mod_one, decide_eq_true hi, Bool.true_and,
    List.getD_eq_getElem _ _ (by simpa)]
  cases h : f i <;> simp [h]

theorem getLsbD_lanesBeyond (x : Nat) {i : Nat} (hi : i < 128) : (lanesBeyond x).getLsbD i = decide (8 * (x + 1) ≤ i) := by
  rw [lanesBeyond, BitVec.getLsbD_shiftLeft, BitVec.getLsbD_allOnes]
  by_cases h : 8 * (x + 1) ≤ i
  · simp [h, hi, Nat.not_lt.mpr h]; omega
  · simp [h, Nat.lt_of_not_le h]

theorem getLsbD_sliceLane (x : Nat) {i : Nat} (hi : i < 128) : (sliceLane x).getLsbD i = decide (i / 8 = x) := by
  have h255 : ∀ k, (255#128).getLsbD k = decide (k < 8) := fun k => by
    rw [show (255#128) = BitVec.setWidth 128 (BitVec.allOnes 8) from rfl, BitVec.getLsbD_setWidth, BitVec.getLsbD_allOnes]
    by_cases h : k < 8
    · simp [h]; omega
    · simp [h]
  rw [sliceLane, BitVec.getLsbD_shiftLeft, h255]
  by_cases h : i / 8 = x
  · simp [h, hi]; omega
  · simp [h, hi]; omega

theorem getLsbD_laneBits (en : BitVec 128) {j : Nat} (hj : j < 4096) : (laneBits en).getLsbD j = en.getLsbD (j / 32) := by
  have hk : j % 32 < 32 := Nat.mod_lt j (by decide)
  have hi : j / 32 < ((List.range 128).map fun i => if en.getLsbD i then 2 ^ 32 - 1 else 0).length := by simp; omega
  rw [laneBits, BitVec.getLsbD_ofNat, packList_testBit (by decide), decide_eq_true hj, Bool.true_and,
    List.getD_eq_getElem _ _ hi, List.getElem_map, List.getElem_range, apply_ite (Nat.testBit · (j % 32)),
    Nat.testBit_two_pow_sub_one, decide_eq_true hk, Nat.zero_testBit]
  cases en.getLsbD (j / 32) <;> rfl

theorem getLsbD_blend (en : BitVec 128) (v old : Vec) {j : Nat} (hj : j < 4096) :
    (blend en v old).getLsbD j = if en.getLsbD (j / 32) then v.getLsbD j else old.getLsbD j := by
  simp only [blend, BitVec.getLsbD_or, BitVec.getLsbD_and, BitVec.getLsbD_not, getLsbD_laneBits en hj]
  cases en.getLsbD (j / 32) <;> simp [hj]

/-- A blend takes the enabled lanes of one vector and the others of another. -/
theorem lane_blend (en : BitVec 128) (v old : Vec) {i : Nat} (hi : i < 128) :
    lane (blend en v old) i = if en.getLsbD i then lane v i else lane old i := by
  apply lane_ext
  intro k hk
  have hdiv : (32 * i + k) / 32 = i := by omega
  rw [getLsbD_blend _ _ _ (by omega), hdiv, apply_ite (BitVec.getLsbD · k), getLsbD_lane v i hk, getLsbD_lane old i hk]

theorem blend_allOnes (v old : Vec) : blend (BitVec.allOnes 128) v old = v :=
  eq_of_lane_eq fun i hi => by rw [lane_blend _ _ _ hi, BitVec.getLsbD_allOnes, decide_eq_true hi, if_pos rfl]

/-! ## Rows of register space -/

theorem testBit_readN (m : Memory) (a n : Nat) {j : Nat} (hj : j < 8 * n) :
    (m.readN a n).testBit j = (m.read (a + j / 8)).getLsbD (j % 8) := by
  induction n generalizing a j with
  | zero => omega
  | succ n ih =>
    have hb : (m.read a).toNat < 2 ^ 8 := (m.read a).isLt
    rw [Memory.readN, Nat.add_comm, show (256 : Nat) = 2 ^ 8 from rfl, Nat.testBit_two_pow_mul_add _ hb]
    split
    · rw [Nat.div_eq_of_lt ‹_›, Nat.mod_eq_of_lt ‹_›]; rfl
    · rw [ih (a + 1) (by omega), show a + 1 + (j - 8) / 8 = a + j / 8 by omega, show (j - 8) % 8 = j % 8 by omega]

theorem getLsbD_row (m : Memory) (r : Nat) {j : Nat} (hj : j < 4096) :
    (m.row r).getLsbD j = (m.read (512 * r + j / 8)).getLsbD (j % 8) := by
  rw [Memory.row, BitVec.getLsbD_ofNat, decide_eq_true hj, Bool.true_and, testBit_readN m _ _ (by omega)]

/-- A bit of a number that was written little-endian. -/
theorem getLsbD_read_writeN {m : Memory} (hm : m.wf = true) {a n v y k : Nat} (h : a ≤ y ∧ y < a + n) (hk : k < 8) :
    ((m.writeN a n v).read y).getLsbD k = v.testBit (8 * (y - a) + k) := by
  rw [Memory.read_writeN hm, if_pos h, BitVec.getLsbD_ofNat, decide_eq_true hk, Bool.true_and, show (256 : Nat) = 2 ^ 8 from rfl,
    ← Nat.pow_mul, Nat.testBit_div_two_pow, Nat.add_comm]

/-- Slice `x`'s part of a vector. -/
def slicePart (x : Nat) (w : Vec) : Vec := (w >>> (256 * x)) &&& ((BitVec.allOnes 256).setWidth 4096)

theorem getLsbD_slicePart (x : Nat) (w : Vec) {k : Nat} (hk : k < 256) : (slicePart x w).getLsbD k = w.getLsbD (256 * x + k) := by
  have h4096 : k < 4096 := by omega
  rw [slicePart, BitVec.getLsbD_and, BitVec.getLsbD_ushiftRight, BitVec.getLsbD_setWidth, BitVec.getLsbD_allOnes, decide_eq_true hk,
    decide_eq_true h4096, Bool.and_true, Bool.and_true]

/-- A slice's write: its part of the value in the enabled lanes, and what was there in the others. -/
theorem setSlice_eq (m : Memory) (r x : Nat) (en : BitVec 128) (v : Vec) :
    m.setSlice r x en v = m.writeN (512 * r + 32 * x) 32
      ((slicePart x v &&& slicePart x (laneBits (en &&& sliceLane x))) |||
        (BitVec.ofNat 4096 (m.readN (512 * r + 32 * x) 32) &&& ~~~slicePart x (laneBits (en &&& sliceLane x)))).toNat := rfl

section
variable {m : Memory} (hm : m.wf = true) (r x : Nat) (en : BitVec 128) (v : Vec)
include hm

/-- A bit of a row after a slice of it was written: those of the slice's enabled lanes are new. -/
theorem getLsbD_row_setSlice {j : Nat} (hj : j < 4096) :
    ((m.setSlice r x en v).row r).getLsbD j =
      if j / 256 = x ∧ en.getLsbD (j / 32) = true then v.getLsbD j else (m.row r).getLsbD j := by
  rw [getLsbD_row _ _ hj, setSlice_eq]
  by_cases hs : j / 256 = x
  · obtain ⟨k, hk, rfl⟩ : ∃ k < 256, j = 256 * x + k := ⟨j % 256, Nat.mod_lt _ (by decide), by omega⟩
    have hbit : 8 * (512 * r + (256 * x + k) / 8 - (512 * r + 32 * x)) + (256 * x + k) % 8 = k := by omega
    have hbyte : 512 * r + 32 * x + k / 8 = 512 * r + (256 * x + k) / 8 := by omega
    have hlow : k % 8 = (256 * x + k) % 8 := by omega
    have hlane : (256 * x + k) / 32 < 128 := by omega
    have hslice : (256 * x + k) / 32 / 8 = x := by omega
    have h4096 : k < 4096 := by omega
    rw [getLsbD_read_writeN hm (by omega) (Nat.mod_lt _ (by decide)), hbit, BitVec.testBit_toNat, BitVec.getLsbD_or, BitVec.getLsbD_and,
      BitVec.getLsbD_and, BitVec.getLsbD_not, getLsbD_slicePart _ _ hk, getLsbD_slicePart _ _ hk, getLsbD_laneBits _ hj,
      BitVec.getLsbD_and, getLsbD_sliceLane _ hlane, hslice, BitVec.getLsbD_ofNat, testBit_readN _ _ _ (by omega), hbyte, hlow,
      ← getLsbD_row m r hj]
    cases en.getLsbD ((256 * x + k) / 32) <;> simp [hs, h4096]
  · rw [Memory.read_writeN hm, if_neg (by omega), if_neg (by tauto), getLsbD_row _ _ hj]

/-- A lane of a row after a slice of it was written (R134). -/
theorem lane_row_setSlice {i : Nat} (hi : i < 128) :
    lane ((m.setSlice r x en v).row r) i = if i / 8 = x ∧ en.getLsbD i = true then lane v i else lane (m.row r) i := by
  apply lane_ext
  intro k hk
  have hdiv : (32 * i + k) / 32 = i := by omega
  have hslice : (32 * i + k) / 256 = i / 8 := by omega
  rw [getLsbD_row_setSlice hm r x en v (by omega), hdiv, hslice, apply_ite (BitVec.getLsbD · k), getLsbD_lane v i hk,
    getLsbD_lane _ i hk]

/-- Another row is as before. -/
theorem row_setSlice_other (hx : x < 16) {q : Nat} (hq : q ≠ r) : (m.setSlice r x en v).row q = m.row q := by
  apply BitVec.eq_of_getLsbD_eq
  intro j hj
  rw [getLsbD_row _ _ hj, getLsbD_row _ _ hj, setSlice_eq, Memory.read_writeN hm, if_neg (by omega)]

end

end Sys2Proof.Vectors

/-!
PROOFS of the family 06_vector.md: how a vector instruction issues, and its operands.
-/
namespace Sys2Proof.VectorForms
open Sys2Proof Sys2Proof.Machine Sys2Proof.Vectors

/-! ## Issue -/

theorem done_of_gives {α : Type} {r : Res α} {a : α} (h : Claims.gives r = some a) : r = .done a := by
  cases r with
  | done b => exact congrArg Res.done (Option.some.inj h)
  | hold => cases h
  | stay g => cases h
  | trap x => cases h

/-- The state after `n` free values were drawn. -/
def drawing (s : State) (n : Nat) : State := { s with drawn := s.drawn + n }

/-- The tile `x` with the word of the issuing instruction in its wave (R29). -/
def waved (s : State) (x : Tile) : Tile :=
  let t := s.seen .vector
  let word := match (t.str .vector).queue with | e :: _ => e.word | [] => 0
  { x with vec := { x.vec with wave := x.vec.wave ++ [(word, (t.str .vector).count)] } }

theorem vIssue_eq (s : State) (x : Tile) (n : Nat) : Claims.vIssue s x n = .next ((drawing s n).leaves .vector (waved s x)) := rfl

section
variable {s : State} {f : Bool → Tile → Res Tile} {n : Nat}

/-- What a vector form does at issue, from its effect on the tile that it finds. -/
def issueEffect (f : Bool → Tile → Res Tile) (n : Nat) (s : State) : Res State :=
  (f (s.hasWindow s.here) s.cur).map fun x =>
    { s.setTile s.here { x with vec := { x.vec with wave := x.vec.wave ++
      [(match (s.cur.str .vector).queue with | e :: _ => e.word | [] => 0, (s.cur.str .vector).count)] } } with drawn := s.drawn + n }

theorem issueV_eq : s.issueV f n = s.issue .vector (issueEffect f n) := rfl

theorem issueEffect_seen : issueEffect f n (s.setTile s.here (s.seen .vector)) =
    (f (s.hasWindow s.here) (s.seen .vector)).map fun x => (drawing s n).setTile s.here (waved s x) := by
  unfold issueEffect
  simp only [State.here_setTile, State.cur_setTile_here, State.setTile_setTile]
  rfl

/-- A vector instruction whose effect is done answers as the statements say. -/
theorem issueV_done {x : Tile} (h : f (s.hasWindow s.here) (s.seen .vector) = .done x) :
    Host.Outcome.next (s.issueV f n) = Claims.vIssue s x n := by
  have hf : issueEffect f n (s.setTile s.here (s.seen .vector)) = .done ((drawing s n).setTile s.here (waved s x)) := by
    rw [issueEffect_seen, h]; rfl
  rw [vIssue_eq, issueV_eq, ControlForms.issue_done hf, State.modTile_eq, State.tile_setTile_same, State.setTile_setTile]
  rfl

theorem issueV_hold (h : f (s.hasWindow s.here) (s.seen .vector) = .hold) : s.issueV f n = s := by
  have hf : issueEffect f n (s.modTile s.here (·.tick .vector)) = .hold := issueEffect_seen.trans (by rw [h]; rfl)
  simp only [issueV_eq, State.issue, hf]

theorem issueV_trap {c : Trap} (h : f (s.hasWindow s.here) (s.seen .vector) = .trap c) :
    s.issueV f n = s.fault s.here .vector c := by
  have hf : issueEffect f n (s.modTile s.here (·.tick .vector)) = .trap c := issueEffect_seen.trans (by rw [h]; rfl)
  simp only [issueV_eq, State.issue, hf]

end

@[simp] theorem bind_done {α β : Type} (a : α) (f : α → Res β) : (Res.done a).bind f = f a := rfl

theorem bind_of_gives {α β : Type} {r : Res α} {a : α} (h : Claims.gives r = some a) (f : α → Res β) : r.bind f = f a := by
  rw [done_of_gives h, bind_done]

/-! ## Popping operands -/

@[simp] theorem vec_vpop (t : Tile) (c : BitVec 6) : (t.vpop c).vec = t.vec := by
  unfold Tile.vpop; dsimp only; split <;> rfl

@[simp] theorem sync_vpop (t : Tile) (c : BitVec 6) : (t.vpop c).sync = t.sync := by
  unfold Tile.vpop; dsimp only; split <;> rfl

@[simp] theorem maskReg_vpop (t : Tile) (c : BitVec 6) (m : BitVec 3) : (t.vpop c).maskReg m = t.maskReg m := by
  rw [Tile.maskReg, vec_vpop]; rfl

/-! ## Forms of one and of two operands -/

/-- What the destination holds before the instruction: its row; zero where it is no register. -/
def prior (t : Tile) (win : Bool) (d : BitVec 6) : Vec := (t.viewRow win d.toNat).elim 0 t.rowOf

theorem prior_of_viewRow {t : Tile} {win : Bool} {d : BitVec 6} {r : Nat} (h : t.viewRow win d.toNat = some r) : prior t win d = t.rowOf r := by
  rw [prior, h]; rfl

section
variable {s : State} {cbx : Bool} {iota : Vec} {bc : W64 → Vec} {lat : Nat} {d a b : BitVec 6} {en : Tile → BitVec 128}
  {g : Tile → Vec → Vec → Vec → Vec × Num.Flags} {va vb : Vec}

/-- A form of two ready operands pops them and delivers what `g` makes of them. -/
theorem vform_two (h : Claims.VReady s cbx true iota bc d a b va vb) :
    let t := s.seen .vector
    let win := s.hasWindow s.here
    let u := (t.vpop a).vpop b
    let r := g t va vb (prior t win d)
    vform cbx iota bc lat d a b true en g s = Claims.vIssue s (u.vdeliver win d lat (en u) r.1 r.2) := by
  obtain ⟨hcheck, hroom, hb, ha⟩ := h
  rw [if_pos rfl] at hcheck
  refine issueV_done ?_
  simp only [if_true, done_of_gives hcheck, done_of_gives hroom, done_of_gives (hb rfl), done_of_gives ha, bind_done]
  unfold prior
  cases (s.seen .vector).viewRow (s.hasWindow s.here) d.toNat <;> rfl

/-- A form of one ready operand. -/
theorem vform_one (h : Claims.VReady s cbx false iota bc d a 0 va 0) :
    let t := s.seen .vector
    let win := s.hasWindow s.here
    let u := t.vpop a
    let r := g t va 0 (prior t win d)
    vform cbx iota bc lat d a 0 false en g s = Claims.vIssue s (u.vdeliver win d lat (en u) r.1 r.2) := by
  obtain ⟨hcheck, hroom, -, ha⟩ := h
  rw [if_neg Bool.false_ne_true] at hcheck
  refine issueV_done ?_
  simp only [Bool.false_eq_true, if_false, done_of_gives hcheck, done_of_gives hroom, done_of_gives ha, bind_done]
  unfold prior
  cases (s.seen .vector).viewRow (s.hasWindow s.here) d.toNat <;> rfl

end

/-! ## Forms element by element -/

theorem width_mul_num (ty : Ty) : ty.width * ty.num = 4096 := by cases ty <;> rfl

/-- `vlift` computes the included elements and leaves zero in the others (R137, R67). -/
theorem elementwise_vlift (ty : Ty) (mk : BitVec 128) (f : Nat → Nat → Nat → Nat × Num.Flags) (a b c : Vec) :
    Claims.Elementwise ty mk (fun i => f (Claims.elem ty.width i a) (Claims.elem ty.width i b) (Claims.elem ty.width i c))
      (vlift ty mk f a b c).1 (vlift ty mk f a b c).2 := by
  unfold vlift
  dsimp only
  refine ⟨fun i hi => ?_, ?_⟩
  · rw [List.map_map, elem_fromElems_map _ hi (width_mul_num ty).le]
    dsimp only [Function.comp]
    split <;> simp [Claims.elem]
  · rw [List.foldl_map]
    congr! 3 with acc i
    split <;> rfl

@[simp] theorem elem_zero (w i : Nat) : Claims.elem w i 0 = 0 := by simp [Claims.elem]

section
variable {cbx : Bool} {lat : Ty → Nat}

/-- A typed form of two operands that lifts `f` delivers `f` of its elements. -/
theorem vectorBinary_of_vlift {mk : BitVec 6 → BitVec 6 → BitVec 6 → BitVec 3 → BitVec 2 → Instr}
    {f : Tile → Ty → Nat → Nat → Nat × Num.Flags}
    (h : ∀ d a b m tyb s, exec (mk d a b m tyb) s =
      let ty := Ty.ofBits tyb
      vform cbx (iotaOf ty) (bcastOf (ty == .f64)) (lat ty) d a b true (fun t => laneEn ty (t.maskReg m))
        (fun t va vb _ => vlift ty (t.maskReg m) (fun x y _ => f t ty x y) va vb 0) s) : Claims.VectorBinary mk cbx lat f := by
  intro s d a b m tyb va vb t ty hready
  refine ⟨_, _, elementwise_vlift ty (t.maskReg m) (fun x y _ => f t ty x y) va vb 0, ?_⟩
  rw [h, vform_two hready, maskReg_vpop, maskReg_vpop]

/-- A typed form of one operand that lifts `f` delivers `f` of its elements. -/
theorem vectorUnary_of_vlift {mk : BitVec 6 → BitVec 6 → BitVec 3 → BitVec 2 → Instr}
    {f : Tile → Ty → Nat → Nat × Num.Flags}
    (g : Tile → Ty → Nat → Nat → Nat × Num.Flags) (hg : ∀ t ty x, g t ty x 0 = f t ty x)
    (h : ∀ d a m tyb s, exec (mk d a m tyb) s =
      let ty := Ty.ofBits tyb
      vform cbx (iotaOf ty) (bcastOf (ty == .f64)) (lat ty) d a 0 false (fun t => laneEn ty (t.maskReg m))
        (fun t va vb _ => vlift ty (t.maskReg m) (fun x y _ => g t ty x y) va vb 0) s) : Claims.VectorUnary mk cbx lat f := by
  intro s d a m tyb va t ty hready
  have hlift := elementwise_vlift ty (t.maskReg m) (fun x y _ => g t ty x y) va 0 0
  simp only [elem_zero, hg] at hlift
  refine ⟨_, _, hlift, ?_⟩
  rw [h, vform_one hready, maskReg_vpop]

end

/-! ## Arithmetic (R140, R141) -/

section
variable {fp : Num.Rm → Num.Val → Num.Val → Num.Val × Num.Flags} {int : W32 → W32 → W32}

/-- A varith form lifts the operation that the statements call `arith`. -/
theorem varith_eq (two : Bool) (d a b : BitVec 6) (m : BitVec 3) (tyb : BitVec 2) (s : State) : varith two fp int d a b m tyb s =
    let ty := Ty.ofBits tyb
    vform true (iotaOf ty) (bcastOf (ty == .f64)) (latArith ty) d a b two (fun t => laneEn ty (t.maskReg m))
      (fun t va vb _ => vlift ty (t.maskReg m) (fun x y _ => Claims.arith fp int t ty x y) va vb 0) s := by
  unfold varith Claims.arith
  cases Ty.ofBits tyb <;> rfl

theorem vectorBinary_of_varith {mk : BitVec 6 → BitVec 6 → BitVec 6 → BitVec 3 → BitVec 2 → Instr}
    (h : ∀ d a b m tyb s, exec (mk d a b m tyb) s = varith true fp int d a b m tyb s) :
    Claims.VectorBinary mk true latArith (Claims.arith fp int) :=
  vectorBinary_of_vlift fun d a b m tyb s => (h d a b m tyb s).trans (varith_eq true d a b m tyb s)

theorem vectorUnary_of_varith {mk : BitVec 6 → BitVec 6 → BitVec 3 → BitVec 2 → Instr}
    (h : ∀ d a m tyb s, exec (mk d a m tyb) s = varith false fp int d a 0 m tyb s) :
    Claims.VectorUnary mk true latArith fun t ty x => Claims.arith fp int t ty x 0 :=
  vectorUnary_of_vlift (Claims.arith fp int) (fun _ _ _ => rfl) fun d a m tyb s => (h d a m tyb s).trans (varith_eq false d a 0 m tyb s)

end

/-- Where the fused forms lift: one rounding of the exact value, or 32-bit integers. -/
def fusedOp (fp : Num.Rm → Num.Val → Num.Val → Num.Val → Num.Val × Num.Flags) (int : W32 → W32 → W32 → W32) (t : Tile) (ty : Ty)
    (x y z : Nat) : Nat × Num.Flags :=
  if ty = .i32 then ((int (BitVec.ofNat 32 x) (BitVec.ofNat 32 y) (BitVec.ofNat 32 z)).toNat, 0)
  else fout t.ftz ty.fmt (t.rm .vector) (fp (t.rm .vector) (fin t.ftz ty.fmt x) (fin t.ftz ty.fmt y) (fin t.ftz ty.fmt z))

section
variable {fp : Num.Rm → Num.Val → Num.Val → Num.Val → Num.Val × Num.Flags} {int : W32 → W32 → W32 → W32}

theorem vfused_eq (d a b : BitVec 6) (m : BitVec 3) (tyb : BitVec 2) (s : State) : vfused fp int d a b m tyb s =
    let ty := Ty.ofBits tyb
    vform true (iotaOf ty) (bcastOf (ty == .f64)) (latArith ty) d a b true (fun t => laneEn ty (t.maskReg m))
      (fun t va vb vd => vlift ty (t.maskReg m) (fusedOp fp int t ty) va vb vd) s := by
  unfold vfused fusedOp
  cases Ty.ofBits tyb <;> rfl

theorem vectorFused_of_vfused {mk : BitVec 6 → BitVec 6 → BitVec 6 → BitVec 3 → BitVec 2 → Instr}
    (h : ∀ d a b m tyb s, exec (mk d a b m tyb) s = vfused fp int d a b m tyb s) : Claims.VectorFused mk fp int := by
  intro s d a b m tyb va vb r t ty rm hready hrow
  refine ⟨_, _, elementwise_vlift ty (t.maskReg m) (fusedOp fp int t ty) va vb (t.rowOf r), ?_⟩
  rw [h, vfused_eq, vform_two hready, maskReg_vpop, maskReg_vpop, prior_of_viewRow hrow]

end

theorem ite_slt {α : Type} (x y : W32) (p q : α) : (if x.slt y then p else q) = if x.toInt < y.toInt then p else q := by
  simp [BitVec.slt]

theorem vmin_int : (fun x y : W32 => if x.slt y then x else y) = fun x y => if x.toInt < y.toInt then x else y := by
  funext x y; exact ite_slt x y x y

theorem vmax_int : (fun x y : W32 => if x.slt y then y else x) = fun x y => if x.toInt < y.toInt then y else x := by
  funext x y; exact ite_slt x y y x

theorem vabs_int : (fun x _ : W32 => if x.slt 0 then 0 - x else x) = fun x _ => if x.toInt < 0 then 0 - x else x := by
  funext x y; exact ite_slt x 0 _ _

/-- Settles O18: each form lifts its element operation; vmov delivers its operand, and vdot2 adds two products to the prior value. -/
theorem vectorArithmeticDelivers : Obligations.VectorArithmeticDelivers := by
  unfold Obligations.VectorArithmeticDelivers
  refine ⟨vectorBinary_of_varith fun _ _ _ _ _ _ => rfl, vectorBinary_of_varith fun _ _ _ _ _ _ => rfl,
    vectorBinary_of_varith fun _ _ _ _ _ _ => rfl, ?vmin, ?vmax, ?vabs, vectorUnary_of_varith fun _ _ _ _ _ => rfl,
    vectorFused_of_vfused fun _ _ _ _ _ _ => rfl, vectorFused_of_vfused fun _ _ _ _ _ _ => rfl,
    vectorFused_of_vfused fun _ _ _ _ _ _ => rfl, ?vmov, ?vdot2⟩
  case vmin => rw [← vmin_int]; exact vectorBinary_of_varith fun _ _ _ _ _ _ => rfl
  case vmax => rw [← vmax_int]; exact vectorBinary_of_varith fun _ _ _ _ _ _ => rfl
  case vabs => rw [← vabs_int]; exact vectorUnary_of_varith fun _ _ _ _ _ => rfl
  case vmov =>
    intro s d a m tyb va t ty hready
    change execVmov d a m tyb s = _
    rw [execVmov, vform_one hready, maskReg_vpop]
  case vdot2 =>
    intro s d a b m va vb r t hready hrow
    refine ⟨_, _, elementwise_vlift .f32 (t.maskReg m) (dot2 t.ftz (t.rm .vector)) va vb (t.rowOf r), ?_⟩
    change execVdot2 d a b m s = _
    rw [execVdot2, vform_two hready, maskReg_vpop, maskReg_vpop, prior_of_viewRow hrow]

end Sys2Proof.VectorForms

/-!
PROOFS of the family 06_vector.md: functions, reductions, conversions and block scales (O19).
-/
namespace Sys2Proof.VectorFunctions
open Sys2Proof Sys2Proof.Machine Sys2Proof.Vectors Sys2Proof.VectorForms

/-! ## Functions (R149) -/

theorem vectorUnary_of_vfunc {mk : BitVec 6 → BitVec 6 → BitVec 3 → BitVec 2 → Instr} {lat' : Ty → Nat}
    {g : Num.Fmt → Num.Rm → Num.Val → Nat × Num.Flags} (lat : Ty → Nat) (hlat : ∀ ty, lat ty = lat' ty)
    (h : ∀ d a m tyb s, exec (mk d a m tyb) s = vfunc lat g d a m tyb s) : Claims.VectorUnary mk false lat' (Claims.func g) := by
  obtain rfl : lat = lat' := funext hlat
  exact vectorUnary_of_vlift (fun t ty x _ => Claims.func g t ty x) (fun _ _ _ => rfl) h

/-! ## Reductions (R150, R69) -/

theorem vectorReduction_of_vreduce {mk : BitVec 6 → BitVec 6 → BitVec 3 → BitVec 2 → Instr} {el' : Tile → Ty → Nat → Nat}
    {ident' : Ty → Nat} {op' : Tile → Ty → Nat → Nat → Nat × Num.Flags} (el : Tile → Ty → Nat → Nat) (ident : Ty → Nat)
    (op : Tile → Ty → Nat → Nat → Nat × Num.Flags) (hel : ∀ t ty, el t ty = el' t ty)
    (hident : ∀ ty, ident ty = ident' ty) (hop : ∀ t ty, op t ty = op' t ty)
    (h : ∀ d a m tyb s, exec (mk d a m tyb) s = vreduce el ident op d a m tyb s) : Claims.VectorReduction mk el' ident' op' := by
  obtain rfl : el = el' := funext fun t => funext (hel t)
  obtain rfl : ident = ident' := funext hident
  obtain rfl : op = op' := funext fun t => funext (hop t)
  intro s d a m tyb va t ty hready xs r
  refine ⟨fromElems ty.width (List.replicate ty.num r.1), fun i hi => ?_, ?_⟩
  · rw [elem_fromElems (by simpa) (by simp [width_mul_num]), List.getElem_replicate]
  · rw [h, vreduce, vform_one hready]
    simp only [beq_iff_eq]
    rfl

/-! ## Conversions (R145-R147) -/

/-- The number of elements that a vcvt converts. -/
def ccCount (f ty : BitVec 5) : Nat := if ccBits f.toNat = 64 ∨ ccBits ty.toNat = 64 then 64 else 128

/-- The elements that a vcvt makes fit into a vector. -/
theorem ccBits_mul_ccCount_le (f ty : BitVec 5) : ccBits ty.toNat * ccCount f ty ≤ 4096 := by
  have hbits : ccBits ty.toNat = 64 ∨ ccBits ty.toNat ≤ 32 := by unfold ccBits; split <;> decide
  unfold ccCount
  split <;> omega

/-- The word of a broadcast register that scales element `i`: that of the element's block for block codes. -/
def scaleWord (t : Tile) (f ty : BitVec 5) (i : Nat) : W64 :=
  (t.vec.b[if ccBlock f.toNat || ccBlock ty.toNat then i / 32 % 4 else 0]'(by split <;> omega))[0]

/-- A vcvt delivers `V` and `F`, and `V` holds the conversions of the elements of `va`, saturating as `sat` says and scaled as `scl` says. -/
def VcvtDelivers (s : State) (d a : BitVec 6) (f ty : BitVec 5) (r : BitVec 2) (sat scl : Bool) (va : Vec) (out : Out) : Prop :=
  let t := s.seen .vector
  ∃ V F, (∀ i < ccCount f ty, Claims.elem (ccBits ty.toNat) i V =
      (cvtElem f.toNat ty.toNat (Num.Rm.ofBits r) sat scl t.ftz (scaleWord t f ty i)
        (Claims.elem (ccBits f.toNat) i va)).1 % 2 ^ ccBits ty.toNat) ∧
    out = Claims.vIssue s ((t.vpop a).vdeliver (s.hasWindow s.here) d
      (if ccBits f.toNat = ccBits ty.toNat then 4 else 20) (BitVec.allOnes 128) V F)

/-- The operand of a vcvt can be read as `va`. -/
abbrev VcvtReady (s : State) (d a : BitVec 6) (f ty : BitVec 5) (va : Vec) : Prop :=
  Claims.VReady s false false (ccIota f.toNat (ccCount f ty)) (bcastOf (ccBits f.toNat == 64)) d a 0 va 0

theorem vcvt_delivers {s : State} {d a : BitVec 6} {f ty : BitVec 5} {va : Vec} (r : BitVec 2) (sat scl : BitVec 1)
    (hready : VcvtReady s d a f ty va) : VcvtDelivers s d a f ty r (sat == 1) (scl == 1) va (exec (.vcvt d a f ty r sat scl) s) := by
  have hcount : (if ccBits f.toNat == 64 || ccBits ty.toNat == 64 then 64 else 128) = ccCount f ty := by simp [ccCount]
  have hexec : exec (.vcvt d a f ty r sat scl) s = execVcvt d a f ty r sat scl s := rfl
  simp only [execVcvt, hcount, beq_iff_eq] at hexec
  refine ⟨_, _, fun i hi => ?_, hexec.trans (vform_one hready)⟩
  simp only [List.map_map]
  exact elem_fromElems_map _ hi (ccBits_mul_ccCount_le f ty)

/-! ## Block scales (R148) -/

/-- A scale form makes one record for each of the broadcast registers. -/
theorem vbsc_delivers {s : State} {a : BitVec 6} {va : Vec} {draws : Nat} {g : Nat → Nat → Nat}
    (hcheck : Claims.gives ((s.seen .vector).vcheck (s.hasWindow s.here) [a] []) = some ())
    (ha : Claims.gives ((s.seen .vector).vread (s.hasWindow s.here) (iotaOf .f32) (bcastOf false) 0 a) = some va) :
    let t := s.seen .vector
    vbsc draws g a s = Claims.vIssue s { (t.vpop a) with vec := { t.vec with
      recs := t.vec.recs ++ (List.range 4).map fun k =>
        { rem := 20, act := .bcast (BitVec.ofNat 2 k) (BitVec.ofNat 64 (g k (lane va (32 * k)).toNat)) } } } draws := by
  refine issueV_done ?_
  simp only [done_of_gives hcheck, done_of_gives ha, bind_done, vec_vpop]

/-! ## The clauses of O19 -/

/-- The vcvt clause of O19.  Its `sat` and `scl` have no type of their own and are read as natural numbers; the instruction takes them
modulo 2. -/
def VcvtOverNaturals : Prop :=
  ∀ (s : State) (d a : BitVec 6) (f ty : BitVec 5) (r : BitVec 2) (sat scl : Nat) (va : Vec), VcvtReady s d a f ty va →
    VcvtDelivers s d a f ty r (sat == 1) (scl == 1) va (exec (.vcvt d a f ty r sat scl) s)

/-- O19 stands or falls with its vcvt clause: the other clauses hold. -/
theorem vectorFunctionsDeliver_iff : Obligations.VectorFunctionsDeliver ↔ VcvtOverNaturals := by
  unfold Obligations.VectorFunctionsDeliver
  refine ⟨fun ⟨_, _, _, _, _, _, _, _, _, _, _, _, hvcvt, _⟩ => hvcvt, fun hvcvt => ?_⟩
  refine ⟨vectorUnary_of_vfunc (fun ty => if ty == .f64 then 10 else 8) (fun ty => ?_) fun _ _ _ _ _ => rfl,
    vectorUnary_of_vfunc _ (fun _ => rfl) fun _ _ _ _ _ => rfl, vectorUnary_of_vfunc _ (fun _ => rfl) fun _ _ _ _ _ => rfl,
    vectorUnary_of_vfunc _ (fun _ => rfl) fun _ _ _ _ _ => rfl, vectorUnary_of_vfunc _ (fun _ => rfl) fun _ _ _ _ _ => rfl,
    vectorUnary_of_vfunc _ (fun _ => rfl) fun _ _ _ _ _ => rfl, vectorUnary_of_vfunc _ (fun _ => rfl) fun _ _ _ _ _ => rfl,
    vectorUnary_of_vfunc (fun ty => if ty == .f64 then 16 else 12) (fun ty => ?_) fun _ _ _ _ _ => rfl,
    vectorReduction_of_vreduce redIn (fun ty => if ty == .i32 then 0 else Num.signBit ty.fmt true) redAdd (fun _ _ => rfl) (fun ty => ?_)
      (fun t ty => ?_) fun _ _ _ _ _ => rfl,
    vectorReduction_of_vreduce redIn (fun ty => if ty == .i32 then 0x80000000 else ty.fmt.nan) _ (fun _ _ => rfl) (fun ty => ?_)
      (fun _ _ => rfl) fun _ _ _ _ _ => rfl,
    vectorReduction_of_vreduce redIn (fun ty => if ty == .i32 then 0x7FFFFFFF else ty.fmt.nan) _ (fun _ _ => rfl) (fun ty => ?_)
      (fun _ _ => rfl) fun _ _ _ _ _ => rfl,
    vectorReduction_of_vreduce redAbs _ _ (fun t ty => ?_) (fun _ => rfl) (fun _ _ => rfl) fun _ _ _ _ _ => rfl, hvcvt, ?vbamax, ?vbsc⟩
  case vbamax =>
    intro s d a m va t hready
    have hexec : exec (.vbamax d a m) s = execVbamax d a m s := rfl
    refine ⟨_, fun i hi => ?_, hexec.trans (vform_one hready)⟩
    rw [lane_fromElems_map _ hi, List.getD_eq_getElem _ _ (by simp; omega), List.getElem_map, List.getElem_range]
  case vbsc =>
    intro s a va t win hcheck ha res
    exact ⟨vbsc_delivers hcheck ha, vbsc_delivers hcheck ha, vbsc_delivers hcheck ha⟩
  all_goals cases ty <;> rfl

/-! ## A conversion with `scl = 3` after reset -/

/-- After reset the vector strand finds the blank tile: nothing is due. -/
theorem seen_reset : State.reset.seen .vector = Tile.blank := by
  have hcur : State.reset.cur = Tile.blank := Vector.getElem_replicate _
  rw [State.seen, hcur]
  rfl

/-- The entry that a blank tile reserves in o0 will hold the whole result. -/
theorem recs_vdeliver_o0 (win : Bool) (lat : Nat) (v : Vec) (fl : Num.Flags) :
    (Tile.blank.vdeliver win 48 lat (BitVec.allOnes 128) v fl).vec.recs.head? =
      some { rem := 15 + lat, act := .pushO 0 0 (blend (BitVec.allOnes 128) v 0) } := by
  unfold Tile.vdeliver
  by_cases h : fl = 0
  · rw [if_pos h]; rfl
  · rw [if_neg h]; rfl

theorem vec_retire (t : Tile) : (t.retire .vector).vec = t.vec := rfl

/-- Two answers are equal only if the tiles hold the same records. -/
theorem recs_eq_of_vIssue_eq {s : State} {x y : Tile} (h : Claims.vIssue s x = Claims.vIssue s y) : x.vec.recs = y.vec.recs := by
  have htile := congrArg (fun s' : State => (s'.tile s.here).vec.recs) (Host.Outcome.next.inj h)
  simpa only [State.leaves, State.here, State.tile_setTile_same, vec_retire] using htile

/-! After reset, vcvt from 32-bit integers to 32-bit integers, of iota to o0: element 1 is 1 as it stands, and 0 when it is scaled by b0. -/

theorem elem_iota : Claims.elem 32 1 (ccIota 12 128) = 1 :=
  elem_fromElems_map (fun i => i % 2 ^ 32) (by decide) (by decide)

theorem cvtElem_plain : (cvtElem 12 12 .rne false false false 0 1).1 % 2 ^ 32 = 1 := by decide

theorem cvtElem_scaled : (cvtElem 12 12 .rne false true false 0 1).1 % 2 ^ 32 = 0 := by decide

theorem vcvtReady_reset : VcvtReady State.reset 48 53 12 12 (ccIota 12 128) := by
  unfold VcvtReady Claims.VReady
  rw [seen_reset]
  refine ⟨rfl, rfl, nofun, rfl⟩

/-- Refutes O19: with `scl = 3` the instruction scales, as 3 is odd, and the vcvt clause's `scl == 1` says that it does not.  With the
fields as bits the clause holds (`vcvt_delivers`), and so do the other clauses (`vectorFunctionsDeliver_iff`). -/
theorem not_vectorFunctionsDeliver : ¬ Obligations.VectorFunctionsDeliver := by
  rw [vectorFunctionsDeliver_iff]
  intro h
  obtain ⟨V, F, hV, he⟩ := h _ 48 53 12 12 0 0 3 _ vcvtReady_reset
  obtain ⟨V', F', hV', he'⟩ := vcvt_delivers 0 (0 : Nat) (3 : Nat) vcvtReady_reset
  have hrecs := recs_eq_of_vIssue_eq (he.symm.trans he')
  rw [seen_reset] at hV hV' hrecs
  have hcode : (12 : BitVec 5).toNat = 12 := rfl
  have hbits : ccBits 12 = 32 := rfl
  have hword : scaleWord Tile.blank 12 12 1 = 0 := rfl
  have hftz : Tile.blank.ftz = false := rfl
  have hplain := hV 1 (by decide)
  have hscaled := hV' 1 (by decide)
  simp only [hcode, hbits, hword, hftz, elem_iota] at hplain hscaled
  have hhead := congrArg List.head? hrecs
  rw [show Tile.blank.vpop 53 = Tile.blank from rfl, recs_vdeliver_o0, recs_vdeliver_o0, blend_allOnes, blend_allOnes] at hhead
  obtain rfl : V = V' := by simpa using hhead
  have hone : Claims.elem 32 1 V = 1 := hplain.trans cvtElem_plain
  have hzero : Claims.elem 32 1 V = 0 := hscaled.trans cvtElem_scaled
  exact Nat.one_ne_zero (hone.symm.trans hzero)

end Sys2Proof.VectorFunctions

/-!
PROOFS of the family 06_vector.md: bitwise forms, shifts, compares, selects and masks (O20, first part).
-/
namespace Sys2Proof.VectorLogic
open Sys2Proof Sys2Proof.Machine Sys2Proof.Vectors Sys2Proof.VectorForms

/-! ## Bitwise forms and shifts (R142) -/

theorem vectorBits_of_vbits {mk : BitVec 6 → BitVec 6 → BitVec 6 → BitVec 3 → BitVec 2 → Instr} {f : Vec → Vec → Vec}
    (h : ∀ d a b m tyb s, exec (mk d a b m tyb) s = vbits true f d a b m tyb s) : Claims.VectorBits mk f := by
  intro s d a b m tyb va vb t ty hready
  rw [h, vbits, vform_two hready, maskReg_vpop, maskReg_vpop]

/-- A shift form delivers what its shift makes of each element, the count taken modulo the width. -/
theorem vectorBinary_of_vshift {mk : BitVec 6 → BitVec 6 → BitVec 6 → BitVec 3 → BitVec 2 → Instr}
    {shift : (w : Nat) → BitVec w → Nat → BitVec w} {f : Tile → Ty → Nat → Nat → Nat × Num.Flags}
    (h : ∀ d a b m tyb s, exec (mk d a b m tyb) s = vshift shift d a b m tyb s)
    (hf : ∀ t (ty : Ty) x y, x < 2 ^ ty.width → f t ty x y = ((shift ty.width (BitVec.ofNat ty.width x) (y % ty.width)).toNat, 0)) :
    Claims.VectorBinary mk false (fun _ => 2) f := by
  intro s d a b m tyb va vb t ty hready
  have hlift := elementwise_vlift ty (t.maskReg m)
    (fun x y _ => ((shift ty.width (BitVec.ofNat ty.width x) (y % ty.width)).toNat, 0)) va vb 0
  simp only [← hf t ty _ _ (elem_lt _ _ _)] at hlift
  refine ⟨_, _, hlift, ?_⟩
  rw [h, vshift, vform_two hready, maskReg_vpop, maskReg_vpop]

theorem toNat_shl_ofNat (w x n : Nat) : (BitVec.ofNat w x <<< n).toNat = x * 2 ^ n % 2 ^ w := by
  simp [Nat.shiftLeft_eq]

theorem toNat_shr_ofNat {w x : Nat} (hx : x < 2 ^ w) (n : Nat) : (BitVec.ofNat w x >>> n).toNat = x / 2 ^ n := by
  simp [Nat.shiftRight_eq_div_pow, Nat.mod_eq_of_lt hx]

theorem sshiftRight_eq_ofInt {w : Nat} (x : BitVec w) (n : Nat) : x.sshiftRight n = BitVec.ofInt w (x.toInt / 2 ^ n) := by
  simp [BitVec.sshiftRight, Int.shiftRight_eq_div_pow]

/-! ## Masks (R161) -/

/-- The number of 1 bits is the length of the list of their positions. -/
theorem popc_eq_length (x : BitVec 128) : popc x = ((List.range 128).filter fun i => x.getLsbD i).length := by
  rw [popc, ControlForms.foldl_count, Nat.zero_add]

theorem vectorLogicAndMasksDeliver : Claims.VectorLogicAndMasksDeliver := by
  unfold Claims.VectorLogicAndMasksDeliver
  refine ⟨vectorBits_of_vbits fun _ _ _ _ _ _ => rfl, vectorBits_of_vbits fun _ _ _ _ _ _ => rfl,
    vectorBits_of_vbits fun _ _ _ _ _ _ => rfl, vectorBits_of_vbits fun _ _ _ _ _ _ => rfl,
    vectorBinary_of_vshift (shift := fun _ x n => x <<< n) (fun _ _ _ _ _ _ => rfl) fun t ty x y hx => ?shl,
    vectorBinary_of_vshift (shift := fun _ x n => x >>> n) (fun _ _ _ _ _ _ => rfl) fun t ty x y hx => ?shr,
    vectorBinary_of_vshift (shift := fun _ x n => x.sshiftRight n) (fun _ _ _ _ _ _ => rfl) fun t ty x y hx => ?sra,
    ?vnot, ?vsel, ?vcmp, ?mask, ?mpopc⟩
  case shl => rw [toNat_shl_ofNat]
  case shr => rw [toNat_shr_ofNat hx]
  case sra => rw [sshiftRight_eq_ofInt]
  case vnot =>
    intro s d a m tyb va t ty hready
    change execVnot d a m tyb s = _
    rw [execVnot, vbits, vform_one hready, maskReg_vpop]
  case vsel =>
    intro s d a b m tyb va vb t ty hready
    change execVsel d a b m tyb s = _
    rw [execVsel, vform_two hready]
  case vcmp =>
    intro s md comb a b m tyb k va vb t win ty bc hcheck hb ha
    refine ⟨_, _, fun i hi => getLsbD_maskOf _ hi, fun i hi => getLsbD_maskOf _ hi, issueV_done ?_⟩
    refine (bind_of_gives hcheck _).trans ((bind_of_gives hb _).trans ((bind_of_gives ha _).trans ?_))
    simp only [vec_vpop]
    rfl
  case mask =>
    intro s d a b t res
    exact ⟨issueV_done rfl, issueV_done rfl, issueV_done rfl, issueV_done rfl⟩
  case mpopc =>
    intro s a t tag n
    refine ⟨fun hfull => congrArg _ (issueV_hold (if_pos hfull)), fun hroom => issueV_done ?_⟩
    rw [if_neg (Nat.not_le.mpr hroom), popc_eq_length]
    rfl

end Sys2Proof.VectorLogic

/-!
PROOFS of the family 06_vector.md: how vector results land (O22).
-/
namespace Sys2Proof.VectorLanding
open Sys2Proof Sys2Proof.Machine Sys2Proof.Vectors Sys2Proof.VectorForms

/-! ## Deliveries (R134, R136, R67) -/

section
variable {t : Tile} {win : Bool} {d : BitVec 6} {lat : Nat} {en : BitVec 128} {v : Vec} {r : Nat}

/-- A result for a register without flags is one record. -/
theorem vdeliver_register (hrow : t.viewRow win d.toNat = some r) (hd : d.toNat < 48) :
    t.vdeliver win d lat en v 0 = { t with vec := { t.vec with recs := t.vec.recs ++ [{ rem := lat, act := .row r en v }] } } := by
  unfold Tile.vdeliver
  simp only [hd, hrow, if_true]

/-- The flags of a result are one more record. -/
theorem vdeliver_flags {f : Num.Flags} (hf : f ≠ 0) :
    let u := t.vdeliver win d lat en v 0
    t.vdeliver win d lat en v f = { u with vec := { u.vec with recs := u.vec.recs ++ [{ rem := 15 + lat, act := .flags f }] } } :=
  if_neg hf

end

/-! ## Rows with results on their way (R134) -/

/-- Slice 0 has every result that is on its way. -/
theorem lane_over_first (r : Nat) (v : Vec) (l : Late) {i : Nat} (hi : i < 8) : lane (l.over r v) i = lane v i := by
  have hout : (lanesBeyond l.age).getLsbD i = false := by
    rw [getLsbD_lanesBeyond _ (by omega)]; simp; omega
  unfold Late.over
  split
  · split
    · rw [lane_blend _ _ _ (by omega), BitVec.getLsbD_and, hout, Bool.and_false, if_neg Bool.false_ne_true]
    · rfl
  · split
    · rw [lane_blend _ _ _ (by omega), hout, if_neg Bool.false_ne_true]
    · rfl
  · rfl

/-- A lane of a row with a result over it depends on that lane of the row alone. -/
theorem lane_over_congr (r : Nat) {v w : Vec} (l : Late) {i : Nat} (hi : i < 128) (h : lane v i = lane w i) :
    lane (l.over r v) i = lane (l.over r w) i := by
  unfold Late.over
  split
  · split
    · rw [lane_blend _ _ _ hi, lane_blend _ _ _ hi, h]
    · exact h
  · split
    · rw [lane_blend _ _ _ hi, lane_blend _ _ _ hi, h]
    · exact h
  · exact h

theorem lane_foldl_over_first (r : Nat) (ls : List Late) (v : Vec) {i : Nat} (hi : i < 8) :
    lane (ls.foldl (Late.over r) v) i = lane v i := by
  induction ls generalizing v with
  | nil => rfl
  | cons l ls ih => exact (ih _).trans (lane_over_first r v l hi)

theorem lane_foldl_over_congr (r : Nat) (ls : List Late) {v w : Vec} {i : Nat} (hi : i < 128) (h : lane v i = lane w i) :
    lane (ls.foldl (Late.over r) v) i = lane (ls.foldl (Late.over r) w) i := by
  induction ls generalizing v w with
  | nil => exact h
  | cons l ls ih => exact ih (lane_over_congr r l hi h)

/-- A result that slice 0 has written, and that is on its way to the others, is read in every enabled lane. -/
theorem blend_beyond_first {m : Memory} (hm : m.wf = true) (r : Nat) (en : BitVec 128) (v : Vec) (ls : List Late) :
    blend (en &&& lanesBeyond 0) v (ls.foldl (Late.over r) ((m.setSlice r 0 en v).row r)) = blend en v (ls.foldl (Late.over r) (m.row r)) := by
  apply eq_of_lane_eq
  intro i hi
  have hlane := lane_row_setSlice hm r 0 en v hi
  rw [lane_blend _ _ _ hi, lane_blend _ _ _ hi, BitVec.getLsbD_and, getLsbD_lanesBeyond 0 hi]
  by_cases h8 : i < 8
  · have hs : i / 8 = 0 := by omega
    have hb : decide (8 * (0 + 1) ≤ i) = false := by simpa using h8
    rw [hb, Bool.and_false, if_neg Bool.false_ne_true, lane_foldl_over_first r ls _ h8, lane_foldl_over_first r ls _ h8, hlane]
    simp [hs]
  · have hs : i / 8 ≠ 0 := by omega
    have hb : decide (8 * (0 + 1) ≤ i) = true := by simpa using h8
    rw [if_neg (fun h => hs h.1)] at hlane
    rw [hb, Bool.and_true, lane_foldl_over_congr r ls hi hlane]

section
variable (t : Tile) (r : Nat) (en : BitVec 128) (v : Vec) (l : BitVec 4) (n : W64)

@[simp] theorem rsp_vact_row : (t.vact (.row r en v)).rsp = t.rsp.setSlice r 0 en v := by
  simp only [Tile.vact, Tile.begin, Tile.sliceAct]

@[simp] theorem rsp_vact_tap : (t.vact (.tap r l n v)).rsp = t.rsp.setSlice r 0 (BitVec.allOnes 128) v := by
  simp only [Tile.vact, Tile.begin, Tile.sliceAct]

@[simp] theorem late_vact_row : (t.vact (.row r en v)).vec.late = t.vec.late ++ [{ age := 0, act := .row r en v }] := rfl

@[simp] theorem late_vact_tap : (t.vact (.tap r l n v)).vec.late = t.vec.late ++ [{ age := 0, act := .tap r l n v }] := rfl

variable {t} (hwf : t.rsp.wf = true)
include hwf

/-- A row after a result for it was begun: the enabled lanes are new, at whatever slice they are read. -/
theorem rowOf_vact_row : (t.vact (.row r en v)).rowOf r = blend en v (t.rowOf r) := by
  rw [Tile.rowOf, late_vact_row, rsp_vact_row, List.foldl_append, List.foldl_cons, List.foldl_nil, Tile.rowOf,
    ← blend_beyond_first hwf]
  exact if_pos (beq_self_eq_true r)

theorem rowOf_vact_tap : (t.vact (.tap r l n v)).rowOf r = v := by
  rw [Tile.rowOf, late_vact_tap, rsp_vact_tap, List.foldl_append, List.foldl_cons, List.foldl_nil]
  refine (if_pos (beq_self_eq_true r)).trans ?_
  rw [← BitVec.allOnes_and (x := lanesBeyond 0), blend_beyond_first hwf, blend_allOnes]

/-- Slice 0 is written at once. -/
theorem lane_row_vact_row {i : Nat} (hi : i < 128) : lane ((t.vact (.row r en v)).rsp.row r) i =
    if i < 8 ∧ en.getLsbD i = true then lane v i else lane (t.rsp.row r) i := by
  have hslice : i / 8 = 0 ↔ i < 8 := by omega
  rw [rsp_vact_row, lane_row_setSlice hwf r 0 en v hi]
  simp only [hslice]

variable {r} {q : Nat} (hq : q ≠ r)
include hq

theorem row_vact_row_other : (t.vact (.row r en v)).rsp.row q = t.rsp.row q := by
  rw [rsp_vact_row, row_setSlice_other hwf r 0 en v (by decide) hq]

theorem rowOf_vact_row_other : (t.vact (.row r en v)).rowOf q = t.rowOf q := by
  rw [Tile.rowOf, late_vact_row, rsp_vact_row, List.foldl_append, List.foldl_cons, List.foldl_nil,
    row_setSlice_other hwf r 0 en v (by decide) hq]
  exact if_neg (by simpa using hq.symm)

theorem rowOf_vact_tap_other : (t.vact (.tap r l n v)).rowOf q = t.rowOf q := by
  rw [Tile.rowOf, late_vact_tap, rsp_vact_tap, List.foldl_append, List.foldl_cons, List.foldl_nil,
    row_setSlice_other hwf r 0 _ v (by decide) hq]
  exact if_neg (by simpa using hq.symm)

end

section
variable (t : Tile) (a r : Nat) (en : BitVec 128) (v : Vec)

/-- A result that reaches its next slice writes there. -/
theorem rsp_passLate_row : (t.passLate [{ age := a, act := .row r en v }]).rsp = t.rsp.setSlice r (a + 1) en v := by
  simp only [Tile.passLate, Tile.sliceAct, apply_ite Tile.rsp, ite_self]

/-- It stays on its way until slice 15. -/
theorem late_passLate_row (ha : a < 15) : (t.passLate [{ age := a, act := .row r en v }]).vec.late =
    t.vec.late ++ if a = 14 then [] else [{ age := a + 1, act := .row r en v }] := by
  simp only [Tile.passLate, Tile.sliceAct]
  by_cases h : a = 14
  · rw [if_pos h, if_neg (by omega), List.append_nil]
  · rw [if_neg h, if_pos (by omega)]

end

/-- A lane that was written holds no longer what a vtapr read. -/
theorem and_eq_zero_of_mem_dropReads {r : Nat} {en : BitVec 128} {l : List TapRead} {e : TapRead} (he : e ∈ dropReads r en l)
    (hr : e.row = r) : e.en &&& en = 0 := by
  obtain ⟨e', -, rfl⟩ := List.mem_map.mp (List.mem_of_mem_filter he)
  split at hr
  · rw [if_pos ‹_›, BitVec.and_assoc, BitVec.and_comm (~~~en)]
    simp
  · exact absurd (beq_iff_eq.mpr hr) ‹_›

/-- Settles O22. -/
theorem vectorResultsLandInOrder : Obligations.VectorResultsLandInOrder := by
  unfold Obligations.VectorResultsLandInOrder
  refine ⟨?register, ?o, ?x, ?flags, ?due, ?pending, ?row, fun _ _ _ => rfl, ?slice, ?tap, ?reads, fun en v old i hi => lane_blend en v old hi⟩
  case register =>
    intro t win d lat en v r hrow hd
    refine ⟨vdeliver_register hrow hd, fun f hf => ?_⟩
    rw [vdeliver_flags hf, vdeliver_register hrow hd, List.append_assoc]
    rfl
  case o =>
    intro t win lat en v i
    obtain rfl | rfl | rfl | rfl : i = 0 ∨ i = 1 ∨ i = 2 ∨ i = 3 := by decide +revert
    all_goals rfl
  case x =>
    intro t win lat en v i
    obtain rfl | rfl | rfl | rfl : i = 0 ∨ i = 1 ∨ i = 2 ∨ i = 3 := by decide +revert
    all_goals rfl
  case flags => exact fun t win d lat en v f hf => vdeliver_flags hf
  case due =>
    intro t r rest hvalid hrem
    simp [Tile.landVec, hvalid, hrem]
  case pending =>
    intro t r rest hvalid hrem
    simp [Tile.landVec, hvalid, Nat.not_le.mpr hrem]
  case row =>
    intro t r en v hwf
    refine ⟨rowOf_vact_row r en v hwf, fun q hq => ⟨rowOf_vact_row_other en v hwf hq, row_vact_row_other en v hwf hq⟩,
      fun i hi => lane_row_vact_row r en v hwf hi⟩
  case slice =>
    intro t a r en v ha hwf
    refine ⟨fun i hi => ?_, fun q hq => ?_, late_passLate_row t a r en v ha⟩
    · rw [rsp_passLate_row, lane_row_setSlice hwf r (a + 1) en v hi]
    · rw [rsp_passLate_row, row_setSlice_other hwf r (a + 1) en v (by omega) hq]
  case tap =>
    intro t r l n v hwf
    exact ⟨rowOf_vact_tap r v l n hwf, fun q hq => rowOf_vact_tap_other v l n hwf hq, List.mem_cons_self⟩
  case reads => exact fun t r en v e he hr => and_eq_zero_of_mem_dropReads he hr

end Sys2Proof.VectorLanding

/-!
PROOFS of the family 06_vector.md: ring lanes, rotation, shuffle, moves between the clusters, accumulator rows, views and mode (O20).
-/
namespace Sys2Proof.VectorMoves
open Sys2Proof Sys2Proof.Machine Sys2Proof.Vectors Sys2Proof.VectorForms Sys2Proof.VectorLanding

/-! ## A vrot takes a lane (R152) -/

theorem lane_row_setRow {m : Memory} (hm : m.wf = true) (r q i : Nat) (v : Vec) :
    lane ((m.setRow r v).row q) i = if q = r then lane v i else lane (m.row q) i := by
  by_cases h : q = r
  · rw [if_pos h, h, Memory.row_setRow_same hm]
  · rw [if_neg h, Memory.row_setRow_other hm h]

/-- The rows after the enabled lanes of several rows were set to zero. -/
def blankRows (en : TapRead → BitVec 128) (es : List TapRead) (m : Memory) : Memory :=
  es.foldl (fun m e => m.setRow e.row (blend (en e) 0 (m.row e.row))) m

theorem lane_zero (i : Nat) : lane 0 i = 0 := by simp [lane]

theorem lane_blankRows (en : TapRead → BitVec 128) (es : List TapRead) {m : Memory} (hm : m.wf = true) (q : Nat) {i : Nat} (hi : i < 128) :
    lane ((blankRows en es m).row q) i = if ∃ e ∈ es, e.row = q ∧ (en e).getLsbD i = true then 0 else lane (m.row q) i := by
  induction es generalizing m with
  | nil => simp [blankRows]
  | cons e es ih =>
    rw [blankRows, List.foldl_cons, ← blankRows, ih (Memory.wf_setRow hm), lane_row_setRow hm, lane_blend _ _ _ hi, lane_zero]
    by_cases hrest : ∃ e ∈ es, e.row = q ∧ (en e).getLsbD i = true
    · simp [hrest]
    · by_cases hq : q = e.row
      · subst hq; simp [hrest]
      · simp [hrest, hq, Ne.symm hq]

section
variable (t : Tile) (l : BitVec 4)

/-- What a vtapr read is lost to a vrot of lane `l` that issues now. -/
def Lost (e : TapRead) : Prop := e.lane = l ∧ ((t.str .vector).count - e.count).toNat ≤ 31

/-- What the vtaprs read that lose it. -/
def lostReads : List TapRead := t.vec.reads.filter fun e => e.lane == l && decide (((t.str .vector).count - e.count).toNat ≤ 31)

theorem mem_lostReads {e : TapRead} : e ∈ lostReads t l ↔ e ∈ t.vec.reads ∧ Lost t l e := by
  simp [lostReads, Lost]

theorem mem_reads_takeLane {e : TapRead} : e ∈ (t.takeLane l).vec.reads ↔ e ∈ t.vec.reads ∧ ¬ Lost t l e := by
  simp [Tile.takeLane, Lost, imp_iff_not_or]

theorem rsp_takeLane : (t.takeLane l).rsp = blankRows t.reachedBy (lostReads t l) t.rsp := rfl

/-- The lanes that hold what is lost read zero, and the others keep their value. -/
theorem lane_row_takeLane (hwf : t.rsp.wf = true) (q : Nat) {i : Nat} (hi : i < 128) : lane ((t.takeLane l).rsp.row q) i =
    if ∃ e ∈ lostReads t l, e.row = q ∧ (t.reachedBy e).getLsbD i = true then 0 else lane (t.rsp.row q) i := by
  rw [rsp_takeLane, lane_blankRows _ _ hwf q hi]

end

/-! ## Rotation and shuffle (R153, R154) -/

theorem elem_rotVec (ac : Bool) (k : Nat) (v : Vec) {x : Nat} (hx : x < 16) :
    Claims.elem 256 x (rotVec ac k v) = Claims.elem 256 (if ac then (x + k) % 16 else (x + 16 - k) % 16) v := by
  rw [rotVec, elem_fromElems_map _ hx (by decide), Claims.elem, Nat.mod_mod]

section
variable {s : State} {d a : BitVec 6} {m : BitVec 3} {r : BitVec 1} {k : BitVec 4} {va : Vec}

/-- The effect of a vrot whose operand is ready: it takes its lane, and delivers to a register slice by slice, to a FIFO whole. -/
theorem vrot_ready (hcheck : Claims.gives ((s.seen .vector).vcheck (s.hasWindow s.here) [a] [d]) = some ())
    (hroom : Claims.gives ((s.seen .vector).vroom d) = some ())
    (ha : Claims.gives (((s.seen .vector).takeLane (if r = 1 then 15 else 7)).vread (s.hasWindow s.here) Config.untypedIota (bcastOf false) 0 a)
      = some va) :
    let t := s.seen .vector
    let win := s.hasWindow s.here
    let u := t.takeLane (if r = 1 then 15 else 7)
    let lat := rotLat (r == 1) k.toNat
    exec (.vrot d a m r k) s = Claims.vIssue s (if d.toNat < 48 then
      ((List.range 16).map lat).eraseDups.foldl
        (fun x l => x.vdeliver win d l (t.maskReg m &&& sliceLanes fun i => lat i == l) (rotVec (r == 1) k.toNat va) 0) (u.vpop a)
      else (u.vpop a).vdeliver win d (lat 15) (t.maskReg m) (rotVec (r == 1) k.toNat va) 0) := by
  refine issueV_done ((bind_of_gives hcheck _).trans ((bind_of_gives hroom _).trans ?_))
  simp only [beq_iff_eq]
  exact (bind_of_gives ha _).trans (apply_ite Res.done _ _ _).symm

end

/-! ## Channels (R155) -/

theorem popJ_ready {t : Tile} {c : BitVec 1} {e : Ent W64} {rest : Fifo} (hj : t.fifo.j[c.toNat] = e :: rest) (hready : e.ready = true)
    (hborn : e.born ≠ t.tcc) : t.popJ c = .done (e.val, { t with fifo := { t.fifo with j := t.fifo.j.set c.toNat rest } }) := by
  simp [Tile.popJ, headOf, hj, hready, hborn]

/-! ## The mode (R160) -/

theorem mode_bits (w b : BitVec 2) (c f : BitVec 1) (r : BitVec 2) : (0#3 ++ w ++ b ++ c ++ f ++ r : BitVec 11) =
    BitVec.ofNat 11 (r.toNat + 4 * f.toNat + 8 * c.toNat + 16 * b.toNat + 64 * w.toNat) := by
  decide +revert

theorem mode_fields (w b : BitVec 2) (c f : BitVec 1) (r : BitVec 2) :
    (0#3 ++ w ++ b ++ c ++ f ++ r : BitVec 11).extractLsb' 0 2 = r ∧ (0#3 ++ w ++ b ++ c ++ f ++ r : BitVec 11).extractLsb' 2 1 = f := by
  decide +revert

theorem append_bits (r : BitVec 2) (f : BitVec 1) (x : BitVec 5) :
    r ++ f ++ x = BitVec.ofNat 8 (x.toNat + 32 * f.toNat + 64 * r.toNat) := by
  decide +revert

theorem fpsrMode_eq (old : BitVec 8) (r : BitVec 2) (f : BitVec 1) :
    fpsrMode old r f = BitVec.ofNat 8 (old.toNat % 32 + 32 * f.toNat + 64 * r.toNat) := by
  rw [fpsrMode, append_bits, BitVec.toNat_setWidth]

/-! ## The forms -/

theorem tapTo_row {t : Tile} {win : Bool} {v : BitVec 6} {r : Nat} (h : t.viewRow win v.toNat = some r) (l : BitVec 4) (x : Vec) :
    t.tapTo win v l x = { t with vec := { t.vec with recs := t.vec.recs ++ [{ rem := 1, act := .tap r l (t.str .vector).count x }] } } := by
  simp only [Tile.tapTo, h]

theorem vectorMovesDeliver : Claims.VectorMovesDeliver := by
  unfold Claims.VectorMovesDeliver
  refine ⟨?vtapw, ?vtapr, ?taken, ?vrotFifo, ?vrot, ?vshuf, ?vins, ?vext, ?vac, ?noWindow, ?vmode, fun s d x => issueV_done rfl⟩
  case vtapw =>
    intro s v l x t win hcheck hv
    exact issueV_done ((bind_of_gives hcheck _).trans (bind_of_gives hv _))
  case vtapr =>
    intro s v l row t now hcheck hrow
    exact issueV_done ((bind_of_gives hcheck _).trans (congrArg Res.done (tapTo_row hrow l _)))
  case taken =>
    intro t l now u lost blank
    refine ⟨rfl, fun e => mem_reads_takeLane t l, ?late, ?recs, fun hwf => ⟨fun e he hlost i hi hr => ?zero, fun q i hi hkept => ?kept⟩⟩
    case late =>
      simp only [u, Tile.takeLane, Bool.and_eq_true, beq_iff_eq, decide_eq_true_eq]
        <;> rfl
    case recs =>
      simp only [u, Tile.takeLane, Bool.and_eq_true, beq_iff_eq, decide_eq_true_eq]
        <;> rfl
    case zero =>
      rw [lane_row_takeLane t l hwf _ hi, if_pos ⟨e, (mem_lostReads t l).mpr ⟨he, hlost⟩, rfl, hr⟩]
    case kept =>
      rw [lane_row_takeLane t l hwf _ hi, if_neg]
      rintro ⟨e, he, hq, hr⟩
      obtain ⟨hmem, hlost⟩ := (mem_lostReads t l).mp he
      exact Bool.false_ne_true ((hkept e hmem hlost hq).symm.trans hr)
  case vrotFifo =>
    intro s d a m r k va hd t win u hcheck hroom ha
    exact ⟨_, fun x hx => by simpa using elem_rotVec (r == 1) k.toNat va hx,
      (vrot_ready hcheck hroom ha).trans (congrArg (Claims.vIssue s ·) (if_neg (Nat.not_lt.mpr hd)))⟩
  case vrot =>
    intro s d a m r k va hd t win u hcheck hroom ha
    refine ⟨_, fun l => t.maskReg m &&& sliceLanes fun x => rotLat (r == 1) k.toNat x == l,
      fun x hx => by simpa using elem_rotVec (r == 1) k.toNat va hx, fun l i hi => ?_,
      (vrot_ready hcheck hroom ha).trans (congrArg (Claims.vIssue s ·) (if_pos hd))⟩
    rw [BitVec.getLsbD_and, sliceLanes, getLsbD_maskOf _ hi]
    rfl
  case vshuf =>
    intro s d a m pat va t hready
    have hexec : exec (.vshuf d a m [pat]) s = execVshuf d a m [pat] s := rfl
    refine ⟨_, fun i hi => lane_ofLanes _ hi, hexec.trans ((vform_one hready).trans ?_)⟩
    rw [maskReg_vpop]
    rfl
  case vins =>
    intro s v c e ent rest t win hj hready hborn u
    have hpop := popJ_ready hj hready hborn
    refine ⟨fun b => issueV_done (congrArg (Res.bind · _) hpop), fun hcheck => ?_⟩
    have hone (en : BitVec 1) : exec (.vins v c e en) s = Claims.vIssue s (u.vdeliver win v 1
        (if en = 1 then BitVec.allOnes 128 else maskOf fun i => i == e.toNat) (bcastOf false ent.val) 0) :=
      issueV_done ((bind_of_gives hcheck _).trans (congrArg (Res.bind · _) hpop))
    exact ⟨hone 1, _, fun i hi => (getLsbD_maskOf _ hi).trans rfl, hone 0⟩
  case vext =>
    intro s v c e x t win n hcheck hv hroom
    refine issueV_done ((bind_of_gives hcheck _).trans ((bind_of_gives hv _).trans ?_))
    exact if_neg (Nat.not_le.mpr hroom)
  case vac =>
    intro s v c r x hw t row
    refine ⟨fun hcheck => issueV_done ?_, fun hcheck hv hwf =>
      ⟨t.vact (.row row (BitVec.allOnes 128) x), issueV_done ?_, ?_, fun i hi => ?_, fun q hq => ?_⟩⟩
    · rw [hw]
      exact bind_of_gives hcheck _
    · rw [hw]
      exact (bind_of_gives hcheck _).trans (bind_of_gives hv _)
    · rw [rowOf_vact_row _ _ _ hwf, blend_allOnes]
    · rw [lane_row_vact_row _ _ _ hwf hi, BitVec.getLsbD_allOnes, decide_eq_true hi]
      simp
    · exact ⟨row_vact_row_other _ _ hwf hq, rowOf_vact_row_other _ _ hwf hq⟩
  case noWindow =>
    intro s v c r hw
    exact ⟨congrArg _ (issueV_trap (by rw [hw]; rfl)), congrArg _ (issueV_trap (by rw [hw]; rfl))⟩
  case vmode =>
    intro s w b c f r t
    obtain ⟨hrm, hftz⟩ := mode_fields w b c f r
    refine issueV_done (congrArg Res.done ?_)
    rw [Tile.setMode, hrm, hftz, fpsrMode_eq, mode_bits]

/-- Settles O20: the forms on bits and masks, and the moves. -/
theorem vectorLogicAndMoves : Obligations.VectorLogicAndMoves :=
  ⟨VectorLogic.vectorLogicAndMasksDeliver, vectorMovesDeliver⟩

end Sys2Proof.VectorMoves

/-!
PROOFS of the family 06_vector.md: the codebook banks (O21).
-/
namespace Sys2Proof.Codebooks
open Sys2Proof Sys2Proof.Machine Sys2Proof.VectorForms

theorem sync_vpopN (t : Tile) (c : BitVec 6) (n : Nat) : (t.vpopN c n).sync = t.sync := by
  induction n generalizing t with
  | zero => rfl
  | succ n ih => rw [Tile.vpopN, ih, sync_vpop]

theorem captures_loadPlane (p : Plane) (kind : BitVec 6) (count : Nat) (src : List Vec) : (loadPlane p kind count src).captures = p.captures := by
  rw [loadPlane]

/-- An entry of a loaded plane: 16 bytes of its source vector below COUNT, and as before from there. -/
theorem entries_loadPlane (p : Plane) (kind : BitVec 6) (count : Nat) (src : List Vec) (e : Fin 256) :
    (loadPlane p kind count src).entries[e] =
      if e.val < count then (src.getD (e.val / 32) 0).extractLsb' (128 * (e.val % 32)) 128 else p.entries[e] := by
  simp [loadPlane]

/-- Settles O21, form by form. -/
theorem codebookBanksLoadSwapExpand : Obligations.CodebookBanksLoadSwapExpand := by
  unfold Obligations.CodebookBanksLoadSwapExpand
  refine ⟨?cbld, fun s k => issueV_done rfl, ?vcbx⟩
  case cbld =>
    intro s kind a k n src t win count old hcheck hsrc
    refine ⟨fun hfree => ⟨loadPlane old.back kind count src, rfl, rfl, captures_loadPlane _ _ _ _, fun e => ?_, issueV_done ?_⟩,
      fun hheld => congrArg _ (issueV_hold ?_)⟩
    · exact entries_loadPlane _ _ _ _ e
    · refine (bind_of_gives hcheck _).trans ((bind_of_gives hsrc _).trans ((if_neg (Nat.not_lt.mpr hfree.le)).trans ?_))
      simp only [sync_vpopN]
      rfl
    · exact (bind_of_gives hcheck _).trans ((bind_of_gives hsrc _).trans (if_pos hheld))
  case vcbx =>
    intro s d a k w g va t win hcheck hroom ha
    refine ⟨fun v hv => issueV_done ?_, fun hnone => congrArg _ (issueV_trap ?_)⟩
    · refine (bind_of_gives hcheck _).trans ((bind_of_gives hroom _).trans ((bind_of_gives ha _).trans ?_))
      rw [hv]
    · refine (bind_of_gives hcheck _).trans ((bind_of_gives hroom _).trans ((bind_of_gives ha _).trans ?_))
      rw [hnone]
      rfl

end Sys2Proof.Codebooks

/-!
PROOFS of the family 07_streams.md: the issue of the access strands' forms, and their address registers (O24).
-/
namespace Sys2Proof.AccessForms
open Sys2Proof Sys2Proof.Machine

/-! ## Issue -/

section
variable {s s' : State} {k : Strand} {f : State → Res State}

/-- The load strand and the store strand find their tile as it stands: no result of theirs is due in an issue cycle. -/
theorem modTile_tick (hk : ∀ t : Tile, t.tick k = t) : s.modTile s.here (·.tick k) = s := by
  rw [State.modTile_eq, hk, State.setTile_tile]

variable (hk : ∀ t : Tile, t.tick k = t)
include hk

theorem issue_done (h : f s = .done s') : s.issue k f = s'.modTile s.here (·.retire k) := by
  simp only [State.issue, modTile_tick hk, h]

theorem issue_hold (h : f s = .hold) : s.issue k f = s := by
  simp only [State.issue, modTile_tick hk, h]

theorem issue_stay {g : State → State} (h : f s = .stay g) : s.issue k f = g s := by
  simp only [State.issue, modTile_tick hk, h]

theorem issue_trap {x : Trap} (h : f s = .trap x) : s.issue k f = s.fault s.here k x := by
  simp only [State.issue, modTile_tick hk, h]

/-- What an access form does depends on what its effect answers for this state alone. -/
theorem issue_congr {g : State → Res State} (h : f s = g s) : s.issue k f = s.issue k g := by
  simp only [State.issue, modTile_tick hk, h]

end

theorem tick_load (t : Tile) : t.tick .load = t := rfl

theorem tick_store (t : Tile) : t.tick .store = t := rfl

/-! ## Address registers (R172) -/

section
variable {s : State} {d : BitVec 4} {f : Tile → Res (W64 × Tile)} {v : W64} {t : Tile}

theorem laOp_done (h : f s.cur = .done (v, t)) : laOp d f s = s.yields .load (Claims.setA t d v) :=
  congrArg Host.Outcome.next (State.issueT_done (k := .load) (by rw [State.seen, tick_load, h]; rfl))

theorem saOp_done (h : f s.cur = .done (v, t)) : saOp d f s = s.yields .store (Claims.setW t d v) :=
  congrArg Host.Outcome.next (State.issueT_done (k := .store) (by rw [State.seen, tick_store, h]; rfl))

theorem laOp_hold (h : f s.cur = .hold) : laOp d f s = .next s :=
  congrArg Host.Outcome.next (State.issueT_hold (k := .load) (by rw [State.seen, tick_load, h]; rfl))

theorem saOp_hold (h : f s.cur = .hold) : saOp d f s = .next s :=
  congrArg Host.Outcome.next (State.issueT_hold (k := .store) (by rw [State.seen, tick_store, h]; rfl))

end

theorem shiftLeft_eq_ofNat (x : W64) (n : Nat) : x <<< n = BitVec.ofNat 64 (x.toNat * 2 ^ n) := by
  apply BitVec.eq_of_toNat_eq
  rw [BitVec.toNat_shiftLeft, Nat.shiftLeft_eq, BitVec.toNat_ofNat]

/-- The channel code of a take names its channel by its low bit. -/
theorem takeCode (c : Fin 2) : (BitVec.ofNat 2 c.val).toNat % 2 = c.val := by
  rw [BitVec.toNat_ofNat]; omega

theorem takeK_cons {t : Tile} {i : Fin 5} {e : Ent W64} {rest : Fifo} (hq : t.fifo.k[i] = e :: rest) (hr : e.ready = true)
    (hb : e.born ≠ t.tcc) : t.takeK i = .done (e.val, t.setK i rest) := by
  rw [Tile.takeK, hq, ControlState.headOf_cons rest hr hb]
  rfl

theorem takeK_nil {t : Tile} {i : Fin 5} (hq : t.fifo.k[i] = []) : t.takeK i = .hold := by
  rw [Tile.takeK, hq]
  rfl

/-- An index form reads the index that its line's entry holds (R82). -/
theorem ixOf_cons {t : Tile} {k : Strand} (n : Fin 6) {e : QEntry} {rest : List QEntry} (hq : t.queueOf k = e :: rest) :
    t.ixOf k (BitVec.ofNat 3 n.val) = (e.ix[n]).setWidth 64 := by
  have hn : (BitVec.ofNat 3 n.val).toNat = n.val := by rw [BitVec.toNat_ofNat]; omega
  simp [Tile.ixOf, hq, hn, zext64]

/-- Settles O24. -/
theorem addressRegistersCompute : Obligations.AddressRegistersCompute := by
  unfold Obligations.AddressRegistersCompute
  refine ⟨fun s d a b i x n => ⟨laOp_done rfl, laOp_done rfl, ?_, laOp_done rfl, saOp_done rfl, saOp_done rfl, ?_, saOp_done rfl⟩,
    fun s d c e rest => ?takes, fun s d n e rest => ⟨fun hq => ?_, fun hq => ?_⟩⟩
  case takes =>
    intro load store
    have hl : (⟨(BitVec.ofNat 2 c.val).toNat % 2, by omega⟩ : Fin 5) = load := Fin.ext (takeCode c)
    have hs : (⟨2 + (BitVec.ofNat 2 c.val).toNat % 2, by omega⟩ : Fin 5) = store := Fin.ext (congrArg (2 + ·) (takeCode c))
    refine ⟨fun hq hr hb => laOp_done ?_, fun hq hr hb => saOp_done ?_, fun hq => laOp_hold ?_, fun hq => saOp_hold ?_⟩
    · rw [hl]; exact takeK_cons hq hr hb
    · rw [hs]; exact takeK_cons hq hr hb
    · rw [hl]; exact takeK_nil hq
    · rw [hs]; exact takeK_nil hq
  · rw [← shiftLeft_eq_ofNat]; exact laOp_done rfl
  · rw [← shiftLeft_eq_ofNat]; exact saOp_done rfl
  · exact laOp_done (congrArg (fun v => Res.done (v, s.cur)) (ixOf_cons (k := .load) n hq))
  · exact saOp_done (congrArg (fun v => Res.done (v, s.cur)) (ixOf_cons (k := .store) n hq))

end Sys2Proof.AccessForms

/-!
PROOFS of the family 07_streams.md: how the elements of an access are judged (O25).
-/
namespace Sys2Proof.Judgement
open Sys2Proof Sys2Proof.Machine Sys2Proof.AccessForms

/-! ## Parts of an access -/

/-- What does not cross a multiple of the unit is one part. -/
theorem cutAt_one {unit fuel pos a n : Nat} (hn : 0 < n) (h : a % unit + n ≤ unit) : cutAt unit (fuel + 2) pos a n = [(pos, a, n)] := by
  have hmin : min n (unit - a % unit) = n := by omega
  simp [cutAt, hmin, Nat.pos_iff_ne_zero.mp hn]

/-- The first part of an access begins at its address. -/
theorem cutAt_cons {unit fuel pos a n : Nat} (hn : 0 < n) :
    ∃ m rest, cutAt unit (fuel + 1) pos a n = (pos, a, m) :: rest :=
  ⟨_, _, by rw [cutAt, if_neg (by omega)]⟩

/-! ## Judgements together -/

theorem also_ok_nil (x : Judged) : x.also (.ok []) = x := by
  cases x <;> simp [Judged.also]

theorem ok_nil_also (x : Judged) : (Judged.ok []).also x = x := by
  cases x <;> rfl

theorem miss_also (v : W64) (x : Judged) : (Judged.miss v).also x = .miss v := by
  cases x <;> rfl

section
variable {s : State} {k : Strand} {q : Ask} {e : Elem}

theorem judgeAll_one (t : TileNo) : s.judgeAll t q [e] = s.judge t q e := ok_nil_also _

theorem pieces_ok {ps : List Piece} (h : s.judge s.here q e = .ok ps) : s.pieces k q [e] = .done ps := by
  simp only [State.pieces, judgeAll_one, h]

theorem pieces_miss {va : W64} (h : s.judge s.here q e = .miss va) :
    s.pieces k q [e] = .stay fun s => s.modTile s.here (·.askWalk k va) := by
  simp only [State.pieces, judgeAll_one, h]

/-- A fault of an element no piece of which passes the other checks stands: no snapshot range can be touched before it. -/
theorem pieces_bad {a c : Nat} (h : s.judge s.here q e = .bad a c []) :
    s.pieces k q [e] = .trap { code := c, faddr := BitVec.ofNat 64 a } := by
  have hs : (if q.want == .write then s.shadowFault [] else none) = none := by split <;> rfl
  simp only [State.pieces, judgeAll_one, h, hs]

/-! ## The order of judgement (R441) -/

/-- Where an element is judged: its scratchpad offset, or its virtual address. -/
def placeOf (q : Ask) (e : Elem) : Nat := if q.sp then spadOff e.va else e.va.toNat

theorem judge_misaligned {t : TileNo} (h : placeOf q e % q.align ≠ 0) : s.judge t q e = .bad (placeOf q e) cMisaligned [] := by
  unfold placeOf at *
  simp [State.judge, h]

theorem judge_schedule {t : TileNo} (h : placeOf q e % q.align = 0) (hseq : q.seqOk e = false) :
    s.judge t q e = .bad (placeOf q e) cSchedule [] := by
  unfold placeOf at *
  simp [State.judge, h, hseq]

theorem judge_spad_bad {t : TileNo} (hsp : q.sp = true) (h : placeOf q e % q.align = 0) (hseq : q.seqOk e = true) {o c : Nat}
    (hf : spadFault (s.tile t).claims q e = some (o, c)) :
    s.judge t q e = .bad o c [] := by
  unfold placeOf at h
  simp only [hsp, if_true] at h
  simp [State.judge, hsp, h, hseq, hf]

theorem judge_spad_ok {t : TileNo} (hsp : q.sp = true) (h : placeOf q e % q.align = 0) (hseq : q.seqOk e = true)
    (hf : spadFault (s.tile t).claims q e = none) :
    s.judge t q e = .ok (spadPieces e) := by
  unfold placeOf at h
  simp only [hsp, if_true] at h
  simp [State.judge, hsp, h, hseq, hf]

theorem judge_global {t : TileNo} (hsp : q.sp = false) (h : placeOf q e % q.align = 0) (hseq : q.seqOk e = true) :
    s.judge t q e = s.judgeParts t q (cutAt 4096 3 e.pos e.va.toNat e.len) := by
  unfold placeOf at h
  simp only [hsp, Bool.false_eq_true, if_false] at h
  simp [State.judge, hsp, h, hseq]

end

/-! ## Bytes of the scratchpad -/

/-- The fault of the byte at an offset of the scratchpad (R441). -/
def byteFault (claims : List (BitVec 2)) (q : Ask) (o : Nat) : Option (Nat × Nat) :=
  if q.want == .write && !q.barrier && decide (barrierBase ≤ o) then some (o, cBarrierRegion)
  else if q.barrier && decide (o < barrierBase) then some (o, cBarrierRegion)
  else if claims.contains (bankGroup o) then some (o, cBankClaim)
  else none

theorem spadFault_eq (claims : List (BitVec 2)) (q : Ask) (e : Elem) :
    spadFault claims q e = (List.range e.len).findSome? fun i => byteFault claims q ((spadOff e.va + i) % spadSize) := rfl

section
variable {claims : List (BitVec 2)} {q : Ask} {o : Nat}

theorem byteFault_region_store (hw : q.want = .write) (hb : q.barrier = false) (ho : barrierBase ≤ o) :
    byteFault claims q o = some (o, cBarrierRegion) := by
  simp [byteFault, hw, hb, ho]

theorem byteFault_region_barrier (hb : q.barrier = true) (ho : o < barrierBase) : byteFault claims q o = some (o, cBarrierRegion) := by
  simp [byteFault, hb, ho]

/-- A byte that an access may touch faults only where its group is claimed. -/
theorem byteFault_plain (hb : q.barrier = false) (ho : q.want = .read ∨ o < barrierBase) :
    byteFault claims q o = if claims.contains (bankGroup o) then some (o, cBankClaim) else none := by
  have hw : (q.want == .write && !q.barrier && decide (barrierBase ≤ o)) = false := by
    obtain h | h := ho
    · simp [h]
    · simp [Nat.not_le.mpr h]
  rw [byteFault, hw]
  simp only [hb, Bool.false_and, Bool.false_eq_true, if_false]

variable {e : Elem}

theorem spadOff_lt (va : W64) : spadOff va < spadSize := Nat.mod_lt _ (by decide)

/-- The fault of the first byte is that of the access. -/
theorem spadFault_first {x : Nat × Nat} (hl : 0 < e.len) (h : byteFault claims q (spadOff e.va) = some x) : spadFault claims q e = some x := by
  obtain ⟨n, hn⟩ := Nat.exists_eq_add_of_lt hl
  rw [spadFault_eq, hn, List.range_succ_eq_map, List.findSome?_cons, Nat.add_zero, Nat.mod_eq_of_lt (spadOff_lt _), h]

theorem spadFault_none (hl : spadOff e.va + e.len ≤ spadSize)
    (h : ∀ o, spadOff e.va ≤ o → o < spadOff e.va + e.len → byteFault claims q o = none) : spadFault claims q e = none := by
  rw [spadFault_eq, List.findSome?_eq_none_iff]
  intro i hi
  have hi : i < e.len := List.mem_range.mp hi
  rw [Nat.mod_eq_of_lt (by omega)]
  exact h _ (by omega) (by omega)

/-- An access that ends within the scratchpad is one piece. -/
theorem spadPieces_one (h0 : 0 < e.len) (hl : spadOff e.va + e.len ≤ spadSize) :
    spadPieces e = [{ pos := e.pos, len := e.len, loc := .spad (spadOff e.va), va := e.va }] := by
  have hm : spadOff e.va % spadSize = spadOff e.va := Nat.mod_eq_of_lt (spadOff_lt _)
  rw [spadPieces, cutAt_one (fuel := 1) h0 (by rw [hm]; exact hl)]
  simp [hm]

end

/-! ## A part of global memory -/

section
variable {s : State} {t : TileNo} {q : Ask} {e : Elem} {w : TlbEntry}

theorem judge_onePart (hsp : q.sp = false) (ha : e.va.toNat % q.align = 0) (hseq : q.seqOk e = true) (h0 : 0 < e.len)
    (hp : e.va.toNat % 4096 + e.len ≤ 4096) : s.judge t q e = s.judgePart t q e.pos e.va.toNat e.len := by
  rw [judge_global hsp (by simpa [placeOf, hsp] using ha) hseq, cutAt_one (fuel := 1) h0 hp]
  exact also_ok_nil _

variable {pos n : Nat} {va : W64}

theorem judgePart_miss (h : tlbFind (s.tile t).tlb va = none) : s.judgePart t q pos va.toNat n = .miss va := by
  simp [State.judgePart, h]

theorem judgePart_walk {c : Nat} (h : tlbFind (s.tile t).tlb va = some w) (hr : w.result = .error c) :
    s.judgePart t q pos va.toNat n = .bad va.toNat c [] := by
  simp [State.judgePart, h, hr]

theorem judgePart_check {c : Nat} {pte : W64} (h : tlbFind (s.tile t).tlb va = some w) (hr : w.result = .ok pte)
    (hc : s.checkPte pte w.size va q.want false = .error c) : s.judgePart t q pos va.toNat n = .bad va.toNat c [] := by
  simp [State.judgePart, h, hr, hc]

theorem judgePart_read {pte : W64} {g : Phys} (h : tlbFind (s.tile t).tlb va = some w) (hr : w.result = .ok pte)
    (hc : s.checkPte pte w.size va q.want false = .ok g) (hb : q.barrier = false) (hw : q.want = .read) (h0 : 0 < n)
    (hu : g.pa.toNat % q.unit + n ≤ q.unit) :
    s.judgePart t q pos va.toNat n = .ok [{ pos := pos, len := n, loc := .glob g, va := va }] := by
  have hbar : barFault q g n = false := by simp [barFault, hb, hw]
  rw [hw] at hc
  simp [State.judgePart, h, hr, hw, hc, hbar, cutAt_one (fuel := 8) h0 hu]

end

/-! ## A load or store that waits for a translation (R174) -/

section
variable {s : State}

theorem loadGuard_explicit {q : BitVec 3} {f : Unit → Res State} (h : (s.cur.ld.stream[q.toNat]).phase = .explicit) : s.loadGuard q f = f () := by
  rw [State.loadGuard, Tile.explicit, h]
  rfl

/-- The first page of an access has no translation. -/
theorem judge_miss {t : TileNo} {q : Ask} {e : Elem} (hsp : q.sp = false) (ha : e.va.toNat % q.align = 0) (hseq : q.seqOk e = true)
    (h0 : 0 < e.len) (h : tlbFind (s.tile t).tlb e.va = none) : s.judge t q e = .miss e.va := by
  obtain ⟨m, rest, hc⟩ := cutAt_cons (unit := 4096) (fuel := 2) (pos := e.pos) (a := e.va.toNat) h0
  rw [judge_global hsp (by simpa [placeOf, hsp] using ha) hseq, hc, State.judgeParts, judgePart_miss h, miss_also]

/-- An access whose translation is missing holds its strand and asks for it, whatever it would do with its pieces. -/
theorem bind_wait {k : Strand} {q : Ask} {e : Elem} (f : List Piece → Res State) (hsp : q.sp = false) (ha : e.va.toNat % q.align = 0)
    (hseq : q.seqOk e = true) (h0 : 0 < e.len) (h : tlbFind s.cur.tlb e.va = none) :
    (s.pieces k q [e]).bind f = .stay fun s => s.modTile s.here (·.askWalk k e.va) := by
  rw [pieces_miss (judge_miss hsp ha hseq h0 h)]
  rfl

theorem exec_ld_miss {q : BitVec 2} {a : BitVec 4} {sq : BitVec 1} {i : BitVec 13} {x : List W32} {va : W64}
    (hva : s.cur.ld.a[a.toNat] + i.signExtend 64 = va) (hp : (s.cur.ld.stream[(q.setWidth 3).toNat]).phase = .explicit)
    (ha : va.toNat % 32 = 0) (hsq : sq = 0 ∨ s.cur.seqTag (spadOff va) x = true) (h : tlbFind s.cur.tlb va = none) :
    exec (.ld q a 0 sq i x) s = .next (s.setTile s.here { s.cur with ld := { s.cur.ld with walk := some va } }) := by
  subst hva
  refine congrArg Host.Outcome.next (issue_stay (g := fun s => s.modTile s.here (·.askWalk .load _)) tick_load ?_)
  rw [loadGuard_explicit hp]
  exact bind_wait (q := Claims.readAsk s.cur 0 sq 32 x) (e := { pos := 0, len := 512, va := _ }) _ rfl ha
    (by simpa [Claims.readAsk, Tile.laAddr, sext64] using hsq) (Nat.succ_pos _) h

theorem exec_st_miss {o : BitVec 3} {w : BitVec 4} {i : BitVec 13} {va : W64}
    (hva : s.cur.st.w[w.toNat] + i.signExtend 64 = va) (ha : va.toNat % 32 = 0) (h : tlbFind s.cur.tlb va = none) :
    exec (.st o w 0 i) s = .next (s.setTile s.here { s.cur with st := { s.cur.st with walk := some va } }) := by
  subst hva
  refine congrArg Host.Outcome.next (issue_stay (g := fun s => s.modTile s.here (·.askWalk .store _)) tick_store ?_)
  exact bind_wait (q := storeAsk 0 32) (e := { pos := 0, len := 512, va := _ }) _ rfl ha rfl (Nat.succ_pos _) h

end

/-! ## A walk completes (R363) -/

section
variable {s : State} {t : TileNo} {va pte : W64} {size : Nat}

theorem exec_tlbWalk_load (hw : s.walk (s.tile t).ctx va = .ok (pte, size)) (h : (s.tile t).ld.walk = some va) :
    exec (.tlbWalk t .load) s = .next (s.setTile t { (s.tile t) with
      tlb := ({ va := BitVec.ofNat 64 (va.toNat / size * size), size := size, result := .ok pte } :: (s.tile t).tlb).take 1024
      ld := { (s.tile t).ld with walk := none } }) := by
  change execTlbWalk t .load s = _
  simp [execTlbWalk, h, hw, Tile.keepWalk, tlbMax]

theorem exec_tlbWalk_store (hw : s.walk (s.tile t).ctx va = .ok (pte, size)) (h : (s.tile t).st.walk = some va) :
    exec (.tlbWalk t .store) s = .next (s.setTile t { (s.tile t) with
      tlb := ({ va := BitVec.ofNat 64 (va.toNat / size * size), size := size, result := .ok pte } :: (s.tile t).tlb).take 1024
      st := { (s.tile t).st with walk := none } }) := by
  change execTlbWalk t .store s = _
  simp [execTlbWalk, h, hw, Tile.keepWalk, tlbMax]

end

/-! ## The obligation -/

/-- Settles O25: an element of the scratchpad by its first byte, one of global memory by the one part that its page makes of it. -/
theorem accessesAreJudgedInOrder : Obligations.AccessesAreJudgedInOrder := by
  unfold Obligations.AccessesAreJudgedInOrder
  refine ⟨fun s k ask e hsp => ?spad, fun s k ask e hsp => ?global, fun s q a sq i x o => ⟨exec_ld_miss rfl, exec_st_miss rfl⟩,
    fun s t va pte size hw => ⟨exec_tlbWalk_load hw, exec_tlbWalk_store hw⟩⟩
  case spad =>
    intro off
    have hplace : placeOf ask e = off := by rw [placeOf, if_pos hsp]; rfl
    refine ⟨fun ha => ?_, fun ha hseq => ?_, fun ha hseq hend hlen => ?_⟩
    · exact hplace ▸ pieces_bad (judge_misaligned (by rwa [hplace]))
    · exact hplace ▸ pieces_bad (judge_schedule (by rwa [hplace]) hseq)
    have hbad : ∀ {c}, byteFault s.cur.claims ask off = some (off, c) →
        s.pieces k ask [e] = .trap { code := c, faddr := BitVec.ofNat 64 off } := fun h =>
      pieces_bad (judge_spad_bad hsp (by rwa [hplace]) hseq (spadFault_first hlen h))
    refine ⟨fun hw hb ho => hbad (byteFault_region_store hw hb ho), fun hb ho => hbad (byteFault_region_barrier hb ho),
      fun hb ho hc => hbad ?_, fun hb ho hc => (pieces_ok (judge_spad_ok hsp (by rwa [hplace]) hseq ?_)).trans ?_⟩
    · rw [byteFault_plain hb (ho.imp_right fun h => by unfold barrierBase; omega), if_pos hc]
      rfl
    · rw [show (s.tile s.here).claims = [] from hc, spadFault_none hend fun o _ h => ?_]
      exact byteFault_plain hb (ho.imp_right fun h' => h.trans_le h')
    · exact congrArg Res.done (spadPieces_one hlen hend)
  case global =>
    have hplace : placeOf ask e = e.va.toNat := by rw [placeOf, if_neg (by simp [hsp])]
    have hva : BitVec.ofNat 64 e.va.toNat = e.va := by simp
    have hbad : ∀ {c}, s.judge s.here ask e = .bad e.va.toNat c [] → s.pieces k ask [e] = .trap { code := c, faddr := e.va } :=
      fun h => (pieces_bad h).trans (by rw [hva])
    refine ⟨fun ha => hbad (hplace ▸ judge_misaligned (by rwa [hplace])), fun ha hseq hlen hpage => ?_⟩
    have hjudge := judge_onePart (s := s) (t := s.here) hsp ha hseq hlen hpage
    exact ⟨fun c w hf hr => hbad (hjudge.trans (judgePart_walk hf hr)),
      fun c w pte hf hr hc => hbad (hjudge.trans (judgePart_check hf hr hc)),
      fun w pte g hf hr hc hb hw hu => pieces_ok (hjudge.trans (judgePart_read hf hr hc hb hw hlen hu))⟩

end Sys2Proof.Judgement

/-!
PROOFS of the family 07_streams.md: loads, gathers and atomics reserve an entry of their stream and are in flight (O26).
-/
namespace Sys2Proof.LoadForms
open Sys2Proof Sys2Proof.Machine Sys2Proof.AccessForms Sys2Proof.Judgement

/-! ## Codes of streams -/

theorem vectorCode (q : Fin 4) : (BitVec.ofNat 2 q.val).setWidth 3 = BitVec.ofNat 3 q.val := by revert q; decide

theorem scalarCode (q : Fin 4) : (1#1 ++ BitVec.ofNat 2 q.val : BitVec 3) = BitVec.ofNat 3 (4 + q.val) := by revert q; decide

theorem toNat_vectorCode (q : Fin 4) : (BitVec.ofNat 3 q.val).toNat = q.val := by revert q; decide

theorem toNat_scalarCode (q : Fin 4) : (BitVec.ofNat 3 (4 + q.val)).toNat = 4 + q.val := by revert q; decide

theorem indexCode (j : Fin 2) : (BitVec.ofNat 1 j.val).toNat = j.val := by revert j; decide

/-! ## Room and reservations -/

section
variable {t : Tile} {b : BitVec 3} (q : Fin 4)

theorem qRoom_vector (hb : b.toNat = q) : t.qRoom b = decide (t.fifo.qv[q].length < 8) := by
  obtain ⟨j, hj⟩ := q
  obtain rfl : b.toNat = j := hb
  rw [Tile.qRoom, dif_pos hj]
  rfl

theorem qRoom_scalar (hb : b.toNat = 4 + q) : t.qRoom b = decide (t.fifo.qs[q].length < 16) := by
  obtain ⟨j, hj⟩ := q
  obtain rfl : j = b.toNat - 4 := by dsimp only at hb; omega
  rw [Tile.qRoom, dif_neg (by omega)]
  rfl

theorem qReserve_vector (hb : b.toNat = q) (tag : W64) : t.qReserve b tag = { t with fifo := { t.fifo with
    qv := t.fifo.qv.set q (t.fifo.qv[q] ++ [{ val := 0, ready := false, born := 0, tag := tag }]) } } := by
  obtain ⟨j, hj⟩ := q
  obtain rfl : b.toNat = j := hb
  rw [Tile.qReserve, dif_pos hj]
  rfl

theorem qReserve_scalar (hb : b.toNat = 4 + q) (tag : W64) : t.qReserve b tag = { t with fifo := { t.fifo with
    qs := t.fifo.qs.set q (t.fifo.qs[q] ++ [{ val := 0, ready := false, born := 0, tag := tag }]) } } := by
  obtain ⟨j, hj⟩ := q
  obtain rfl : j = b.toNat - 4 := by dsimp only at hb; omega
  rw [Tile.qReserve, dif_neg (by omega)]
  rfl

end

/-! ## A load enters its strand (R33, R242) -/

theorem ld_spadLoads (t : Tile) (kind : LoadKind) (ps : List Piece) (d : Vec) : (t.spadLoads kind ps d).1.ld = t.ld := by
  induction ps generalizing t d with
  | nil => rfl
  | cons p rest ih =>
    rw [Tile.spadLoads]
    split
    · exact (ih _ _).trans (by cases kind <;> rfl)
    · exact ih t d

theorem addLoad_eq (t : Tile) (kind : LoadKind) (q : BitVec 3) (ps : List Piece) (va : W64) :
    t.addLoad kind q ps va = Claims.loading t kind q ps va := by
  have h : ∀ r : Tile × Vec, r.1.ld = t.ld → ∀ p, ({ r.1 with ld := { r.1.ld with pending := r.1.ld.pending ++ [p], seq := r.1.ld.seq + 1 } } : Tile) =
      { r.1 with ld := { t.ld with pending := t.ld.pending ++ [p], seq := t.ld.seq + 1 } } := fun r hr p => by rw [hr]
  refine h _ ?_ _
  split
  · exact ld_spadLoads ..
  · rfl

theorem addLoad_vector (t : Tile) (kind : LoadKind) (q : Fin 4) (ps : List Piece) (va : W64) :
    (t.qReserve (BitVec.ofNat 3 q.val) (BitVec.ofNat 64 t.ld.seq)).addLoad kind (BitVec.ofNat 3 q.val) ps va =
      Claims.vectorLoad t kind q ps va := by
  rw [qReserve_vector q (toNat_vectorCode q), addLoad_eq]
  rfl

theorem addLoad_scalar (t : Tile) (kind : LoadKind) (q : Fin 4) (ps : List Piece) (va : W64) :
    (t.qReserve (BitVec.ofNat 3 (4 + q.val)) (BitVec.ofNat 64 t.ld.seq)).addLoad kind (BitVec.ofNat 3 (4 + q.val)) ps va =
      Claims.scalarLoad t kind q ps va := by
  rw [qReserve_scalar q (toNat_scalarCode q), addLoad_eq]
  rfl

/-! ## Issue into a stream (R174, R175) -/

section
variable {s : State} {q : Fin 4} {kind : LoadKind} {ask : Ask} {es : List Elem} {va : W64} {pop : Tile → Tile} {ps : List Piece}

theorem load_entered {f : State → Res State} {x : Tile} (h : f s = .done ((s.setTile s.here x).countPieces s.here ps)) :
    Host.Outcome.next (s.issue .load f) = Claims.entered s .load x ps :=
  congrArg Host.Outcome.next (issue_done tick_load h)

theorem load_yields {f : State → Res State} {x : Tile} (h : f s = .done (s.setTile s.here x)) :
    Host.Outcome.next (s.issue .load f) = s.yields .load x := by
  rw [issue_done tick_load h]
  simp [State.yields, State.leaves, State.modTile_eq]

theorem load_held {f : State → Res State} (h : f s = .hold) : (.next (s.issue .load f) : Out) = .next s :=
  congrArg Host.Outcome.next (issue_hold tick_load h)

theorem loadTo_vector (hp : Claims.gives (s.pieces .load ask es) = some ps) (hr : s.cur.fifo.qv[q].length < 8) :
    s.loadTo (BitVec.ofNat 3 q.val) kind ask es va pop =
      .done ((s.setTile s.here (Claims.vectorLoad (pop s.cur) kind q ps va)).countPieces s.here ps) := by
  rw [State.loadTo, VectorForms.bind_of_gives hp, qRoom_vector q (toNat_vectorCode q), decide_eq_true hr, ← addLoad_vector]
  rfl

theorem loadTo_vector_full (hp : Claims.gives (s.pieces .load ask es) = some ps) (hr : 8 ≤ s.cur.fifo.qv[q].length) :
    s.loadTo (BitVec.ofNat 3 q.val) kind ask es va pop = .hold := by
  rw [State.loadTo, VectorForms.bind_of_gives hp, qRoom_vector q (toNat_vectorCode q), decide_eq_false (Nat.not_lt.mpr hr)]
  rfl

theorem loadTo_scalar (hp : Claims.gives (s.pieces .load ask es) = some ps) (hr : s.cur.fifo.qs[q].length < 16) :
    s.loadTo (BitVec.ofNat 3 (4 + q.val)) kind ask es va pop =
      .done ((s.setTile s.here (Claims.scalarLoad (pop s.cur) kind q ps va)).countPieces s.here ps) := by
  rw [State.loadTo, VectorForms.bind_of_gives hp, qRoom_scalar q (toNat_scalarCode q), decide_eq_true hr, ← addLoad_scalar]
  rfl

theorem loadTo_scalar_full (hp : Claims.gives (s.pieces .load ask es) = some ps) (hr : 16 ≤ s.cur.fifo.qs[q].length) :
    s.loadTo (BitVec.ofNat 3 (4 + q.val)) kind ask es va pop = .hold := by
  rw [State.loadTo, VectorForms.bind_of_gives hp, qRoom_scalar q (toNat_scalarCode q), decide_eq_false (Nat.not_lt.mpr hr)]
  rfl

variable {b : BitVec 3} {n : Nat} {hn : n < 8} {f : Unit → Res State}

theorem loadGuard_pass (hb : b.toNat = n) (h : (s.cur.ld.stream[n]).phase = .explicit) : s.loadGuard b f = f () := by
  subst hb
  exact loadGuard_explicit h

theorem loadGuard_trap (hb : b.toNat = n) (h : (s.cur.ld.stream[n]).phase ≠ .explicit) : s.loadGuard b f = .trap { code := 0x07 } := by
  subst hb
  simp [State.loadGuard, Tile.explicit, h, cStreamState]

/-- A load form whose stream is not EXPLICIT faults before anything else is judged. -/
theorem load_state_fault (hb : b.toNat = n) (h : (s.cur.ld.stream[n]).phase ≠ .explicit) {f : State → Unit → Res State} :
    Host.Outcome.next (s.issue .load fun s => s.loadGuard b (f s)) = Claims.faults s .load 0x07 0 :=
  congrArg Host.Outcome.next (issue_trap tick_load (loadGuard_trap hb h))

end

/-! ## ld and ldw (R173, R174) -/

section
variable {s : State} {q : Fin 4} {a : BitVec 4} {sp sq : BitVec 1} {i : BitVec 13} {x : List W32} {ps : List Piece} {va : W64}
  (hva : s.cur.laAddr a i = va)
include hva

section
variable (hp : Claims.gives (s.pieces .load (Claims.readAsk s.cur sp sq 32 x) [{ pos := 0, len := 512, va := va }]) = some ps)
  (he : (s.cur.ld.stream[q.val]).phase = .explicit)
include hp he

theorem exec_ld_entered (hr : s.cur.fifo.qv[q].length < 8) :
    exec (.ld (BitVec.ofNat 2 q.val) a sp sq i x) s = Claims.entered s .load (Claims.vectorLoad s.cur .vector q ps va) ps := by
  subst hva
  refine load_entered ?_
  rw [vectorCode, loadGuard_pass (toNat_vectorCode q) he]
  exact loadTo_vector hp hr

theorem exec_ld_full (hr : 8 ≤ s.cur.fifo.qv[q].length) : exec (.ld (BitVec.ofNat 2 q.val) a sp sq i x) s = .next s := by
  subst hva
  refine load_held ?_
  rw [vectorCode, loadGuard_pass (toNat_vectorCode q) he]
  exact loadTo_vector_full hp hr

end

section
variable {k : BitVec 4} {n : Nat} (hn : kindSize k.toNat = n)
  (hp : Claims.gives (s.pieces .load (Claims.readAsk s.cur sp sq n x) [{ pos := 0, len := n, va := va }]) = some ps)
  (he : (s.cur.ld.stream[4 + q.val]).phase = .explicit)
include hn hp he

theorem exec_ldw_entered (hr : s.cur.fifo.qs[q].length < 16) :
    exec (.ldw (BitVec.ofNat 2 q.val) a k sp sq i x) s = Claims.entered s .load (Claims.scalarLoad s.cur (.scalar k.toNat) q ps va) ps := by
  subst hva hn
  refine load_entered ?_
  dsimp only
  rw [scalarCode, loadGuard_pass (toNat_scalarCode q) he]
  exact loadTo_scalar hp hr

theorem exec_ldw_full (hr : 16 ≤ s.cur.fifo.qs[q].length) : exec (.ldw (BitVec.ofNat 2 q.val) a k sp sq i x) s = .next s := by
  subst hva hn
  refine load_held ?_
  dsimp only
  rw [scalarCode, loadGuard_pass (toNat_scalarCode q) he]
  exact loadTo_scalar_full hp hr

end

end

/-! ## ldg (R176, R177) -/

theorem gatherElems_eq (base : W64) (n : Nat) (ix : Vec) : gatherElems base n ix = Claims.gathered base n ix := by
  refine List.filterMap_congr fun i _ => ?_
  have hv : (lane ix i).signExtend 64 * BitVec.ofNat 64 n = BitVec.ofInt 64 ((lane ix i).toInt * n) := by
    rw [BitVec.ofInt_mul, BitVec.ofInt_natCast]
    rfl
  simp [hv]

theorem exec_ldg_entered {s : State} {q : Fin 4} {a k : BitVec 4} {sp sq j : BitVec 1} {xi : Fin 4} {x : List W32} {ps : List Piece}
    {e : Ent Vec} {rest : VFifo} {base : W64} {n : Nat} (hbase : s.cur.ld.a[a.toNat] = base) (hn : kindSize k.toNat = n)
    (hj : (⟨j.toNat, by omega⟩ : Fin 4) = xi) (he : (s.cur.ld.stream[q.val]).phase = .explicit)
    (hx : s.cur.fifo.x[xi] = e :: rest) (hready : e.ready = true) (hborn : e.born ≠ s.cur.tcc)
    (hp : Claims.gives (s.pieces .load { Claims.readAsk s.cur sp 0 n x with seqOk := fun e => sq == 0 || s.cur.gatherSeq base x e }
      (Claims.gathered base n e.val)) = some ps)
    (hseq : sq = 1 → Claims.gathered base n e.val = [] → s.cur.seqTag (spadOff base) x = true) (hr : s.cur.fifo.qv[q].length < 8) :
    exec (.ldg (BitVec.ofNat 2 q.val) a k sp sq j x) s = Claims.entered s .load
      (Claims.vectorLoad { s.cur with fifo := { s.cur.fifo with x := s.cur.fifo.x.set xi rest } } .vector q ps base) ps := by
  subst hbase hn hj
  have hempty : (sq == 1 && (Claims.gathered s.cur.ld.a[a.toNat] (kindSize k.toNat) e.val).isEmpty &&
      !s.cur.seqTag (spadOff s.cur.ld.a[a.toNat]) x) = false := by
    by_cases h1 : sq = 1 <;> by_cases h2 : Claims.gathered s.cur.ld.a[a.toNat] (kindSize k.toNat) e.val = [] <;> simp_all
  have hpop : s.cur.popX ⟨j.toNat, by omega⟩ = { s.cur with fifo := { s.cur.fifo with x := s.cur.fifo.x.set j.toNat rest } } := by
    rw [Tile.popX, hx]
    rfl
  refine load_entered ?_
  rw [vectorCode, loadGuard_pass (toNat_vectorCode q) he]
  dsimp only
  rw [hx, ControlState.headOf_cons rest hready hborn]
  dsimp only
  rw [gatherElems_eq, hempty, if_neg Bool.false_ne_true]
  refine (loadTo_vector hp hr).trans ?_
  rw [hpop]

/-! ## atr (R182) -/

section
variable {α : Type} {e f : Ent α} {now : W64}

theorem entryOf_zero (rest : List (Ent α)) (hr : e.ready = true) (hb : e.born ≠ now) : entryOf (e :: rest) 0 now = some e.val := by
  simp [entryOf, hr, hb]

theorem entryOf_one (rest : List (Ent α)) (hr : f.ready = true) (hb : f.born ≠ now) : entryOf (e :: f :: rest) 1 now = some f.val := by
  simp [entryOf, hr, hb]

end

section
variable {s : State} {q : Fin 4} {a k : BitVec 4} {sp w : BitVec 1} {i : BitVec 13} {ps : List Piece} {va : W64} {n : Nat} {e : Ent W64}
  (hva : s.cur.laAddr a i = va) (hn : Frames.atrBytes w = n)
  (he : (s.cur.ld.stream[4 + q.val]).phase = .explicit)
  (hp : Claims.gives (s.pieces .load (Claims.writeAsk sp n) [{ pos := 0, len := n, va := va }]) = some ps)
  (hr : s.cur.fifo.qs[q].length < 16) (hrange : s.anyRange ps = false) (hready : e.ready = true) (hborn : e.born ≠ s.cur.tcc)
include hva hn he hp hr hrange hready hborn

/-- An atomic but compare-and-swap takes its operand from k0. -/
theorem exec_atr_one {rest : Fifo} (hk0 : s.cur.fifo.k[0] = e :: rest) (hk : k ≠ 11) :
    exec (.atr (BitVec.ofNat 2 q.val) a k sp w i) s = Claims.entered s .load
      (Claims.scalarLoad { s.cur with fifo := { s.cur.fifo with k := s.cur.fifo.k.set 0 rest } }
        (.atomic { op := k, wide := w == 1, operand := e.val, compare := 0 }) q ps va) ps := by
  subst hva hn
  refine load_entered ?_
  dsimp only
  rw [scalarCode, loadGuard_pass (toNat_scalarCode q) he]
  refine (VectorForms.bind_of_gives hp _).trans ?_
  rw [qRoom_scalar q (toNat_scalarCode q), decide_eq_true hr, ← addLoad_scalar]
  have hcas : (k == 11) = false := beq_eq_false_iff_ne.mpr hk
  simp only [hcas, hk0, entryOf_zero rest hready hborn, hrange, Bool.false_eq_true, if_false, Bool.not_true, Option.map_some]
  rfl

/-- Compare-and-swap takes the value it compares with first (Table 7-5). -/
theorem exec_atr_two {e2 : Ent W64} {rest : Fifo} (hk0 : s.cur.fifo.k[0] = e :: e2 :: rest) (hk : k = 11) (hready2 : e2.ready = true)
    (hborn2 : e2.born ≠ s.cur.tcc) :
    exec (.atr (BitVec.ofNat 2 q.val) a k sp w i) s = Claims.entered s .load
      (Claims.scalarLoad { s.cur with fifo := { s.cur.fifo with k := s.cur.fifo.k.set 0 rest } }
        (.atomic { op := k, wide := w == 1, operand := e2.val, compare := e.val }) q ps va) ps := by
  subst hva hn
  refine load_entered ?_
  dsimp only
  rw [scalarCode, loadGuard_pass (toNat_scalarCode q) he]
  refine (VectorForms.bind_of_gives hp _).trans ?_
  rw [qRoom_scalar q (toNat_scalarCode q), decide_eq_true hr, ← addLoad_scalar]
  have hcas : (k == 11) = true := beq_iff_eq.mpr hk
  simp only [hcas, hk0, entryOf_zero (e2 :: rest) hready hborn, entryOf_one rest hready2 hborn2, hrange, Bool.false_eq_true, if_true,
    if_false, Bool.not_true]
  rfl

end

/-! ## acq and fence.l (R187) -/

section
variable {s : State} {q : Fin 4} {a k : BitVec 4} {i : BitVec 13} {ps sg : List Piece} {va : W64}
  (hva : s.cur.laAddr a i = va) (he : (s.cur.ld.stream[4 + q.val]).phase = .explicit)
  (hr : s.cur.fifo.qs[q].length < 16)
include hva he hr

theorem exec_acq_narrow (hk : k.toNat < 2)
    (hp : Claims.gives (s.pieces .load (Claims.readAsk s.cur 0 0 8 []) [{ pos := 0, len := 8, va := va }]) = some ps) :
    exec (.acq (BitVec.ofNat 2 q.val) a k i) s =
      Claims.entered s .load (Claims.scalarLoad s.cur (.acquire (k.setWidth 3)) q ps va) ps := by
  subst hva
  refine load_entered ?_
  dsimp only
  rw [scalarCode, loadGuard_pass (toNat_scalarCode q) he, decide_eq_false (Nat.not_le.mpr hk), if_neg Bool.false_ne_true,
    if_neg Bool.false_ne_true]
  exact loadTo_scalar hp hr

theorem exec_acq_wide (hk : 2 ≤ k.toNat)
    (hp : Claims.gives (s.pieces .load (Claims.readAsk s.cur 0 0 256 []) [{ pos := 0, len := 8, va := va }]) = some ps)
    (hs : Claims.gives (s.pieces .load (Claims.readAsk s.cur 0 0 128 []) [{ pos := 128, len := 128, va := va + 128 }]) = some sg) :
    exec (.acq (BitVec.ofNat 2 q.val) a k i) s =
      s.yields .load (Claims.scalarLoad s.cur (.acquire (k.setWidth 3)) q (ps ++ sg) va) := by
  subst hva
  refine load_yields ?_
  dsimp only
  rw [scalarCode, loadGuard_pass (toNat_scalarCode q) he, decide_eq_true hk, if_pos rfl, if_pos rfl]
  refine (VectorForms.bind_of_gives hp _).trans ((VectorForms.bind_of_gives hs _).trans ?_)
  rw [qRoom_scalar q (toNat_scalarCode q), decide_eq_true hr, addLoad_scalar]
  rfl

end

theorem exec_fenceL (s : State) (sc : BitVec 3) : exec (.fenceL sc) s = s.yields .load (Claims.loading s.cur (.fence sc) 0 [] 0) :=
  congrArg Host.Outcome.next (State.issueT_done (congrArg Res.done (addLoad_eq ..)))

/-! ## pref (R178) -/

section
variable {s : State} {a : BitVec 4} {i : BitVec 13} {es : List Elem} (hes : [{ pos := 0, len := 512, va := s.cur.laAddr a i }] = es)
include hes

theorem exec_pref_ok {ps : List Piece} (h : s.judgeAll s.here (Claims.readAsk s.cur 0 0 32 []) es = .ok ps) :
    exec (.pref a i) s = .next ((s.prefLines s.here ps).modTile s.here fun t => t.retire .load) := by
  subst hes
  have h : s.judgeAll s.here { sp := false, want := .read, align := 32, barrier := false, seqOk := fun _ => true, unit := 128 }
    [{ pos := 0, len := 512, va := s.cur.laAddr a i }] = .ok ps := h
  exact congrArg Host.Outcome.next (issue_done tick_load (by simp only [h]))

theorem exec_pref_bad {b c : Nat} {ps : List Piece} (h : s.judgeAll s.here (Claims.readAsk s.cur 0 0 32 []) es = .bad b c ps) :
    exec (.pref a i) s = s.yields .load s.cur.dropErrors := by
  subst hes
  have h : s.judgeAll s.here { sp := false, want := .read, align := 32, barrier := false, seqOk := fun _ => true, unit := 128 }
    [{ pos := 0, len := 512, va := s.cur.laAddr a i }] = .bad b c ps := h
  exact load_yields (by simp only [h]; rfl)

theorem exec_pref_miss {v : W64} (h : s.judgeAll s.here (Claims.readAsk s.cur 0 0 32 []) es = .miss v) :
    exec (.pref a i) s = .next (s.setTile s.here { s.cur with ld := { s.cur.ld with walk := some v } }) := by
  subst hes
  have h : s.judgeAll s.here { sp := false, want := .read, align := 32, barrier := false, seqOk := fun _ => true, unit := 128 }
    [{ pos := 0, len := 512, va := s.cur.laAddr a i }] = .miss v := h
  exact congrArg Host.Outcome.next
    (issue_stay (g := fun s => s.modTile s.here (·.askWalk .load v)) tick_load (by simp only [h]))

end

section
variable {s : State} {t : TileNo} {p : Piece} {g : Phys} (hp : p.loc = .glob g)
include hp

theorem prefLines_one : s.prefLines t [p] =
    if g.mode == modeCached && !s.atHome t g && (s.copyOf (dieOf t) g.line).isNone then
      (s.askLine .prefetch (s.tile t).ctx (dieOf t) g true).1
    else s := by
  simp [State.prefLines, hp]

/-- A line of a page that is not CACHED, at home, or held by the die's L2 is not asked for. -/
theorem prefLines_here (h : g.mode ≠ modeCached ∨ s.atHome t g = true ∨ (s.copyOf (dieOf t) g.line).isSome = true) :
    s.prefLines t [p] = s := by
  rw [prefLines_one hp, if_neg]
  obtain h | h | h := h
  · simp [h]
  · simp [h]
  · simp [Option.isSome_iff_ne_none.mp h]

theorem prefLines_away (hm : g.mode = modeCached) (hh : s.atHome t g = false) (hc : s.copyOf (dieOf t) g.line = none) :
    s.prefLines t [p] = (s.askLine .prefetch (s.tile t).ctx (dieOf t) g true).1 := by
  rw [prefLines_one hp, if_pos (by simp [hm, hh, hc])]

end

/-- A line's address lies within its home. -/
theorem line_pa (pa : BitVec 52) : (BitVec.ofNat 52 (pa.toNat / 128 * 128)).toNat = pa.toNat / 128 * 128 := by
  rw [BitVec.toNat_ofNat, Nat.mod_eq_of_lt (Nat.lt_of_le_of_lt (Nat.div_mul_le_self _ _) pa.isLt)]

/-! ## The obligation -/

/-- Settles O26, form by form. -/
theorem loadsReserveAnEntry : Obligations.LoadsReserveAnEntry := by
  unfold Obligations.LoadsReserveAnEntry
  refine ⟨fun s q a sp sq i x ps => ⟨fun he => ?ldState, fun he hp => ⟨exec_ld_entered rfl hp he, exec_ld_full rfl hp he⟩⟩,
    fun s q a k sp sq i x ps => ⟨fun he => ?ldwState, fun he hp => ⟨exec_ldw_entered rfl rfl hp he, exec_ldw_full rfl rfl hp he⟩⟩,
    fun s q a k sp sq j x ps e rest => ?ldg, fun s q a k sp w i ps e rest => ?atr,
    fun s q a k i ps => ?acq, fun s sc a i => ⟨exec_fenceL s sc, fun ps => exec_pref_ok rfl, fun b c ps => exec_pref_bad rfl,
      fun v => exec_pref_miss rfl⟩, fun s t p g rest hp => ⟨rfl, prefLines_here hp, fun hm hh hc => ?lines⟩⟩
  case ldState => exact load_state_fault ((congrArg BitVec.toNat (vectorCode q)).trans (toNat_vectorCode q)) he
  case ldwState => exact load_state_fault ((congrArg BitVec.toNat (scalarCode q)).trans (toNat_scalarCode q)) he
  case ldg =>
    intro xi base he hx hready hborn es ask hp hseq hr
    exact exec_ldg_entered rfl rfl (Fin.ext (indexCode j)) he hx hready hborn hp hseq hr
  case atr =>
    intro va n i he hp hr hrange hk0 hready hborn
    refine ⟨fun hk => exec_atr_one rfl (Frames.atrBytes_eq w) he hp hr hrange hready hborn hk0 hk, fun e2 rest2 hk hrest hready2 hborn2 => ?_⟩
    exact exec_atr_two rfl (Frames.atrBytes_eq w) he hp hr hrange hready hborn (hrest ▸ hk0) hk hready2 hborn2
  case acq =>
    intro va flag i he hr
    exact ⟨exec_acq_narrow rfl he hr, fun sg hk => exec_acq_wide rfl he hr hk⟩
  case lines =>
    rw [prefLines_away hp hm hh hc]
    exact ⟨_, rfl, rfl, rfl, by simp [hm], rfl, rfl, line_pa g.pa, rfl, rfl, rfl⟩

end Sys2Proof.LoadForms

/-!
PROOFS of the family 07_streams.md: the oldest load of a tile reads its bytes and fills its entry (O27).
-/
namespace Sys2Proof.Delivery
open Sys2Proof Sys2Proof.Machine Sys2Proof.LoadForms

/-! ## Filling a reserved entry -/

theorem fillEnt_eq {α : Type} (l : List (Ent α)) (tag now : W64) (v : α) : fillEnt l tag now v =
    l.map fun e => if e.ready = false ∧ e.tag = tag then { e with val := v, ready := true, born := now } else e := by
  simp [fillEnt]

section
variable {t : Tile} {b : BitVec 3} (q : Fin 4) (tag : W64) (v : Vec)

theorem qFill_vector (hb : b.toNat = q) : t.qFill b tag v = { t with fifo := { t.fifo with
    qv := t.fifo.qv.set q (t.fifo.qv[q].map fun e =>
      if e.ready = false ∧ e.tag = tag then { e with val := v, ready := true, born := t.tcc - 1 } else e) } } := by
  obtain ⟨j, hj⟩ := q
  obtain rfl : b.toNat = j := hb
  rw [Tile.qFill, dif_pos hj, fillEnt_eq]
  rfl

theorem qFill_scalar (hb : b.toNat = 4 + q) : t.qFill b tag v = { t with fifo := { t.fifo with
    qs := t.fifo.qs.set q (t.fifo.qs[q].map fun e =>
      if e.ready = false ∧ e.tag = tag then { e with val := v.setWidth 64, ready := true, born := t.tcc - 1 } else e) } } := by
  obtain ⟨j, hj⟩ := q
  obtain rfl : j = b.toNat - 4 := by dsimp only at hb; omega
  rw [Tile.qFill, dif_neg (by omega), fillEnt_eq]
  rfl

end

/-! ## Bytes and values -/

theorem putBytes_first {n m : Nat} (h : m < 256 ^ n) : putBytes 0 0 n m = BitVec.ofNat 4096 m := by
  have h : m < 2 ^ (8 * n) := by rwa [Nat.pow_mul]
  simp [putBytes, Nat.mod_eq_of_lt h]

theorem rdN_lt (s : State) (c pkg : BitVec 6) (die : BitVec 3) (pa n : Nat) : s.rdN c pkg die pa n < 256 ^ n := by
  induction n generalizing pa with
  | zero => simp [State.rdN]
  | succ n ih =>
    rw [State.rdN, Nat.pow_succ']
    have hrest := ih (pa + 1)
    have hbyte := (s.rd1 c pkg die pa).isLt
    omega

/-- At most 8 bytes stand as they are in the data of an access. -/
theorem toNat_data {n m : Nat} (hn : n ≤ 8) (h : m < 256 ^ n) : (BitVec.ofNat 4096 m).toNat = m := by
  rw [BitVec.toNat_ofNat, Nat.mod_eq_of_lt]
  calc m < 256 ^ n := h
    _ ≤ 256 ^ 8 := Nat.pow_le_pow_right (by decide) hn
    _ = 2 ^ 64 := by norm_num
    _ < 2 ^ 4096 := Nat.pow_lt_pow_right (by decide) (by decide)

theorem kindSize_le (kind : Nat) : kindSize kind ≤ 8 := by
  unfold kindSize
  split <;> decide

theorem setWidth_entry (x : W64) : (x.setWidth 4096).setWidth 64 = x := by
  rw [BitVec.setWidth_setWidth_of_le x (by decide), BitVec.setWidth_eq]

/-- A scalar load delivers the bytes of its kind, extended (R173). -/
theorem value_scalar {kind m : Nat} (hk : kind < 7) (h : m < 256 ^ kindSize kind) :
    ((LoadKind.scalar kind).value (BitVec.ofNat 4096 m)).setWidth 64 = Claims.extended kind m := by
  have hlt : m < 2 ^ (8 * kindSize kind) := by rwa [Nat.pow_mul]
  have hfld : fld (BitVec.ofNat 4096 m).toNat 0 (8 * kindSize kind) = m := by
    rw [toNat_data (kindSize_le kind) h, fld, Nat.pow_zero, Nat.div_one, Nat.mod_eq_of_lt hlt]
  rw [LoadKind.value, hfld, setWidth_entry, ControlState.extendKind_eq hk h]

theorem size_le (a : Atomic) : a.size ≤ 8 := by
  unfold Atomic.size
  split <;> decide

/-- An atomic delivers the old bytes. -/
theorem value_atomic {a : Atomic} {m : Nat} (h : m < 256 ^ a.size) :
    ((LoadKind.atomic a).value (BitVec.ofNat 4096 m)).setWidth 64 = BitVec.ofNat 64 m := by
  have hlt : m < 2 ^ (8 * a.size) := by rwa [Nat.pow_mul]
  have h64 : m < 2 ^ 64 := hlt.trans_le (Nat.pow_le_pow_right (by decide) (by have := size_le a; omega))
  apply BitVec.eq_of_toNat_eq
  rw [LoadKind.value, BitVec.toNat_setWidth, BitVec.toNat_setWidth, BitVec.toNat_setWidth, toNat_data (size_le a) h, Nat.mod_eq_of_lt hlt,
    BitVec.toNat_ofNat, Nat.mod_eq_of_lt (h64.trans (Nat.pow_lt_pow_right (by decide) (by decide)))]

/-! ## Pieces of the scratchpad (R33, R182) -/

theorem spadLoads_cons (t : Tile) (kind : LoadKind) (p : Piece) (rest : List Piece) (d : Vec) :
    t.spadLoads kind (p :: rest) d = (t.spadLoads kind [p] d).1.spadLoads kind rest (t.spadLoads kind [p] d).2 := by
  cases hp : p.loc <;> simp [Tile.spadLoads, hp]

theorem spadLoad_read {kind : LoadKind} (hk : ∀ a, kind ≠ .atomic a) (t : Tile) (off n : Nat) :
    t.spadLoad kind off n = (t, t.spad0.readN off n) := by
  cases kind with
  | atomic a => exact absurd rfl (hk a)
  | _ => rfl

theorem spadLoads_read {kind : LoadKind} (hk : ∀ a, kind ≠ .atomic a) (t : Tile) (off n : Nat) (va : W64) :
    t.spadLoads kind [{ pos := 0, len := n, loc := .spad off, va := va }] 0 = (t, BitVec.ofNat 4096 (t.spad0.readN off n)) := by
  simp only [Tile.spadLoads, spadLoad_read hk, putBytes_first (t.spad0.readN_lt off n)]

theorem spadLoads_atomic (t : Tile) (a : Atomic) (off : Nat) (va : W64) :
    t.spadLoads (.atomic a) [{ pos := 0, len := a.size, loc := .spad off, va := va }] 0 =
      ({ t with spad := t.spad.writeN off a.size (a.apply (t.spad.readN off a.size)) }, BitVec.ofNat 4096 (t.spad.readN off a.size)) := by
  simp only [Tile.spadLoads, Tile.spadLoad, putBytes_first (t.spad.readN_lt off a.size)]

/-! ## The oldest load -/

theorem pendingSigs_load_nil {t : Tile} (h : t.ld.sigs = []) : t.pendingSigs .load = t := by
  simp only [Tile.pendingSigs, h, performSigs]
  rw [← h]

section
variable {s s' : State} {t : TileNo} {l : PendingLoad} {rest : List PendingLoad} {d : Vec}

/-- A delivered load leaves the list of those in flight, and its entry holds its value. -/
theorem finishLoad_eq (hp : (s.tile t).ld.pending = l :: rest) (hs : (s.tile t).ld.sigs = []) (hf : ∀ sc, l.kind ≠ .fence sc)
    (ha : ∀ sc, l.kind ≠ .acquire sc) : s.finishLoad t l d = s.setTile t
      (({ (s.tile t) with ld := { (s.tile t).ld with pending := rest } } : Tile).qFill l.q l.tag (l.kind.value d)) := by
  have hsigs : ∀ v, ((({ (s.tile t) with ld := { (s.tile t).ld with pending := rest } } : Tile).qFill l.q l.tag v).ld.sigs) = [] := by
    intro v
    unfold Tile.qFill
    split <;> exact hs
  unfold State.finishLoad
  cases hk : l.kind with
  | fence sc => exact absurd hk (hf sc)
  | acquire sc => exact absurd hk (ha sc)
  | _ => simp only [State.loadCopies, State.modTile_eq, hp, List.tail_cons, pendingSigs_load_nil (hsigs _)]

variable (hp : (s.tile t).ld.pending = l :: rest)
include hp

theorem loadDeliver_ready (hl : l.sent = true) (hw : l.waits = []) : exec (.loadDeliver t) s = .next (s.finishLoad t l l.data) := by
  change execLoadDeliver t s = _
  simp [execLoadDeliver, hp, hl, hw]

variable (hl : l.sent = false)
include hl

theorem loadDeliver_hold (h : s.startLoad t l 0 l.pieces l.data [] = .hold) : exec (.loadDeliver t) s = .next s := by
  change execLoadDeliver t s = _
  simp [execLoadDeliver, hp, hl, h]

theorem loadDeliver_here (h : s.startLoad t l 0 l.pieces l.data [] = .ok (s', d, [])) :
    exec (.loadDeliver t) s = .next (s'.finishLoad t l d) := by
  change execLoadDeliver t s = _
  simp [execLoadDeliver, hp, hl, h]

theorem loadDeliver_sent {w : Nat} {ws : List Nat} (h : s.startLoad t l 0 l.pieces l.data [] = .ok (s', d, w :: ws)) :
    exec (.loadDeliver t) s = .next (s'.modTile t fun x =>
      { x with ld := { x.ld with pending := { l with sent := true, data := d, waits := w :: ws } :: x.ld.pending.tail } }) := by
  change execLoadDeliver t s = _
  simp [execLoadDeliver, hp, hl, h]

end

/-! ## Where a piece is read -/

section
variable {s s' : State} {t : TileNo} {l : PendingLoad} {i : Nat} {p : Piece} {d : Vec} {ws : List Nat}

theorem startLoad_hold (h : s.loadPiece t l.kind p = .hold) : s.startLoad t l i [p] d ws = .hold := by
  rw [State.startLoad, h]

theorem startLoad_here {m : Nat} (h : s.loadPiece t l.kind p = .ok (s', some m)) :
    s.startLoad t l i [p] d ws = .ok (s', putBytes d p.pos p.len m, ws) := by
  rw [State.startLoad, h]
  rfl

theorem startLoad_ask (h : s.loadPiece t l.kind p = .ok (s', none)) :
    s.startLoad t l i [p] d ws = .ok ((s'.askPiece t l i p).1, d, ws ++ (s'.askPiece t l i p).2) := by
  rw [State.startLoad, h]
  rfl

variable {kind : LoadKind} {off : Nat} (hloc : p.loc = .spad off)
include hloc

theorem loadPiece_claimed (h : (s.tile t).claimed off p.len = true) : s.loadPiece t kind p = .hold := by
  simp [State.loadPiece, hloc, h]

theorem loadPiece_spad (h : (s.tile t).claimed off p.len = false) : s.loadPiece t kind p =
    .ok (s.setTile t ((s.tile t).spadLoad kind off p.len).1, some ((s.tile t).spadLoad kind off p.len).2) := by
  simp [State.loadPiece, hloc, h]

end

section
variable {s : State} {t : TileNo} {p : Piece} {g : Phys} {kind : LoadKind}

theorem atHome_true (hpkg : g.pkg = s.pkg) (hdie : g.die.toNat = dieOf t) : s.atHome t g = true := by
  simp [State.atHome, hpkg, hdie]

theorem atHome_false (h : g.pkg ≠ s.pkg ∨ g.die.toNat ≠ dieOf t) : s.atHome t g = false := by
  obtain h | h := h <;> simp [State.atHome, h]

/-- A read at a home of this package that nothing stands in the way of. -/
theorem homeOp_read {c : BitVec 6} {n : Nat} (hpkg : g.pkg = s.pkg) (hwin : windowTile g.die g.pa.toNat = none)
    (hmem : s.inMemory g.pkg g.die g.pa.toNat n = true) (hcmp : s.frameCmp g.pkg g.die g.pa.toNat = false)
    (hheld : s.frameHeld (physAt g.pkg g.die g.pa.toNat) = false) :
    s.homeOp c g.pkg g.die g.pa.toNat (.read n) = .ok (s, s.rdN c g.pkg g.die g.pa.toNat n) := by
  have hne : (g.pkg != s.pkg) = false := by simp [hpkg]
  simp only [State.homeOp, hne, hwin, HomeOp.size, hmem, hcmp, hheld, HomeOp.writes]
  rfl

variable (hloc : p.loc = .glob g) (hmode : g.mode ≠ modeCached)
include hloc hmode

theorem loadPiece_home {n : Nat} (hpkg : g.pkg = s.pkg) (hdie : g.die.toNat = dieOf t) (hwin : windowTile g.die g.pa.toNat = none)
    (hmem : s.inMemory g.pkg g.die g.pa.toNat p.len = true) (hcmp : s.frameCmp g.pkg g.die g.pa.toNat = false)
    (hheld : s.frameHeld (physAt g.pkg g.die g.pa.toNat) = false) :
    s.loadPiece t (.scalar n) p = .ok (s, some (s.rdN (s.tile t).ctx g.pkg g.die g.pa.toNat p.len)) := by
  simp [State.loadPiece, hloc, hmode, atHome_true hpkg hdie, LoadKind.op, homeOp_read hpkg hwin hmem hcmp hheld]

theorem loadPiece_away {n : Nat} (h : g.pkg ≠ s.pkg ∨ g.die.toNat ≠ dieOf t) : s.loadPiece t (.scalar n) p = .ok (s, none) := by
  simp [State.loadPiece, hloc, hmode, atHome_false h]

end

/-! ## The loads of the statement -/

section
variable {s : State} {t : TileNo} {l : PendingLoad} {rest : List PendingLoad} {q : Fin 4}
  (hp : (s.tile t).ld.pending = l :: rest) (hs : (s.tile t).ld.sigs = [])
include hp hs

theorem finishLoad_vector (hk : l.kind = .vector) (hq : l.q = BitVec.ofNat 3 q.val) (d : Vec) :
    s.finishLoad t l d = s.setTile t { (s.tile t) with
      ld := { (s.tile t).ld with pending := rest }
      fifo := { (s.tile t).fifo with qv := (s.tile t).fifo.qv.set q ((s.tile t).fifo.qv[q].map fun e =>
        if e.ready = false ∧ e.tag = l.tag then { e with val := d, ready := true, born := (s.tile t).tcc - 1 } else e) } } := by
  rw [finishLoad_eq hp hs (by simp [hk]) (by simp [hk]), qFill_vector q _ _ (hq ▸ toNat_vectorCode q), hk]
  rfl

theorem finishLoad_scalar (hf : ∀ sc, l.kind ≠ .fence sc) (ha : ∀ sc, l.kind ≠ .acquire sc) (hq : l.q = BitVec.ofNat 3 (4 + q.val)) (d : Vec) :
    s.finishLoad t l d = s.setTile t { (s.tile t) with
      ld := { (s.tile t).ld with pending := rest }
      fifo := { (s.tile t).fifo with qs := (s.tile t).fifo.qs.set q ((s.tile t).fifo.qs[q].map fun e =>
        if e.ready = false ∧ e.tag = l.tag then
          { e with val := (l.kind.value d).setWidth 64, ready := true, born := (s.tile t).tcc - 1 } else e) } } := by
  rw [finishLoad_eq hp hs hf ha, qFill_scalar q _ _ (hq ▸ toNat_scalarCode q)]

omit hs in
/-- A load whose only piece is `p`, at the start of its data, is read there. -/
theorem loadDeliver_one {p : Piece} {s' : State} {m : Nat} (hl : l.sent = false) (hdata : l.data = 0) (hpieces : l.pieces = [p]) (hpos : p.pos = 0)
    (hm : m < 256 ^ p.len) (h : s.loadPiece t l.kind p = .ok (s', some m)) :
    exec (.loadDeliver t) s = .next (s'.finishLoad t l (BitVec.ofNat 4096 m)) := by
  refine loadDeliver_here hp hl ?_
  rw [hpieces, startLoad_here h, hdata, hpos, putBytes_first hm]

end

/-! ## Asking another die (R174) -/

theorem askPiece_line {s : State} {t : TileNo} {l : PendingLoad} {i n : Nat} {p : Piece} {g : Phys} (hk : l.kind = .scalar n)
    (hloc : p.loc = .glob g) : s.askPiece t l i p =
      ((s.askLine (.loadPiece t l.seq i) (s.tile t).ctx (dieOf t) g true).1, [s.remote.nextId]) := by
  rw [State.askPiece, hloc, hk]
  rfl

/-! ## Values of atomics (Table 7-5) -/

theorem toNat_mod_word (x : W64) : x.toNat % 18446744073709551616 = x.toNat := Nat.mod_eq_of_lt x.isLt

/-- Of the old number an atomic of 8 bytes reads a word. -/
theorem apply_toNat {a : Atomic} (hw : a.wide = true) (m : Nat) : a.apply m = a.apply (BitVec.ofNat 64 m).toNat := by
  simp [Atomic.apply, hw]

/-- Settles O27: where the oldest load reads its piece, and what its entry then holds. -/
theorem loadsDeliverInOrder : Obligations.LoadsDeliverInOrder := by
  unfold Obligations.LoadsDeliverInOrder
  refine ⟨fun s t l rest off q hp hs hl hdata hk hq hpieces => ⟨fun hc => ?held, fun hc => ?read⟩,
    fun s t l rest q hp hs hl hw hk hq => ?arrived, fun t kind off n va _ hk => spadLoads_read hk t off n va,
    fun t a off va => spadLoads_atomic t a off va, spadLoads_cons,
    fun s t l rest kind p g q hp hs hl hdata hk hkind hq hpieces hpos hlen hloc hmode => ⟨fun hpkg hdie hwin hmem hcmp hheld => ?home,
      fun haway => ?away⟩,
    fun s t l rest a off q hp hs hl hdata hk hq hpieces => ?atomic, fun a m hw => ?values⟩
  case held =>
    refine loadDeliver_hold hp hl ?_
    rw [hpieces]
    exact startLoad_hold (loadPiece_claimed rfl hc)
  case read =>
    have hpiece := loadPiece_spad (kind := l.kind) (p := { pos := 0, len := 512, loc := .spad off, va := l.va }) rfl hc
    rw [hk, spadLoad_read (by simp), State.setTile_tile] at hpiece
    rw [loadDeliver_one hp hl hdata hpieces rfl (Memory.readN_lt _ _ _) (hk ▸ hpiece), finishLoad_vector hp hs hk hq]
  case arrived => rw [loadDeliver_ready hp hl hw, finishLoad_vector hp hs hk hq]
  case home =>
    have hpiece := loadPiece_home (n := kind) hloc hmode hpkg hdie hwin hmem hcmp hheld
    have hv := rdN_lt s (s.tile t).ctx g.pkg g.die g.pa.toNat p.len
    rw [loadDeliver_one hp hl hdata hpieces hpos hv (hk ▸ hpiece),
      finishLoad_scalar hp hs (by simp [hk]) (by simp [hk]) hq, hk, value_scalar hkind (hlen ▸ hv)]
  case away =>
    have hpiece := loadPiece_away (n := kind) hloc hmode haway
    have hask := askPiece_line (s := s) (t := t) (i := 0) hk hloc
    have hstart : s.startLoad t l 0 l.pieces l.data [] = .ok ((s.askPiece t l 0 p).1, l.data, [s.remote.nextId]) := by
      rw [hpieces, startLoad_ask (hk ▸ hpiece), hask]
      rfl
    refine ⟨_, loadDeliver_sent hp hl hstart, by rw [hask]; rfl, ⟨_, by rw [hask]; rfl, rfl, rfl, rfl, rfl, rfl, rfl, rfl, line_pa g.pa, rfl⟩, ?_, ?_⟩
    · rw [hask, State.modTile_eq, State.tile_setTile_same]
      exact congrArg (_ :: ·) (congrArg List.tail hp)
    · rw [hask, State.modTile_eq, State.tile_setTile_same]
      rfl
  case atomic =>
    intro u old hc
    have hpiece := loadPiece_spad (kind := l.kind) (p := { pos := 0, len := a.size, loc := .spad off, va := l.va }) rfl hc
    have hnew := State.tile_setTile_same s t { u with spad := u.spad.writeN off a.size (a.apply old) }
    rw [loadDeliver_one hp hl hdata hpieces rfl (m := old) (Memory.readN_lt _ _ _) (by rw [hpiece, hk]; rfl)]
    change Host.Outcome.next ((s.setTile t { u with spad := u.spad.writeN off a.size (a.apply old) }).finishLoad t l _) = _
    rw [finishLoad_scalar (l := l) (rest := rest) (by rw [hnew]; exact hp) (by rw [hnew]; exact hs) (by simp [hk]) (by simp [hk]) hq, hnew, hk,
      value_atomic (Memory.readN_lt _ _ _), State.setTile_setTile]
  case values =>
    rw [apply_toNat hw]
    generalize BitVec.ofNat 64 m = x
    obtain ⟨op, wide, v, c⟩ := a
    obtain rfl : wide = true := hw
    refine ⟨?add, ?umax, ?umin, ?smax, ?smin, ?and, ?or, ?xor, ?swap, ?cas⟩
    all_goals
      rintro rfl
      simp [Atomic.apply, toNat_mod_word, ← BitVec.toNat_inj]

end Sys2Proof.Delivery

/-!
PROOFS of the family 07_streams.md: stores, scatters, atomics and barm take their data (O28).
-/
namespace Sys2Proof.StoreForms
open Sys2Proof Sys2Proof.Machine Sys2Proof.AccessForms

/-! ## Codes of output queues -/

theorem oVecCode (o : Fin 4) : oVec (BitVec.ofNat 3 o.val) = o := by revert o; decide

theorem oScaCode (o : Fin 2) : oSca (BitVec.ofNat 3 (4 + o.val)) = o := by revert o; decide

/-! ## A store enters its strand (R33, R242) -/

theorem st_spadOp (t : Tile) (off : Nat) (op : HomeOp) : (t.spadOp off op).st = t.st := by
  unfold Tile.spadOp
  split <;> rfl

theorem st_spadStores (t : Tile) (k : StoreKind) (d : Vec) (ps : List Piece) : (t.spadStores k d ps).st = t.st := by
  induction ps generalizing t with
  | nil => rfl
  | cons p rest ih =>
    rw [Tile.spadStores, ih]
    split
    · exact st_spadOp ..
    · rfl

/-- No piece of scratchpad lies in a MIGRATE page. -/
theorem countPieces_allSpad {ps : List Piece} (h : allSpad ps = true) (s : State) (t : TileNo) : s.countPieces t ps = s := by
  have hall : ∀ p ∈ ps, ∃ off, p.loc = .spad off := by
    intro p hp
    have hloc := List.all_eq_true.mp (Bool.and_eq_true_iff.mp h).2 p hp
    cases hl : p.loc with
    | spad off => exact ⟨off, rfl⟩
    | glob g => simp [hl] at hloc
  clear h
  induction ps with
  | nil => rfl
  | cons p rest ih =>
    obtain ⟨off, hp⟩ := hall p (List.mem_cons_self ..)
    rw [State.countPieces, List.foldl_cons, hp]
    exact ih fun q hq => hall q (List.mem_cons_of_mem _ hq)

section
variable {s : State} {k : StoreKind} {ps : List Piece} {d : Vec} {va : W64} {pop : Tile → Tile}

theorem store_entered {f : State → Res State} {x : Tile} (h : f s = .done ((s.setTile s.here x).countPieces s.here ps)) :
    Host.Outcome.next (s.issue .store f) = Claims.entered s .store x ps :=
  congrArg Host.Outcome.next (issue_done tick_store h)

theorem store_held {f : State → Res State} (h : f s = .hold) : (.next (s.issue .store f) : Out) = .next s :=
  congrArg Host.Outcome.next (issue_hold tick_store h)

/-- Away from the snapshot ranges a store is in flight, or performed, as its pieces say; a pop leaves the strand as it is. -/
theorem storeOut_entered (hrange : s.anyRange ps = false) (hst : (pop s.cur).st = s.cur.st)
    (hpc : (pop s.cur).pcOf .store = s.cur.pcOf .store) :
    s.storeOut k ps d va pop = .done ((s.setTile s.here (Claims.storing (pop s.cur) k ps d va)).countPieces s.here ps) := by
  have hcond : (allSpad ps && s.cur.st.pending.isEmpty) = true ↔ allSpad ps = true ∧ (pop s.cur).st.pending = [] := by
    rw [hst, Bool.and_eq_true, List.isEmpty_iff]
  simp only [State.storeOut, hrange, Bool.false_eq_true, if_false, hcond]
  unfold Claims.storing
  split
  next h =>
    have hcount : ((pop s.cur).spadStores k d ps).countStore =
        { ((pop s.cur).spadStores k d ps) with st := { (pop s.cur).st with seq := (pop s.cur).st.seq + 1 } } := by
      rw [Tile.countStore, st_spadStores]
    rw [hcount, countPieces_allSpad h.1]
  next h => rw [← hpc]; rfl

variable (hrange : s.anyRange ps = true) (hpending : s.cur.st.pending = []) (hheld : s.anyHeld ps = false)
include hrange hpending hheld

/-- A store into a snapshot range is judged whole (R378, R440). -/
theorem storeOut_refused (h : s.snapLines (s.pieceLines ps) = .refuse) :
    s.storeOut k ps d va pop = .trap { code := 0x14, faddr := BitVec.ofNat 64 ((s.firstShadow ps).getD va.toNat) } := by
  simp [State.storeOut, hrange, hpending, hheld, h, cShadow]

theorem storeOut_now {s1 s2 : State} (h : s.snapLines (s.pieceLines ps) = .ok s1)
    (hnow : (s1.modTile s.here pop).storeNow s.here k d ps = some s2) :
    s.storeOut k ps d va pop = .done ((s2.modTile s.here (·.countStore)).countPieces s.here ps) := by
  simp [State.storeOut, hrange, hpending, hheld, h, hnow]

end

/-! ## st (R179) -/

section
variable {s : State} {o3 : BitVec 3} {o : Fin 4} {w : BitVec 4} {sp : BitVec 1} {i : BitVec 13} {ps : List Piece} {va : W64}
  {e : Ent Vec} {rest : VFifo} (ho : oVec o3 = o) (hva : s.cur.saAddr w i = va)
  (hp : Claims.gives (s.pieces .store (Claims.writeAsk sp 32) [{ pos := 0, len := 512, va := va }]) = some ps)
include ho hva hp

theorem exec_st_empty (hq : s.cur.fifo.ov[o] = []) : exec (.st o3 w sp i) s = .next s := by
  subst ho hva
  refine store_held ((VectorForms.bind_of_gives hp _).trans ?_)
  rw [hq]
  rfl

variable (hq : s.cur.fifo.ov[o] = e :: rest) (hready : e.ready = true) (hborn : e.born ≠ s.cur.tcc)
include hq hready hborn

/-- With its data at the head of o[o] a store goes on its way. -/
theorem exec_st_eq : exec (.st o3 w sp i) s = .next (s.issue .store fun s => s.storeOut .plain ps e.val va (·.popO o)) := by
  subst ho hva
  refine congrArg Host.Outcome.next (issue_congr tick_store ((VectorForms.bind_of_gives hp _).trans ?_))
  rw [hq, ControlState.headOf_cons rest hready hborn]

theorem exec_st_entered (hrange : s.anyRange ps = false) :
    exec (.st o3 w sp i) s = Claims.entered s .store (Claims.vectorStore s.cur o ps e.val va) ps :=
  (exec_st_eq ho hva hp hq hready hborn).trans (store_entered (storeOut_entered hrange rfl rfl))

variable (hrange : s.anyRange ps = true) (hpending : s.cur.st.pending = []) (hheld : s.anyHeld ps = false)
include hrange hpending hheld

theorem exec_st_refused (h : s.snapLines (s.pieceLines ps) = .refuse) :
    exec (.st o3 w sp i) s = Claims.faults s .store 0x14 (BitVec.ofNat 64 ((s.firstShadow ps).getD va.toNat)) :=
  (exec_st_eq ho hva hp hq hready hborn).trans
    (congrArg Host.Outcome.next (issue_trap tick_store (storeOut_refused hrange hpending hheld h)))

/-- Readying lines leaves the tile as it is, so the entry that is popped is the one that was read. -/
theorem exec_st_now {s1 s2 : State} (h : s.snapLines (s.pieceLines ps) = .ok s1)
    (hnow : (s1.modTile s.here fun t => { t with fifo := { t.fifo with ov := t.fifo.ov.set o rest } }).storeNow s.here .plain e.val ps =
      some s2) :
    exec (.st o3 w sp i) s = .next (((s2.modTile s.here fun t => { t with st := { t.st with seq := t.st.seq + 1 } }).countPieces
      s.here ps).modTile s.here fun t => t.retire .store) := by
  have hpop : s1.modTile s.here (·.popO o) = s1.modTile s.here fun t => { t with fifo := { t.fifo with ov := t.fifo.ov.set o rest } } := by
    obtain ⟨x, rfl⟩ := Frames.snapLines_eq h
    have hq : (State.tile { s with store := x } s.here).fifo.ov[o] = e :: rest := hq
    simp only [State.modTile_eq, Tile.popO, hq, List.tail_cons]
  exact (exec_st_eq ho hva hp hq hready hborn).trans
    (congrArg Host.Outcome.next (issue_done tick_store (storeOut_now hrange hpending hheld h (hpop ▸ hnow))))

end

/-! ## Scalar stores and atomics (R179, R182, R189, R190) -/

section
variable {s : State} {k : StoreKind} {agg : Option (Option (BitVec 4) × Bool)} {ps : List Piece} {v va : W64} {o3 : BitVec 3}

theorem scalarOut_plain (h : (agg.bind fun g => ps.head?.bind fun p => aggKey s s.here p g.1 g.2) = none) :
    s.scalarOut k agg ps v va o3 = s.storeOut k ps (v.setWidth 4096) va (·.popOs (oSca o3)) := by
  simp only [State.scalarOut, h]

theorem scalarOut_aggregated {key : AggKey} {pa : BitVec 16}
    (h : (agg.bind fun g => ps.head?.bind fun p => aggKey s s.here p g.1 g.2) = some (key, pa)) (hfree : s.aggQueued s.here = false) :
    s.scalarOut k agg ps v va o3 = .done ((s.modTile s.here (·.popOs (oSca o3))).aggregate s.here key pa v) := by
  simp only [State.scalarOut, h, hfree, Bool.false_eq_true, if_false]

end

theorem bind_head_none {α β : Type} {l : List α} {f : α → Option β} (h : ∀ a rest, l = a :: rest → f a = none) : l.head?.bind f = none := by
  cases l with
  | nil => rfl
  | cons a rest => exact h a rest rfl

section
variable {s : State} {o3 : BitVec 3} {o : Fin 2} {w k : BitVec 4} {sp : BitVec 1} {i : BitVec 13} {ps : List Piece} {va : W64} {n : Nat}
  {e : Ent W64} {rest : Fifo} (ho : oSca o3 = o) (hva : s.cur.saAddr w i = va)
  (hp : Claims.gives (s.pieces .store (Claims.writeAsk sp n) [{ pos := 0, len := n, va := va }]) = some ps)
  (hq : s.cur.fifo.os[o] = e :: rest) (hready : e.ready = true) (hborn : e.born ≠ s.cur.tcc)
include ho hva hp hq hready hborn

theorem exec_stw_eq (hn : kindSize k.toNat = n) : exec (.stw o3 w k sp i) s = .next (s.issue .store fun s =>
    s.scalarOut .plain (if 4 ≤ k.toNat then some (none, n == 8) else none) ps e.val va o3) := by
  subst ho hva hn
  refine congrArg Host.Outcome.next (issue_congr tick_store ((VectorForms.bind_of_gives hp _).trans ?_))
  rw [hq, ControlState.headOf_cons rest hready hborn]

theorem exec_stw_entered (hn : kindSize k.toNat = n)
    (hagg : k.toNat < 4 ∨ ∀ p rest, ps = p :: rest → aggKey s s.here p none (n == 8) = none) (hrange : s.anyRange ps = false) :
    exec (.stw o3 w k sp i) s = Claims.entered s .store (Claims.scalarStore s.cur .plain o ps (e.val.setWidth 4096) va) ps := by
  rw [exec_stw_eq ho hva hp hq hready hborn hn]
  refine store_entered ((scalarOut_plain ?_).trans ?_)
  · obtain h | h := hagg
    · rw [if_neg (Nat.not_le.mpr h)]
      rfl
    · split
      · exact bind_head_none h
      · rfl
  · rw [ho]
    exact storeOut_entered hrange rfl rfl

/-- The state after an aggregated store: its entry popped, and its element on its way into the Bellows. -/
theorem exec_stw_aggregated (hn : kindSize k.toNat = n) {p : Piece} {key : AggKey} {pa : BitVec 16} (hk : 4 ≤ k.toNat) (hps : ps = [p])
    (hagg : aggKey s s.here p none (n == 8) = some (key, pa)) (hfree : s.aggQueued s.here = false) : exec (.stw o3 w k sp i) s =
      .next (((s.modTile s.here (·.popOs o)).aggregate s.here key pa e.val).modTile s.here fun t => t.retire .store) := by
  rw [exec_stw_eq ho hva hp hq hready hborn hn]
  subst ho
  refine congrArg Host.Outcome.next (issue_done tick_store (scalarOut_aggregated ?_ hfree))
  rw [if_pos hk, hps]
  exact hagg

theorem exec_atn_entered {wd : BitVec 1} (hn : Frames.atrBytes wd = n) (hrange : s.anyRange ps = false)
    (hagg : ∀ p rest, ps = p :: rest → aggKey s s.here p (some k) (wd == 1) = none) :
    exec (.atn o3 w k sp wd i) s = Claims.entered s .store
      (Claims.scalarStore s.cur (.atomic { op := k, wide := wd == 1, operand := e.val, compare := 0 }) o ps (e.val.setWidth 4096) va) ps := by
  subst ho hva hn
  refine store_entered ((VectorForms.bind_of_gives hp _).trans ?_)
  rw [hq, ControlState.headOf_cons rest hready hborn]
  exact (scalarOut_plain (agg := some (some k, wd == 1)) (show ps.head?.bind _ = none from bind_head_none hagg)).trans (storeOut_entered hrange rfl rfl)

end

theorem bellows_setBellows (s : State) (d : Fin 4) (b : Bellows) : (s.setBellows d b).bellows d = b := by
  simp [State.bellows, State.setBellows]

/-- An element that goes to the Bellows leaves its strand's tile as the pop left it. -/
theorem cur_aggregated (s : State) (key : AggKey) (pa : BitVec 16) (v : W64) (f g : Tile → Tile) :
    (((s.modTile s.here f).aggregate s.here key pa v).modTile s.here g).cur = g (f s.cur) :=
  (State.cur_modTile_here ((s.modTile s.here f).aggregate s.here key pa v) g).trans (congrArg g (State.cur_modTile_here s f))

theorem arriving_aggregated (s : State) (key : AggKey) (pa : BitVec 16) (v : W64) (f g : Tile → Tile) (hf : (f s.cur).launch = s.cur.launch) :
    ((((s.modTile s.here f).aggregate s.here key pa v).modTile s.here g).bellows (dieFin s.here)).arriving =
      (s.bellows (dieFin s.here)).arriving ++ [(key, { pa := pa, value := v, tile := s.here, launch := s.cur.launch })] := by
  have hl : ((s.modTile s.here f).tile s.here).launch = s.cur.launch := by rw [State.modTile_eq, State.tile_setTile_same]; exact hf
  change (((s.modTile s.here f).aggregate s.here key pa v).bellows (dieFin s.here)).arriving = _
  rw [State.aggregate, bellows_setBellows, hl]
  rfl

/-! ## stx (R180) and barm (R350) -/

theorem exec_stx_entered {s : State} {o3 : BitVec 3} {o xi : Fin 4} {w k : BitVec 4} {sp j : BitVec 1} {ps : List Piece} {base : W64} {n : Nat}
    {e x : Ent Vec} {rest xs : VFifo} (ho : oVec o3 = o) (hj : (⟨2 + j.toNat, by omega⟩ : Fin 4) = xi) (hbase : s.cur.st.w[w.toNat] = base)
    (hn : kindSize k.toNat = n) (hx : s.cur.fifo.x[xi] = x :: xs) (hxready : x.ready = true) (hxborn : x.born ≠ s.cur.tcc)
    (hq : s.cur.fifo.ov[o] = e :: rest) (hready : e.ready = true) (hborn : e.born ≠ s.cur.tcc)
    (hp : Claims.gives (s.pieces .store (Claims.writeAsk sp n) (Claims.gathered base n x.val)) = some ps) (hrange : s.anyRange ps = false) :
    exec (.stx o3 w k sp j) s = Claims.entered s .store
      (Claims.vectorStore { s.cur with fifo := { s.cur.fifo with x := s.cur.fifo.x.set xi xs } } o ps e.val base) ps := by
  subst ho hj hbase hn
  have hpop : (s.cur.popO (oVec o3)).popX ⟨2 + j.toNat, by omega⟩ = ({ s.cur with fifo := { s.cur.fifo with
      x := s.cur.fifo.x.set (2 + j.toNat) xs } } : Tile).popO (oVec o3) := by
    have hx : (s.cur.popO (oVec o3)).fifo.x[(⟨2 + j.toNat, by omega⟩ : Fin 4)] = x :: xs := hx
    rw [Tile.popX, hx]
    rfl
  refine store_entered ?_
  dsimp only
  rw [hx, ControlState.headOf_cons xs hxready hxborn]
  dsimp only
  rw [LoadForms.gatherElems_eq]
  refine (VectorForms.bind_of_gives hp _).trans ?_
  rw [hq, ControlState.headOf_cons rest hready hborn]
  refine (storeOut_entered hrange rfl rfl).trans ?_
  rw [hpop]
  rfl

theorem exec_barm_entered {s : State} {o3 : BitVec 3} {f : Fin 2} {w : BitVec 4} {sp : BitVec 1} {i : BitVec 9} {ps : List Piece} {va : W64}
    {e : Ent W64} {rest : Fifo} (ho : oSca o3 = f) (hva : s.cur.sbAddr w i = va)
    (hp : Claims.gives (s.pieces .store (Claims.barAsk sp .write 64) [{ pos := 0, len := 16, va := va }]) = some ps)
    (hq : s.cur.fifo.os[f] = e :: rest) (hready : e.ready = true) (hborn : e.born ≠ s.cur.tcc) (hrange : s.anyRange ps = false) :
    exec (.barm o3 w sp i) s = Claims.entered s .store (Claims.scalarStore s.cur (.arm e.val) f ps 0 va) ps := by
  subst ho hva
  refine store_entered ((VectorForms.bind_of_gives hp _).trans ?_)
  rw [hq, ControlState.headOf_cons rest hready hborn]
  exact storeOut_entered hrange rfl rfl

/-! ## The obligation -/

/-- Settles O28, form by form. -/
theorem storesTakeTheirData : Obligations.StoresTakeTheirData := by
  unfold Obligations.StoresTakeTheirData
  refine ⟨fun s o w sp i ps => ?st, fun s o w k sp i ps e rest => ?stw, fun s o w k sp j ps e rest x xs => ?stx,
    fun s o w k sp wd i ps e rest => ?atn, fun s f w sp i ps e rest => ?barm⟩
  case st =>
    intro va n hp
    refine ⟨exec_st_empty (oVecCode o) rfl hp, fun e rest hq hready hborn => ⟨exec_st_entered (oVecCode o) rfl hp hq hready hborn,
      fun hrange hpending hheld => ⟨?_, fun s1 s2 => ?_⟩⟩⟩
    · exact exec_st_refused (oVecCode o) rfl hp hq hready hborn hrange hpending hheld
    · exact exec_st_now (oVecCode o) rfl hp hq hready hborn hrange hpending hheld
  case stw =>
    intro va n i hp hq hready hborn
    refine ⟨exec_stw_entered (oScaCode o) rfl hp hq hready hborn rfl, fun p key pa hk hps hagg hfree => ?_⟩
    refine ⟨_, exec_stw_aggregated (oScaCode o) rfl hp hq hready hborn rfl hk hps hagg hfree, ?_, ?_, ?_⟩
    · rw [cur_aggregated]
      exact congrArg (fun q => s.cur.fifo.os.set o q) (congrArg List.tail hq)
    · rw [cur_aggregated]
      rfl
    · exact arriving_aggregated s key pa e.val _ _ rfl
  case stx =>
    intro xi base hx hxready hxborn hq hready hborn hp hrange
    exact exec_stx_entered (oVecCode o) (Fin.ext (congrArg (2 + ·) (LoadForms.indexCode j))) rfl rfl hx hxready hxborn hq hready hborn hp hrange
  case atn =>
    intro va n hp hq hready hborn hrange hagg
    exact exec_atn_entered (oScaCode o) rfl hp hq hready hborn (Frames.atrBytes_eq wd) hrange hagg
  case barm =>
    intro va hp hq hready hborn hrange
    exact exec_barm_entered (oScaCode f) rfl hp hq hready hborn hrange

end Sys2Proof.StoreForms

/-!
PROOFS of the family 07_streams.md: a store of the scratchpad performs at its bytes (O29).
-/
namespace Sys2Proof.StorePerform
open Sys2Proof Sys2Proof.Machine

/-! ## The oldest store -/

theorem pendingSigs_store_nil {t : Tile} (h : t.st.sigs = []) : t.pendingSigs .store = t := by
  simp only [Tile.pendingSigs, h, performSigs]
  rw [← h]

section
variable {s s' : State} {t : TileNo} {l : PendingStore} (hlone : Claims.lone (s.tile t) l)
include hlone

theorem storePerform_done (h : s.startStore t l 0 l.pieces [] = .ok (s', [])) :
    exec (.storePerform t l.seq) s = .next (s'.modTile t (·.dropStore l.seq)) := by
  obtain ⟨hp, hl, -⟩ := hlone
  change execStorePerform t l.seq s = _
  simp [execStorePerform, hp, hl, h]

end

theorem dropStore_lone {t : Tile} {l : PendingStore} (hp : t.st.pending = [l]) (hs : t.st.sigs = []) :
    t.dropStore l.seq = { t with st := { t.st with pending := [] } } := by
  have hnone : ([l].filter fun y => y.seq != l.seq) = [] := by simp
  rw [Tile.dropStore, hp, hnone]
  exact pendingSigs_store_nil hs

/-! ## A piece of the scratchpad -/

section
variable {s : State} {t : TileNo} {l : PendingStore} {off n : Nat} (hlone : Claims.lone (s.tile t) l)
  (hpieces : l.pieces = [{ pos := 0, len := n, loc := .spad off, va := l.va }])
include hlone hpieces

/-- A store of the scratchpad whose bytes no command has claimed leaves there what its operation makes of them. -/
theorem storePerform_spad (hc : (s.tile t).claimed off n = false) : exec (.storePerform t l.seq) s = .next (s.setTile t
    { ((s.tile t).spadOp off (l.kind.op l.data { pos := 0, len := n, loc := .spad off, va := l.va })) with
      st := { (s.tile t).st with pending := [] } }) := by
  obtain ⟨hp, -, hs⟩ := id hlone
  have hstart : s.startStore t l 0 l.pieces [] =
      .ok (s.modTile t (·.spadOp off (l.kind.op l.data { pos := 0, len := n, loc := .spad off, va := l.va })), []) := by
    simp [hpieces, State.startStore, State.storePiece, hc, State.markLine]
  have hst := StoreForms.st_spadOp (s.tile t) off (l.kind.op l.data { pos := 0, len := n, loc := .spad off, va := l.va })
  rw [storePerform_done hlone hstart, State.modTile_eq, State.modTile_eq, State.tile_setTile_same, State.setTile_setTile,
    dropStore_lone (by rw [hst]; exact hp) (by rw [hst]; exact hs), hst]

end

/-! ## A post of zero on a scratchpad that is not in canonical form -/

/-- A post of zero and zero to the first barrier word of a tile's scratchpad. -/
def zeroPost : PendingStore :=
  { seq := 0, kind := .post 0 0, pieces := [{ pos := 0, len := 16, loc := .spad barrierBase, va := 0 }], data := 0, waits := [], sent := false, pc := 0,
    va := 0 }

/-- The reset state with that post in flight in tile 0, whose scratchpad names that word's first byte though it is zero. -/
def posting : State := State.reset.setTile 0 { Tile.blank with spad := [(barrierBase, 0)], st := { Tile.blank.st with pending := [zeroPost] } }

theorem tile_posting : posting.tile 0 = { Tile.blank with spad := [(barrierBase, 0)], st := { Tile.blank.st with pending := [zeroPost] } } :=
  State.tile_setTile_same ..

/-- Refutes O29: the clause on a post says that the 16 bytes are written, but a post of zero and zero writes nothing.  The two differ on a
scratchpad that is not in canonical form, as that of `posting`: the write leaves out the cell that holds zero. -/
theorem not_storesPerformAtTheirPlace : ¬ Obligations.StoresPerformAtTheirPlace := by
  rintro ⟨hspad, -⟩
  have hlone : Claims.lone (posting.tile 0) zeroPost := by rw [tile_posting]; exact ⟨rfl, rfl, rfl⟩
  have hclaimed : (posting.tile 0).claimed barrierBase 16 = false := by rw [tile_posting]; rfl
  obtain ⟨-, hperform⟩ := hspad posting 0 zeroPost barrierBase 16 hlone rfl
  obtain ⟨-, -, -, hpost⟩ := hperform hclaimed
  have hwritten := hpost 0 0 rfl
  have hkept := storePerform_spad hlone rfl hclaimed
  have hsame := congrArg (fun s : State => (s.tile 0).spad) (Host.Outcome.next.inj (hkept.symm.trans hwritten))
  simp only [State.tile_setTile_same] at hsame
  rw [tile_posting] at hsame
  exact absurd hsame (by decide)

end Sys2Proof.StorePerform

/-!
PROOFS of the family 07_streams.md: the ordering forms hold their strands, and what each waits for (O30).
-/
namespace Sys2Proof.Ordering
open Sys2Proof Sys2Proof.Machine Sys2Proof.AccessForms

/-! ## Marks (R188) -/

section
variable {s : State} {id : BitVec 8} {n : Nat}

theorem exec_markL_first (hn : s.cur.ld.marks[id.toNat] + 1 = n) (h : s.cur.st.marks[id.toNat] < n) : exec (.markL id) s =
    s.yields .load { s.cur with ld := { s.cur.ld with marks := s.cur.ld.marks.set id.toNat n, hold := some (.mark id n none) } } := by
  subst hn
  refine congrArg Host.Outcome.next (State.issueT_done (k := .load) (congrArg Res.done (if_neg ?_)))
  exact Nat.not_le.mpr h

theorem exec_markS_first (hn : s.cur.st.marks[id.toNat] + 1 = n) (h : s.cur.ld.marks[id.toNat] < n) : exec (.markS id) s =
    s.yields .store { s.cur with st := { s.cur.st with marks := s.cur.st.marks.set id.toNat n, hold := some (.mark id n none) } } := by
  subst hn
  refine congrArg Host.Outcome.next (State.issueT_done (k := .store) (congrArg Res.done (if_neg ?_)))
  exact Nat.not_le.mpr h

/-- Both marks of a pair have issued: each strand waits for what the other has issued before its mark. -/
theorem meetMarks_eq {t : Tile} (hl : t.ld.hold = some (.mark id n none)) (hs : t.st.hold = some (.mark id n none)) :
    t.meetMarks id n = { t with
      ld := { t.ld with hold := some (.mark id n (some t.st.seq)) }
      st := { t.st with hold := some (.mark id n (some t.ld.seq)) } } := by
  simp [Tile.meetMarks, hl, hs]

theorem exec_markL_second (hn : s.cur.ld.marks[id.toNat] + 1 = n) (h : n ≤ s.cur.st.marks[id.toNat])
    (hs : s.cur.st.hold = some (.mark id n none)) : exec (.markL id) s = s.yields .load { s.cur with
      ld := { s.cur.ld with marks := s.cur.ld.marks.set id.toNat n, hold := some (.mark id n (some s.cur.st.seq)) }
      st := { s.cur.st with hold := some (.mark id n (some s.cur.ld.seq)) } } := by
  subst hn
  refine congrArg Host.Outcome.next (State.issueT_done (k := .load) (congrArg Res.done ((if_pos h).trans ?_)))
  exact meetMarks_eq rfl hs

theorem exec_markS_second (hn : s.cur.st.marks[id.toNat] + 1 = n) (h : n ≤ s.cur.ld.marks[id.toNat])
    (hl : s.cur.ld.hold = some (.mark id n none)) : exec (.markS id) s = s.yields .store { s.cur with
      st := { s.cur.st with marks := s.cur.st.marks.set id.toNat n, hold := some (.mark id n (some s.cur.ld.seq)) }
      ld := { s.cur.ld with hold := some (.mark id n (some s.cur.st.seq)) } } := by
  subst hn
  refine congrArg Host.Outcome.next (State.issueT_done (k := .store) (congrArg Res.done ((if_pos h).trans ?_)))
  exact meetMarks_eq hl rfl

end

/-! ## fence.s and aflush (R187, R191) -/

section
variable (s : State)

theorem exec_fenceS_near : exec (.fenceS 0) s = .next ((s.setTile s.here { s.cur with st := { s.cur.st with
    hold := some (.fence 0 s.cur.st.seq) } }).modTile s.here fun t => t.retire .store) :=
  congrArg Host.Outcome.next (issue_done tick_store (congrArg Res.done (if_pos rfl)))

/-- At die scope or wider a fence sends the strand's buffers on their way. -/
theorem exec_fenceS_wide {sc : BitVec 3} (h : sc ≠ 0) : exec (.fenceS sc) s =
    .next (((s.setTile s.here { s.cur with st := { s.cur.st with hold := some (.fence sc s.cur.st.seq) } }).leaveOf s.here).modTile s.here
      fun t => t.retire .store) :=
  congrArg Host.Outcome.next (issue_done tick_store (congrArg Res.done (if_neg h)))

theorem exec_aflush : exec .aflush s = .next (((s.setTile s.here { s.cur with st := { s.cur.st with hold := some .aflush } }).leaveOf
    s.here).modTile s.here fun t => t.retire .store) :=
  congrArg Host.Outcome.next (issue_done tick_store rfl)

end

/-! ## rel and barr (R185, R351) -/

section
variable {s : State} {o3 : BitVec 3} {o : Fin 2} {w : BitVec 4} {va : W64} {e : Ent W64} {rest : Fifo} (ho : oSca o3 = o)
  (hq : s.cur.fifo.os[o] = e :: rest) (hready : e.ready = true) (hborn : e.born ≠ s.cur.tcc)
include ho hq hready hborn

theorem exec_rel {k : BitVec 4} {i : BitVec 13} {g : Phys} (hva : s.cur.saAddr w i = va)
    (hp : Claims.gives (s.pieces .store (Claims.writeAsk 0 (if 2 ≤ k.toNat then 256 else 8)) [{ pos := 0, len := 8, va := va }]) =
      some [{ pos := 0, len := 8, loc := .glob g, va := va }])
    {s1 : State} (h1 : s.setTile s.here { s.cur with
      fifo := { s.cur.fifo with os := s.cur.fifo.os.set o rest }
      st := { s.cur.st with hold := some (.rel (k.setWidth 3) s.cur.st.seq 1 g e.val va (s.cur.pcOf .store)) } } = s1) :
    exec (.rel o3 w k i) s = .next ((if k = 0 then s1 else s1.leaveOf s.here).modTile s.here fun t => t.retire .store) := by
  subst ho hva h1
  have hwide : (if decide (2 ≤ k.toNat) then 256 else 8) = if 2 ≤ k.toNat then 256 else 8 := by simp
  refine congrArg Host.Outcome.next (issue_done tick_store ?_)
  dsimp only
  rw [hwide]
  refine (VectorForms.bind_of_gives hp _).trans ?_
  rw [hq, ControlState.headOf_cons rest hready hborn]
  have hpop : s.cur.popOs (oSca o3) = { s.cur with fifo := { s.cur.fifo with os := s.cur.fifo.os.set (oSca o3) rest } } := by
    rw [Tile.popOs, hq]
    rfl
  change Res.done (if k = 0 then s.setTile s.here { (s.cur.popOs (oSca o3)) with st := _ } else
    (s.setTile s.here { (s.cur.popOs (oSca o3)) with st := _ }).leaveOf s.here) = _
  rw [hpop]
  rfl

theorem exec_barr {sp : BitVec 1} {i : BitVec 9} {p : Piece} (hva : s.cur.sbAddr w i = va)
    (hp : Claims.gives (s.pieces .store (Claims.barAsk sp .write 64) [{ pos := 0, len := 16, va := va }]) = some [p])
    {s1 : State} (h1 : s.setTile s.here { s.cur with
      fifo := { s.cur.fifo with os := s.cur.fifo.os.set o rest }
      st := { s.cur.st with hold := some (.barr s.cur.st.seq 0 p.loc e.val va (s.cur.pcOf .store)) } } = s1) :
    exec (.barr o3 w sp i) s = .next ((if sp = 1 then s1 else s1.leaveOf s.here).modTile s.here fun t => t.retire .store) := by
  subst ho hva h1
  refine congrArg Host.Outcome.next (issue_done tick_store ((VectorForms.bind_of_gives hp _).trans ?_))
  rw [hq, ControlState.headOf_cons rest hready hborn]
  have hpop : s.cur.popOs (oSca o3) = { s.cur with fifo := { s.cur.fifo with os := s.cur.fifo.os.set (oSca o3) rest } } := by
    rw [Tile.popOs, hq]
    rfl
  change Res.done (if sp = 1 then s.setTile s.here { (s.cur.popOs (oSca o3)) with st := _ } else
    (s.setTile s.here { (s.cur.popOs (oSca o3)) with st := _ }).leaveOf s.here) = _
  rw [hpop]
  rfl

end

/-! ## barw (R350, R351) -/

section
variable {s : State} {a : BitVec 4} {i : BitVec 13} {va : W64} (hva : s.cur.laAddr a i = va)
include hva

section
variable {off : Nat} (hp : Claims.gives (s.pieces .load (Claims.barAsk 1 .read 128) [{ pos := 0, len := 16, va := va }]) =
    some [{ pos := 0, len := 16, loc := .spad off, va := va }])
include hp

theorem exec_barw_spad_done (h0 : s.cur.ld.pending = []) (hw : barState (BitVec.ofNat 128 (s.cur.spad0.readN off 16)) ≠ 1) :
    exec (.barw a 1 i) s = s.yields .load s.cur := by
  subst hva
  exact LoadForms.load_yields ((VectorForms.bind_of_gives hp _).trans ((if_neg (by simp [h0])).trans
    ((if_neg hw).trans (congrArg Res.done (State.setTile_tile s s.here).symm))))

theorem exec_barw_spad_held (h : s.cur.ld.pending ≠ [] ∨ barState (BitVec.ofNat 128 (s.cur.spad0.readN off 16)) = 1) :
    exec (.barw a 1 i) s = .next s := by
  subst hva
  refine LoadForms.load_held ((VectorForms.bind_of_gives hp _).trans ?_)
  obtain h | h := h
  · simp [h]
  · simp [h]

end

theorem exec_barw_page {g : Phys} (hp : Claims.gives (s.pieces .load (Claims.barAsk 0 .read 128) [{ pos := 0, len := 16, va := va }]) =
      some [{ pos := 0, len := 16, loc := .glob g, va := va }]) (h0 : s.cur.ld.pending = []) :
    exec (.barw a 0 i) s = s.yields .load { s.cur with ld := { s.cur.ld with hold := some (.barw g va (s.cur.pcOf .load)) } } := by
  subst hva
  exact LoadForms.load_yields ((VectorForms.bind_of_gives hp _).trans (if_neg (by simp [h0])))

end

/-- The word of a barw that its home can be read for in this step is judged. -/
theorem exec_barwPoll {s : State} {t : TileNo} {g : Phys} {va pc : W64} (hh : (s.tile t).ld.hold = some (.barw g va pc))
    (hpkg : g.pkg = s.pkg) (hdie : g.die.toNat = dieOf t) (hwin : windowTile g.die g.pa.toNat = none)
    (hmem : s.inMemory g.pkg g.die g.pa.toNat 16 = true) (hcmp : s.frameCmp g.pkg g.die g.pa.toNat = false)
    (hheld : s.frameHeld (physAt g.pkg g.die g.pa.toNat) = false) : exec (.barwPoll t) s =
      .next (s.modTile t (·.barwSees (BitVec.ofNat 128 (s.rdN (s.tile t).ctx g.pkg g.die g.pa.toNat 16)))) := by
  change execBarwPoll t s = _
  simp [execBarwPoll, hh, Delivery.atHome_true hpkg hdie, Delivery.homeOp_read hpkg hwin hmem hcmp hheld]

section
variable {t : Tile} {g : Phys} {va pc : W64} {w : BarWord} (hh : t.ld.hold = some (.barw g va pc))
include hh

theorem barwSees_armed (hw : barState w = 1) : t.barwSees w = t := by
  simp [Tile.barwSees, hh, hw]

theorem barwSees_open (hw : barState w ≠ 1) : t.barwSees w = { t with ld := { t.ld with hold := none } } := by
  simp [Tile.barwSees, hh, hw]

end

/-! ## What a held strand waits for -/

section
variable {s : State} {t : TileNo}

theorem storeHold_mark_waits {id : BitVec 8} {k n : Nat} (h : (s.tile t).st.hold = some (.mark id k (some n)))
    (hn : (s.tile t).ld.oldest < n) : s.storeHold t = s := by
  simp [State.storeHold, h, Nat.not_le.mpr hn]

theorem storeHold_mark_ends {id : BitVec 8} {k n : Nat} (h : (s.tile t).st.hold = some (.mark id k (some n)))
    (hn : n ≤ (s.tile t).ld.oldest) : ((s.storeHold t).tile t).st.hold = none := by
  simp [State.storeHold, h, hn, Tile.setStHold]

theorem loadHold_mark_ends {id : BitVec 8} {k n : Nat} (h : (s.tile t).ld.hold = some (.mark id k (some n)))
    (hn : n ≤ (s.tile t).st.oldest) : ((s.loadHold t).tile t).ld.hold = none := by
  simp [State.loadHold, h, hn]

theorem storeHold_fence_ends {sc : BitVec 3} {q : Nat} (h : (s.tile t).st.hold = some (.fence sc q)) (hq : q ≤ (s.tile t).st.oldest)
    (ha : sc = 0 ∨ s.aggClear t = true) : ((s.storeHold t).tile t).st.hold = none := by
  have hcond : (decide (q ≤ (s.tile t).st.oldest) && (sc == 0 || s.aggClear t)) = true := by simpa [hq] using ha
  simp only [State.storeHold, h, hcond, if_true, State.tile_setTile_same]
  rfl

theorem storeHold_aflush_ends (h : (s.tile t).st.hold = some .aflush) (ha : s.aggAccepted t = true) :
    ((s.storeHold t).tile t).st.hold = none := by
  simp [State.storeHold, h, ha, Tile.setStHold]

/-- Once every earlier store has been performed a release of tile or die scope stores its flag (R185). -/
theorem storeHold_rel_flag {sc : BitVec 3} {q : Nat} {g : Phys} {v va pc : W64} (h : (s.tile t).st.hold = some (.rel sc q 2 g v va pc))
    (hq : q ≤ (s.tile t).st.oldest) (hsc : sc.toNat < 2) : ((s.storeHold t).tile t).st.pending = (s.tile t).st.pending ++
      [{ seq := (s.tile t).st.seq, kind := .flag, pieces := [{ pos := 0, len := 8, loc := .glob g, va := va }], data := v.setWidth 4096,
         waits := [], sent := false, pc := pc, va := va }] := by
  simp only [State.storeHold, h, Nat.not_lt.mpr hq, Nat.not_le.mpr hsc, if_false, State.tile_setTile_same]
  rfl

end

/-! ## The obligation -/

/-- Settles O30, form by form. -/
theorem orderingFormsHoldTheirStrand : Obligations.OrderingFormsHoldTheirStrand := by
  unfold Obligations.OrderingFormsHoldTheirStrand
  refine ⟨fun s id => ⟨exec_markL_first rfl, exec_markS_first rfl, exec_markL_second rfl, exec_markS_second rfl⟩,
    fun s sc => ⟨exec_fenceS_near s, exec_fenceS_wide s, exec_aflush s⟩, fun s o w k i g e rest => ?rel, fun s f w sp i p e rest => ?barr,
    fun s a i off g => ⟨fun hp => ⟨exec_barw_spad_done rfl hp, exec_barw_spad_held rfl hp⟩, exec_barw_page rfl⟩,
    fun s t g va pc hh hpkg hdie hwin hmem hcmp hheld => ?poll,
    fun s t => ⟨fun id k n => storeHold_mark_waits, fun id k n => storeHold_mark_ends, fun id k n => loadHold_mark_ends,
      fun sc q => storeHold_fence_ends, storeHold_aflush_ends, fun sc q g v va pc => storeHold_rel_flag⟩⟩
  case rel =>
    intro va n hp hq hready hborn
    exact exec_rel (StoreForms.oScaCode o) hq hready hborn rfl hp rfl
  case barr =>
    intro va hp hq hready hborn
    exact exec_barr (StoreForms.oScaCode f) hq hready hborn rfl hp rfl
  case poll =>
    intro w
    rw [exec_barwPoll hh hpkg hdie hwin hmem hcmp hheld, State.modTile_eq]
    refine ⟨fun hw => by rw [barwSees_open hh hw], fun hw => ?_⟩
    rw [barwSees_armed hh hw, State.setTile_tile]

end Sys2Proof.Ordering

/-!
PROOFS of the family 07_streams.md: sset and sclr, and the way of an element through a stream (O31).
-/
namespace Sys2Proof.StreamPatterns
open Sys2Proof Sys2Proof.Machine

theorem toNat_streamCode (n : Fin 8) : (BitVec.ofNat 3 n.val).toNat = n.val := Nat.mod_eq_of_lt n.isLt

theorem setStream_stream {q : BitVec 3} {j : Nat} (hj : j < 8) (hq : q.toNat = j) (t : Tile) (x : Stream) :
    (t.setStream q x).ld.stream[j] = x := by
  subst hq
  exact Vector.getElem_set_self _

/-! ## sset (R192, R193) -/

section
variable {s : State} {q : BitVec 3} {a : BitVec 4} {d : BitVec 10} {desc : BitVec 512} (hd : BitVec.ofNat 512 (s.cur.rsp.readN (64 * d.toNat) 64) = desc)
include hd

theorem exec_sset_refused (h : (s.cur.ld.stream[q.toNat]).phase = .active ∨ (s.cur.ld.stream[q.toNat]).phase = .halted ∨
    descOk q.toNat desc = false) : exec (.sset q a d) s = Claims.faults s .load 0x07 0 := by
  subst hd
  refine congrArg Host.Outcome.next (State.issueT_trap (k := .load) (if_pos ?_))
  obtain h | h | h := h <;> simp [State.seen, AccessForms.tick_load, Tile.descAt, h]

variable (hphase : (s.cur.ld.stream[q.toNat]).phase = .explicit ∨ (s.cur.ld.stream[q.toNat]).phase = .drained)
  (hok : descOk q.toNat desc = true) (hcons : dCons desc = (s.cur.ld.stream[q.toNat]).control ∨ s.cur.qEmpty q = true)
include hphase hok hcons

/-- A valid descriptor passes the check of the stream's state. -/
theorem sset_accepted : ¬((s.cur.ld.stream[q.toNat]).phase == .active || (s.cur.ld.stream[q.toNat]).phase == .halted ||
    !descOk q.toNat (s.cur.descAt (64 * d.toNat)) ||
    (dCons (s.cur.descAt (64 * d.toNat)) != (s.cur.ld.stream[q.toNat]).control && !s.cur.qEmpty q)) = true := by
  subst hd
  have hok' : descOk q.toNat (s.cur.descAt (64 * d.toNat)) = true := hok
  have hcons' : dCons (s.cur.descAt (64 * d.toNat)) = _ ∨ _ := hcons
  obtain h | h := hphase <;> obtain hc | hc := hcons' <;> simp [h, hok', hc]

theorem exec_sset_misaligned (hm : dMode desc = 1) (ha : descAligned desc = false) :
    exec (.sset q a d) s = Claims.faults s .load 0x05 (dBase desc + s.cur.ld.a[a.toNat]) := by
  have hacc := sset_accepted hd hphase hok hcons
  subst hd
  refine congrArg Host.Outcome.next (State.issueT_trap (k := .load) ((if_neg hacc).trans (if_pos ?_)))
  simpa [Tile.descAt, State.seen, AccessForms.tick_load] using And.intro hm ha

theorem exec_sset_applied (h : dMode desc = 0 ∨ descAligned desc = true) :
    exec (.sset q a d) s = s.yields .load (s.cur.applyDesc q desc s.cur.ld.a[a.toNat]) := by
  have hacc := sset_accepted hd hphase hok hcons
  subst hd
  refine congrArg Host.Outcome.next (State.issueT_done (k := .load) ((if_neg hacc).trans (if_neg ?_)))
  obtain h | h := h <;> simp [Tile.descAt, State.seen, AccessForms.tick_load, h]

end

/-! ## sclr (R192) -/

theorem qClear_vector {t : Tile} {b : BitVec 3} (q : Fin 4) (hb : b.toNat = q) : t.qClear b = { t with fifo := { t.fifo with
    qv := t.fifo.qv.set q [], qpos := t.fifo.qpos.set q 0 } } := by
  obtain ⟨j, hj⟩ := q
  obtain rfl : b.toNat = j := hb
  rw [Tile.qClear, dif_pos hj]

/-- A stream that sclr has emptied. -/
def cleared (x : Stream) : Stream := { x with
  phase := .explicit, clearing := false, acc := 0, filled := 0, reserved := false, tlb := none, tlb2 := none, got := [], plane := none }

/-- sclr empties a stream that waits for nothing and that no load in flight is for. -/
theorem exec_sclr_clears {s : State} {b : BitVec 3} (hw : (s.cur.ld.stream[b.toNat]).waits = []) (hl : ∀ l ∈ s.cur.ld.pending, l.q ≠ b) :
    exec (.sclr b) s = s.yields .load ((s.cur.qClear b).setStream b (cleared s.cur.ld.stream[b.toNat])) := by
  refine congrArg Host.Outcome.next (State.issueT_done (k := .load) (if_neg ?_))
  simp only [State.seen, AccessForms.tick_load, hw, List.isEmpty_nil, Bool.not_true, Bool.false_or, List.any_eq_true, not_exists, not_and]
  intro l hmem hbusy
  simp [hl l hmem] at hbusy

/-! ## What a stream reads of the scratchpad (R195) -/

theorem ofBytes_map_range (m : Memory) (a n : Nat) : ofBytes ((List.range n).map fun i => m.read (a + i)) = m.readN a n := by
  induction n generalizing a with
  | zero => rfl
  | succ n ih =>
    rw [List.range_succ_eq_map, List.map_cons, List.map_map, ofBytes, Memory.readN, ← ih (a + 1)]
    simp [Function.comp_def, Nat.add_assoc, Nat.add_comm 1]

section
variable {s : State} {t : TileNo} {n : Fin 8} {e : Bool} {va : W64} {len : Nat}

theorem streamBytes_spad (hc : (s.tile t).claims = []) (hfit : va.toNat % 2 ^ 21 + len ≤ 2 ^ 21) :
    s.streamBytes t n true e va len = .val s ((s.tile t).spad.readN (va.toNat % 2 ^ 21) len) := by
  have hoffs : (List.range len).map (fun i => (spadOff va + i) % spadSize) = (List.range len).map fun i => va.toNat % 2 ^ 21 + i :=
    List.map_congr_left fun i hi => Nat.mod_eq_of_lt (Nat.lt_of_lt_of_le (Nat.add_lt_add_left (List.mem_range.mp hi) _) hfit)
  simp only [State.streamBytes, if_true, hc, hoffs]
  simp [← ofBytes_map_range, Function.comp_def]

theorem streamBytes_claimed (hlen : 0 < len) (hc : (s.tile t).claims.contains (bankGroup (va.toNat % 2 ^ 21)) = true) :
    s.streamBytes t n true e va len = .bad cBankClaim := by
  refine (if_pos rfl).trans (if_pos (List.any_eq_true.mpr ⟨va.toNat % 2 ^ 21, List.mem_map.mpr ⟨0, List.mem_range.mpr hlen, ?_⟩, hc⟩))
  exact Nat.mod_mod_of_dvd _ (dvd_refl _)

end

/-! ## An element that faults (R197) -/

theorem faultAt_ld_spad (x : Tile) (k : Strand) (f : Trap) (pc : W64) :
    ((x.faultAt k f pc).ld, (x.faultAt k f pc).spad) = (x.ld, x.spad) := by
  unfold Tile.faultAt
  dsimp only
  split <;> rfl

section
variable {s : State} {t : TileNo} {n : Fin 8}

theorem raiseOn_ld_spad (k : Strand) (f : Trap) (pc : W64) :
    (((s.raiseOn t k f pc).tile t).ld, ((s.raiseOn t k f pc).tile t).spad) = ((s.tile t).ld, (s.tile t).spad) := by
  unfold State.raiseOn
  dsimp only
  split
  · rfl
  · split
    · rw [State.tile_setTile_same, faultAt_ld_spad]
    · rfl

/-- The report of a stream's fault changes neither the load strand's streams nor the scratchpad. -/
theorem streamFault_ld_spad (m c : Nat) (df : Bool) (va : W64) :
    (((s.streamFault t m c df va).tile t).ld, ((s.streamFault t m c df va).tile t).spad) = ((s.tile t).ld, (s.tile t).spad) := by
  rw [State.streamFault, State.modTile_eq, State.tile_setTile_same]
  exact raiseOn_ld_spad ..

theorem streamHalt_halts (c : Nat) (df : Bool) (va : W64) :
    (((s.streamHalt t n c df va).tile t).ld.stream[n.val]).phase = .halted ∧
      (((s.streamHalt t n c df va).tile t).ld.stream[n.val]).faultOrd = ((s.tile t).ld.stream[n.val]).next ∧
      ((s.streamHalt t n c df va).tile t).spad = (s.tile t).spad := by
  have hkept := streamFault_ld_spad (s := s.modTile t fun x => x.setStream (BitVec.ofNat 3 n.val)
    { x.ld.stream[n] with phase := .halted, faultOrd := (x.ld.stream[n]).next, got := [], waits := [] }) (t := t) n.val c df va
  rw [State.modTile_eq, State.tile_setTile_same] at hkept
  obtain ⟨hld, hspad⟩ := Prod.mk.inj hkept
  have hstream := (congrArg (fun l => l.stream[n.val]) hld).trans (setStream_stream n.isLt (toNat_streamCode n) _ _)
  exact ⟨congrArg (·.phase) hstream, congrArg (·.faultOrd) hstream, hspad⟩

end

/-! ## STREAM_ELEMENT (R195-R197) -/

section
variable {s : State} {t : TileNo} {n : Fin 8} {x : Stream} (hx : (s.tile t).ld.stream[n.val] = x)
include hx

/-- An ACTIVE stream that has reserved its entry takes its next element. -/
theorem exec_streamElement {b : BitVec 3} (hb : b.toNat = n) (hphase : x.phase = .active) (hclear : x.clearing = false)
    (hord : (s.tile t).streamOrdered x = true) (hres : x.reserved = true) : exec (.streamElement t b) s = .next (s.streamNext t n) := by
  subst hx
  obtain rfl : (⟨b.toNat, b.isLt⟩ : Fin 8) = n := Fin.ext hb
  have hreserve : (s.tile t).streamReserve ⟨b.toNat, b.isLt⟩ = some (s.tile t) := if_pos hres
  change execStreamElement t b s = _
  simp only [execStreamElement, Fin.getElem_fin, hphase, hclear, hord, hreserve, State.setTile_tile]
  rfl

variable {va : W64} {high : Bool} (hva : elemAddr x.desc x.base x.next = (va, high)) (hpad : padded x.desc x.next = false)
  (hw : dWidth x.desc % 8 = 0) (hsp : dSp x.desc = true)
include hva hpad hw hsp

theorem streamNext_put (hn : n.val < 4) (hcbx : dCbx x.desc = false) (hscale : dScale x.desc = false) (hcvt : dCvt x.desc = false) {m : Nat}
    (hread : s.streamBytes t n true true va (dWidth x.desc / 8) = .val s m) :
    s.streamNext t n = s.setTile t ((s.tile t).streamPut n [m] 0) := by
  have hbytes : (dWidth x.desc + 7) / 8 = dWidth x.desc / 8 := by omega
  have h4 : dWidth x.desc ≠ 4 := by omega
  simp [State.streamNext, hx, hpad, hva, hbytes, hsp, hread, h4, hcbx, hscale, hcvt, hn, State.modTile_eq]

theorem streamNext_faults {c : Nat} (hrep : (s.tile t).canReport .load = true)
    (hread : s.streamBytes t n true true va (dWidth x.desc / 8) = .bad c) : s.streamNext t n = s.streamHalt t n c false va := by
  have hbytes : (dWidth x.desc + 7) / 8 = dWidth x.desc / 8 := by omega
  simp [State.streamNext, hx, hpad, hva, hbytes, hsp, hread, hrep]

end

/-! ## The entry in assembly (R196) -/

/-- Elements or lanes of a vector stream's entry. -/
def capOf (d : BitVec 512) : Nat := if dCbx d then 128 else 4096 / ccBits (dDst d)

/-- Bits of an element or lane of a vector stream's entry. -/
def widthOf (d : BitVec 512) : Nat := if dCbx d then 32 else ccBits (dDst d)

theorem entryCap_vector {q : Nat} (hq : q < 4) (d : BitVec 512) : entryCap q d = (capOf d, widthOf d) := by
  rw [entryCap, if_pos hq, capOf, widthOf]
  split <;> rfl

theorem packList_singleton {w v : Nat} (hv : v < 2 ^ w) : packList w [v] = v := by
  simp [packList, Nat.mod_eq_of_lt hv]

/-- The entry in assembly of a stream after one more value. -/
def accOf (x : Stream) (v : Nat) : Vec := x.acc ||| BitVec.ofNat 4096 (v * 2 ^ (widthOf x.desc * x.filled))

/-- The number of a vector stream, among all streams. -/
def wide (n : Fin 4) : Fin 8 := ⟨n.val, by omega⟩

/-- A stream one element further on, its entry still in assembly. -/
def assembled (x : Stream) (v : Nat) : Stream := { x with next := x.next + 1, got := [], acc := accOf x v, filled := x.filled + 1 }

/-- A stream that has delivered the entry that its element completed. -/
def delivered (x : Stream) : Stream :=
  { x with next := x.next + 1, got := [], acc := 0, filled := 0, tags := x.tags + 1, reserved := false, plane := none,
           phase := if dTotal x.desc ≤ x.next + 1 then .drained else .active }

section
variable {t : Tile} {n : Fin 4} {x : Stream} (hx : t.ld.stream[n.val] = x) (v : Nat)
include hx

theorem streamPut_assembles (hcap : x.filled + 1 < capOf x.desc) (htot : x.next + 1 < dTotal x.desc) : t.streamPut (wide n) [v] 0 =
    (t.raiseFlags .load 0).setStream (BitVec.ofNat 3 n.val) (assembled x (packList (widthOf x.desc) [v])) := by
  subst hx
  simp only [Tile.streamPut, entryCap_vector (q := (wide n).val) n.isLt]
  exact if_neg fun h => (Bool.or_eq_true_iff.mp h).elim (fun h => Nat.not_le.mpr hcap (of_decide_eq_true h))
    fun h => Nat.not_le.mpr htot (of_decide_eq_true h)

theorem streamPut_delivers (h : capOf x.desc ≤ x.filled + 1 ∨ dTotal x.desc ≤ x.next + 1) : t.streamPut (wide n) [v] 0 =
    ((t.raiseFlags .load 0).qFill (BitVec.ofNat 3 n.val) (BitVec.ofNat 64 (2 ^ 63 + x.tags)) (accOf x (packList (widthOf x.desc) [v]))).setStream
      (BitVec.ofNat 3 n.val) (delivered x) := by
  subst hx
  simp only [Tile.streamPut, entryCap_vector (q := (wide n).val) n.isLt]
  refine (if_pos (Bool.or_eq_true_iff.mpr (h.imp decide_eq_true decide_eq_true))).trans ?_
  simp only [decide_eq_true_eq]
  rfl

theorem stream_streamPut_assembles (hcap : x.filled + 1 < capOf x.desc) (htot : x.next + 1 < dTotal x.desc) :
    (t.streamPut (wide n) [v] 0).ld.stream[n.val] = assembled x (packList (widthOf x.desc) [v]) := by
  rw [streamPut_assembles hx v hcap htot, setStream_stream _ (LoadForms.toNat_vectorCode n)]

theorem stream_streamPut_delivers (h : capOf x.desc ≤ x.filled + 1 ∨ dTotal x.desc ≤ x.next + 1) :
    (t.streamPut (wide n) [v] 0).ld.stream[n.val] = delivered x := by
  rw [streamPut_delivers hx v h, setStream_stream _ (LoadForms.toNat_vectorCode n)]

theorem streamPut_next : ((t.streamPut (wide n) [v] 0).ld.stream[n.val]).next = x.next + 1 := by
  by_cases h : capOf x.desc ≤ x.filled + 1 ∨ dTotal x.desc ≤ x.next + 1
  · rw [stream_streamPut_delivers hx v h, delivered]
  · rw [not_or, Nat.not_le, Nat.not_le] at h
    rw [stream_streamPut_assembles hx v h.1 h.2, assembled]

/-- The entry that the element completes is delivered to the stream's queue. -/
theorem streamPut_delivers_qv (h : capOf x.desc ≤ x.filled + 1 ∨ dTotal x.desc ≤ x.next + 1) (hv : v < 2 ^ widthOf x.desc) :
    (t.streamPut (wide n) [v] 0).fifo.qv[n] = t.fifo.qv[n].map fun e =>
      if e.ready = false ∧ e.tag = BitVec.ofNat 64 (2 ^ 63 + x.tags) then { e with val := accOf x v, ready := true, born := t.tcc - 1 } else e := by
  rw [streamPut_delivers hx v h, packList_singleton hv, Delivery.qFill_vector n _ _ (LoadForms.toNat_vectorCode n)]
  exact Vector.getElem_set_self _

end

/-! ## The obligation -/

/-- Settles O31, instruction by instruction. -/
theorem streamsRunTheirPattern : Obligations.StreamsRunTheirPattern := by
  unfold Obligations.StreamsRunTheirPattern
  refine ⟨fun s q a d => ⟨exec_sset_refused rfl, fun hphase hok hcons => ⟨exec_sset_misaligned rfl hphase hok hcons, ?sset⟩⟩,
    fun s q hw hl => ?sclr, fun s t n => ?element, fun t n v => ?put⟩
  case sset =>
    intro h
    refine ⟨_, exec_sset_applied rfl hphase hok hcons h, ?_⟩
    simp
  case sclr =>
    have hq := LoadForms.toNat_vectorCode q
    refine ⟨_, exec_sclr_clears (by simpa only [hq] using hw) hl, ?_⟩
    have hstream := setStream_stream (by omega) hq (s.cur.qClear (BitVec.ofNat 3 q.val))
      (cleared s.cur.ld.stream[(BitVec.ofNat 3 q.val).toNat])
    refine ⟨?_, ?_, congrArg (·.phase) hstream, congrArg (·.filled) hstream, ?_⟩ <;> rw [qClear_vector q hq] <;> rfl
  case element =>
    intro u x d at_ off bytes hphase hclear hord hres hsp hcbx hscale hcvt hw hpos hpad hfit
    have hpadded : padded d x.next = false := by
      obtain h | h := hpad
      · simp [padded, h]
      · simp [padded, Nat.not_le.mpr h]
    have hexec := exec_streamElement (n := wide n) rfl (LoadForms.toNat_vectorCode n) hphase hclear hord hres
    refine ⟨fun hc => ?_, fun hc hrep => ?_⟩
    · have hread := streamBytes_spad (s := s) (t := t) (n := wide n) (e := true) (va := at_.1) (len := bytes) hc hfit
      exact hexec.trans (congrArg Host.Outcome.next
        (streamNext_put (n := wide n) rfl rfl hpadded hw hsp n.isLt hcbx hscale hcvt hread))
    · have hread := streamBytes_claimed (s := s) (t := t) (n := wide n) (e := true) (va := at_.1) hpos hc
      refine ⟨_, hexec.trans (congrArg Host.Outcome.next (streamNext_faults (n := wide n) rfl rfl hpadded hw hsp hrep hread)), ?_⟩
      exact streamHalt_halts ..
  case put =>
    refine ⟨streamPut_next rfl v, fun hcap htot => ⟨?_, ?_, fun hv => ?_⟩, fun h => ⟨?_, ?_, ?_, streamPut_delivers_qv rfl v h⟩⟩
    · exact congrArg (·.fifo) (streamPut_assembles rfl v hcap htot)
    · exact congrArg (·.filled) (stream_streamPut_assembles rfl v hcap htot)
    · exact (congrArg (·.acc) (stream_streamPut_assembles rfl v hcap htot)).trans (congrArg (accOf t.ld.stream[n.val]) (packList_singleton hv))
    · exact congrArg (·.filled) (stream_streamPut_delivers rfl v h)
    · exact congrArg (·.acc) (stream_streamPut_delivers rfl v h)
    · exact congrArg (·.phase) (stream_streamPut_delivers rfl v h)

end Sys2Proof.StreamPatterns
